-- ==== Sys2Proof/Word.lean ====
section
/-! DEFINITION. The word types of the machine and the association map that holds sparse state (R1-R3). -/

namespace Sys2Proof

/-- A 64-bit register value (04 Table 5). -/
abbrev Word := BitVec 64

/-- One byte of memory (R2). -/
abbrev Byte := BitVec 8

/-- A 96-bit instruction word (R66). -/
abbrev InstrWord := BitVec 96

/-- The 256 bits of a v register (04 Table 5). -/
abbrev Lanes := BitVec 256

/-- Sparse state keyed by a number: pairs in ascending key order, one per key. -/
abbrev AMap (α : Type) := List (Nat × α)

/-- The entry at key `k`, if there is one. -/
def AMap.get {α : Type} : AMap α → Nat → Option α
  | [], _ => none
  | (j, x) :: m, k => if j = k then some x else AMap.get m k

/-- The entry at key `k`, or `d` where there is none. -/
def AMap.getD {α : Type} (m : AMap α) (k : Nat) (d : α) : α :=
  match AMap.get m k with
  | some x => x
  | none => d

/-- `m` with the entry at `k` set to `x`; ascending keys stay ascending. -/
def AMap.set {α : Type} : AMap α → Nat → α → AMap α
  | [], k, x => [(k, x)]
  | (j, y) :: m, k, x =>
    if j = k then (k, x) :: m
    else if k < j then (k, x) :: (j, y) :: m
    else (j, y) :: AMap.set m k x

/-- `m` without an entry at `k`. -/
def AMap.del {α : Type} : AMap α → Nat → AMap α
  | [], _ => []
  | (j, y) :: m, k => if j = k then AMap.del m k else (j, y) :: AMap.del m k

/-- The keys in order. -/
def AMap.keys {α : Type} (m : AMap α) : List Nat := m.map Prod.fst

/-- The entries in key order. -/
def AMap.vals {α : Type} (m : AMap α) : List α := m.map Prod.snd

/-- Sorted insertion of a number into a list without repeats. -/
def insertNat (n : Nat) : List Nat → List Nat
  | [] => [n]
  | k :: ks => if n = k then k :: ks else if n < k then n :: k :: ks else k :: insertNat n ks

end Sys2Proof
end

