-- ==== Sys2Proof/Machine/Bits.lean ====
section
/-! DEFINITION. Bit fields, sign extension and byte order (R2, R80, R81). -/

namespace Sys2Proof.Machine

/-- Bits [lo + len - 1 : lo] of a number (R2). -/
def fld (n lo len : Nat) : Nat := n / 2 ^ lo % 2 ^ len

/-- Bits [lo + len - 1 : lo] of a word. -/
def wfld (w : Word) (lo len : Nat) : Nat := fld w.toNat lo len

/-- The low `n` bits read as a signed number (R80 Sext, before it is written to a register). -/
def sextI (x n : Nat) : Int :=
  let y := x % 2 ^ n
  if 2 * y < 2 ^ n then (y : Int) else (y : Int) - 2 ^ n

/-- Bits [63:0] of an exact integer. -/
def wordOf (x : Int) : Word := BitVec.ofInt 64 x

/-- Sext(x, n) as a 64-bit word (R80). -/
def sextW (x n : Nat) : Word := wordOf (sextI x n)

/-- Zext(x, n) as a 64-bit word (R80). -/
def zextW (x n : Nat) : Word := BitVec.ofNat 64 (x % 2 ^ n)

/-- A word read as a signed number. -/
def signed (w : Word) : Int := w.toInt

/-- Little-endian bytes as a number (R2). -/
def ofBytes : List Byte → Nat
  | [] => 0
  | b :: bs => b.toNat + 256 * ofBytes bs

/-- The low `n` bytes of a number, lowest address first (R2). -/
def toBytes : Nat → Nat → List Byte
  | 0, _ => []
  | n + 1, x => BitVec.ofNat 8 x :: toBytes n (x / 256)

/-- Bit `i` of a number, as a number. -/
def bitN (n i : Nat) : Nat := n / 2 ^ i % 2

/-- `n` with bits [lo + len - 1 : lo] replaced by `x`. -/
def setFld (n lo len x : Nat) : Nat :=
  n - fld n lo len * 2 ^ lo + x % 2 ^ len * 2 ^ lo

/-- A Boolean as bit `i`. -/
def flagAt (b : Bool) (i : Nat) : Nat := if b then 2 ^ i else 0

/-- The number of significant bits of `n`, by fuel (0 for 0). -/
def bitLenAux : Nat → Nat → Nat
  | 0, _ => 0
  | k + 1, n => if n = 0 then 0 else bitLenAux k (n / 2) + 1

/-- floor(log2 n) + 1 for n > 0, and 0 for 0. -/
def bitLen (n : Nat) : Nat := if n = 0 then 0 else Nat.log2 n + 1

/-- The number of one bits among the low `k` bits. -/
def popCount : Nat → Nat → Nat
  | 0, _ => 0
  | k + 1, n => n % 2 + popCount k (n / 2)

/-- The number of trailing zero bits among the low `k` bits. -/
def trailZeros : Nat → Nat → Nat
  | 0, _ => 0
  | k + 1, n => if n % 2 = 1 then 0 else trailZeros k (n / 2) + 1

/-- The greatest integer r with r * r at most n: bit by bit, by fuel. -/
def isqrtAux : Nat → Nat → Nat → Nat
  | 0, _, r => r
  | k + 1, n, r => if (r + 2 ^ k) * (r + 2 ^ k) ≤ n then isqrtAux k n (r + 2 ^ k) else isqrtAux k n r

def isqrt (n : Nat) : Nat := isqrtAux (bitLen n / 2 + 1) n 0

/-- The greatest number of a list, or `d`. -/
def maxD (d : Nat) : List Nat → Nat
  | [] => d
  | x :: xs => max x (maxD d xs)

/-- The least number of a list, or `d`. -/
def minD (d : Nat) : List Nat → Nat
  | [] => d
  | x :: xs => min x (minD d xs)

/-- Replace entry `i` of a list. -/
def setAt {α : Type} : List α → Nat → α → List α
  | [], _, _ => []
  | _ :: xs, 0, y => y :: xs
  | x :: xs, i + 1, y => x :: setAt xs i y

/-- Entry `i` of a list, or `d`. -/
def atD {α : Type} (xs : List α) (i : Nat) (d : α) : α := xs.getD i d

/-- Fold over 0 to n - 1 in ascending order. -/
def foldUp {α : Type} (n : Nat) (f : Nat → α → α) (x : α) : α := (List.range n).foldl (fun a i => f i a) x

end Sys2Proof.Machine
end

