-- ==== Sys2Proof/Config.lean ====
section
/-! DEFINITION. What an implementation fixes and the values the spec leaves open. An opaque constant has no body:
nothing can evaluate it, and a statement about it holds whatever it is. -/

namespace Sys2Proof.Config

/-- R242: the bytes of a line (as one number) that was left under one key slot and generation and is read under
another: unrelated bytes. A free value (log 7). Arguments: slot and generation of the line, slot and generation of
the reader, the line, its bytes. -/
opaque recrypt (fromSlot fromGen toSlot toGen line bytes : Nat) : Nat

/-- R454: the store key of a key slot for one power-on, a 128-bit number. A free value (log 8). -/
opaque storeKey (boot slot : Nat) : Nat

/-- R450-R453: digests of firmware and fused configuration that the image carries, by die (log 8). -/
opaque measured (boot die : Nat) : Nat

/-- R453: the signature the responder makes over a transcript, as bytes (log 8). -/
opaque signature (transcript : List Byte) : List Byte

/-- R453: the certificate chain of slot 0 (log 8). -/
opaque certificate (boot : Nat) : List Byte

/-- R453: the nonces of the responder (log 8). -/
opaque nonce (n : Nat) : List Byte

/-- R450, R453: the SHA-512 digest of a byte string, where the module reports one (log 8). -/
opaque sha512 (bytes : List Byte) : Nat

/-- R151: the calibrated energy, in microjoules, that a meter update adds for a charter (log 9). -/
opaque energyOf (n : Nat) : Nat

/-- R461, R464: whether the sender of message `msg` of a flow asked for a receive completion, with its user value: the
transport header has no field for either (log 76). -/
opaque rsignal (flow msg : Nat) : Option Nat

/-- A free value of the n-th kind-less choice: every use reads the state's counter and advances it (log 6). -/
opaque freeValue (n : Nat) : Nat

/-- R467: what the drive answers to a configuration or memory read: an outside value (log 12). -/
opaque driveRead (n : Nat) : List Byte

/-- The module's die, cluster and core counts (R9-R14). -/
def dies : Nat := 16
def clusters : Nat := 512
def cores : Nat := 4096

/-- Pool size in bytes (R14, R145). -/
def poolSize : Nat := 0x60000

/-- The partition word that a core holds before any placement (log 15): 4 threads, 64 g, 32 v, 4 KiB of code. -/
def resetPart : Nat := 0x13F

end Sys2Proof.Config
end

