-- ==== Sys2Proof/Syntax.lean ====
section
/-! DEFINITION. The instructions of Myelo level 2 as the core sees them and the events of the module:
one constructor per row of the opcode table. The operand types hold what a form table accepts (R66-R74). -/

namespace Sys2Proof

/-- Guard and hints (R70, R71): every instruction word carries them. -/
structure Hdr where
  pred : Fin 8
  inv : Bool
  taken : Bool
  yields : Bool
  lastb : Bool
  lastc : Bool
  deriving DecidableEq, Repr

/-- Integer types 0 to 3 (04 Table 2). -/
inductive ITy where
  | i64 | i32 | i16 | i8
  deriving DecidableEq, Repr

/-- The integer types that a pair or tagged access takes (R256). -/
inductive PTy where
  | i64 | i32
  deriving DecidableEq, Repr

/-- The types of `amo` and `red` (R391). -/
inductive ATy where
  | i64 | i32 | f32
  deriving DecidableEq, Repr

/-- The types of `nred` (R391). -/
inductive NTy where
  | i64 | i32 | f32 | bf16
  deriving DecidableEq, Repr

/-- The four binary8 variants of types 6 to 9: signed finite, signed extended, unsigned finite, unsigned extended. -/
inductive QVar where
  | sf | se | uf | ue
  deriving DecidableEq, Repr

/-- Types that a vector instruction may carry, with the sub-field of 04 Table 2; `q v p` has precision p + 1. -/
inductive VTy where
  | int (t : ITy)
  | f32
  | bf16
  | q (v : QVar) (p : Fin 7)
  | i4
  | x (b : Fin 8)
  deriving DecidableEq, Repr

/-- The types of `vcmp`, whose sub-field holds the condition (R324). -/
inductive CTy where
  | int (t : ITy)
  | f32
  | bf16
  | q (v : QVar)
  deriving DecidableEq, Repr

/-- Rounding modes (04 Table 3). -/
inductive Rnd where
  | rne | rtz | rup | rdn | rna | sr | dyn
  deriving DecidableEq, Repr

/-- Compare conditions (10 Table 5). -/
inductive Cond where
  | eq | ne | lt | le | gt | ge | tst
  deriving DecidableEq, Repr

/-- Memory scopes (13 Table 2). -/
inductive Scope where
  | core | clu | die | mod | sys
  deriving DecidableEq, Repr

/-- Operations of `amo`, `red` and `nred` (20 Table 2). -/
inductive AOp where
  | swap | add | and | or | xor | min | max
  deriving DecidableEq, Repr

/-- A memory operand: base register and scaled offset (R72). -/
structure Mem where
  base : Fin 64
  off : BitVec 14
  deriving DecidableEq, Repr

/-- A g register or a 20-bit immediate. -/
inductive GSrc where
  | reg (r : Fin 64)
  | imm (v : BitVec 20)
  deriving DecidableEq, Repr

/-- A b register or a 20-bit immediate. -/
inductive BSrc where
  | reg (r : Fin 8)
  | imm (v : BitVec 20)
  deriving DecidableEq, Repr

/-- A p register, a g register or a 20-bit immediate. -/
inductive PSrc where
  | p (r : Fin 8)
  | g (r : Fin 64)
  | imm (v : BitVec 20)
  deriving DecidableEq, Repr

/-- A v register, a g register or a 20-bit immediate. -/
inductive VSrc where
  | v (r : Fin 32)
  | g (r : Fin 64)
  | imm (k : BitVec 20)
  deriving DecidableEq, Repr

/-- A v register or a g register. -/
inductive VGSrc where
  | v (r : Fin 32)
  | g (r : Fin 64)
  deriving DecidableEq, Repr

/-- The immediate of `bshare`: class, operand, and n - 1 (R128). -/
structure ShareSel where
  cls : Fin 64
  opnd : Fin 4
  n1 : Fin 4
  deriving DecidableEq, Repr

/-- The pairings of `bmov` (R129). -/
inductive BmovOp where
  | bFromG (d : Fin 8) (s : Fin 64)
  | bFromB (d : Fin 8) (s : Fin 8)
  | bFromI (d : Fin 8) (v : BitVec 20)
  | gFromB (d : Fin 64) (s : Fin 8)
  deriving DecidableEq, Repr

/-- The pairings of `grade` (R130). -/
inductive GradeOp where
  | gFromV (d : Fin 64) (s : Fin 32)
  | bFromV (d : Fin 8) (s : Fin 32)
  | vFromG (d : Fin 32) (s : Fin 64)
  deriving DecidableEq, Repr

/-- The sources of `vbcast` (R330). -/
inductive BcastOp where
  | fromG (s : Fin 64)
  | fromV (s : Fin 32) (k : GSrc)
  deriving DecidableEq, Repr

/-- The allocated control registers (04 Table 6). -/
inductive CtlNum where
  | pc | slot | coord | part | charter | gang | sill | feat | spaceid | gen | deadline
  | xpc | xcause | xaddr | xinfo | xvec | xstat | xscratch
  | clock | ptime | cycles | energy
  | frm | fflags | srseed
  | region | rsplits
  | blind | transom
  | tstate | tentry | treplays
  | deadmsg
  deriving DecidableEq, Repr

/-- What a translation is asked for (R248, R253). -/
inductive WalkKind where
  | read | write | fill
  deriving DecidableEq, Repr

/-- Where a SECDED error is found (R445). -/
inductive EccSite where
  | pool (core off : Nat)
  | dram (die off : Nat)
  | near (core line word : Nat)
  | tlb (core index : Nat)
  | clusterTlb (cluster : Nat) (which : Fin 3) (index : Nat)
  | portTlb (index : Nat)
  | queue (core slot : Nat)
  | unit (cluster : Nat)
  deriving DecidableEq, Repr

/-- What a relocation applies to its symbol's value (R56, 03 Table 2); `pcrel` names the section and offset of its
statement. -/
inductive RelFn where
  | plain | lo40 | hi24
  | bits (high low : Nat)
  | pcrel (sec off : Nat)
  deriving DecidableEq, Repr

/-- A record of a type-7 section (R57): the field in pieces, low bits first, each a bit of the image counted from byte
`file` and a width; its signedness, and the scale of a memory-operand offset (else 1); the symbol as a section of the
image with an offset, and the function applied. The layout of a record is not in the spec (log 120). -/
structure Reloc where
  file : Nat
  pieces : List (Nat × Nat)
  isSigned : Bool
  scale : Nat
  sec : Nat
  off : Int
  fn : RelFn
  deriving DecidableEq, Repr

/-- The instructions of the part and the events of the module: one constructor per row of the opcode table. -/
inductive Instr where
  | add (h : Hdr) (t : ITy) (sa : Bool) (a : Fin 64) (b : Fin 64) (c : GSrc)
  | sub (h : Hdr) (t : ITy) (sa : Bool) (a : Fin 64) (b : Fin 64) (c : GSrc)
  | mul (h : Hdr) (t : ITy) (sa : Bool) (a : Fin 64) (b : Fin 64) (c : GSrc)
  | mulh (h : Hdr) (t : ITy) (u : Bool) (a : Fin 64) (b : Fin 64) (c : GSrc)
  | mad (h : Hdr) (t : ITy) (sa : Bool) (a : Fin 64) (b : Fin 64) (c : GSrc)
  | div (h : Hdr) (t : ITy) (u : Bool) (a : Fin 64) (b : Fin 64) (c : GSrc)
  | rem (h : Hdr) (t : ITy) (u : Bool) (a : Fin 64) (b : Fin 64) (c : GSrc)
  | and (h : Hdr) (t : ITy) (a : Fin 64) (b : Fin 64) (c : GSrc)
  | or (h : Hdr) (t : ITy) (a : Fin 64) (b : Fin 64) (c : GSrc)
  | xor (h : Hdr) (t : ITy) (a : Fin 64) (b : Fin 64) (c : GSrc)
  | andn (h : Hdr) (t : ITy) (a : Fin 64) (b : Fin 64) (c : GSrc)
  | shl (h : Hdr) (t : ITy) (sa : Bool) (a : Fin 64) (b : Fin 64) (c : GSrc)
  | shr (h : Hdr) (t : ITy) (u : Bool) (a : Fin 64) (b : Fin 64) (c : GSrc)
  | rot (h : Hdr) (t : ITy) (a : Fin 64) (b : Fin 64) (c : GSrc)
  | min (h : Hdr) (t : ITy) (u : Bool) (a : Fin 64) (b : Fin 64) (c : GSrc)
  | max (h : Hdr) (t : ITy) (u : Bool) (a : Fin 64) (b : Fin 64) (c : GSrc)
  | abs (h : Hdr) (t : ITy) (sa : Bool) (a : Fin 64) (b : Fin 64)
  | clz (h : Hdr) (t : ITy) (a : Fin 64) (b : Fin 64)
  | ctz (h : Hdr) (t : ITy) (a : Fin 64) (b : Fin 64)
  | pop (h : Hdr) (t : ITy) (a : Fin 64) (b : Fin 64)
  | bext (h : Hdr) (u : Bool) (a : Fin 64) (b : Fin 64) (c : GSrc)
  | bins (h : Hdr) (a : Fin 64) (b : Fin 64) (c : GSrc)
  | extI (h : Hdr) (t : ITy) (u : Bool) (a : Fin 64) (b : Fin 64)
  | mov (h : Hdr) (a : Fin 64) (b : GSrc)
  | li (h : Hdr) (a : Fin 64) (w : BitVec 40)
  | lih (h : Hdr) (a : Fin 64) (w : BitVec 40)
  | lpc (h : Hdr) (a : Fin 64) (c : BitVec 20)
  | sel (h : Hdr) (n : Fin 8) (u : Bool) (a : Fin 64) (b : Fin 64) (c : GSrc)
  | cmp (h : Hdr) (t : ITy) (n : Cond) (u : Bool) (a : Fin 8) (b : Fin 64) (c : GSrc)
  | plog (h : Hdr) (n : Fin 8) (a : Fin 8) (b : Fin 8) (c : Fin 8)
  | pmov (h : Hdr) (u : Bool) (a : Fin 8) (b : PSrc)
  | pget (h : Hdr) (a : Fin 64) (b : Fin 8)
  | br (h : Hdr) (u : Bool) (a : Option (Fin 8)) (c : BitVec 20)
  | brl (h : Hdr) (u : Bool) (a : Option (Fin 8)) (c : BitVec 20)
  | jr (h : Hdr) (u : Bool) (a : Option (Fin 8)) (b : Fin 64) (c : GSrc)
  | jrl (h : Hdr) (u : Bool) (a : Option (Fin 8)) (b : Fin 64) (c : GSrc)
  | dbr (h : Hdr) (a : Fin 64) (c : BitVec 20)
  | ctlRd (h : Hdr) (a : Fin 64) (b : CtlNum)
  | ctlWr (h : Hdr) (a : CtlNum) (b : GSrc)
  | ctlSet (h : Hdr) (a : CtlNum) (b : GSrc)
  | ctlClr (h : Hdr) (a : CtlNum) (b : GSrc)
  | trap (h : Hdr) (c : Option (BitVec 20))
  | eret (h : Hdr)
  | sysc (h : Hdr) (c : Option (BitVec 20))
  | halt (h : Hdr)
  | nop (h : Hdr)
  | yieldI (h : Hdr)
  | ifence (h : Hdr)
  | ifenceFill (h : Hdr) (a : Fin 64) (b : Fin 64) (c : GSrc)
  | gangShed (h : Hdr)
  | gangJoin (h : Hdr)
  | demand (h : Hdr) (a : GSrc) (b : BSrc)
  | settle (h : Hdr)
  | bshare (h : Hdr) (a : Fin 8) (b : Fin 8) (c : ShareSel)
  | bmov (h : Hdr) (m : BmovOp)
  | grade (h : Hdr) (m : GradeOp)
  | sensLd (h : Hdr) (a : GSrc) (b : Mem)
  | sensLdReset (h : Hdr) (a : GSrc)
  | ld (h : Hdr) (t : ITy) (u : Bool) (a : Fin 64) (b : Mem)
  | st (h : Hdr) (t : ITy) (a : Mem) (b : GSrc)
  | ldAcq (h : Hdr) (t : ITy) (n : Scope) (u : Bool) (a : Fin 64) (b : Mem)
  | stRel (h : Hdr) (t : ITy) (n : Scope) (a : Mem) (b : GSrc)
  | ldWf (h : Hdr) (t : PTy) (n : Bool) (u : Bool) (a : Fin 64) (b : Mem)
  | stWe (h : Hdr) (t : PTy) (a : Mem) (b : GSrc)
  | tagRd (h : Hdr) (a : Fin 64) (b : Mem)
  | tagFull (h : Hdr) (a : Mem) (b : GSrc)
  | tagEmpty (h : Hdr) (a : Mem) (b : GSrc)
  | pref (h : Hdr) (a : Mem)
  | cfl (h : Hdr) (a : Mem)
  | cflEvict (h : Hdr) (a : Mem)
  | cinv (h : Hdr) (a : Mem)
  | cinvAll (h : Hdr)
  | fence (h : Hdr) (n : Scope)
  | fenceAcq (h : Hdr) (n : Scope)
  | fenceRel (h : Hdr) (n : Scope)
  | region (h : Hdr)
  | regionForce (h : Hdr)
  | regionDrop (h : Hdr)
  | ldPair (h : Hdr) (t : PTy) (u : Bool) (a : Fin 64) (b : Fin 64) (c : Mem)
  | stPair (h : Hdr) (t : PTy) (a : Mem) (b : Fin 64) (c : Fin 64)
  | launch (h : Hdr) (a : Fin 64) (b : Mem)
  | doneI (h : Hdr)
  | nexttile (h : Hdr) (a : GSrc)
  | ringClaim (h : Hdr) (u : Bool) (a : Fin 64) (b : Bool)
  | ringPost (h : Hdr) (a : Fin 64) (b : Fin 64)
  | ringTake (h : Hdr) (u : Bool) (a : Fin 64) (b : Bool)
  | ringFree (h : Hdr) (a : Fin 64) (b : Fin 64)
  | ringStat (h : Hdr) (a : Fin 64) (b : Bool)
  | copy (h : Hdr) (a : Fin 64) (b : Mem)
  | copyDeal (h : Hdr) (a : Fin 64) (b : Mem) (c : GSrc)
  | shutQ (h : Hdr) (a : Fin 64) (b : Fin 64)
  | shutQDrop (h : Hdr) (a : Fin 64) (b : Fin 64)
  | copyResume (h : Hdr) (a : Fin 64) (b : Mem) (c : Fin 64)
  | mx (h : Hdr) (a : Fin 64) (b : Mem)
  | accZero (h : Hdr) (a : Fin 64) (b : GSrc) (c : GSrc)
  | cnPut (h : Hdr) (a : Fin 64) (b : Mem) (c : Fin 64)
  | cnGet (h : Hdr) (a : Fin 64) (b : Mem)
  | cnGetRef (h : Hdr) (a : Fin 64) (b : Mem)
  | cnRef (h : Hdr) (a : Fin 64) (b : Mem)
  | cnUnref (h : Hdr) (a : Fin 64) (b : Mem)
  | cnNode (h : Hdr) (a : Fin 64) (b : Mem) (c : Fin 64)
  | cnSwap (h : Hdr) (a : Fin 64) (b : Mem) (c : Fin 64)
  | cnRoot (h : Hdr) (a : Fin 64) (b : Mem) (c : Fin 64)
  | cnRootRef (h : Hdr) (a : Fin 64) (b : Mem) (c : Fin 64)
  | cnOut (h : Hdr) (a : Fin 64) (b : Mem) (c : Fin 64)
  | cnCfg (h : Hdr) (a : Fin 64) (b : Mem)
  | cnCfgStat (h : Hdr) (a : Fin 64) (b : Fin 5)
  | amo (h : Hdr) (t : ATy) (n : AOp) (r : Rnd) (u : Bool) (a : Fin 64) (b : Mem) (c : GSrc)
  | amoCas (h : Hdr) (t : PTy) (a : Fin 64) (b : Mem) (c : Fin 64)
  | red (h : Hdr) (t : ATy) (n : AOp) (r : Rnd) (u : Bool) (a : Mem) (b : GSrc) (c : Fin 64)
  | bupd (h : Hdr) (n : Fin 4) (u : Bool) (a : Mem) (b : GSrc)
  | bupdR (h : Hdr) (n : Fin 4) (u : Bool) (a : Fin 64) (b : Mem) (c : GSrc)
  | bcfg (h : Hdr) (a : Fin 4) (b : Fin 64) (c : Fin 14)
  | vbupd (h : Hdr) (n : Fin 4) (u : Bool) (a : Mem) (b : Fin 32) (c : Fin 32)
  | barInit (h : Hdr) (a : Mem) (b : GSrc)
  | barArr (h : Hdr) (a : Fin 64) (b : Mem) (c : GSrc)
  | barWait (h : Hdr) (a : Mem) (b : GSrc)
  | barTest (h : Hdr) (a : Fin 64) (b : Mem)
  | tbar (h : Hdr) (a : GSrc) (c : GSrc)
  | nred (h : Hdr) (t : NTy) (n : AOp) (r : Rnd) (u : Bool) (a : GSrc) (b : Fin 64) (c : GSrc)
  | wait (h : Hdr) (a : Fin 64) (b : Mem) (c : Fin 64)
  | pause (h : Hdr) (a : GSrc)
  | msgSend (h : Hdr) (a : Fin 64) (b : Fin 64) (c : GSrc)
  | hatchPut (h : Hdr) (b : GSrc)
  | hatchGet (h : Hdr) (a : Fin 64)
  | hatchFree (h : Hdr) (a : Fin 64)
  | jobPoll (h : Hdr) (a : Fin 64) (b : GSrc) (c : Bool)
  | jobPollAcq (h : Hdr) (a : Fin 64) (b : GSrc) (c : Bool)
  | jobCancel (h : Hdr) (a : Fin 64) (b : GSrc) (c : Bool)
  | vld (h : Hdr) (a : Fin 32) (b : Mem) (c : GSrc)
  | vst (h : Hdr) (a : Mem) (b : Fin 32)
  | vadd (h : Hdr) (t : VTy) (r : Rnd) (sa : Bool) (a : Fin 32) (b : Fin 32) (c : VSrc)
  | vsub (h : Hdr) (t : VTy) (r : Rnd) (sa : Bool) (a : Fin 32) (b : Fin 32) (c : VSrc)
  | vmul (h : Hdr) (t : VTy) (r : Rnd) (sa : Bool) (a : Fin 32) (b : Fin 32) (c : VSrc)
  | vfma (h : Hdr) (t : VTy) (r : Rnd) (sa : Bool) (a : Fin 32) (b : Fin 32) (c : VGSrc)
  | vfms (h : Hdr) (t : VTy) (r : Rnd) (sa : Bool) (a : Fin 32) (b : Fin 32) (c : VGSrc)
  | vnfma (h : Hdr) (t : VTy) (r : Rnd) (sa : Bool) (a : Fin 32) (b : Fin 32) (c : VGSrc)
  | vmin (h : Hdr) (t : VTy) (u : Bool) (a : Fin 32) (b : Fin 32) (c : VSrc)
  | vmax (h : Hdr) (t : VTy) (u : Bool) (a : Fin 32) (b : Fin 32) (c : VSrc)
  | vabs (h : Hdr) (t : VTy) (sa : Bool) (a : Fin 32) (b : Fin 32)
  | vneg (h : Hdr) (t : VTy) (sa : Bool) (a : Fin 32) (b : Fin 32)
  | vcvt (h : Hdr) (t : VTy) (r : Rnd) (sa : Bool) (a : Fin 32) (b : Fin 32) (c : VTy)
  | vsum (h : Hdr) (t : VTy) (r : Rnd) (sa : Bool) (a : Fin 32) (b : Fin 32)
  | vdot (h : Hdr) (t : VTy) (r : Rnd) (sa : Bool) (a : Fin 32) (b : Fin 32) (c : VGSrc)
  | vcmp (h : Hdr) (t : CTy) (n : Cond) (u : Bool) (a : Fin 32) (b : Fin 32) (c : VSrc)
  | vsel (h : Hdr) (t : ITy) (a : Fin 32) (b : Fin 32) (c : VGSrc)
  | vand (h : Hdr) (a : Fin 32) (b : Fin 32) (c : VGSrc)
  | vor (h : Hdr) (a : Fin 32) (b : Fin 32) (c : VGSrc)
  | vxor (h : Hdr) (a : Fin 32) (b : Fin 32) (c : VGSrc)
  | vshl (h : Hdr) (t : ITy) (sa : Bool) (a : Fin 32) (b : Fin 32) (c : VSrc)
  | vshr (h : Hdr) (t : ITy) (u : Bool) (a : Fin 32) (b : Fin 32) (c : VSrc)
  | vbcast (h : Hdr) (t : VTy) (a : Fin 32) (m : BcastOp)
  | vext (h : Hdr) (t : VTy) (u : Bool) (a : Fin 64) (b : Fin 32) (c : GSrc)
  | vins (h : Hdr) (t : VTy) (a : Fin 32) (b : Fin 64) (c : GSrc)
  | vpack (h : Hdr) (t : VTy) (r : Rnd) (sa : Bool) (a : Fin 32) (b : Fin 32) (c : Fin 32)
  | vunpack (h : Hdr) (t : VTy) (a : Fin 32) (b : Fin 32) (c : VTy) (hi : Bool)
  | vperm (h : Hdr) (t : ITy) (a : Fin 32) (b : Fin 32) (c : Fin 32)
  | vmr (h : Hdr) (t : VTy) (r : Rnd) (sa : Bool) (a : Fin 32) (b : Fin 32) (c : Fin 32)
  | vlog (h : Hdr) (t : VTy) (r : Rnd) (sa : Bool) (a : Fin 32) (b : Fin 32)
  | valog (h : Hdr) (t : VTy) (r : Rnd) (sa : Bool) (a : Fin 32) (b : Fin 32)
  | vexp2 (h : Hdr) (t : VTy) (r : Rnd) (sa : Bool) (a : Fin 32) (b : Fin 32)
  | vlog2 (h : Hdr) (t : VTy) (r : Rnd) (sa : Bool) (a : Fin 32) (b : Fin 32)
  | vrcp (h : Hdr) (t : VTy) (r : Rnd) (sa : Bool) (a : Fin 32) (b : Fin 32)
  | vsqrt (h : Hdr) (t : VTy) (r : Rnd) (sa : Bool) (a : Fin 32) (b : Fin 32)
  | vrsqrt (h : Hdr) (t : VTy) (r : Rnd) (sa : Bool) (a : Fin 32) (b : Fin 32)
  | vpow (h : Hdr) (t : VTy) (r : Rnd) (sa : Bool) (a : Fin 32) (b : Fin 32) (c : VGSrc)
  | vsigm (h : Hdr) (t : VTy) (r : Rnd) (sa : Bool) (a : Fin 32) (b : Fin 32)
  | vtanh (h : Hdr) (t : VTy) (r : Rnd) (sa : Bool) (a : Fin 32) (b : Fin 32)
  | scfg (h : Hdr) (a : Fin 4) (b : Mem)
  | sbind (h : Hdr) (a : Fin 4)
  | sfree (h : Hdr) (a : Fin 4)
  | vrpt (h : Hdr) (a : GSrc) (b : Fin 15)
  | vsync (h : Hdr)
  | ctxSave (h : Hdr) (a : Fin 64) (b : Mem)
  | ctxLoad (h : Hdr) (a : Mem)
  | ctxDrop (h : Hdr) (a : Fin 64)
  /-- PIPE_CYCLE (R182). One cycle of the pipe of `core`. -/
  | pipeCycle (core : Nat)
  /-- PIPE_TIME_SLICE (R194). The thread in the pipe of `core` has held it for 65,536 cycles while another slot is ready. -/
  | pipeTimeSlice (core : Nat)
  /-- PARKED_ANSWER (R261). The answer of a parked access arrives at the slot. -/
  | parkedAnswer (core : Nat) (slot : Nat)
  /-- TAG_WAKE (R276). A tag of the pool line at offset `line` changed: its waiters become ready. -/
  | tagWake (core : Nat) (line : Nat)
  /-- PEER_TAGGED_REQUEST (R277). The pool of `core` answers the first held tagged request that its tags allow. -/
  | peerTaggedRequest (core : Nat)
  /-- PAUSE_EXPIRY (R410). The cycles of a pause have passed. -/
  | pauseExpiry (core : Nat) (slot : Nat)
  /-- SLEEP_EXPIRY (R224). The clock reached the tick of system call 2. -/
  | sleepExpiry (core : Nat) (slot : Nat)
  /-- WAIT_TIMEOUT (R409). The clock reached the tick of a parked `wait`. -/
  | waitTimeout (core : Nat) (slot : Nat)
  /-- TIMER_INTERRUPT (R431). ptime has come: interrupt 0x41 becomes pending. -/
  | timerInterrupt (core : Nat) (slot : Nat)
  /-- SIDING_ISSUE (R314). The siding of `core` issues one packet. -/
  | sidingIssue (core : Nat)
  /-- TLB_WALK (R248). A walker translates a miss of the core's cluster. -/
  | tlbWalk (core : Nat) (space : Nat) (va : Word) (kind : WalkKind)
  /-- WALK_SERVICE_RELEASE (R253). The resident kernel releases the issuer of walk request `id`. -/
  | walkServiceRelease (id : Nat)
  /-- WALK_SERVICE_DECLINE (R253). The resident kernel declines walk request `id`. -/
  | walkServiceDecline (id : Nat)
  /-- SHOOTDOWN_PAGE (R254). A shoot-down of kind 0 starts. -/
  | shootdownPage (set : Nat) (space : Nat) (addr : Word) (ispace : Bool)
  /-- SHOOTDOWN_RANGE (R254). A shoot-down of kind 1 starts. -/
  | shootdownRange (set : Nat) (space : Nat) (addr : Word) (n : Nat) (ispace : Bool)
  /-- SHOOTDOWN_SPACE (R254). A shoot-down of kind 2 starts. -/
  | shootdownSpace (set : Nat) (space : Nat) (ispace : Bool)
  /-- SHOOTDOWN_ALL (R254). A shoot-down of kind 3 starts. -/
  | shootdownAll (set : Nat) (ispace : Bool)
  /-- SHOOTDOWN_COMPLETE (R255). Every TLB has acknowledged the shoot-down. -/
  | shootdownComplete (set : Nat)
  /-- WQ_DISPATCH (R381). Step M5: the oldest write of a writer's queue enters its path. -/
  | wqDispatch (writer : Nat)
  /-- PATH_PERFORM (R381). Step M6: the head packet of a path queue performs at its home. -/
  | pathPerform (src : Nat) (dst : Nat) (idx : Nat)
  /-- NEAR_CACHE_FILL_EVICT (R381). Step M13: a near cache takes or drops a line. -/
  | nearCacheFillEvict (core : Nat) (line : Nat) (keyslot : Nat) (fill : Bool)
  /-- RELEASE_WAIT_END (R381). Step M11: the wait of a pending release ends. -/
  | releaseWaitEnd (core : Nat) (slot : Nat)
  /-- COPY_JOB_UNIT (R297). The copy unit moves the next unit of its chosen job. -/
  | copyJobUnit (cluster : Nat)
  /-- COPY_JOB_FINAL (R300). Step M17 of a copy job. -/
  | copyJobFinal (cluster : Nat) (id : Nat)
  /-- MATRIX_TILE (R337). The matrix engine computes the next tile of its chosen job. -/
  | matrixTile (cluster : Nat)
  /-- MATRIX_JOB_FINAL (R346). Step M17 of a matrix job. -/
  | matrixJobFinal (cluster : Nat) (id : Nat)
  /-- MATRIX_SHADOW_REPLAY (R349). A released shadowed job is restored and replayed from tile 0. -/
  | matrixShadowReplay (cluster : Nat) (id : Nat)
  /-- ACC_ZERO_JOB (R352). An acc.zero job clears its tiles. -/
  | accZeroJob (cluster : Nat) (id : Nat)
  /-- CN_OUT_JOB (R376). A copy-out job writes its leaves. -/
  | cnOutJob (cluster : Nat) (id : Nat)
  /-- CONTENT_HOME_REQUEST (R367). The home performs the content-store request that the slot sent. -/
  | contentHomeRequest (core : Nat) (slot : Nat)
  /-- CONTENT_COUNT_MESSAGE (R368). The first count message from home `src` arrives at home `dst`. -/
  | contentCountMessage (src : Nat) (dst : Nat)
  /-- RECLAIM (R363). The reclaim engine of a home takes its next queued entry. -/
  | reclaim (space : Nat) (home : Nat)
  /-- BANK_UPDATE_APPLY (R399). A bank update unit applies the next accepted update of a pool. -/
  | bankUpdateApply (core : Nat)
  /-- BARRIER_ARRIVAL (R403). An arrival reaches the barrier at pool offset `off`. -/
  | barrierArrival (core : Nat) (off : Nat) (count : Nat)
  /-- TREE_EPISODE_COMPLETE (R406). A tree episode with all its arrivals delivers its answers. -/
  | treeEpisodeComplete (die : Nat) (key : Nat)
  /-- MSG_DELIVER (R412). The next message for a slot of `core` is delivered, waits, or becomes a dead letter. -/
  | msgDeliver (core : Nat)
  /-- NEXTTILE_ANSWER (R156). The distributor answers the oldest tile query. -/
  | nexttileAnswer
  /-- LAUNCH_LATCH (R161). An 8-byte write reaches the launch window; a write of offset 56 latches the slot. -/
  | launchLatch (slot : Nat) (off : Nat) (value : Word)
  /-- LAUNCH_ACCEPT (R138). The dispatcher checks the oldest submitted packet and accepts or refuses it. -/
  | launchAccept
  /-- LAUNCH_PLACE (R140). The dispatcher places the first ready charter that fits. -/
  | launchPlace
  /-- INSTANCE_START (R146). The placer starts the next granted instance. -/
  | instanceStart
  /-- GOVERNOR_SAMPLE (R150). A governor samples the rings it holds. -/
  | governorSample (cluster : Nat)
  /-- METER_UPDATE (R151). The energy meters of a stage and of the charters above it add what was counted; `dram` counts
  bytes that a unit moved for the stage and no step shows, as the data of a discarded prediction (R252; log 99). -/
  | meterUpdate (launch : Nat) (idx : Nat) (dram : Nat)
  /-- DEADLINE_MISS (R143). The reference time has passed a charter's effective deadline. -/
  | deadlineMiss (launch : Nat) (idx : Nat)
  /-- PREEMPT (R434). A cluster's gangs are taken off it. -/
  | preempt (cluster : Nat) (reason : Nat)
  /-- RESTORE (R438). A saved gang set is put back on a free cluster. -/
  | restore (saved : Nat) (cluster : Nat)
  /-- CHARTER_COMPLETE (R444). A charter that has ended has its completion record written. -/
  | charterComplete (launch : Nat) (idx : Nat)
  /-- HOST_ACK (R134). The next host message is of type 0x01 (or is taken as one). -/
  | hostAck
  /-- REPLAY_REQUEST (R135). The next host message is of type 0x02. -/
  | replayRequest
  /-- CANCEL (R143). The next host message is of type 0x03. -/
  | cancel
  /-- QUIESCE_GRACE_EXPIRY (R449). The 100 microseconds of phase 2 have passed. -/
  | quiesceGraceExpiry (die : Nat)
  /-- DIE_RESUME (R449). Phase 6: the homes serve again. -/
  | dieResume (die : Nat)
  /-- RAW_SEND (R466). A port sends the next raw entry. -/
  | rawSend (port : Nat)
  /-- FLOW_POLL (R459). The microsecond poll of a flow. -/
  | flowPoll (flow : Nat)
  /-- WORK_REQUEST (R461). The port takes the next work request of a flow. -/
  | workRequest (flow : Nat)
  /-- RELEASE_PERFORM (R463). The held packet of a release message performs. -/
  | releasePerform (flow : Nat)
  /-- RTO_EXPIRY (R462). RTO ticks passed without an acknowledgement. -/
  | rtoExpiry (flow : Nat) (path : Nat)
  /-- PATH_RETRY (R462). A down path is tried again. -/
  | pathRetry (flow : Nat) (path : Nat)
  /-- ACK_TIMER (R462). An acknowledgement is due. -/
  | ackTimer (flow : Nat) (path : Nat)
  /-- COMPLETION_ENTRY (R464). The next completion entry of a flow is written. -/
  | completionEntry (flow : Nat)
  /-- DRIVE_SERVICE_TIMEOUT (R468). A drive request was not serviced within 10 ms. -/
  | driveServiceTimeout (id : Nat)
  /-- REFUSED_REQUEST_RETRY (R277). A refused tagged request is due again after 64 cycles. -/
  | refusedRequestRetry (core : Nat) (slot : Nat)
  /-- DQHEAD_WRITE (R132). The host advances DQHEAD. -/
  | dqheadWrite (value : Word)
  /-- RING_CMD_POST (R158). An outside producer posts n slots. -/
  | ringCmdPost (n : Nat)
  /-- RING_CMD_RETIRE (R158). An outside consumer retires n slots. -/
  | ringCmdRetire (n : Nat)
  /-- RING_CMD_CLOSE (R158). An outside producer closes its ring. -/
  | ringCmdClose
  /-- RING_CMD_SELECT (R159). RCRING and RCSPACE are written, which refreshes the ring counters. -/
  | ringCmdSelect (ring : Word) (space : Nat)
  /-- FENCE_CLUSTER (R448). A write of FENCE with go. -/
  | fenceCluster (cluster : Nat)
  /-- DBGSIG (R431). A write of DBGSIG with go. -/
  | dbgsig (core : Nat) (slot : Nat) (code : Nat)
  /-- DBGREL (R429). A write of DBGREL with go. -/
  | dbgrel (core : Nat) (slot : Nat)
  /-- KEY_INSTALL (R454). KEYCMD operation 1. -/
  | keyInstall (slot : Nat)
  /-- KEY_REKEY (R455). KEYCMD operation 2. -/
  | keyRekey (slot : Nat)
  /-- DIERESET (R449). A write of DIERESET with bit 31. -/
  | diereset (die : Nat)
  /-- QUIESCE_DRAIN_DONE (R449). Phase 4 has drained; the die resets and is measured. `bad` are the lines that
  could not be written. -/
  | quiesceDrainDone (die : Nat) (digestOk : Bool) (bad : List Nat)
  /-- ECC_ERROR (R445). A SECDED error is found. -/
  | eccError (site : EccSite) (double : Bool) (consumed : Bool)
  /-- LIMITER_WINDOW (R447). A 1 ms window of the power limiter ends. -/
  | limiterWindow (watts : Nat) (withheld : Nat) (thermal : Bool)
  /-- POWER_ON (R450). The trust die's boot ROM has checked the image. -/
  | powerOn (imageOk : Bool)
  /-- DIE_MEASURE (R451). The trust die measures a die before releasing it. -/
  | dieMeasure (die : Nat) (digestOk : Bool)
  /-- GET_VERSION (R453). An SPDM GET_VERSION request. -/
  | getVersion (req : List Byte)
  /-- GET_CAPABILITIES (R453). An SPDM GET_CAPABILITIES request. -/
  | getCapabilities (req : List Byte)
  /-- NEGOTIATE_ALGORITHMS (R453). An SPDM NEGOTIATE_ALGORITHMS request. -/
  | negotiateAlgorithms (req : List Byte)
  /-- GET_DIGESTS (R453). An SPDM GET_DIGESTS request. -/
  | getDigests (req : List Byte)
  /-- GET_CERTIFICATE (R453). An SPDM GET_CERTIFICATE request. -/
  | getCertificate (req : List Byte)
  /-- CHALLENGE (R453). An SPDM CHALLENGE request. -/
  | challenge (req : List Byte)
  /-- GET_MEASUREMENTS (R453). An SPDM GET_MEASUREMENTS request. -/
  | getMeasurements (req : List Byte)
  /-- SPDM_UNSUPPORTED (R453). A request the responder does not support. -/
  | spdmUnsupported (req : List Byte)
  /-- IMAGE_LOAD (R41). The resident kernel loads a .ulx image; `relocs` and `charters` are what it
  reads in the sections of types 7 and 4, whose inner order the manual leaves to the tools. -/
  | imageLoad (space : Nat) (image : List Byte) (relocs : List Reloc) (charters : List Nat)
  /-- HOST_MEMORY_REQUEST (R244). A host request to module memory. -/
  | hostMemoryRequest (pasid : Option Nat) (addr : Word) (len : Nat) (data : Option (List Byte))
  /-- FRAME_RECEIVE (R456). A frame arrives at a port. -/
  | frameReceive (port : Nat) (frame : List Byte) (fcsOk : Bool)
  /-- TXTS_READ (R458). A read of TXTS removes its entry. -/
  | txtsRead (port : Nat)
  /-- DOORBELL (R459). DOORBELL names a flow. -/
  | doorbell (flow : Nat)
  /-- WRITE (R463). A WRITE packet is handled at the receiver. -/
  | writeI (port : Nat) (frame : List Byte)
  /-- READREQ (R461). A READREQ packet is handled at the responder. -/
  | readreq (port : Nat) (frame : List Byte)
  /-- READRESP (R461). A READRESP packet is handled at the requester. -/
  | readresp (port : Nat) (frame : List Byte)
  /-- ACK (R462). An ACK packet is handled. -/
  | ack (port : Nat) (frame : List Byte)
  /-- MARKER (R463). A MARKER packet is handled. -/
  | marker (port : Nat) (frame : List Byte)
  /-- NACK (R462). A NACK packet is handled. -/
  | nack (port : Nat) (frame : List Byte)
  /-- FLOW_ERROR (R465). A flow goes into error. -/
  | flowError (flow : Nat)
  /-- STORAGE_RETRAIN (R467). A write of retrain. -/
  | storageRetrain
  /-- DRIVE_MEMORY_REQUEST (R468). A memory request of the drive. -/
  | driveMemoryRequest (addr : Word) (len : Nat) (data : Option (List Byte))
  /-- DRIVE_MSIX (R470). The drive writes an MSI-X vector. -/
  | driveMsix (vector : Nat)
  /-- SFAULT_READ (R469). A read of SFAULT clears it. -/
  | sfaultRead
  /-- SYSTEM_CORE_DRIVE_ACCESS (R468). A system core reaches the drive through a window. -/
  | systemCoreDriveAccess (core : Nat) (config : Bool) (off : Nat) (len : Nat) (data : Option (List Byte))
  /-- REGISTER_WRITE (R160). An aligned 8-byte write reaches the management window. -/
  | registerWrite (off : Nat) (value : Word)
  /-- PORT_LINK_CHANGE (R458). The link of a port changes. -/
  | portLinkChange (port : Nat) (up : Bool) (fec : Bool) (aligned : Bool)
  /-- STORAGE_LINK_CHANGE (R467). The storage link changes. -/
  | storageLinkChange (up : Bool) (rate : Nat) (width : Nat) (flit : Bool)
  /-- ADVANCED_ERROR_REPORTING (R467). Advanced Error Reporting interrupts a system core. -/
  | advancedErrorReporting (core : Nat)
  /-- IMAGE_UPDATE (R450). A new firmware image is offered. -/
  | imageUpdate (image : List Byte)
  /-- TIMESET (R459). A write of TIMESET. -/
  | timeset (value : Word)
  /-- DQBASE_WRITE (R132). The host writes DQBASE. -/
  | dqbaseWrite (value : Word)
  /-- SYSTEM_CORE_MEMORY_ACCESS (R244). A system core reads or writes physical memory. -/
  | systemCoreMemoryAccess (core : Nat) (space : Nat) (pa : Nat) (len : Nat) (data : Option (List Byte))
  deriving DecidableEq, Repr

end Sys2Proof
end

