-- ==== Sys2Proof/Machine/State.lean ====
section
/-! DEFINITION. The state of the module as plain data: everything the spec gives the machine, one record per part
(INVENTORY.md lists each field with its rule and reset value). Parts that are not listed in a map stand at their
reset record. -/

namespace Sys2Proof.Machine

/-! ## Threads -/

/-- A v register with its grade tag (04 Table 5). -/
structure VVal where
  bits : Lanes
  grade : BitVec 16
  deriving DecidableEq, Repr

/-- The control registers that belong to a thread slot (04 Table 6, 24 Table 1). -/
structure Ctl where
  xpc : Word
  xcause : BitVec 8
  xaddr : Word
  xinfo : Word
  xvec : Word
  xscratch : Word
  ppriv : Bool
  pie : Bool
  ie : Bool
  itimer : Bool
  imsg : Bool
  ptime : Word
  cycles : Word
  frm : BitVec 3
  fflags : BitVec 6
  srseed : Word
  rsplits : Word
  deriving DecidableEq, Repr

/-- The tolerant region (06 Table 6), the widest deferred release (R275; 0 none, else scope code + 1) and the
sensitivity table (R111; key 3k + j, absent entries as 06 Table 2). -/
structure Tol where
  root : BitVec 16
  tree : BitVec 19
  tight : Nat
  deficit : Nat
  short : Bool
  exactpass : Bool
  isOpen : Bool
  tentry : Word
  treplays : Nat
  deferred : Nat
  sens : AMap Int
  deriving DecidableEq, Repr

/-- What a placement fixes for a slot (R146, 04 Table 6). -/
structure Place where
  charter : Word
  feat : Word
  spaceid : Nat
  keyslot : Nat
  deadline : Word
  launch : Nat
  node : Nat
  gang : Nat
  gsize : Nat
  gpos : Nat
  leader : Nat
  shed : Bool
  gen : BitVec 32
  deriving DecidableEq, Repr

/-- One line of the region buffer (R263): its addresses and the bytes written, by offset in the line. `shaded` lists
the offsets that the thread has since written past the buffer, from a handler (R262, R264), and `gone` is set when the
page no longer translated after a shoot-down, so that the close walks again (R255). -/
structure HeldLine where
  pa : Nat
  va : Nat
  key : Nat
  bytes : AMap Byte
  shaded : List Nat
  gone : Bool
  deriving DecidableEq, Repr

/-- One entry of the read set (R263). -/
structure ReadLine where
  pa : Nat
  va : Nat
  rv : Nat
  mask : Nat
  deriving DecidableEq, Repr

/-- The memory region of a thread (R263-R267, R121): lines are keyed by home line. -/
structure Region where
  held : AMap HeldLine
  reads : AMap ReadLine
  written : List Nat
  conflict : Option (Nat × Nat)
  deriving DecidableEq, Repr

/-- What a queued global write does at its home: store bytes, or combine (R263, R395). -/
inductive WriteOp where
  | store (bytes : List Byte)
  | reduce (op : AOp) (ty : ATy) (uns : Bool) (rnd : Nat) (val : Nat) (bar : Option (Nat × Nat))
  deriving DecidableEq, Repr

/-- A global write waiting in a write queue (M3): module DRAM by home line and offset, or host memory by address. -/
structure QWrite where
  host : Bool
  line : Nat
  off : Nat
  checked : Bool
  key : Nat
  op : WriteOp
  deriving DecidableEq, Repr

/-- A release that waits for earlier writes (M10, M11): the instruction's pc, its scope, and the markers it needs. -/
structure Release where
  pc : Word
  scope : Scope
  sent : Bool
  need : Nat
  deriving DecidableEq, Repr

/-- The answer entry (R261): the access it was made for (kind 0 read, 1 write, 2 acquire, 3 line maintenance) and,
once answered, the bytes read with the home version and the word mask that the read set takes, and the poisoned unit
that supplied them (0 for none). -/
structure Answer where
  pc : Word
  addr : Word
  len : Nat
  kind : Nat
  ready : Bool
  bytes : List Byte
  rv : Nat
  mask : Nat
  poison : Nat
  deriving DecidableEq, Repr

/-- A stream (R316-R318): descriptor, flags, position and the last packet moved. -/
structure Stream where
  desc : Nat
  configured : Bool
  bound : Bool
  i0 : Nat
  i1 : Nat
  i2 : Nat
  i3 : Nat
  last : Option VVal
  deriving DecidableEq, Repr

/-- One handed-off vector instruction with the scalar values it held (R314) and the privilege of its hand-off.
`void` marks a store whose tolerant pass was dropped: it reads its register and writes nothing (R122, R125). -/
structure SeqEntry where
  slot : Nat
  instr : Instr
  pc : Word
  s0 : Word
  s1 : Word
  s2 : Word
  bytes : List Byte
  priv : Bool
  void : Bool
  deriving DecidableEq, Repr

/-- A repeat of a slot (R322): the body being collected or run. -/
structure Repeat where
  count : Nat
  len : Nat
  body : List SeqEntry
  running : Bool
  left : Nat
  next : Nat
  deriving DecidableEq, Repr

/-- Why a thread is parked (09 Table 4). -/
inductive Park where
  | access
  | tlb (va : Nat) (kind : WalkKind)
  | tag (core line : Nat)
  | cond
  | transom
  | jobQueue
  | tiles
  | ring
  | launch
  | release
  | acquire
  | barrier (core off phase : Nat)
  | tree
  | writeQueue
  | save
  | walk (id : Nat)
  | gangHold
  | gangJoin
  | doneWait
  | shutter
  | retry (cycle : Nat)
  deriving DecidableEq, Repr

/-- The status of a thread slot (R192, R194, R410, R224, R429). -/
inductive Status where
  | unplaced
  | ready
  | parked (r : Park)
  | paused (untilCycle : Nat)
  | sleeping (tick : Nat)
  | debugHold
  deriving DecidableEq, Repr

/-- Pending interrupts of a slot (24 Table 3), and the meter of a pending trap 0x12 (R152). -/
structure Pending where
  preempt : Option Nat
  timer : Bool
  msg : Bool
  debug : Option Nat
  quiesce : Option Nat
  meter : Option Nat
  deriving DecidableEq, Repr

/-- A rename entry (R435): a command to issue again, a final completion word, or the new identifier. -/
inductive Rename where
  | command (kind recAddr upper name1 name2 : Nat)
  | final (word : Nat)
  | renamed (id : Nat)
  deriving DecidableEq, Repr

/-- A word that a gang leader forwarded (R169): its pc, the bits, the leader's next pc once it is known, and the
result of an instruction that acts once per gang (07, Instructions). -/
structure Forward where
  pc : Word
  word : InstrWord
  next : Option Word
  result : Option Word
  deriving DecidableEq, Repr

/-- What a content-store request asks of its home (R372-R375). -/
inductive CnKind where
  | get | inc | dec
  | put | node
  | swap
  | root (ref : Bool)
  deriving DecidableEq, Repr

/-- A content-store request (R367): what was sent to the home (a name; the line or the swap block; the address that a
trap reports), and its answer once there is one. Status 16 stands for poison met at the home. -/
structure CnReq where
  pc : Word
  kind : CnKind
  space : Nat
  name : Nat
  data : Nat
  area : Nat
  answered : Bool
  status : Nat
  slotIdx : Nat
  kite : Nat
  deriving DecidableEq, Repr

/-- A thread slot. Absent registers stand at the values of R148. -/
structure Thread where
  g : AMap Word
  v : AMap VVal
  p : AMap Bool
  b : AMap (BitVec 16)
  pc : Word
  priv : Bool
  ctl : Ctl
  tol : Tol
  place : Place
  rgn : Region
  wq : List QWrite
  dests : List Nat
  rel : Option Release
  gens : List (BitVec 16)
  streams : AMap Stream
  rpt : Option Repeat
  ppoison : Option (Nat × Word)
  answer : Option Answer
  vwait : Option (Word × Option Word)
  status : Status
  inStub : Bool
  fresh : Bool
  msgCount : Nat
  pend : Pending
  jobs : List (Nat × Nat)
  ren : AMap Rename
  tilesOut : List Nat
  tilesAns : List (Nat × Nat × Nat)
  fwd : List Forward
  hold : Option Word
  solo : Bool
  fwdSent : Bool
  declined : Option (Nat × Nat)
  cn : Option CnReq
  launchRes : Option (Word × Option Nat)
  fatalRet : Bool
  deriving DecidableEq, Repr

/-! ## The counterflow pipe (09) -/

/-- A register name that travels in packets (R177): class 0 g, 2 p, 3 b, and an index. -/
structure RName where
  cls : Nat
  idx : Nat
  deriving DecidableEq, Repr

/-- A source of an instruction packet: its name and, once held, its value (09 Table 2). -/
structure PSource where
  name : RName
  val : Option Word
  deriving DecidableEq, Repr

/-- The instruction half of a rung (09 Table 2). `next`, `reads`, `flags` and `once` are what retirement does with it:
the pc that follows, the lines that enter the read set (R185), the fflags that it raises (R199), and the result that its
gang shares; `forwarded` marks a follower's word (R169). -/
structure IPacket where
  slot : Nat
  seq : Nat
  pc : Word
  word : InstrWord
  instr : Option Instr
  guard : Option Bool
  srcs : List PSource
  old : List PSource
  dests : List RName
  results : List (RName × Word)
  cause : Option (Nat × Word × Word)
  park : Option Park
  busy : Nat
  executed : Bool
  stopped : Bool
  completed : Bool
  effect : Bool
  next : Word
  reads : AMap ReadLine
  flags : BitVec 6
  once : Option Word
  forwarded : Bool
  deriving DecidableEq, Repr

/-- The result half of a rung (09 Table 3). -/
structure RPacket where
  slot : Nat
  seq : Nat
  dest : RName
  val : Word
  hider : Option Nat
  deriving DecidableEq, Repr

/-- A foot-buffer entry (R181): reserved, then filled. -/
structure FootEntry where
  slot : Nat
  seq : Nat
  dest : RName
  val : Option Word
  hider : Option Nat
  deriving DecidableEq, Repr

/-- The pipe of a core: rungs 0 to 7, the foot buffer and the fetch state (R175-R189). -/
structure Pipe where
  ins : AMap IPacket
  res : AMap RPacket
  foot : List FootEntry
  nextSeq : Nat
  retired : Option Nat
  fetchPc : Word
  fetchAt : Nat
  fetchStop : Bool
  active : Bool
  deriving DecidableEq, Repr

/-! ## Cores, clusters, dies -/

/-- A near-cache line (R240): its key, bytes, fill version and poisoned codewords (R237). -/
structure NearLine where
  key : Nat
  bytes : List Byte
  fv : Nat
  bad : List Nat
  deriving DecidableEq, Repr

/-- A TLB entry (R250): the page of a space with its attributes (04 Table 6 of 12, bits 60 to 0). -/
structure Tlb where
  space : Nat
  ispace : Bool
  vbase : Nat
  pbase : Nat
  size : Nat
  attrs : Nat
  keyslot : Nat
  deriving DecidableEq, Repr

/-- A shutter (14 Table 3). -/
structure Shutter where
  closed : Bool
  global : Bool
  lo : Nat
  hi : Nat
  queue : Nat
  id : Nat
  pos : Nat
  deriving DecidableEq, Repr

/-- A message on its way to a core; `waiting` when it waits there for empty tags (R412). -/
structure Msg where
  core : Nat
  slot : Nat
  fromCore : Nat
  fromSlot : Nat
  space : Nat
  launch : Nat
  node : Nat
  gen : Nat
  target : Word
  payload : Word
  waiting : Bool
  deriving DecidableEq, Repr

/-- A tagged request held by a peer pool (R277): who asks, where, and how. -/
structure TagReq where
  core : Nat
  slot : Nat
  pc : Word
  off : Nat
  words : Nat
  keep : Bool
  store : Option (List Byte)
  deriving DecidableEq, Repr

/-- An accepted bank update or a change of the function table (R399, R400). -/
inductive BankOp where
  | update (off : Nat) (v : BitVec 32) (fn : Nat) (tag : Bool)
  | config (fn code : Nat)
  deriving DecidableEq, Repr

/-- A core with its pool (R14); `imaged` lists the stages whose pool image it took since it was granted (R147). Absent pool bytes read as 0 (log 1); an unlisted tag is full (R236). -/
structure Core where
  pool : List Host.Cell
  emptyTags : List Nat
  poolPoison : List Nat
  part : Word
  sill : Word
  hold : Bool
  lowered : Bool
  near : AMap NearLine
  tlb : List Tlb
  shutters : AMap Shutter
  fns : AMap Nat
  slots : AMap Thread
  seq : List SeqEntry
  inPipe : Option Nat
  lastAdm : Nat
  heldCycles : Nat
  pipe : Pipe
  msgs : List Msg
  tagReqs : List TagReq
  bank : List BankOp
  lanes : AMap (List Word)
  laneLaunch : AMap Nat
  imaged : List (Nat × Nat)
  beta : Option Nat
  deriving DecidableEq, Repr

/-- A copy job, or a copy-out job of the content store (R283, R376; `out` holds its destination and leaf limit, and
`start` the elements it has passed). `root` is the tree root that it holds a reference to. A job stays listed while its
completion word is readable and while it owns a closed shutter. -/
structure CopyJob where
  id : Nat
  core : Nat
  slot : Nat
  space : Nat
  keyslot : Nat
  launch : Nat
  node : Nat
  deadline : Nat
  record : Nat
  recAddr : Nat
  mask : Nat
  deal : Bool
  start : Nat
  next : Nat
  total : Nat
  fmt : Nat
  gens : List (BitVec 16)
  flags : Nat
  grade : BitVec 16
  need : Nat
  rst : Nat
  status : Nat
  code : Nat
  ended : Option (Nat × Nat)
  cancel : Bool
  walk : Option Nat
  out : Option (Nat × Nat)
  root : Option Nat
  shutters : List (Nat × Nat)
  sens : Int
  rnd : Nat
  gen : BitVec 32
  deriving DecidableEq, Repr

/-- A matrix job or an acc.zero job (R336, R352). -/
structure MatrixJob where
  id : Nat
  core : Nat
  slot : Nat
  space : Nat
  keyslot : Nat
  launch : Nat
  node : Nat
  deadline : Nat
  record : Nat
  recAddr : Nat
  rnd : Nat
  zero : Option (Nat × Nat)
  first : Nat
  tiles : Nat
  done : Nat
  afmt : Nat
  bfmt : Nat
  seed : Word
  opA : List Nat
  opB : List Nat
  converted : Bool
  flags : Nat
  grade : BitVec 16
  need : Nat
  status : Nat
  code : Nat
  ended : Option (Nat × Nat)
  cancel : Bool
  walk : Option Nat
  shadowed : Bool
  sensA : Int
  sensB : Int
  deriving DecidableEq, Repr

/-- A cluster (R13): its two job queues, TLBs, home slice and health. `holder` is
the launch and charter that hold it (R142), `also` the other stages of the launch that were placed on it at once with
that one, `sampleAt` the cycle of its governor's next sample (R150). -/
structure Cluster where
  copyNext : Nat
  copyJobs : AMap CopyJob
  mxNext : Nat
  mxJobs : AMap MatrixJob
  l2 : List Tlb
  itlb : List Tlb
  etlb : List Tlb
  homeGens : List (BitVec 16)
  lmap : AMap Nat
  holder : Option (Nat × Nat)
  also : List Nat
  sampleAt : Nat
  fenced : Bool
  errTicks : List Nat
  deriving DecidableEq, Repr

/-- One arrival of a tree episode (R406): the participant and its value. -/
structure Arrival where
  core : Nat
  slot : Nat
  off : Nat
  val : Word
  deriving DecidableEq, Repr

/-- A tree episode of a die (R405, R406). -/
structure Episode where
  launch : Nat
  group : Nat
  n : Nat
  red : Option (NTy × AOp × Bool × Nat)
  arrivals : List Arrival
  deriving DecidableEq, Repr

/-- An L1 miss that waits for a walker of its die (R251), in order of arrival: the core, space, address and access,
and the physical address and attributes that the compatibility routine predicted (R252). -/
structure Miss where
  core : Nat
  space : Nat
  va : Nat
  kind : WalkKind
  pred : Option (Nat × Nat)
  deriving DecidableEq, Repr

/-- A compute die (R12, R405, R449). `phase` is the phase of a single-die reset, 0 when none runs; `routines` names
the power-on whose image its walkers' store holds (R251). -/
structure Die where
  misses : List Miss
  routines : Option Nat
  episodes : AMap Episode
  groups : AMap Nat
  treeGens : AMap (List (BitVec 16))
  phase : Nat
  phaseEnd : Nat
  running : Bool
  deriving DecidableEq, Repr

/-! ## Memory (12, 19) -/

/-- The checked-page state of a home line (19 Table 1). Writers are writer ids (log 11). -/
structure HomeLine where
  commit : Nat
  performed : Nat
  cw : AMap Nat
  w : AMap Nat
  deriving DecidableEq, Repr

/-- What travels on a path (19 Table 1). -/
inductive PacketOp where
  | write (bytes : AMap Byte)
  | reduce (off : Nat) (op : AOp) (ty : ATy) (uns : Bool) (rnd : Nat) (val : Nat) (bar : Option (Nat × Nat))
  | marker
  deriving DecidableEq, Repr

/-- A packet of a path queue: the writer, the home line, its version on a checked page, and the key. -/
structure Packet where
  writer : Nat
  line : Nat
  version : Option Nat
  key : Nat
  op : PacketOp
  deriving DecidableEq, Repr

/-- A walk that waits for the resident kernel (R253): the issuer (writer id, or a job), space, address, kind, status. -/
structure WalkReq where
  issuer : Nat
  space : Nat
  va : Nat
  kind : WalkKind
  status : Nat
  deriving DecidableEq, Repr

/-- A line that a home slice holds (R241, R242): the key it was filled under, and whether it differs from DRAM. -/
structure SliceLine where
  line : Nat
  key : Nat
  dirty : Bool
  deriving DecidableEq, Repr

/-- Module DRAM, host memory, versions and paths. DRAM bytes are keyed by home die and die offset; every line of a die
in `lost` reads as poisoned (R448). A key is a key slot plus 4096 times the die that the physical address names, which
is what the tweak of a line depends on beside its die offset (R242). `slice` lists the lines that the home slices hold, the oldest first,
and `off` the clusters whose slice is fenced. -/
structure Memory where
  dram : List Host.Cell
  keys : AMap (Nat × Nat)
  keyGen : AMap Nat
  slice : List SliceLine
  off : List Nat
  poison : List Nat
  lost : List Nat
  lines : AMap HomeLine
  host : List Host.Cell
  paths : AMap (List Packet)
  gathered : AMap Nat
  walks : AMap WalkReq
  nextWalk : Nat
  deriving DecidableEq, Repr

/-! ## The dispatcher (02, 07) -/

/-- A tile space as the device holds it (R38, R39): extents, order, tiles handed out, the place reached, tiles given
back, and where its `issued` word lies in DRAM: home addresses with lengths. -/
structure TileSpace where
  addr : Nat
  dims : Nat
  order : Nat
  xext : Nat
  yext : Nat
  zext : Nat
  issued : Nat
  next : Nat
  back : List Nat
  cells : List (Nat × Nat)
  deriving DecidableEq, Repr

/-- A stage body (02 Table 5). -/
structure Stage where
  entry : Word
  gang : Nat
  mininst : Nat
  maxinst : Nat
  part : Word
  feat : Word
  inring : Nat
  outring : Nat
  tiles : Nat
  pimage : Nat
  deriving DecidableEq, Repr

/-- A charter of an accepted tree with its effective values (R27, R28), meters (R151) and progress; `metered` is the cycle
of the last update of its energy meter. `retried` says that its own retry is used, `again` that a retry restarted it. -/
structure Node where
  addr : Nat
  kind : Nat
  parent : Option Nat
  children : List Nat
  tag : Nat
  deadline : Nat
  missed : Nat
  policy : Nat
  energy : Nat
  dram : Nat
  pool : Nat
  cores : Nat
  stage : Option Stage
  tile : Option TileSpace
  usedCores : Nat
  usedDram : Nat
  usedEnergy : Nat
  firstStart : Nat
  placed : Bool
  started : Nat
  running : Nat
  complete : Bool
  ending : Bool
  missApplied : Bool
  status : Nat
  code : Nat
  health : Bool
  retried : Bool
  again : Bool
  overrun : Option Nat
  dlCount : Nat
  dlRing : Nat
  metered : Nat
  deriving DecidableEq, Repr

/-- An accepted launch (R136-R140). `parent` is the launch and stage whose `launch` submitted it
(R154), `record` the address of its root's completion record. -/
structure Launch where
  space : Nat
  seq : Nat
  args : Word
  start : Nat
  deps : List Nat
  strict : Bool
  nodes : AMap Node
  parent : Option (Nat × Nat)
  clusters : List Nat
  done : Bool
  aborted : Bool
  record : Nat
  deriving DecidableEq, Repr

/-- A ring held by the device (R37, 02 Table 7); `cells` is where its counters and states lie in DRAM: home addresses
with lengths. -/
structure Ring where
  space : Nat
  launch : Nat
  slots : Word
  size : Nat
  states : Word
  nlog : Nat
  low : Nat
  high : Nat
  claim : Nat
  post : Nat
  take : Nat
  free : Nat
  st : AMap Nat
  holder : Option Nat
  above : Nat
  below : Nat
  mark : Option Nat
  closed : Bool
  start : Nat
  cells : List (Nat × Nat)
  deriving DecidableEq, Repr

/-- A placed gang (R146): its stage, members (core, slot) and the stage it is marked for (R150). -/
structure Gang where
  launch : Nat
  node : Nat
  cluster : Nat
  members : List (Nat × Nat)
  inum : Nat
  startTick : Nat
  marked : Option Nat
  token : Bool
  started : Bool
  fatal : Option Nat
  deriving DecidableEq, Repr

/-- A slot of the launch window (R137, R161). -/
structure WinSlot where
  bytes : AMap Byte
  outcome : Word
  pending : Bool
  deriving DecidableEq, Repr

/-- A submitted packet that the dispatcher has not yet judged: where it came from, its space and its 512 bits. -/
structure Submit where
  slot : Option Nat
  thread : Option (Nat × Nat)
  space : Nat
  packet : Nat
  deriving DecidableEq, Repr

/-- A pre-empted cluster (R434): the gangs, the cores by position, and what was delivered meanwhile (R407). -/
structure Saved where
  launch : Nat
  gangs : List (Nat × Gang)
  cores : AMap Core
  depth : Nat
  reason : Nat
  deriving DecidableEq, Repr

/-- The dispatcher, placers and governors. `reports` lists the launches whose root record is written, in that order,
until each is reported (R153). -/
structure Disp where
  window : AMap WinSlot
  lwspace : AMap Nat
  submits : List Submit
  launches : AMap Launch
  nextLaunch : Nat
  outcomes : AMap (List (Nat × Option Bool))
  lastSeq : AMap Nat
  rings : AMap Ring
  gangs : AMap Gang
  nextGang : Nat
  queries : List (Nat × Nat × Nat)
  saved : AMap Saved
  nextSaved : Nat
  heldTree : List (Nat × Nat × Nat × Word)
  limits : AMap (Nat × Nat × Nat × Nat)
  reports : List Nat
  deriving DecidableEq, Repr

/-! ## The host channel and the management window (07, 12, 25) -/

/-- The message channel (07 Table 1). -/
structure Channel where
  hqbase : Word
  hqset : Bool
  hqlog : Nat
  hqtail : Nat
  hqread : Nat
  dqbase : Word
  dqset : Bool
  dqlog : Nat
  dqhead : Nat
  dqwritten : Nat
  dsent : Nat
  hrecv : Nat
  doldest : Nat
  kept : List (Nat × List Byte)
  pending : List (List Byte)
  deriving DecidableEq, Repr

/-- A shoot-down register set (12 Table 9) and the command under way. -/
structure ShootSet where
  addr : Word
  ctrl : Nat
  count : Nat
  busy : Bool
  deriving DecidableEq, Repr

/-- Completion area of a space (25 Table 1) with its save area (07 Table 8). -/
structure Area where
  cbase : Word
  clog : Nat
  ccount : Nat
  savebase : Word
  savesize : Nat
  deriving DecidableEq, Repr

/-- Health registers (25 Table 3). -/
structure Health where
  corrected : Nat
  uncorrected : Nat
  throttled : Nat
  plimit : Nat
  limiting : Bool
  thermal : Bool
  resetting : Bool
  replace : Bool
  deriving DecidableEq, Repr

/-- An interrupt delivered to the system cores (R253, R465, R467, R470): a kind and its data. -/
structure SysIrq where
  kind : Nat
  core : Nat
  data : List Nat
  deriving DecidableEq, Repr

/-- The rest of the management window. -/
structure Mgmt where
  sptbase : Word
  sptcount : Nat
  shoot : AMap ShootSet
  csel : Nat
  areas : AMap Area
  health : Health
  dieBusy : Bool
  dieNum : Nat
  rcring : Word
  rcspace : Nat
  rcres : Nat
  rcstat0 : Word
  rcstat1 : Word
  keyRefused : Bool
  logs : AMap (List Byte)
  irqs : List SysIrq
  deriving DecidableEq, Repr

/-! ## Content stores (18) -/

/-- A count change in flight between two homes (R368). -/
structure CountMsg where
  space : Nat
  name : Nat
  up : Bool
  deriving DecidableEq, Repr

/-- The store of a space (R355): its record, the key slot that names its lines (R354), and what the homes keep beside
the tables in DRAM: puts that collided, names queued for reclaim by home, and the name in each slot in use. -/
structure Store where
  cfg : Nat
  bootSlot : Nat
  collides : Nat
  reclaim : AMap (List Nat)
  used : AMap Nat
  deriving DecidableEq, Repr

/-! ## Network, storage, trust (25) -/

/-- A network port (25 Table 5). -/
structure Port where
  pfc : Nat
  enable : Bool
  up : Bool
  fec : Bool
  aligned : Bool
  pmac : Nat
  pmcast : Word
  rawtx : Word
  txprod : Nat
  txlog : Nat
  txcons : Nat
  rawrx : Word
  rxprod : Nat
  rxlog : Nat
  rxcons : Nat
  ptprx : Word
  pprod : Nat
  plog : Nat
  pcons : Nat
  txts : List (Nat × Nat × Nat)
  framestx : Nat
  framesrx : Nat
  fcserr : Nat
  dropped : Nat
  resent : Nat
  downs : Nat
  sent : List (List Byte)
  stalled : List (Nat × List Byte)
  deriving DecidableEq, Repr

/-- A transport packet that is not yet acknowledged: its header without path, psn and ack, and the work request whose
bytes it carries. -/
structure TPacket where
  psn : Nat
  header : Nat
  payload : List Byte
  req : Option Nat
  deriving DecidableEq, Repr

/-- A path of a flow (R462), both directions. `acked` is the psn after the last one acknowledged to the other end,
`holds` the accepted packets that are not to be acknowledged yet, `probe` the psn of a retry marker. -/
structure Path where
  sendPsn : Nat
  unacked : List TPacket
  timeouts : Nat
  sentTick : Nat
  down : Bool
  downTick : Nat
  probe : Option Nat
  recvPsn : Nat
  acked : Nat
  accTick : Nat
  ackNow : Bool
  holds : List Nat
  deriving DecidableEq, Repr

/-- An outstanding work request of a flow (25 Table 9): its count, its 512 bits, the bytes sent, whether its markers are
sent, the bytes not yet acknowledged or received, and the offsets received. -/
structure WorkReq where
  num : Nat
  entry : Nat
  sent : Nat
  marked : Bool
  left : Nat
  got : List Nat
  deriving DecidableEq, Repr

/-- A READREQ being answered (R461). -/
structure Resp where
  path : Nat
  psn : Nat
  msg : Nat
  addr : Nat
  dest : Nat
  length : Nat
  sent : Nat
  deriving DecidableEq, Repr

/-- The held last packet of a release message (R463). -/
structure HeldPkt where
  msg : Nat
  path : Nat
  psn : Nat
  addr : Nat
  off : Nat
  payload : List Byte
  deriving DecidableEq, Repr

/-- What has performed of a message that is being received: lengths by offset, the total once known, and whether its
completion is made. -/
structure RecvMsg where
  got : AMap Nat
  total : Option Nat
  done : Bool
  deriving DecidableEq, Repr

/-- A flow (R459-R465): its entry, the work requests produced and taken, and the completion entries waiting. -/
structure Flow where
  inUse : Bool
  entry : Nat
  produced : Nat
  consumed : Nat
  paths : AMap Path
  reqs : List WorkReq
  resps : List Resp
  comps : List Nat
  written : Nat
  error : Bool
  markers : List (Nat × Nat)
  held : List HeldPkt
  recv : AMap RecvMsg
  pollAt : Nat
  deriving DecidableEq, Repr

/-- The transport and time registers with the ports and flows (25 Tables 5 and 6), and the port requests (issuer, space,
address) whose walk service was declined (R253); `tlb` is the translation cache of the port die's issuers (R250). -/
structure Net where
  tlb : List Tlb
  ports : AMap Port
  flows : AMap Flow
  flowbase : Word
  flowcount : Nat
  rto : Nat
  declined : List (Nat × Nat × Nat)
  deriving DecidableEq, Repr

/-- A request of the drive or of the host link that waits in its port (R253, R468): for a walk, since a tick. -/
structure PortReq where
  addr : Word
  len : Nat
  data : Option (List Byte)
  space : Nat
  walk : Option Nat
  since : Nat
  deriving DecidableEq, Repr

/-- The storage port (25 Table 11): registers, waiting requests, answers to the drive and requests to it. -/
structure Stor where
  enable : Bool
  up : Bool
  rate : Nat
  width : Nat
  flit : Bool
  sfault : Option Word
  sfaults : Nat
  sspace : AMap Nat
  svec : AMap Nat
  waiting : List PortReq
  training : Bool
  answers : List (Nat × List Byte)
  toDrive : List (Bool × Nat × Nat × Option (List Byte))
  deriving DecidableEq, Repr

/-- The trust die (R450-R455) and the images it and the resident kernel have taken. -/
structure Trust where
  boots : Nat
  running : Bool
  failed : Bool
  image : List Byte
  nextImage : Option (List Byte)
  meas : AMap Nat
  version : Bool
  capabilities : Bool
  algorithms : Bool
  nonces : Nat
  transcript : List Byte
  responses : List (List Byte)
  loaded : List (Nat × Nat)
  hostReqs : List PortReq
  coreReqs : List PortReq
  hostAnswers : List (Nat × List Byte)
  coreAnswers : List (Nat × List Byte)
  deriving DecidableEq, Repr

/-- Time (R4, R390): cycles since power-on, the reference time base, and the fraction of a tick reached. -/
structure Time where
  cycle : Nat
  tick : Nat
  phase : Nat
  slew : Int
  launchAccepted : Bool
  deriving DecidableEq, Repr

/-- The state of the module. `cur`, `sched` and `turn` (log 4), `agenda` (log 5) and `free` (log 6) are the
model's own: which thread acts, which cores act next, whose turn it is, which events come first, the counter of
free values. -/
structure State where
  time : Time
  cur : Nat × Nat
  sched : List Nat
  turn : Bool
  agenda : List Instr
  free : Nat
  cores : AMap Core
  clusters : AMap Cluster
  dies : AMap Die
  mem : Memory
  disp : Disp
  chan : Channel
  mgmt : Mgmt
  stores : AMap Store
  counts : AMap (List CountMsg)
  net : Net
  stor : Stor
  trust : Trust
  deriving DecidableEq, Repr

/-- Reasons to stop with a fault. No instruction of the part raises one: every case the spec gives is an effect, a
trap, a park or a wait. -/
inductive Fault where
  /-- Raised by an event whose part of the module does not exist (a core, cluster, die, port or slot number out of
  range): an address the spec says does not exist. Safe: the machine stops where no hardware stands. -/
  | noSuchUnit
  deriving DecidableEq, Repr

/-- Reasons to refuse an instruction. -/
inductive Refusal where
  /-- Raised by an arm of `exec` whose instruction has no meaning yet. Safe: nothing follows from a refusal. -/
  | notModelled (mnemonic : String)
  deriving DecidableEq, Repr

/-! ## The reset records -/

/-- The seed of generator `i` from srseed (R102). -/
def genSeed (srseed : Word) (i : Nat) : BitVec 16 :=
  let s := srseed.extractLsb' 0 16 ^^^ srseed.extractLsb' 16 16 ^^^ srseed.extractLsb' 32 16 ^^^
    srseed.extractLsb' 48 16 ^^^ BitVec.ofNat 16 (i * 0x9E37)
  if s = 0 then 0xACE1 else s

/-- The 32 generators that a write to srseed leaves (R102). -/
def seedGens (srseed : Word) : List (BitVec 16) := (List.range 32).map (genSeed srseed)

def Ctl.reset : Ctl :=
  { xpc := 0, xcause := 0, xaddr := 0, xinfo := 0, xvec := 0, xscratch := 0, ppriv := false, pie := false,
    ie := false, itimer := false, imsg := false, ptime := 0, cycles := 0, frm := 0, fflags := 0, srseed := 0,
    rsplits := 0 }

def Tol.reset : Tol :=
  { root := 0, tree := 0, tight := 0, deficit := 0, short := false, exactpass := false, isOpen := false,
    tentry := 0, treplays := 0, deferred := 0, sens := [] }

def Place.reset : Place :=
  { charter := 0, feat := 0, spaceid := 0, keyslot := 0, deadline := 0, launch := 0, node := 0, gang := 0,
    gsize := 1, gpos := 0, leader := 0, shed := false, gen := 0 }

def Region.empty : Region := { held := [], reads := [], written := [], conflict := none }

def Pending.none : Pending :=
  { preempt := Option.none, timer := false, msg := false, debug := Option.none, quiesce := Option.none,
    meter := Option.none }

/-- A thread slot with no placement; its registers hold the values of R148 (logs 2, 3). -/
def Thread.reset : Thread :=
  { g := [], v := [], p := [], b := [], pc := 0, priv := false, ctl := Ctl.reset, tol := Tol.reset,
    place := Place.reset, rgn := Region.empty, wq := [], dests := [], rel := none, gens := seedGens 0,
    streams := [], rpt := none, ppoison := none, answer := none, vwait := none, status := .unplaced, inStub := false,
    fresh := false, msgCount := 0, pend := Pending.none, jobs := [], ren := [], tilesOut := [],
    tilesAns := [], fwd := [], hold := none, solo := false, fwdSent := false, declined := none, cn := none, launchRes := none,
    fatalRet := false }

def Pipe.reset : Pipe :=
  { ins := [], res := [], foot := [], nextSeq := 0, retired := none, fetchPc := 0, fetchAt := 0,
    fetchStop := false, active := false }

/-- A core before any placement (R399 for the function table; logs 1, 15, 16). -/
def Core.reset : Core :=
  { pool := [], emptyTags := [], poolPoison := [], part := BitVec.ofNat 64 Config.resetPart, sill := 0, hold := false,
    lowered := false, near := [], tlb := [], shutters := [], fns := [(0, 0), (1, 2), (2, 3), (3, 4)], slots := [],
    seq := [], inPipe := none, lastAdm := 0, heldCycles := 0, pipe := Pipe.reset, msgs := [], tagReqs := [],
    bank := [], lanes := [], laneLaunch := [], imaged := [], beta := none }

def Cluster.reset : Cluster :=
  { copyNext := 0, copyJobs := [], mxNext := 0, mxJobs := [], l2 := [], itlb := [],
    etlb := [], homeGens := seedGens 0, lmap := [], holder := none, also := [], sampleAt := 4096, fenced := false, errTicks := [] }

def Die.reset : Die :=
  { misses := [], routines := none, episodes := [], groups := [], treeGens := [], phase := 0, phaseEnd := 0, running := false }

def HomeLine.reset : HomeLine := { commit := 0, performed := 0, cw := [], w := [] }

def Memory.reset : Memory :=
  { dram := [], keys := [], keyGen := [], slice := [], off := [], poison := [], lost := [], lines := [], host := [], paths := [],
    gathered := [], walks := [], nextWalk := 0 }

def WinSlot.reset : WinSlot := { bytes := [], outcome := 0, pending := false }

def Disp.reset : Disp :=
  { window := [], lwspace := [], submits := [], launches := [], nextLaunch := 0, outcomes := [], lastSeq := [],
    rings := [], gangs := [], nextGang := 0, queries := [], saved := [], nextSaved := 0, heldTree := [],
    limits := [], reports := [] }

def Channel.reset : Channel :=
  { hqbase := 0, hqset := false, hqlog := 4, hqtail := 0, hqread := 0, dqbase := 0, dqset := false, dqlog := 4,
    dqhead := 0, dqwritten := 0, dsent := 0, hrecv := 0, doldest := 0, kept := [], pending := [] }

def ShootSet.reset : ShootSet := { addr := 0, ctrl := 0, count := 0, busy := false }

def Area.reset : Area := { cbase := 0, clog := 0, ccount := 0, savebase := 0, savesize := 0 }

def Health.reset : Health :=
  { corrected := 0, uncorrected := 0, throttled := 0, plimit := 1600, limiting := false, thermal := false,
    resetting := false, replace := false }

def Mgmt.reset : Mgmt :=
  { sptbase := 0, sptcount := 0, shoot := [], csel := 0, areas := [], health := Health.reset, dieBusy := false,
    dieNum := 0, rcring := 0, rcspace := 0, rcres := 0, rcstat0 := 0, rcstat1 := 0, keyRefused := false, logs := [],
    irqs := [] }

def Store.reset : Store :=
  { cfg := 0, bootSlot := 0, collides := 0, reclaim := [], used := [] }

def Port.reset : Port :=
  { pfc := 0, enable := false, up := false, fec := false, aligned := false, pmac := 0, pmcast := 0, rawtx := 0,
    txprod := 0, txlog := 4, txcons := 0, rawrx := 0, rxprod := 0, rxlog := 4, rxcons := 0, ptprx := 0, pprod := 0,
    plog := 4, pcons := 0, txts := [], framestx := 0, framesrx := 0, fcserr := 0, dropped := 0, resent := 0,
    downs := 0, sent := [], stalled := [] }

def Path.reset : Path :=
  { sendPsn := 0, unacked := [], timeouts := 0, sentTick := 0, down := false, downTick := 0, probe := none, recvPsn := 0,
    acked := 0, accTick := 0, ackNow := false, holds := [] }

def RecvMsg.reset : RecvMsg := { got := [], total := none, done := false }

def Flow.reset : Flow :=
  { inUse := false, entry := 0, produced := 0, consumed := 0, paths := [], reqs := [], resps := [], comps := [],
    written := 0, error := false, markers := [], held := [], recv := [], pollAt := 0 }

def Net.reset : Net := { tlb := [], ports := [], flows := [], flowbase := 0, flowcount := 0, rto := 100000, declined := [] }

def Stor.reset : Stor :=
  { enable := false, up := false, rate := 0, width := 0, flit := false, sfault := none, sfaults := 0, sspace := [],
    svec := [], waiting := [], training := false, answers := [], toDrive := [] }

def Trust.reset : Trust :=
  { boots := 0, running := false, failed := false, image := [], nextImage := none, meas := [], version := false,
    capabilities := false, algorithms := false, nonces := 0, transcript := [], responses := [], loaded := [], hostReqs := [], coreReqs := [],
    hostAnswers := [], coreAnswers := [] }

def Time.reset : Time := { cycle := 0, tick := 0, phase := 0, slew := 0, launchAccepted := false }

/-- The module right after power-on reset: every register at the value its table states (R6), every part empty. -/
def State.reset : State :=
  { time := Time.reset, cur := (0, 0), sched := [], turn := false, agenda := [], free := 0, cores := [],
    clusters := [], dies := [], mem := Memory.reset, disp := Disp.reset, chan := Channel.reset, mgmt := Mgmt.reset, stores := [], counts := [],
    net := Net.reset, stor := Stor.reset, trust := Trust.reset }

end Sys2Proof.Machine
end

