-- ==== Sys2Proof/Machine/NumFmt.lean ====
section
/-! DEFINITION. Number formats, rounding and exact arithmetic (05): every finite value is a signed dyadic number,
sums and products are exact, and Round delivers a code with the flags it raises. -/

namespace Sys2Proof

def QVar.uns : QVar → Bool
  | .sf => false | .se => false | .uf => true | .ue => true

def QVar.ext : QVar → Bool
  | .sf => false | .se => true | .uf => false | .ue => true

end Sys2Proof

namespace Sys2Proof.Machine

/-- A value: NaN (with its signalling mark and its FP32 fraction bits and sign), an infinity, or
(-1)^neg · mag · 2^exp. A zero keeps its sign. -/
inductive Num where
  | nan (signalling : Bool) (neg : Bool) (payload : Nat)
  | inf (neg : Bool)
  | fin (neg : Bool) (mag : Nat) (exp : Int)
  deriving DecidableEq, Repr

/-- The formats that Round delivers (05). `bits` of an integer format is its width. -/
inductive Fmt where
  | f32
  | bf16
  | q (v : QVar) (p : Nat)
  | int (bits : Nat)
  deriving DecidableEq, Repr

/-- Flags in the layout of fflags[5:0] (04 Table 6). -/
abbrev Flags := Nat

def flInexact : Flags := 1
def flUnder : Flags := 2
def flOver : Flags := 4
def flDivZero : Flags := 8
def flInvalid : Flags := 16
def flSat : Flags := 32

def Num.canonNaN : Num := .nan false false 0

def Num.isNaN : Num → Bool
  | .nan _ _ _ => true
  | .inf _ => false
  | .fin _ _ _ => false

def Num.signalling : Num → Bool
  | .nan s _ _ => s
  | .inf _ => false
  | .fin _ _ _ => false

def Num.isInf : Num → Bool
  | .inf _ => true
  | .nan _ _ _ => false
  | .fin _ _ _ => false

def Num.negative : Num → Bool
  | .nan _ n _ => n
  | .inf n => n
  | .fin n _ _ => n

def Num.isZero : Num → Bool
  | .fin _ m _ => m == 0
  | .nan _ _ _ => false
  | .inf _ => false

def Num.ofInt (x : Int) : Num := .fin (decide (x < 0)) x.natAbs 0

/-- The exact product with 2^k. -/
def Num.scale (x : Num) (k : Int) : Num :=
  match x with
  | .fin n m e => .fin n m (e + k)
  | y => y

def Num.neg : Num → Num
  | .nan s n p => .nan s n p
  | .inf n => .inf (!n)
  | .fin n m e => .fin (!n) m e

def Num.abs : Num → Num
  | .nan s n p => .nan s n p
  | .inf _ => .inf false
  | .fin _ m e => .fin false m e

/-- mag · 2^exp as an integer at scale 2^low, for low at most exp. -/
def alignTo (m : Nat) (e low : Int) : Nat := m * 2 ^ (e - low).toNat

/-- Compare two finite magnitudes: is a·2^ea less than b·2^eb? -/
def magLt (a : Nat) (ea : Int) (b : Nat) (eb : Int) : Bool :=
  let low := min ea eb
  decide (alignTo a ea low < alignTo b eb low)

def magEq (a : Nat) (ea : Int) (b : Nat) (eb : Int) : Bool :=
  let low := min ea eb
  decide (alignTo a ea low = alignTo b eb low)

/-- Order of two values that are not NaN; -0 and +0 are equal here. -/
def Num.lt : Num → Num → Bool
  | .nan _ _ _, _ => false
  | _, .nan _ _ _ => false
  | .inf n, .inf m => n && !m
  | .inf n, .fin _ _ _ => n
  | .fin _ _ _, .inf n => !n
  | .fin n a ea, .fin m b eb =>
    let low := min ea eb
    let x : Int := if n then -(alignTo a ea low : Int) else (alignTo a ea low : Int)
    let y : Int := if m then -(alignTo b eb low : Int) else (alignTo b eb low : Int)
    decide (x < y)

def Num.eqv : Num → Num → Bool
  | .nan _ _ _, _ => false
  | _, .nan _ _ _ => false
  | x, y => !x.lt y && !y.lt x

/-- floor(log2 |x|) of a finite nonzero value (R118). -/
def expOf (m : Nat) (e : Int) : Int := (Nat.log2 m : Int) + e

/-! ## Formats -/

/-- Precision credit (06 Table 4). -/
def Fmt.credit : Fmt → Nat
  | .f32 => 24
  | .bf16 => 8
  | .q _ p => p
  | .int _ => 0

/-- Fraction bits, exponent bias, greatest positive finite code, and whether the format has a negative zero: the
positive codes from 0 up to the greatest are in the order of their values (R85, R86, R89). -/
structure FloatFmt where
  frac : Nat
  bias : Int
  maxCode : Nat
  negZero : Bool
  uns : Bool
  extended : Bool
  signBit : Nat
  deriving DecidableEq, Repr

def Fmt.float : Fmt → FloatFmt
  | .f32 => { frac := 23, bias := 127, maxCode := 0x7F7FFFFF, negZero := true, uns := false, extended := true, signBit := 31 }
  | .bf16 => { frac := 7, bias := 127, maxCode := 0x7F7F, negZero := true, uns := false, extended := true, signBit := 15 }
  | .q v p =>
    { frac := p - 1
      bias := if v.uns then 2 ^ (8 - p) else 2 ^ (7 - p)
      maxCode := if v.uns then (if v.ext then 0xFD else 0xFE) else (if v.ext then 0x7E else 0x7F)
      negZero := false, uns := v.uns, extended := v.ext, signBit := 7 }
  | .int _ => { frac := 0, bias := 0, maxCode := 0, negZero := false, uns := false, extended := false, signBit := 0 }

/-- Value of a positive code below or at the greatest finite one, continued above it with an unbounded exponent:
magnitude and exponent (R85). -/
def FloatFmt.posVal (f : FloatFmt) (code : Nat) : Nat × Int :=
  let e := code / 2 ^ f.frac
  let m := code % 2 ^ f.frac
  if e = 0 then (m, 1 - f.bias - f.frac) else (2 ^ f.frac + m, (e : Int) - f.bias - f.frac)

/-- The value of a code of a floating or binary8 format. -/
def decodeFloat (fmt : Fmt) (code : Nat) : Num :=
  match fmt with
  | .f32 =>
    let e := code / 2 ^ 23 % 256
    let m := code % 2 ^ 23
    let n := decide (code / 2 ^ 31 % 2 = 1)
    if e = 255 then (if m = 0 then .inf n else .nan (decide (m / 2 ^ 22 % 2 = 0)) n m)
    else let v := (Fmt.float .f32).posVal (code % 2 ^ 31); .fin n v.1 v.2
  | .bf16 =>
    let e := code / 2 ^ 7 % 256
    let m := code % 2 ^ 7
    let n := decide (code / 2 ^ 15 % 2 = 1)
    if e = 255 then (if m = 0 then .inf n else .nan (decide (m / 2 ^ 6 % 2 = 0)) n (m * 65536))
    else let v := (Fmt.float .bf16).posVal (code % 2 ^ 15); .fin n v.1 v.2
  | .q v p =>
    let c := code % 256
    if v.uns then
      if c = 0xFF then .canonNaN
      else if v.ext ∧ c = 0xFE then .inf false
      else let x := (Fmt.float (.q v p)).posVal c; .fin false x.1 x.2
    else
      if c = 0x80 then .canonNaN
      else if v.ext ∧ c = 0x7F then .inf false
      else if v.ext ∧ c = 0xFF then .inf true
      else let x := (Fmt.float (.q v p)).posVal (c % 128); .fin (decide (128 ≤ c)) x.1 x.2
  | .int n => .ofInt (sextI code n)

/-- The greatest code whose value is at most mag·2^exp, found on the exponent of the value. -/
def FloatFmt.floorCode (f : FloatFmt) (mag : Nat) (exp : Int) : Nat :=
  if mag = 0 then 0
  else
    let e := expOf mag exp
    let emin := 1 - f.bias
    let ulp := (max e emin) - f.frac
    let q := if exp ≥ ulp then mag * 2 ^ (exp - ulp).toNat else mag / 2 ^ (ulp - exp).toNat
    if e < emin then q else ((e + f.bias).toNat - 1) * 2 ^ f.frac + q

/-- A rounding mode with dynamic and stochastic modes resolved. -/
inductive RMode where
  | rne | rtz | rup | rdn | rna
  | sr (state : Nat)
  deriving DecidableEq, Repr

/-- What Round delivers: the code and the flags raised. -/
structure Rounded where
  code : Nat
  flags : Flags
  deriving DecidableEq, Repr

/-- Does the mode take the upper neighbour? `lo` and `hi` are the neighbours in magnitude, `neg` the sign, `odd`
whether the lower code has bit 0 set (R99, R102). The value lies at frac/den of the way from lo to hi. -/
def roundUp (mode : RMode) (neg odd : Bool) (frac den : Nat) : Bool :=
  if frac = 0 then false
  else
    match mode with
    | .rne => decide (2 * frac > den) || (decide (2 * frac = den) && odd)
    | .rtz => false
    | .rup => !neg
    | .rdn => neg
    | .rna => decide (2 * frac ≥ den)
    | .sr st => decide (st ≤ 65536 * frac / den)

/-- The mode rounds an overflow away from zero (R100). -/
def awayMode (mode : RMode) (neg : Bool) : Bool :=
  match mode with
  | .rne => true
  | .rna => true
  | .sr _ => true
  | .rtz => false
  | .rup => !neg
  | .rdn => neg

/-- The NaN code of a format (R85, R86, R89). -/
def nanCode : Fmt → Nat
  | .f32 => 0x7FC00000
  | .bf16 => 0x7FC0
  | .q v _ => if v.uns then 0xFF else 0x80
  | .int n => 2 ^ (n - 1)

/-- ±infinity in an extended format. -/
def infCode (fmt : Fmt) (neg : Bool) : Nat :=
  match fmt with
  | .f32 => if neg then 0xFF800000 else 0x7F800000
  | .bf16 => if neg then 0xFF80 else 0x7F80
  | .q v _ => if v.uns then 0xFE else if neg then 0xFF else 0x7F
  | .int _ => 0

/-- A signed code from a positive one: no negative zero where the format has none (R99). -/
def signCode (f : FloatFmt) (neg : Bool) (c : Nat) : Nat :=
  if neg then (if c = 0 ∧ f.negZero = false then 0 else c + 2 ^ f.signBit) else c

/-- An integer result under saturation or overflow (R100): code of `n` bits. -/
def intOver (n : Nat) (neg sat : Bool) : Rounded :=
  if sat then { code := if neg then 2 ^ (n - 1) else 2 ^ (n - 1) - 1, flags := flSat }
  else { code := 2 ^ (n - 1), flags := flInvalid }

/-- Round of a finite value into an integer format of `n` bits (R99, R100). -/
def roundInt (n : Nat) (neg : Bool) (mag : Nat) (exp : Int) (mode : RMode) (sat : Bool) : Rounded :=
  let den := if exp ≥ 0 then 1 else 2 ^ (-exp).toNat
  let num := if exp ≥ 0 then mag * 2 ^ exp.toNat else mag
  let q := num / den
  let r := num % den
  let q' := if roundUp mode neg (decide (q % 2 = 1)) r den then q + 1 else q
  let x : Int := if neg then -(q' : Int) else (q' : Int)
  if x < -(2 ^ (n - 1) : Int) ∨ x ≥ (2 ^ (n - 1) : Int) then intOver n neg sat
  else { code := (x % (2 ^ n : Int)).toNat, flags := if r = 0 then 0 else flInexact }

/-- Round of a finite value into a floating or binary8 format (R99-R101). -/
def roundFloat (fmt : Fmt) (neg : Bool) (mag : Nat) (exp : Int) (mode : RMode) (sat : Bool) : Rounded :=
  let f := fmt.float
  let c := f.floorCode mag exp
  let lo := f.posVal c
  let hi := f.posVal (c + 1)
  let low := min exp (min lo.2 hi.2)
  let a := alignTo lo.1 lo.2 low
  let b := alignTo hi.1 hi.2 low
  let x := alignTo mag exp low
  let frac := x - a
  let c' := if roundUp mode neg (decide (c % 2 = 1)) frac (b - a) then c + 1 else c
  let tiny := magLt mag exp 1 (1 - f.bias) && mag != 0
  let inex := decide (frac ≠ 0)
  let base := (if inex then flInexact else 0) ||| (if inex && tiny then flUnder else 0)
  if f.uns && neg && mag != 0 then
    if c' = 0 then { code := 0, flags := flUnder ||| flInexact }
    else if sat then { code := 0, flags := flSat ||| flInexact }
    else { code := nanCode fmt, flags := flInvalid }
  else if c' ≤ f.maxCode then { code := signCode f (neg && !f.uns) c', flags := base }
  else if f.extended then
    if awayMode mode neg then
      if sat then { code := signCode f neg f.maxCode, flags := flSat ||| flInexact }
      else { code := infCode fmt neg, flags := flOver ||| flInexact }
    else { code := signCode f neg f.maxCode, flags := flOver ||| flInexact }
  else if sat then { code := signCode f neg f.maxCode, flags := flSat ||| flInexact }
  else { code := nanCode fmt, flags := flOver ||| flInexact }

/-- A NaN kept in FP32 or BF16: its sign and payload (R103). -/
def keepNaN (fmt : Fmt) (neg : Bool) (payload : Nat) : Nat :=
  match fmt with
  | .f32 => (if neg then 0x80000000 else 0) + 0x7F800000 + (if payload = 0 then 0x400000 else payload)
  | .bf16 =>
    let m := payload / 65536
    (if neg then 0x8000 else 0) + 0x7F80 + (if m = 0 then 0x40 else m)
  | .q v _ => if v.uns then 0xFF else 0x80
  | .int n => 2 ^ (n - 1)

/-- Round(x, fmt, mode) for every value (R99-R101). `keep` is set for a conversion from BF16 or FP32, which keeps
the payload of a NaN. -/
def roundNum (x : Num) (fmt : Fmt) (mode : RMode) (sat keep : Bool) : Rounded :=
  match fmt, x with
  | .int n, .nan _ _ _ =>
    if sat then { code := 0, flags := flInvalid ||| flSat } else { code := 2 ^ (n - 1), flags := flInvalid }
  | .int n, .inf neg => intOver n neg sat
  | .int n, .fin neg m e => roundInt n neg m e mode sat
  | .f32, .nan _ neg p => { code := if keep then keepNaN .f32 neg p else nanCode .f32, flags := 0 }
  | .bf16, .nan _ neg p => { code := if keep then keepNaN .bf16 neg p else nanCode .bf16, flags := 0 }
  | .q v p, .nan _ _ _ => { code := nanCode (.q v p), flags := 0 }
  | .f32, .inf neg => { code := infCode .f32 neg, flags := 0 }
  | .bf16, .inf neg => { code := infCode .bf16 neg, flags := 0 }
  | .q v p, .inf neg =>
    if v.uns && neg then
      if sat then { code := 0, flags := flSat ||| flInexact } else { code := 0xFF, flags := flInvalid }
    else if v.ext then { code := infCode (.q v p) neg, flags := 0 }
    else if sat then { code := signCode (Fmt.float (.q v p)) neg (Fmt.float (.q v p)).maxCode, flags := flSat ||| flInexact }
    else { code := nanCode (.q v p), flags := flInvalid }
  | .f32, .fin neg m e => roundFloat .f32 neg m e mode sat
  | .bf16, .fin neg m e => roundFloat .bf16 neg m e mode sat
  | .q v p, .fin neg m e => roundFloat (.q v p) neg m e mode sat

/-! ## Exact arithmetic on values -/

/-- An exact result with the invalid flag where R101 raises it. -/
structure Exact where
  val : Num
  flags : Flags
  deriving DecidableEq, Repr

def sigFlag (xs : List Num) : Flags := if xs.any Num.signalling then flInvalid else 0

/-- The sign of an exact zero sum (R99): all terms zeros of one sign keep it, else +0, or -0 toward -infinity. -/
def zeroSign (terms : List Num) (mode : RMode) : Bool :=
  if terms.all (fun t => t.isZero && t.negative) then true
  else if terms.all (fun t => t.isZero && !t.negative) then false
  else decide (mode = .rdn)

/-- The signed integer of a finite value at scale 2^low. -/
def signedAt (low : Int) : Num → Int
  | .fin n m e => if n then -(alignTo m e low : Int) else (alignTo m e low : Int)
  | .nan _ _ _ => 0
  | .inf _ => 0

/-- The least exponent among finite terms. -/
def minExp : List Num → Int
  | [] => 0
  | [.fin _ _ e] => e
  | .fin _ _ e :: ts => min e (minExp ts)
  | _ :: ts => minExp ts

/-- The exact sum of terms (R99, R101, R104): NaN for any NaN, or for infinities of both signs (invalid).
With a NaN among the terms, infinities of both signs raise nothing: R104 does not say whether they are still invalid
(DESIGN CHOICE, log 127). -/
def sumNum (terms : List Num) (mode : RMode) : Exact :=
  if terms.any Num.isNaN then { val := .canonNaN, flags := sigFlag terms }
  else
    let pos := terms.any (fun t => t.isInf && !t.negative)
    let neg := terms.any (fun t => t.isInf && t.negative)
    if pos && neg then { val := .canonNaN, flags := flInvalid }
    else if pos then { val := .inf false, flags := 0 }
    else if neg then { val := .inf true, flags := 0 }
    else
      let low := minExp terms
      let x := terms.foldl (fun a t => a + signedAt low t) 0
      if x = 0 then { val := .fin (zeroSign terms mode) 0 0, flags := 0 }
      else { val := .fin (decide (x < 0)) x.natAbs low, flags := 0 }

/-- The exact product (R99, R101). -/
def mulNum (x y : Num) : Exact :=
  if x.isNaN || y.isNaN then { val := .canonNaN, flags := sigFlag [x, y] }
  else
    match x, y with
    | .inf n, .fin m a _ => if a = 0 then { val := .canonNaN, flags := flInvalid } else { val := .inf (n != m), flags := 0 }
    | .fin m a _, .inf n => if a = 0 then { val := .canonNaN, flags := flInvalid } else { val := .inf (n != m), flags := 0 }
    | .inf n, .inf m => { val := .inf (n != m), flags := 0 }
    | .fin n a e, .fin m b f => { val := .fin (n != m) (a * b) (e + f), flags := 0 }
    | _, _ => { val := .canonNaN, flags := 0 }

/-- Floating min and max (R327): a NaN gives the canonical NaN, and -0 is less than +0. -/
def minMaxNum (isMax : Bool) (x y : Num) : Exact :=
  if x.isNaN || y.isNaN then { val := .canonNaN, flags := sigFlag [x, y] }
  else
    let less := x.lt y || (x.eqv y && x.isZero && x.negative && !y.negative)
    { val := if less == isMax then y else x, flags := 0 }

/-! ## Generators (R102) -/

def lfsrStep (g : BitVec 16) : BitVec 16 :=
  if g.getLsbD 0 then (g >>> 1) ^^^ 0xB400 else g >>> 1

/-- Step generator `i` of a list of 32 and give its new state. -/
def drawGen (gens : List (BitVec 16)) (i : Nat) : List (BitVec 16) × Nat :=
  let st := lfsrStep (gens.getD (i % 32) 0xACE1)
  (setAt gens (i % 32) st, st.toNat)

/-- The mode for one rounding, with the generators it leaves: mode 6 reads frm, mode 5 draws generator `i`. -/
def resolveMode (r frm : Nat) (gens : List (BitVec 16)) (i : Nat) : RMode × List (BitVec 16) :=
  match (if r = 6 then frm else r) with
  | 0 => (.rne, gens)
  | 1 => (.rtz, gens)
  | 2 => (.rup, gens)
  | 3 => (.rdn, gens)
  | 4 => (.rna, gens)
  | 5 => ((.sr (drawGen gens i).2), (drawGen gens i).1)
  | _ => (.rne, gens)

end Sys2Proof.Machine
end

