-- ==== Sys2Proof/WellFormed.lean ====
section
/-! DEFINITION. Which terms of `Instr` are instructions: what the form tables demand beyond the operand types. -/

namespace Sys2Proof

/-- Types 0 to 3. -/
def VTy.isInt : VTy → Bool
  | .int _ => true
  | .f32 => false
  | .bf16 => false
  | .q _ _ => false
  | .i4 => true
  | .x _ => false

def CTy.isInt : CTy → Bool
  | .int _ => true
  | .f32 => false
  | .bf16 => false
  | .q _ => false

def ATy.isInt : ATy → Bool
  | .i64 => true
  | .i32 => true
  | .f32 => false

def NTy.isInt : NTy → Bool
  | .i64 => true
  | .i32 => true
  | .f32 => false
  | .bf16 => false

/-- Floating and tolerance-chosen types, and the integers 0-3 (R324 F and Z). -/
def VTy.okFZ : VTy → Bool
  | .i4 => false
  | _ => true

/-- R324 F. -/
def VTy.okF : VTy → Bool
  | .int _ => false
  | .i4 => false
  | _ => true

/-- The types of `vneg`: not unsigned binary8 (R324). -/
def VTy.okFZs : VTy → Bool
  | .i4 => false
  | .q .uf _ => false
  | .q .ue _ => false
  | _ => true

/-- Types 0 to 10 (R324). -/
def VTy.ok10 : VTy → Bool
  | .x _ => false
  | _ => true

/-- The narrow types of `vpack` (R329). -/
def VTy.okPk : VTy → Bool
  | .int .i64 => false
  | .f32 => false
  | .x _ => false
  | _ => true

/-- The wide types of `vunpack` (R329). -/
def VTy.okUp : VTy → Bool
  | .int _ => true
  | .f32 => true
  | .bf16 => true
  | _ => false

/-- The types of the logarithmic path (R324). -/
def VTy.okL : VTy → Bool
  | .f32 => true
  | .bf16 => true
  | .q .sf _ => true
  | .q .se _ => true
  | .x _ => true
  | _ => false

/-- Lane width in bits (16 Table 1). -/
def ITy.width : ITy → Nat
  | .i64 => 64
  | .i32 => 32
  | .i16 => 16
  | .i8 => 8

def VTy.width : VTy → Nat
  | .int t => t.width
  | .f32 => 32
  | .bf16 => 16
  | .q _ _ => 8
  | .i4 => 4
  | .x _ => 32

/-- The source of `vcvt` has the destination's width and is not type 12 (R328). -/
def okCvt (t c : VTy) : Bool :=
  match c with
  | .x _ => false
  | .i4 => false
  | _ => t.width == c.width

/-- The narrow counterpart of a wide type (R329). -/
def okUnp (t c : VTy) : Bool :=
  match t, c with
  | .int .i64, .int .i32 => true
  | .int .i32, .int .i16 => true
  | .int .i16, .int .i8 => true
  | .int .i8, .i4 => true
  | .f32, .bf16 => true
  | .bf16, .q _ _ => true
  | _, _ => false

/-- Signedness matters to the condition (R210). -/
def Cond.signed : Cond → Bool
  | .eq => false
  | .ne => false
  | .tst => false
  | .lt => true
  | .le => true
  | .gt => true
  | .ge => true

/-- Operations that a float type takes (R392). -/
def AOp.floatOk : AOp → Bool
  | .swap => true
  | .add => true
  | .min => true
  | .max => true
  | .and => false
  | .or => false
  | .xor => false

def AOp.minMax : AOp → Bool
  | .min => true
  | .max => true
  | .swap => false
  | .add => false
  | .and => false
  | .or => false
  | .xor => false

def VSrc.noImm : VSrc → Bool
  | .imm _ => false
  | .v _ => true
  | .g _ => true

/-- An immediate whose bits under `mask` must be clear. -/
def immClear (v : BitVec 20) (mask : Nat) : Bool := v.toNat &&& mask == 0

/-- R205: bits [19:12] of an immediate spec are clear. -/
def GSrc.okSpec : GSrc → Bool
  | .reg _ => true
  | .imm v => immClear v 0xFF000

/-- R278: bits [19:16] of an immediate tag mask are clear. -/
def GSrc.okT16 : GSrc → Bool
  | .reg _ => true
  | .imm v => immClear v 0xF0000

/-- R306: an immediate peer mask has [19:8] clear and is not 0. -/
def GSrc.okMask : GSrc → Bool
  | .reg _ => true
  | .imm v => immClear v 0xFFF00 && v != 0

/-- R406: bits [19:14] of an immediate spec are clear. -/
def GSrc.okEp : GSrc → Bool
  | .reg _ => true
  | .imm v => immClear v 0xFC000

/-- R131: an immediate class is at most 63. -/
def GSrc.okK63 : GSrc → Bool
  | .reg _ => true
  | .imm v => decide (v.toNat ≤ 63)

/-- R324: an immediate repeat count is not negative. -/
def GSrc.okPos : GSrc → Bool
  | .reg _ => true
  | .imm v => immClear v 0x80000

/-- R126: an immediate budget lies in 0 to 0xFFFF with [13:12] clear. -/
def BSrc.okBud : BSrc → Bool
  | .reg _ => true
  | .imm v => immClear v 0xF3000

/-- R212: an immediate predicate is 0 or 1. -/
def PSrc.okPmov : PSrc → Bool
  | .p _ => true
  | .g _ => true
  | .imm v => immClear v 0xFFFFE

/-- R129: an immediate budget of `bmov`. -/
def BmovOp.ok : BmovOp → Bool
  | .bFromI _ v => immClear v 0xF3000
  | .bFromG _ _ => true
  | .bFromB _ _ => true
  | .gFromB _ _ => true

/-- R207: the value of `lih` lies between 0 and 2^24 - 1. -/
def okLih (w : BitVec 40) : Bool := decide (w.toNat < 2 ^ 24)


/-- The constraints that the form tables put on an instruction beyond the types of its operands. -/
def Instr.wf : Instr → Bool
  | .add _ _ _ _ _ _ => true
  | .sub _ _ _ _ _ _ => true
  | .mul _ _ _ _ _ _ => true
  | .mulh _ _ _ _ _ _ => true
  | .mad _ _ _ _ _ _ => true
  | .div _ _ _ _ _ _ => true
  | .rem _ _ _ _ _ _ => true
  | .and _ _ _ _ _ => true
  | .or _ _ _ _ _ => true
  | .xor _ _ _ _ _ => true
  | .andn _ _ _ _ _ => true
  | .shl _ _ _ _ _ _ => true
  | .shr _ _ _ _ _ _ => true
  | .rot _ _ _ _ _ => true
  | .min _ _ _ _ _ _ => true
  | .max _ _ _ _ _ _ => true
  | .abs _ _ _ _ _ => true
  | .clz _ _ _ _ => true
  | .ctz _ _ _ _ => true
  | .pop _ _ _ _ => true
  | .bext _ _ _ _ c => c.okSpec
  | .bins _ _ _ c => c.okSpec
  | .extI _ t _ _ _ => t != .i64
  | .mov _ _ _ => true
  | .li _ _ _ => true
  | .lih _ _ w => okLih w
  | .lpc _ _ _ => true
  | .sel _ _ _ _ _ _ => true
  | .cmp _ _ n u _ _ _ => (n.signed || !u)
  | .plog _ _ _ _ _ => true
  | .pmov _ _ _ b => b.okPmov
  | .pget _ _ _ => true
  | .br _ _ _ _ => true
  | .brl _ _ _ _ => true
  | .jr _ _ _ _ _ => true
  | .jrl _ _ _ _ _ => true
  | .dbr _ _ _ => true
  | .ctlRd _ _ _ => true
  | .ctlWr _ _ _ => true
  | .ctlSet _ _ _ => true
  | .ctlClr _ _ _ => true
  | .trap _ _ => true
  | .eret _ => true
  | .sysc _ _ => true
  | .halt _ => true
  | .nop _ => true
  | .yieldI _ => true
  | .ifence _ => true
  | .ifenceFill _ _ _ _ => true
  | .gangShed _ => true
  | .gangJoin _ => true
  | .demand _ _ b => b.okBud
  | .settle _ => true
  | .bshare _ _ _ _ => true
  | .bmov _ m => m.ok
  | .grade _ _ => true
  | .sensLd _ a _ => a.okK63
  | .sensLdReset _ a => a.okK63
  | .ld _ _ _ _ _ => true
  | .st _ _ _ _ => true
  | .ldAcq _ _ _ _ _ _ => true
  | .stRel _ _ _ _ _ => true
  | .ldWf _ _ _ _ _ _ => true
  | .stWe _ _ _ _ => true
  | .tagRd _ _ _ => true
  | .tagFull _ _ b => b.okT16
  | .tagEmpty _ _ b => b.okT16
  | .pref _ _ => true
  | .cfl _ _ => true
  | .cflEvict _ _ => true
  | .cinv _ _ => true
  | .cinvAll _ => true
  | .fence _ _ => true
  | .fenceAcq _ _ => true
  | .fenceRel _ _ => true
  | .region _ => true
  | .regionForce _ => true
  | .regionDrop _ => true
  | .ldPair _ _ _ a b _ => (a != b || a == 0)
  | .stPair _ _ _ _ _ => true
  | .launch _ _ _ => true
  | .doneI _ => true
  | .nexttile _ _ => true
  | .ringClaim _ _ _ _ => true
  | .ringPost _ _ _ => true
  | .ringTake _ _ _ _ => true
  | .ringFree _ _ _ => true
  | .ringStat _ _ _ => true
  | .copy _ _ _ => true
  | .copyDeal _ _ _ c => c.okMask
  | .shutQ _ _ _ => true
  | .shutQDrop _ _ _ => true
  | .copyResume _ _ _ _ => true
  | .mx _ _ _ => true
  | .accZero _ _ _ _ => true
  | .cnPut _ _ _ _ => true
  | .cnGet _ _ _ => true
  | .cnGetRef _ _ _ => true
  | .cnRef _ _ _ => true
  | .cnUnref _ _ _ => true
  | .cnNode _ _ _ _ => true
  | .cnSwap _ _ _ _ => true
  | .cnRoot _ _ _ _ => true
  | .cnRootRef _ _ _ _ => true
  | .cnOut _ _ _ _ => true
  | .cnCfg _ _ _ => true
  | .cnCfgStat _ _ _ => true
  | .amo _ t n r u _ _ _ => (t.isInt || n.floatOk) && (!t.isInt || r == .rne) && (n.minMax || !u)
  | .amoCas _ _ _ _ _ => true
  | .red _ t n r u _ _ _ => (t.isInt || n.floatOk) && n != .swap && (!t.isInt || r == .rne) && (n.minMax || !u)
  | .bupd _ _ _ _ _ => true
  | .bupdR _ _ _ _ _ _ => true
  | .bcfg _ _ _ _ => true
  | .vbupd _ _ _ _ _ _ => true
  | .barInit _ _ _ => true
  | .barArr _ _ _ _ => true
  | .barWait _ _ _ => true
  | .barTest _ _ _ => true
  | .tbar _ _ c => c.okEp
  | .nred _ t n r u _ _ c => (t.isInt || n.floatOk) && n != .swap && (!t.isInt || r == .rne) && (n.minMax || !u) && c.okEp
  | .wait _ _ _ _ => true
  | .pause _ _ => true
  | .msgSend _ _ _ _ => true
  | .hatchPut _ _ => true
  | .hatchGet _ _ => true
  | .hatchFree _ _ => true
  | .jobPoll _ _ _ _ => true
  | .jobPollAcq _ _ _ _ => true
  | .jobCancel _ _ _ _ => true
  | .vld _ _ _ _ => true
  | .vst _ _ _ => true
  | .vadd _ t r _ _ _ c => VTy.okFZ t && (!t.isInt || r == .rne) && (t.isInt || c.noImm)
  | .vsub _ t r _ _ _ c => VTy.okFZ t && (!t.isInt || r == .rne) && (t.isInt || c.noImm)
  | .vmul _ t r _ _ _ c => VTy.okFZ t && (!t.isInt || r == .rne) && (t.isInt || c.noImm)
  | .vfma _ t r _ _ _ _ => VTy.okF t && (!t.isInt || r == .rne)
  | .vfms _ t r _ _ _ _ => VTy.okF t && (!t.isInt || r == .rne)
  | .vnfma _ t r _ _ _ _ => VTy.okF t && (!t.isInt || r == .rne)
  | .vmin _ t u _ _ c => VTy.okFZ t && (t.isInt || !u) && (t.isInt || c.noImm)
  | .vmax _ t u _ _ c => VTy.okFZ t && (t.isInt || !u) && (t.isInt || c.noImm)
  | .vabs _ t sa _ _ => VTy.okFZ t && (t.isInt || !sa)
  | .vneg _ t sa _ _ => VTy.okFZs t && (t.isInt || !sa)
  | .vcvt _ t _ _ _ _ c => VTy.okFZ t && okCvt t c
  | .vsum _ t r _ _ _ => VTy.okFZ t && (!t.isInt || r == .rne)
  | .vdot _ t r _ _ _ _ => VTy.okFZ t && (!t.isInt || r == .rne)
  | .vcmp _ t n u _ _ c => (t.isInt || n != .tst) && ((n.signed && t.isInt) || !u) && (t.isInt || c.noImm)
  | .vsel _ _ _ _ _ => true
  | .vand _ _ _ _ => true
  | .vor _ _ _ _ => true
  | .vxor _ _ _ _ => true
  | .vshl _ _ _ _ _ _ => true
  | .vshr _ _ _ _ _ _ => true
  | .vbcast _ t _ _ => VTy.ok10 t
  | .vext _ t _ _ _ _ => VTy.ok10 t
  | .vins _ t _ _ _ => VTy.ok10 t
  | .vpack _ t r _ _ _ _ => VTy.okPk t && (!t.isInt || r == .rne)
  | .vunpack _ t _ _ c _ => VTy.okUp t && okUnp t c
  | .vperm _ _ _ _ _ => true
  | .vmr _ t r _ _ _ _ => VTy.okFZ t && (!t.isInt || r == .rne)
  | .vlog _ t r _ _ _ => VTy.okL t && (!t.isInt || r == .rne)
  | .valog _ t r _ _ _ => VTy.okL t && (!t.isInt || r == .rne)
  | .vexp2 _ t r _ _ _ => VTy.okL t && (!t.isInt || r == .rne)
  | .vlog2 _ t r _ _ _ => VTy.okL t && (!t.isInt || r == .rne)
  | .vrcp _ t r _ _ _ => VTy.okL t && (!t.isInt || r == .rne)
  | .vsqrt _ t r _ _ _ => VTy.okL t && (!t.isInt || r == .rne)
  | .vrsqrt _ t r _ _ _ => VTy.okL t && (!t.isInt || r == .rne)
  | .vpow _ t r _ _ _ _ => VTy.okL t && (!t.isInt || r == .rne)
  | .vsigm _ t r _ _ _ => VTy.okL t && (!t.isInt || r == .rne)
  | .vtanh _ t r _ _ _ => VTy.okL t && (!t.isInt || r == .rne)
  | .scfg _ _ _ => true
  | .sbind _ _ => true
  | .sfree _ _ => true
  | .vrpt _ a _ => a.okPos
  | .vsync _ => true
  | .ctxSave _ _ _ => true
  | .ctxLoad _ _ => true
  | .ctxDrop _ _ => true
  | .pipeCycle _ => true
  | .pipeTimeSlice _ => true
  | .parkedAnswer _ _ => true
  | .tagWake _ _ => true
  | .peerTaggedRequest _ => true
  | .pauseExpiry _ _ => true
  | .sleepExpiry _ _ => true
  | .waitTimeout _ _ => true
  | .timerInterrupt _ _ => true
  | .sidingIssue _ => true
  | .tlbWalk _ _ _ _ => true
  | .walkServiceRelease _ => true
  | .walkServiceDecline _ => true
  | .shootdownPage _ _ _ _ => true
  | .shootdownRange _ _ _ _ _ => true
  | .shootdownSpace _ _ _ => true
  | .shootdownAll _ _ => true
  | .shootdownComplete _ => true
  | .wqDispatch _ => true
  | .pathPerform _ _ _ => true
  | .nearCacheFillEvict _ _ _ _ => true
  | .releaseWaitEnd _ _ => true
  | .copyJobUnit _ => true
  | .copyJobFinal _ _ => true
  | .matrixTile _ => true
  | .matrixJobFinal _ _ => true
  | .matrixShadowReplay _ _ => true
  | .accZeroJob _ _ => true
  | .cnOutJob _ _ => true
  | .contentHomeRequest _ _ => true
  | .contentCountMessage _ _ => true
  | .reclaim _ _ => true
  | .bankUpdateApply _ => true
  | .barrierArrival _ _ _ => true
  | .treeEpisodeComplete _ _ => true
  | .msgDeliver _ => true
  | .nexttileAnswer => true
  | .launchLatch _ _ _ => true
  | .launchAccept => true
  | .launchPlace => true
  | .instanceStart => true
  | .governorSample _ => true
  | .meterUpdate _ _ _ => true
  | .deadlineMiss _ _ => true
  | .preempt _ _ => true
  | .restore _ _ => true
  | .charterComplete _ _ => true
  | .hostAck => true
  | .replayRequest => true
  | .cancel => true
  | .dqheadWrite _ => true
  | .ringCmdPost _ => true
  | .ringCmdRetire _ => true
  | .ringCmdClose => true
  | .ringCmdSelect _ _ => true
  | .fenceCluster _ => true
  | .dbgsig _ _ _ => true
  | .dbgrel _ _ => true
  | .keyInstall _ => true
  | .keyRekey _ => true
  | .diereset _ => true
  | .quiesceGraceExpiry _ => true
  | .quiesceDrainDone _ _ _ => true
  | .dieResume _ => true
  | .eccError _ _ _ => true
  | .limiterWindow _ _ _ => true
  | .powerOn _ => true
  | .dieMeasure _ _ => true
  | .getVersion _ => true
  | .getCapabilities _ => true
  | .negotiateAlgorithms _ => true
  | .getDigests _ => true
  | .getCertificate _ => true
  | .challenge _ => true
  | .getMeasurements _ => true
  | .spdmUnsupported _ => true
  | .imageLoad _ _ _ _ => true
  | .hostMemoryRequest _ _ _ _ => true
  | .frameReceive _ _ _ => true
  | .rawSend _ => true
  | .txtsRead _ => true
  | .doorbell _ => true
  | .flowPoll _ => true
  | .workRequest _ => true
  | .writeI _ _ => true
  | .readreq _ _ => true
  | .readresp _ _ => true
  | .ack _ _ => true
  | .marker _ _ => true
  | .nack _ _ => true
  | .releasePerform _ => true
  | .rtoExpiry _ _ => true
  | .pathRetry _ _ => true
  | .ackTimer _ _ => true
  | .completionEntry _ => true
  | .flowError _ => true
  | .storageRetrain => true
  | .driveMemoryRequest _ _ _ => true
  | .driveMsix _ => true
  | .sfaultRead => true
  | .systemCoreDriveAccess _ _ _ _ _ => true
  | .registerWrite _ _ => true
  | .portLinkChange _ _ _ _ => true
  | .storageLinkChange _ _ _ _ => true
  | .advancedErrorReporting _ => true
  | .driveServiceTimeout _ => true
  | .refusedRequestRetry _ _ => true
  | .imageUpdate _ => true
  | .timeset _ => true
  | .dqbaseWrite _ => true
  | .systemCoreMemoryAccess _ _ _ _ _ => true

/-- A well-formed instruction. -/
abbrev WellFormed (i : Instr) : Prop := i.wf = true

end Sys2Proof
end

