-- ==== Sys2Proof/Decode.lean ====
section
/-! DEFINITION. Decoding an instruction word and encoding an instruction (04): the four checks of R75, the offsets
of R76, and the encoder written from the same tables. Total on every word and every byte string. -/

namespace Sys2Proof

/-! ## The fields of a word -/

/-- The fields of 04 Table 1. -/
structure Fields where
  op : BitVec 8
  ty : BitVec 4
  sub : BitVec 3
  rnd : BitVec 3
  sat : Bool
  flag : Bool
  inv : Bool
  pred : BitVec 3
  taken : Bool
  yields : Bool
  lastb : Bool
  lastc : Bool
  res : BitVec 2
  a : BitVec 22
  b : BitVec 22
  c : BitVec 22
  deriving DecidableEq, Repr

/-- The fields of a 96-bit word (R66). -/
def unpack (w : InstrWord) : Fields :=
  { op := w.extractLsb' 88 8
    ty := w.extractLsb' 84 4
    sub := w.extractLsb' 81 3
    rnd := w.extractLsb' 78 3
    sat := w.getLsbD 77
    flag := w.getLsbD 76
    inv := w.getLsbD 75
    pred := w.extractLsb' 72 3
    taken := w.getLsbD 71
    yields := w.getLsbD 70
    lastb := w.getLsbD 69
    lastc := w.getLsbD 68
    res := w.extractLsb' 66 2
    a := w.extractLsb' 44 22
    b := w.extractLsb' 22 22
    c := w.extractLsb' 0 22 }

/-- The 96-bit word of the fields (R66). -/
def pack (f : Fields) : InstrWord :=
  f.op ++ f.ty ++ f.sub ++ f.rnd ++ BitVec.ofBool f.sat ++ BitVec.ofBool f.flag ++ BitVec.ofBool f.inv ++
    f.pred ++ BitVec.ofBool f.taken ++ BitVec.ofBool f.yields ++ BitVec.ofBool f.lastb ++
    BitVec.ofBool f.lastc ++ f.res ++ f.a ++ f.b ++ f.c

/-- How many g and v registers the partition word gives the thread (R73, R74). -/
structure Lim where
  ng : Nat
  nv : Nat
  deriving DecidableEq, Repr

/-- Every register of both classes. -/
def Lim.full : Lim := { ng := 64, nv := 32 }

/-! ## Reading fields while collecting the offsets of faults -/

/-- A value read from a word, with the bit offsets at which the word offends (R76). -/
structure V (α : Type) where
  errs : List Nat
  val : Option α
  deriving Repr

/-- A value with no fault. -/
def V.ok {α : Type} (x : α) : V α := { errs := [], val := some x }

/-- No value: a fault at each offset. -/
def V.bad {α : Type} (es : List Nat) : V α := { errs := es, val := none }

/-- A function read from a word applied to a value read from it. -/
def V.ap {α β : Type} (f : V (α → β)) (x : V α) : V β :=
  match f.val, x.val with
  | some g, some y => { errs := f.errs ++ x.errs, val := some (g y) }
  | _, _ => { errs := f.errs ++ x.errs, val := none }

/-- The same for a field that is judged only when no earlier field is at fault (R72, of an instruction with several
forms). -/
def V.apAfter {α β : Type} (f : V (α → β)) (earlier : List Nat) (x : V α) : V β :=
  match earlier with
  | [] => f.ap x
  | _ :: _ => { errs := f.errs, val := none }

/-- Faults of a field that is judged only when no earlier field is at fault. -/
def after : List Nat → List Nat → List Nat
  | [], es => es
  | _ :: _, _ => []

/-- Faults that carry no value. -/
def V.chk {α : Type} (x : V α) (es : List Nat) : V α := { x with errs := x.errs ++ es }

/-- The lowest set bit of `n` (0 when there is none), looking at 22 bits. -/
def lowBit (n : Nat) : Nat :=
  match (List.range 22).find? (fun i => n.testBit i) with
  | some i => i
  | none => 0

/-- Offset of the lowest set bit of `n` above `base`, when `n` is not 0. -/
def lowErr (n base : Nat) : List Nat := if n = 0 then [] else [base + lowBit n]

/-! ## Operand fields (R72, 04 Table 4) -/

def kindOf (x : BitVec 22) : Nat := x.toNat / 1048576
def classOf (x : BitVec 22) : Nat := x.toNat / 65536 % 16
def indexOf (x : BitVec 22) : Nat := x.toNat / 64 % 1024
def restOf (x : BitVec 22) : Nat := x.toNat % 64
def immOf (x : BitVec 22) : BitVec 20 := x.extractLsb' 0 20

/-- A register of class `cls` with index below `n`. -/
def vReg (cls n : Nat) (x : BitVec 22) (base : Nat) : V Nat :=
  if kindOf x ≠ 0 then .bad [base + 20]
  else if classOf x ≠ cls then .bad (lowErr (restOf x) base ++ [base + 16])
  else if indexOf x < n then { errs := lowErr (restOf x) base, val := some (indexOf x) }
  else .bad (lowErr (restOf x) base ++ [base + 6])

def V.map {α β : Type} (f : α → β) (x : V α) : V β := { errs := x.errs, val := x.val.map f }

/-- A number that is known to be below `n`, as `Fin`. -/
def toFin (n : Nat) (h : 0 < n) (k : Nat) : Fin n := ⟨k % n, Nat.mod_lt _ h⟩

def vG (l : Lim) (x : BitVec 22) (base : Nat) : V (Fin 64) := (vReg 0 (min l.ng 64) x base).map (toFin 64 (by decide))
def vV (l : Lim) (x : BitVec 22) (base : Nat) : V (Fin 32) := (vReg 1 (min l.nv 32) x base).map (toFin 32 (by decide))
def vP (x : BitVec 22) (base : Nat) : V (Fin 8) := (vReg 2 8 x base).map (toFin 8 (by decide))
def vB (x : BitVec 22) (base : Nat) : V (Fin 8) := (vReg 3 8 x base).map (toFin 8 (by decide))

/-- v0 to v3 (R324: v4 or above is a fault at word bit 50). -/
def vV4 (x : BitVec 22) (base : Nat) : V (Fin 4) := (vReg 1 4 x base).map (toFin 4 (by decide))

/-- The numbers of 04 Table 6. -/
def CtlNum.num : CtlNum → Nat
  | .pc => 0x000 | .slot => 0x001 | .coord => 0x002 | .part => 0x003 | .charter => 0x004 | .gang => 0x005
  | .sill => 0x006 | .feat => 0x007 | .spaceid => 0x008 | .gen => 0x009 | .deadline => 0x00A
  | .xpc => 0x010 | .xcause => 0x011 | .xaddr => 0x012 | .xinfo => 0x013 | .xvec => 0x014 | .xstat => 0x015
  | .xscratch => 0x016
  | .clock => 0x020 | .ptime => 0x021 | .cycles => 0x022 | .energy => 0x023
  | .frm => 0x030 | .fflags => 0x031 | .srseed => 0x032
  | .region => 0x040 | .rsplits => 0x041 | .blind => 0x050 | .transom => 0x051
  | .tstate => 0x060 | .tentry => 0x061 | .treplays => 0x062 | .deadmsg => 0x070

/-- The control register with a number, if it is allocated (R78). -/
def CtlNum.ofNum : Nat → Option CtlNum
  | 0x000 => some .pc | 0x001 => some .slot | 0x002 => some .coord | 0x003 => some .part
  | 0x004 => some .charter | 0x005 => some .gang | 0x006 => some .sill | 0x007 => some .feat
  | 0x008 => some .spaceid | 0x009 => some .gen | 0x00A => some .deadline
  | 0x010 => some .xpc | 0x011 => some .xcause | 0x012 => some .xaddr | 0x013 => some .xinfo
  | 0x014 => some .xvec | 0x015 => some .xstat | 0x016 => some .xscratch
  | 0x020 => some .clock | 0x021 => some .ptime | 0x022 => some .cycles | 0x023 => some .energy
  | 0x030 => some .frm | 0x031 => some .fflags | 0x032 => some .srseed
  | 0x040 => some .region | 0x041 => some .rsplits | 0x050 => some .blind | 0x051 => some .transom
  | 0x060 => some .tstate | 0x061 => some .tentry | 0x062 => some .treplays | 0x070 => some .deadmsg
  | _ => none

/-- A control register: an unallocated number is a fault at bit 6 of the field (R76, R217). -/
def vK (x : BitVec 22) (base : Nat) : V CtlNum :=
  let r := vReg 4 1024 x base
  match r.val with
  | none => .bad r.errs
  | some k =>
    match CtlNum.ofNum k with
    | some c => { errs := r.errs, val := some c }
    | none => .bad (r.errs ++ [base + 6])

/-- A 20-bit immediate. -/
def vI (x : BitVec 22) (base : Nat) : V (BitVec 20) :=
  if kindOf x = 1 then .ok (immOf x) else .bad [base + 20]

/-- An immediate or a register read by `r`. -/
def vImmOr {α : Type} (mk : BitVec 20 → α) (r : BitVec 22 → Nat → V α) (x : BitVec 22) (base : Nat) : V α :=
  if kindOf x = 1 then .ok (mk (immOf x)) else r x base

def vGI (l : Lim) (x : BitVec 22) (base : Nat) : V GSrc :=
  vImmOr GSrc.imm (fun y b => (vG l y b).map GSrc.reg) x base

def vBI (x : BitVec 22) (base : Nat) : V BSrc := vImmOr BSrc.imm (fun y b => (vB y b).map BSrc.reg) x base

/-- One of two register classes. -/
def vTwo {α : Type} (c1 : Nat) (r1 r2 : BitVec 22 → Nat → V α) (x : BitVec 22) (base : Nat) : V α :=
  if kindOf x = 0 ∧ classOf x = c1 then r1 x base else r2 x base

def vVG (l : Lim) (x : BitVec 22) (base : Nat) : V VGSrc :=
  vTwo 0 (fun y b => (vG l y b).map VGSrc.g) (fun y b => (vV l y b).map VGSrc.v) x base

def vVGI (l : Lim) (x : BitVec 22) (base : Nat) : V VSrc :=
  vImmOr VSrc.imm (vTwo 0 (fun y b => (vG l y b).map VSrc.g) (fun y b => (vV l y b).map VSrc.v)) x base

/-- An immediate is accepted for the integer types only (R324). -/
def vVGIz (l : Lim) (x : BitVec 22) (base : Nat) (isInt : Bool) : V VSrc :=
  if isInt then vVGI l x base
  else vTwo 0 (fun y b => (vG l y b).map VSrc.g) (fun y b => (vV l y b).map VSrc.v) x base

def vPGI (l : Lim) (x : BitVec 22) (base : Nat) : V PSrc :=
  vImmOr PSrc.imm (vTwo 0 (fun y b => (vG l y b).map PSrc.g) (fun y b => (vP y b).map PSrc.p)) x base

/-- A predicate, or 22 zero bits (R213). -/
def vPA (x : BitVec 22) (base : Nat) : V (Option (Fin 8)) :=
  if x = 0 then .ok none else (vP x base).map some

/-- An immediate, or 22 zero bits (R222). -/
def vIZ (x : BitVec 22) (base : Nat) : V (Option (BitVec 20)) :=
  if x = 0 then .ok none else (vI x base).map some

/-- A memory operand: a base beyond the thread's g registers is a fault at bit 14 (R73). -/
def vM (l : Lim) (x : BitVec 22) (base : Nat) : V Mem :=
  if kindOf x ≠ 3 then .bad [base + 20]
  else if x.toNat / 16384 % 64 < min l.ng 64 then
    .ok { base := toFin 64 (by decide) (x.toNat / 16384 % 64), off := x.extractLsb' 0 14 }
  else .bad [base + 14]

/-- An operand that the form leaves unused is 22 zero bits (R72). -/
def oUnused (x : BitVec 22) (base : Nat) : List Nat := lowErr x.toNat base

/-- An immediate that must be clear under `mask`; the fault is at its lowest offending bit. -/
def vMask {α : Type} (mask : Nat) (x : BitVec 22) (base : Nat) (v : V α) : V α :=
  if kindOf x = 1 then v.chk (lowErr (x.toNat &&& mask) base) else v

def vImmSpec {α : Type} := @vMask α 0xFF000
def vImmT16 {α : Type} := @vMask α 0xF0000
def vImmEp {α : Type} := @vMask α 0xFC000
def vImmPos {α : Type} := @vMask α 0x80000
def vImmBud {α : Type} := @vMask α 0xF3000
def vImmPmov {α : Type} := @vMask α 0xFFFFE

/-- R306: the immediate peer mask of `copy.deal`. -/
def vImmMask {α : Type} (x : BitVec 22) (base : Nat) (v : V α) : V α :=
  if kindOf x = 1 then
    v.chk (lowErr (x.toNat &&& 0xFFF00) base ++ (if x.toNat &&& 0xFFFFF = 0 then [base] else []))
  else v

/-- R131: an immediate class above 63 is a fault at bit 0 of the field. -/
def vImmK63 {α : Type} (x : BitVec 22) (base : Nat) (v : V α) : V α :=
  if kindOf x = 1 ∧ ¬ (immOf x).toNat ≤ 63 then v.chk [base] else v

/-- An immediate below `n`, else a fault at `off`. -/
def vImmBelow (n : Nat) (h : 0 < n) (off : Nat) (x : BitVec 22) (base : Nat) : V (Fin n) :=
  if kindOf x ≠ 1 then .bad [base + 20]
  else if (immOf x).toNat < n then .ok (toFin n h (immOf x).toNat) else .bad [off]

def vI3 (x : BitVec 22) : V (Fin 4) := vImmBelow 4 (by decide) 46 x 44
def vI4 (x : BitVec 22) (base : Nat) : V (Fin 5) := vImmBelow 5 (by decide) base x base
def vI1 (x : BitVec 22) (base : Nat) : V Bool := (vImmBelow 2 (by decide) base x base).map (fun k => k.val == 1)

/-- R417: a queue number above 1 is a fault at its lowest offending bit. -/
def vQ1 (x : BitVec 22) (base : Nat) : V Bool :=
  (vImmBelow 2 (by decide) (base + lowBit (x.toNat &&& 0xFFFFE)) x base).map (fun k => k.val == 1)

/-- R400: codes 14 and 15 are faults at word bit 0, bits [19:4] at their lowest. -/
def vCode (x : BitVec 22) : V (Fin 14) :=
  vImmBelow 14 (by decide) (if x.toNat &&& 0xFFFF0 = 0 then 0 else lowBit (x.toNat &&& 0xFFFF0)) x 0

/-- R324: the length of `vrpt`, 1 to 15. -/
def vL15 (x : BitVec 22) (base : Nat) : V (Fin 15) :=
  if kindOf x ≠ 1 then .bad [base + 20]
  else if 1 ≤ (immOf x).toNat ∧ (immOf x).toNat ≤ 15 then .ok (toFin 15 (by decide) ((immOf x).toNat - 1))
  else .bad [base + lowBit (x.toNat &&& 0xFFFF0)]

/-- R128: the selector of `bshare`. -/
def vBsh (x : BitVec 22) : V ShareSel :=
  if kindOf x ≠ 1 then .bad [20]
  else
    let v := (immOf x).toNat
    let n := v / 256 % 8
    let es := (if 1 ≤ n ∧ n ≤ 4 then [] else [8]) ++ lowErr (v &&& 0xFF800) 0
    { errs := es
      val := some { cls := toFin 64 (by decide) (v % 64), opnd := toFin 4 (by decide) (v / 64 % 4),
                    n1 := toFin 4 (by decide) (n - 1) } }

/-! ## The function field (R67-R71) -/

def vH (f : Fields) : V Hdr :=
  { errs := lowErr f.res.toNat 66
    val := some { pred := toFin 8 (by decide) f.pred.toNat, inv := f.inv, taken := f.taken, yields := f.yields,
                  lastb := f.lastb, lastc := f.lastc } }

def oTyIs (f : Fields) (k : Nat) : List Nat := if f.ty.toNat = k then [] else [84]
def oTy0 (f : Fields) : List Nat := oTyIs f 0
def oSub0 (f : Fields) : List Nat := if f.sub = 0 then [] else [81]
def oRnd0 (f : Fields) : List Nat := lowErr f.rnd.toNat 78
def oSat0 (f : Fields) : List Nat := if f.sat then [77] else []
def oFlag0 (f : Fields) : List Nat := if f.flag then [76] else []

def ITy.ofCode : Nat → Option ITy
  | 0 => some .i64 | 1 => some .i32 | 2 => some .i16 | 3 => some .i8 | _ => none

def ITy.code : ITy → Nat
  | .i64 => 0 | .i32 => 1 | .i16 => 2 | .i8 => 3

def PTy.code : PTy → Nat
  | .i64 => 0 | .i32 => 1

def ATy.code : ATy → Nat
  | .i64 => 0 | .i32 => 1 | .f32 => 4

def NTy.code : NTy → Nat
  | .i64 => 0 | .i32 => 1 | .f32 => 4 | .bf16 => 5

def QVar.ofCode : Nat → QVar
  | 0 => .sf | 1 => .se | 2 => .uf | _ => .ue

def QVar.code : QVar → Nat
  | .sf => 0 | .se => 1 | .uf => 2 | .ue => 3

def CTy.code : CTy → Nat
  | .int t => t.code | .f32 => 4 | .bf16 => 5 | .q v => 6 + v.code

def VTy.code : VTy → Nat
  | .int t => t.code | .f32 => 4 | .bf16 => 5 | .q v _ => 6 + v.code | .i4 => 10 | .x _ => 12

def VTy.sub : VTy → Nat
  | .int _ => 0 | .f32 => 0 | .bf16 => 0 | .q _ p => p.val + 1 | .i4 => 0 | .x b => b.val

def Rnd.code : Rnd → Nat
  | .rne => 0 | .rtz => 1 | .rup => 2 | .rdn => 3 | .rna => 4 | .sr => 5 | .dyn => 6

def Rnd.ofCode : Nat → Option Rnd
  | 0 => some .rne | 1 => some .rtz | 2 => some .rup | 3 => some .rdn | 4 => some .rna | 5 => some .sr
  | 6 => some .dyn | _ => none

def Cond.code : Cond → Nat
  | .eq => 0 | .ne => 1 | .lt => 2 | .le => 3 | .gt => 4 | .ge => 5 | .tst => 6

def Cond.ofCode : Nat → Option Cond
  | 0 => some .eq | 1 => some .ne | 2 => some .lt | 3 => some .le | 4 => some .gt | 5 => some .ge
  | 6 => some .tst | _ => none

def Scope.code : Scope → Nat
  | .core => 0 | .clu => 1 | .die => 2 | .mod => 3 | .sys => 4

def Scope.ofCode : Nat → Option Scope
  | 0 => some .core | 1 => some .clu | 2 => some .die | 3 => some .mod | 4 => some .sys | _ => none

def AOp.code : AOp → Nat
  | .swap => 0 | .add => 1 | .and => 2 | .or => 3 | .xor => 4 | .min => 5 | .max => 6

def AOp.ofCode : Nat → Option AOp
  | 0 => some .swap | 1 => some .add | 2 => some .and | 3 => some .or | 4 => some .xor | 5 => some .min
  | 6 => some .max | _ => none

/-- A value or a fault at one offset. -/
def vOpt {α : Type} (off : Nat) : Option α → V α
  | some x => .ok x
  | none => .bad [off]

def vITy (f : Fields) : V ITy := vOpt 84 (ITy.ofCode f.ty.toNat)

def vITy123 (f : Fields) : V ITy :=
  (vITy f).chk (if f.ty = 0 then [84] else [])

def vPTy (f : Fields) : V PTy :=
  match f.ty.toNat with
  | 0 => .ok .i64 | 1 => .ok .i32 | _ => .bad [84]

def vATy (f : Fields) : V ATy :=
  match f.ty.toNat with
  | 0 => .ok .i64 | 1 => .ok .i32 | 4 => .ok .f32 | _ => .bad [84]

def vNTy (f : Fields) : V NTy :=
  match f.ty.toNat with
  | 0 => .ok .i64 | 1 => .ok .i32 | 4 => .ok .f32 | 5 => .ok .bf16 | _ => .bad [84]

def vCTy (f : Fields) : V CTy :=
  match f.ty.toNat with
  | 0 => .ok (.int .i64) | 1 => .ok (.int .i32) | 2 => .ok (.int .i16) | 3 => .ok (.int .i8)
  | 4 => .ok .f32 | 5 => .ok .bf16
  | 6 => .ok (.q .sf) | 7 => .ok (.q .se) | 8 => .ok (.q .uf) | 9 => .ok (.q .ue)
  | _ => .bad [84]

/-- A type code and its sub-field (04 Table 2): an unknown code, or a sub value outside its column. -/
inductive TyRead where
  | good (t : VTy)
  | badSub (t : VTy)
  | badType
  deriving DecidableEq, Repr

def readTy (ty sub : Nat) : TyRead :=
  let plain (t : VTy) : TyRead := if sub = 0 then .good t else .badSub t
  match ty with
  | 0 => plain (.int .i64) | 1 => plain (.int .i32) | 2 => plain (.int .i16) | 3 => plain (.int .i8)
  | 4 => plain .f32 | 5 => plain .bf16 | 10 => plain .i4
  | 12 => .good (.x (toFin 8 (by decide) sub))
  | 6 => if 1 ≤ sub then .good (.q .sf (toFin 7 (by decide) (sub - 1))) else .badSub (.q .sf 0)
  | 7 => if 1 ≤ sub then .good (.q .se (toFin 7 (by decide) (sub - 1))) else .badSub (.q .se 0)
  | 8 => if 1 ≤ sub then .good (.q .uf (toFin 7 (by decide) (sub - 1))) else .badSub (.q .uf 0)
  | 9 => if 1 ≤ sub then .good (.q .ue (toFin 7 (by decide) (sub - 1))) else .badSub (.q .ue 0)
  | _ => .badType

/-- A vector type: a code that the row does not list is a fault at 84, a sub value outside its column at 81. -/
def vVTy (f : Fields) (ok : VTy → Bool) : V VTy :=
  match readTy f.ty.toNat f.sub.toNat with
  | .good t => if ok t then .ok t else .bad [84]
  | .badSub t => if ok t then .bad [81] else .bad [84]
  | .badType => .bad [84]

/-- The type code is an integer type. -/
def Fields.intTy (f : Fields) : Bool := decide (f.ty.toNat ≤ 3) || f.ty == 10

def vRnd (f : Fields) : V Rnd := vOpt 78 (Rnd.ofCode f.rnd.toNat)

/-- Rounding accepted by the floating types only. -/
def vRndF (f : Fields) : V Rnd :=
  if f.intTy then (V.ok Rnd.rne).chk (oRnd0 f) else vRnd f

def vSat (f : Fields) : V Bool := .ok f.sat
def vSatZ (f : Fields) : V Bool := (V.ok f.sat).chk (if f.intTy then [] else oSat0 f)
def vFlag (f : Fields) : V Bool := .ok f.flag
def vFlagIf (f : Fields) (ok : Bool) : V Bool := (V.ok f.flag).chk (if ok then [] else oFlag0 f)

def vSub8 (f : Fields) : V (Fin 8) := .ok (toFin 8 (by decide) f.sub.toNat)
def vSub4 (f : Fields) : V (Fin 4) :=
  (V.ok (toFin 4 (by decide) f.sub.toNat)).chk (if f.sub.toNat < 4 then [] else [81])
def vSubBit (f : Fields) : V Bool := (V.ok (f.sub == 1)).chk (if f.sub.toNat < 2 then [] else [81])
def vCond (f : Fields) : V Cond := vOpt 81 (Cond.ofCode f.sub.toNat)

/-- The condition of `vcmp`: .tst for the integer types only (R327). -/
def vCondV (f : Fields) : V Cond :=
  (vCond f).chk (if f.sub = 6 ∧ f.intTy = false then [81] else [])

def vScope (f : Fields) : V Scope := vOpt 81 (Scope.ofCode f.sub.toNat)

/-- R392: `red` and `nred` take no swap; float types take four operations. -/
def vAOp (f : Fields) (swap : Bool) : V AOp :=
  match AOp.ofCode f.sub.toNat with
  | none => .bad [81]
  | some o =>
    if (o = .swap ∧ swap = false) ∨ (f.intTy = false ∧ o.floatOk = false) then .bad [81] else .ok o

/-- Flag 1 is not reserved for the condition that the sub-field holds: it is for .eq, .ne and .tst (R210). -/
def Fields.condSigned (f : Fields) : Bool :=
  match Cond.ofCode f.sub.toNat with
  | some c => c.signed
  | none => true

def Fields.minMax (f : Fields) : Bool :=
  match AOp.ofCode f.sub.toNat with
  | some o => o.minMax
  | none => false

/-! ## Forms with a shape of their own -/

/-- R256: A and B of `ld.pair` name one register other than g0: word bit 28. -/
def oPair (f : Fields) : List Nat :=
  let isG (x : BitVec 22) : Bool := kindOf x == 0 && classOf x == 0
  if isG f.a ∧ isG f.b ∧ indexOf f.a = indexOf f.b ∧ indexOf f.a ≠ 0 then [28] else []

/-- The 40-bit immediate of B and C (R53); a wide kind in only one of them is a fault at bit 20 of that field (R73). -/
def vWide (f : Fields) : V (BitVec 40) :=
  if kindOf f.b = 2 then
    if kindOf f.c = 2 then .ok (immOf f.b ++ immOf f.c) else .bad [42]
  else if kindOf f.c = 2 then .bad [20] else .bad [20, 42]

/-- R207: the value of `lih` fits 24 bits, else a fault at its lowest set bit above them. -/
def vWideLih (f : Fields) : V (BitVec 40) :=
  (vWide f).chk (if kindOf f.b = 2 then lowErr (f.b.toNat &&& 0xFFFF0) 22 else [])

/-- R129, placed under R72: A, then B, then C; the first field at fault decides. -/
def vBmov (l : Lim) (f : Fields) : V BmovOp :=
  if kindOf f.a = 0 ∧ classOf f.a = 0 then
    let d := vG l f.a 44
    match d.val, d.errs with
    | some r, [] =>
      let s := vB f.b 22
      match s.val, s.errs with
      | some x, [] => (V.ok (BmovOp.gFromB r x)).chk (oUnused f.c 0)
      | _, es => .bad es
    | _, es => .bad es
  else
    let d := vB f.a 44
    match d.val, d.errs with
    | some r, [] =>
      let s : V BmovOp :=
        if kindOf f.b = 1 then vImmBud f.b 22 ((vI f.b 22).map (BmovOp.bFromI r))
        else vTwo 0 (fun y b => (vG l y b).map (BmovOp.bFromG r)) (fun y b => (vB y b).map (BmovOp.bFromB r)) f.b 22
      match s.errs with
      | [] => s.chk (oUnused f.c 0)
      | es => .bad es
    | _, es => .bad es

/-- R130, placed under R72. -/
def vGrade (l : Lim) (f : Fields) : V GradeOp :=
  if kindOf f.a = 0 ∧ classOf f.a = 1 then
    let d := vV l f.a 44
    match d.val, d.errs with
    | some r, [] =>
      let s := vG l f.b 22
      match s.val, s.errs with
      | some x, [] => (V.ok (GradeOp.vFromG r x)).chk (oUnused f.c 0)
      | _, es => .bad es
    | _, es => .bad es
  else
    let d : V (Fin 32 → GradeOp) :=
      vTwo 0 (fun y b => (vG l y b).map (fun r s => GradeOp.gFromV r s))
        (fun y b => (vB y b).map (fun r s => GradeOp.bFromV r s)) f.a 44
    match d.val, d.errs with
    | some g, [] =>
      let s := vV l f.b 22
      match s.val, s.errs with
      | some x, [] => (V.ok (g x)).chk (oUnused f.c 0)
      | _, es => .bad es
    | _, es => .bad es

/-- R330: B is a g register and C unused, or B is a v register and C names the lane. -/
def vBcast (l : Lim) (f : Fields) : V BcastOp :=
  if kindOf f.b = 0 ∧ classOf f.b = 0 then
    let s := vG l f.b 22
    match s.val, s.errs with
    | some r, [] => (V.ok (BcastOp.fromG r)).chk (oUnused f.c 0)
    | _, es => .bad es
  else
    let s := vV l f.b 22
    match s.val, s.errs with
    | some r, [] => (vGI l f.c 0).map (BcastOp.fromV r)
    | _, es => .bad es

/-- The source type in C of `vcvt` (R328): bit 0 for the type, bit 4 for the sub value, then the zero bits. -/
def vSrcTy (x : BitVec 22) (ok : VTy → Bool) : V VTy :=
  if kindOf x ≠ 1 then .bad [20]
  else
    let v := (immOf x).toNat
    match readTy (v % 16) (v / 16 % 8) with
    | .good t => if ok t then .ok t else .bad [0]
    | .badSub t => if ok t then .bad [4] else .bad [0]
    | .badType => .bad [0]

def vSrcCvt (f : Fields) : V VTy :=
  match readTy f.ty.toNat f.sub.toNat with
  | .good t => vMask 0xFFF80 f.c 0 (vSrcTy f.c (okCvt t))
  | .badSub t => vMask 0xFFF80 f.c 0 (vSrcTy f.c (okCvt t))
  | .badType => vMask 0xFFF80 f.c 0 (vSrcTy f.c (fun _ => true))

def vSrcUnp (f : Fields) : V VTy :=
  match readTy f.ty.toNat f.sub.toNat with
  | .good t => vMask 0xFFF00 f.c 0 (vSrcTy f.c (okUnp t))
  | .badSub t => vMask 0xFFF00 f.c 0 (vSrcTy f.c (okUnp t))
  | .badType => vMask 0xFFF00 f.c 0 (vSrcTy f.c (fun _ => true))

/-- C[7] of `vunpack`: the upper half. -/
def vHi (f : Fields) : V Bool := .ok (f.c.getLsbD 7)

def pick2 (f : Fields) (x y : V Instr) : V Instr :=
  match f.sub.toNat with
  | 0 => x
  | 1 => y
  | _ => x.chk [81]

/-- One of three forms by sub; an unlisted value is judged in the form that the table gives it otherwise (R256). -/
def pick3 (f : Fields) (x y z : V Instr) : V Instr :=
  match f.sub.toNat with
  | 0 => x
  | 1 => y
  | 2 => z
  | _ => y.chk [81]

/-- R256: C of `fence` is an immediate of value 1, 2 or 3, else a fault at its lowest offending bit. -/
def pickFence (f : Fields) (x y z : V Instr) : V Instr :=
  if kindOf f.c ≠ 1 then x.chk [20]
  else
    match (immOf f.c).toNat with
    | 3 => x
    | 1 => y
    | 2 => z
    | _ => x.chk [lowBit (f.c.toNat &&& 0xFFFFC)]

/-! ## Encoding the parts -/

def encReg (cls idx : Nat) : BitVec 22 := BitVec.ofNat 22 (cls * 65536 + idx * 64)
def encG (r : Fin 64) : BitVec 22 := encReg 0 r.val
def encV (r : Fin 32) : BitVec 22 := encReg 1 r.val
def encV4 (r : Fin 4) : BitVec 22 := encReg 1 r.val
def encP (r : Fin 8) : BitVec 22 := encReg 2 r.val
def encB (r : Fin 8) : BitVec 22 := encReg 3 r.val
def encK (c : CtlNum) : BitVec 22 := encReg 4 c.num
def encI (v : BitVec 20) : BitVec 22 := (1#2 ++ v)
def encIn (n : Nat) : BitVec 22 := encI (BitVec.ofNat 20 n)
def encI1 (b : Bool) : BitVec 22 := encIn b.toNat
def encL15 (n : Fin 15) : BitVec 22 := encIn (n.val + 1)
def encM (m : Mem) : BitVec 22 := BitVec.ofNat 22 (3145728 + m.base.val * 16384 + m.off.toNat)
def encGI : GSrc → BitVec 22
  | .reg r => encG r
  | .imm v => encI v
def encBI : BSrc → BitVec 22
  | .reg r => encB r
  | .imm v => encI v
def encPGI : PSrc → BitVec 22
  | .p r => encP r
  | .g r => encG r
  | .imm v => encI v
def encVGI : VSrc → BitVec 22
  | .v r => encV r
  | .g r => encG r
  | .imm v => encI v
def encVG : VGSrc → BitVec 22
  | .v r => encV r
  | .g r => encG r
def encPA : Option (Fin 8) → BitVec 22
  | none => 0
  | some r => encP r
def encIZ : Option (BitVec 20) → BitVec 22
  | none => 0
  | some v => encI v
def encBsh (s : ShareSel) : BitVec 22 := encIn (s.cls.val + 64 * s.opnd.val + 256 * (s.n1.val + 1))
def BmovOp.encA : BmovOp → BitVec 22
  | .bFromG d _ => encB d
  | .bFromB d _ => encB d
  | .bFromI d _ => encB d
  | .gFromB d _ => encG d
def BmovOp.encB : BmovOp → BitVec 22
  | .bFromG _ s => Sys2Proof.encG s
  | .bFromB _ s => Sys2Proof.encB s
  | .bFromI _ v => encI v
  | .gFromB _ s => Sys2Proof.encB s
def GradeOp.encA : GradeOp → BitVec 22
  | .gFromV d _ => encG d
  | .bFromV d _ => Sys2Proof.encB d
  | .vFromG d _ => encV d
def GradeOp.encB : GradeOp → BitVec 22
  | .gFromV _ s => encV s
  | .bFromV _ s => encV s
  | .vFromG _ s => encG s
def BcastOp.encB : BcastOp → BitVec 22
  | .fromG s => encG s
  | .fromV s _ => encV s
def BcastOp.encC : BcastOp → BitVec 22
  | .fromG _ => 0
  | .fromV _ k => encGI k
def encWB (w : BitVec 40) : BitVec 22 := 2#2 ++ w.extractLsb' 20 20
def encWC (w : BitVec 40) : BitVec 22 := 2#2 ++ w.extractLsb' 0 20
def encSrcTy (t : VTy) (hi : Bool) : BitVec 22 := encIn (t.code + 16 * t.sub + 128 * hi.toNat)

/-- The fields of a word from its parts. -/
def mk (h : Hdr) (op ty sub rnd : Nat) (sat flag : Bool) (a b c : BitVec 22) : Fields :=
  { op := BitVec.ofNat 8 op, ty := BitVec.ofNat 4 ty, sub := BitVec.ofNat 3 sub, rnd := BitVec.ofNat 3 rnd,
    sat := sat, flag := flag, inv := h.inv, pred := BitVec.ofNat 3 h.pred.val, taken := h.taken,
    yields := h.yields, lastb := h.lastb, lastc := h.lastc, res := 0, a := a, b := b, c := c }

/-! ## The opcodes -/


/-- Decoding of ADD (opcode 0x01, R202). -/
def dec_add (l : Lim) (f : Fields) : V Instr :=
  V.ok Instr.add |>.ap (vH f) |>.ap (vITy f) |>.chk (oSub0 f) |>.chk (oRnd0 f) |>.ap (vSat f) |>.chk (oFlag0 f) |>.ap (vG l f.a 44) |>.ap (vG l f.b 22) |>.ap (vGI l f.c 0)

/-- Decoding of SUB (opcode 0x02, R202). -/
def dec_sub (l : Lim) (f : Fields) : V Instr :=
  V.ok Instr.sub |>.ap (vH f) |>.ap (vITy f) |>.chk (oSub0 f) |>.chk (oRnd0 f) |>.ap (vSat f) |>.chk (oFlag0 f) |>.ap (vG l f.a 44) |>.ap (vG l f.b 22) |>.ap (vGI l f.c 0)

/-- Decoding of MUL (opcode 0x03, R202). -/
def dec_mul (l : Lim) (f : Fields) : V Instr :=
  V.ok Instr.mul |>.ap (vH f) |>.ap (vITy f) |>.chk (oSub0 f) |>.chk (oRnd0 f) |>.ap (vSat f) |>.chk (oFlag0 f) |>.ap (vG l f.a 44) |>.ap (vG l f.b 22) |>.ap (vGI l f.c 0)

/-- Decoding of MULH (opcode 0x04, R203). -/
def dec_mulh (l : Lim) (f : Fields) : V Instr :=
  V.ok Instr.mulh |>.ap (vH f) |>.ap (vITy f) |>.chk (oSub0 f) |>.chk (oRnd0 f) |>.chk (oSat0 f) |>.ap (vFlag f) |>.ap (vG l f.a 44) |>.ap (vG l f.b 22) |>.ap (vGI l f.c 0)

/-- Decoding of MAD (opcode 0x05, R202). -/
def dec_mad (l : Lim) (f : Fields) : V Instr :=
  V.ok Instr.mad |>.ap (vH f) |>.ap (vITy f) |>.chk (oSub0 f) |>.chk (oRnd0 f) |>.ap (vSat f) |>.chk (oFlag0 f) |>.ap (vG l f.a 44) |>.ap (vG l f.b 22) |>.ap (vGI l f.c 0)

/-- Decoding of DIV (opcode 0x06, R203). -/
def dec_div (l : Lim) (f : Fields) : V Instr :=
  V.ok Instr.div |>.ap (vH f) |>.ap (vITy f) |>.chk (oSub0 f) |>.chk (oRnd0 f) |>.chk (oSat0 f) |>.ap (vFlag f) |>.ap (vG l f.a 44) |>.ap (vG l f.b 22) |>.ap (vGI l f.c 0)

/-- Decoding of REM (opcode 0x07, R203). -/
def dec_rem (l : Lim) (f : Fields) : V Instr :=
  V.ok Instr.rem |>.ap (vH f) |>.ap (vITy f) |>.chk (oSub0 f) |>.chk (oRnd0 f) |>.chk (oSat0 f) |>.ap (vFlag f) |>.ap (vG l f.a 44) |>.ap (vG l f.b 22) |>.ap (vGI l f.c 0)

/-- Decoding of AND (opcode 0x08, R204). -/
def dec_and (l : Lim) (f : Fields) : V Instr :=
  V.ok Instr.and |>.ap (vH f) |>.ap (vITy f) |>.chk (oSub0 f) |>.chk (oRnd0 f) |>.chk (oSat0 f) |>.chk (oFlag0 f) |>.ap (vG l f.a 44) |>.ap (vG l f.b 22) |>.ap (vGI l f.c 0)

/-- Decoding of OR (opcode 0x09, R204). -/
def dec_or (l : Lim) (f : Fields) : V Instr :=
  V.ok Instr.or |>.ap (vH f) |>.ap (vITy f) |>.chk (oSub0 f) |>.chk (oRnd0 f) |>.chk (oSat0 f) |>.chk (oFlag0 f) |>.ap (vG l f.a 44) |>.ap (vG l f.b 22) |>.ap (vGI l f.c 0)

/-- Decoding of XOR (opcode 0x0A, R204). -/
def dec_xor (l : Lim) (f : Fields) : V Instr :=
  V.ok Instr.xor |>.ap (vH f) |>.ap (vITy f) |>.chk (oSub0 f) |>.chk (oRnd0 f) |>.chk (oSat0 f) |>.chk (oFlag0 f) |>.ap (vG l f.a 44) |>.ap (vG l f.b 22) |>.ap (vGI l f.c 0)

/-- Decoding of ANDN (opcode 0x0B, R204). -/
def dec_andn (l : Lim) (f : Fields) : V Instr :=
  V.ok Instr.andn |>.ap (vH f) |>.ap (vITy f) |>.chk (oSub0 f) |>.chk (oRnd0 f) |>.chk (oSat0 f) |>.chk (oFlag0 f) |>.ap (vG l f.a 44) |>.ap (vG l f.b 22) |>.ap (vGI l f.c 0)

/-- Decoding of SHL (opcode 0x0C, R202). -/
def dec_shl (l : Lim) (f : Fields) : V Instr :=
  V.ok Instr.shl |>.ap (vH f) |>.ap (vITy f) |>.chk (oSub0 f) |>.chk (oRnd0 f) |>.ap (vSat f) |>.chk (oFlag0 f) |>.ap (vG l f.a 44) |>.ap (vG l f.b 22) |>.ap (vGI l f.c 0)

/-- Decoding of SHR (opcode 0x0D, R204). -/
def dec_shr (l : Lim) (f : Fields) : V Instr :=
  V.ok Instr.shr |>.ap (vH f) |>.ap (vITy f) |>.chk (oSub0 f) |>.chk (oRnd0 f) |>.chk (oSat0 f) |>.ap (vFlag f) |>.ap (vG l f.a 44) |>.ap (vG l f.b 22) |>.ap (vGI l f.c 0)

/-- Decoding of ROT (opcode 0x0E, R204). -/
def dec_rot (l : Lim) (f : Fields) : V Instr :=
  V.ok Instr.rot |>.ap (vH f) |>.ap (vITy f) |>.chk (oSub0 f) |>.chk (oRnd0 f) |>.chk (oSat0 f) |>.chk (oFlag0 f) |>.ap (vG l f.a 44) |>.ap (vG l f.b 22) |>.ap (vGI l f.c 0)

/-- Decoding of MIN (opcode 0x0F, R204). -/
def dec_min (l : Lim) (f : Fields) : V Instr :=
  V.ok Instr.min |>.ap (vH f) |>.ap (vITy f) |>.chk (oSub0 f) |>.chk (oRnd0 f) |>.chk (oSat0 f) |>.ap (vFlag f) |>.ap (vG l f.a 44) |>.ap (vG l f.b 22) |>.ap (vGI l f.c 0)

/-- Decoding of MAX (opcode 0x10, R204). -/
def dec_max (l : Lim) (f : Fields) : V Instr :=
  V.ok Instr.max |>.ap (vH f) |>.ap (vITy f) |>.chk (oSub0 f) |>.chk (oRnd0 f) |>.chk (oSat0 f) |>.ap (vFlag f) |>.ap (vG l f.a 44) |>.ap (vG l f.b 22) |>.ap (vGI l f.c 0)

/-- Decoding of ABS (opcode 0x11, R202). -/
def dec_abs (l : Lim) (f : Fields) : V Instr :=
  V.ok Instr.abs |>.ap (vH f) |>.ap (vITy f) |>.chk (oSub0 f) |>.chk (oRnd0 f) |>.ap (vSat f) |>.chk (oFlag0 f) |>.ap (vG l f.a 44) |>.ap (vG l f.b 22) |>.chk (oUnused f.c 0)

/-- Decoding of CLZ (opcode 0x12, R204). -/
def dec_clz (l : Lim) (f : Fields) : V Instr :=
  V.ok Instr.clz |>.ap (vH f) |>.ap (vITy f) |>.chk (oSub0 f) |>.chk (oRnd0 f) |>.chk (oSat0 f) |>.chk (oFlag0 f) |>.ap (vG l f.a 44) |>.ap (vG l f.b 22) |>.chk (oUnused f.c 0)

/-- Decoding of CTZ (opcode 0x13, R204). -/
def dec_ctz (l : Lim) (f : Fields) : V Instr :=
  V.ok Instr.ctz |>.ap (vH f) |>.ap (vITy f) |>.chk (oSub0 f) |>.chk (oRnd0 f) |>.chk (oSat0 f) |>.chk (oFlag0 f) |>.ap (vG l f.a 44) |>.ap (vG l f.b 22) |>.chk (oUnused f.c 0)

/-- Decoding of POP (opcode 0x14, R204). -/
def dec_pop (l : Lim) (f : Fields) : V Instr :=
  V.ok Instr.pop |>.ap (vH f) |>.ap (vITy f) |>.chk (oSub0 f) |>.chk (oRnd0 f) |>.chk (oSat0 f) |>.chk (oFlag0 f) |>.ap (vG l f.a 44) |>.ap (vG l f.b 22) |>.chk (oUnused f.c 0)

/-- Decoding of BEXT (opcode 0x15, R205). -/
def dec_bext (l : Lim) (f : Fields) : V Instr :=
  V.ok Instr.bext |>.ap (vH f) |>.chk (oTy0 f) |>.chk (oSub0 f) |>.chk (oRnd0 f) |>.chk (oSat0 f) |>.ap (vFlag f) |>.ap (vG l f.a 44) |>.ap (vG l f.b 22) |>.ap (vImmSpec f.c 0 (vGI l f.c 0))

/-- Decoding of BINS (opcode 0x16, R205). -/
def dec_bins (l : Lim) (f : Fields) : V Instr :=
  V.ok Instr.bins |>.ap (vH f) |>.chk (oTy0 f) |>.chk (oSub0 f) |>.chk (oRnd0 f) |>.chk (oSat0 f) |>.chk (oFlag0 f) |>.ap (vG l f.a 44) |>.ap (vG l f.b 22) |>.ap (vImmSpec f.c 0 (vGI l f.c 0))

/-- Decoding of EXT (opcode 0x17, R206). -/
def dec_extI (l : Lim) (f : Fields) : V Instr :=
  V.ok Instr.extI |>.ap (vH f) |>.ap (vITy123 f) |>.chk (oSub0 f) |>.chk (oRnd0 f) |>.chk (oSat0 f) |>.ap (vFlag f) |>.ap (vG l f.a 44) |>.ap (vG l f.b 22) |>.chk (oUnused f.c 0)

/-- Decoding of MOV (opcode 0x18, R207). -/
def dec_mov (l : Lim) (f : Fields) : V Instr :=
  V.ok Instr.mov |>.ap (vH f) |>.chk (oTy0 f) |>.chk (oSub0 f) |>.chk (oRnd0 f) |>.chk (oSat0 f) |>.chk (oFlag0 f) |>.ap (vG l f.a 44) |>.ap (vGI l f.b 22) |>.chk (oUnused f.c 0)

/-- Decoding of LI (opcode 0x19, R207). -/
def dec_li (l : Lim) (f : Fields) : V Instr :=
  V.ok Instr.li |>.ap (vH f) |>.chk (oTy0 f) |>.chk (oSub0 f) |>.chk (oRnd0 f) |>.chk (oSat0 f) |>.chk (oFlag0 f) |>.ap (vG l f.a 44) |>.ap (vWide f)

/-- Decoding of LIH (opcode 0x1A, R207). -/
def dec_lih (l : Lim) (f : Fields) : V Instr :=
  V.ok Instr.lih |>.ap (vH f) |>.chk (oTy0 f) |>.chk (oSub0 f) |>.chk (oRnd0 f) |>.chk (oSat0 f) |>.chk (oFlag0 f) |>.ap (vG l f.a 44) |>.ap (vWideLih f)

/-- Decoding of LPC (opcode 0x1B, R207). -/
def dec_lpc (l : Lim) (f : Fields) : V Instr :=
  V.ok Instr.lpc |>.ap (vH f) |>.chk (oTy0 f) |>.chk (oSub0 f) |>.chk (oRnd0 f) |>.chk (oSat0 f) |>.chk (oFlag0 f) |>.ap (vG l f.a 44) |>.chk (oUnused f.b 22) |>.ap (vI f.c 0)

/-- Decoding of SEL (opcode 0x1C, R208). -/
def dec_sel (l : Lim) (f : Fields) : V Instr :=
  V.ok Instr.sel |>.ap (vH f) |>.chk (oTy0 f) |>.ap (vSub8 f) |>.chk (oRnd0 f) |>.chk (oSat0 f) |>.ap (vFlag f) |>.ap (vG l f.a 44) |>.ap (vG l f.b 22) |>.ap (vGI l f.c 0)

/-- Decoding of CMP (opcode 0x1D, R210). -/
def dec_cmp (l : Lim) (f : Fields) : V Instr :=
  V.ok Instr.cmp |>.ap (vH f) |>.ap (vITy f) |>.ap (vCond f) |>.chk (oRnd0 f) |>.chk (oSat0 f) |>.ap (vFlagIf f f.condSigned) |>.ap (vP f.a 44) |>.ap (vG l f.b 22) |>.ap (vGI l f.c 0)

/-- Decoding of PLOG (opcode 0x1E, R211). -/
def dec_plog (_ : Lim) (f : Fields) : V Instr :=
  V.ok Instr.plog |>.ap (vH f) |>.chk (oTy0 f) |>.ap (vSub8 f) |>.chk (oRnd0 f) |>.chk (oSat0 f) |>.chk (oFlag0 f) |>.ap (vP f.a 44) |>.ap (vP f.b 22) |>.ap (vP f.c 0)

/-- Decoding of PMOV (opcode 0x1F, R212). -/
def dec_pmov (l : Lim) (f : Fields) : V Instr :=
  V.ok Instr.pmov |>.ap (vH f) |>.chk (oTy0 f) |>.chk (oSub0 f) |>.chk (oRnd0 f) |>.chk (oSat0 f) |>.ap (vFlag f) |>.ap (vP f.a 44) |>.apAfter ((vP f.a 44).errs) (vImmPmov f.b 22 (vPGI l f.b 22)) |>.chk (after ((vP f.a 44).errs ++ (vImmPmov f.b 22 (vPGI l f.b 22)).errs) (oUnused f.c 0))

/-- Decoding of PGET (opcode 0x20, R212). -/
def dec_pget (l : Lim) (f : Fields) : V Instr :=
  V.ok Instr.pget |>.ap (vH f) |>.chk (oTy0 f) |>.chk (oSub0 f) |>.chk (oRnd0 f) |>.chk (oSat0 f) |>.chk (oFlag0 f) |>.ap (vG l f.a 44) |>.ap (vP f.b 22) |>.chk (oUnused f.c 0)

/-- Decoding of BR (opcode 0x21, R214). -/
def dec_br (_ : Lim) (f : Fields) : V Instr :=
  V.ok Instr.br |>.ap (vH f) |>.chk (oTy0 f) |>.chk (oSub0 f) |>.chk (oRnd0 f) |>.chk (oSat0 f) |>.ap (vFlag f) |>.ap (vPA f.a 44) |>.chk (after ((vPA f.a 44).errs) (oUnused f.b 22)) |>.apAfter ((vPA f.a 44).errs ++ oUnused f.b 22) (vI f.c 0)

/-- Decoding of BRL (opcode 0x22, R214). -/
def dec_brl (_ : Lim) (f : Fields) : V Instr :=
  V.ok Instr.brl |>.ap (vH f) |>.chk (oTy0 f) |>.chk (oSub0 f) |>.chk (oRnd0 f) |>.chk (oSat0 f) |>.ap (vFlag f) |>.ap (vPA f.a 44) |>.chk (after ((vPA f.a 44).errs) (oUnused f.b 22)) |>.apAfter ((vPA f.a 44).errs ++ oUnused f.b 22) (vI f.c 0)

/-- Decoding of JR (opcode 0x23, R214). -/
def dec_jr (l : Lim) (f : Fields) : V Instr :=
  V.ok Instr.jr |>.ap (vH f) |>.chk (oTy0 f) |>.chk (oSub0 f) |>.chk (oRnd0 f) |>.chk (oSat0 f) |>.ap (vFlag f) |>.ap (vPA f.a 44) |>.apAfter ((vPA f.a 44).errs) (vG l f.b 22) |>.apAfter ((vPA f.a 44).errs ++ (vG l f.b 22).errs) (vGI l f.c 0)

/-- Decoding of JRL (opcode 0x24, R214). -/
def dec_jrl (l : Lim) (f : Fields) : V Instr :=
  V.ok Instr.jrl |>.ap (vH f) |>.chk (oTy0 f) |>.chk (oSub0 f) |>.chk (oRnd0 f) |>.chk (oSat0 f) |>.ap (vFlag f) |>.ap (vPA f.a 44) |>.apAfter ((vPA f.a 44).errs) (vG l f.b 22) |>.apAfter ((vPA f.a 44).errs ++ (vG l f.b 22).errs) (vGI l f.c 0)

/-- Decoding of DBR (opcode 0x25, R215). -/
def dec_dbr (l : Lim) (f : Fields) : V Instr :=
  V.ok Instr.dbr |>.ap (vH f) |>.chk (oTy0 f) |>.chk (oSub0 f) |>.chk (oRnd0 f) |>.chk (oSat0 f) |>.chk (oFlag0 f) |>.ap (vG l f.a 44) |>.chk (oUnused f.b 22) |>.ap (vI f.c 0)

/-- Decoding of CTL_RD (opcode 0x26, R218). -/
def dec_ctlRd (l : Lim) (f : Fields) : V Instr :=
  V.ok Instr.ctlRd |>.ap (vH f) |>.chk (oTy0 f) |>.chk (oSub0 f) |>.chk (oRnd0 f) |>.chk (oSat0 f) |>.chk (oFlag0 f) |>.ap (vG l f.a 44) |>.ap (vK f.b 22) |>.chk (oUnused f.c 0)

/-- Decoding of CTL_WR (opcode 0x27, R218). -/
def dec_ctlWr (l : Lim) (f : Fields) : V Instr :=
  V.ok Instr.ctlWr |>.ap (vH f) |>.chk (oTy0 f) |>.chk (oSub0 f) |>.chk (oRnd0 f) |>.chk (oSat0 f) |>.chk (oFlag0 f) |>.ap (vK f.a 44) |>.ap (vGI l f.b 22) |>.chk (oUnused f.c 0)

/-- Decoding of CTL_SET (opcode 0x28, R218). -/
def dec_ctlSet (l : Lim) (f : Fields) : V Instr :=
  V.ok Instr.ctlSet |>.ap (vH f) |>.chk (oTy0 f) |>.chk (oSub0 f) |>.chk (oRnd0 f) |>.chk (oSat0 f) |>.chk (oFlag0 f) |>.ap (vK f.a 44) |>.ap (vGI l f.b 22) |>.chk (oUnused f.c 0)

/-- Decoding of CTL_CLR (opcode 0x29, R218). -/
def dec_ctlClr (l : Lim) (f : Fields) : V Instr :=
  V.ok Instr.ctlClr |>.ap (vH f) |>.chk (oTy0 f) |>.chk (oSub0 f) |>.chk (oRnd0 f) |>.chk (oSat0 f) |>.chk (oFlag0 f) |>.ap (vK f.a 44) |>.ap (vGI l f.b 22) |>.chk (oUnused f.c 0)

/-- Decoding of TRAP (opcode 0x2A, R223). -/
def dec_trap (_ : Lim) (f : Fields) : V Instr :=
  V.ok Instr.trap |>.ap (vH f) |>.chk (oTy0 f) |>.chk (oSub0 f) |>.chk (oRnd0 f) |>.chk (oSat0 f) |>.chk (oFlag0 f) |>.chk (oUnused f.a 44) |>.chk (after (oUnused f.a 44) (oUnused f.b 22)) |>.apAfter (oUnused f.a 44 ++ oUnused f.b 22) (vIZ f.c 0)

/-- Decoding of ERET (opcode 0x2B, R225). -/
def dec_eret (_ : Lim) (f : Fields) : V Instr :=
  V.ok Instr.eret |>.ap (vH f) |>.chk (oTy0 f) |>.chk (oSub0 f) |>.chk (oRnd0 f) |>.chk (oSat0 f) |>.chk (oFlag0 f) |>.chk (oUnused f.a 44) |>.chk (oUnused f.b 22) |>.chk (oUnused f.c 0)

/-- Decoding of SYSC (opcode 0x2C, R223). -/
def dec_sysc (_ : Lim) (f : Fields) : V Instr :=
  V.ok Instr.sysc |>.ap (vH f) |>.chk (oTy0 f) |>.chk (oSub0 f) |>.chk (oRnd0 f) |>.chk (oSat0 f) |>.chk (oFlag0 f) |>.chk (oUnused f.a 44) |>.chk (after (oUnused f.a 44) (oUnused f.b 22)) |>.apAfter (oUnused f.a 44 ++ oUnused f.b 22) (vIZ f.c 0)

/-- Decoding of HALT (opcode 0x2D, R226). -/
def dec_halt (_ : Lim) (f : Fields) : V Instr :=
  V.ok Instr.halt |>.ap (vH f) |>.chk (oTy0 f) |>.chk (oSub0 f) |>.chk (oRnd0 f) |>.chk (oSat0 f) |>.chk (oFlag0 f) |>.chk (oUnused f.a 44) |>.chk (oUnused f.b 22) |>.chk (oUnused f.c 0)

/-- Decoding of NOP (opcode 0x2E, R227). -/
def dec_nop (_ : Lim) (f : Fields) : V Instr :=
  V.ok Instr.nop |>.ap (vH f) |>.chk (oTy0 f) |>.chk (oSub0 f) |>.chk (oRnd0 f) |>.chk (oSat0 f) |>.chk (oFlag0 f) |>.chk (oUnused f.a 44) |>.chk (oUnused f.b 22) |>.chk (oUnused f.c 0)

/-- Decoding of YIELD (opcode 0x2F, R227). -/
def dec_yieldI (_ : Lim) (f : Fields) : V Instr :=
  V.ok Instr.yieldI |>.ap (vH f) |>.chk (oTy0 f) |>.chk (oSub0 f) |>.chk (oRnd0 f) |>.chk (oSat0 f) |>.chk (oFlag0 f) |>.chk (oUnused f.a 44) |>.chk (oUnused f.b 22) |>.chk (oUnused f.c 0)

/-- Decoding of IFENCE (opcode 0x30, R172). -/
def dec_ifence (_ : Lim) (f : Fields) : V Instr :=
  V.ok Instr.ifence |>.ap (vH f) |>.chk (oTy0 f) |>.chk (oSub0 f) |>.chk (oRnd0 f) |>.chk (oSat0 f) |>.chk (oUnused f.a 44) |>.chk (oUnused f.b 22) |>.chk (oUnused f.c 0)

/-- Decoding of IFENCE_FILL (opcode 0x30, R172). -/
def dec_ifenceFill (l : Lim) (f : Fields) : V Instr :=
  V.ok Instr.ifenceFill |>.ap (vH f) |>.chk (oTy0 f) |>.chk (oSub0 f) |>.chk (oRnd0 f) |>.chk (oSat0 f) |>.ap (vG l f.a 44) |>.ap (vG l f.b 22) |>.ap (vGI l f.c 0)

/-- Decoding of GANG_SHED (opcode 0x31, R173). -/
def dec_gangShed (_ : Lim) (f : Fields) : V Instr :=
  V.ok Instr.gangShed |>.ap (vH f) |>.chk (oTy0 f) |>.chk (oSub0 f) |>.chk (oRnd0 f) |>.chk (oSat0 f) |>.chk (oFlag0 f) |>.chk (oUnused f.a 44) |>.chk (oUnused f.b 22) |>.chk (oUnused f.c 0)

/-- Decoding of GANG_JOIN (opcode 0x32, R174). -/
def dec_gangJoin (_ : Lim) (f : Fields) : V Instr :=
  V.ok Instr.gangJoin |>.ap (vH f) |>.chk (oTy0 f) |>.chk (oSub0 f) |>.chk (oRnd0 f) |>.chk (oSat0 f) |>.chk (oFlag0 f) |>.chk (oUnused f.a 44) |>.chk (oUnused f.b 22) |>.chk (oUnused f.c 0)

/-- Decoding of DEMAND (opcode 0x38, R126). -/
def dec_demand (l : Lim) (f : Fields) : V Instr :=
  V.ok Instr.demand |>.ap (vH f) |>.chk (oTy0 f) |>.chk (oSub0 f) |>.chk (oRnd0 f) |>.chk (oSat0 f) |>.chk (oFlag0 f) |>.ap (vGI l f.a 44) |>.ap (vImmBud f.b 22 (vBI f.b 22)) |>.chk (oUnused f.c 0)

/-- Decoding of SETTLE (opcode 0x39, R127). -/
def dec_settle (_ : Lim) (f : Fields) : V Instr :=
  V.ok Instr.settle |>.ap (vH f) |>.chk (oTy0 f) |>.chk (oSub0 f) |>.chk (oRnd0 f) |>.chk (oSat0 f) |>.chk (oFlag0 f) |>.chk (oUnused f.a 44) |>.chk (oUnused f.b 22) |>.chk (oUnused f.c 0)

/-- Decoding of BSHARE (opcode 0x3A, R128). -/
def dec_bshare (_ : Lim) (f : Fields) : V Instr :=
  V.ok Instr.bshare |>.ap (vH f) |>.chk (oTy0 f) |>.chk (oSub0 f) |>.chk (oRnd0 f) |>.chk (oSat0 f) |>.chk (oFlag0 f) |>.ap (vB f.a 44) |>.ap (vB f.b 22) |>.ap (vBsh f.c)

/-- Decoding of BMOV (opcode 0x3B, R129). -/
def dec_bmov (l : Lim) (f : Fields) : V Instr :=
  V.ok Instr.bmov |>.ap (vH f) |>.chk (oTy0 f) |>.chk (oSub0 f) |>.chk (oRnd0 f) |>.chk (oSat0 f) |>.chk (oFlag0 f) |>.ap (vBmov l f)

/-- Decoding of GRADE (opcode 0x3C, R130). -/
def dec_grade (l : Lim) (f : Fields) : V Instr :=
  V.ok Instr.grade |>.ap (vH f) |>.chk (oTy0 f) |>.chk (oSub0 f) |>.chk (oRnd0 f) |>.chk (oSat0 f) |>.chk (oFlag0 f) |>.ap (vGrade l f)

/-- Decoding of SENS_LD (opcode 0x3D, R131). -/
def dec_sensLd (l : Lim) (f : Fields) : V Instr :=
  V.ok Instr.sensLd |>.ap (vH f) |>.chk (oTy0 f) |>.chk (oSub0 f) |>.chk (oRnd0 f) |>.chk (oSat0 f) |>.ap (vImmK63 f.a 44 (vGI l f.a 44)) |>.ap (vM l f.b 22) |>.chk (oUnused f.c 0)

/-- Decoding of SENS_LD_RESET (opcode 0x3D, R131). -/
def dec_sensLdReset (l : Lim) (f : Fields) : V Instr :=
  V.ok Instr.sensLdReset |>.ap (vH f) |>.chk (oTy0 f) |>.chk (oSub0 f) |>.chk (oRnd0 f) |>.chk (oSat0 f) |>.ap (vImmK63 f.a 44 (vGI l f.a 44)) |>.chk (oUnused f.b 22) |>.chk (oUnused f.c 0)

/-- Decoding of LD (opcode 0x40, R269). -/
def dec_ld (l : Lim) (f : Fields) : V Instr :=
  V.ok Instr.ld |>.ap (vH f) |>.ap (vITy f) |>.chk (oSub0 f) |>.chk (oRnd0 f) |>.chk (oSat0 f) |>.ap (vFlag f) |>.ap (vG l f.a 44) |>.ap (vM l f.b 22) |>.chk (oUnused f.c 0)

/-- Decoding of ST (opcode 0x41, R269). -/
def dec_st (l : Lim) (f : Fields) : V Instr :=
  V.ok Instr.st |>.ap (vH f) |>.ap (vITy f) |>.chk (oSub0 f) |>.chk (oRnd0 f) |>.chk (oSat0 f) |>.chk (oFlag0 f) |>.ap (vM l f.a 44) |>.ap (vGI l f.b 22) |>.chk (oUnused f.c 0)

/-- Decoding of LD_ACQ (opcode 0x42, R271). -/
def dec_ldAcq (l : Lim) (f : Fields) : V Instr :=
  V.ok Instr.ldAcq |>.ap (vH f) |>.ap (vITy f) |>.ap (vScope f) |>.chk (oRnd0 f) |>.chk (oSat0 f) |>.ap (vFlag f) |>.ap (vG l f.a 44) |>.ap (vM l f.b 22) |>.chk (oUnused f.c 0)

/-- Decoding of ST_REL (opcode 0x43, R272). -/
def dec_stRel (l : Lim) (f : Fields) : V Instr :=
  V.ok Instr.stRel |>.ap (vH f) |>.ap (vITy f) |>.ap (vScope f) |>.chk (oRnd0 f) |>.chk (oSat0 f) |>.chk (oFlag0 f) |>.ap (vM l f.a 44) |>.ap (vGI l f.b 22) |>.chk (oUnused f.c 0)

/-- Decoding of LD_WF (opcode 0x44, R276). -/
def dec_ldWf (l : Lim) (f : Fields) : V Instr :=
  V.ok Instr.ldWf |>.ap (vH f) |>.ap (vPTy f) |>.ap (vSubBit f) |>.chk (oRnd0 f) |>.chk (oSat0 f) |>.ap (vFlag f) |>.ap (vG l f.a 44) |>.ap (vM l f.b 22) |>.chk (oUnused f.c 0)

/-- Decoding of ST_WE (opcode 0x45, R276). -/
def dec_stWe (l : Lim) (f : Fields) : V Instr :=
  V.ok Instr.stWe |>.ap (vH f) |>.ap (vPTy f) |>.chk (oSub0 f) |>.chk (oRnd0 f) |>.chk (oSat0 f) |>.chk (oFlag0 f) |>.ap (vM l f.a 44) |>.ap (vGI l f.b 22) |>.chk (oUnused f.c 0)

/-- Decoding of TAG_RD (opcode 0x46, R278). -/
def dec_tagRd (l : Lim) (f : Fields) : V Instr :=
  V.ok Instr.tagRd |>.ap (vH f) |>.chk (oTy0 f) |>.chk (oRnd0 f) |>.chk (oSat0 f) |>.chk (oFlag0 f) |>.ap (vG l f.a 44) |>.ap (vM l f.b 22) |>.chk (oUnused f.c 0)

/-- Decoding of TAG_FULL (opcode 0x46, R278). -/
def dec_tagFull (l : Lim) (f : Fields) : V Instr :=
  V.ok Instr.tagFull |>.ap (vH f) |>.chk (oTy0 f) |>.chk (oRnd0 f) |>.chk (oSat0 f) |>.chk (oFlag0 f) |>.ap (vM l f.a 44) |>.ap (vImmT16 f.b 22 (vGI l f.b 22)) |>.chk (oUnused f.c 0)

/-- Decoding of TAG_EMPTY (opcode 0x46, R278). -/
def dec_tagEmpty (l : Lim) (f : Fields) : V Instr :=
  V.ok Instr.tagEmpty |>.ap (vH f) |>.chk (oTy0 f) |>.chk (oRnd0 f) |>.chk (oSat0 f) |>.chk (oFlag0 f) |>.ap (vM l f.a 44) |>.ap (vImmT16 f.b 22 (vGI l f.b 22)) |>.chk (oUnused f.c 0)

/-- Decoding of PREF (opcode 0x47, R279). -/
def dec_pref (l : Lim) (f : Fields) : V Instr :=
  V.ok Instr.pref |>.ap (vH f) |>.chk (oTy0 f) |>.chk (oSub0 f) |>.chk (oRnd0 f) |>.chk (oSat0 f) |>.chk (oFlag0 f) |>.ap (vM l f.a 44) |>.chk (oUnused f.b 22) |>.chk (oUnused f.c 0)

/-- Decoding of CFL (opcode 0x48, R280). -/
def dec_cfl (l : Lim) (f : Fields) : V Instr :=
  V.ok Instr.cfl |>.ap (vH f) |>.chk (oTy0 f) |>.chk (oRnd0 f) |>.chk (oSat0 f) |>.chk (oFlag0 f) |>.ap (vM l f.a 44) |>.chk (oUnused f.b 22) |>.chk (oUnused f.c 0)

/-- Decoding of CFL_EVICT (opcode 0x48, R280). -/
def dec_cflEvict (l : Lim) (f : Fields) : V Instr :=
  V.ok Instr.cflEvict |>.ap (vH f) |>.chk (oTy0 f) |>.chk (oRnd0 f) |>.chk (oSat0 f) |>.chk (oFlag0 f) |>.ap (vM l f.a 44) |>.chk (oUnused f.b 22) |>.chk (oUnused f.c 0)

/-- Decoding of CINV (opcode 0x49, R281). -/
def dec_cinv (l : Lim) (f : Fields) : V Instr :=
  V.ok Instr.cinv |>.ap (vH f) |>.chk (oTy0 f) |>.chk (oRnd0 f) |>.chk (oSat0 f) |>.chk (oFlag0 f) |>.ap (vM l f.a 44) |>.chk (oUnused f.b 22) |>.chk (oUnused f.c 0)

/-- Decoding of CINV_ALL (opcode 0x49, R281). -/
def dec_cinvAll (_ : Lim) (f : Fields) : V Instr :=
  V.ok Instr.cinvAll |>.ap (vH f) |>.chk (oTy0 f) |>.chk (oRnd0 f) |>.chk (oSat0 f) |>.chk (oFlag0 f) |>.chk (oUnused f.a 44) |>.chk (oUnused f.b 22) |>.chk (oUnused f.c 0)

/-- Decoding of FENCE (opcode 0x4A, R273). -/
def dec_fence (_ : Lim) (f : Fields) : V Instr :=
  V.ok Instr.fence |>.ap (vH f) |>.chk (oTy0 f) |>.ap (vScope f) |>.chk (oRnd0 f) |>.chk (oSat0 f) |>.chk (oFlag0 f) |>.chk (oUnused f.a 44) |>.chk (oUnused f.b 22)

/-- Decoding of FENCE_ACQ (opcode 0x4A, R273). -/
def dec_fenceAcq (_ : Lim) (f : Fields) : V Instr :=
  V.ok Instr.fenceAcq |>.ap (vH f) |>.chk (oTy0 f) |>.ap (vScope f) |>.chk (oRnd0 f) |>.chk (oSat0 f) |>.chk (oFlag0 f) |>.chk (oUnused f.a 44) |>.chk (oUnused f.b 22)

/-- Decoding of FENCE_REL (opcode 0x4A, R273). -/
def dec_fenceRel (_ : Lim) (f : Fields) : V Instr :=
  V.ok Instr.fenceRel |>.ap (vH f) |>.chk (oTy0 f) |>.ap (vScope f) |>.chk (oRnd0 f) |>.chk (oSat0 f) |>.chk (oFlag0 f) |>.chk (oUnused f.a 44) |>.chk (oUnused f.b 22)

/-- Decoding of REGION (opcode 0x4B, R274). -/
def dec_region (_ : Lim) (f : Fields) : V Instr :=
  V.ok Instr.region |>.ap (vH f) |>.chk (oTy0 f) |>.chk (oRnd0 f) |>.chk (oSat0 f) |>.chk (oFlag0 f) |>.chk (oUnused f.a 44) |>.chk (oUnused f.b 22) |>.chk (oUnused f.c 0)

/-- Decoding of REGION_FORCE (opcode 0x4B, R274). -/
def dec_regionForce (_ : Lim) (f : Fields) : V Instr :=
  V.ok Instr.regionForce |>.ap (vH f) |>.chk (oTy0 f) |>.chk (oRnd0 f) |>.chk (oSat0 f) |>.chk (oFlag0 f) |>.chk (oUnused f.a 44) |>.chk (oUnused f.b 22) |>.chk (oUnused f.c 0)

/-- Decoding of REGION_DROP (opcode 0x4B, R274). -/
def dec_regionDrop (_ : Lim) (f : Fields) : V Instr :=
  V.ok Instr.regionDrop |>.ap (vH f) |>.chk (oTy0 f) |>.chk (oRnd0 f) |>.chk (oSat0 f) |>.chk (oFlag0 f) |>.chk (oUnused f.a 44) |>.chk (oUnused f.b 22) |>.chk (oUnused f.c 0)

/-- Decoding of LD_PAIR (opcode 0x4C, R270). -/
def dec_ldPair (l : Lim) (f : Fields) : V Instr :=
  V.ok Instr.ldPair |>.ap (vH f) |>.ap (vPTy f) |>.chk (oSub0 f) |>.chk (oRnd0 f) |>.chk (oSat0 f) |>.ap (vFlag f) |>.ap (vG l f.a 44) |>.ap (vG l f.b 22) |>.chk (oPair f) |>.ap (vM l f.c 0)

/-- Decoding of ST_PAIR (opcode 0x4D, R270). -/
def dec_stPair (l : Lim) (f : Fields) : V Instr :=
  V.ok Instr.stPair |>.ap (vH f) |>.ap (vPTy f) |>.chk (oSub0 f) |>.chk (oRnd0 f) |>.chk (oSat0 f) |>.chk (oFlag0 f) |>.ap (vM l f.a 44) |>.ap (vG l f.b 22) |>.ap (vG l f.c 0)

/-- Decoding of LAUNCH (opcode 0x60, R154). -/
def dec_launch (l : Lim) (f : Fields) : V Instr :=
  V.ok Instr.launch |>.ap (vH f) |>.chk (oTy0 f) |>.chk (oSub0 f) |>.chk (oRnd0 f) |>.chk (oSat0 f) |>.chk (oFlag0 f) |>.ap (vG l f.a 44) |>.ap (vM l f.b 22) |>.chk (oUnused f.c 0)

/-- Decoding of DONE (opcode 0x61, R155). -/
def dec_doneI (_ : Lim) (f : Fields) : V Instr :=
  V.ok Instr.doneI |>.ap (vH f) |>.chk (oTy0 f) |>.chk (oSub0 f) |>.chk (oRnd0 f) |>.chk (oSat0 f) |>.chk (oFlag0 f) |>.chk (oUnused f.a 44) |>.chk (oUnused f.b 22) |>.chk (oUnused f.c 0)

/-- Decoding of NEXTTILE (opcode 0x62, R156). -/
def dec_nexttile (l : Lim) (f : Fields) : V Instr :=
  V.ok Instr.nexttile |>.ap (vH f) |>.chk (oTy0 f) |>.chk (oSub0 f) |>.chk (oRnd0 f) |>.chk (oSat0 f) |>.chk (oFlag0 f) |>.ap (vGI l f.a 44) |>.chk (oUnused f.b 22) |>.chk (oUnused f.c 0)

/-- Decoding of RING_CLAIM (opcode 0x63, R157). -/
def dec_ringClaim (l : Lim) (f : Fields) : V Instr :=
  V.ok Instr.ringClaim |>.ap (vH f) |>.chk (oTy0 f) |>.chk (oSub0 f) |>.chk (oRnd0 f) |>.chk (oSat0 f) |>.ap (vFlag f) |>.ap (vG l f.a 44) |>.ap (vI1 f.b 22) |>.chk (oUnused f.c 0)

/-- Decoding of RING_POST (opcode 0x64, R157). -/
def dec_ringPost (l : Lim) (f : Fields) : V Instr :=
  V.ok Instr.ringPost |>.ap (vH f) |>.chk (oTy0 f) |>.chk (oSub0 f) |>.chk (oRnd0 f) |>.chk (oSat0 f) |>.chk (oFlag0 f) |>.ap (vG l f.a 44) |>.ap (vG l f.b 22) |>.chk (oUnused f.c 0)

/-- Decoding of RING_TAKE (opcode 0x65, R157). -/
def dec_ringTake (l : Lim) (f : Fields) : V Instr :=
  V.ok Instr.ringTake |>.ap (vH f) |>.chk (oTy0 f) |>.chk (oSub0 f) |>.chk (oRnd0 f) |>.chk (oSat0 f) |>.ap (vFlag f) |>.ap (vG l f.a 44) |>.ap (vI1 f.b 22) |>.chk (oUnused f.c 0)

/-- Decoding of RING_FREE (opcode 0x66, R157). -/
def dec_ringFree (l : Lim) (f : Fields) : V Instr :=
  V.ok Instr.ringFree |>.ap (vH f) |>.chk (oTy0 f) |>.chk (oSub0 f) |>.chk (oRnd0 f) |>.chk (oSat0 f) |>.chk (oFlag0 f) |>.ap (vG l f.a 44) |>.ap (vG l f.b 22) |>.chk (oUnused f.c 0)

/-- Decoding of RING_STAT (opcode 0x67, R157). -/
def dec_ringStat (l : Lim) (f : Fields) : V Instr :=
  V.ok Instr.ringStat |>.ap (vH f) |>.chk (oTy0 f) |>.chk (oSub0 f) |>.chk (oRnd0 f) |>.chk (oSat0 f) |>.chk (oFlag0 f) |>.ap (vG l f.a 44) |>.ap (vI1 f.b 22) |>.chk (oUnused f.c 0)

/-- Decoding of COPY (opcode 0x70, R306). -/
def dec_copy (l : Lim) (f : Fields) : V Instr :=
  V.ok Instr.copy |>.ap (vH f) |>.chk (oTy0 f) |>.chk (oSub0 f) |>.chk (oRnd0 f) |>.chk (oSat0 f) |>.chk (oFlag0 f) |>.ap (vG l f.a 44) |>.ap (vM l f.b 22) |>.chk (oUnused f.c 0)

/-- Decoding of COPY_DEAL (opcode 0x71, R306). -/
def dec_copyDeal (l : Lim) (f : Fields) : V Instr :=
  V.ok Instr.copyDeal |>.ap (vH f) |>.chk (oTy0 f) |>.chk (oSub0 f) |>.chk (oRnd0 f) |>.chk (oSat0 f) |>.chk (oFlag0 f) |>.ap (vG l f.a 44) |>.ap (vM l f.b 22) |>.ap (vImmMask f.c 0 (vGI l f.c 0))

/-- Decoding of SHUT_Q (opcode 0x72, R307). -/
def dec_shutQ (l : Lim) (f : Fields) : V Instr :=
  V.ok Instr.shutQ |>.ap (vH f) |>.chk (oTy0 f) |>.chk (oSub0 f) |>.chk (oRnd0 f) |>.chk (oSat0 f) |>.ap (vG l f.a 44) |>.ap (vG l f.b 22) |>.chk (oUnused f.c 0)

/-- Decoding of SHUT_Q_DROP (opcode 0x72, R307). -/
def dec_shutQDrop (l : Lim) (f : Fields) : V Instr :=
  V.ok Instr.shutQDrop |>.ap (vH f) |>.chk (oTy0 f) |>.chk (oSub0 f) |>.chk (oRnd0 f) |>.chk (oSat0 f) |>.ap (vG l f.a 44) |>.ap (vG l f.b 22) |>.chk (oUnused f.c 0)

/-- Decoding of COPY_RESUME (opcode 0x73, R306). -/
def dec_copyResume (l : Lim) (f : Fields) : V Instr :=
  V.ok Instr.copyResume |>.ap (vH f) |>.chk (oTy0 f) |>.chk (oSub0 f) |>.chk (oRnd0 f) |>.chk (oSat0 f) |>.chk (oFlag0 f) |>.ap (vG l f.a 44) |>.ap (vM l f.b 22) |>.ap (vG l f.c 0)

/-- Decoding of MX (opcode 0x78, R351). -/
def dec_mx (l : Lim) (f : Fields) : V Instr :=
  V.ok Instr.mx |>.ap (vH f) |>.chk (oTy0 f) |>.chk (oSub0 f) |>.chk (oRnd0 f) |>.chk (oSat0 f) |>.chk (oFlag0 f) |>.ap (vG l f.a 44) |>.ap (vM l f.b 22) |>.chk (oUnused f.c 0)

/-- Decoding of ACC_ZERO (opcode 0x79, R352). -/
def dec_accZero (l : Lim) (f : Fields) : V Instr :=
  V.ok Instr.accZero |>.ap (vH f) |>.chk (oTy0 f) |>.chk (oSub0 f) |>.chk (oRnd0 f) |>.chk (oSat0 f) |>.chk (oFlag0 f) |>.ap (vG l f.a 44) |>.ap (vGI l f.b 22) |>.ap (vGI l f.c 0)

/-- Decoding of CN_PUT (opcode 0x7C, R373). -/
def dec_cnPut (l : Lim) (f : Fields) : V Instr :=
  V.ok Instr.cnPut |>.ap (vH f) |>.chk (oTy0 f) |>.chk (oSub0 f) |>.chk (oRnd0 f) |>.chk (oSat0 f) |>.chk (oFlag0 f) |>.ap (vG l f.a 44) |>.ap (vM l f.b 22) |>.ap (vG l f.c 0)

/-- Decoding of CN_GET (opcode 0x7D, R372). -/
def dec_cnGet (l : Lim) (f : Fields) : V Instr :=
  V.ok Instr.cnGet |>.ap (vH f) |>.chk (oTy0 f) |>.chk (oSub0 f) |>.chk (oRnd0 f) |>.chk (oSat0 f) |>.ap (vG l f.a 44) |>.ap (vM l f.b 22) |>.chk (oUnused f.c 0)

/-- Decoding of CN_GET_REF (opcode 0x7D, R372). -/
def dec_cnGetRef (l : Lim) (f : Fields) : V Instr :=
  V.ok Instr.cnGetRef |>.ap (vH f) |>.chk (oTy0 f) |>.chk (oSub0 f) |>.chk (oRnd0 f) |>.chk (oSat0 f) |>.ap (vG l f.a 44) |>.ap (vM l f.b 22) |>.chk (oUnused f.c 0)

/-- Decoding of CN_REF (opcode 0x7E, R372). -/
def dec_cnRef (l : Lim) (f : Fields) : V Instr :=
  V.ok Instr.cnRef |>.ap (vH f) |>.chk (oTy0 f) |>.chk (oSub0 f) |>.chk (oRnd0 f) |>.chk (oSat0 f) |>.chk (oFlag0 f) |>.ap (vG l f.a 44) |>.ap (vM l f.b 22) |>.chk (oUnused f.c 0)

/-- Decoding of CN_UNREF (opcode 0x7F, R372). -/
def dec_cnUnref (l : Lim) (f : Fields) : V Instr :=
  V.ok Instr.cnUnref |>.ap (vH f) |>.chk (oTy0 f) |>.chk (oSub0 f) |>.chk (oRnd0 f) |>.chk (oSat0 f) |>.chk (oFlag0 f) |>.ap (vG l f.a 44) |>.ap (vM l f.b 22) |>.chk (oUnused f.c 0)

/-- Decoding of CN_NODE (opcode 0x80, R373). -/
def dec_cnNode (l : Lim) (f : Fields) : V Instr :=
  V.ok Instr.cnNode |>.ap (vH f) |>.chk (oTy0 f) |>.chk (oSub0 f) |>.chk (oRnd0 f) |>.chk (oSat0 f) |>.chk (oFlag0 f) |>.ap (vG l f.a 44) |>.ap (vM l f.b 22) |>.ap (vG l f.c 0)

/-- Decoding of CN_SWAP (opcode 0x81, R374). -/
def dec_cnSwap (l : Lim) (f : Fields) : V Instr :=
  V.ok Instr.cnSwap |>.ap (vH f) |>.chk (oTy0 f) |>.chk (oSub0 f) |>.chk (oRnd0 f) |>.chk (oSat0 f) |>.chk (oFlag0 f) |>.ap (vG l f.a 44) |>.ap (vM l f.b 22) |>.ap (vG l f.c 0)

/-- Decoding of CN_ROOT (opcode 0x82, R375). -/
def dec_cnRoot (l : Lim) (f : Fields) : V Instr :=
  V.ok Instr.cnRoot |>.ap (vH f) |>.chk (oTy0 f) |>.chk (oSub0 f) |>.chk (oRnd0 f) |>.chk (oSat0 f) |>.ap (vG l f.a 44) |>.ap (vM l f.b 22) |>.ap (vG l f.c 0)

/-- Decoding of CN_ROOT_REF (opcode 0x82, R375). -/
def dec_cnRootRef (l : Lim) (f : Fields) : V Instr :=
  V.ok Instr.cnRootRef |>.ap (vH f) |>.chk (oTy0 f) |>.chk (oSub0 f) |>.chk (oRnd0 f) |>.chk (oSat0 f) |>.ap (vG l f.a 44) |>.ap (vM l f.b 22) |>.ap (vG l f.c 0)

/-- Decoding of CN_OUT (opcode 0x83, R376). -/
def dec_cnOut (l : Lim) (f : Fields) : V Instr :=
  V.ok Instr.cnOut |>.ap (vH f) |>.chk (oTy0 f) |>.chk (oSub0 f) |>.chk (oRnd0 f) |>.chk (oSat0 f) |>.chk (oFlag0 f) |>.ap (vG l f.a 44) |>.ap (vM l f.b 22) |>.ap (vG l f.c 0)

/-- Decoding of CN_CFG (opcode 0x84, R377). -/
def dec_cnCfg (l : Lim) (f : Fields) : V Instr :=
  V.ok Instr.cnCfg |>.ap (vH f) |>.chk (oTy0 f) |>.chk (oSub0 f) |>.chk (oRnd0 f) |>.chk (oSat0 f) |>.ap (vG l f.a 44) |>.ap (vM l f.b 22) |>.chk (oUnused f.c 0)

/-- Decoding of CN_CFG_STAT (opcode 0x84, R377). -/
def dec_cnCfgStat (l : Lim) (f : Fields) : V Instr :=
  V.ok Instr.cnCfgStat |>.ap (vH f) |>.chk (oTy0 f) |>.chk (oSub0 f) |>.chk (oRnd0 f) |>.chk (oSat0 f) |>.ap (vG l f.a 44) |>.ap (vI4 f.b 22) |>.chk (oUnused f.c 0)

/-- Decoding of AMO (opcode 0x88, R394). -/
def dec_amo (l : Lim) (f : Fields) : V Instr :=
  V.ok Instr.amo |>.ap (vH f) |>.ap (vATy f) |>.ap (vAOp f true) |>.ap (vRndF f) |>.chk (oSat0 f) |>.ap (vFlagIf f f.minMax) |>.ap (vG l f.a 44) |>.ap (vM l f.b 22) |>.ap (vGI l f.c 0)

/-- Decoding of AMO_CAS (opcode 0x89, R394). -/
def dec_amoCas (l : Lim) (f : Fields) : V Instr :=
  V.ok Instr.amoCas |>.ap (vH f) |>.ap (vPTy f) |>.chk (oSub0 f) |>.chk (oRnd0 f) |>.chk (oSat0 f) |>.chk (oFlag0 f) |>.ap (vG l f.a 44) |>.ap (vM l f.b 22) |>.ap (vG l f.c 0)

/-- Decoding of RED (opcode 0x8A, R395). -/
def dec_red (l : Lim) (f : Fields) : V Instr :=
  V.ok Instr.red |>.ap (vH f) |>.ap (vATy f) |>.ap (vAOp f false) |>.ap (vRndF f) |>.chk (oSat0 f) |>.ap (vFlagIf f f.minMax) |>.ap (vM l f.a 44) |>.apAfter ((vM l f.a 44).errs) (vGI l f.b 22) |>.apAfter ((vM l f.a 44).errs ++ (vGI l f.b 22).errs) (vG l f.c 0)

/-- Decoding of BUPD (opcode 0x8B, R400). -/
def dec_bupd (l : Lim) (f : Fields) : V Instr :=
  V.ok Instr.bupd |>.ap (vH f) |>.chk (oTyIs f 1) |>.ap (vSub4 f) |>.chk (oRnd0 f) |>.chk (oSat0 f) |>.ap (vFlag f) |>.ap (vM l f.a 44) |>.ap (vGI l f.b 22) |>.chk (oUnused f.c 0)

/-- Decoding of BUPD_R (opcode 0x8C, R400). -/
def dec_bupdR (l : Lim) (f : Fields) : V Instr :=
  V.ok Instr.bupdR |>.ap (vH f) |>.chk (oTyIs f 1) |>.ap (vSub4 f) |>.chk (oRnd0 f) |>.chk (oSat0 f) |>.ap (vFlag f) |>.ap (vG l f.a 44) |>.ap (vM l f.b 22) |>.ap (vGI l f.c 0)

/-- Decoding of BCFG (opcode 0x8D, R400). -/
def dec_bcfg (l : Lim) (f : Fields) : V Instr :=
  V.ok Instr.bcfg |>.ap (vH f) |>.chk (oTy0 f) |>.chk (oSub0 f) |>.chk (oRnd0 f) |>.chk (oSat0 f) |>.chk (oFlag0 f) |>.ap (vI3 f.a) |>.ap (vG l f.b 22) |>.ap (vCode f.c)

/-- Decoding of VBUPD (opcode 0x8E, R401). -/
def dec_vbupd (l : Lim) (f : Fields) : V Instr :=
  V.ok Instr.vbupd |>.ap (vH f) |>.chk (oTyIs f 1) |>.ap (vSub4 f) |>.chk (oRnd0 f) |>.chk (oSat0 f) |>.ap (vFlag f) |>.ap (vM l f.a 44) |>.ap (vV l f.b 22) |>.ap (vV l f.c 0)

/-- Decoding of BAR_INIT (opcode 0x8F, R404). -/
def dec_barInit (l : Lim) (f : Fields) : V Instr :=
  V.ok Instr.barInit |>.ap (vH f) |>.chk (oTy0 f) |>.chk (oSub0 f) |>.chk (oRnd0 f) |>.chk (oSat0 f) |>.chk (oFlag0 f) |>.ap (vM l f.a 44) |>.ap (vGI l f.b 22) |>.chk (oUnused f.c 0)

/-- Decoding of BAR_ARR (opcode 0x90, R404). -/
def dec_barArr (l : Lim) (f : Fields) : V Instr :=
  V.ok Instr.barArr |>.ap (vH f) |>.chk (oTy0 f) |>.chk (oSub0 f) |>.chk (oRnd0 f) |>.chk (oSat0 f) |>.chk (oFlag0 f) |>.ap (vG l f.a 44) |>.ap (vM l f.b 22) |>.ap (vGI l f.c 0)

/-- Decoding of BAR_WAIT (opcode 0x91, R404). -/
def dec_barWait (l : Lim) (f : Fields) : V Instr :=
  V.ok Instr.barWait |>.ap (vH f) |>.chk (oTy0 f) |>.chk (oSub0 f) |>.chk (oRnd0 f) |>.chk (oSat0 f) |>.chk (oFlag0 f) |>.ap (vM l f.a 44) |>.ap (vGI l f.b 22) |>.chk (oUnused f.c 0)

/-- Decoding of BAR_TEST (opcode 0x92, R404). -/
def dec_barTest (l : Lim) (f : Fields) : V Instr :=
  V.ok Instr.barTest |>.ap (vH f) |>.chk (oTy0 f) |>.chk (oSub0 f) |>.chk (oRnd0 f) |>.chk (oSat0 f) |>.chk (oFlag0 f) |>.ap (vG l f.a 44) |>.ap (vM l f.b 22) |>.chk (oUnused f.c 0)

/-- Decoding of TBAR (opcode 0x93, R406). -/
def dec_tbar (l : Lim) (f : Fields) : V Instr :=
  V.ok Instr.tbar |>.ap (vH f) |>.chk (oTy0 f) |>.chk (oSub0 f) |>.chk (oRnd0 f) |>.chk (oSat0 f) |>.chk (oFlag0 f) |>.ap (vGI l f.a 44) |>.chk (oUnused f.b 22) |>.ap (vImmEp f.c 0 (vGI l f.c 0))

/-- Decoding of NRED (opcode 0x94, R406). -/
def dec_nred (l : Lim) (f : Fields) : V Instr :=
  V.ok Instr.nred |>.ap (vH f) |>.ap (vNTy f) |>.ap (vAOp f false) |>.ap (vRndF f) |>.chk (oSat0 f) |>.ap (vFlagIf f f.minMax) |>.ap (vGI l f.a 44) |>.ap (vG l f.b 22) |>.ap (vImmEp f.c 0 (vGI l f.c 0))

/-- Decoding of WAIT (opcode 0x95, R409). -/
def dec_wait (l : Lim) (f : Fields) : V Instr :=
  V.ok Instr.wait |>.ap (vH f) |>.chk (oTy0 f) |>.chk (oSub0 f) |>.chk (oRnd0 f) |>.chk (oSat0 f) |>.chk (oFlag0 f) |>.ap (vG l f.a 44) |>.apAfter ((vG l f.a 44).errs) (vM l f.b 22) |>.apAfter ((vG l f.a 44).errs ++ (vM l f.b 22).errs) (vG l f.c 0)

/-- Decoding of PAUSE (opcode 0x96, R410). -/
def dec_pause (l : Lim) (f : Fields) : V Instr :=
  V.ok Instr.pause |>.ap (vH f) |>.chk (oTy0 f) |>.chk (oSub0 f) |>.chk (oRnd0 f) |>.chk (oSat0 f) |>.chk (oFlag0 f) |>.ap (vGI l f.a 44) |>.chk (oUnused f.b 22) |>.chk (oUnused f.c 0)

/-- Decoding of MSG_SEND (opcode 0x97, R411). -/
def dec_msgSend (l : Lim) (f : Fields) : V Instr :=
  V.ok Instr.msgSend |>.ap (vH f) |>.chk (oTy0 f) |>.chk (oSub0 f) |>.chk (oRnd0 f) |>.chk (oSat0 f) |>.chk (oFlag0 f) |>.ap (vG l f.a 44) |>.ap (vG l f.b 22) |>.ap (vGI l f.c 0)

/-- Decoding of HATCH_PUT (opcode 0x98, R415). -/
def dec_hatchPut (l : Lim) (f : Fields) : V Instr :=
  V.ok Instr.hatchPut |>.ap (vH f) |>.chk (oTy0 f) |>.chk (oSub0 f) |>.chk (oRnd0 f) |>.chk (oSat0 f) |>.chk (oFlag0 f) |>.chk (oUnused f.a 44) |>.ap (vGI l f.b 22) |>.chk (oUnused f.c 0)

/-- Decoding of HATCH_GET (opcode 0x99, R415). -/
def dec_hatchGet (l : Lim) (f : Fields) : V Instr :=
  V.ok Instr.hatchGet |>.ap (vH f) |>.chk (oTy0 f) |>.chk (oSub0 f) |>.chk (oRnd0 f) |>.chk (oSat0 f) |>.chk (oFlag0 f) |>.ap (vG l f.a 44) |>.chk (oUnused f.b 22) |>.chk (oUnused f.c 0)

/-- Decoding of HATCH_FREE (opcode 0x9A, R415). -/
def dec_hatchFree (l : Lim) (f : Fields) : V Instr :=
  V.ok Instr.hatchFree |>.ap (vH f) |>.chk (oTy0 f) |>.chk (oSub0 f) |>.chk (oRnd0 f) |>.chk (oSat0 f) |>.chk (oFlag0 f) |>.ap (vG l f.a 44) |>.chk (oUnused f.b 22) |>.chk (oUnused f.c 0)

/-- Decoding of JOB_POLL (opcode 0x9B, R417). -/
def dec_jobPoll (l : Lim) (f : Fields) : V Instr :=
  V.ok Instr.jobPoll |>.ap (vH f) |>.chk (oTy0 f) |>.chk (oSub0 f) |>.chk (oRnd0 f) |>.chk (oSat0 f) |>.ap (vG l f.a 44) |>.ap (vGI l f.b 22) |>.ap (vQ1 f.c 0)

/-- Decoding of JOB_POLL_ACQ (opcode 0x9B, R417). -/
def dec_jobPollAcq (l : Lim) (f : Fields) : V Instr :=
  V.ok Instr.jobPollAcq |>.ap (vH f) |>.chk (oTy0 f) |>.chk (oSub0 f) |>.chk (oRnd0 f) |>.chk (oSat0 f) |>.ap (vG l f.a 44) |>.ap (vGI l f.b 22) |>.ap (vQ1 f.c 0)

/-- Decoding of JOB_CANCEL (opcode 0x9C, R418). -/
def dec_jobCancel (l : Lim) (f : Fields) : V Instr :=
  V.ok Instr.jobCancel |>.ap (vH f) |>.chk (oTy0 f) |>.chk (oSub0 f) |>.chk (oRnd0 f) |>.chk (oSat0 f) |>.chk (oFlag0 f) |>.ap (vG l f.a 44) |>.ap (vGI l f.b 22) |>.ap (vQ1 f.c 0)

/-- Decoding of VLD (opcode 0xB0, R326). -/
def dec_vld (l : Lim) (f : Fields) : V Instr :=
  V.ok Instr.vld |>.ap (vH f) |>.chk (oTy0 f) |>.chk (oSub0 f) |>.chk (oRnd0 f) |>.chk (oSat0 f) |>.chk (oFlag0 f) |>.ap (vV l f.a 44) |>.apAfter ((vV l f.a 44).errs) (vM l f.b 22) |>.apAfter ((vV l f.a 44).errs ++ (vM l f.b 22).errs) (vGI l f.c 0)

/-- Decoding of VST (opcode 0xB1, R326). -/
def dec_vst (l : Lim) (f : Fields) : V Instr :=
  V.ok Instr.vst |>.ap (vH f) |>.chk (oTy0 f) |>.chk (oSub0 f) |>.chk (oRnd0 f) |>.chk (oSat0 f) |>.chk (oFlag0 f) |>.ap (vM l f.a 44) |>.ap (vV l f.b 22) |>.chk (oUnused f.c 0)

/-- Decoding of VADD (opcode 0xB2, R327). -/
def dec_vadd (l : Lim) (f : Fields) : V Instr :=
  V.ok Instr.vadd |>.ap (vH f) |>.ap (vVTy f VTy.okFZ) |>.ap (vRndF f) |>.ap (vSat f) |>.chk (oFlag0 f) |>.ap (vV l f.a 44) |>.ap (vV l f.b 22) |>.ap (vVGIz l f.c 0 f.intTy)

/-- Decoding of VSUB (opcode 0xB3, R327). -/
def dec_vsub (l : Lim) (f : Fields) : V Instr :=
  V.ok Instr.vsub |>.ap (vH f) |>.ap (vVTy f VTy.okFZ) |>.ap (vRndF f) |>.ap (vSat f) |>.chk (oFlag0 f) |>.ap (vV l f.a 44) |>.ap (vV l f.b 22) |>.ap (vVGIz l f.c 0 f.intTy)

/-- Decoding of VMUL (opcode 0xB4, R327). -/
def dec_vmul (l : Lim) (f : Fields) : V Instr :=
  V.ok Instr.vmul |>.ap (vH f) |>.ap (vVTy f VTy.okFZ) |>.ap (vRndF f) |>.ap (vSat f) |>.chk (oFlag0 f) |>.ap (vV l f.a 44) |>.ap (vV l f.b 22) |>.ap (vVGIz l f.c 0 f.intTy)

/-- Decoding of VFMA (opcode 0xB5, R327). -/
def dec_vfma (l : Lim) (f : Fields) : V Instr :=
  V.ok Instr.vfma |>.ap (vH f) |>.ap (vVTy f VTy.okF) |>.ap (vRndF f) |>.ap (vSat f) |>.chk (oFlag0 f) |>.ap (vV l f.a 44) |>.ap (vV l f.b 22) |>.ap (vVG l f.c 0)

/-- Decoding of VFMS (opcode 0xB6, R327). -/
def dec_vfms (l : Lim) (f : Fields) : V Instr :=
  V.ok Instr.vfms |>.ap (vH f) |>.ap (vVTy f VTy.okF) |>.ap (vRndF f) |>.ap (vSat f) |>.chk (oFlag0 f) |>.ap (vV l f.a 44) |>.ap (vV l f.b 22) |>.ap (vVG l f.c 0)

/-- Decoding of VNFMA (opcode 0xB7, R327). -/
def dec_vnfma (l : Lim) (f : Fields) : V Instr :=
  V.ok Instr.vnfma |>.ap (vH f) |>.ap (vVTy f VTy.okF) |>.ap (vRndF f) |>.ap (vSat f) |>.chk (oFlag0 f) |>.ap (vV l f.a 44) |>.ap (vV l f.b 22) |>.ap (vVG l f.c 0)

/-- Decoding of VMIN (opcode 0xB8, R327). -/
def dec_vmin (l : Lim) (f : Fields) : V Instr :=
  V.ok Instr.vmin |>.ap (vH f) |>.ap (vVTy f VTy.okFZ) |>.chk (oRnd0 f) |>.chk (oSat0 f) |>.ap (vFlagIf f f.intTy) |>.ap (vV l f.a 44) |>.ap (vV l f.b 22) |>.ap (vVGIz l f.c 0 f.intTy)

/-- Decoding of VMAX (opcode 0xB9, R327). -/
def dec_vmax (l : Lim) (f : Fields) : V Instr :=
  V.ok Instr.vmax |>.ap (vH f) |>.ap (vVTy f VTy.okFZ) |>.chk (oRnd0 f) |>.chk (oSat0 f) |>.ap (vFlagIf f f.intTy) |>.ap (vV l f.a 44) |>.ap (vV l f.b 22) |>.ap (vVGIz l f.c 0 f.intTy)

/-- Decoding of VABS (opcode 0xBA, R327). -/
def dec_vabs (l : Lim) (f : Fields) : V Instr :=
  V.ok Instr.vabs |>.ap (vH f) |>.ap (vVTy f VTy.okFZ) |>.chk (oRnd0 f) |>.ap (vSatZ f) |>.chk (oFlag0 f) |>.ap (vV l f.a 44) |>.ap (vV l f.b 22) |>.chk (oUnused f.c 0)

/-- Decoding of VNEG (opcode 0xBB, R327). -/
def dec_vneg (l : Lim) (f : Fields) : V Instr :=
  V.ok Instr.vneg |>.ap (vH f) |>.ap (vVTy f VTy.okFZs) |>.chk (oRnd0 f) |>.ap (vSatZ f) |>.chk (oFlag0 f) |>.ap (vV l f.a 44) |>.ap (vV l f.b 22) |>.chk (oUnused f.c 0)

/-- Decoding of VCVT (opcode 0xBC, R328). -/
def dec_vcvt (l : Lim) (f : Fields) : V Instr :=
  V.ok Instr.vcvt |>.ap (vH f) |>.ap (vVTy f VTy.okFZ) |>.ap (vRnd f) |>.ap (vSat f) |>.chk (oFlag0 f) |>.ap (vV l f.a 44) |>.ap (vV l f.b 22) |>.ap (vSrcCvt f)

/-- Decoding of VSUM (opcode 0xBD, R331). -/
def dec_vsum (l : Lim) (f : Fields) : V Instr :=
  V.ok Instr.vsum |>.ap (vH f) |>.ap (vVTy f VTy.okFZ) |>.ap (vRndF f) |>.ap (vSat f) |>.chk (oFlag0 f) |>.ap (vV l f.a 44) |>.ap (vV l f.b 22) |>.chk (oUnused f.c 0)

/-- Decoding of VDOT (opcode 0xBE, R331). -/
def dec_vdot (l : Lim) (f : Fields) : V Instr :=
  V.ok Instr.vdot |>.ap (vH f) |>.ap (vVTy f VTy.okFZ) |>.ap (vRndF f) |>.ap (vSat f) |>.chk (oFlag0 f) |>.ap (vV l f.a 44) |>.ap (vV l f.b 22) |>.ap (vVG l f.c 0)

/-- Decoding of VCMP (opcode 0xBF, R327). -/
def dec_vcmp (l : Lim) (f : Fields) : V Instr :=
  V.ok Instr.vcmp |>.ap (vH f) |>.ap (vCTy f) |>.ap (vCondV f) |>.chk (oRnd0 f) |>.chk (oSat0 f) |>.ap (vFlagIf f (f.condSigned && f.intTy)) |>.ap (vV l f.a 44) |>.ap (vV l f.b 22) |>.ap (vVGIz l f.c 0 f.intTy)

/-- Decoding of VSEL (opcode 0xC0, R327). -/
def dec_vsel (l : Lim) (f : Fields) : V Instr :=
  V.ok Instr.vsel |>.ap (vH f) |>.ap (vITy f) |>.chk (oSub0 f) |>.chk (oRnd0 f) |>.chk (oSat0 f) |>.chk (oFlag0 f) |>.ap (vV l f.a 44) |>.ap (vV l f.b 22) |>.ap (vVG l f.c 0)

/-- Decoding of VAND (opcode 0xC1, R327). -/
def dec_vand (l : Lim) (f : Fields) : V Instr :=
  V.ok Instr.vand |>.ap (vH f) |>.chk (oTy0 f) |>.chk (oSub0 f) |>.chk (oRnd0 f) |>.chk (oSat0 f) |>.chk (oFlag0 f) |>.ap (vV l f.a 44) |>.ap (vV l f.b 22) |>.ap (vVG l f.c 0)

/-- Decoding of VOR (opcode 0xC2, R327). -/
def dec_vor (l : Lim) (f : Fields) : V Instr :=
  V.ok Instr.vor |>.ap (vH f) |>.chk (oTy0 f) |>.chk (oSub0 f) |>.chk (oRnd0 f) |>.chk (oSat0 f) |>.chk (oFlag0 f) |>.ap (vV l f.a 44) |>.ap (vV l f.b 22) |>.ap (vVG l f.c 0)

/-- Decoding of VXOR (opcode 0xC3, R327). -/
def dec_vxor (l : Lim) (f : Fields) : V Instr :=
  V.ok Instr.vxor |>.ap (vH f) |>.chk (oTy0 f) |>.chk (oSub0 f) |>.chk (oRnd0 f) |>.chk (oSat0 f) |>.chk (oFlag0 f) |>.ap (vV l f.a 44) |>.ap (vV l f.b 22) |>.ap (vVG l f.c 0)

/-- Decoding of VSHL (opcode 0xC4, R327). -/
def dec_vshl (l : Lim) (f : Fields) : V Instr :=
  V.ok Instr.vshl |>.ap (vH f) |>.ap (vITy f) |>.chk (oSub0 f) |>.chk (oRnd0 f) |>.ap (vSat f) |>.chk (oFlag0 f) |>.ap (vV l f.a 44) |>.ap (vV l f.b 22) |>.ap (vVGI l f.c 0)

/-- Decoding of VSHR (opcode 0xC5, R327). -/
def dec_vshr (l : Lim) (f : Fields) : V Instr :=
  V.ok Instr.vshr |>.ap (vH f) |>.ap (vITy f) |>.chk (oSub0 f) |>.chk (oRnd0 f) |>.chk (oSat0 f) |>.ap (vFlag f) |>.ap (vV l f.a 44) |>.ap (vV l f.b 22) |>.ap (vVGI l f.c 0)

/-- Decoding of VBCAST (opcode 0xC6, R330). -/
def dec_vbcast (l : Lim) (f : Fields) : V Instr :=
  V.ok Instr.vbcast |>.ap (vH f) |>.ap (vVTy f VTy.ok10) |>.chk (oRnd0 f) |>.chk (oSat0 f) |>.chk (oFlag0 f) |>.ap (vV l f.a 44) |>.apAfter (vV l f.a 44).errs (vBcast l f)

/-- Decoding of VEXT (opcode 0xC7, R330). -/
def dec_vext (l : Lim) (f : Fields) : V Instr :=
  V.ok Instr.vext |>.ap (vH f) |>.ap (vVTy f VTy.ok10) |>.chk (oRnd0 f) |>.chk (oSat0 f) |>.ap (vFlag f) |>.ap (vG l f.a 44) |>.ap (vV l f.b 22) |>.ap (vGI l f.c 0)

/-- Decoding of VINS (opcode 0xC8, R330). -/
def dec_vins (l : Lim) (f : Fields) : V Instr :=
  V.ok Instr.vins |>.ap (vH f) |>.ap (vVTy f VTy.ok10) |>.chk (oRnd0 f) |>.chk (oSat0 f) |>.chk (oFlag0 f) |>.ap (vV l f.a 44) |>.ap (vG l f.b 22) |>.ap (vGI l f.c 0)

/-- Decoding of VPACK (opcode 0xC9, R329). -/
def dec_vpack (l : Lim) (f : Fields) : V Instr :=
  V.ok Instr.vpack |>.ap (vH f) |>.ap (vVTy f VTy.okPk) |>.ap (vRndF f) |>.ap (vSat f) |>.chk (oFlag0 f) |>.ap (vV l f.a 44) |>.ap (vV l f.b 22) |>.ap (vV l f.c 0)

/-- Decoding of VUNPACK (opcode 0xCA, R329). -/
def dec_vunpack (l : Lim) (f : Fields) : V Instr :=
  V.ok Instr.vunpack |>.ap (vH f) |>.ap (vVTy f VTy.okUp) |>.chk (oRnd0 f) |>.chk (oSat0 f) |>.chk (oFlag0 f) |>.ap (vV l f.a 44) |>.ap (vV l f.b 22) |>.ap (vSrcUnp f) |>.ap (vHi f)

/-- Decoding of VPERM (opcode 0xCB, R327). -/
def dec_vperm (l : Lim) (f : Fields) : V Instr :=
  V.ok Instr.vperm |>.ap (vH f) |>.ap (vITy f) |>.chk (oSub0 f) |>.chk (oRnd0 f) |>.chk (oSat0 f) |>.chk (oFlag0 f) |>.ap (vV l f.a 44) |>.ap (vV l f.b 22) |>.ap (vV l f.c 0)

/-- Decoding of VMR (opcode 0xCC, R332). -/
def dec_vmr (l : Lim) (f : Fields) : V Instr :=
  V.ok Instr.vmr |>.ap (vH f) |>.ap (vVTy f VTy.okFZ) |>.ap (vRndF f) |>.ap (vSat f) |>.chk (oFlag0 f) |>.ap (vV l f.a 44) |>.ap (vV l f.b 22) |>.ap (vV l f.c 0)

/-- Decoding of VLOG (opcode 0xCD, R333). -/
def dec_vlog (l : Lim) (f : Fields) : V Instr :=
  V.ok Instr.vlog |>.ap (vH f) |>.ap (vVTy f VTy.okL) |>.ap (vRndF f) |>.ap (vSat f) |>.chk (oFlag0 f) |>.ap (vV l f.a 44) |>.ap (vV l f.b 22) |>.chk (oUnused f.c 0)

/-- Decoding of VALOG (opcode 0xCE, R333). -/
def dec_valog (l : Lim) (f : Fields) : V Instr :=
  V.ok Instr.valog |>.ap (vH f) |>.ap (vVTy f VTy.okL) |>.ap (vRndF f) |>.ap (vSat f) |>.chk (oFlag0 f) |>.ap (vV l f.a 44) |>.ap (vV l f.b 22) |>.chk (oUnused f.c 0)

/-- Decoding of VEXP2 (opcode 0xCF, R333). -/
def dec_vexp2 (l : Lim) (f : Fields) : V Instr :=
  V.ok Instr.vexp2 |>.ap (vH f) |>.ap (vVTy f VTy.okL) |>.ap (vRndF f) |>.ap (vSat f) |>.chk (oFlag0 f) |>.ap (vV l f.a 44) |>.ap (vV l f.b 22) |>.chk (oUnused f.c 0)

/-- Decoding of VLOG2 (opcode 0xD0, R333). -/
def dec_vlog2 (l : Lim) (f : Fields) : V Instr :=
  V.ok Instr.vlog2 |>.ap (vH f) |>.ap (vVTy f VTy.okL) |>.ap (vRndF f) |>.ap (vSat f) |>.chk (oFlag0 f) |>.ap (vV l f.a 44) |>.ap (vV l f.b 22) |>.chk (oUnused f.c 0)

/-- Decoding of VRCP (opcode 0xD1, R333). -/
def dec_vrcp (l : Lim) (f : Fields) : V Instr :=
  V.ok Instr.vrcp |>.ap (vH f) |>.ap (vVTy f VTy.okL) |>.ap (vRndF f) |>.ap (vSat f) |>.chk (oFlag0 f) |>.ap (vV l f.a 44) |>.ap (vV l f.b 22) |>.chk (oUnused f.c 0)

/-- Decoding of VSQRT (opcode 0xD2, R333). -/
def dec_vsqrt (l : Lim) (f : Fields) : V Instr :=
  V.ok Instr.vsqrt |>.ap (vH f) |>.ap (vVTy f VTy.okL) |>.ap (vRndF f) |>.ap (vSat f) |>.chk (oFlag0 f) |>.ap (vV l f.a 44) |>.ap (vV l f.b 22) |>.chk (oUnused f.c 0)

/-- Decoding of VRSQRT (opcode 0xD3, R333). -/
def dec_vrsqrt (l : Lim) (f : Fields) : V Instr :=
  V.ok Instr.vrsqrt |>.ap (vH f) |>.ap (vVTy f VTy.okL) |>.ap (vRndF f) |>.ap (vSat f) |>.chk (oFlag0 f) |>.ap (vV l f.a 44) |>.ap (vV l f.b 22) |>.chk (oUnused f.c 0)

/-- Decoding of VPOW (opcode 0xD4, R333). -/
def dec_vpow (l : Lim) (f : Fields) : V Instr :=
  V.ok Instr.vpow |>.ap (vH f) |>.ap (vVTy f VTy.okL) |>.ap (vRndF f) |>.ap (vSat f) |>.chk (oFlag0 f) |>.ap (vV l f.a 44) |>.ap (vV l f.b 22) |>.ap (vVG l f.c 0)

/-- Decoding of VSIGM (opcode 0xD5, R333). -/
def dec_vsigm (l : Lim) (f : Fields) : V Instr :=
  V.ok Instr.vsigm |>.ap (vH f) |>.ap (vVTy f VTy.okL) |>.ap (vRndF f) |>.ap (vSat f) |>.chk (oFlag0 f) |>.ap (vV l f.a 44) |>.ap (vV l f.b 22) |>.chk (oUnused f.c 0)

/-- Decoding of VTANH (opcode 0xD6, R333). -/
def dec_vtanh (l : Lim) (f : Fields) : V Instr :=
  V.ok Instr.vtanh |>.ap (vH f) |>.ap (vVTy f VTy.okL) |>.ap (vRndF f) |>.ap (vSat f) |>.chk (oFlag0 f) |>.ap (vV l f.a 44) |>.ap (vV l f.b 22) |>.chk (oUnused f.c 0)

/-- Decoding of SCFG (opcode 0xD7, R335). -/
def dec_scfg (l : Lim) (f : Fields) : V Instr :=
  V.ok Instr.scfg |>.ap (vH f) |>.chk (oTy0 f) |>.chk (oSub0 f) |>.chk (oRnd0 f) |>.chk (oSat0 f) |>.chk (oFlag0 f) |>.ap (vV4 f.a 44) |>.ap (vM l f.b 22) |>.chk (oUnused f.c 0)

/-- Decoding of SBIND (opcode 0xD8, R335). -/
def dec_sbind (_ : Lim) (f : Fields) : V Instr :=
  V.ok Instr.sbind |>.ap (vH f) |>.chk (oTy0 f) |>.chk (oSub0 f) |>.chk (oRnd0 f) |>.chk (oSat0 f) |>.chk (oFlag0 f) |>.ap (vV4 f.a 44) |>.chk (oUnused f.b 22) |>.chk (oUnused f.c 0)

/-- Decoding of SFREE (opcode 0xD9, R335). -/
def dec_sfree (_ : Lim) (f : Fields) : V Instr :=
  V.ok Instr.sfree |>.ap (vH f) |>.chk (oTy0 f) |>.chk (oSub0 f) |>.chk (oRnd0 f) |>.chk (oSat0 f) |>.chk (oFlag0 f) |>.ap (vV4 f.a 44) |>.chk (oUnused f.b 22) |>.chk (oUnused f.c 0)

/-- Decoding of VRPT (opcode 0xDA, R335). -/
def dec_vrpt (l : Lim) (f : Fields) : V Instr :=
  V.ok Instr.vrpt |>.ap (vH f) |>.chk (oTy0 f) |>.chk (oSub0 f) |>.chk (oRnd0 f) |>.chk (oSat0 f) |>.chk (oFlag0 f) |>.ap (vImmPos f.a 44 (vGI l f.a 44)) |>.ap (vL15 f.b 22) |>.chk (oUnused f.c 0)

/-- Decoding of VSYNC (opcode 0xDB, R335). -/
def dec_vsync (_ : Lim) (f : Fields) : V Instr :=
  V.ok Instr.vsync |>.ap (vH f) |>.chk (oTy0 f) |>.chk (oSub0 f) |>.chk (oRnd0 f) |>.chk (oSat0 f) |>.chk (oFlag0 f) |>.chk (oUnused f.a 44) |>.chk (oUnused f.b 22) |>.chk (oUnused f.c 0)

/-- Decoding of CTX_SAVE (opcode 0xF0, R440). -/
def dec_ctxSave (l : Lim) (f : Fields) : V Instr :=
  V.ok Instr.ctxSave |>.ap (vH f) |>.chk (oTy0 f) |>.chk (oSub0 f) |>.chk (oRnd0 f) |>.chk (oSat0 f) |>.chk (oFlag0 f) |>.ap (vG l f.a 44) |>.ap (vM l f.b 22) |>.chk (oUnused f.c 0)

/-- Decoding of CTX_LOAD (opcode 0xF1, R442). -/
def dec_ctxLoad (l : Lim) (f : Fields) : V Instr :=
  V.ok Instr.ctxLoad |>.ap (vH f) |>.chk (oTy0 f) |>.chk (oSub0 f) |>.chk (oRnd0 f) |>.chk (oSat0 f) |>.chk (oFlag0 f) |>.ap (vM l f.a 44) |>.chk (oUnused f.b 22) |>.chk (oUnused f.c 0)

/-- Decoding of CTX_DROP (opcode 0xF2, R441). -/
def dec_ctxDrop (l : Lim) (f : Fields) : V Instr :=
  V.ok Instr.ctxDrop |>.ap (vH f) |>.chk (oTy0 f) |>.chk (oSub0 f) |>.chk (oRnd0 f) |>.chk (oSat0 f) |>.chk (oFlag0 f) |>.ap (vG l f.a 44) |>.chk (oUnused f.b 22) |>.chk (oUnused f.c 0)

/-- The instruction that the fields of a word name, with the offsets of every reserved-field encoding; `none` for an unassigned opcode (R75 step 1, R82). -/
def ofFields (l : Lim) (f : Fields) : Option (V Instr) :=
  match f.op.toNat with
  | 0x01 => some (dec_add l f)
  | 0x02 => some (dec_sub l f)
  | 0x03 => some (dec_mul l f)
  | 0x04 => some (dec_mulh l f)
  | 0x05 => some (dec_mad l f)
  | 0x06 => some (dec_div l f)
  | 0x07 => some (dec_rem l f)
  | 0x08 => some (dec_and l f)
  | 0x09 => some (dec_or l f)
  | 0x0A => some (dec_xor l f)
  | 0x0B => some (dec_andn l f)
  | 0x0C => some (dec_shl l f)
  | 0x0D => some (dec_shr l f)
  | 0x0E => some (dec_rot l f)
  | 0x0F => some (dec_min l f)
  | 0x10 => some (dec_max l f)
  | 0x11 => some (dec_abs l f)
  | 0x12 => some (dec_clz l f)
  | 0x13 => some (dec_ctz l f)
  | 0x14 => some (dec_pop l f)
  | 0x15 => some (dec_bext l f)
  | 0x16 => some (dec_bins l f)
  | 0x17 => some (dec_extI l f)
  | 0x18 => some (dec_mov l f)
  | 0x19 => some (dec_li l f)
  | 0x1A => some (dec_lih l f)
  | 0x1B => some (dec_lpc l f)
  | 0x1C => some (dec_sel l f)
  | 0x1D => some (dec_cmp l f)
  | 0x1E => some (dec_plog l f)
  | 0x1F => some (dec_pmov l f)
  | 0x20 => some (dec_pget l f)
  | 0x21 => some (dec_br l f)
  | 0x22 => some (dec_brl l f)
  | 0x23 => some (dec_jr l f)
  | 0x24 => some (dec_jrl l f)
  | 0x25 => some (dec_dbr l f)
  | 0x26 => some (dec_ctlRd l f)
  | 0x27 => some (dec_ctlWr l f)
  | 0x28 => some (dec_ctlSet l f)
  | 0x29 => some (dec_ctlClr l f)
  | 0x2A => some (dec_trap l f)
  | 0x2B => some (dec_eret l f)
  | 0x2C => some (dec_sysc l f)
  | 0x2D => some (dec_halt l f)
  | 0x2E => some (dec_nop l f)
  | 0x2F => some (dec_yieldI l f)
  | 0x30 => some (if f.flag then dec_ifenceFill l f else dec_ifence l f)
  | 0x31 => some (dec_gangShed l f)
  | 0x32 => some (dec_gangJoin l f)
  | 0x38 => some (dec_demand l f)
  | 0x39 => some (dec_settle l f)
  | 0x3A => some (dec_bshare l f)
  | 0x3B => some (dec_bmov l f)
  | 0x3C => some (dec_grade l f)
  | 0x3D => some (if f.flag then dec_sensLdReset l f else dec_sensLd l f)
  | 0x40 => some (dec_ld l f)
  | 0x41 => some (dec_st l f)
  | 0x42 => some (dec_ldAcq l f)
  | 0x43 => some (dec_stRel l f)
  | 0x44 => some (dec_ldWf l f)
  | 0x45 => some (dec_stWe l f)
  | 0x46 => some (pick3 f (dec_tagRd l f) (dec_tagFull l f) (dec_tagEmpty l f))
  | 0x47 => some (dec_pref l f)
  | 0x48 => some (pick2 f (dec_cfl l f) (dec_cflEvict l f))
  | 0x49 => some (pick2 f (dec_cinv l f) (dec_cinvAll l f))
  | 0x4A => some (pickFence f (dec_fence l f) (dec_fenceAcq l f) (dec_fenceRel l f))
  | 0x4B => some (pick3 f (dec_region l f) (dec_regionForce l f) (dec_regionDrop l f))
  | 0x4C => some (dec_ldPair l f)
  | 0x4D => some (dec_stPair l f)
  | 0x60 => some (dec_launch l f)
  | 0x61 => some (dec_doneI l f)
  | 0x62 => some (dec_nexttile l f)
  | 0x63 => some (dec_ringClaim l f)
  | 0x64 => some (dec_ringPost l f)
  | 0x65 => some (dec_ringTake l f)
  | 0x66 => some (dec_ringFree l f)
  | 0x67 => some (dec_ringStat l f)
  | 0x70 => some (dec_copy l f)
  | 0x71 => some (dec_copyDeal l f)
  | 0x72 => some (if f.flag then dec_shutQDrop l f else dec_shutQ l f)
  | 0x73 => some (dec_copyResume l f)
  | 0x78 => some (dec_mx l f)
  | 0x79 => some (dec_accZero l f)
  | 0x7C => some (dec_cnPut l f)
  | 0x7D => some (if f.flag then dec_cnGetRef l f else dec_cnGet l f)
  | 0x7E => some (dec_cnRef l f)
  | 0x7F => some (dec_cnUnref l f)
  | 0x80 => some (dec_cnNode l f)
  | 0x81 => some (dec_cnSwap l f)
  | 0x82 => some (if f.flag then dec_cnRootRef l f else dec_cnRoot l f)
  | 0x83 => some (dec_cnOut l f)
  | 0x84 => some (if f.flag then dec_cnCfgStat l f else dec_cnCfg l f)
  | 0x88 => some (dec_amo l f)
  | 0x89 => some (dec_amoCas l f)
  | 0x8A => some (dec_red l f)
  | 0x8B => some (dec_bupd l f)
  | 0x8C => some (dec_bupdR l f)
  | 0x8D => some (dec_bcfg l f)
  | 0x8E => some (dec_vbupd l f)
  | 0x8F => some (dec_barInit l f)
  | 0x90 => some (dec_barArr l f)
  | 0x91 => some (dec_barWait l f)
  | 0x92 => some (dec_barTest l f)
  | 0x93 => some (dec_tbar l f)
  | 0x94 => some (dec_nred l f)
  | 0x95 => some (dec_wait l f)
  | 0x96 => some (dec_pause l f)
  | 0x97 => some (dec_msgSend l f)
  | 0x98 => some (dec_hatchPut l f)
  | 0x99 => some (dec_hatchGet l f)
  | 0x9A => some (dec_hatchFree l f)
  | 0x9B => some (if f.flag then dec_jobPollAcq l f else dec_jobPoll l f)
  | 0x9C => some (dec_jobCancel l f)
  | 0xB0 => some (dec_vld l f)
  | 0xB1 => some (dec_vst l f)
  | 0xB2 => some (dec_vadd l f)
  | 0xB3 => some (dec_vsub l f)
  | 0xB4 => some (dec_vmul l f)
  | 0xB5 => some (dec_vfma l f)
  | 0xB6 => some (dec_vfms l f)
  | 0xB7 => some (dec_vnfma l f)
  | 0xB8 => some (dec_vmin l f)
  | 0xB9 => some (dec_vmax l f)
  | 0xBA => some (dec_vabs l f)
  | 0xBB => some (dec_vneg l f)
  | 0xBC => some (dec_vcvt l f)
  | 0xBD => some (dec_vsum l f)
  | 0xBE => some (dec_vdot l f)
  | 0xBF => some (dec_vcmp l f)
  | 0xC0 => some (dec_vsel l f)
  | 0xC1 => some (dec_vand l f)
  | 0xC2 => some (dec_vor l f)
  | 0xC3 => some (dec_vxor l f)
  | 0xC4 => some (dec_vshl l f)
  | 0xC5 => some (dec_vshr l f)
  | 0xC6 => some (dec_vbcast l f)
  | 0xC7 => some (dec_vext l f)
  | 0xC8 => some (dec_vins l f)
  | 0xC9 => some (dec_vpack l f)
  | 0xCA => some (dec_vunpack l f)
  | 0xCB => some (dec_vperm l f)
  | 0xCC => some (dec_vmr l f)
  | 0xCD => some (dec_vlog l f)
  | 0xCE => some (dec_valog l f)
  | 0xCF => some (dec_vexp2 l f)
  | 0xD0 => some (dec_vlog2 l f)
  | 0xD1 => some (dec_vrcp l f)
  | 0xD2 => some (dec_vsqrt l f)
  | 0xD3 => some (dec_vrsqrt l f)
  | 0xD4 => some (dec_vpow l f)
  | 0xD5 => some (dec_vsigm l f)
  | 0xD6 => some (dec_vtanh l f)
  | 0xD7 => some (dec_scfg l f)
  | 0xD8 => some (dec_sbind l f)
  | 0xD9 => some (dec_sfree l f)
  | 0xDA => some (dec_vrpt l f)
  | 0xDB => some (dec_vsync l f)
  | 0xF0 => some (dec_ctxSave l f)
  | 0xF1 => some (dec_ctxLoad l f)
  | 0xF2 => some (dec_ctxDrop l f)
  | _ => none
/-- The fields of an instruction word, from the encoding tables (R66-R74); the events of the module have no word. -/
def toFields : Instr → Option Fields
  | .add h t sa a b c => some (mk h 0x01 t.code 0 0 sa false (encG a) (encG b) (encGI c))
  | .sub h t sa a b c => some (mk h 0x02 t.code 0 0 sa false (encG a) (encG b) (encGI c))
  | .mul h t sa a b c => some (mk h 0x03 t.code 0 0 sa false (encG a) (encG b) (encGI c))
  | .mulh h t u a b c => some (mk h 0x04 t.code 0 0 false u (encG a) (encG b) (encGI c))
  | .mad h t sa a b c => some (mk h 0x05 t.code 0 0 sa false (encG a) (encG b) (encGI c))
  | .div h t u a b c => some (mk h 0x06 t.code 0 0 false u (encG a) (encG b) (encGI c))
  | .rem h t u a b c => some (mk h 0x07 t.code 0 0 false u (encG a) (encG b) (encGI c))
  | .and h t a b c => some (mk h 0x08 t.code 0 0 false false (encG a) (encG b) (encGI c))
  | .or h t a b c => some (mk h 0x09 t.code 0 0 false false (encG a) (encG b) (encGI c))
  | .xor h t a b c => some (mk h 0x0A t.code 0 0 false false (encG a) (encG b) (encGI c))
  | .andn h t a b c => some (mk h 0x0B t.code 0 0 false false (encG a) (encG b) (encGI c))
  | .shl h t sa a b c => some (mk h 0x0C t.code 0 0 sa false (encG a) (encG b) (encGI c))
  | .shr h t u a b c => some (mk h 0x0D t.code 0 0 false u (encG a) (encG b) (encGI c))
  | .rot h t a b c => some (mk h 0x0E t.code 0 0 false false (encG a) (encG b) (encGI c))
  | .min h t u a b c => some (mk h 0x0F t.code 0 0 false u (encG a) (encG b) (encGI c))
  | .max h t u a b c => some (mk h 0x10 t.code 0 0 false u (encG a) (encG b) (encGI c))
  | .abs h t sa a b => some (mk h 0x11 t.code 0 0 sa false (encG a) (encG b) 0)
  | .clz h t a b => some (mk h 0x12 t.code 0 0 false false (encG a) (encG b) 0)
  | .ctz h t a b => some (mk h 0x13 t.code 0 0 false false (encG a) (encG b) 0)
  | .pop h t a b => some (mk h 0x14 t.code 0 0 false false (encG a) (encG b) 0)
  | .bext h u a b c => some (mk h 0x15 0 0 0 false u (encG a) (encG b) (encGI c))
  | .bins h a b c => some (mk h 0x16 0 0 0 false false (encG a) (encG b) (encGI c))
  | .extI h t u a b => some (mk h 0x17 t.code 0 0 false u (encG a) (encG b) 0)
  | .mov h a b => some (mk h 0x18 0 0 0 false false (encG a) (encGI b) 0)
  | .li h a w => some (mk h 0x19 0 0 0 false false (encG a) (encWB w) (encWC w))
  | .lih h a w => some (mk h 0x1A 0 0 0 false false (encG a) (encWB w) (encWC w))
  | .lpc h a c => some (mk h 0x1B 0 0 0 false false (encG a) 0 (encI c))
  | .sel h n u a b c => some (mk h 0x1C 0 n.val 0 false u (encG a) (encG b) (encGI c))
  | .cmp h t n u a b c => some (mk h 0x1D t.code n.code 0 false u (encP a) (encG b) (encGI c))
  | .plog h n a b c => some (mk h 0x1E 0 n.val 0 false false (encP a) (encP b) (encP c))
  | .pmov h u a b => some (mk h 0x1F 0 0 0 false u (encP a) (encPGI b) 0)
  | .pget h a b => some (mk h 0x20 0 0 0 false false (encG a) (encP b) 0)
  | .br h u a c => some (mk h 0x21 0 0 0 false u (encPA a) 0 (encI c))
  | .brl h u a c => some (mk h 0x22 0 0 0 false u (encPA a) 0 (encI c))
  | .jr h u a b c => some (mk h 0x23 0 0 0 false u (encPA a) (encG b) (encGI c))
  | .jrl h u a b c => some (mk h 0x24 0 0 0 false u (encPA a) (encG b) (encGI c))
  | .dbr h a c => some (mk h 0x25 0 0 0 false false (encG a) 0 (encI c))
  | .ctlRd h a b => some (mk h 0x26 0 0 0 false false (encG a) (encK b) 0)
  | .ctlWr h a b => some (mk h 0x27 0 0 0 false false (encK a) (encGI b) 0)
  | .ctlSet h a b => some (mk h 0x28 0 0 0 false false (encK a) (encGI b) 0)
  | .ctlClr h a b => some (mk h 0x29 0 0 0 false false (encK a) (encGI b) 0)
  | .trap h c => some (mk h 0x2A 0 0 0 false false 0 0 (encIZ c))
  | .eret h => some (mk h 0x2B 0 0 0 false false 0 0 0)
  | .sysc h c => some (mk h 0x2C 0 0 0 false false 0 0 (encIZ c))
  | .halt h => some (mk h 0x2D 0 0 0 false false 0 0 0)
  | .nop h => some (mk h 0x2E 0 0 0 false false 0 0 0)
  | .yieldI h => some (mk h 0x2F 0 0 0 false false 0 0 0)
  | .ifence h => some (mk h 0x30 0 0 0 false false 0 0 0)
  | .ifenceFill h a b c => some (mk h 0x30 0 0 0 false true (encG a) (encG b) (encGI c))
  | .gangShed h => some (mk h 0x31 0 0 0 false false 0 0 0)
  | .gangJoin h => some (mk h 0x32 0 0 0 false false 0 0 0)
  | .demand h a b => some (mk h 0x38 0 0 0 false false (encGI a) (encBI b) 0)
  | .settle h => some (mk h 0x39 0 0 0 false false 0 0 0)
  | .bshare h a b c => some (mk h 0x3A 0 0 0 false false (encB a) (encB b) (encBsh c))
  | .bmov h m => some (mk h 0x3B 0 0 0 false false m.encA m.encB 0)
  | .grade h m => some (mk h 0x3C 0 0 0 false false m.encA m.encB 0)
  | .sensLd h a b => some (mk h 0x3D 0 0 0 false false (encGI a) (encM b) 0)
  | .sensLdReset h a => some (mk h 0x3D 0 0 0 false true (encGI a) 0 0)
  | .ld h t u a b => some (mk h 0x40 t.code 0 0 false u (encG a) (encM b) 0)
  | .st h t a b => some (mk h 0x41 t.code 0 0 false false (encM a) (encGI b) 0)
  | .ldAcq h t n u a b => some (mk h 0x42 t.code n.code 0 false u (encG a) (encM b) 0)
  | .stRel h t n a b => some (mk h 0x43 t.code n.code 0 false false (encM a) (encGI b) 0)
  | .ldWf h t n u a b => some (mk h 0x44 t.code n.toNat 0 false u (encG a) (encM b) 0)
  | .stWe h t a b => some (mk h 0x45 t.code 0 0 false false (encM a) (encGI b) 0)
  | .tagRd h a b => some (mk h 0x46 0 0 0 false false (encG a) (encM b) 0)
  | .tagFull h a b => some (mk h 0x46 0 1 0 false false (encM a) (encGI b) 0)
  | .tagEmpty h a b => some (mk h 0x46 0 2 0 false false (encM a) (encGI b) 0)
  | .pref h a => some (mk h 0x47 0 0 0 false false (encM a) 0 0)
  | .cfl h a => some (mk h 0x48 0 0 0 false false (encM a) 0 0)
  | .cflEvict h a => some (mk h 0x48 0 1 0 false false (encM a) 0 0)
  | .cinv h a => some (mk h 0x49 0 0 0 false false (encM a) 0 0)
  | .cinvAll h => some (mk h 0x49 0 1 0 false false 0 0 0)
  | .fence h n => some (mk h 0x4A 0 n.code 0 false false 0 0 (encIn 3))
  | .fenceAcq h n => some (mk h 0x4A 0 n.code 0 false false 0 0 (encIn 1))
  | .fenceRel h n => some (mk h 0x4A 0 n.code 0 false false 0 0 (encIn 2))
  | .region h => some (mk h 0x4B 0 0 0 false false 0 0 0)
  | .regionForce h => some (mk h 0x4B 0 1 0 false false 0 0 0)
  | .regionDrop h => some (mk h 0x4B 0 2 0 false false 0 0 0)
  | .ldPair h t u a b c => some (mk h 0x4C t.code 0 0 false u (encG a) (encG b) (encM c))
  | .stPair h t a b c => some (mk h 0x4D t.code 0 0 false false (encM a) (encG b) (encG c))
  | .launch h a b => some (mk h 0x60 0 0 0 false false (encG a) (encM b) 0)
  | .doneI h => some (mk h 0x61 0 0 0 false false 0 0 0)
  | .nexttile h a => some (mk h 0x62 0 0 0 false false (encGI a) 0 0)
  | .ringClaim h u a b => some (mk h 0x63 0 0 0 false u (encG a) (encI1 b) 0)
  | .ringPost h a b => some (mk h 0x64 0 0 0 false false (encG a) (encG b) 0)
  | .ringTake h u a b => some (mk h 0x65 0 0 0 false u (encG a) (encI1 b) 0)
  | .ringFree h a b => some (mk h 0x66 0 0 0 false false (encG a) (encG b) 0)
  | .ringStat h a b => some (mk h 0x67 0 0 0 false false (encG a) (encI1 b) 0)
  | .copy h a b => some (mk h 0x70 0 0 0 false false (encG a) (encM b) 0)
  | .copyDeal h a b c => some (mk h 0x71 0 0 0 false false (encG a) (encM b) (encGI c))
  | .shutQ h a b => some (mk h 0x72 0 0 0 false false (encG a) (encG b) 0)
  | .shutQDrop h a b => some (mk h 0x72 0 0 0 false true (encG a) (encG b) 0)
  | .copyResume h a b c => some (mk h 0x73 0 0 0 false false (encG a) (encM b) (encG c))
  | .mx h a b => some (mk h 0x78 0 0 0 false false (encG a) (encM b) 0)
  | .accZero h a b c => some (mk h 0x79 0 0 0 false false (encG a) (encGI b) (encGI c))
  | .cnPut h a b c => some (mk h 0x7C 0 0 0 false false (encG a) (encM b) (encG c))
  | .cnGet h a b => some (mk h 0x7D 0 0 0 false false (encG a) (encM b) 0)
  | .cnGetRef h a b => some (mk h 0x7D 0 0 0 false true (encG a) (encM b) 0)
  | .cnRef h a b => some (mk h 0x7E 0 0 0 false false (encG a) (encM b) 0)
  | .cnUnref h a b => some (mk h 0x7F 0 0 0 false false (encG a) (encM b) 0)
  | .cnNode h a b c => some (mk h 0x80 0 0 0 false false (encG a) (encM b) (encG c))
  | .cnSwap h a b c => some (mk h 0x81 0 0 0 false false (encG a) (encM b) (encG c))
  | .cnRoot h a b c => some (mk h 0x82 0 0 0 false false (encG a) (encM b) (encG c))
  | .cnRootRef h a b c => some (mk h 0x82 0 0 0 false true (encG a) (encM b) (encG c))
  | .cnOut h a b c => some (mk h 0x83 0 0 0 false false (encG a) (encM b) (encG c))
  | .cnCfg h a b => some (mk h 0x84 0 0 0 false false (encG a) (encM b) 0)
  | .cnCfgStat h a b => some (mk h 0x84 0 0 0 false true (encG a) (encIn b.val) 0)
  | .amo h t n r u a b c => some (mk h 0x88 t.code n.code r.code false u (encG a) (encM b) (encGI c))
  | .amoCas h t a b c => some (mk h 0x89 t.code 0 0 false false (encG a) (encM b) (encG c))
  | .red h t n r u a b c => some (mk h 0x8A t.code n.code r.code false u (encM a) (encGI b) (encG c))
  | .bupd h n u a b => some (mk h 0x8B 1 n.val 0 false u (encM a) (encGI b) 0)
  | .bupdR h n u a b c => some (mk h 0x8C 1 n.val 0 false u (encG a) (encM b) (encGI c))
  | .bcfg h a b c => some (mk h 0x8D 0 0 0 false false (encIn a.val) (encG b) (encIn c.val))
  | .vbupd h n u a b c => some (mk h 0x8E 1 n.val 0 false u (encM a) (encV b) (encV c))
  | .barInit h a b => some (mk h 0x8F 0 0 0 false false (encM a) (encGI b) 0)
  | .barArr h a b c => some (mk h 0x90 0 0 0 false false (encG a) (encM b) (encGI c))
  | .barWait h a b => some (mk h 0x91 0 0 0 false false (encM a) (encGI b) 0)
  | .barTest h a b => some (mk h 0x92 0 0 0 false false (encG a) (encM b) 0)
  | .tbar h a c => some (mk h 0x93 0 0 0 false false (encGI a) 0 (encGI c))
  | .nred h t n r u a b c => some (mk h 0x94 t.code n.code r.code false u (encGI a) (encG b) (encGI c))
  | .wait h a b c => some (mk h 0x95 0 0 0 false false (encG a) (encM b) (encG c))
  | .pause h a => some (mk h 0x96 0 0 0 false false (encGI a) 0 0)
  | .msgSend h a b c => some (mk h 0x97 0 0 0 false false (encG a) (encG b) (encGI c))
  | .hatchPut h b => some (mk h 0x98 0 0 0 false false 0 (encGI b) 0)
  | .hatchGet h a => some (mk h 0x99 0 0 0 false false (encG a) 0 0)
  | .hatchFree h a => some (mk h 0x9A 0 0 0 false false (encG a) 0 0)
  | .jobPoll h a b c => some (mk h 0x9B 0 0 0 false false (encG a) (encGI b) (encI1 c))
  | .jobPollAcq h a b c => some (mk h 0x9B 0 0 0 false true (encG a) (encGI b) (encI1 c))
  | .jobCancel h a b c => some (mk h 0x9C 0 0 0 false false (encG a) (encGI b) (encI1 c))
  | .vld h a b c => some (mk h 0xB0 0 0 0 false false (encV a) (encM b) (encGI c))
  | .vst h a b => some (mk h 0xB1 0 0 0 false false (encM a) (encV b) 0)
  | .vadd h t r sa a b c => some (mk h 0xB2 t.code t.sub r.code sa false (encV a) (encV b) (encVGI c))
  | .vsub h t r sa a b c => some (mk h 0xB3 t.code t.sub r.code sa false (encV a) (encV b) (encVGI c))
  | .vmul h t r sa a b c => some (mk h 0xB4 t.code t.sub r.code sa false (encV a) (encV b) (encVGI c))
  | .vfma h t r sa a b c => some (mk h 0xB5 t.code t.sub r.code sa false (encV a) (encV b) (encVG c))
  | .vfms h t r sa a b c => some (mk h 0xB6 t.code t.sub r.code sa false (encV a) (encV b) (encVG c))
  | .vnfma h t r sa a b c => some (mk h 0xB7 t.code t.sub r.code sa false (encV a) (encV b) (encVG c))
  | .vmin h t u a b c => some (mk h 0xB8 t.code t.sub 0 false u (encV a) (encV b) (encVGI c))
  | .vmax h t u a b c => some (mk h 0xB9 t.code t.sub 0 false u (encV a) (encV b) (encVGI c))
  | .vabs h t sa a b => some (mk h 0xBA t.code t.sub 0 sa false (encV a) (encV b) 0)
  | .vneg h t sa a b => some (mk h 0xBB t.code t.sub 0 sa false (encV a) (encV b) 0)
  | .vcvt h t r sa a b c => some (mk h 0xBC t.code t.sub r.code sa false (encV a) (encV b) (encSrcTy c false))
  | .vsum h t r sa a b => some (mk h 0xBD t.code t.sub r.code sa false (encV a) (encV b) 0)
  | .vdot h t r sa a b c => some (mk h 0xBE t.code t.sub r.code sa false (encV a) (encV b) (encVG c))
  | .vcmp h t n u a b c => some (mk h 0xBF t.code n.code 0 false u (encV a) (encV b) (encVGI c))
  | .vsel h t a b c => some (mk h 0xC0 t.code 0 0 false false (encV a) (encV b) (encVG c))
  | .vand h a b c => some (mk h 0xC1 0 0 0 false false (encV a) (encV b) (encVG c))
  | .vor h a b c => some (mk h 0xC2 0 0 0 false false (encV a) (encV b) (encVG c))
  | .vxor h a b c => some (mk h 0xC3 0 0 0 false false (encV a) (encV b) (encVG c))
  | .vshl h t sa a b c => some (mk h 0xC4 t.code 0 0 sa false (encV a) (encV b) (encVGI c))
  | .vshr h t u a b c => some (mk h 0xC5 t.code 0 0 false u (encV a) (encV b) (encVGI c))
  | .vbcast h t a m => some (mk h 0xC6 t.code t.sub 0 false false (encV a) m.encB m.encC)
  | .vext h t u a b c => some (mk h 0xC7 t.code t.sub 0 false u (encG a) (encV b) (encGI c))
  | .vins h t a b c => some (mk h 0xC8 t.code t.sub 0 false false (encV a) (encG b) (encGI c))
  | .vpack h t r sa a b c => some (mk h 0xC9 t.code t.sub r.code sa false (encV a) (encV b) (encV c))
  | .vunpack h t a b c hi => some (mk h 0xCA t.code t.sub 0 false false (encV a) (encV b) (encSrcTy c hi))
  | .vperm h t a b c => some (mk h 0xCB t.code 0 0 false false (encV a) (encV b) (encV c))
  | .vmr h t r sa a b c => some (mk h 0xCC t.code t.sub r.code sa false (encV a) (encV b) (encV c))
  | .vlog h t r sa a b => some (mk h 0xCD t.code t.sub r.code sa false (encV a) (encV b) 0)
  | .valog h t r sa a b => some (mk h 0xCE t.code t.sub r.code sa false (encV a) (encV b) 0)
  | .vexp2 h t r sa a b => some (mk h 0xCF t.code t.sub r.code sa false (encV a) (encV b) 0)
  | .vlog2 h t r sa a b => some (mk h 0xD0 t.code t.sub r.code sa false (encV a) (encV b) 0)
  | .vrcp h t r sa a b => some (mk h 0xD1 t.code t.sub r.code sa false (encV a) (encV b) 0)
  | .vsqrt h t r sa a b => some (mk h 0xD2 t.code t.sub r.code sa false (encV a) (encV b) 0)
  | .vrsqrt h t r sa a b => some (mk h 0xD3 t.code t.sub r.code sa false (encV a) (encV b) 0)
  | .vpow h t r sa a b c => some (mk h 0xD4 t.code t.sub r.code sa false (encV a) (encV b) (encVG c))
  | .vsigm h t r sa a b => some (mk h 0xD5 t.code t.sub r.code sa false (encV a) (encV b) 0)
  | .vtanh h t r sa a b => some (mk h 0xD6 t.code t.sub r.code sa false (encV a) (encV b) 0)
  | .scfg h a b => some (mk h 0xD7 0 0 0 false false (encV4 a) (encM b) 0)
  | .sbind h a => some (mk h 0xD8 0 0 0 false false (encV4 a) 0 0)
  | .sfree h a => some (mk h 0xD9 0 0 0 false false (encV4 a) 0 0)
  | .vrpt h a b => some (mk h 0xDA 0 0 0 false false (encGI a) (encL15 b) 0)
  | .vsync h => some (mk h 0xDB 0 0 0 false false 0 0 0)
  | .ctxSave h a b => some (mk h 0xF0 0 0 0 false false (encG a) (encM b) 0)
  | .ctxLoad h a => some (mk h 0xF1 0 0 0 false false (encM a) 0 0)
  | .ctxDrop h a => some (mk h 0xF2 0 0 0 false false (encG a) 0 0)
  | .pipeCycle _ => none
  | .pipeTimeSlice _ => none
  | .parkedAnswer _ _ => none
  | .tagWake _ _ => none
  | .peerTaggedRequest _ => none
  | .pauseExpiry _ _ => none
  | .sleepExpiry _ _ => none
  | .waitTimeout _ _ => none
  | .timerInterrupt _ _ => none
  | .sidingIssue _ => none
  | .tlbWalk _ _ _ _ => none
  | .walkServiceRelease _ => none
  | .walkServiceDecline _ => none
  | .shootdownPage _ _ _ _ => none
  | .shootdownRange _ _ _ _ _ => none
  | .shootdownSpace _ _ _ => none
  | .shootdownAll _ _ => none
  | .shootdownComplete _ => none
  | .wqDispatch _ => none
  | .pathPerform _ _ _ => none
  | .nearCacheFillEvict _ _ _ _ => none
  | .releaseWaitEnd _ _ => none
  | .copyJobUnit _ => none
  | .copyJobFinal _ _ => none
  | .matrixTile _ => none
  | .matrixJobFinal _ _ => none
  | .matrixShadowReplay _ _ => none
  | .accZeroJob _ _ => none
  | .cnOutJob _ _ => none
  | .contentHomeRequest _ _ => none
  | .contentCountMessage _ _ => none
  | .reclaim _ _ => none
  | .bankUpdateApply _ => none
  | .barrierArrival _ _ _ => none
  | .treeEpisodeComplete _ _ => none
  | .msgDeliver _ => none
  | .nexttileAnswer => none
  | .launchLatch _ _ _ => none
  | .launchAccept => none
  | .launchPlace => none
  | .instanceStart => none
  | .governorSample _ => none
  | .meterUpdate _ _ _ => none
  | .deadlineMiss _ _ => none
  | .preempt _ _ => none
  | .restore _ _ => none
  | .charterComplete _ _ => none
  | .hostAck => none
  | .replayRequest => none
  | .cancel => none
  | .dqheadWrite _ => none
  | .ringCmdPost _ => none
  | .ringCmdRetire _ => none
  | .ringCmdClose => none
  | .ringCmdSelect _ _ => none
  | .fenceCluster _ => none
  | .dbgsig _ _ _ => none
  | .dbgrel _ _ => none
  | .keyInstall _ => none
  | .keyRekey _ => none
  | .diereset _ => none
  | .quiesceGraceExpiry _ => none
  | .quiesceDrainDone _ _ _ => none
  | .dieResume _ => none
  | .eccError _ _ _ => none
  | .limiterWindow _ _ _ => none
  | .powerOn _ => none
  | .dieMeasure _ _ => none
  | .getVersion _ => none
  | .getCapabilities _ => none
  | .negotiateAlgorithms _ => none
  | .getDigests _ => none
  | .getCertificate _ => none
  | .challenge _ => none
  | .getMeasurements _ => none
  | .spdmUnsupported _ => none
  | .imageLoad _ _ _ _ => none
  | .hostMemoryRequest _ _ _ _ => none
  | .frameReceive _ _ _ => none
  | .rawSend _ => none
  | .txtsRead _ => none
  | .doorbell _ => none
  | .flowPoll _ => none
  | .workRequest _ => none
  | .writeI _ _ => none
  | .readreq _ _ => none
  | .readresp _ _ => none
  | .ack _ _ => none
  | .marker _ _ => none
  | .nack _ _ => none
  | .releasePerform _ => none
  | .rtoExpiry _ _ => none
  | .pathRetry _ _ => none
  | .ackTimer _ _ => none
  | .completionEntry _ => none
  | .flowError _ => none
  | .storageRetrain => none
  | .driveMemoryRequest _ _ _ => none
  | .driveMsix _ => none
  | .sfaultRead => none
  | .systemCoreDriveAccess _ _ _ _ _ => none
  | .registerWrite _ _ => none
  | .portLinkChange _ _ _ _ => none
  | .storageLinkChange _ _ _ _ => none
  | .advancedErrorReporting _ => none
  | .driveServiceTimeout _ => none
  | .refusedRequestRetry _ _ => none
  | .imageUpdate _ => none
  | .timeset _ => none
  | .dqbaseWrite _ => none
  | .systemCoreMemoryAccess _ _ _ _ _ => none

/-- The word of an instruction; `none` for an event of the module, which has no word. -/
def encode (i : Instr) : Option InstrWord := (toFields i).map pack

/-! ## The checks of R75 -/

/-- The feature bit that an opcode needs (04 Table 8). -/
def featureOf (op : Nat) : Nat :=
  if op < 0x30 then 0
  else if op < 0x38 then 1
  else if op < 0x40 then 2
  else if op < 0x60 then 3
  else if op < 0x70 then 4
  else if op < 0x78 then 5
  else if op < 0x7C then 6
  else if op < 0x88 then 7
  else if 0x98 ≤ op ∧ op ≤ 0x9A then 9
  else if op < 0xB0 then 8
  else if op < 0xCD then 10
  else if op < 0xD7 then 11
  else if op < 0xF0 then 12
  else 13

/-- The handler-only opcodes (04 Table 8). -/
def handlerOnly (op : Nat) : Bool :=
  op == 0x2B || op == 0x2D || op == 0x84 || op == 0xF1 || op == 0xF2

/-- Access to a control register at user privilege that Table 6 of 04 marks with a dash. -/
def CtlNum.hidden : CtlNum → Bool
  | .xpc => true | .xcause => true | .xaddr => true | .xinfo => true | .xvec => true | .xstat => true
  | .xscratch => true
  | .pc => false | .slot => false | .coord => false | .part => false | .charter => false | .gang => false
  | .sill => false | .feat => false | .spaceid => false | .gen => false | .deadline => false
  | .clock => false | .ptime => false | .cycles => false | .energy => false
  | .frm => false | .fflags => false | .srseed => false | .region => false | .rsplits => false
  | .blind => false | .transom => false | .tstate => false | .tentry => false | .treplays => false
  | .deadmsg => false

/-- The control register that an instruction names. -/
def ctlOf : Instr → Option CtlNum
  | .ctlRd _ _ k => some k
  | .ctlWr _ k _ => some k
  | .ctlSet _ k _ => some k
  | .ctlClr _ k _ => some k
  | _ => none

/-- What decides the decode of a word beside the word itself (R75). -/
structure DecodeCtx where
  lim : Lim
  mask : Nat
  handler : Bool
  deriving DecidableEq, Repr

/-- The outcome of decoding: an instruction, or the cause and xinfo of the trap (R75-R77). -/
inductive Decoded where
  | instr (i : Instr)
  | trap (cause info : Nat)
  deriving DecidableEq, Repr

/-- The lowest feature bit that the word needs and the mask lacks (R75 step 2). -/
def missing (mask op ty : Nat) : Option Nat :=
  let need := [featureOf op] ++ (if ty = 12 then [2] else []) ++ (if ty = 11 then [14] else [])
  (need.filter (fun b => !mask.testBit b)).min?

/-- The four checks of R75 on the fields of a word. -/
def decodeFields (c : DecodeCtx) (f : Fields) : Decoded :=
  let op := f.op.toNat
  match ofFields c.lim f with
  | none => .trap 0x01 op
  | some v =>
    match missing c.mask op f.ty.toNat with
    | some b => .trap 0x15 b
    | none =>
      match v.errs.min?, v.val with
      | some o, _ => .trap 0x02 o
      | none, none => .trap 0x02 0
      | none, some i =>
        if handlerOnly op && !c.handler then .trap 0x03 op
        else
          match ctlOf i with
          | some k => if k.hidden && !c.handler then .trap 0x03 (op + 256 * k.num) else .instr i
          | none => .instr i

/-- Decoding of a word under a context. -/
def decode (c : DecodeCtx) (w : InstrWord) : Decoded := decodeFields c (unpack w)

/-- Every register, every feature, handler privilege: the context in which a word is refused only for itself. -/
def DecodeCtx.full : DecodeCtx := { lim := Lim.full, mask := 65535, handler := true }

/-- The word in twelve bytes, lowest address first (R66). -/
def wordOfBytes (bs : List Byte) : InstrWord :=
  BitVec.ofNat 96 (bs.foldr (fun b n => b.toNat + 256 * n) 0)

/-- The twelve bytes of a word, lowest address first (R66). -/
def bytesOfWord (w : InstrWord) : List Byte :=
  (List.range 12).map (fun i => w.extractLsb' (8 * i) 8)

/-- Decoding of a byte string: an instruction with the rest, or nothing when fewer than twelve bytes stand there. -/
def decodeBytes (c : DecodeCtx) (bs : List Byte) : Option (Decoded × List Byte) :=
  if bs.length < 12 then none else some (decode c (wordOfBytes (bs.take 12)), bs.drop 12)

/-- The instruction that the decoder reads from a word whose bits are `w`, the first `nbits` of them given. -/
def decodeTableWord (nbits w : Nat) : Option Instr :=
  let bs := bytesOfWord (BitVec.ofNat 96 (w % 2 ^ nbits))
  match decodeBytes DecodeCtx.full bs with
  | some (.instr i, _) => some i
  | _ => none

end Sys2Proof
end

