-- ==== Sys2Proof/Machine/Ops.lean ====
section
/-! DEFINITION. The operations every meaning shares: places of cores, access to the parts of the state, registers,
pool bytes, the pool layout, fault domains, taking a trap and returning from one, and the end of an instruction. -/

namespace Sys2Proof.Machine

/-! ## Places (R12, R15) -/

def dieOf (c : Nat) : Nat := c / 256
def rowOf (c : Nat) : Nat := c / 16 % 16
def colOf (c : Nat) : Nat := c % 16

/-- The module cluster number of a core. -/
def clusterOf (c : Nat) : Nat := c / 256 * 32 + rowOf c / 2 * 4 + colOf c / 4

/-- The position of a core in its cluster. -/
def posOf (c : Nat) : Nat := rowOf c % 2 * 4 + colOf c % 4

/-- The core at a position of a module cluster. -/
def coreAt (cl pos : Nat) : Nat :=
  cl / 32 * 256 + (cl % 32 / 4 * 2 + pos / 4) * 16 + cl % 4 * 4 + pos % 4

/-- The transom partner (R15). -/
def partnerOf (c : Nat) : Nat := if dieOf c % 2 = 0 then c + 256 else c - 256

def upperDie (c : Nat) : Bool := decide (dieOf c % 2 = 1)

/-- The writer id of a thread (log 11). -/
def writerOf (c k : Nat) : Nat := c * 4 + k

/-! ## Parts of the state -/

def Core.slot (x : Core) (k : Nat) : Thread := AMap.getD x.slots k Thread.reset
def Core.setSlot (x : Core) (k : Nat) (t : Thread) : Core := { x with slots := AMap.set x.slots k t }

def State.core (s : State) (c : Nat) : Core := AMap.getD s.cores c Core.reset
def State.setCore (s : State) (c : Nat) (x : Core) : State := { s with cores := AMap.set s.cores c x }
def State.modCore (s : State) (c : Nat) (f : Core → Core) : State := s.setCore c (f (s.core c))

def State.thread (s : State) (c k : Nat) : Thread := (s.core c).slot k
def State.setThread (s : State) (c k : Nat) (t : Thread) : State := s.setCore c ((s.core c).setSlot k t)
def State.modThread (s : State) (c k : Nat) (f : Thread → Thread) : State := s.setThread c k (f (s.thread c k))

def State.me (s : State) : Thread := s.thread s.cur.1 s.cur.2
def State.setMe (s : State) (t : Thread) : State := s.setThread s.cur.1 s.cur.2 t
def State.modMe (s : State) (f : Thread → Thread) : State := s.setMe (f s.me)
def State.myCore (s : State) : Core := s.core s.cur.1

def State.cluster (s : State) (i : Nat) : Cluster := AMap.getD s.clusters i Cluster.reset
def State.setCluster (s : State) (i : Nat) (x : Cluster) : State := { s with clusters := AMap.set s.clusters i x }
def State.modCluster (s : State) (i : Nat) (f : Cluster → Cluster) : State := s.setCluster i (f (s.cluster i))

def State.die (s : State) (i : Nat) : Die := AMap.getD s.dies i Die.reset
def State.setDie (s : State) (i : Nat) (x : Die) : State := { s with dies := AMap.set s.dies i x }
def State.modDie (s : State) (i : Nat) (f : Die → Die) : State := s.setDie i (f (s.die i))

def State.modMem (s : State) (f : Memory → Memory) : State := { s with mem := f s.mem }
def State.modDisp (s : State) (f : Disp → Disp) : State := { s with disp := f s.disp }
def State.modMgmt (s : State) (f : Mgmt → Mgmt) : State := { s with mgmt := f s.mgmt }

def State.store (s : State) (sp : Nat) : Store := AMap.getD s.stores sp Store.reset
def State.setStore (s : State) (sp : Nat) (x : Store) : State := { s with stores := AMap.set s.stores sp x }

/-- A free value and the state whose counter has passed it (log 6). -/
def State.drawFree (s : State) : Nat × State := (Config.freeValue s.free, { s with free := s.free + 1 })

/-- The physical core at logical position `q` of the cluster of core `c` (R231, R438). -/
def peerCore (s : State) (c q : Nat) : Nat :=
  coreAt (clusterOf c) (AMap.getD (s.cluster (clusterOf c)).lmap q q)

/-! ## Registers (R74, 04 Table 5) -/

def Thread.rdG (t : Thread) (r : Nat) : Word := if r = 0 then 0 else AMap.getD t.g r 0
def Thread.wrG (t : Thread) (r : Nat) (v : Word) : Thread := if r = 0 then t else { t with g := AMap.set t.g r v }
def Thread.rdP (t : Thread) (r : Nat) : Bool := if r = 0 then true else AMap.getD t.p r false
def Thread.wrP (t : Thread) (r : Nat) (v : Bool) : Thread := if r = 0 then t else { t with p := AMap.set t.p r v }

/-- A budget register stores 0 in bits [13:12] (R109). -/
def budgetMask (v : BitVec 16) : BitVec 16 := v &&& 0xCFFF

def Thread.rdB (t : Thread) (r : Nat) : BitVec 16 := if r = 0 then 0x8000 else AMap.getD t.b r 0x8000
def Thread.wrB (t : Thread) (r : Nat) (v : BitVec 16) : Thread :=
  if r = 0 then t else { t with b := AMap.set t.b r (budgetMask v) }

def VVal.zero : VVal := { bits := 0, grade := 0x8000 }
def Thread.rdV (t : Thread) (r : Nat) : VVal := AMap.getD t.v r VVal.zero
def Thread.wrV (t : Thread) (r : Nat) (v : VVal) : Thread := { t with v := AMap.set t.v r v }

def State.rdG (s : State) (r : Nat) : Word := s.me.rdG r
def State.wrG (s : State) (r : Nat) (v : Word) : State := s.modMe (fun t => t.wrG r v)
def State.rdP (s : State) (r : Nat) : Bool := s.me.rdP r
def State.wrP (s : State) (r : Nat) (v : Bool) : State := s.modMe (fun t => t.wrP r v)
def State.rdB (s : State) (r : Nat) : BitVec 16 := s.me.rdB r
def State.wrB (s : State) (r : Nat) (v : BitVec 16) : State := s.modMe (fun t => t.wrB r v)

/-! ## Bytes in canonical form: ascending addresses, no byte 0, which is what an unlisted address reads (log 1) -/

def Cells.get : List Host.Cell → Nat → Byte
  | [], _ => 0
  | (j, b) :: l, a => if j = a then b else if a < j then 0 else Cells.get l a

def Cells.put : List Host.Cell → Nat → Byte → List Host.Cell
  | [], a, b => if b = 0 then [] else [(a, b)]
  | (j, x) :: l, a, b =>
    if a < j then (if b = 0 then (j, x) :: l else (a, b) :: (j, x) :: l)
    else if a = j then (if b = 0 then l else (a, b) :: l)
    else (j, x) :: Cells.put l a b

def Cells.getN (m : List Host.Cell) (a : Nat) : Nat → List Byte
  | 0 => []
  | n + 1 => Cells.get m a :: Cells.getN m (a + 1) n

def Cells.putN (m : List Host.Cell) (a : Nat) : List Byte → List Host.Cell
  | [] => m
  | b :: bs => Cells.putN (Cells.put m a b) (a + 1) bs

/-- Addresses strictly rise and are all above `lo`, and no entry is 0. -/
def Cells.wfFrom : Nat → List Host.Cell → Bool
  | _, [] => true
  | lo, (a, b) :: l => decide (lo ≤ a) && decide (b ≠ 0) && Cells.wfFrom (a + 1) l

def Cells.wf (m : List Host.Cell) : Bool := Cells.wfFrom 0 m

/-- Module DRAM and host memory are in canonical form. -/
def Memory.wf (m : Memory) : Bool := Cells.wf m.dram && Cells.wf m.host

/-- Every memory of the module is in canonical form. -/
def State.memWf (s : State) : Bool := s.mem.wf && s.cores.all (fun c => Cells.wf c.2.pool)

/-! ## The pool (R145, R233) -/

def partThreads (w : Word) : Nat := wfld w 0 2 + 1
def partG (w : Word) : Nat := 16 * (wfld w 2 2 + 1)
def partV (w : Word) : Nat := 8 * (wfld w 4 2 + 1)
def partCode (w : Word) : Nat := wfld w 8 8
def partAcc (w : Word) : Nat := wfld w 16 6
def partShadow (w : Word) : Bool := decide (wfld w 22 1 = 1)
def partMinScr (w : Word) : Nat := wfld w 24 16

/-- Start of the register store. -/
def regStart (w : Word) : Nat :=
  Config.poolSize - (partThreads w * (8 * partG w + 34 * partV w + 32) + 4095) / 4096 * 4096

/-- End of the code area, where the scratchpad starts. -/
def codeEnd (w : Word) : Nat := 0x2000 + 4096 * partCode w

/-- Start of the shadow area when shadow is 1, else of the register store: the pool limit of R231. -/
def poolLimit (w : Word) : Nat := if partShadow w then regStart w - 4096 * partAcc w else regStart w

/-- Start of the accumulator area, where the scratchpad ends. -/
def accStart (w : Word) : Nat := poolLimit w - 4096 * partAcc w

/-- Bytes [o, o + n) lie in the scratchpad. -/
def inScratch (w : Word) (o n : Nat) : Bool := decide (codeEnd w ≤ o) && decide (o + n ≤ accStart w)

def Core.bytes (x : Core) (o n : Nat) : List Byte := Cells.getN x.pool o n
def Core.num (x : Core) (o n : Nat) : Nat := ofBytes (x.bytes o n)

/-- Does any codeword of [o, o + n) hold poison (R237)? -/
def Core.poisoned (x : Core) (o n : Nat) : Bool :=
  x.poolPoison.any (fun w => decide (w * 8 < o + n) && decide (o < w * 8 + 8))

/-- Write pool bytes; an aligned 8-byte replacement of a codeword clears its poison (R282). -/
def Core.putBytes (x : Core) (o : Nat) (bs : List Byte) : Core :=
  { x with
    pool := Cells.putN x.pool o bs
    poolPoison := x.poolPoison.filter (fun w => !(decide (o ≤ w * 8) && decide (w * 8 + 8 ≤ o + bs.length))) }

def Core.putNum (x : Core) (o n v : Nat) : Core := x.putBytes o (toBytes n v)

/-- The full/empty tag of the word at pool offset `o` (R236). -/
def Core.tagFull (x : Core) (o : Nat) : Bool := !(x.emptyTags.contains (o / 4))

def Core.setTag (x : Core) (o : Nat) (full : Bool) : Core :=
  if full then { x with emptyTags := x.emptyTags.filter (fun w => w != o / 4) }
  else { x with emptyTags := insertNat (o / 4) x.emptyTags }

/-- Set the tags of the words of [o, o + n). -/
def Core.setTags (x : Core) (o n : Nat) (full : Bool) : Core :=
  foldUp (n / 4) (fun i y => y.setTag (o + 4 * i) full) x

/-! ### The banks of a pool (R233)

The pool's bytes and tags stand in `pool` and `emptyTags`; the banks, rows and parity rows are a view of them, and the
check bits of a codeword, whose code the spec does not give, are left out: a codeword that they cannot mend is listed in
`poolPoison` (log 108). -/

def bankOf (o : Nat) : Nat := o / 8 % 8
def bankRow (o : Nat) : Nat := o / 64
def bankGroup (b : Nat) : Nat := b / 4

/-- The codeword of bank `b` in row `r`: its 64 data bits and the two tags of its words. -/
def Core.codeword (x : Core) (r b : Nat) : BitVec 66 :=
  let o := 64 * r + 8 * b
  BitVec.ofNat 66 (x.num o 8 + (if x.tagFull o then 2 ^ 64 else 0) + (if x.tagFull (o + 4) then 2 ^ 65 else 0))

/-- The parity codeword of group `g` in row `r`: the XOR of its four codewords. -/
def Core.parity (x : Core) (r g : Nat) : BitVec 66 :=
  x.codeword r (4 * g) ^^^ x.codeword r (4 * g + 1) ^^^ x.codeword r (4 * g + 2) ^^^ x.codeword r (4 * g + 3)

/-- The codeword of bank `b` as a read rebuilds it from the other three of its group and the parity row (R234). -/
def Core.rebuilt (x : Core) (r b : Nat) : BitVec 66 :=
  ([0, 1, 2, 3].filter (fun i => i != b % 4)).foldl (fun v i => v ^^^ x.codeword r (4 * bankGroup b + i))
    (x.parity r (bankGroup b))

/-- An access of the core's own siding meets a busy bank (R234): an accepted bank update, which goes first, takes its
data bank and the parity bank of its group, so a read of that data bank cannot be rebuilt, and a write to that group
waits. -/
def Core.portBusy (x : Core) (o n : Nat) (write : Bool) : Bool :=
  x.bank.any (fun u => match u with
    | .update p _ _ _ => (List.range ((o % 8 + n + 7) / 8)).any (fun i =>
        let b := bankOf (o + 8 * i)
        if write then bankGroup b == bankGroup (bankOf p) else b == bankOf p)
    | .config _ _ => false)

/-- A write of sill (R163). -/
def sillWrite (w : Word) (v : Nat) : Nat :=
  let x := v - v % 4
  if x < 0x2000 then 0x2000 else if x > codeEnd w then codeEnd w else x

/-! ## The region of a thread (R263, M9) -/

/-- The held writes and the read set are dropped; the pending conflict is kept. -/
def Thread.dropRegion (t : Thread) : Thread :=
  { t with rgn := { t.rgn with held := [], reads := [], written := [] } }

/-- A vector store. -/
def isVst : Instr → Bool
  | .vst _ _ _ => true
  | _ => false

/-- The pass that a slot's queued user stores belong to is dropped: they write nothing, and a fault of the pass that the
siding holds goes with it (R122, R125). -/
def voidStores (s : State) (c k : Nat) : State :=
  (s.modCore c (fun x => { x with seq := x.seq.map (fun e =>
    if e.slot = k ∧ isVst e.instr ∧ e.priv = false then { e with void := true } else e) })).modThread c k (fun t =>
      { t with ppoison := t.ppoison.filter (fun f => f.1 % 256 != 0x0D) })

/-- A drop that also closes the tolerant region (R122, R29). -/
def Thread.dropTolerant (t : Thread) : Thread :=
  let u := t.dropRegion
  { u with tol := { u.tol with isOpen := false } }

/-! ## Gangs (R169-R171) -/

/-- The members of a gang as (core, slot), leader first. -/
def gangMembers (s : State) (gid : Nat) : List (Nat × Nat) :=
  match AMap.get s.disp.gangs gid with
  | some g => g.members
  | none => []

/-- A member that runs in lockstep with its leader. -/
def Thread.lockstep (t : Thread) : Bool := decide (1 < t.place.gsize) && !t.place.shed && !t.solo

/-- A lockstep follower. -/
def Thread.follower (t : Thread) : Bool := t.lockstep && decide (t.place.gpos ≠ 0)

/-- The leader of the gang of a thread. -/
def leaderOf (s : State) (t : Thread) (self : Nat × Nat) : Nat × Nat :=
  match gangMembers s t.place.gang with
  | m :: _ => m
  | [] => self

/-- The leader's forwarded word of the instruction at `at'`, which lacks its next pc, gets it, with the result of an
instruction that acts once per gang. -/
def patchForward (s : State) (t : Thread) (self : Nat × Nat) (at' pc : Word) (res : Option Word) : State :=
  if 1 < t.place.gsize ∧ t.place.gpos = 0 then
    ((gangMembers s t.place.gang).filter (fun m => m != self)).foldl (fun s m =>
      s.modThread m.1 m.2 (fun f => { f with fwd := f.fwd.map (fun e =>
        if e.next.isNone ∧ e.pc = at' then { e with next := some pc, result := res } else e) })) s
  else s

/-- The leader's next pc: the instruction after the last one that it forwarded. -/
def Thread.nextForward (t : Thread) : Word := if t.fwdSent then t.pc + 12 else t.pc

/-- A lockstep member leaves lockstep for its handler: the leader records its next pc as the hold point (R170). A
leader whose instruction traps has forwarded its word; its followers go on at the next one. -/
def leaveLockstep (s : State) (c k : Nat) (fetched : Bool) : State :=
  let t := s.thread c k
  if t.lockstep then
    let s0 := if fetched then patchForward s t (c, k) t.pc (t.pc + 12) none else s
    let s1 := s0.setThread c k { s0.thread c k with solo := true, fwd := [], fwdSent := false }
    let l := leaderOf s t (c, k)
    let lt := s1.thread l.1 l.2
    match lt.hold with
    | some _ => s1
    | none =>
      let h := if l = (c, k) then (if fetched then t.pc + 12 else t.nextForward) else (s.thread l.1 l.2).nextForward
      s1.setThread l.1 l.2 { lt with hold := some h }
  else s

/-! ## The space log (R224, R309) -/

def appendLog (s : State) (sp : Nat) (bs : List Byte) : State :=
  s.modMgmt (fun m => { m with logs := AMap.set m.logs sp (AMap.getD m.logs sp [] ++ bs) })

/-- The 32-byte entry of R309. -/
def trapEntry (cause : Nat) (info addr pc : Word) : List Byte :=
  toBytes 8 cause ++ toBytes 8 info.toNat ++ toBytes 8 addr.toNat ++ toBytes 8 pc.toNat

/-! ## Fault domains (R29) -/

/-- A charter and its descendants in one accepted tree, by fuel (a tree has at most eight levels, R22). -/
def subtreeIn (l : Launch) : Nat → Nat → List Nat
  | 0, i => [i]
  | n + 1, i =>
    match AMap.get l.nodes i with
    | some x => i :: (x.children.flatMap (subtreeIn l n))
    | none => [i]

/-- The subtree with the trees that its stages launched (R154), as (launch, charter) pairs. -/
def subtreeAll (s : State) : Nat → Nat → Nat → List (Nat × Nat)
  | 0, lid, i => [(lid, i)]
  | n + 1, lid, i =>
    match AMap.get s.disp.launches lid with
    | none => []
    | some l =>
      let own := (subtreeIn l 8 i).map (fun j => (lid, j))
      let kids := s.disp.launches.filter (fun e =>
        match e.2.parent with
        | some p => own.contains p
        | none => false)
      own ++ kids.flatMap (fun e => subtreeAll s n e.1 0)

def State.modNode (s : State) (lid i : Nat) (f : Node → Node) : State :=
  match AMap.get s.disp.launches lid with
  | none => s
  | some l =>
    match AMap.get l.nodes i with
    | none => s
    | some x => s.modDisp (fun d =>
        { d with launches := AMap.set d.launches lid { l with nodes := AMap.set l.nodes i (f x) } })

def State.node (s : State) (lid i : Nat) : Option Node :=
  match AMap.get s.disp.launches lid with
  | none => none
  | some l => AMap.get l.nodes i

/-- The shutters that ended jobs of a slot hold closed open with its instance (R300); those of a restored pool image
carry the slot in their identifier (log 72). -/
def openDead (s0 : State) (c k : Nat) : State :=
  let cl := clusterOf c
  let s : State := { s0 with cores := s0.cores.map (fun e : Nat × Core =>
    (e.1, if clusterOf e.1 = cl then { e.2 with shutters := e.2.shutters.filter (fun h =>
      !(h.2.id / 2 ^ 32 == k + 1 && h.2.pos == posOf c)) } else e.2)) }
  let dead (j : CopyJob) : Bool := j.core == c && j.slot == k && decide (3 ≤ j.status)
  let ps := ((s.cluster cl).copyJobs.filter (fun e => dead e.2)).flatMap (fun e => e.2.shutters)
  (ps.foldl (fun s p => s.modCore p.1 (fun x => { x with shutters := AMap.del x.shutters p.2 })) s).modCluster cl
    (fun x => { x with copyJobs := x.copyJobs.map (fun e => (e.1, if dead e.2 then { e.2 with shutters := [] } else e.2)) })

/-- The slot stops: its region is discarded, its queued vector work and its streams end; writes that left the region
buffer stay queued (R29). -/
def stopSlot (s' : State) (c k : Nat) : State :=
  let s := openDead s' c k
  let x := s.core c
  let t := (x.slot k).dropTolerant
  s.setCore c { x with
    slots := AMap.set x.slots k { t with
      status := .unplaced, rpt := none, streams := [], answer := none, vwait := none, cn := none, inStub := false,
      pend := Pending.none, rel := none, fwd := [], hold := none, solo := false, fwdSent := false }
    seq := x.seq.filter (fun e => e.slot != k)
    inPipe := if x.inPipe = some k then none else x.inPipe }

/-- Cancel every job that a charter's threads issued and that has no final status (R143). -/
def cancelJobs (s : State) (lid i : Nat) : State :=
  { s with clusters := s.clusters.map (fun e => (e.1, { e.2 with
      copyJobs := e.2.copyJobs.map (fun j =>
        (j.1, if j.2.launch = lid ∧ j.2.node = i ∧ j.2.status = 0 then { j.2 with cancel := true } else j.2))
      mxJobs := e.2.mxJobs.map (fun j =>
        (j.1, if j.2.launch = lid ∧ j.2.node = i ∧ j.2.status = 0 then { j.2 with cancel := true } else j.2)) })) }

/-- Stop every member of a gang and forget it with its tile queries, submissions and mark. -/
def stopGang (s : State) (gid : Nat) : State :=
  let ms := gangMembers s gid
  let s1 := ms.foldl (fun s m => stopSlot s m.1 m.2) s
  s1.modDisp (fun d => { d with gangs := AMap.del d.gangs gid
                                rings := d.rings.map (fun e =>
                                  (e.1, if e.2.mark = some gid then { e.2 with mark := none } else e.2))
                                queries := d.queries.filter (fun q => !ms.contains (q.1, q.2.1))
                                submits := d.submits.filter (fun q => match q.thread with
                                  | some m => !ms.contains m
                                  | none => true) })

/-- The saved contexts of a charter's gangs are dropped (R29, R143). -/
def dropSaved (s : State) (lid i : Nat) : State :=
  s.modDisp (fun d => { d with saved := d.saved.map (fun e =>
    (e.1, { e.2 with gangs := e.2.gangs.filter (fun g => !(g.2.launch == lid && g.2.node == i)) })) })

/-- Stop every gang of one charter, drop its saved ones, and cancel its jobs. -/
def stopNode (s' : State) (lid i : Nat) : State :=
  let s := dropSaved s' lid i
  let gs := s.disp.gangs.filter (fun e => decide (e.2.launch = lid) && decide (e.2.node = i))
  cancelJobs (gs.foldl (fun s e => stopGang s e.1) s) lid i

/-- End a subtree with a status and code: its charters are then completed one by one (R444). -/
def endSubtree (s : State) (lid i status code : Nat) : State :=
  (subtreeAll s 8 lid i).foldl (fun s p =>
    (stopNode s p.1 p.2).modNode p.1 p.2 (fun x =>
      if x.complete then x
      else { x with ending := true, running := 0, status := status, code := code })) s

/-- A charter and its ancestors, through the stage that launched its tree (R154), by fuel. -/
def ancestry (s : State) : Nat → Nat → Nat → List (Nat × Nat)
  | 0, _, _ => []
  | n + 1, lid, i =>
    match AMap.get s.disp.launches lid with
    | none => []
    | some l =>
      match AMap.get l.nodes i with
      | none => []
      | some x =>
        (lid, i) :: (match x.parent with
          | some p => ancestry s n lid p
          | none => match l.parent with
            | some q => ancestry s n q.1 q.2
            | none => [])

/-- How far an ancestry can reach: eight levels for each launch held. -/
def ancestryFuel (s : State) : Nat := 8 * s.disp.launches.length + 8

def ancestors (s : State) (lid i : Nat) : List (Nat × Nat) := ancestry s (ancestryFuel s) lid i

/-- No thread is placed on a core (R416): its hold clears, an upper core's blind is lowered and its TLB is flushed. -/
def idleCore (s : State) (c : Nat) : State :=
  let x := s.core c
  if x.slots.any (fun e => decide (e.2.status ≠ .unplaced)) then s
  else s.setCore c { x with hold := false, lowered := upperDie c, tlb := if upperDie c then [] else x.tlb }

/-- The stage to which a cluster passes when its holder gives it up: one whose gang was moved onto it, or one that was
placed on it at once with the holder. -/
def heirOf (s : State) (cl : Nat) : Option (Nat × Nat) :=
  match s.disp.gangs.find? (fun e => e.2.cluster == cl) with
  | some e => some (e.2.launch, e.2.node)
  | none => (s.cluster cl).holder.bind (fun h => (s.cluster cl).also.head?.map (fun i => (h.1, i)))

/-- A cluster that its holder gives up: its heir keeps it, else it is free. -/
def freeCluster (s : State) (cl : Nat) : State :=
  match heirOf s cl with
  | some p =>
    let s1 := s.modCluster cl (fun x => { x with holder := some p, also := x.also.erase p.2 })
    (ancestors s1 p.1 p.2).foldl (fun s p =>
      s.modNode p.1 p.2 (fun n => { n with usedCores := n.usedCores + 8 })) s1
  | none =>
    (List.range 8).foldl (fun s p => idleCore s (coreAt cl p)) (s.modCluster cl (fun x => { x with holder := none }))

/-- A stage no longer shares the clusters that another stage of its launch holds. -/
def leaveShared (s : State) (lid i : Nat) : State :=
  { s with clusters := s.clusters.map (fun e =>
      (e.1, if (e.2.holder.map Prod.fst) = some lid then { e.2 with also := e.2.also.erase i } else e.2)) }

/-- Give up every cluster that a stage holds or shares, with the cores its meters count (R151). -/
def releaseStage (s0 : State) (lid i : Nat) : State :=
  let s := leaveShared s0 lid i
  let cls := (s.clusters.filter (fun e => e.2.holder == some (lid, i))).map Prod.fst
  let s1 := (ancestors s lid i).foldl (fun s p =>
    s.modNode p.1 p.2 (fun n => { n with usedCores := n.usedCores - 8 * cls.length })) s
  cls.foldl freeCluster s1

/-- Is a ring descriptor named by a stage? -/
def namesRing (x : Node) (a : Nat) : Bool :=
  match x.stage with
  | some g => decide (g.inring = a) || decide (g.outring = a)
  | none => false

/-- A stage holds or shares a cluster. -/
def stagePlaced (s : State) (lid i : Nat) : Bool :=
  s.clusters.any (fun e => e.2.holder == some (lid, i) || (e.2.holder.map Prod.fst == some lid && e.2.also.contains i))

/-- A stage of a ring's launch that names it and has not completed: the ring is busy (R35). -/
def ringNames (s : State) (e : Nat × Ring) : List Nat :=
  match AMap.get s.disp.launches e.2.launch with
  | some l => l.nodes.filterMap (fun n => if namesRing n.2 (e.1 % 2 ^ 64) && !n.2.complete then some n.1 else none)
  | none => []

/-- Where the words lie that governors and distributors hold and programs do not change (R37, R38): those of the rings
that a placed stage names, and the `issued` words of placed stages. -/
def deviceCells (s : State) : List (Nat × Nat) :=
  (s.disp.rings.filter (fun e => (ringNames s e).any (stagePlaced s e.2.launch))).flatMap (fun e => e.2.cells) ++
    s.disp.launches.flatMap (fun e => e.2.nodes.flatMap (fun n => match n.2.tile with
      | some t => if !n.2.complete && stagePlaced s e.1 n.1 then t.cells else []
      | none => []))

/-- A byte that a unit of the device holds. -/
def deviceHeld (s : State) (a : Nat) : Bool := (deviceCells s).any (fun c => decide (c.1 ≤ a) && decide (a < c.1 + c.2))

/-- Start a subtree again from its state at acceptance (R29 policy 2): meters and deadlines stay, its rings and tile
spaces stand as they were. Trees that its stages launched end with it (log 27). -/
def restartSubtree (s : State) (lid i : Nat) : State :=
  let ps := subtreeAll s 8 lid i
  let s1 := ps.foldl (fun s p =>
    (releaseStage (stopNode s p.1 p.2) p.1 p.2).modNode p.1 p.2 (fun x =>
      if p.1 = lid then
        { x with placed := false, started := 0, running := 0, complete := false, ending := false, retried := decide (p.2 = i), again := true,
                 overrun := none, tile := x.tile.map (fun t => { t with issued := 0, next := 0, back := [] }) }
      else { x with ending := true, running := 0, status := 1 })) s
  s1.modDisp (fun d => { d with rings := d.rings.map (fun e =>
    (e.1, if e.2.launch = lid && ps.any (fun p => decide (p.1 = lid) && (match s.node lid p.2 with
        | some x => namesRing x (e.1 % 2 ^ 64)
        | none => false)) then
      { e.2 with claim := e.2.start, post := e.2.start, take := e.2.start, free := e.2.start, st := [],
                 holder := none, above := 0, below := 0, mark := none }
    else e.2)) })

/-- The charter's subtree met a fault, consumed poison or lost a cluster: the health bits of the charter and of every
ancestor (R444). -/
def markHealth (s : State) (lid i : Nat) : State :=
  (ancestors s lid i).foldl (fun s p => s.modNode p.1 p.2 (fun x => { x with health := true })) s

/-- The charter that takes a fault: the first one from `i` upward whose effective policy is not propagate, else the
root (R29). -/
def faultDomain (l : Launch) : Nat → Nat → Nat
  | 0, i => i
  | n + 1, i =>
    match AMap.get l.nodes i with
    | none => i
    | some x =>
      match x.parent with
      | none => i
      | some p => if x.policy = 1 then faultDomain l n p else i

/-- A fault inside charter `i` of launch `lid` with a completion code (R29). -/
def faultCharter (s : State) (lid i code : Nat) : State :=
  match AMap.get s.disp.launches lid with
  | none => s
  | some l =>
    let d := faultDomain l 8 i
    match AMap.get l.nodes d with
    | none => s
    | some x =>
      let s1 := markHealth s lid i
      if x.policy = 2 ∧ x.retried = false then restartSubtree s1 lid d
      else endSubtree s1 lid d 2 code

/-- A gang instance ends as a fault of its charter with a completion code (R29). -/
def faultInstance (s : State) (c k code : Nat) : State :=
  let t := s.thread c k
  let s1 := stopGang s t.place.gang
  let s2 := if (gangMembers s t.place.gang) = [] then stopSlot s1 c k else s1
  faultCharter s2 t.place.launch t.place.node code

/-! ## Taking a trap and returning (R427-R430) -/

/-- A trap cause with xaddr and xinfo (04 Table 9). -/
structure TrapInfo where
  cause : Nat
  addr : Word
  info : Word
  deriving DecidableEq, Repr

/-- R427: the x-registers are written, ppriv and pie take the moment's values, ie is cleared, the privilege becomes
handler, and pc becomes xvec, or the resident stub is entered when xvec is 0. -/
def enterHandler (s : State) (c k : Nat) (t : TrapInfo) (epc : Word) : State :=
  s.modThread c k (fun th =>
    { th with
      ctl := { th.ctl with
        xpc := epc, xcause := BitVec.ofNat 8 t.cause, xaddr := t.addr, xinfo := t.info
        ppriv := th.priv, pie := th.ctl.ie, ie := false }
      priv := true
      pc := if th.ctl.xvec = 0 then 0 else th.ctl.xvec
      inStub := decide (th.ctl.xvec = 0)
      fresh := true
      answer := none
      status := .ready })

/-- A trap that arises while no instruction of the handler has retired ends the instance as a fault (R428). -/
def doubleTrap (s : State) (c k : Nat) (t : TrapInfo) : State :=
  let th := s.thread c k
  let s1 := appendLog s th.place.spaceid (trapEntry t.cause t.info t.addr th.pc)
  faultInstance s1 c k t.cause

/-- A tolerant pass is dropped and its region closed, with the stores that the siding still held for it. -/
def dropPass (s : State) (c k : Nat) : State :=
  (if (s.thread c k).tol.isOpen then voidStores s c k else s).modThread c k Thread.dropTolerant

/-- Take a trap in place of the instruction at pc (R190, R427, R428). A 0x0D trap drops the tolerant region (R122);
a consumed poison counts against the charter's health (R444). -/
def takeTrap (s : State) (c k : Nat) (t : TrapInfo) (fetched : Bool) : State :=
  let th := s.thread c k
  if th.fresh then doubleTrap s c k t
  else
    let s1 := if t.cause = 0x0D then dropPass s c k
      else if t.cause = 0x11 then markHealth s th.place.launch th.place.node else s
    enterHandler (leaveLockstep s1 c k fetched) c k t th.pc

/-- Take an interrupt in place of the next instruction. At user privilege inside an open tolerant region what it
held is dropped and it restarts at its demand, still open (R125). -/
def takeInterrupt (s : State) (c k : Nat) (cause : Nat) (info : Word) : State :=
  let th := s.thread c k
  let restart := th.tol.isOpen && !th.priv
  let s1 := if restart then (voidStores s c k).modThread c k Thread.dropRegion else s
  enterHandler (leaveLockstep s1 c k false) c k { cause := cause, addr := 0, info := info }
    (if restart then th.tol.tentry else th.pc)

/-- `eret` (R430): the privilege becomes ppriv, ie becomes pie; both saved bits stay. -/
def Thread.eret (t : Thread) (pc : Word) : Thread :=
  { t with pc := pc, priv := t.ctl.ppriv, ctl := { t.ctl with ie := t.ctl.pie }, inStub := false, fresh := false }

/-! ## The end of an instruction -/

/-- What an instruction's own effect comes to: it retires, retires with a result that its gang shares (07,
Instructions), retires with another next pc, traps, parks, or waits at
its rung with an effect in progress (or its instance has ended). -/
inductive Eff where
  | ok (s : State)
  | once (s : State) (res : Word)
  | jump (s : State) (pc : Word)
  | trap (s : State) (t : TrapInfo)
  | park (s : State) (r : Park)
  | wait (s : State)

/-- A trap with an xaddr of 0. -/
def Eff.fail (s : State) (cause info : Nat) : Eff :=
  .trap s { cause := cause, addr := 0, info := BitVec.ofNat 64 info }

/-- A trap with an xaddr. -/
def Eff.failAt (s : State) (cause : Nat) (addr : Word) (info : Nat) : Eff :=
  .trap s { cause := cause, addr := addr, info := BitVec.ofNat 64 info }

def guardHolds (s : State) (h : Hdr) : Bool := s.me.rdP h.pred.val != h.inv

/-- The bookkeeping of a retirement: the answer entry is spent, a handler has begun, a follower's word is consumed,
and a member that has reached the hold point is back in lockstep (R170). -/
def Thread.retire (t : Thread) (pc : Word) : Thread :=
  { t with pc := pc, fresh := false, answer := none, fwd := if t.follower then t.fwd.tail else t.fwd,
           status := .ready, declined := none, fwdSent := false }

/-- Retire the acting thread's instruction; with the yield hint the thread leaves the pipe (R71, R194). -/
def retireWith (s : State) (pc : Word) (yields : Bool) (res : Option Word) : State :=
  let s0 := patchForward s s.me s.cur s.me.pc pc res
  let s1 := s0.modMe (fun t => t.retire pc)
  if yields then s1.modCore s1.cur.1 (fun x => { x with inPipe := none }) else s1

def retire (s : State) (pc : Word) (yields : Bool) : State := retireWith s pc yields none

/-- Park the acting thread: its pc is kept and it leaves the pipe (R190, R194). -/
def parkMe (s : State) (r : Park) : State :=
  let s1 := s.modMe (fun t => { t with status := .parked r })
  s1.modCore s1.cur.1 (fun x => { x with inPipe := none })

/-- One instruction under its guard (R70): a false guard only retires. -/
def finish (h : Hdr) (e : State → Eff) (s : State) : State :=
  if guardHolds s h then
    match e s with
    | .ok s' => retire s' (s.me.pc + 12) h.yields
    | .once s' x => retireWith s' (s.me.pc + 12) h.yields (some x)
    | .jump s' pc => retire s' pc h.yields
    | .trap s' t => takeTrap s' s.cur.1 s.cur.2 t true
    | .park s' r => parkMe s' r
    | .wait s' => s'
  else retire s (s.me.pc + 12) false

/-- The outcome of an instruction of the part: always a next state. -/
def run (h : Hdr) (e : State → Eff) (s : State) : Host.Outcome State Fault Refusal := .next (finish h e s)

end Sys2Proof.Machine
end

