-- ==== Sys2Proof/Machine/Operands.lean ====
section
/-! DEFINITION. Reading the operand forms (R72, R80): registers, immediates and memory addresses. -/

namespace Sys2Proof.Machine

/-- An immediate is sign-extended from 20 bits (R72). -/
def immW (v : BitVec 20) : Word := v.signExtend 64

def readGSrc (s : State) : GSrc → Word
  | .reg r => s.rdG r.val
  | .imm v => immW v

/-- A b register, or an immediate's low 16 bits (R126, R129). -/
def readBSrc (s : State) : BSrc → BitVec 16
  | .reg r => s.rdB r.val
  | .imm v => v.truncate 16

/-- The predicate value of `pmov`'s source (R212). -/
def readPSrc (s : State) : PSrc → Bool
  | .p r => s.rdP r.val
  | .g r => s.rdG r.val != 0
  | .imm v => v != 0

/-- The address of a memory operand of scale `size` (R72). -/
def memAddr (s : State) (m : Mem) (size : Nat) : Word :=
  s.rdG m.base.val + m.off.signExtend 64 * BitVec.ofNat 64 size

/-- The predicate operand of a branch; a field of zero bits reads p0 (R213). -/
def readBranchP (s : State) : Option (Fin 8) → Bool
  | none => true
  | some r => s.rdP r.val

/-- An optional 20-bit immediate, omitted as 0 (R222). -/
def optImm : Option (BitVec 20) → Word
  | none => 0
  | some v => immW v

/-- The unsigned 20 bits of an optional immediate. -/
def optImm20 : Option (BitVec 20) → Nat
  | none => 0
  | some v => v.toNat

/-- Sext(x, w) as a number (R197). -/
def sOp (t : ITy) (x : Word) : Int := sextI x.toNat t.width

/-- Zext(x, w) as a number. -/
def uOp (t : ITy) (x : Word) : Int := ((x.toNat % 2 ^ t.width : Nat) : Int)

/-- A source read as R203 reads it: unsigned when the flag is set. -/
def rdOp (t : ITy) (u : Bool) (x : Word) : Int := if u then uOp t x else sOp t x

/-- A shift count modulo the width (R202). -/
def shCount (t : ITy) (x : Word) : Nat := x.toNat % t.width

/-- The result written to a destination g register: Sext(x, w) (R197). -/
def destW (t : ITy) (x : Int) : Word := wordOf (sextI (x % 2 ^ 64).toNat t.width)

def pBytes : PTy → Nat
  | .i64 => 8
  | .i32 => 4

def iBytes (t : ITy) : Nat := t.width / 8

end Sys2Proof.Machine
end

