-- ==== Sys2Proof/Machine/Flags.lean ====
section
/-! DEFINITION. fflags and the flag computations of scalar integer instructions (R78, R100, R199). -/

namespace Sys2Proof.Machine

/-- Or flags into a thread's fflags (R80 Round: flags are sticky). -/
def Thread.raise (t : Thread) (f : Flags) : Thread :=
  { t with ctl := { t.ctl with fflags := t.ctl.fflags ||| BitVec.ofNat 6 f } }

def State.raise (s : State) (f : Flags) : State := if f = 0 then s else s.modMe (fun t => t.raise f)

/-- The signed range of `w` bits. -/
def loBound (w : Nat) : Int := -(2 ^ (w - 1))
def hiBound (w : Nat) : Int := 2 ^ (w - 1) - 1

/-- Signed saturation of an exact integer to `w` bits with the flags it raises: fflags[5] when the clamp changes the
result (R199). -/
def satInt (w : Nat) (x : Int) : Int × Flags :=
  if x < loBound w then (loBound w, flSat) else if hiBound w < x then (hiBound w, flSat) else (x, 0)

/-- The value and flags of an exact integer, wrapped or saturated (R202). -/
def wrapOrSat (t : ITy) (sat : Bool) (x : Int) : Word × Flags :=
  if sat then (destW t (satInt t.width x).1, (satInt t.width x).2) else (destW t x, 0)

/-- Write a wrapped or saturated result and raise its flags. -/
def writeSat (s : State) (t : ITy) (sat : Bool) (d : Fin 64) (x : Int) : State :=
  (s.raise (wrapOrSat t sat x).2).wrG d.val (wrapOrSat t sat x).1

/-- The frm write rule: 6 and 7 leave frm unchanged (R78). -/
def Ctl.wrFrm (c : Ctl) (v : Word) : Ctl :=
  if v.toNat % 8 < 6 then { c with frm := v.extractLsb' 0 3 } else c

end Sys2Proof.Machine
end

