-- ==== Sys2Proof/Machine/Integer.lean ====
section
/-! DEFINITION. Integer arithmetic, logic, moves and predicates: opcodes 0x01 to 0x20 (R197-R212). -/

namespace Sys2Proof.Machine

/-- Write a result of width w to a g register. -/
def putInt (s : State) (t : ITy) (d : Fin 64) (x : Int) : Eff := .ok (s.wrG d.val (destW t x))

/-! ### Wrap or saturate (R202) -/

def effAdd (t : ITy) (sa : Bool) (a b : Fin 64) (c : GSrc) (s : State) : Eff :=
  .ok (writeSat s t sa a (sOp t (s.rdG b.val) + sOp t (readGSrc s c)))

def effSub (t : ITy) (sa : Bool) (a b : Fin 64) (c : GSrc) (s : State) : Eff :=
  .ok (writeSat s t sa a (sOp t (s.rdG b.val) - sOp t (readGSrc s c)))

def effMul (t : ITy) (sa : Bool) (a b : Fin 64) (c : GSrc) (s : State) : Eff :=
  .ok (writeSat s t sa a (sOp t (s.rdG b.val) * sOp t (readGSrc s c)))

def effMad (t : ITy) (sa : Bool) (a b : Fin 64) (c : GSrc) (s : State) : Eff :=
  .ok (writeSat s t sa a (sOp t (s.rdG a.val) * sOp t (s.rdG b.val) + sOp t (readGSrc s c)))

def effAbs (t : ITy) (sa : Bool) (a b : Fin 64) (s : State) : Eff :=
  .ok (writeSat s t sa a ((sOp t (s.rdG b.val)).natAbs : Int))

def effShl (t : ITy) (sa : Bool) (a b : Fin 64) (c : GSrc) (s : State) : Eff :=
  .ok (writeSat s t sa a (sOp t (s.rdG b.val) * 2 ^ shCount t (readGSrc s c)))

/-! ### mulh, div, rem (R203) -/

/-- The quotient and remainder of R203. -/
def divRem (t : ITy) (u : Bool) (b c : Int) : Int × Int :=
  if c = 0 then (-1, b)
  else if u = false ∧ b = loBound t.width ∧ c = -1 then (b, 0)
  else (Int.tdiv b c, Int.tmod b c)

def effMulh (t : ITy) (u : Bool) (a b : Fin 64) (c : GSrc) (s : State) : Eff :=
  putInt s t a (rdOp t u (s.rdG b.val) * rdOp t u (readGSrc s c) / 2 ^ t.width)

def effDiv (t : ITy) (u : Bool) (a b : Fin 64) (c : GSrc) (s : State) : Eff :=
  putInt s t a (divRem t u (rdOp t u (s.rdG b.val)) (rdOp t u (readGSrc s c))).1

def effRem (t : ITy) (u : Bool) (a b : Fin 64) (c : GSrc) (s : State) : Eff :=
  putInt s t a (divRem t u (rdOp t u (s.rdG b.val)) (rdOp t u (readGSrc s c))).2

/-! ### Logic, shifts, rotation, comparison and counting (R204) -/

def effAnd (t : ITy) (a b : Fin 64) (c : GSrc) (s : State) : Eff :=
  putInt s t a ((s.rdG b.val &&& readGSrc s c).toNat : Int)

def effOr (t : ITy) (a b : Fin 64) (c : GSrc) (s : State) : Eff :=
  putInt s t a ((s.rdG b.val ||| readGSrc s c).toNat : Int)

def effXor (t : ITy) (a b : Fin 64) (c : GSrc) (s : State) : Eff :=
  putInt s t a ((s.rdG b.val ^^^ readGSrc s c).toNat : Int)

def effAndn (t : ITy) (a b : Fin 64) (c : GSrc) (s : State) : Eff :=
  putInt s t a ((s.rdG b.val &&& ~~~(readGSrc s c)).toNat : Int)

def effShr (t : ITy) (u : Bool) (a b : Fin 64) (c : GSrc) (s : State) : Eff :=
  putInt s t a (rdOp t u (s.rdG b.val) / 2 ^ shCount t (readGSrc s c))

/-- A rotation of the low w bits toward the high end. -/
def rotVal (t : ITy) (x : Word) (n : Nat) : Nat :=
  let u := x.toNat % 2 ^ t.width
  (u * 2 ^ n + u / 2 ^ (t.width - n)) % 2 ^ t.width

def effRot (t : ITy) (a b : Fin 64) (c : GSrc) (s : State) : Eff :=
  putInt s t a (rotVal t (s.rdG b.val) (shCount t (readGSrc s c)) : Int)

def effMin (t : ITy) (u : Bool) (a b : Fin 64) (c : GSrc) (s : State) : Eff :=
  putInt s t a (min (rdOp t u (s.rdG b.val)) (rdOp t u (readGSrc s c)))

def effMax (t : ITy) (u : Bool) (a b : Fin 64) (c : GSrc) (s : State) : Eff :=
  putInt s t a (max (rdOp t u (s.rdG b.val)) (rdOp t u (readGSrc s c)))

/-- Leading zero bits of the low w bits; w when they are 0. -/
def clzVal (t : ITy) (x : Word) : Nat := t.width - bitLen (x.toNat % 2 ^ t.width)

def effClz (t : ITy) (a b : Fin 64) (s : State) : Eff := putInt s t a (clzVal t (s.rdG b.val) : Int)

def effCtz (t : ITy) (a b : Fin 64) (s : State) : Eff :=
  putInt s t a (trailZeros t.width (s.rdG b.val).toNat : Int)

def effPop (t : ITy) (a b : Fin 64) (s : State) : Eff :=
  putInt s t a (popCount t.width (s.rdG b.val).toNat : Int)

/-! ### Bit fields and extension (R205, R206) -/

/-- pos and len of a spec. -/
def specPos (x : Word) : Nat := wfld x 0 6
def specLen (x : Word) : Nat := wfld x 6 6 + 1

/-- The field of a value; bits above 63 read as zero. -/
def bextVal (x spec : Word) : Nat := fld x.toNat (specPos spec) (specLen spec)

def effBext (u : Bool) (a b : Fin 64) (c : GSrc) (s : State) : Eff :=
  let f := bextVal (s.rdG b.val) (readGSrc s c)
  let n := specLen (readGSrc s c)
  .ok (s.wrG a.val (if u then zextW f n else sextW f n))

/-- The low len bits of the source placed at pos; bits above 63 are not written. -/
def binsVal (d x spec : Word) : Word :=
  BitVec.ofNat 64 (setFld d.toNat (specPos spec) (min (specLen spec) (64 - specPos spec)) x.toNat)

def effBins (a b : Fin 64) (c : GSrc) (s : State) : Eff :=
  .ok (s.wrG a.val (binsVal (s.rdG a.val) (s.rdG b.val) (readGSrc s c)))

def effExtI (t : ITy) (u : Bool) (a b : Fin 64) (s : State) : Eff :=
  .ok (s.wrG a.val (if u then zextW (s.rdG b.val).toNat t.width else sextW (s.rdG b.val).toNat t.width))

/-! ### Moves, immediates and selection (R207, R208) -/

def effMov (a : Fin 64) (b : GSrc) (s : State) : Eff := .ok (s.wrG a.val (readGSrc s b))

def effLi (a : Fin 64) (w : BitVec 40) (s : State) : Eff := .ok (s.wrG a.val (w.signExtend 64))

def effLih (a : Fin 64) (w : BitVec 40) (s : State) : Eff :=
  .ok (s.wrG a.val (s.rdG a.val + w.signExtend 64 * BitVec.ofNat 64 (2 ^ 40)))

def effLpc (a : Fin 64) (c : BitVec 20) (s : State) : Eff := .ok (s.wrG a.val (s.me.pc + immW c))

def effSel (n : Fin 8) (u : Bool) (a b : Fin 64) (c : GSrc) (s : State) : Eff :=
  .ok (s.wrG a.val (if s.rdP n.val != u then s.rdG b.val else readGSrc s c))

/-! ### Predicates (R210-R212) -/

/-- The outcome of a condition on two numbers (10 Table 5); `tst` is given the masked conjunction. -/
def condHolds (n : Cond) (b c : Int) (tst : Bool) : Bool :=
  match n with
  | .eq => decide (b = c)
  | .ne => decide (b ≠ c)
  | .lt => decide (b < c)
  | .le => decide (b ≤ c)
  | .gt => decide (b > c)
  | .ge => decide (b ≥ c)
  | .tst => tst

def effCmp (t : ITy) (n : Cond) (u : Bool) (a : Fin 8) (b : Fin 64) (c : GSrc) (s : State) : Eff :=
  let x := s.rdG b.val
  let y := readGSrc s c
  .ok (s.wrP a.val (condHolds n (rdOp t u x) (rdOp t u y) (decide ((x &&& y).toNat % 2 ^ t.width ≠ 0))))

/-- Predicate operations (10 Table 6). -/
def plogOp (n : Nat) (a b : Bool) : Bool :=
  match n with
  | 0 => a && b
  | 1 => a || b
  | 2 => a != b
  | 3 => a && !b
  | 4 => a || !b
  | 5 => !(a && b)
  | 6 => !(a || b)
  | _ => !(a != b)

def effPlog (n a b c : Fin 8) (s : State) : Eff := .ok (s.wrP a.val (plogOp n.val (s.rdP b.val) (s.rdP c.val)))

def effPmov (u : Bool) (a : Fin 8) (b : PSrc) (s : State) : Eff := .ok (s.wrP a.val (readPSrc s b != u))

def effPget (a : Fin 64) (b : Fin 8) (s : State) : Eff := .ok (s.wrG a.val (if s.rdP b.val then 1 else 0))

/-! ### Meanings -/

def execAdd (h : Hdr) (t : ITy) (sa : Bool) (a b : Fin 64) (c : GSrc) (s : State) := run h (effAdd t sa a b c) s
def execSub (h : Hdr) (t : ITy) (sa : Bool) (a b : Fin 64) (c : GSrc) (s : State) := run h (effSub t sa a b c) s
def execMul (h : Hdr) (t : ITy) (sa : Bool) (a b : Fin 64) (c : GSrc) (s : State) := run h (effMul t sa a b c) s
def execMulh (h : Hdr) (t : ITy) (u : Bool) (a b : Fin 64) (c : GSrc) (s : State) := run h (effMulh t u a b c) s
def execMad (h : Hdr) (t : ITy) (sa : Bool) (a b : Fin 64) (c : GSrc) (s : State) := run h (effMad t sa a b c) s
def execDiv (h : Hdr) (t : ITy) (u : Bool) (a b : Fin 64) (c : GSrc) (s : State) := run h (effDiv t u a b c) s
def execRem (h : Hdr) (t : ITy) (u : Bool) (a b : Fin 64) (c : GSrc) (s : State) := run h (effRem t u a b c) s
def execAnd (h : Hdr) (t : ITy) (a b : Fin 64) (c : GSrc) (s : State) := run h (effAnd t a b c) s
def execOr (h : Hdr) (t : ITy) (a b : Fin 64) (c : GSrc) (s : State) := run h (effOr t a b c) s
def execXor (h : Hdr) (t : ITy) (a b : Fin 64) (c : GSrc) (s : State) := run h (effXor t a b c) s
def execAndn (h : Hdr) (t : ITy) (a b : Fin 64) (c : GSrc) (s : State) := run h (effAndn t a b c) s
def execShl (h : Hdr) (t : ITy) (sa : Bool) (a b : Fin 64) (c : GSrc) (s : State) := run h (effShl t sa a b c) s
def execShr (h : Hdr) (t : ITy) (u : Bool) (a b : Fin 64) (c : GSrc) (s : State) := run h (effShr t u a b c) s
def execRot (h : Hdr) (t : ITy) (a b : Fin 64) (c : GSrc) (s : State) := run h (effRot t a b c) s
def execMin (h : Hdr) (t : ITy) (u : Bool) (a b : Fin 64) (c : GSrc) (s : State) := run h (effMin t u a b c) s
def execMax (h : Hdr) (t : ITy) (u : Bool) (a b : Fin 64) (c : GSrc) (s : State) := run h (effMax t u a b c) s
def execAbs (h : Hdr) (t : ITy) (sa : Bool) (a b : Fin 64) (s : State) := run h (effAbs t sa a b) s
def execClz (h : Hdr) (t : ITy) (a b : Fin 64) (s : State) := run h (effClz t a b) s
def execCtz (h : Hdr) (t : ITy) (a b : Fin 64) (s : State) := run h (effCtz t a b) s
def execPop (h : Hdr) (t : ITy) (a b : Fin 64) (s : State) := run h (effPop t a b) s
def execBext (h : Hdr) (u : Bool) (a b : Fin 64) (c : GSrc) (s : State) := run h (effBext u a b c) s
def execBins (h : Hdr) (a b : Fin 64) (c : GSrc) (s : State) := run h (effBins a b c) s
def execExtI (h : Hdr) (t : ITy) (u : Bool) (a b : Fin 64) (s : State) := run h (effExtI t u a b) s
def execMov (h : Hdr) (a : Fin 64) (b : GSrc) (s : State) := run h (effMov a b) s
def execLi (h : Hdr) (a : Fin 64) (w : BitVec 40) (s : State) := run h (effLi a w) s
def execLih (h : Hdr) (a : Fin 64) (w : BitVec 40) (s : State) := run h (effLih a w) s
def execLpc (h : Hdr) (a : Fin 64) (c : BitVec 20) (s : State) := run h (effLpc a c) s
def execSel (h : Hdr) (n : Fin 8) (u : Bool) (a b : Fin 64) (c : GSrc) (s : State) := run h (effSel n u a b c) s
def execCmp (h : Hdr) (t : ITy) (n : Cond) (u : Bool) (a : Fin 8) (b : Fin 64) (c : GSrc) (s : State) :=
  run h (effCmp t n u a b c) s
def execPlog (h : Hdr) (n a b c : Fin 8) (s : State) := run h (effPlog n a b c) s
def execPmov (h : Hdr) (u : Bool) (a : Fin 8) (b : PSrc) (s : State) := run h (effPmov u a b) s
def execPget (h : Hdr) (a : Fin 64) (b : Fin 8) (s : State) := run h (effPget a b) s

end Sys2Proof.Machine
end

