-- ==== Sys2Proof/Machine/Control.lean ====
section
/-! DEFINITION. Branches and jumps, control-register access and system instructions: opcodes 0x21 to 0x2F
(R213-R227). -/

namespace Sys2Proof.Machine

/-! ### Branches and jumps (R213-R216) -/

/-- Resolve a branch: a lockstep follower whose outcome differs from its leader's takes trap 0x0E in its place, with
nothing written (R171). -/
def resolve (s s' : State) (target : Word) : Eff :=
  if s.me.follower then
    match s.me.fwd with
    | e :: _ =>
      match e.next with
      | none => .wait s
      | some n => if n = target then .jump s' target else .failAt s 0x0E n s.me.place.gpos
    | [] => .jump s' target
  else .jump s' target

/-- A branch under its guard: a false guard counts as not taken (R200, R171). -/
def runBranch (h : Hdr) (e : State → Eff) (s : State) : Host.Outcome State Fault Refusal :=
  if guardHolds s h then run h e s
  else run { h with pred := 0, inv := false, yields := false } (fun s => resolve s s (s.me.pc + 12)) s

/-- The target of a relative branch: offsets count instructions (R214). -/
def relTarget (s : State) (c : BitVec 20) : Word := s.me.pc + immW c * 12

def branchPc (s : State) (c : Bool) (target : Word) : Word := if c then target else s.me.pc + 12

def effBr (u : Bool) (a : Option (Fin 8)) (c : BitVec 20) (s : State) : Eff :=
  resolve s s (branchPc s (readBranchP s a != u) (relTarget s c))

def effBrl (u : Bool) (a : Option (Fin 8)) (c : BitVec 20) (s : State) : Eff :=
  resolve s (s.wrG 63 (s.me.pc + 12)) (branchPc s (readBranchP s a != u) (relTarget s c))

def effJr (u : Bool) (a : Option (Fin 8)) (b : Fin 64) (c : GSrc) (s : State) : Eff :=
  resolve s s (branchPc s (readBranchP s a != u) (s.rdG b.val + readGSrc s c))

def effJrl (u : Bool) (a : Option (Fin 8)) (b : Fin 64) (c : GSrc) (s : State) : Eff :=
  resolve s (s.wrG 63 (s.me.pc + 12)) (branchPc s (readBranchP s a != u) (s.rdG b.val + readGSrc s c))

def effDbr (a : Fin 64) (c : BitVec 20) (s : State) : Eff :=
  let n := s.rdG a.val - 1
  resolve s (s.wrG a.val n) (branchPc s (n != 0) (relTarget s c))

def execBr (h : Hdr) (u : Bool) (a : Option (Fin 8)) (c : BitVec 20) (s : State) := runBranch h (effBr u a c) s
def execBrl (h : Hdr) (u : Bool) (a : Option (Fin 8)) (c : BitVec 20) (s : State) := runBranch h (effBrl u a c) s
def execJr (h : Hdr) (u : Bool) (a : Option (Fin 8)) (b : Fin 64) (c : GSrc) (s : State) :=
  runBranch h (effJr u a b c) s
def execJrl (h : Hdr) (u : Bool) (a : Option (Fin 8)) (b : Fin 64) (c : GSrc) (s : State) :=
  runBranch h (effJrl u a b c) s
def execDbr (h : Hdr) (a : Fin 64) (c : BitVec 20) (s : State) := runBranch h (effDbr a c) s

/-! ### Control registers (R78, R217-R221) -/

/-- The reading of xstat (R426). -/
def xstatVal (t : Thread) : Nat :=
  flagAt t.ctl.imsg 9 + flagAt t.ctl.itimer 8 + flagAt t.pend.msg 5 + flagAt t.pend.timer 4 + flagAt t.ctl.ie 2 +
    flagAt t.ctl.pie 1 + flagAt t.ctl.ppriv 0

/-- The reading of tstate (R120). -/
def tstateVal (t : Tol) : Nat :=
  t.root.toNat * 2 ^ 48 + t.tree.toNat * 2 ^ 29 + t.tight % 4096 * 2 ^ 17 + t.deficit % 4096 * 2 ^ 5 +
    flagAt t.short 4 + flagAt t.exactpass 1 + flagAt t.isOpen 0

/-- The reading of gang (04 Table 6, R173). -/
def gangVal (t : Thread) : Nat :=
  t.place.gsize % 16 + t.place.gpos % 16 * 16 + t.place.leader % 8 * 256 + flagAt t.place.shed 11

/-- Lane keys on the lower core: k from the lower core, 4 + k from the upper core (R414). -/
def laneCore (c : Nat) : Nat := if upperDie c then partnerOf c else c
def outLane (c k : Nat) : Nat := if upperDie c then 4 + k else k
def inLane (c k : Nat) : Nat := if upperDie c then k else 4 + k
def laneOf (s : State) (c key : Nat) : List Word := AMap.getD (s.core (laneCore c)).lanes key []

/-- The depth of a transom lane (20 Table 8). -/
def laneDepth : Nat := 8

def transomVal (s : State) (c k : Nat) : Nat :=
  (laneOf s c (inLane c k)).length * 2 ^ 24 + (laneDepth - (laneOf s c (outLane c k)).length) * 2 ^ 16 +
    laneDepth * 2 ^ 8 + flagAt (!upperDie c && (s.core (partnerOf c)).lowered) 1 + flagAt (upperDie c) 0

def blindVal (s : State) (c : Nat) : Nat := flagAt (upperDie c && (s.core c).hold) 8 + flagAt (upperDie c) 0

/-- The charter node of a thread's stage. -/
def stageNode (s : State) (t : Thread) : Option Node := s.node t.place.launch t.place.node

/-- The value that a read of a control register returns to thread (c, k) (R78). -/
def ctlRead (s : State) (c k : Nat) : CtlNum → Word
  | .pc => (s.thread c k).pc
  | .slot => BitVec.ofNat 64 (k % 4)
  | .coord => BitVec.ofNat 64 (dieOf c * 4096 + rowOf c * 256 + colOf c * 16)
  | .part => (s.core c).part
  | .charter => (s.thread c k).place.charter
  | .gang => BitVec.ofNat 64 (gangVal (s.thread c k))
  | .sill => (s.core c).sill
  | .feat => (s.thread c k).place.feat
  | .spaceid => BitVec.ofNat 64 (s.thread c k).place.spaceid
  | .gen => (s.thread c k).place.gen.setWidth 64
  | .deadline => (s.thread c k).place.deadline
  | .xpc => (s.thread c k).ctl.xpc
  | .xcause => (s.thread c k).ctl.xcause.setWidth 64
  | .xaddr => (s.thread c k).ctl.xaddr
  | .xinfo => (s.thread c k).ctl.xinfo
  | .xvec => (s.thread c k).ctl.xvec
  | .xstat => BitVec.ofNat 64 (xstatVal (s.thread c k))
  | .xscratch => (s.thread c k).ctl.xscratch
  | .clock => BitVec.ofNat 64 s.time.tick
  | .ptime => (s.thread c k).ctl.ptime
  | .cycles => (s.thread c k).ctl.cycles
  | .energy =>
    match stageNode s (s.thread c k) with
    | some n => BitVec.ofNat 64 n.usedEnergy
    | none => 0
  | .frm => (s.thread c k).ctl.frm.setWidth 64
  | .fflags => (s.thread c k).ctl.fflags.setWidth 64
  | .srseed => (s.thread c k).ctl.srseed
  | .region => BitVec.ofNat 64 ((s.thread c k).rgn.held.length * 256 + (s.thread c k).rgn.reads.length)
  | .rsplits => (s.thread c k).ctl.rsplits
  | .blind => BitVec.ofNat 64 (blindVal s c)
  | .transom => BitVec.ofNat 64 (transomVal s c k)
  | .tstate => BitVec.ofNat 64 (tstateVal (s.thread c k).tol)
  | .tentry => (s.thread c k).tol.tentry
  | .treplays => BitVec.ofNat 64 ((s.thread c k).tol.treplays % 4)
  | .deadmsg =>
    match stageNode s (s.thread c k) with
    | some n => BitVec.ofNat 64 n.dlCount
    | none => 0

/-- Update the thread-held control registers of (c, k). -/
def modCtl (s : State) (c k : Nat) (f : Ctl → Ctl) : State := s.modThread c k (fun t => { t with ctl := f t.ctl })

/-- A write at handler privilege (R219, Table 9); a register that is RO at handler privilege keeps its value. -/
def ctlWriteHandler (s : State) (c k : Nat) (n : CtlNum) (v : Word) : State :=
  match n with
  | .sill => s.modCore c (fun x => { x with sill := BitVec.ofNat 64 (sillWrite x.part v.toNat) })
  | .xpc => modCtl s c k (fun x => { x with xpc := v })
  | .xcause => modCtl s c k (fun x => { x with xcause := v.setWidth 8 })
  | .xaddr => modCtl s c k (fun x => { x with xaddr := v })
  | .xinfo => modCtl s c k (fun x => { x with xinfo := v })
  | .xvec => modCtl s c k (fun x => { x with xvec := v &&& ~~~3 })
  | .xstat => modCtl s c k (fun x => { x with
      ppriv := v.getLsbD 0, pie := v.getLsbD 1, ie := v.getLsbD 2, itimer := v.getLsbD 8, imsg := v.getLsbD 9 })
  | .xscratch => modCtl s c k (fun x => { x with xscratch := v })
  | .ptime => s.modThread c k (fun t =>
      { t with ctl := { t.ctl with ptime := v }, pend := { t.pend with timer := false } })
  | .frm => modCtl s c k (fun x => x.wrFrm v)
  | .fflags => modCtl s c k (fun x => { x with fflags := v.setWidth 6 })
  | .srseed => s.modThread c k (fun t => { t with ctl := { t.ctl with srseed := v }, gens := seedGens v })
  | .rsplits => modCtl s c k (fun x => { x with rsplits := v })
  | .blind => s.modCore c (fun x => { x with hold := if upperDie c then v.getLsbD 8 else x.hold })
  | .deadmsg =>
    let t := s.thread c k
    s.modNode t.place.launch t.place.node (fun n => { n with dlCount := v.toNat })
  | .pc => s | .slot => s | .coord => s | .part => s | .charter => s | .gang => s | .feat => s
  | .spaceid => s | .gen => s | .deadline => s | .clock => s | .cycles => s | .energy => s | .region => s
  | .transom => s | .tstate => s | .tentry => s | .treplays => s

/-- The registers that user privilege may write (04 Table 6). -/
def ctlUserRW : CtlNum → Bool
  | .frm => true | .fflags => true | .srseed => true
  | .pc => false | .slot => false | .coord => false | .part => false | .charter => false | .gang => false
  | .sill => false | .feat => false | .spaceid => false | .gen => false | .deadline => false
  | .xpc => false | .xcause => false | .xaddr => false | .xinfo => false | .xvec => false | .xstat => false
  | .xscratch => false | .clock => false | .ptime => false | .cycles => false | .energy => false
  | .region => false | .rsplits => false | .blind => false | .transom => false
  | .tstate => false | .tentry => false | .treplays => false | .deadmsg => false

/-- A write by the acting thread: ignored on a register that is RO at its privilege (R78). -/
def ctlWrite (s : State) (n : CtlNum) (v : Word) : State :=
  if s.me.priv || ctlUserRW n then ctlWriteHandler s s.cur.1 s.cur.2 n v else s

/-- The vector siding has completed every handed-off instruction of a slot (R220, R315). -/
def sidingIdle (s : State) (c k : Nat) : Bool :=
  (s.core c).seq.all (fun e => e.slot != k) && (s.thread c k).rpt.isNone

/-- Registers whose access waits for the siding (R220). -/
def ctlWaits : CtlNum → Bool
  | .frm => true | .fflags => true | .srseed => true
  | .pc => false | .slot => false | .coord => false | .part => false | .charter => false | .gang => false
  | .sill => false | .feat => false | .spaceid => false | .gen => false | .deadline => false
  | .xpc => false | .xcause => false | .xaddr => false | .xinfo => false | .xvec => false | .xstat => false
  | .xscratch => false | .clock => false | .ptime => false | .cycles => false | .energy => false
  | .region => false | .rsplits => false | .blind => false | .transom => false
  | .tstate => false | .tentry => false | .treplays => false | .deadmsg => false

/-- Wait for the siding where the register needs it. -/
def ctlGate (n : CtlNum) (s : State) (e : Eff) : Eff :=
  if ctlWaits n && !sidingIdle s s.cur.1 s.cur.2 then .wait s else e

/-- The access is permitted at the current privilege, else trap 0x03 whatever the guard (R75 step 4, R77). -/
def runCtl (op : Nat) (n : CtlNum) (h : Hdr) (e : State → Eff) (s : State) : Host.Outcome State Fault Refusal :=
  if n.hidden && !s.me.priv then
    .next (takeTrap s s.cur.1 s.cur.2 { cause := 3, addr := 0, info := BitVec.ofNat 64 (op + 256 * n.num) } true)
  else run h e s

/-- A handler-only instruction (R83): trap 0x03 at user privilege whatever the guard. -/
def runHandler (op : Nat) (h : Hdr) (e : State → Eff) (s : State) : Host.Outcome State Fault Refusal :=
  if s.me.priv then run h e s
  else .next (takeTrap s s.cur.1 s.cur.2 { cause := 3, addr := 0, info := BitVec.ofNat 64 op } true)

def effCtlRd (a : Fin 64) (b : CtlNum) (s : State) : Eff :=
  ctlGate b s (.ok (s.wrG a.val (ctlRead s s.cur.1 s.cur.2 b)))

def effCtlWr (a : CtlNum) (b : GSrc) (s : State) : Eff := ctlGate a s (.ok (ctlWrite s a (readGSrc s b)))

def effCtlSet (a : CtlNum) (b : GSrc) (s : State) : Eff :=
  ctlGate a s (.ok (ctlWrite s a (ctlRead s s.cur.1 s.cur.2 a ||| readGSrc s b)))

def effCtlClr (a : CtlNum) (b : GSrc) (s : State) : Eff :=
  ctlGate a s (.ok (ctlWrite s a (ctlRead s s.cur.1 s.cur.2 a &&& ~~~(readGSrc s b))))

def execCtlRd (h : Hdr) (a : Fin 64) (b : CtlNum) (s : State) := runCtl 0x26 b h (effCtlRd a b) s
def execCtlWr (h : Hdr) (a : CtlNum) (b : GSrc) (s : State) := runCtl 0x27 a h (effCtlWr a b) s
def execCtlSet (h : Hdr) (a : CtlNum) (b : GSrc) (s : State) := runCtl 0x28 a h (effCtlSet a b) s
def execCtlClr (h : Hdr) (a : CtlNum) (b : GSrc) (s : State) := runCtl 0x29 a h (effCtlClr a b) s

/-! ### System instructions (R222-R227) -/

def effTrap (c : Option (BitVec 20)) (s : State) : Eff := .fail s 0x14 (optImm20 c)
def effSysc (c : Option (BitVec 20)) (s : State) : Eff := .fail s 0x13 (optImm20 c)

/-- `eret` (R225, R430); from the handler of a meter's trap 0x12 it is a fatal return (R152). -/
def effEret (s : State) : Eff :=
  if s.me.fatalRet && s.me.ctl.xcause == 0x12 then .wait (faultInstance s s.cur.1 s.cur.2 0x12)
  else .jump (s.modMe (fun t => t.eret t.pc)) s.me.ctl.xpc

/-- `halt` ends the instance as a fault with the value of xcause; inside a tolerant region it traps (R226, R122). -/
def effHalt (s : State) : Eff :=
  if s.me.tol.isOpen then .fail s 0x0D 6
  else .wait (faultInstance s s.cur.1 s.cur.2 s.me.ctl.xcause.toNat)

def effNop (s : State) : Eff := .ok s
def effYieldI (s : State) : Eff := .ok s

def execTrap (h : Hdr) (c : Option (BitVec 20)) (s : State) := run h (effTrap c) s
def execSysc (h : Hdr) (c : Option (BitVec 20)) (s : State) := run h (effSysc c) s
def execEret (h : Hdr) (s : State) := runHandler 0x2B h effEret s
def execHalt (h : Hdr) (s : State) := runHandler 0x2D h effHalt s
def execNop (h : Hdr) (s : State) := run h effNop s
def execYieldI (h : Hdr) (s : State) := run { h with yields := true } effYieldI s

end Sys2Proof.Machine
end

