-- ==== Sys2Proof/Machine/Translate.lean ====
section
/-! DEFINITION. Module memory at its homes, the address map, page walks, TLBs and shoot-downs (R230-R232, R238-R255). -/

namespace Sys2Proof.Machine

/-! ### Home lines (R239, R242) -/

/-- The home line of a DRAM physical address: die * 2^28 + die offset / 64 (R239). -/
def homeLine (pa : Nat) (interleave : Bool) : Nat :=
  let d := pa / 2 ^ 34 % 16
  let e := if interleave then d ^^^ (pa / 256 % 16) else d
  e * 2 ^ 28 + pa % 2 ^ 34 / 64

/-- The home die of a line. -/
def lineDie (hl : Nat) : Nat := hl / 2 ^ 28

/-- The key of a DRAM physical address under a key slot: the slot, with the die that the address names before the
interleave (R242). -/
def keyOf (slot pa : Nat) : Nat := slot + 4096 * (pa / 2 ^ 34 % 16)

/-- The generation of the key slot of a key: how often it was keyed again (R455). -/
def Memory.gen (m : Memory) (key : Nat) : Nat := AMap.getD m.keyGen (key % 4096) 0

/-- The 512 bits of a line as an access with this key reads them (R242): under another slot, tweak or generation they
are unrelated bytes (log 7). -/
def Memory.line (m : Memory) (hl key : Nat) : Nat :=
  let raw := ofBytes (Cells.getN m.dram (hl * 64) 64)
  match AMap.get m.keys hl with
  | none => raw
  | some (k, g) => if k = key ∧ g = m.gen key then raw else Config.recrypt k g key (m.gen key) hl raw

/-- Bytes [off, off + n) of a line. -/
def Memory.lineBytes (m : Memory) (hl key off n : Nat) : List Byte := toBytes n (m.line hl key / 256 ^ off)

/-! ### The home slices (R13, R239, R241, R242) -/

/-- The cluster whose slice is the home of a line (R239), or its partner when that slice is fenced (R448). -/
def Memory.sliceOf (m : Memory) (hl : Nat) : Nat :=
  let x := lineDie hl * 32 + ((hl % 32) ^^^ (hl / 32 % 32))
  if m.off.contains x then x ^^^ 1 else x

/-- The lines of a slice: 2 MiB (R13). -/
def sliceLines : Nat := 32768

/-- The slice's copy of a line. -/
def Memory.entry (m : Memory) (hl : Nat) : Option SliceLine := m.slice.find? (fun e => e.line == hl)

/-- The lines whose slice copy differs from DRAM. -/
def Memory.dirty (m : Memory) : List Nat := (m.slice.filter (fun e => e.dirty)).map (fun e => e.line)

/-- A slice takes a line as its youngest. A full one evicts its oldest line, which DRAM then holds (R241; log 101). -/
def Memory.hold (m : Memory) (e : SliceLine) : Memory :=
  let l := m.slice.filter (fun x => x.line != e.line)
  let mine := l.filter (fun x => m.sliceOf x.line == m.sliceOf e.line)
  let room := match mine with
    | x :: _ => if mine.length < sliceLines then l else l.filter (fun y => y.line != x.line)
    | [] => l
  { m with slice := room ++ [e] }

/-- A read at the home: the slice holds the line under the reader's key afterwards. A copy under another key is written
back first, and the line is filled from DRAM again (R242). -/
def Memory.fill (m : Memory) (hl key : Nat) : Memory :=
  match m.entry hl with
  | some e => if e.key = key then m else m.hold { line := hl, key := key, dirty := false }
  | none => m.hold { line := hl, key := key, dirty := false }

/-- A slice writes a line back to DRAM (R280). -/
def Memory.writeBack (m : Memory) (hl : Nat) : Memory :=
  { m with slice := m.slice.map (fun e => if e.line = hl then { e with dirty := false } else e) }

/-- The lines that `f` names leave the slices, written back. -/
def Memory.evict (m : Memory) (f : SliceLine → Bool) : Memory := { m with slice := m.slice.filter (fun e => !f e) }

/-- Is a codeword of bytes [a, a + n) of the DRAM keys poisoned? Every one of a lost die is (R448). -/
def Memory.poisoned (m : Memory) (a n : Nat) : Bool :=
  m.lost.contains (a / 2 ^ 34) || m.poison.any (fun w => decide (w * 8 < a + n) && decide (a < w * 8 + 8))

/-- Make a line readable under a key: when it stands under another, its bytes become what that key reads. -/
def Memory.retag (m : Memory) (hl key : Nat) : Memory :=
  match AMap.get m.keys hl with
  | none => { m with keys := AMap.set m.keys hl (key, m.gen key) }
  | some (k, g) =>
    if k = key ∧ g = m.gen key then m
    else { m with
      dram := Cells.putN m.dram (hl * 64) (toBytes 64 (m.line hl key))
      keys := AMap.set m.keys hl (key, m.gen key) }

/-- Write bytes into a line at its home under a key: the slice holds them, DRAM does not yet; whole codewords lose
their poison (R241, R282). -/
def Memory.write (m : Memory) (hl key off : Nat) (bs : List Byte) : Memory :=
  let m1 := m.retag hl key
  { m1.hold { line := hl, key := key, dirty := true } with
    dram := Cells.putN m1.dram (hl * 64 + off) bs
    poison := m1.poison.filter (fun w =>
      !(decide (hl * 64 + off ≤ w * 8) && decide (w * 8 + 8 ≤ hl * 64 + off + bs.length))) }

/-- Masked bytes, by offset in the line. -/
def Memory.writeMask (m : Memory) (hl key : Nat) (bs : AMap Byte) : Memory :=
  let m1 := bs.foldl (fun m e => m.write hl key e.1 [e.2]) m
  let whole := (List.range 8).filter (fun w => (List.range 8).all (fun i => (AMap.get bs (8 * w + i)).isSome))
  { m1 with poison := m1.poison.filter (fun w => !(whole.any (fun k => w == hl * 8 + k))) }

/-- DRAM bytes by physical address, without interleave, line by line (fuel: the byte count). -/
def Memory.physBytes (m : Memory) (slot pa n : Nat) : List Byte :=
  (List.range n).map (fun i =>
    let a := pa + i
    BitVec.ofNat 8 (m.line (homeLine a false) (keyOf slot a) / 256 ^ (a % 64)))

def Memory.physNum (m : Memory) (slot pa n : Nat) : Nat := ofBytes (m.physBytes slot pa n)

def Memory.physWrite (m : Memory) (slot pa : Nat) (bs : List Byte) : Memory :=
  (bs.foldl (fun (q : Memory × Nat) b => (q.1.write (homeLine q.2 false) (keyOf slot q.2) (q.2 % 64) [b], q.2 + 1)) (m, pa)).1

/-! ### The address map (R230) -/

/-- The destination that the decode of an address gives. -/
inductive Dest where
  | own (off : Nat)
  | peer (pos off : Nat)
  | view (sub off : Nat)
  | badWindow (sub : Nat)
  | global
  | nonCanon
  deriving DecidableEq, Repr

def decodeAddr (a : Word) : Dest :=
  if wfld a 56 8 = 0xFE then
    if wfld a 48 8 = 0 then (if wfld a 40 8 = 0 then .own (wfld a 0 40) else .badWindow 0)
    else if wfld a 48 8 = 1 then
      (if wfld a 43 5 = 0 then .peer (wfld a 40 3) (wfld a 0 40) else .badWindow 1)
    else if wfld a 48 8 = 2 then .view (wfld a 40 8) (wfld a 0 40)
    else .badWindow (wfld a 48 8)
  else if wfld a 56 8 = 0 ∨ wfld a 56 8 = 0xFF then .global
  else .nonCanon

/-- The window address of an offset of a core's own pool. -/
def winAddr (off : Nat) : Word := BitVec.ofNat 64 (0xFE * 2 ^ 56 + off)

/-- A window fault: xaddr holds the address and xinfo the window number (R231). -/
def windowTrap (a : Word) : TrapInfo := { cause := 0x0A, addr := a, info := BitVec.ofNat 64 (wfld a 48 8) }

/-- The checks of R231 on [off, off + n) of a core's pool at a privilege. -/
def poolCheck (s : State) (tc : Nat) (priv : Bool) (a : Word) (off n : Nat) : Option TrapInfo :=
  if poolLimit (s.core tc).part < off + n then some (windowTrap a)
  else if !priv && decide (off < (s.core tc).sill.toNat) then some { cause := 0x09, addr := a, info := 0 }
  else none

/-- The core and pool offset of a window-0 or window-1 address, checked for n bytes. -/
def poolTarget (s : State) (c : Nat) (priv : Bool) (a : Word) (n : Nat) : TrapInfo ⊕ (Nat × Nat) :=
  match decodeAddr a with
  | .own off =>
    match poolCheck s c priv a off n with
    | some t => .inl t
    | none => .inr (c, off)
  | .peer q off =>
    match poolCheck s (peerCore s c q) priv a off n with
    | some t => .inl t
    | none => .inr (peerCore s c q, off)
  | .view _ _ => .inl (windowTrap a)
  | .badWindow _ => .inl (windowTrap a)
  | .global => .inl (windowTrap a)
  | .nonCanon => .inl (windowTrap a)

/-! ### Walks (R244-R249) -/

/-- Who asks for a translation: what R248 tells apart. -/
inductive Cls where
  | compute
  | engine
  | content
  | port
  deriving DecidableEq, Repr

/-- A translation: physical address, page attributes (12 Table 6) and the key slot of the space. -/
structure Trans where
  pa : Nat
  attrs : Nat
  keyslot : Nat
  deriving DecidableEq, Repr

def Trans.checked (t : Trans) : Bool := t.attrs.testBit 56
def Trans.content (t : Trans) : Bool := t.attrs.testBit 55
def Trans.described (t : Trans) : Bool := t.attrs.testBit 54
def Trans.host (t : Trans) : Bool := decide (2 ^ 52 ≤ t.pa)
def Trans.line (t : Trans) : Nat := homeLine t.pa (t.attrs.testBit 59)
/-- The key under which the access reaches its line. -/
def Trans.key (t : Trans) : Nat := keyOf t.keyslot t.pa
def Trans.off (t : Trans) : Nat := t.pa % 64
/-- The address of host memory that a translation reaches. -/
def Trans.hostAddr (t : Trans) : Nat := t.pa % 2 ^ 52

/-- The attribute part of the leaf checks: statuses 4, 2 and 5 in their order (R248). -/
def permStatus (cls : Cls) (kind : WalkKind) (e : Nat) : Nat :=
  if e.testBit 60 && (cls = .compute || cls = .port) then 4
  else if (match kind with
      | .read => !e.testBit 1
      | .write => !e.testBit 2
      | .fill => !e.testBit 3) || !e.testBit 4 then 2
  else if kind = .write && e.testBit 55 && cls != .content then 5
  else 0

/-- The physical-address part: status 7 (R238, R248). -/
def physStatus (cls : Cls) (pa : Nat) : Nat :=
  if pa < 2 ^ 38 then 0
  else if 2 ^ 52 ≤ pa ∧ pa < 2 ^ 53 then
    match cls with
    | .engine => 7
    | .content => 7
    | .compute => 0
    | .port => 0
  else 7

/-- log2 of the pages of a contiguity group. -/
def contigLog (e : Nat) : Nat := 2 * fld e 57 2

/-- Status 3 at a leaf of a level (R248). -/
def leafReserved (level e : Nat) : Bool :=
  decide (fld e 61 3 ≠ 0) || (e.testBit 2 && !e.testBit 1) || decide (fld e 57 2 = 3) ||
    (decide (fld e 57 2 ≠ 0) && decide (3 ≤ level)) || decide (fld e 10 44 % 2 ^ (9 * level) ≠ 0) ||
    (e.testBit 55 && e.testBit 54)

/-- A table entry of a space (R245): roots, key slot and the routine that walks it, or nothing when it is refused. -/
structure SpaceEntry where
  iroot : Nat
  droot : Nat
  keyslot : Nat
  compat : Bool
  deriving DecidableEq, Repr

def spaceEntry (s : State) (sp : Nat) : Option SpaceEntry :=
  let a := s.mgmt.sptbase.toNat + 32 * sp
  if s.mgmt.sptcount ≤ sp ∨ 2 ^ 38 < a + 32 then none
  else
    let e := s.mem.physNum 0 a 32
    if e.testBit 0 = false ∨ fld e 192 64 ≠ 0 ∨ fld e 44 20 ≠ 0 ∨ fld e 2 30 ≠ 0 ∨ fld e 64 12 ≠ 0 ∨ fld e 128 12 ≠ 0
    then none
    else if s.mem.poisoned a 32 then none
    else some { iroot := fld e 128 64, droot := fld e 64 64, keyslot := fld e 32 12, compat := e.testBit 1 }

/-- What a walk ends with: its status (R248), the entry for a TLB, and the leaf's own physical address. -/
structure Walk where
  status : Nat
  vbase : Nat
  pbase : Nat
  size : Nat
  attrs : Nat
  leaf : Nat
  deriving DecidableEq, Repr

def Walk.failed (st : Nat) : Walk := { status := st, vbase := 0, pbase := 0, size := 0, attrs := 0, leaf := 0 }

/-- The leaf checks and the group of R247. -/
def walkLeaf (ispace : Bool) (cls : Cls) (kind : WalkKind) (va level addr e : Nat) : Walk :=
  let page := 2 ^ (12 + 9 * level)
  let c := 2 ^ contigLog e
  let k := va / page % c
  let own := fld e 10 44 * 4096
  let base := own - k * page
  if leafReserved level e || decide (own < k * page) || decide (base % (c * page) ≠ 0) then Walk.failed 3
  else if ispace ∧ level = 0 then Walk.failed 9
  else if permStatus cls kind e ≠ 0 then Walk.failed (permStatus cls kind e)
  else
    let vb := va / (c * page) * (c * page)
    if physStatus cls (base + (va - vb)) ≠ 0 then Walk.failed (physStatus cls (base + (va - vb)))
    else { status := 0, vbase := vb, pbase := base, size := c * page, attrs := e, leaf := addr }

/-- The levels of a walk, from `level` down (structural on the level plus one). -/
def walkFrom (m : Memory) (ispace : Bool) (cls : Cls) (kind : WalkKind) (va : Nat) : Nat → Nat → Walk
  | 0, _ => Walk.failed 1
  | n + 1, table =>
    let addr := table + 8 * fld va (12 + 9 * n) 9
    if 2 ^ 38 ≤ addr then Walk.failed 7
    else if m.poisoned addr 8 then Walk.failed 8
    else
      let e := m.physNum 0 addr 8
      if e.testBit 0 = false then Walk.failed 1
      else if fld e 1 3 = 0 then
        (if n = 0 then Walk.failed 1
         else if fld e 54 10 ≠ 0 then Walk.failed 3
         else walkFrom m ispace cls kind va n (fld e 10 44 * 4096))
      else walkLeaf ispace cls kind va n addr e

/-- The canonical form of a 64-bit address: 57 bits, with status 6 checked before the walk. -/
def canonical (va : Nat) : Bool := decide (fld va 56 8 = 0) || decide (fld va 56 8 = 255)

/-- A walk of a space (R248), with the key slot of the space. -/
def walkSpace (s : State) (sp : Nat) (ispace : Bool) (cls : Cls) (kind : WalkKind) (va : Nat) : Walk × Nat :=
  if !canonical va then (Walk.failed 6, 0)
  else
    match spaceEntry s sp with
    | none => (Walk.failed 8, 0)
    | some e => (walkFrom s.mem ispace cls kind (va % 2 ^ 57) 5 (if ispace then e.iroot else e.droot), e.keyslot)

/-- The walker sets a, and d on a write, at the entry's home (R246). -/
def setAD (m : Memory) (w : Walk) (kind : WalkKind) : Memory :=
  let d := match kind with
    | .write => 0x80
    | .read => 0
    | .fill => 0
  let e := w.attrs ||| (0x40 + d)
  if e = w.attrs then m else m.physWrite 0 w.leaf (toBytes 8 e)

/-! ### TLBs (R250) -/

/-- A TLB entry serves an access when it covers it and its own bits permit it; a write also needs d set, so that the
walker sets d (R246). -/
def Tlb.serves (e : Tlb) (sp : Nat) (ispace : Bool) (cls : Cls) (kind : WalkKind) (va : Nat) : Bool :=
  decide (e.space = sp) && (e.ispace == ispace) && decide (e.vbase ≤ va) && decide (va < e.vbase + e.size) &&
    decide (permStatus cls kind e.attrs = 0) && decide (physStatus cls (e.pbase + (va - e.vbase)) = 0) &&
    (kind != .write || e.attrs.testBit 7)

def Tlb.trans (e : Tlb) (va : Nat) : Trans :=
  { pa := e.pbase + (va - e.vbase), attrs := e.attrs, keyslot := e.keyslot }

/-- Put an entry in front of a TLB of n entries; an older entry of the same page goes. -/
def tlbPut (n : Nat) (e : Tlb) (l : List Tlb) : List Tlb :=
  (e :: l.filter (fun x => !(x.space == e.space && x.ispace == e.ispace && x.vbase == e.vbase))).take n

def tlbOf (sp : Nat) (ispace : Bool) (w : Walk) (ks : Nat) (kind : WalkKind) : Tlb :=
  { space := sp, ispace := ispace, vbase := w.vbase, pbase := w.pbase, size := w.size,
    attrs := w.attrs ||| (match kind with
      | .write => 0xC0
      | .read => 0x40
      | .fill => 0x40), keyslot := ks }

/-- A walk with its effects: a and d at the home, and the entry in the L2 TLB of the cluster. -/
def walkFill (s : State) (cl sp : Nat) (ispace : Bool) (cls : Cls) (kind : WalkKind) (va : Nat) :
    Nat × Option Tlb × State :=
  let w := walkSpace s sp ispace cls kind va
  if w.1.status ≠ 0 then (w.1.status, none, s)
  else
    let e := tlbOf sp ispace w.1 w.2 kind
    let s1 := s.modMem (fun m => setAD m w.1 kind)
    (0, some e, s1.modCluster cl (fun x =>
      if ispace then { x with itlb := tlbPut 32 e x.itlb } else { x with l2 := tlbPut 2048 e x.l2 }))

/-- Translation for the threads of a core: L1, then L2, then a walk (R250). -/
def xlateCore (s : State) (c sp : Nat) (kind : WalkKind) (va : Nat) : (Nat × Trans) × State :=
  let none' : Trans := { pa := 0, attrs := 0, keyslot := 0 }
  if !canonical va then ((6, none'), s)
  else
    let v := va % 2 ^ 57
    match (s.core c).tlb.find? (fun e => e.serves sp false .compute kind v) with
    | some e => ((0, e.trans v), s)
    | none =>
      match (s.cluster (clusterOf c)).l2.find? (fun e => e.serves sp false .compute kind v) with
      | some e => ((0, e.trans v), s.modCore c (fun x => { x with tlb := tlbPut 64 e x.tlb }))
      | none =>
        match walkFill s (clusterOf c) sp false .compute kind va with
        | (0, some e, s1) => ((0, e.trans v), s1.modCore c (fun x => { x with tlb := tlbPut 64 e x.tlb }))
        | (st, _, s1) => ((st, none'), s1)

/-- Translation for the copy unit and the content store of a cluster and for `ifence.fill`: the L2 or the instruction
TLB, then a walk. -/
def xlateCluster (s : State) (cl sp : Nat) (ispace : Bool) (cls : Cls) (kind : WalkKind) (va : Nat) :
    (Nat × Trans) × State :=
  let none' : Trans := { pa := 0, attrs := 0, keyslot := 0 }
  if !canonical va then ((6, none'), s)
  else
    let v := va % 2 ^ 57
    let l := if ispace then (s.cluster cl).itlb else (s.cluster cl).l2
    match l.find? (fun e => e.serves sp ispace cls kind v) with
    | some e => ((0, e.trans v), s)
    | none =>
      match walkFill s cl sp ispace cls kind va with
      | (0, some e, s1) => ((0, e.trans v), s1)
      | (st, _, s1) => ((st, none'), s1)

/-- Translation for the matrix engine of a cluster: its own TLB in front of the L2 (R250). -/
def xlateEngine (s : State) (cl sp : Nat) (kind : WalkKind) (va : Nat) : (Nat × Trans) × State :=
  let v := va % 2 ^ 57
  match (if canonical va then (s.cluster cl).etlb.find? (fun e => e.serves sp false .engine kind v) else none) with
  | some e => ((0, e.trans v), s)
  | none =>
    match xlateCluster s cl sp false .engine kind va with
    | ((0, tr), s1) =>
      (((0, tr), match (s1.cluster cl).l2.find? (fun e => e.serves sp false .engine kind v) with
        | some e => s1.modCluster cl (fun x => { x with etlb := tlbPut 64 e x.etlb })
        | none => s1))
    | r => r

/-- Translation for ports, the host link and the storage port: their own cache, then a walk by the walkers of die 0
(R250). -/
def xlatePort (s : State) (sp : Nat) (kind : WalkKind) (va : Nat) : (Nat × Trans) × State :=
  let none' : Trans := { pa := 0, attrs := 0, keyslot := 0 }
  let v := va % 2 ^ 57
  match (if canonical va then s.net.tlb.find? (fun e => e.serves sp false .port kind v) else none) with
  | some e => ((0, e.trans v), s)
  | none =>
    let w := walkSpace s sp false .port kind va
    if w.1.status ≠ 0 then ((w.1.status, none'), s)
    else
      let e := tlbOf sp false w.1 w.2 kind
      ((0, e.trans v), { s.modMem (fun m => setAD m w.1 kind) with net := { s.net with tlb := tlbPut 64 e s.net.tlb } })

/-! ### Walk service (R253) -/

/-- Statuses that the resident kernel serves. -/
def serviced (st : Nat) : Bool := st == 1 || st == 2 || st == 9

def walkKindCode : WalkKind → Nat
  | .read => 0
  | .write => 1
  | .fill => 2

/-- Ask for service: a waiting request and an interrupt to a system core with space, address, kind and status. -/
def askService (s : State) (issuer sp va : Nat) (kind : WalkKind) (st : Nat) : Nat × State :=
  let id := s.mem.nextWalk
  let s1 := s.modMem (fun m => { m with
    walks := AMap.set m.walks id { issuer := issuer, space := sp, va := va, kind := kind, status := st }
    nextWalk := id + 1 })
  (id, s1.modMgmt (fun g => { g with irqs := g.irqs ++ [{ kind := 1, core := 0, data := [sp, va, walkKindCode kind, st] }] }))

/-- The xinfo of a page fault (R249). -/
def faultInfo (st issuer sp : Nat) : Nat := st + 256 * issuer + 65536 * sp

/-- The page fault of an access of the acting thread (R249). -/
def pageFault (s : State) (va : Word) (kind : WalkKind) (st issuer : Nat) : TrapInfo :=
  { cause := if kind = .write then 0x06 else 0x05, addr := va
    info := BitVec.ofNat 64 (faultInfo st issuer s.me.place.spaceid) }

/-- A walk of the acting thread that failed: a serviced status parks for service, a declined or other one traps (R249,
R253). -/
def walkStop (s : State) (va : Word) (kind : WalkKind) (st issuer : Nat) : Eff :=
  if serviced st then
    if s.me.declined = some (va.toNat, st) then .trap s (pageFault s va kind st issuer)
    else
      match askService s (writerOf s.cur.1 s.cur.2) s.me.place.spaceid va.toNat kind st with
      | (id, s2) => .park s2 (.walk id)
  else .trap s (pageFault s va kind st issuer)

end Sys2Proof.Machine
end

