-- ==== Sys2Proof/Machine/Model.lean ====
section
/-! DEFINITION. The abstract machine of chapter 19: reads, held and queued writes, closes, releases, acquires, path
queues and pool accesses (R230-R235, R260-R268, R299, R379-R389). -/

namespace Sys2Proof.Machine

def aBytes : ATy → Nat
  | .i64 => 8
  | .i32 => 4
  | .f32 => 4

/-! ### Paths (R380) -/

def pathKey (src dst idx : Nat) : Nat := src * 64 + dst * 4 + idx

/-- The path from a die to a line's home: index PA[7:6], or 0 on the same die. -/
def pathOf (src hl : Nat) : Nat := pathKey src (lineDie hl) (if src = lineDie hl then 0 else hl % 4)

def Memory.path (m : Memory) (key : Nat) : List Packet := AMap.getD m.paths key []

def Memory.send (m : Memory) (key : Nat) (p : Packet) : Memory :=
  { m with paths := AMap.set m.paths key (m.path key ++ [p]) }

def Memory.hline (m : Memory) (hl : Nat) : HomeLine := AMap.getD m.lines hl HomeLine.reset

/-- A new committed version of a line whose words `ws` a writer writes (M5, M7). -/
def Memory.commit (m : Memory) (hl : Nat) (ws : List Nat) (w : Nat) : Nat × Memory :=
  let h := m.hline hl
  let v := h.commit + 1
  (v, { m with lines := AMap.set m.lines hl { h with
    commit := v
    cw := ws.foldl (fun a i => AMap.set a i v) h.cw
    w := ws.foldl (fun a i => AMap.set a i w) h.w } })

/-- The 32-bit words that byte offsets touch. -/
def wordsOf (offs : List Nat) : List Nat := offs.foldl (fun a o => insertNat (o / 4) a) []

/-- A word mask as a number. -/
def maskOf (ws : List Nat) : Nat := ws.foldl (fun a i => a ||| 2 ^ i) 0

/-- Bytes at an offset as a map. -/
def byteMap (off : Nat) : List Byte → AMap Byte
  | [] => []
  | b :: bs => (off, b) :: byteMap (off + 1) bs

/-! ### The near cache (R240) -/

/-- The near cache is indexed by physical line: the die that the key holds, and the line in its die. -/
def nearIdx (key hl : Nat) : Nat := key / 4096 * 2 ^ 28 + hl % 2 ^ 28

/-- A written line takes the bytes in the issuing core's near cache. -/
def nearMerge (x : Core) (hl key : Nat) (bs : AMap Byte) : Core :=
  match AMap.get x.near (nearIdx key hl) with
  | none => x
  | some n =>
    if n.key ≠ key then x
    else { x with near := AMap.set x.near (nearIdx key hl) { n with
      bytes := bs.foldl (fun l e => setAt l e.1 e.2) n.bytes
      bad := n.bad.filter (fun w => !((List.range 8).all (fun i => (AMap.get bs (8 * w + i)).isSome))) } }

/-- A home read fills the near cache; a 513th line displaces the first one (M13: any line may go). The line stands in
its home slice then. -/
def nearFill (s : State) (c hl key : Nat) : State :=
  let n : NearLine := { key := key, bytes := s.mem.lineBytes hl key 0 64, fv := (s.mem.hline hl).performed,
                        bad := (List.range 8).filter (fun w => s.mem.poisoned (hl * 64 + 8 * w) 8) }
  let i := nearIdx key hl
  (s.modMem (fun m => m.fill hl key)).modCore c (fun x =>
    { x with near := AMap.set (if 512 ≤ x.near.length ∧ (AMap.get x.near i).isNone then x.near.tail else x.near) i n })

/-- The near-cache line of an index goes. -/
def nearDrop (s : State) (c i : Nat) : State := s.modCore c (fun x => { x with near := AMap.del x.near i })

/-- M12: every near-cache line of the core is dropped. -/
def nearClear (s : State) (c : Nat) : State := s.modCore c (fun x => { x with near := [] })

/-! ### A thread's own writes (M1) -/

/-- The stores of a thread to a line that are in path queues or in the write queue, oldest first. -/
def ownWrites (s : State) (c k hl : Nat) : List (AMap Byte) :=
  let ps := (s.mem.path (pathOf (dieOf c) hl)).filterMap (fun p =>
    if p.writer = writerOf c k ∧ p.line = hl then
      (match p.op with
       | .write bs => some bs
       | .reduce _ _ _ _ _ _ _ => none
       | .marker => none)
    else none)
  let qs := (s.thread c k).wq.filterMap (fun q =>
    if q.host = false ∧ q.line = hl then
      (match q.op with
       | .store bs => some (byteMap q.off bs)
       | .reduce _ _ _ _ _ _ => none)
    else none)
  ps ++ qs

/-- A write at the home: bytes that a unit of the device holds keep what that unit last wrote (R37, R38). -/
def homeStore (s : State) (hl key off : Nat) (bs : List Byte) : State :=
  s.modMem (fun m => m.writeMask hl key ((byteMap off bs).filter (fun e => !deviceHeld s (hl * 64 + e.1))))

/-- The youngest own value of a byte of a line: the region buffer first, then the queued writes (M1). A held byte that
the thread has written again past the buffer is not its youngest write (R262, R386; log 102). -/
def ownByte (s : State) (c k hl o : Nat) : Option Byte :=
  let held := match AMap.get (s.thread c k).rgn.held hl with
    | some h => if h.shaded.contains o then none else AMap.get h.bytes o
    | none => none
  if deviceHeld s (hl * 64 + o) then none
  else match held with
  | some b => some b
  | none => (ownWrites s c k hl).foldl (fun a m => match AMap.get m o with
      | some b => some b
      | none => a) none

/-- The youngest own queued value of a byte of host memory. -/
def ownHostByte (s : State) (c k a : Nat) : Option Byte :=
  (s.thread c k).wq.foldl (fun r q =>
    if q.host then
      (match q.op with
       | .store bs => if q.line ≤ a ∧ a < q.line + bs.length then some (bs.getD (a - q.line) 0) else r
       | .reduce _ _ _ _ _ _ => r)
    else r) none

/-- A non-returning reduction of the thread that targets a byte of [off, off + n) of a line is still on its way (M1,
R395). -/
def redPending (s : State) (c k hl off n : Nat) : Bool :=
  (s.mem.path (pathOf (dieOf c) hl)).any (fun p =>
    decide (p.writer = writerOf c k) && decide (p.line = hl) &&
      (match p.op with
       | .reduce o _ ty _ _ _ _ => decide (o < off + n) && decide (off < o + aBytes ty)
       | .write _ => false
       | .marker => false)) ||
  (s.thread c k).wq.any (fun q =>
    !q.host && decide (q.line = hl) &&
      (match q.op with
       | .reduce _ ty _ _ _ _ => decide (q.off < off + n) && decide (off < q.off + aBytes ty)
       | .store _ => false))

/-! ### Translation of the acting thread (R250-R253) -/

/-- The physical address that the compatibility routine predicts for a read, with the attributes of the entry that it
found in the L2 TLB (R252); none outside module DRAM. -/
def predict (s : State) (c sp : Nat) (kind : WalkKind) (va : Nat) : Option (Nat × Nat) :=
  if kind == .read && ((spaceEntry s sp).map SpaceEntry.compat).getD false then
    match (s.cluster (clusterOf c)).l2.find? (fun e =>
        e.space == sp && !e.ispace && e.vbase / 2 ^ 26 == va / 2 ^ 26 && decide (e.vbase ≤ e.pbase + va)) with
    | some e => if e.pbase + va - e.vbase < 2 ^ 38 then some (e.pbase + va - e.vbase, e.attrs) else none
    | none => none
  else none

/-- The translation that a prediction stands for. -/
def predicted (s : State) (sp : Nat) (p : Nat × Nat) : Trans :=
  { pa := p.1, attrs := p.2, keyslot := (match spaceEntry s sp with
      | some x => x.keyslot
      | none => 0) }

/-- The acting thread's L1 misses: an L2 miss goes to the walkers of its die, unless one for the same access is there
already, and a predicted read fills the near cache at once (R251, R252). -/
def missMe (s : State) (va : Nat) (kind : WalkKind) : State :=
  let c := s.cur.1
  let sp := s.me.place.spaceid
  if (s.cluster (clusterOf c)).l2.any (fun e => e.serves sp false .compute kind (va % 2 ^ 57)) ∨
      (s.die (dieOf c)).misses.any (fun m => m.core == c && m.space == sp && m.va == va && m.kind == kind) then s
  else
    let p := (predict s c sp kind (va % 2 ^ 57)).filter (fun p =>
      (AMap.get s.myCore.near (nearIdx (predicted s sp p).key (predicted s sp p).line)).isNone)
    let s1 := match p with
      | some q => nearFill s c (predicted s sp q).line (predicted s sp q).key
      | none => s
    s1.modDie (dieOf c) (fun d => { d with misses := d.misses ++ [{ core := c, space := sp, va := va, kind := kind, pred := p }] })

/-- A held line stands at another home: its bytes join what is held there, or, for host memory, go to the write queue. -/
def moveHeld (t : Thread) (hl : Nat) (h : HeldLine) (tr : Trans) : Thread :=
  let rest := AMap.del t.rgn.held hl
  if tr.host then
    { t with rgn := { t.rgn with held := rest }, wq := t.wq ++ h.bytes.map (fun e =>
      { host := true, line := tr.hostAddr - tr.off + e.1, off := 0, checked := false, key := 0, op := .store [e.2] }) }
  else
    let bytes := match AMap.get rest tr.line with
      | some g => h.bytes.foldl (fun m e => AMap.set m e.1 e.2) g.bytes
      | none => h.bytes
    let h' : HeldLine := { h with pa := tr.pa - tr.off, key := tr.key, bytes := bytes, gone := false }
    { t with rgn := { t.rgn with held := AMap.set rest tr.line h' } }

/-- A held line whose page was lost stands at the home that its address now has (R255). -/
def regain (s : State) (va : Nat) (tr : Trans) : State :=
  match s.me.rgn.held.find? (fun e => e.2.gone && e.2.va / 64 == va / 64) with
  | none => s
  | some e => s.modMe (fun t => moveHeld t e.1 e.2 tr)

/-- Translate an access of the acting thread and go on: an L1 hit goes on, a miss parks until it is served (R250). -/
def withTrans (s : State) (va : Word) (kind : WalkKind) (issuer : Nat) (k : State → Trans → Eff) : Eff :=
  if !canonical va.toNat then walkStop s va kind 6 issuer
  else
    match s.myCore.tlb.find? (fun e => e.serves s.me.place.spaceid false .compute kind (va.toNat % 2 ^ 57)) with
    | some e => k (regain s va.toNat (e.trans (va.toNat % 2 ^ 57))) (e.trans (va.toNat % 2 ^ 57))
    | none =>
      match s.me.declined with
      | some (a, st) =>
        if a = va.toNat then .trap s (pageFault s va kind st issuer)
        else .park (missMe s va.toNat kind) (.tlb va.toNat kind)
      | none => .park (missMe s va.toNat kind) (.tlb va.toNat kind)

/-- A walker serves a miss of a core (R250, R251): the first four misses of a die are in service, once its walkers have
their routines. An answer makes the threads that wait for it ready, a serviced failure asks for service, and any other one
is met on re-execution. A prediction that the walk does not confirm loses the line that it filled (R252). -/
def serveMiss (s : State) (c sp : Nat) (va : Nat) (kind : WalkKind) : State :=
  let mine (m : Miss) : Bool := m.core == c && m.space == sp && m.va == va && m.kind == kind
  let ms := (s.die (dieOf c)).misses
  let wake (f : Nat → State → Thread → State) (s : State) : State :=
    (List.range 4).foldl (fun s k =>
      if (s.thread c k).status = .parked (.tlb va kind) ∧ (s.thread c k).place.spaceid = sp then f k s (s.thread c k) else s) s
  if (ms.any mine && !(ms.take 4).any mine) || (s.die (dieOf c)).routines.isNone then s
  else
    let s0 := if ms.any mine then s.modDie (dieOf c) (fun d => { d with misses := d.misses.filter (fun m => !mine m) }) else s
    match xlateCore s0 c sp kind va with
    | ((0, tr), s1) =>
      let s2 := match (ms.find? mine).bind Miss.pred with
        | some p => if p.1 = tr.pa ∧ fld p.2 54 7 = fld tr.attrs 54 7 then s1
          else nearDrop s1 c (nearIdx (predicted s1 sp p).key (predicted s1 sp p).line)
        | none => s1
      wake (fun k s t => s.setThread c k { t with status := .ready }) s2
    | ((st, _), s1) =>
      let s2 := match (ms.find? mine).bind Miss.pred with
        | some p => nearDrop s1 c (nearIdx (predicted s1 sp p).key (predicted s1 sp p).line)
        | none => s1
      wake (fun k s t =>
        if serviced st then
          (askService s (writerOf c k) sp va kind st).2.setThread c k
            { t with status := .parked (.walk (askService s (writerOf c k) sp va kind st).1) }
        else s.setThread c k { t with status := .ready, declined := some (va, st) }) s2

/-- A held line of a removed page walks again: it stands at its new home, or waits for its close to walk (R255). -/
def rewalkLine (c k : Nat) (s : State) (e : Nat × HeldLine) : State :=
  match xlateCore s c (s.thread c k).place.spaceid .write e.2.va with
  | ((0, tr), s1) =>
    if !tr.host ∧ tr.line = e.1 ∧ tr.key = e.2.key ∧ e.2.gone = false then s1
    else s1.modThread c k (fun t => moveHeld t e.1 e.2 tr)
  | (_, s1) => s1.modThread c k (fun t => { t with rgn := { t.rgn with held := AMap.set t.rgn.held e.1 { e.2 with gone := true } } })

/-! ### Closing a region (M7, R266, R267) -/

/-- Sorted insertion by a key. -/
def insBy {α : Type} (f : α → Nat) (x : α) : List α → List α
  | [] => [x]
  | y :: ys => if f x ≤ f y then x :: y :: ys else y :: insBy f x ys

def sortBy {α : Type} (f : α → Nat) (l : List α) : List α := l.foldr (insBy f) []

/-- The conflicting words of a read-set entry. -/
def conflictMask (m : Memory) (w hl : Nat) (r : ReadLine) : Nat :=
  let h := m.hline hl
  maskOf ((List.range 16).filter (fun i =>
    r.mask.testBit i && decide (r.rv < AMap.getD h.cw i 0) && AMap.get h.w i != some w))

/-- The first conflicting entry in ascending line address. -/
def findConflict (s : State) (c k : Nat) : Option (Nat × Nat) :=
  let rs := sortBy (fun e : Nat × ReadLine => e.2.pa) (s.thread c k).rgn.reads
  rs.findSome? (fun e =>
    let x := conflictMask s.mem (writerOf c k) e.1 e.2
    if x = 0 then none else some (e.2.va, x))

/-- One held line becomes a packet with a new version. -/
def drainLine (s : State) (c k hl : Nat) (h : HeldLine) : State :=
  let v := s.mem.commit hl (wordsOf (AMap.keys h.bytes)) (writerOf c k)
  let p : Packet := { writer := writerOf c k, line := hl, version := some v.1, key := h.key, op := .write h.bytes }
  let s1 := s.modMem (fun _ => v.2.send (pathOf (dieOf c) hl) p)
  let s2 := s1.modCore c (fun x => nearMerge x hl h.key h.bytes)
  s2.modThread c k (fun t => { t with dests := insertNat (lineDie hl) t.dests })

/-- Every held line is drained in ascending line address; the region is new and empty. -/
def drainRegion (s : State) (c k : Nat) : State :=
  let t := s.thread c k
  let s1 := (sortBy (fun e : Nat × HeldLine => e.2.pa) t.rgn.held).foldl
    (fun s e => drainLine s c k e.1 e.2) s
  s1.modThread c k Thread.dropRegion

def conflictTrap (x : Nat × Nat) : TrapInfo :=
  { cause := 0x0C, addr := BitVec.ofNat 64 x.1, info := BitVec.ofNat 64 x.2 }

/-- M7: the pending conflict or a new one is reported, and then nothing else changes; else the region drains. -/
def closeRegion (s : State) (c k : Nat) : Option TrapInfo × State :=
  match (s.thread c k).rgn.conflict with
  | some x => (some (conflictTrap x), s)
  | none =>
    match findConflict s c k with
    | some x => (some (conflictTrap x), s.modThread c k (fun t => { t with rgn := { t.rgn with conflict := some x } }))
    | none => (none, drainRegion s c k)

/-- A home die is in phases 4 and 5 of its reset: accesses to it wait (R449). -/
def dieHeld (s : State) (d : Nat) : Bool := decide (4 ≤ (s.die d).phase)

/-- A held line waits for its home die. -/
def drainHeld (s : State) (c k : Nat) : Bool := (s.thread c k).rgn.held.any (fun e => dieHeld s (lineDie e.1))

/-- Every held line whose page was lost walks again before the region drains, by fuel (R255). -/
def withGone : Nat → State → (State → Eff) → Eff
  | 0, s, k => k s
  | n + 1, s, k =>
    match s.me.rgn.held.find? (fun e => e.2.gone) with
    | none => k s
    | some e => withTrans s (BitVec.ofNat 64 e.2.va) .write 0 (fun s1 _ => withGone n s1 k)

/-- The implicit wait of R315: the siding has completed every older vector instruction of the thread. -/
def withSiding (s : State) (k : Eff) : Eff := if sidingIdle s s.cur.1 s.cur.2 then k else .wait s

/-- Close with validation, then go on (R266). -/
def withClose (s : State) (k : State → Eff) : Eff :=
  withSiding s (
    if drainHeld s s.cur.1 s.cur.2 then .park s (.retry (s.time.cycle + 1))
    else
      withGone s.me.rgn.held.length s (fun s0 =>
        match closeRegion s0 s0.cur.1 s0.cur.2 with
        | (some t, s1) => .trap s1 t
        | (none, s1) => k s1))

/-- The held lines whose page was lost walk once more; those that still do not translate are dropped: their stores were
discarded (R255; log 44). -/
def forceGone (s : State) (c k : Nat) : State :=
  let s1 := ((s.thread c k).rgn.held.filter (fun e => e.2.gone)).foldl (rewalkLine c k) s
  s1.modThread c k (fun t => { t with rgn := { t.rgn with held := t.rgn.held.filter (fun e => !e.2.gone) } })

/-- M8: the region drains without validation; the near copies of the read lines go and the conflict clears. -/
def forceRegion (s : State) (c k : Nat) : State :=
  let ls := (s.thread c k).rgn.reads.map (fun e => e.2.pa / 64)
  let s1 := drainRegion (forceGone s c k) c k
  let s2 := ls.foldl (fun s hl => nearDrop s c hl) s1
  s2.modThread c k (fun t => { t with rgn := { t.rgn with conflict := none } })

/-- M9 by `region.drop`. -/
def discardRegion (s : State) (c k : Nat) : State :=
  let ls := (s.thread c k).rgn.reads.map (fun e => e.2.pa / 64)
  let s2 := ls.foldl (fun s hl => nearDrop s c hl) s
  s2.modThread c k (fun t => { t.dropRegion with rgn := { t.dropRegion.rgn with conflict := none } })

/-- In an open tolerant region at user privilege with no conflict pending the region is not closed (R275). -/
def tolDefers (s : State) : Bool := s.me.tol.isOpen && !s.me.priv && s.me.rgn.conflict.isNone

/-- A boundary of the instructions of chapter 13: a close, or nothing inside a tolerant region (R268, R275). -/
def withBoundary (s : State) (k : State → Eff) : Eff := if tolDefers s then k s else withClose s k

/-- A split: a close that counts (R265). -/
def withSplit (s : State) (k : State → Eff) : Eff :=
  withClose s (fun s1 => k (s1.modMe (fun t => { t with ctl := { t.ctl with rsplits := t.ctl.rsplits + 1 } })))

/-- Trap 0x0D with a sub-cause and an address (R122). -/
def tolTrap (s : State) (sub : Nat) (a : Word) : Eff := .failAt s 0x0D a sub

/-- Put a line into the read set after any split its version needs (R263, R265, M1). -/
def recordRead (s : State) (hl va pa rv mask : Nat) (k : State → Eff) : Eff :=
  let add (s : State) : State := s.modMe (fun t => { t with rgn := { t.rgn with
    reads := AMap.set t.rgn.reads hl { pa := pa, va := va, rv := rv, mask := mask } } })
  if mask = 0 then k s
  else
    match AMap.get s.me.rgn.reads hl with
    | some e =>
      if e.rv = rv ∨ s.me.tol.isOpen then
        k (s.modMe (fun t => { t with rgn := { t.rgn with
          reads := AMap.set t.rgn.reads hl { e with mask := e.mask ||| mask } } }))
      else withSplit s (fun s1 => k (add s1))
    | none =>
      if s.me.rgn.reads.length < 64 then k (add s)
      else if s.me.tol.isOpen then tolTrap s 3 (BitVec.ofNat 64 va)
      else withSplit s (fun s1 => k (add s1))

/-! ### Shutters (R299) -/

/-- A closed shutter of a pool over a byte of [o, o + n). -/
def poolShut (x : Core) (o n : Nat) : Bool :=
  (AMap.vals x.shutters).any (fun h => h.closed && !h.global && decide (h.lo < o + n) && decide (o < h.hi))

/-- A closed global shutter of a core over a virtual address range. -/
def globalShut (x : Core) (a n : Nat) : Bool :=
  (AMap.vals x.shutters).any (fun h => h.closed && h.global && decide (h.lo < a + n) && decide (a < h.hi))

/-- The core and pool offset that a window address names. -/
def windowAt (s : State) (c : Nat) (a : Word) : Option (Nat × Nat) :=
  match decodeAddr a with
  | .own o => some (c, o)
  | .peer q o => some (peerCore s c q, o)
  | .view _ _ => none
  | .badWindow _ => none
  | .global => none
  | .nonCanon => none

/-- The `vst` entries of the slot that are still to write. -/
def vstsOf (x : Core) (k : Nat) : List SeqEntry :=
  x.seq.filter (fun e => e.slot == k && isVst e.instr && !e.void)

/-- A `vst` of the acting thread that has not written yet overlaps [a, a + n): bytes of one pool, whatever window names
it, or a global range (R326). -/
def vstPending (s : State) (a n : Nat) : Bool :=
  let near (x y : Nat) : Bool := decide (y < x + n) && decide (x < y + 32)
  (vstsOf s.myCore s.cur.2).any (fun e =>
    match windowAt s s.cur.1 (BitVec.ofNat 64 a), windowAt s s.cur.1 e.s0 with
    | some p, some q => p.1 == q.1 && near p.2 q.2
    | none, none => near a e.s0.toNat
    | _, _ => false)

/-- The same for the physical addresses that a translated access reaches. -/
def vstMeets (s : State) (pa n : Nat) : Bool :=
  (vstsOf s.myCore s.cur.2).any (fun e => (windowAt s s.cur.1 e.s0).isNone && decide (e.s1.toNat < pa + n) &&
    decide (pa < e.s1.toNat + 32))

/-! ### Pool accesses (M4, R231, R260, R276) -/

/-- The answer entry fits the access of the instruction being re-executed (R261). -/
def answerFor (s : State) (a : Word) (kind : Nat) : Option Answer :=
  match s.me.answer with
  | some e => if e.pc = s.me.pc ∧ e.addr = a ∧ e.kind = kind then some e else none
  | none => none

/-- Make the answer entry for an access and park until it is answered. -/
def askAnswer (s : State) (a : Word) (n kind : Nat) : Eff :=
  let e : Answer := { pc := s.me.pc, addr := a, len := n, kind := kind, ready := false, bytes := [], rv := 0, mask := 0,
                      poison := 0 }
  .park (s.modMe (fun t => { t with answer := some e })) .access

/-- A read of a scratchpad line that the open tolerant pass of a thread has written (R122 sub-cause 1). -/
def tolReadBy (t : Thread) (tc o n : Nat) : Bool :=
  t.tol.isOpen &&
    t.rgn.written.any (fun w => decide (w / 2 ^ 40 = tc) && decide (w % 2 ^ 40 < o + n) && decide (o < w % 2 ^ 40 + 64))

def tolRead (s : State) (tc o n : Nat) : Bool := !s.me.priv && tolReadBy s.me tc o n

/-- Count a scratchpad line in the written-line set of an open tolerant pass (R121); nothing when the set is full. -/
def tolWriteBy (s : State) (c k tc o : Nat) : Option State :=
  let t := s.thread c k
  if t.tol.isOpen && inScratch (s.core tc).part o 1 then
    let w := tc * 2 ^ 40 + o / 64 * 64
    if t.rgn.written.contains w then some s
    else if t.rgn.written.length < 64 then
      some (s.modThread c k (fun t => { t with rgn := { t.rgn with written := insertNat w t.rgn.written } }))
    else none
  else some s

def tolWrite (s : State) (tc o : Nat) : Option State :=
  if s.me.priv then some s else tolWriteBy s s.cur.1 s.cur.2 tc o

/-- Read n bytes of a pool by the acting thread, already checked: shutters park, a tolerant read of a written line
and poison trap. -/
def poolRead (s : State) (a : Word) (tc o n : Nat) (k : State → List Byte → Eff) : Eff :=
  if poolShut (s.core tc) o n || vstPending s a.toNat n then .park s .shutter
  else if tolRead s tc o n then tolTrap s 1 a
  else if (s.core tc).poisoned o n then .failAt s 0x11 a 1
  else k s ((s.core tc).bytes o n)

/-- Write bytes to a pool by the acting thread, already checked. -/
def poolWrite (s : State) (a : Word) (tc o : Nat) (bs : List Byte) (k : State → Eff) : Eff :=
  if poolShut (s.core tc) o bs.length || vstPending s a.toNat bs.length then .park s .shutter
  else
    match tolWrite s tc o with
    | none => tolTrap s 3 (BitVec.ofNat 64 (a.toNat / 64 * 64))
    | some s1 => k (s1.modCore tc (fun x => x.putBytes o bs))

/-! ### Global reads (M1) -/

/-- The bytes of a DRAM line range with the thread's own writes laid over them, and the words that the base gave. -/
def overlay (s : State) (c k hl off : Nat) (base : List Byte) : List Byte × Nat :=
  let xs := (List.range base.length).map (fun i => (i, ownByte s c k hl (off + i)))
  (xs.map (fun e => match e.2 with
      | some b => b
      | none => base.getD e.1 0),
   maskOf (wordsOf (xs.filterMap (fun e => match e.2 with
      | some _ => none
      | none => some (off + e.1)))))

/-- Is some byte of the range not supplied by the thread's own writes? -/
def needsBase (s : State) (c k hl off n : Nat) : Bool :=
  (List.range n).any (fun i => (ownByte s c k hl (off + i)).isNone)

/-- The codewords of bytes [off, off + n) of a line of which the base gives some byte of the range: those that a read
consumes there (R282). -/
def baseWords (s : State) (c k hl off n : Nat) : List Nat :=
  (List.range 8).filter (fun w => (List.range n).any (fun i => (off + i) / 8 == w && (ownByte s c k hl (off + i)).isNone))

/-- The codewords that n bytes at an offset of a line touch. -/
def rangeWords (off n : Nat) : List Nat :=
  (List.range 8).filter (fun w => decide (w * 8 < off + n) && decide (off < w * 8 + 8))

/-- The unit that supplies a poisoned codeword of a home line (R237): the home slice for a line that it holds, else
DRAM; 0 when none is poisoned. -/
def homePoison (m : Memory) (hl : Nat) (ws : List Nat) : Nat :=
  if ws.any (fun w => m.poisoned (hl * 64 + 8 * w) 8) then (if (m.entry hl).isSome then 3 else 4) else 0

/-- Poison in a near-cache line. -/
def nearPoison (x : NearLine) (ws : List Nat) : Bool := x.bad.any (fun w => ws.contains w)

/-- A finished read: a read of a checked page at user privilege that is recorded enters the read set (R263, R264);
reads of content pages are never recorded (R354). Poison traps after what the recording meets, and a read that traps is
not recorded (R259, R263). -/
def endRead (s : State) (a : Word) (tr : Trans) (rec' : Bool) (bytes : List Byte) (rv mask poison : Nat)
    (k : State → List Byte → Eff) : Eff :=
  let rec1 (k : State → Eff) : Eff :=
    if rec' && tr.checked && !tr.content && !s.me.priv then
      recordRead s tr.line (a.toNat - tr.off) (tr.pa - tr.off) rv mask k
    else k s
  if poison = 0 then rec1 (fun s1 => k s1 bytes)
  else
    match rec1 Eff.ok with
    | .ok _ => .failAt s 0x11 a poison
    | e => e

/-- A global read of n bytes within one line: own writes, then the near cache (unless `home`), then the home, which
parks until its answer arrives. -/
def globalRead (s : State) (a : Word) (tr : Trans) (n : Nat) (home rec' : Bool) (k : State → List Byte → Eff) : Eff :=
  let c := s.cur.1
  let q := s.cur.2
  let kind := if home then 2 else 0
  if vstMeets s tr.pa n then .park s .shutter
  else if tr.host then
    match answerFor s a kind with
    | some e => if e.ready then k s e.bytes else .park s .access
    | none =>
      if (List.range n).all (fun i => (ownHostByte s c q (tr.hostAddr + i)).isSome) then
        k s ((List.range n).map (fun i => (ownHostByte s c q (tr.hostAddr + i)).getD 0))
      else askAnswer s a n kind
  else if dieHeld s (lineDie tr.line) then .park s (.retry (s.time.cycle + 1))
  else if redPending s c q tr.line tr.off n then .park (nearDrop s c (nearIdx tr.key tr.line)) (.retry (s.time.cycle + 1))
  else
    match answerFor s a kind with
    | some e =>
      if e.ready then endRead s a tr rec' e.bytes e.rv e.mask e.poison k else .park s .access
    | none =>
      if needsBase s c q tr.line tr.off n = false then
        endRead s a tr rec' (overlay s c q tr.line tr.off (List.replicate n 0)).1 0 0 0 k
      else
        match (if home then none else AMap.get (s.core c).near (nearIdx tr.key tr.line)) with
        | some x =>
          if x.key = tr.key then
            let r := overlay s c q tr.line tr.off ((x.bytes.drop tr.off).take n)
            endRead s a tr rec' r.1 x.fv r.2 (if nearPoison x (baseWords s c q tr.line tr.off n) then 2 else 0) k
          else askAnswer s a n kind
        | none => askAnswer s a n kind

/-- The home's answer to a parked read of thread (c, q): the bytes with the thread's own writes over them; a read
that is not an acquire fills the near cache (M1). -/
def homeAnswer (s : State) (c q : Nat) (tr : Trans) (e : Answer) : State :=
  let fillIt := e.kind = 0
  let r := overlay s c q tr.line tr.off (s.mem.lineBytes tr.line tr.key tr.off e.len)
  let e' : Answer := { e with ready := true, bytes := r.1, rv := (s.mem.hline tr.line).performed, mask := r.2,
                              poison := homePoison s.mem tr.line (baseWords s c q tr.line tr.off e.len) }
  let s1 := if fillIt then nearFill s c tr.line tr.key else s.modMem (fun m => m.fill tr.line tr.key)
  s1.modThread c q (fun t => { t with answer := some e' })

/-! ### Global writes (M2, M3) -/

/-- A `vst` that has reserved a place in the write queue: it is global, and not held in the region buffer. -/
def vstQueued (e : SeqEntry) : Bool :=
  isVst e.instr && !e.void && decide (wfld e.s0 56 8 ≠ 0xFE) &&
    (e.priv || decide (2 ^ 52 ≤ e.s1.toNat) || !e.s2.getLsbD 56)

/-- The entries of a core's write queue that its slots' writes and reserved stores take (R263, R326). -/
def wqCount (x : Core) : Nat :=
  x.slots.foldl (fun n e => n + e.2.wq.length) 0 + (x.seq.filter vstQueued).length

/-- The write queue of a core has 32 entries. -/
def wqFull (x : Core) : Bool := decide (32 ≤ wqCount x)

/-- The bytes of a write that passes the region buffer shade what the thread holds for them (R262). -/
def shade (r : Region) (w : QWrite) : Region :=
  if w.host then r
  else
    match AMap.get r.held w.line, w.op with
    | some h, .store bs =>
      let h' : HeldLine := { h with shaded := (AMap.keys (byteMap w.off bs)).foldl (fun l o => insertNat o l) h.shaded }
      { r with held := AMap.set r.held w.line h' }
    | _, _ => r

/-- Append to the write queue, or park until an entry frees. -/
def pushWq (s : State) (w : QWrite) (k : State → Eff) : Eff :=
  if wqFull s.myCore then .park s .writeQueue
  else k (s.modMe (fun t => { t with wq := t.wq ++ [w], rgn := shade t.rgn w }))

/-- Bytes enter a held line. -/
def HeldLine.put (h : HeldLine) (bs : AMap Byte) : HeldLine :=
  { h with bytes := bs.foldl (fun m e => AMap.set m e.1 e.2) h.bytes
           shaded := h.shaded.filter (fun o => (AMap.get bs o).isNone) }

/-- The held line of a translation, or a new one. -/
def heldOf (r : Region) (a : Nat) (tr : Trans) : HeldLine :=
  match AMap.get r.held tr.line with
  | some h => h
  | none => { pa := tr.pa - tr.off, va := a - tr.off, key := tr.key, bytes := [], shaded := [], gone := false }

/-- Bytes enter the region buffer (M2); a 65th line splits, or traps inside a tolerant region. -/
def holdWrite (s : State) (a : Word) (tr : Trans) (bs : List Byte) (k : State → Eff) : Eff :=
  let put (s : State) : State := s.modMe (fun t =>
    { t with rgn := { t.rgn with
      held := AMap.set t.rgn.held tr.line ((heldOf t.rgn a.toNat tr).put (byteMap tr.off bs)) } })
  if (AMap.get s.me.rgn.held tr.line).isSome || decide (s.me.rgn.held.length < 64) then k (put s)
  else if s.me.tol.isOpen then tolTrap s 3 (BitVec.ofNat 64 (a.toNat - tr.off))
  else withSplit s (fun s1 => k (put s1))

/-- A global write of bytes within one line. `own` marks the own write of a release. -/
def globalWrite (s : State) (a : Word) (tr : Trans) (bs : List Byte) (own : Bool) (k : State → Eff) : Eff :=
  if vstMeets s tr.pa bs.length then .park s .shutter
  else if !tr.host && tr.checked && !s.me.priv && (!own || tolDefers s) then holdWrite s a tr bs k
  else if tr.host then
    pushWq s { host := true, line := tr.hostAddr, off := 0, checked := false, key := tr.key, op := .store bs } k
  else
    pushWq s { host := false, line := tr.line, off := tr.off, checked := tr.checked, key := tr.key,
               op := .store bs } k

/-! ### Steps of the queues (M5, M6) -/

/-- The write of a packet that thread (c, k)'s oldest queue entry becomes (M5). -/
def dispatchWrite (s : State) (c k : Nat) (q : QWrite) : State :=
  if q.host then
    match q.op with
    | .store bs => s.modMem (fun m => { m with host := Cells.putN m.host q.line bs })
    | .reduce _ _ _ _ _ _ => s
  else
    let offs := match q.op with
      | .store bs => AMap.keys (byteMap q.off bs)
      | .reduce _ ty _ _ _ _ => (List.range (aBytes ty)).map (fun i => q.off + i)
    let v := if q.checked then
        let r := s.mem.commit q.line (wordsOf offs) (writerOf c k)
        (some r.1, r.2)
      else (none, s.mem)
    let op := match q.op with
      | .store bs => PacketOp.write (byteMap q.off bs)
      | .reduce o ty u r x b => PacketOp.reduce q.off o ty u r x b
    let p : Packet := { writer := writerOf c k, line := q.line, version := v.1, key := q.key, op := op }
    let s1 := s.modMem (fun _ => v.2.send (pathOf (dieOf c) q.line) p)
    let s2 := match q.op with
      | .store bs => s1.modCore c (fun x => nearMerge x q.line q.key (byteMap q.off bs))
      | .reduce _ _ _ _ _ _ => nearDrop s1 c (nearIdx q.key q.line)
    s2.modThread c k (fun t => { t with dests := insertNat (lineDie q.line) t.dests })

/-- M5 of a thread's queue: the oldest write is dispatched. -/
def dispatchOldest (s : State) (c k : Nat) : State :=
  match (s.thread c k).wq with
  | [] => s
  | q :: qs => dispatchWrite (s.modThread c k (fun t => { t with wq := qs })) c k q

/-- A write by an agent outside the cores (a system core, a port, the host link; M3 and M5 at once, from die 0). -/
def outsideWrite (s : State) (w : Nat) (tr : Trans) (bs : List Byte) : State :=
  if tr.host then s.modMem (fun m => { m with host := Cells.putN m.host tr.hostAddr bs })
  else
    let v := if tr.checked then
        let r := s.mem.commit tr.line (wordsOf (AMap.keys (byteMap tr.off bs))) w
        (some r.1, r.2)
      else (none, s.mem)
    s.modMem (fun _ => v.2.send (pathOf 0 tr.line)
      { writer := w, line := tr.line, version := v.1, key := tr.key, op := .write (byteMap tr.off bs) })

/-- A read by such an agent at the home, with its own writes in flight laid over it. -/
def outsideRead (s : State) (w : Nat) (tr : Trans) (n : Nat) : List Byte :=
  if tr.host then Cells.getN s.mem.host tr.hostAddr n
  else
    let base := s.mem.lineBytes tr.line tr.key tr.off n
    (s.mem.path (pathOf 0 tr.line)).foldl (fun bs p =>
      if p.writer = w ∧ p.line = tr.line then
        (match p.op with
         | .write m => (List.range n).map (fun i => match AMap.get m (tr.off + i) with
             | some b => b
             | none => bs.getD i 0)
         | .reduce _ _ _ _ _ _ _ => bs
         | .marker => bs)
      else bs) base

/-- An engine's write of bytes of a line: an unversioned packet from the die of its cluster (M16). -/
def engineWrite (s : State) (cl q hl key : Nat) (bs : AMap Byte) : State :=
  s.modMem (fun m => m.send (pathOf (cl / 32) hl)
    { writer := 32768 + cl * 2 + q, line := hl, version := none, key := key, op := .write bs })

/-- Packets of an engine that have not performed (M17). -/
def enginePending (s : State) (cl q : Nat) : Bool :=
  s.mem.paths.any (fun e => e.2.any (fun p => decide (p.writer = 32768 + cl * 2 + q)))

/-! ### Releases and acquires (M10-M12, R257) -/

/-- An acknowledged write of the thread is in its queue or in a path queue. -/
def ackedPending (s : State) (c k : Nat) : Bool :=
  (s.thread c k).wq.any (fun q => match q.op with
    | .store _ => true
    | .reduce _ _ _ _ _ _ => false) ||
  s.mem.paths.any (fun e => e.2.any (fun p => decide (p.writer = writerOf c k) &&
    (match p.op with
     | .write _ => true
     | .reduce _ _ _ _ _ _ _ => false
     | .marker => false)))

def scopeWide : Scope → Bool
  | .mod => true
  | .sys => true
  | .core => false
  | .clu => false
  | .die => false

/-- The paths from a die to every die of a set (R389: four to another die, one to its own). -/
def markerPaths (src : Nat) (ds : List Nat) : List Nat :=
  ds.flatMap (fun d => if d = src then [pathKey src d 0] else [0, 1, 2, 3].map (pathKey src d))

/-- M10: markers enter every path to every die of D; D empties. -/
def sendMarkers (s : State) (c k : Nat) (r : Release) : State :=
  let ps := markerPaths (dieOf c) (s.thread c k).dests
  let m1 := ps.foldl (fun m key => m.send key
    { writer := writerOf c k, line := 0, version := none, key := 0, op := .marker }) s.mem
  let s1 := s.modMem (fun _ => { m1 with gathered := AMap.set m1.gathered (writerOf c k) 0 })
  s1.modThread c k (fun t => { t with dests := [], rel := some { r with sent := true, need := ps.length } })

/-- The wait of a pending release may end (M11). -/
def releaseDone (s : State) (c k : Nat) (r : Release) : Bool :=
  !ackedPending s c k &&
    (!scopeWide r.scope || (r.sent && decide (r.need ≤ AMap.getD s.mem.gathered (writerOf c k) 0)))

/-- The wait part of a release at a scope: the first execution starts it, a re-execution goes on with it (R272). -/
def withRelease (s : State) (scope : Scope) (k : State → Eff) : Eff :=
  withSiding s (
  let c := s.cur.1
  let q := s.cur.2
  let r : Release := match s.me.rel with
    | some r => if r.pc = s.me.pc then r else { pc := s.me.pc, scope := scope, sent := false, need := 0 }
    | none => { pc := s.me.pc, scope := scope, sent := false, need := 0 }
  let s1 := s.modMe (fun t => { t with rel := some r })
  let s2 := if scopeWide scope && !r.sent && s1.me.wq.isEmpty then sendMarkers s1 c q r else s1
  match s2.me.rel with
  | some r2 => if releaseDone s2 c q r2 then k (s2.modMe (fun t => { t with rel := none })) else .park s2 .release
  | none => .park s2 .release)

def scopeNum : Scope → Nat
  | .core => 0
  | .clu => 1
  | .die => 2
  | .mod => 3
  | .sys => 4

/-- The release part of an instruction of chapter 13: deferred inside a tolerant region (R275). -/
def withReleasePart (s : State) (scope : Scope) (k : State → Eff) : Eff :=
  if tolDefers s then
    k (s.modMe (fun t => { t with tol := { t.tol with deferred := max t.tol.deferred (scopeNum scope + 1) } }))
  else withRelease s scope k

/-- The acquire part: wider than .core, every near-cache line of the core goes (M12). -/
def acquirePart (s : State) (scope : Scope) : State :=
  match scope with
  | .core => s
  | .clu => nearClear s s.cur.1
  | .die => nearClear s s.cur.1
  | .mod => nearClear s s.cur.1
  | .sys => nearClear s s.cur.1

/-- A close followed by a release at a scope: what the submissions and the synchronising instructions make (R268). -/
def closeRelease (s : State) (scope : Scope) (k : State → Eff) : Eff :=
  withClose s (fun s1 => withRelease s1 scope k)

end Sys2Proof.Machine
end

