-- ==== Sys2Proof/Machine/Access.lean ====
section
/-! DEFINITION. One access of the acting thread through the address map: reads and writes of any address, tagged
words, and the walks that ask for no service (R230-R232, R258-R262, R276-R279). -/

namespace Sys2Proof.Machine

/-- Trap 0x04 unless an address is a multiple of n (R258). -/
def aligned (s : State) (a : Word) (n : Nat) (k : Eff) : Eff :=
  if a.toNat % n = 0 then k else .failAt s 0x04 a n

/-- The window checks that come before a region close (R259 item 2). -/
def windowCheck (s : State) (a : Word) (n : Nat) (write : Bool) : Option TrapInfo :=
  match decodeAddr a with
  | .own _ => match poolTarget s s.cur.1 s.me.priv a n with
    | .inl t => some t
    | .inr _ => none
  | .peer _ _ => match poolTarget s s.cur.1 s.me.priv a n with
    | .inl t => some t
    | .inr _ => none
  | .view sub off =>
    if write then some (windowTrap a)
    else if n ≠ 8 ∨ a.toNat % 8 ≠ 0 then some { cause := 0x04, addr := a, info := 8 }
    else if 3 < sub ∨ 4096 ≤ off then some (windowTrap a)
    else none
  | .badWindow _ => some (windowTrap a)
  | .global => none
  | .nonCanon => none

def checkWindow (s : State) (a : Word) (n : Nat) (write : Bool) (k : Eff) : Eff :=
  match windowCheck s a n write with
  | some t => .trap s t
  | none => k

/-- A read through a peer window: the answer carries the bytes (R260, R261). -/
def peerRead (s : State) (a : Word) (tc o n : Nat) (k : State → List Byte → Eff) : Eff :=
  match answerFor s a 0 with
  | some e =>
    if e.ready then (if e.poison ≠ 0 then .failAt s 0x11 a e.poison else k s e.bytes) else .park s .access
  | none => if tolRead s tc o n then tolTrap s 1 a else askAnswer s a n 0

/-- Read n bytes at any address; `home` is an acquire wider than .core, `rec'` joins the read set. -/
def readAny (s : State) (a : Word) (n issuer : Nat) (home rec' : Bool) (k : State → List Byte → Eff) : Eff :=
  match windowCheck s a n false with
  | some t => .trap s t
  | none =>
    match decodeAddr a with
    | .own o => poolRead s a s.cur.1 o n k
    | .peer q o => peerRead s a (peerCore s s.cur.1 q) o n k
    | .view _ _ => peerRead s a s.cur.1 (2 ^ 40) n k
    | .badWindow _ => .trap s (windowTrap a)
    | .global =>
      if globalShut s.myCore a.toNat n || vstPending s a.toNat n then .park s .shutter
      else withTrans s a .read issuer (fun s1 tr => globalRead s1 a tr n home rec' k)
    | .nonCanon => withTrans s a .read issuer (fun s1 tr => globalRead s1 a tr n home rec' k)

/-- Write bytes at any address; `own` marks the own write of a release. -/
def writeAny (s : State) (a : Word) (bs : List Byte) (issuer : Nat) (own : Bool) (k : State → Eff) : Eff :=
  match windowCheck s a bs.length true with
  | some t => .trap s t
  | none =>
    match decodeAddr a with
    | .own o => poolWrite s a s.cur.1 o bs k
    | .peer q o =>
      match answerFor s a 1 with
      | some e => if e.ready then poolWrite s a (peerCore s s.cur.1 q) o bs k else .park s .access
      | none => askAnswer s a bs.length 1
    | .view _ _ => .trap s (windowTrap a)
    | .badWindow _ => .trap s (windowTrap a)
    | .global =>
      if globalShut s.myCore a.toNat bs.length || vstPending s a.toNat bs.length then .park s .shutter
      else withTrans s a .write issuer (fun s1 tr => globalWrite s1 a tr bs own k)
    | .nonCanon => withTrans s a .write issuer (fun s1 tr => globalWrite s1 a tr bs own k)

/-- A translation that asks for no service and never traps: global DRAM only (R279, R281). -/
def softTrans (s : State) (a : Word) : Option Trans × State :=
  match decodeAddr a with
  | .global =>
    match xlateCore s s.cur.1 s.me.place.spaceid .read a.toNat with
    | ((0, tr), s1) => if tr.host then (none, s1) else (some tr, s1)
    | (_, _) => (none, s)
  | .own _ => (none, s)
  | .peer _ _ => (none, s)
  | .view _ _ => (none, s)
  | .badWindow _ => (none, s)
  | .nonCanon => (none, s)

/-! ### Tagged words (R276, R277) -/

/-- The core and offset of a tagged access: the scratchpad through window 0 or 1, else trap 0x0A. -/
def tagTarget (s : State) (a : Word) (n : Nat) : TrapInfo ⊕ (Nat × Nat) :=
  match windowAt s s.cur.1 a with
  | none => .inl (windowTrap a)
  | some p =>
    if inScratch (s.core p.1).part p.2 n then
      match poolCheck s p.1 s.me.priv a p.2 n with
      | some t => .inl t
      | none => .inr p
    else .inl (windowTrap a)

/-- An access through window 1. -/
def isPeer (a : Word) : Bool :=
  match decodeAddr a with
  | .peer _ _ => true
  | .own _ => false
  | .view _ _ => false
  | .badWindow _ => false
  | .global => false
  | .nonCanon => false

/-- Are all words of [o, o + n) full? -/
def Core.allFull (x : Core) (o n : Nat) : Bool := (List.range (n / 4)).all (fun i => x.tagFull (o + 4 * i))
def Core.allEmpty (x : Core) (o n : Nat) : Bool := (List.range (n / 4)).all (fun i => !x.tagFull (o + 4 * i))

/-- A tag of a pool line changed: the own-pool waiters parked on the line become ready (R276). -/
def wakeTag (s : State) (c line : Nat) : State :=
  s.modCore c (fun x => { x with slots := x.slots.map (fun e =>
    (e.1, if e.2.status = .parked (.tag c line) then { e.2 with status := .ready } else e.2)) })

/-- Set the tags of [o, o + n), at most 64 bytes, and wake the waiters of each line touched. -/
def setTagsWake (s : State) (c o n : Nat) (full : Bool) : State :=
  let s1 := wakeTag (s.modCore c (fun x => x.setTags o n full)) c (o / 64 * 64)
  if o % 64 + n ≤ 64 then s1 else wakeTag s1 c (o / 64 * 64 + 64)

/-- The effect of a tagged load on a pool whose tags allow it. -/
def tagLoad (s : State) (tc o n : Nat) (keep : Bool) : State := if keep then s else setTagsWake s tc o n false

/-- The effect of a tagged store. -/
def tagStore (s : State) (tc o : Nat) (bs : List Byte) : State :=
  setTagsWake (s.modCore tc (fun x => x.putBytes o bs)) tc o bs.length true

/-- A request that a pool holds is still wanted: its thread's answer entry was made for it (R261, R277). -/
def tagWanted (s : State) (tc : Nat) (r : TagReq) : Bool :=
  match (s.thread r.core r.slot).answer with
  | some e => !e.ready && e.pc == r.pc && e.len == 4 * r.words && e.kind == (if r.store.isSome then 5 else 4) &&
      windowAt s r.core e.addr == some (tc, r.off)
  | none => false

/-- The acting thread's tagged request to a peer pool: it is held, or refused when the pool holds 16 (R277). The thread
has no answer entry then, so what it asked before is withdrawn. -/
def askTagged (s : State) (a : Word) (tc : Nat) (r : TagReq) (n kind : Nat) : Eff :=
  let live := (s.core tc).tagReqs.filter (fun q => !(q.core == r.core && q.slot == r.slot) && tagWanted s tc q)
  if 16 ≤ live.length then .park s (.retry (s.time.cycle + 64))
  else askAnswer (s.modCore tc (fun x => { x with tagReqs := live ++ [r] })) a n kind

/-- The acting thread's tagged request. -/
def tagReq (s : State) (o words : Nat) (keep : Bool) (store : Option (List Byte)) : TagReq :=
  { core := s.cur.1, slot := s.cur.2, pc := s.me.pc, off := o, words := words, keep := keep, store := store }

/-- `ld.wf` on n bytes. -/
def taggedRead (s : State) (a : Word) (n : Nat) (keep : Bool) (k : State → List Byte → Eff) : Eff :=
  match tagTarget s a n with
  | .inl t => .trap s t
  | .inr (tc, o) =>
    match answerFor s a 4 with
    | some e =>
      if e.ready then
        (if e.poison ≠ 0 then .failAt s 0x11 a e.poison
         else k (if keep then s else (tolWrite s tc o).getD s) e.bytes)
      else .park s .access
    | none =>
      if poolShut (s.core tc) o n || vstPending s a.toNat n then .park s .shutter
      else if tolRead s tc o n then tolTrap s 1 a
      else
        match (if keep then some s else tolWrite s tc o) with
        | none => tolTrap s 3 (BitVec.ofNat 64 (a.toNat / 64 * 64))
        | some s1 =>
          if isPeer a then
            askTagged s a tc (tagReq s o (n / 4) keep none) n 4
          else if (s.core tc).allFull o n = false then .park s (.tag tc (o / 64 * 64))
          else if (s.core tc).poisoned o n then .failAt s 0x11 a 1
          else k (tagLoad s1 tc o n keep) ((s.core tc).bytes o n)

/-- `st.we` of bytes. -/
def taggedWrite (s : State) (a : Word) (bs : List Byte) (k : State → Eff) : Eff :=
  match tagTarget s a bs.length with
  | .inl t => .trap s t
  | .inr (tc, o) =>
    match answerFor s a 5 with
    | some e => if e.ready then k ((tolWrite s tc o).getD s) else .park s .access
    | none =>
      if poolShut (s.core tc) o bs.length || vstPending s a.toNat bs.length then .park s .shutter
      else
        match tolWrite s tc o with
        | none => tolTrap s 3 (BitVec.ofNat 64 (a.toNat / 64 * 64))
        | some s1 =>
          if isPeer a then
            askTagged s a tc (tagReq s o (bs.length / 4) false (some bs)) bs.length 5
          else if (s.core tc).allEmpty o bs.length = false then .park s (.tag tc (o / 64 * 64))
          else k (tagStore s1 tc o bs)

/-- The 16 tags of a pool line as a number. -/
def Core.lineTags (x : Core) (o : Nat) : Nat :=
  maskOf ((List.range 16).filter (fun i => x.tagFull (o + 4 * i)))

/-- Set the tags of a line that a mask selects. -/
def setLineTags (s : State) (c o mask : Nat) (full : Bool) : State :=
  wakeTag (s.modCore c (fun x =>
    foldUp 16 (fun i y => if mask.testBit i then y.setTag (o + 4 * i) full else y) x)) c o

/-- A change of a line's tags by `tag` (R278). -/
def tagChange (s : State) (a : Word) (mask : Nat) (full : Bool) (k : State → Eff) : Eff :=
  match tagTarget s a 64 with
  | .inl t => .trap s t
  | .inr (tc, o) =>
    if poolShut (s.core tc) o 64 || vstPending s a.toNat 64 then .park s .shutter
    else if isPeer a && (match answerFor s a 1 with
        | some e => !e.ready
        | none => true) then
      (match answerFor s a 1 with
       | some _ => .park s .access
       | none => askAnswer s a 64 1)
    else
      match tolWrite s tc o with
      | none => tolTrap s 3 a
      | some s1 => k (setLineTags s1 tc o mask full)

/-- A read of a line's tags by `tag.rd`. -/
def tagRead (s : State) (a : Word) (k : State → Nat → Eff) : Eff :=
  match tagTarget s a 64 with
  | .inl t => .trap s t
  | .inr (tc, o) =>
    if poolShut (s.core tc) o 64 || vstPending s a.toNat 64 then .park s .shutter
    else if tolRead s tc o 64 then tolTrap s 1 a
    else if isPeer a then
      match answerFor s a 6 with
      | some e => if e.ready then k s (ofBytes e.bytes) else .park s .access
      | none => askAnswer s a 64 6
    else k s ((s.core tc).lineTags o)

end Sys2Proof.Machine
end

