-- ==== Sys2Proof/Machine/ScalarMem.lean ====
section
/-! DEFINITION. Load, store and region instructions: opcodes 0x40 to 0x4D (R256-R282). -/

namespace Sys2Proof.Machine

/-- The bytes of a loaded value, extended (R269). -/
def extend (u : Bool) (bs : List Byte) : Word :=
  if u then zextW (ofBytes bs) (8 * bs.length) else sextW (ofBytes bs) (8 * bs.length)

/-- The low n bytes of a source. -/
def lowBytes (n : Nat) (w : Word) : List Byte := toBytes n w.toNat

def effLd (t : ITy) (u : Bool) (a : Fin 64) (b : Mem) (s : State) : Eff :=
  let m := memAddr s b (iBytes t)
  aligned s m (iBytes t) (readAny s m (iBytes t) 0 false true (fun s1 x => .ok (s1.wrG a.val (extend u x))))

def effSt (t : ITy) (a : Mem) (b : GSrc) (s : State) : Eff :=
  let m := memAddr s a (iBytes t)
  aligned s m (iBytes t) (writeAny s m (lowBytes (iBytes t) (readGSrc s b)) 0 false Eff.ok)

/-- The scopes whose acquire reads at the home (R271). -/
def scopeHome : Scope → Bool
  | .core => false
  | .clu => true
  | .die => true
  | .mod => true
  | .sys => true

def effLdAcq (t : ITy) (n : Scope) (u : Bool) (a : Fin 64) (b : Mem) (s : State) : Eff :=
  let m := memAddr s b (iBytes t)
  aligned s m (iBytes t) (checkWindow s m (iBytes t) false (withBoundary s (fun s1 =>
    readAny s1 m (iBytes t) 0 (scopeHome n) false (fun s2 x =>
      .ok ((acquirePart s2 n).wrG a.val (extend u x))))))

def effStRel (t : ITy) (n : Scope) (a : Mem) (b : GSrc) (s : State) : Eff :=
  let m := memAddr s a (iBytes t)
  aligned s m (iBytes t) (checkWindow s m (iBytes t) true (withBoundary s (fun s1 =>
    withReleasePart s1 n (fun s2 => writeAny s2 m (lowBytes (iBytes t) (readGSrc s b)) 0 true Eff.ok))))

def effLdWf (t : PTy) (keep u : Bool) (a : Fin 64) (b : Mem) (s : State) : Eff :=
  let m := memAddr s b (pBytes t)
  aligned s m (pBytes t) (taggedRead s m (pBytes t) keep (fun s1 x => .ok (s1.wrG a.val (extend u x))))

def effStWe (t : PTy) (a : Mem) (b : GSrc) (s : State) : Eff :=
  let m := memAddr s a (pBytes t)
  aligned s m (pBytes t) (taggedWrite s m (lowBytes (pBytes t) (readGSrc s b)) Eff.ok)

def effTagRd (a : Fin 64) (b : Mem) (s : State) : Eff :=
  let m := memAddr s b 8
  aligned s m 64 (tagRead s m (fun s1 x => .ok (s1.wrG a.val (zextW x 16))))

def effTagFull (a : Mem) (b : GSrc) (s : State) : Eff :=
  let m := memAddr s a 8
  aligned s m 64 (tagChange s m (wfld (readGSrc s b) 0 16) true Eff.ok)

def effTagEmpty (a : Mem) (b : GSrc) (s : State) : Eff :=
  let m := memAddr s a 8
  aligned s m 64 (tagChange s m (wfld (readGSrc s b) 0 16) false Eff.ok)

def effPref (a : Mem) (s : State) : Eff :=
  match softTrans s (memAddr s a 8) with
  | (some tr, s1) => if dieHeld s1 (lineDie tr.line) then .ok s1 else .ok (nearFill s1 s1.cur.1 tr.line tr.key)
  | (none, s1) => .ok s1

/-- `cfl`: a translation as a load, then a wait until the home slice has written the line to DRAM (R280); `cfl.evict`
also takes the line from the slice. -/
def flushLine (evict : Bool) (a : Mem) (s : State) : Eff :=
  let m := memAddr s a 8
  if wfld m 56 8 = 0xFE then .ok s
  else
    withTrans s m .read 0 (fun s1 tr =>
      if tr.host then .ok s1
      else
        match answerFor s1 m (if evict then 7 else 3) with
        | some e => if e.ready then .ok s1 else .park s1 .access
        | none =>
          if s1.mem.dirty.contains tr.line then askAnswer s1 m 64 (if evict then 7 else 3)
          else .ok (if evict then s1.modMem (fun m => m.evict (fun e => e.line == tr.line)) else s1))

def effCfl (a : Mem) (s : State) : Eff := flushLine false a s
def effCflEvict (a : Mem) (s : State) : Eff := flushLine true a s

def effCinv (a : Mem) (s : State) : Eff :=
  match softTrans s (memAddr s a 8) with
  | (some tr, s1) => .ok (nearDrop s1 s1.cur.1 (nearIdx tr.key tr.line))
  | (none, s1) => .ok s1

def effCinvAll (s : State) : Eff := .ok (nearClear s s.cur.1)

def effFence (n : Scope) (s : State) : Eff :=
  withBoundary s (fun s1 => withReleasePart s1 n (fun s2 => .ok (acquirePart s2 n)))

def effFenceAcq (n : Scope) (s : State) : Eff := withBoundary s (fun s1 => .ok (acquirePart s1 n))

def effFenceRel (n : Scope) (s : State) : Eff := withBoundary s (fun s1 => withReleasePart s1 n Eff.ok)

def effRegion (s : State) : Eff := withBoundary s Eff.ok

def effRegionForce (s : State) : Eff :=
  if tolDefers s then .ok s
  else withSiding s (
    if drainHeld s s.cur.1 s.cur.2 then .park s (.retry (s.time.cycle + 1))
    else .ok (forceRegion s s.cur.1 s.cur.2))

def effRegionDrop (s : State) : Eff :=
  if tolDefers s then .ok s else withSiding s (.ok (discardRegion s s.cur.1 s.cur.2))

def effLdPair (t : PTy) (u : Bool) (a b : Fin 64) (c : Mem) (s : State) : Eff :=
  let n := pBytes t
  let m := memAddr s c n
  aligned s m (2 * n) (readAny s m (2 * n) 0 false true (fun s1 x =>
    .ok ((s1.wrG a.val (extend u (x.take n))).wrG b.val (extend u (x.drop n)))))

def effStPair (t : PTy) (a : Mem) (b c : Fin 64) (s : State) : Eff :=
  let n := pBytes t
  let m := memAddr s a n
  aligned s m (2 * n) (writeAny s m (lowBytes n (s.rdG b.val) ++ lowBytes n (s.rdG c.val)) 0 false Eff.ok)

def execLd (h : Hdr) (t : ITy) (u : Bool) (a : Fin 64) (b : Mem) (s : State) := run h (effLd t u a b) s
def execSt (h : Hdr) (t : ITy) (a : Mem) (b : GSrc) (s : State) := run h (effSt t a b) s
def execLdAcq (h : Hdr) (t : ITy) (n : Scope) (u : Bool) (a : Fin 64) (b : Mem) (s : State) :=
  run h (effLdAcq t n u a b) s
def execStRel (h : Hdr) (t : ITy) (n : Scope) (a : Mem) (b : GSrc) (s : State) := run h (effStRel t n a b) s
def execLdWf (h : Hdr) (t : PTy) (n u : Bool) (a : Fin 64) (b : Mem) (s : State) := run h (effLdWf t n u a b) s
def execStWe (h : Hdr) (t : PTy) (a : Mem) (b : GSrc) (s : State) := run h (effStWe t a b) s
def execTagRd (h : Hdr) (a : Fin 64) (b : Mem) (s : State) := run h (effTagRd a b) s
def execTagFull (h : Hdr) (a : Mem) (b : GSrc) (s : State) := run h (effTagFull a b) s
def execTagEmpty (h : Hdr) (a : Mem) (b : GSrc) (s : State) := run h (effTagEmpty a b) s
def execPref (h : Hdr) (a : Mem) (s : State) := run h (effPref a) s
def execCfl (h : Hdr) (a : Mem) (s : State) := run h (effCfl a) s
def execCflEvict (h : Hdr) (a : Mem) (s : State) := run h (effCflEvict a) s
def execCinv (h : Hdr) (a : Mem) (s : State) := run h (effCinv a) s
def execCinvAll (h : Hdr) (s : State) := run h effCinvAll s
def execFence (h : Hdr) (n : Scope) (s : State) := run h (effFence n) s
def execFenceAcq (h : Hdr) (n : Scope) (s : State) := run h (effFenceAcq n) s
def execFenceRel (h : Hdr) (n : Scope) (s : State) := run h (effFenceRel n) s
def execRegion (h : Hdr) (s : State) := run h effRegion s
def execRegionForce (h : Hdr) (s : State) := run h effRegionForce s
def execRegionDrop (h : Hdr) (s : State) := run h effRegionDrop s
def execLdPair (h : Hdr) (t : PTy) (u : Bool) (a b : Fin 64) (c : Mem) (s : State) := run h (effLdPair t u a b c) s
def execStPair (h : Hdr) (t : PTy) (a : Mem) (b c : Fin 64) (s : State) := run h (effStPair t a b c) s

end Sys2Proof.Machine
end

