-- ==== Sys2Proof/Machine/Fetch.lean ====
section
/-! DEFINITION. Fetching from the pool, the instruction space, gang membership, and the resident stub
(R162-R174, R224, R309, R429). -/

namespace Sys2Proof.Machine

/-! ### The instruction space (R167, R168, R172) -/

/-- Bytes of a DRAM or host location as thread (c, k) reads them: its own writes first, then the home (M1), with the
unit that supplied a poisoned codeword, or 0. -/
def transBytes (s : State) (c k : Nat) (tr : Trans) (n : Nat) : List Byte × Nat :=
  if tr.host then
    ((List.range n).map (fun i => (ownHostByte s c k (tr.hostAddr + i)).getD (Cells.get s.mem.host (tr.hostAddr + i))), 0)
  else ((overlay s c k tr.line tr.off (s.mem.lineBytes tr.line tr.key tr.off n)).1,
    homePoison s.mem tr.line (baseWords s c k tr.line tr.off n))

/-- What a fill comes to: all words written, or at an instruction-space address a walk status or a poisoned word of a
unit. -/
inductive Fill where
  | filled
  | faulted (addr status : Nat)
  | poisoned (addr unit : Nat)
  deriving DecidableEq, Repr

/-- Copy n words from the instruction space to the pool in ascending order (R172); the words before a fault stay. -/
def fillWords (c k sp : Nat) : Nat → State → Nat → Nat → Fill × State
  | 0, s, _, _ => (.filled, s)
  | n + 1, s, d, a =>
    match xlateCluster s (clusterOf c) sp true .compute .fill a with
    | ((0, tr), s1) =>
      let r := transBytes s1 c k tr 4
      if r.2 ≠ 0 then (.poisoned a r.2, s1)
      else fillWords c k sp n (s1.modCore c (fun x => x.putBytes d r.1)) (d + 4) (a + 4)
    | ((st, _), s1) => (.faulted a st, s1)

def effIfence (s : State) : Eff := .ok s

/-- The first of three values that is not a multiple of 4 (R172). -/
def firstOdd (d a n : Word) : Option Word :=
  if d.toNat % 4 ≠ 0 then some d else if a.toNat % 4 ≠ 0 then some a else if n.toNat % 4 ≠ 0 then some n else none

def effIfenceFill (a b : Fin 64) (c : GSrc) (s : State) : Eff :=
  let d := s.rdG a.val
  let x := s.rdG b.val
  let n := readGSrc s c
  match firstOdd d x n with
  | some w => .failAt s 0x04 w 4
  | none =>
    if n.toNat = 0 ∨ 65536 < n.toNat ∨ d.toNat < 0x2000 ∨ s.myCore.sill.toNat < d.toNat + n.toNat then .fail s 0x0A 0
    else if poolShut s.myCore d.toNat n.toNat then .park s .shutter
    else
      match fillWords s.cur.1 s.cur.2 s.me.place.spaceid (n.toNat / 4) s d.toNat x.toNat with
      | (.filled, s1) => .ok s1
      | (.poisoned va u, s1) => .failAt s1 0x11 (BitVec.ofNat 64 va) u
      | (.faulted va st, s1) =>
        let t : TrapInfo := { cause := 0x07, addr := BitVec.ofNat 64 va, info := BitVec.ofNat 64 st }
        if serviced st then
          if s1.me.declined = some (va, st) then .trap s1 t
          else
            match askService s1 (writerOf s1.cur.1 s1.cur.2) s1.me.place.spaceid va .fill st with
            | (id, s2) => .park s2 (.walk id)
        else .trap s1 t

/-! ### Gangs (R173, R174) -/

/-- A follower that is not shed. -/
def canShed (t : Thread) : Bool := decide (1 < t.place.gsize) && decide (t.place.gpos ≠ 0) && !t.place.shed

/-- A leader whose gang has no member out of lockstep is not held (R170). -/
def clearHold (s : State) (t : Thread) : State :=
  let ms := gangMembers s t.place.gang
  if ms.any (fun m => (s.thread m.1 m.2).solo) then s
  else match ms with
    | l :: _ => s.modThread l.1 l.2 (fun f => { f with hold := none })
    | [] => s

def effGangShed (s : State) : Eff :=
  if s.me.tol.isOpen then .fail s 0x0D 6
  else if canShed s.me then
    .ok (clearHold (s.modMe (fun t =>
      { t with place := { t.place with shed := true }, fwd := [], solo := false })) s.me)
  else .ok s

/-- The shed members of a gang. -/
def shedMembers (s : State) (gid : Nat) : List (Nat × Nat) :=
  (gangMembers s gid).filter (fun m => (s.thread m.1 m.2).place.shed)

/-- All members leave the join together in lockstep (R174); the acting member retires by itself. -/
def joinAll (s : State) (gid : Nat) (pc : Word) : State :=
  (gangMembers s gid).foldl (fun s m =>
    let t := s.thread m.1 m.2
    let t1 := { t with place := { t.place with shed := false } }
    if m = s.cur then s.setThread m.1 m.2 t1
    else if t.place.shed ∨ t.place.gpos = 0 then s.setThread m.1 m.2 (t1.retire pc)
    else s) s

def effGangJoin (s : State) : Eff :=
  let t := s.me
  let gid := t.place.gang
  let here (m : Nat × Nat) : Bool :=
    decide ((s.thread m.1 m.2).status = .parked .gangJoin) && decide ((s.thread m.1 m.2).pc = t.pc)
  if t.place.gsize ≤ 1 then .ok s
  else if t.place.gpos = 0 then
    if (shedMembers s gid).all here then .ok (joinAll s gid (t.pc + 12)) else .park s .gangJoin
  else if t.place.shed then
    let l := leaderOf s t s.cur
    let lt := s.thread l.1 l.2
    if lt.status = .parked .gangJoin then
      if lt.pc = t.pc then
        (if ((shedMembers s gid).filter (fun m => m != s.cur)).all here then .ok (joinAll s gid (t.pc + 12))
         else .park s .gangJoin)
      else .failAt s 0x0E lt.pc t.place.gpos
    else .park s .gangJoin
  else .ok s

def execIfence (h : Hdr) (s : State) := run h effIfence s
def execIfenceFill (h : Hdr) (a b : Fin 64) (c : GSrc) (s : State) := run h (effIfenceFill a b c) s
def execGangShed (h : Hdr) (s : State) := run h effGangShed s
def execGangJoin (h : Hdr) (s : State) := run h effGangJoin s

/-- The acting member performs an instruction that acts once per gang, or a lockstep follower takes its leader's
result (07, Instructions); where the leader had none the value is free (log 21). -/
def oncePerGang (d : Fin 64) (act : State → Eff) (s : State) : Eff :=
  if s.me.follower then
    match s.me.fwd with
    | [] => act s
    | e :: _ =>
      match e.next, e.result with
      | none, _ => .wait s
      | some _, some v => .ok (s.wrG d.val v)
      | some _, none => .ok ((s.drawFree.2).wrG d.val (BitVec.ofNat 64 s.drawFree.1))
  else act s

/-! ### Fetch and decode of the next instruction (R162, R75) -/

/-- Trap of a fetch at pc (R162), and of a word of poisoned code (R237). -/
def fetchTrap (s : State) (c : Nat) (pc : Word) : Option TrapInfo :=
  if pc.toNat % 4 ≠ 0 then some { cause := 0x04, addr := pc, info := 12 }
  else if (s.core c).sill.toNat < pc.toNat + 12 then some { cause := 0x08, addr := pc, info := 0 }
  else if (s.core c).poisoned pc.toNat 12 then some { cause := 0x11, addr := winAddr pc.toNat, info := 1 }
  else none

/-- The word at pc: a lockstep follower takes it from its forwarding queue, any other thread from its pool. -/
def fetchWord (s : State) (c k : Nat) : InstrWord :=
  let t := s.thread c k
  if t.follower then
    match t.fwd with
    | e :: _ => e.word
    | [] => wordOfBytes ((s.core c).bytes t.pc.toNat 12)
  else wordOfBytes ((s.core c).bytes t.pc.toNat 12)

/-- What the core's partition, the charter's mask and the privilege let through (R74, R75). -/
def decodeCtx (s : State) (c k : Nat) : DecodeCtx :=
  { lim := { ng := partG (s.core c).part, nv := partV (s.core c).part }
    mask := (s.thread c k).place.feat.toNat
    handler := (s.thread c k).priv }

/-- Fetch and decode: the instruction at pc, or the trap that stands in its place. -/
def fetchDecode (s : State) (c k : Nat) : Decoded ⊕ TrapInfo :=
  let t := s.thread c k
  match (if t.follower then none else fetchTrap s c t.pc) with
  | some e => .inr e
  | none => .inl (decode (decodeCtx s c k) (fetchWord s c k))

/-- A word joins the forwarding queue of every lockstep follower of a leader (R169). -/
def forwardTo (s : State) (c k : Nat) (e : Forward) : State :=
  ((gangMembers s (s.thread c k).place.gang).filter (fun m => m != (c, k))).foldl (fun s m =>
    s.modThread m.1 m.2 (fun f => if f.follower then { f with fwd := f.fwd ++ [e] } else f)) s

/-- The leader passes the word of its instruction at pc to every lockstep follower, once (R169). -/
def forwardOnce (s : State) (c k : Nat) (w : InstrWord) : State :=
  let t := s.thread c k
  if t.lockstep ∧ t.place.gpos = 0 ∧ t.fwdSent = false then
    (forwardTo s c k { pc := t.pc, word := w, next := none, result := none }).modThread c k (fun t => { t with fwdSent := true })
  else s

/-- The leader passes the word that it fetches on. -/
def forwardWord (s : State) (c k : Nat) : State := forwardOnce s c k (fetchWord s c k)

/-! ### The resident stub (R224, R309, R429) -/

/-- What a read of the stub comes to: bytes, a fault, or a wait. -/
inductive StubRead where
  | bytes (bs : List Byte) (s : State)
  | fault (s : State)
  | wait (s : State) (r : Park)

/-- A byte of a pool as the stub reads it at handler privilege (R231, R237, R299). -/
def stubPool (s : State) (c o : Nat) : StubRead :=
  if poolLimit (s.core c).part ≤ o then .fault s
  else if poolShut (s.core c) o 1 then .wait s .shutter
  else if (s.core c).poisoned o 1 then .fault s
  else .bytes [Cells.get (s.core c).pool o] s

/-- A byte at an address as the stub reads it at handler privilege; a walk that is serviced waits for its service
(R253). -/
def stubByte (s : State) (c k : Nat) (a : Word) : StubRead :=
  match decodeAddr a with
  | .own o => stubPool s c o
  | .peer q o => stubPool s (peerCore s c q) o
  | .view _ _ => .fault s
  | .badWindow _ => .fault s
  | .nonCanon => .fault s
  | .global =>
    if globalShut (s.core c) a.toNat 1 then .wait s .shutter
    else
      match xlateCore s c (s.thread c k).place.spaceid .read a.toNat with
      | ((0, tr), s1) =>
        if !tr.host && dieHeld s1 (lineDie tr.line) then .wait s1 (.retry (s1.time.cycle + 1))
        else
          let r := transBytes s1 c k tr 1
          if r.2 ≠ 0 then .fault s1 else .bytes r.1 s1
      | ((st, _), s1) =>
        if serviced st && decide ((s1.thread c k).declined ≠ some (a.toNat, st)) then
          match askService s1 (writerOf c k) (s1.thread c k).place.spaceid a.toNat .read st with
          | (id, s2) => .wait s2 (.walk id)
        else .fault s1

/-- n bytes, unless one of them faults or waits. -/
def stubBytes (c k : Nat) : Nat → State → Word → List Byte → StubRead
  | 0, s, _, acc => .bytes acc s
  | n + 1, s, a, acc =>
    match stubByte s c k a with
    | .bytes bs s1 => stubBytes c k n s1 (a + 1) (acc ++ bs)
    | r => r

/-- The stub parks its slot; it serves the call again when the park is over. -/
def stubPark (s : State) (c k : Nat) (r : Park) : State :=
  (s.modThread c k (fun t => { t with status := .parked r })).modCore c (fun x => { x with inPipe := none })

/-- Return from the stub to a pc, as `eret` returns (R429). -/
def stubReturn (s : State) (c k : Nat) (pc : Word) : State :=
  s.modThread c k (fun t => { t.eret pc with status := .ready })

/-- Give a system call its results and return to xpc + 12. -/
def sysReturn (s : State) (c k : Nat) (f : Thread → Thread) : State :=
  stubReturn (s.modThread c k f) c k ((s.thread c k).ctl.xpc + 12)

/-- What is left of a budget. -/
def left (budget used : Nat) : Word := BitVec.ofNat 64 (budget - used)

/-- System calls (R224 Table 11). -/
def sysCall (s : State) (c k : Nat) : State :=
  let t := s.thread c k
  match t.ctl.xinfo.toNat with
  | 1 =>
    let n := (t.rdG 9).toNat
    if n = 0 ∨ 256 < n then sysReturn s c k (fun t => t.wrG 8 2)
    else
      match stubBytes c k n s (t.rdG 8) [] with
      | .bytes bs s1 => sysReturn (appendLog s1 t.place.spaceid bs) c k (fun t => t.wrG 8 0)
      | .fault s1 => sysReturn s1 c k (fun t => t.wrG 8 1)
      | .wait s1 r => stubPark s1 c k r
  | 2 =>
    if (t.rdG 8).toNat ≤ s.time.tick then sysReturn s c k (fun t => t.wrG 8 0)
    else (s.setThread c k { t with status := .sleeping (t.rdG 8).toNat }).modCore c (fun x => { x with inPipe := none })
  | 3 =>
    match stageNode s t with
    | some n => sysReturn s c k (fun t => (t.wrG 8 (left n.energy n.usedEnergy)).wrG 9 (left n.dram n.usedDram))
    | none => sysReturn s c k (fun t => (t.wrG 8 0).wrG 9 0)
  | 4 => faultInstance s c k 0x13
  | _ => sysReturn s c k (fun t => t.wrG 8 (BitVec.ofInt 64 (-1)))

/-- Every other cause: a log entry, then the instance ends as a fault (R429). -/
def unserved (s : State) (c k cause : Nat) (info addr pc : Word) : State :=
  faultInstance (appendLog s (s.thread c k).place.spaceid (trapEntry cause info addr pc)) c k cause

/-- Overlay service (R429): the block base moves, the code area is filled from it, sill and xpc follow. -/
def overlayService (s : State) (c k : Nat) : State :=
  let t := s.thread c k
  let x := s.core c
  let sz := 4096 * partCode x.part
  let a := t.ctl.xaddr.toNat
  match x.beta, decide (0x60000 ≤ a) with
  | none, false => unserved s c k 0x08 t.ctl.xinfo t.ctl.xaddr t.ctl.xpc
  | b, hi =>
    let v := b.getD 0 + a - 0x2000
    let beta := if hi then a - a % sz else v - v % sz
    let p := t.ctl.xpc.toNat
    let rel := if 0x60000 ≤ p then p else beta + p - 0x2000
    match fillWords c k t.place.spaceid (sz / 4) s 0x2000 beta with
    | (.filled, s1) =>
      let s2 := s1.modCore c (fun x => { x with beta := some beta, sill := BitVec.ofNat 64 (0x2000 + sz) })
      stubReturn s2 c k (BitVec.ofNat 64 (0x2000 + rel % sz))
    | (.poisoned va u, s1) =>
      unserved s1.drawFree.2 c k 0x11 (BitVec.ofNat 64 u) (BitVec.ofNat 64 va) (BitVec.ofNat 64 s1.drawFree.1)
    | (.faulted va st, s1) =>
      if serviced st && decide (t.declined ≠ some (va, st)) then
        match askService s1 (writerOf c k) t.place.spaceid va .fill st with
        | (id, s2) => stubPark s2 c k (.walk id)
      else unserved s1.drawFree.2 c k 0x07 (BitVec.ofNat 64 st) (BitVec.ofNat 64 va) (BitVec.ofNat 64 s1.drawFree.1)

/-- Service of the trap or interrupt for which the stub was entered (R429 Table 2). -/
def stubService (s : State) (c k : Nat) : State :=
  let t := s.thread c k
  let x := t.ctl
  match x.xcause.toNat with
  | 0x13 => sysCall s c k
  | 0x08 => overlayService s c k
  | 0x41 => stubReturn (s.modThread c k (fun t => { t with ctl := { t.ctl with ptime := 0 } })) c k x.xpc
  | 0x42 => stubReturn s c k x.xpc
  | 0x43 => (s.setThread c k { t with status := .debugHold }).modCore c (fun y => { y with inPipe := none })
  | 0x44 => stubReturn s c k x.xpc
  | 0x02 =>
    if wfld x.xinfo 16 8 = 1 ∧ x.ppriv = false then
      sysReturn (appendLog s t.place.spaceid (trapEntry 0x02 x.xinfo x.xaddr x.xpc)) c k
        (fun t => (t.wrG 8 x.xinfo).wrG 9 x.xaddr)
    else unserved s c k 0x02 x.xinfo x.xaddr x.xpc
  | n => unserved s c k n x.xinfo x.xaddr x.xpc

end Sys2Proof.Machine
end

