-- ==== Sys2Proof/Machine/Sched.lean ====
section
/-! DEFINITION. Which thread acts, when it may run, interrupts, and the passing of time (R4, R192-R195, R390, R431,
R432; logs 4 and 10). -/

namespace Sys2Proof.Machine

/-! ### Time (R4, R390) -/

/-- One cycle of 1.05 GHz is 20/21 of a tick; the slew adds slew / 2^32 of a tick per tick (25 R459), at most one in a
thousand, so the count never decreases. `phase` counts in units of a tick / (21 * 2^32). -/
def tickUnit : Nat := 21 * 2 ^ 32

def slewBound (x : Int) : Int := max (-(2 ^ 32 / 1000)) (min (2 ^ 32 / 1000) x)

def perCycle (slew : Int) : Nat := (20 * (2 ^ 32 + slewBound slew)).toNat

def Time.advance (t : Time) : Time :=
  let p := t.phase + perCycle t.slew
  { t with cycle := t.cycle + 1, tick := t.tick + p / tickUnit, phase := p % tickUnit }

/-- The time after a step: the clock goes on from the greater of what it showed before and what the step set (R390:
no copy of the clock ever decreases). -/
def timeAfter (old new : Time) : Time :=
  { new with cycle := old.cycle, tick := max old.tick new.tick, phase := new.phase % tickUnit }.advance

def passTime (old : Time) (s : State) : State := { s with time := timeAfter old s.time }

/-! ### Interrupts (R431, R432) -/

/-- ptime has come (R431). -/
def timerDue (s : State) (t : Thread) : Bool := decide (t.ctl.ptime ≠ 0) && decide (t.ctl.ptime.toNat ≤ s.time.tick)

/-- The enabled pending interrupt of highest priority below 0x40, with its xinfo (R431, R432). -/
def pendingIrq (t : Thread) : Option (Nat × Word) :=
  let on := !t.priv || t.ctl.ie
  if !on then none
  else
    match t.pend.quiesce, t.pend.debug with
    | some d, _ => some (0x44, BitVec.ofNat 64 d)
    | none, some e => some (0x43, BitVec.ofNat 64 e)
    | none, none =>
      if t.pend.timer && t.ctl.itimer then some (0x41, t.ctl.ptime)
      else if t.pend.msg && t.ctl.imsg then some (0x42, BitVec.ofNat 64 t.msgCount)
      else none

/-- The pending bit of a taken interrupt is cleared. -/
def clearIrq (p : Pending) (n : Nat) : Pending :=
  if n = 0x44 then { p with quiesce := none }
  else if n = 0x43 then { p with debug := none }
  else if n = 0x41 then { p with timer := false }
  else { p with msg := false }

/-- Take an interrupt: the pending bit clears and the handler is entered (R431, R427). -/
def takeIrq (s : State) (c k : Nat) (i : Nat × Word) : State :=
  takeInterrupt (s.modThread c k (fun t => { t with pend := clearIrq t.pend i.1 })) c k i.1 i.2

/-- The instruction at a pc has performed an external effect and waits at rung 6 for its answer: a request of the
content store, or a value of the siding (R196, R367). -/
def begun (t : Thread) (pc : Word) : Bool :=
  (match t.cn with
   | some r => decide (r.pc = pc)
   | none => false) ||
  (match t.vwait with
   | some w => decide (w.1 = pc)
   | none => false)

/-- The thread's next instruction has: an interrupt waits (R193, R432). -/
def effectUnderWay (t : Thread) : Bool := begun t t.pc && !t.inStub

/-! ### Traps in place of the next instruction -/

/-- A meter that reached its budget traps the next instruction at the crown (R152). -/
def crownTrap (t : Thread) : Option TrapInfo :=
  match t.pend.meter with
  | some m => some { cause := 0x12, addr := 0, info := BitVec.ofNat 64 m }
  | none => none

/-- Take that trap; the mark is spent, and an `eret` from the handler is a fatal return. -/
def takeCrown (s : State) (c k : Nat) (e : TrapInfo) : State :=
  takeTrap (s.modThread c k (fun t =>
    { t with pend := { t.pend with meter := none }, fatalRet := true })) c k e false

/-! ### What stands in the pipe (R176-R179) -/

def Thread.rdName (t : Thread) (x : RName) : Word :=
  if x.cls = 0 then t.rdG x.idx else if x.cls = 2 then (if t.rdP x.idx then 1 else 0) else (t.rdB x.idx).setWidth 64

def Thread.wrName (t : Thread) (x : RName) (v : Word) : Thread :=
  if x.cls = 0 then t.wrG x.idx v else if x.cls = 2 then t.wrP x.idx (v != 0) else t.wrB x.idx (v.setWidth 16)

/-- Serial order of sequence numbers modulo 256 (R178). -/
def olderSeq (a b : Nat) : Bool :=
  let d := (b + 256 - a % 256) % 256
  decide (1 ≤ d) && decide (d ≤ 127)

/-- How long ago a sequence number was given. -/
def seqAge (x : Pipe) (a : Nat) : Nat := (x.nextSeq + 256 - a % 256) % 256

/-- Instruction packets, oldest first. -/
def inOrder (x : Pipe) : List IPacket := sortBy (fun i => 256 - seqAge x i.seq) (AMap.vals x.ins)

def State.pipe (s : State) (c : Nat) : Pipe := (s.core c).pipe
def State.modPipe (s : State) (c : Nat) (f : Pipe → Pipe) : State := s.modCore c (fun x => { x with pipe := f x.pipe })

/-- Results of retired producers, oldest first. -/
def liveResults (x : Pipe) (done : Nat → Bool) : List (Nat × Nat × RName × Word) :=
  let xs := x.foot.filterMap (fun e => match e.val with
      | some v => if done e.seq then some (seqAge x e.seq, e.slot, e.dest, v) else none
      | none => none) ++
    (AMap.vals x.res).filterMap (fun r => if done r.seq then some (seqAge x r.seq, r.slot, r.dest, r.val) else none)
  sortBy (fun e => 256 - e.1) xs

/-- Write results to the register store in order of age. -/
def writeResults (s : State) (c : Nat) (xs : List (Nat × Nat × RName × Word)) : State :=
  xs.foldl (fun s e => s.modThread c e.2.1 (fun t => t.wrName e.2.2.1 e.2.2.2)) s

/-- Packets younger than `q` are killed with their results, marks and reservations (R189). -/
def killYounger (q : Nat) (x : Pipe) : Pipe :=
  let gone (n : Nat) : Bool := olderSeq q n
  let clear (h : Option Nat) : Option Nat := match h with
    | some n => if gone n then none else some n
    | none => none
  { x with
    ins := x.ins.filter (fun e => !gone e.2.seq)
    res := (x.res.filter (fun e => !gone e.2.seq)).map (fun e => (e.1, { e.2 with hider := clear e.2.hider }))
    foot := (x.foot.filter (fun e => !gone e.seq)).map (fun e => { e with hider := clear e.hider })
    fetchStop := false }

/-- A leader's retired instruction joins the queues of its lockstep followers with its outcome, or completes the word
that it forwarded when it parked or trapped; a leader that is held has got as far as this (R169, R170). -/
def handOver (s : State) (c : Nat) (i : IPacket) : State :=
  let t := s.thread c i.slot
  let s1 := patchForward s t (c, i.slot) i.pc i.next i.once
  if t.lockstep ∧ t.place.gpos = 0 then
    let s2 := if t.fwdSent then s1
      else forwardTo s1 c i.slot { pc := i.pc, word := i.word, next := some i.next, result := i.once }
    s2.modThread c i.slot (fun t => { t with hold := t.hold.map (fun _ => i.next) })
  else s1

/-- What the retirement of a packet does to its thread: the flags are raised, a handler has begun, the forwarded word is
spent, and pc is the next one. -/
def retireThread (s : State) (c : Nat) (i : IPacket) : State :=
  (handOver s c i).modThread c i.slot (fun t =>
    { t with pc := i.next, fresh := false, status := .ready, declined := none, fwdSent := false
             fwd := if i.forwarded then t.fwd.tail else t.fwd
             ctl := { t.ctl with fflags := t.ctl.fflags ||| i.flags } })

/-- What a pre-emption leaves of the pipe (R193, R434): instructions up to the last one that has performed an external
effect retire with their results, and the younger ones never entered. While that instruction still waits for its answer,
the pipe goes on with it and those before it. -/
def emptyPipe (s : State) (c : Nat) : State :=
  let x := s.pipe c
  let is := inOrder x
  let n := match (is.reverse).findIdx? (fun i => i.effect) with
    | some j => is.length - j
    | none => 0
  match (is.take n).getLast? with
  | some l =>
    if l.executed then
      let gone := is.drop n
      let own := (is.take n).flatMap (fun i => i.results.map (fun r => (seqAge x i.seq, i.slot, r.1, r.2)))
      let xs := liveResults x (fun q => !gone.any (fun i => i.seq == q)) ++ own
      let s1 := writeResults s c (sortBy (fun e => 256 - e.1) xs)
      let s2 := (is.take n).foldl (fun s i => retireThread s c i) s1
      s2.modPipe c (fun y => { y with ins := [], res := [], foot := [], fetchStop := false })
    else s.modPipe c (killYounger l.seq)
  | none =>
    (writeResults s c (liveResults x (fun q => !is.any (fun i => i.seq == q)))).modPipe c (fun y =>
      { y with ins := [], res := [], foot := [], fetchStop := false })

end Sys2Proof.Machine
end

