-- ==== Sys2Proof/Machine/Tolerance.lean ====
section
/-! DEFINITION. Budgets, the sensitivity table, demand trees and tolerant regions: opcodes 0x38 to 0x3B and 0x3D
(R109-R131). -/

namespace Sys2Proof.Machine

/-! ### Shares (R110, R111) -/

/-- Adj(b, d): widen or narrow a budget by d sixteenths. -/
def adj (b : BitVec 16) (d : Int) : BitVec 16 :=
  let keep := b &&& 0x4000
  if b.getLsbD 15 then 0x8000 ||| keep
  else
    let x := ((b.extractLsb' 0 12).toNat : Int) + d
    if 4095 < x then 0x8000 ||| keep else keep ||| BitVec.ofNat 16 (max 0 x).toNat

/-- L(n) = ceil(16 log2 n) for n from 1 to 4. -/
def lOf : Nat → Int
  | 2 => 16
  | 3 => 26
  | 4 => 32
  | _ => 0

/-- The reset sensitivities (06 Table 2). -/
def sensReset (k j : Nat) : Int :=
  if k = 7 ∨ k = 8 then (if j = 0 then -16 else 0)
  else if k = 9 then (if j = 0 then 112 else 0)
  else if k = 10 then (if j = 0 then 16 else 0)
  else if k = 11 then (if j < 2 then 112 else 0)
  else 0

/-- S(k, j) of a thread; 0 for j = 3. -/
def Thread.sensOf (t : Thread) (k j : Nat) : Int :=
  if 3 ≤ j then 0 else AMap.getD t.tol.sens (3 * k + j) (sensReset k j)

/-- The operand count of a class (06 Table 2). -/
def classOperands (k : Nat) : Nat :=
  if k = 3 ∨ 15 ≤ k then 3
  else if k = 1 ∨ k = 2 ∨ k = 4 ∨ k = 5 ∨ k = 11 ∨ k = 14 then 2
  else 1

/-- Share(b, k, j) (R110). -/
def Thread.share (t : Thread) (b : BitVec 16) (k j : Nat) : BitVec 16 :=
  adj b (lOf (classOperands k + 1) + t.sensOf k j)

/-! ### The share walk (R112-R114) -/

/-- A target and its value: a budget register, or a 16-bit slot from the tree offset. -/
structure Target where
  slot : Bool
  idx : Nat
  val : BitVec 16
  deriving DecidableEq, Repr

/-- What a walk comes to. -/
inductive Shares where
  | done' (ts : List Target)
  | trapped (t : TrapInfo)
  | shut
  deriving DecidableEq, Repr

/-- The position of the lowest set bit below 64 of a masked number. -/
def lowSet (n : Nat) : List Nat := if n = 0 then [] else [trailZeros 64 n]

/-- The offending bits of a node that is node i, given the nodes already named (R114). -/
def nodeErrs (nd i : Nat) (named : List Nat) : List Nat :=
  let count := fld nd 10 2
  let ch (j : Nat) : Nat := fld nd (12 + 8 * j) 8
  let res := (fld nd 6 4 * 2 ^ 6) + (fld nd 36 12 * 2 ^ 36)
  let tgt := if nd.testBit 63 then 0 else fld nd 51 12 * 2 ^ 51
  let beyond := ((List.range 3).filter (fun j => decide (count ≤ j))).flatMap (fun j => lowSet (ch j * 2 ^ (12 + 8 * j)))
  let kids := (List.range count).filterMap (fun j =>
    if ch j ≤ i ∨ named.contains (ch j) ∨ ((List.range j).any (fun l => ch l == ch j)) then some (12 + 8 * j) else none)
  lowSet res ++ lowSet tgt ++ beyond ++ kids

/-- The nodes from index i on (structural on what is left of 256): `bud` holds the reached nodes' budgets, `named`
the nodes named as children; `exact'` writes every target as 0xC000. -/
def shareFrom (s : State) (t : Thread) (x : Core) (off : Nat) (exact' : Bool) :
    Nat → Nat → AMap (BitVec 16) → List Nat → List Target → Shares
  | 0, _, _, _, acc => .done' acc.reverse
  | n + 1, i, bud, named, acc =>
    match AMap.get bud i with
    | none => shareFrom s t x off exact' n (i + 1) bud named acc
    | some b =>
      let a := off + 8 * i
      let lim := poolLimit x.part
      if lim < a + 8 then .trapped (windowTrap (winAddr a))
      else if poolShut x a 8 then .shut
      else if x.poisoned a 8 then .trapped { cause := 0x11, addr := winAddr a, info := 1 }
      else
        let nd := x.num a 8
        let isSlot := nd.testBit 63
        let tg := fld nd 48 15
        if isSlot ∧ lim < off + 2 * tg + 2 then .trapped (windowTrap (winAddr (off + 2 * tg)))
        else
          match (nodeErrs nd i named).min? with
          | some e => .trapped { cause := 0x02, addr := winAddr a, info := BitVec.ofNat 64 (e + 2 * 65536) }
          | none =>
            if isSlot ∧ poolShut x (off + 2 * tg) 2 then .shut
            else
              let count := fld nd 10 2
              let k := fld nd 0 6
              let own := if exact' then 0xC000 else adj b (lOf (count + 1))
              let kids := (List.range count).map (fun j =>
                (fld nd (12 + 8 * j) 8, adj b (lOf (count + 1) + t.sensOf k j)))
              shareFrom s t x off exact' n (i + 1) (kids.foldl (fun m e => AMap.set m e.1 e.2) bud)
                (kids.map Prod.fst ++ named)
                ({ slot := isSlot, idx := if isSlot then tg else tg % 8, val := own } :: acc)

/-- Write the targets of a walk. -/
def applyTargets (s : State) (off : Nat) (ts : List Target) : State :=
  ts.foldl (fun s g =>
    if g.slot then s.modCore s.cur.1 (fun x => x.putNum (off + 2 * g.idx) 2 (budgetMask g.val).toNat)
    else s.wrB g.idx g.val) s

/-- Run the walk of the acting thread and go on with its targets written; a failed check traps and changes nothing. -/
def withShares (s : State) (off : Nat) (root : BitVec 16) (exact' : Bool) (k : State → Eff) : Eff :=
  match shareFrom s s.me s.myCore off exact' 256 0 [(0, root)] [] [] with
  | .done' ts => k (applyTargets s off ts)
  | .trapped t => .trap s t
  | .shut => .park s .shutter

/-! ### demand and settle (R120-R127) -/

def effDemand (a : GSrc) (b : BSrc) (s : State) : Eff :=
  if s.me.tol.isOpen ∧ s.me.pc ≠ s.me.tol.tentry then tolTrap s 4 0
  else
    let t := readGSrc s a
    let r := readBSrc s b &&& 0xBFFF
    aligned s t 8 (withClose s (fun s1 =>
      let o := s1.me.tol
      let tight := if o.isOpen then o.tight else 0
      let ex := o.isOpen && o.exactpass
      let root := adj (r ||| (if tight ≠ 0 then 0x4000 else 0)) tight
      withShares s1 t.toNat root ex (fun s2 => .ok (s2.modMe (fun f => { f with tol := { f.tol with
        root := r, tree := t.setWidth 19, short := false, deficit := 0, isOpen := true, tentry := s.me.pc
        tight := tight, exactpass := ex, treplays := if o.isOpen then o.treplays else 0, deferred := 0 } })))))

/-- A replay (R123): the pass is dropped without validation and the walk runs again, tightened. -/
def replay (s : State) : Eff :=
  let o := s.me.tol
  let n := o.treplays + 1
  let tight := min (o.tight + o.deficit) 4095
  withShares s o.tree.toNat (adj (o.root ||| 0x4000) tight) (n == 3) (fun s1 =>
    .jump (s1.modMe (fun t => { t.dropRegion with tol := { t.tol with
      treplays := n, tight := tight, exactpass := n == 3, short := false, deficit := 0, deferred := 0 } }))
      (o.tentry + 12))

def scopeOfNum : Nat → Scope
  | 0 => .core
  | 1 => .clu
  | 2 => .die
  | 3 => .mod
  | _ => .sys

/-- The close of `settle` with the releases that the pass deferred (R124). -/
def settleClose (s : State) : Eff :=
  let fin (s : State) : Eff := .ok (s.modMe (fun t => { t with tol := { t.tol with isOpen := false, deferred := 0 } }))
  withClose s (fun s1 =>
    if s1.me.tol.deferred = 0 then fin s1 else withRelease s1 (scopeOfNum (s1.me.tol.deferred - 1)) fin)

def effSettle (s : State) : Eff :=
  if s.me.tol.isOpen = false then tolTrap s 5 0
  else if sidingIdle s s.cur.1 s.cur.2 = false then .wait s
  else if s.me.tol.short && !s.me.tol.exactpass then replay s
  else settleClose s

/-! ### bshare, bmov, sens.ld (R128, R129, R131) -/

def effBshare (a b : Fin 8) (c : ShareSel) (s : State) : Eff :=
  .ok (s.wrB a.val (adj (s.rdB b.val) (lOf (c.n1.val + 1) + s.me.sensOf c.cls.val c.opnd.val)))

def effBmov (m : BmovOp) (s : State) : Eff :=
  match m with
  | .bFromG d r => .ok (s.wrB d.val ((s.rdG r.val).setWidth 16))
  | .bFromB d r => .ok (s.wrB d.val (s.rdB r.val))
  | .bFromI d v => .ok (s.wrB d.val (v.setWidth 16))
  | .gFromB d r => .ok (s.wrG d.val ((s.rdB r.val).setWidth 64))

/-- Set the row of a class. -/
def setSens (s : State) (k : Nat) (f : Nat → Int) : State :=
  s.modMe (fun t => { t with tol := { t.tol with
    sens := (List.range 3).foldl (fun m j => AMap.set m (3 * k + j) (f j)) t.tol.sens } })

/-- The class operand: bits [5:0] of a register, or the immediate (R131). -/
def classOp (s : State) (a : GSrc) : Nat := wfld (readGSrc s a) 0 6

def effSensLd (a : GSrc) (b : Mem) (s : State) : Eff :=
  let m := memAddr s b 8
  aligned s m 8 (readAny s m 8 4 false true (fun s1 bs =>
    .ok (setSens s1 (classOp s a) (fun j => sextI (fld (ofBytes bs) (16 * j) 12) 12))))

def effSensLdReset (a : GSrc) (s : State) : Eff := .ok (setSens s (classOp s a) (sensReset (classOp s a)))

def execDemand (h : Hdr) (a : GSrc) (b : BSrc) (s : State) := run h (effDemand a b) s
def execSettle (h : Hdr) (s : State) := run h effSettle s
def execBshare (h : Hdr) (a b : Fin 8) (c : ShareSel) (s : State) := run h (effBshare a b c) s
def execBmov (h : Hdr) (m : BmovOp) (s : State) := run h (effBmov m) s
def execSensLd (h : Hdr) (a : GSrc) (b : Mem) (s : State) := run h (effSensLd a b) s
def execSensLdReset (h : Hdr) (a : GSrc) (s : State) := run h (effSensLdReset a) s

end Sys2Proof.Machine
end

