-- ==== Sys2Proof/Machine/Blocks.lean ====
section
/-! DEFINITION. Format codes, self-describing blocks, nested groups, grades and the choice of a format (R91-R98,
R101, R115, R117, R119). -/

namespace Sys2Proof.Machine

/-! ### Format codes (R94, R97) -/

/-- A format that an element of a tensor may have: one of its own code, or a nested one of `w` bits per element. -/
inductive BFmt where
  | flat (f : Fmt)
  | nest (w : Nat)
  deriving DecidableEq, Repr

/-- The format of a code; none for a reserved code, raw (0x00) and a tree node (0xC0). -/
def bfmtOf (code : Nat) : Option BFmt :=
  let p := code % 16
  let q (v : QVar) : Option BFmt := if 1 ≤ p ∧ p ≤ 7 then some (.flat (.q v p)) else none
  match code / 16 with
  | 1 => q .sf
  | 2 => q .se
  | 3 => q .uf
  | 4 => q .ue
  | 5 => if p = 0 then some (.flat .bf16) else if p = 1 then some (.flat .f32) else none
  | 6 => if p < 4 then some (.flat (.int (4 * 2 ^ p))) else none
  | 7 => if p = 0 then some (.nest 4) else if p = 1 then some (.nest 5) else if p = 2 then some (.nest 9) else none
  | _ => none

/-- Element width in bits of a flat format. -/
def Fmt.width : Fmt → Nat
  | .f32 => 32
  | .bf16 => 16
  | .q _ _ => 8
  | .int n => n

/-- A number for the width class: the element width, or 100 + w for a nested class. -/
def BFmt.cls : BFmt → Nat
  | .flat f => f.width
  | .nest w => 100 + w

/-- K, the elements of a block (05 Table 5). -/
def classK (c : Nat) : Nat :=
  if c = 4 then 120 else if c = 104 then 96 else if c = 105 then 80 else if c = 8 then 60 else if c = 109 then 48
  else if c = 16 then 30 else 15

def BFmt.k (f : BFmt) : Nat := classK f.cls

/-- The precision credit (06 Table 4). -/
def BFmt.credit : BFmt → Nat
  | .flat f => f.credit
  | .nest w => if w = 4 then 2 else if w = 5 then 3 else 7

def BFmt.isInt : BFmt → Bool
  | .flat (.int _) => true
  | .flat .f32 => false
  | .flat .bf16 => false
  | .flat (.q _ _) => false
  | .nest _ => false

def BFmt.nested : BFmt → Bool
  | .nest _ => true
  | .flat _ => false

/-- A source whose NaN payload a conversion keeps (R101, R103). -/
def BFmt.keeps : BFmt → Bool
  | .flat .f32 => true
  | .flat .bf16 => true
  | .flat (.q _ _) => false
  | .flat (.int _) => false
  | .nest _ => false

/-- The greatest finite magnitude of a flat format (R293). -/
def maxMag : Fmt → Nat × Int
  | .int n => (2 ^ (n - 1), 0)
  | .f32 => (Fmt.float .f32).posVal (Fmt.float .f32).maxCode
  | .bf16 => (Fmt.float .bf16).posVal (Fmt.float .bf16).maxCode
  | .q v p => (Fmt.float (.q v p)).posVal (Fmt.float (.q v p)).maxCode

/-! ### Reading elements -/

/-- Bytes of a nested group. -/
def groupBytes (w : Nat) : Nat := 2 + 2 * w

/-- Element j of a nested group, without the block scale (R91). -/
def groupElem (w grp j : Nat) : Num :=
  let g := fld grp 0 8
  if g = 255 then .canonNaN
  else
    let u := fld grp (8 + 2 * (j / 4)) 2
    let c := fld grp (16 + w * j) w
    let m := c % 2 ^ (w - 1)
    .fin (decide (2 ^ (w - 1) ≤ c) && m != 0) m ((g : Int) - 127 - u - (w - 2))

/-- Slot k of a payload, without a scale; `stride` is the bytes from one nested group to the next. -/
def payloadElem (f : BFmt) (stride pay k : Nat) : Num :=
  match f with
  | .flat t => decodeFloat t (fld pay (t.width * k) t.width)
  | .nest w => groupElem w (pay / 2 ^ (8 * stride * (k / 16))) (k % 16)

def blockFmt (b : Nat) : Nat := fld b 0 8
def blockScale (b : Nat) : Nat := fld b 8 8
def blockGrade (b : Nat) : BitVec 16 := BitVec.ofNat 16 (fld b 16 16)

/-- The value of slot k of a block (R96). -/
def blockElem (f : BFmt) (b k : Nat) : Num :=
  if blockScale b = 255 then .canonNaN
  else
    let stride := match f with
      | .flat _ => 0
      | .nest w => groupBytes w
    (payloadElem f stride (b / 2 ^ 32) k).scale ((blockScale b : Int) - 127)

/-- The format of a block read as part of a tensor of a width class; none when it is malformed (R98). -/
def blockIn (cls b : Nat) : Option BFmt :=
  match bfmtOf (blockFmt b) with
  | some f => if f.cls = cls then some f else none
  | none => none

/-! ### Writing elements (R92, R99-R101) -/

/-- A value to be written, the resolved mode, and whether a NaN payload is kept. -/
structure ESlot where
  x : Num
  mode : RMode
  keep : Bool
  deriving DecidableEq, Repr

def ESlot.zero : ESlot := { x := .fin false 0 0, mode := .rne, keep := false }

/-- Is |x| at most m · 2^e? -/
def absLe (x : Num) (m : Nat) (e : Int) : Bool :=
  match x with
  | .fin _ a f => !magLt m e a f
  | .inf _ => false
  | .nan _ _ _ => false

/-- What a write of a group gives: its bits, flags, and whether its free bits were used. -/
structure GroupOut where
  bits : Nat
  flags : Flags
  free : Bool
  deriving DecidableEq, Repr

/-- An element of a group: its w-bit code and flags, on the grid 2^e. -/
def groupCode (w : Nat) (s : ESlot) (e : Int) (clamp : Bool) : Nat × Flags :=
  let top := 2 ^ (w - 1) - 1
  match s.x with
  | .fin n a f =>
    let low := min e f
    let x := alignTo a f low
    let d := alignTo 1 e low
    let q := x / d
    let r := x % d
    let q1 := if roundUp s.mode n (decide (q % 2 = 1)) r d then q + 1 else q
    if clamp && decide (top * d < x) then (top + flagAt n (w - 1), flSat ||| flInexact)
    else (q1 + flagAt (n && q1 != 0) (w - 1), if r = 0 then 0 else flInexact)
  | .inf n => (top + flagAt n (w - 1), flSat ||| flInexact)
  | .nan _ _ _ => (0, 0)

/-- A group of 16 values, already divided by the block scale (R92). `free` fills the bits that a group of NaNs leaves
open (log 48). -/
def encodeGroup (w : Nat) (xs : List ESlot) (sat : Bool) (free : Nat) : GroupOut :=
  let top := 2 ^ (w - 1) - 1
  let grid (g : Nat) (u : Nat) : Int := (g : Int) - 127 - u - (w - 2)
  let nanGroup (fl : Flags) : GroupOut :=
    { bits := 255 + 2 ^ 8 * (free % 2 ^ (8 + 16 * w)), flags := fl, free := true }
  if xs.any (fun s => s.x.isNaN) then nanGroup 0
  else
    let g := (List.range 255).find? (fun g => xs.all (fun s => absLe s.x top (grid g 0)))
    if g.isNone && !sat then nanGroup (flOver ||| flInexact)
    else
      let clamp := g.isNone
      let gg := g.getD 254
      let cl (s : ESlot) : Num := if clamp && !absLe s.x top (grid gg 0) then .fin s.x.negative top (grid gg 0) else s.x
      let mu (j : Nat) : Nat := (([3, 2, 1].find? (fun u =>
        (List.range 4).all (fun i => absLe (cl (xs.getD (4 * j + i) ESlot.zero)) top (grid gg u)))).getD 0)
      let es := (List.range 16).map (fun i => groupCode w (xs.getD i ESlot.zero) (grid gg (mu (i / 4))) clamp)
      { bits := gg + ((List.range 4).foldl (fun a j => a + mu j * 2 ^ (2 * j)) 0) * 2 ^ 8 +
          ((List.range 16).foldl (fun a i => a + (es.getD i (0, 0)).1 * 2 ^ (w * i)) 0) * 2 ^ 16
        flags := es.foldl (fun a e => a ||| e.2) 0
        free := false }

/-- A payload: the slots' codes, flags, the values delivered and the free counter. -/
structure PayOut where
  bits : Nat
  flags : Flags
  vals : List Num
  free : Nat
  deriving DecidableEq, Repr

/-- Write slots (already divided by the block scale) as a payload; nested groups stand `stride` bytes apart. -/
def encodePayload (f : BFmt) (stride : Nat) (xs : List ESlot) (sat : Bool) (free : Nat) : PayOut :=
  match f with
  | .flat t =>
    let rs := xs.map (fun s => roundNum s.x t s.mode sat s.keep)
    { bits := (rs.foldl (fun (q : Nat × Nat) r => (q.1 + r.code % 2 ^ t.width * 2 ^ q.2, q.2 + t.width)) (0, 0)).1
      flags := rs.foldl (fun a r => a ||| r.flags) 0
      vals := rs.map (fun r => decodeFloat t r.code)
      free := free }
  | .nest w =>
    let n := (xs.length + 15) / 16
    let q := (List.range n).foldl (fun (q : Nat × Flags × Nat) i =>
      let o := encodeGroup w ((xs.drop (16 * i)).take 16) sat (Config.freeValue q.2.2)
      (q.1 + o.bits * 2 ^ (8 * stride * i), q.2.1 ||| o.flags, if o.free then q.2.2 + 1 else q.2.2)) (0, 0, free)
    { bits := q.1, flags := q.2.1, vals := (List.range xs.length).map (fun k => payloadElem f stride q.1 k), free := q.2.2 }

/-- The same value: equal numbers (zeros of either sign), or both NaN. -/
def numSame (x y : Num) : Bool :=
  if x.isNaN && y.isNaN then true else x.eqv y

/-- R293: the scale of a block whose values are `xs`, in a format. -/
def pickScale (f : BFmt) (xs : List Num) : Nat :=
  match f with
  | .nest _ => 127
  | .flat t =>
    let fin := xs.filter (fun x => !x.isNaN && !x.isInf && !x.isZero)
    if fin.isEmpty then 127
    else
      let m := maxMag t
      let ok (k : Nat) : Bool := fin.all (fun x => absLe x m.1 (m.2 + ((k : Int) - 127)))
      ((List.range 255).find? ok).getD 254

/-- The header and payload of a block (R93). -/
def mkBlock (code scale : Nat) (grade : BitVec 16) (pay : Nat) : Nat :=
  code + scale * 2 ^ 8 + grade.toNat * 2 ^ 16 + pay % 2 ^ 480 * 2 ^ 32

/-! ### Grades (R95, R117, R119) -/

abbrev Grade := BitVec 16

def gExact : Grade := 0x8000
def gUnknown : Grade := 0
def Grade.exact (g : Grade) : Bool := g.getLsbD 15
def Grade.ba (g : Grade) : Nat := (g.extractLsb' 0 12).toNat
def Grade.known (g : Grade) : Bool := g.exact || decide (g.ba ≠ 0)

/-- L(n) for a count of terms (log 49 for five). -/
def lTerms (n : Nat) : Int := if n = 5 then 38 else lOf n

/-- The grade that terms give: exact without terms, unknown with an unknown operand. -/
def gradeOf (unknown : Bool) (terms : List Int) : Grade :=
  if unknown then gUnknown
  else
    match terms with
    | [] => gExact
    | t :: ts =>
      let b := ts.foldl min t - lTerms terms.length
      if b ≤ 0 then gUnknown else BitVec.ofNat 16 (min b.toNat 4095)

/-- The worse of two grades. -/
def gWorse (a b : Grade) : Grade :=
  if a.exact then (if b.exact then gExact else BitVec.ofNat 16 b.ba)
  else if b.exact then BitVec.ofNat 16 a.ba
  else BitVec.ofNat 16 (min a.ba b.ba)

/-- The operand term of a grade, if it has one. -/
def operandTerm (g : Grade) (s : Int) : List Int := if g.exact then [] else [(g.ba : Int) - s]

/-- Is a job short of its budget (R119)? -/
def isShort (g : Grade) (budget : BitVec 16) : Bool :=
  !g.exact && (budget.getLsbD 15 || decide (g.ba < (budget.extractLsb' 0 12).toNat))

/-- The required budget of a short job. -/
def needOf (g : Grade) (budget : BitVec 16) : Nat :=
  if isShort g budget then (adj budget (((budget.extractLsb' 0 12).toNat : Int) - g.ba)).toNat else 0

/-- The narrowest candidate whose credit meets a share, else the last one (R115). -/
def chooseFmt (share : BitVec 16) (cands : List Nat) (credit : Nat → Nat) (last : Nat) : Nat :=
  if share.getLsbD 15 then last
  else (cands.find? (fun c => decide ((share.extractLsb' 0 12).toNat ≤ 16 * credit c))).getD last

/-- The credit of a format code. -/
def codeCredit (c : Nat) : Nat :=
  match bfmtOf c with
  | some f => f.credit
  | none => 0

end Sys2Proof.Machine
end

