-- ==== Sys2Proof/Machine/Keccak.lean ====
section
/-! DEFINITION. Keccak and KMAC (FIPS 202, NIST SP 800-185), which name the lines of the content store (R356). -/

namespace Sys2Proof.Machine

/-- Rotate a 64-bit lane left. -/
def kRot (n k : Nat) : Nat := n * 2 ^ k % 2 ^ 64 ||| n / 2 ^ (64 - k)

/-- The round constants. -/
def kRounds : List Nat :=
  [0x1, 0x8082, 0x800000000000808A, 0x8000000080008000,
   0x808B, 0x80000001, 0x8000000080008081, 0x8000000000008009,
   0x8A, 0x88, 0x80008009, 0x8000000A,
   0x8000808B, 0x800000000000008B, 0x8000000000008089, 0x8000000000008003,
   0x8000000000008002, 0x8000000000000080, 0x800A, 0x800000008000000A,
   0x8000000080008081, 0x8000000000008080, 0x80000001, 0x8000000080008008]

/-- The rotation offsets, lane x + 5y. -/
def kOffsets : List Nat :=
  [0, 1, 62, 28, 27, 36, 44, 6, 55, 20, 3, 10, 43, 25, 39, 41, 45, 15, 21, 8, 18, 2, 61, 56, 14]

/-- One round of Keccak-f[1600] on 25 lanes. -/
def kRound (a : List Nat) (rc : Nat) : List Nat :=
  let at' (l : List Nat) (x y : Nat) : Nat := l.getD (x % 5 + 5 * (y % 5)) 0
  let c := (List.range 5).map (fun x => at' a x 0 ^^^ at' a x 1 ^^^ at' a x 2 ^^^ at' a x 3 ^^^ at' a x 4)
  let d := (List.range 5).map (fun x => c.getD ((x + 4) % 5) 0 ^^^ kRot (c.getD ((x + 1) % 5) 0) 1)
  let e := (List.range 25).map (fun i => a.getD i 0 ^^^ d.getD (i % 5) 0)
  let b := (List.range 25).map (fun i =>
    let j := (i % 5 + 3 * (i / 5)) % 5 + 5 * (i % 5)
    kRot (e.getD j 0) (kOffsets.getD j 0))
  let f := (List.range 25).map (fun i =>
    b.getD i 0 ^^^ ((2 ^ 64 - 1 - at' b (i % 5 + 1) (i / 5)) &&& at' b (i % 5 + 2) (i / 5)))
  setAt f 0 (f.getD 0 0 ^^^ rc)

def keccakF (a : List Nat) : List Nat := kRounds.foldl kRound a

/-- Absorb a padded message, `rate` bytes at a time (by fuel). -/
def kAbsorb (rate : Nat) : Nat → List Nat → List Byte → List Nat
  | 0, a, _ => a
  | n + 1, a, m =>
    if m.isEmpty then a
    else
      let blk := (List.range (rate / 8)).map (fun i => ofBytes ((m.drop (8 * i)).take 8))
      kAbsorb rate n (keccakF ((List.range 25).map (fun i => a.getD i 0 ^^^ blk.getD i 0))) (m.drop rate)

/-- Pad with the domain byte and the final bit, to a multiple of the rate. -/
def kPad (rate : Nat) (m : List Byte) : List Byte :=
  let n := rate - m.length % rate
  if n = 1 then m ++ [0x84] else m ++ [0x04] ++ List.replicate (n - 2) 0 ++ [0x80]

/-- cSHAKE's sponge with an output of at most one block. -/
def kSponge (rate out : Nat) (m : List Byte) : List Byte :=
  let p := kPad rate m
  ((kAbsorb rate (p.length / rate) (List.replicate 25 0) p).flatMap (toBytes 8)).take out

/-- Big-endian bytes without leading zeros, at least one. -/
def beBytes (n : Nat) : List Byte := (toBytes (max 1 ((bitLen n + 7) / 8)) n).reverse

def leftEncode (n : Nat) : List Byte := BitVec.ofNat 8 (beBytes n).length :: beBytes n
def rightEncode (n : Nat) : List Byte := beBytes n ++ [BitVec.ofNat 8 (beBytes n).length]
def encodeString (s : List Byte) : List Byte := leftEncode (8 * s.length) ++ s

def bytePad (w : Nat) (x : List Byte) : List Byte :=
  let z := leftEncode w ++ x
  z ++ List.replicate ((w - z.length % w) % w) 0

/-- KMAC128 with an empty customisation string. -/
def kmac128 (key data : List Byte) (out : Nat) : List Byte :=
  kSponge 168 out (bytePad 168 (encodeString [0x4B, 0x4D, 0x41, 0x43] ++ encodeString []) ++
    bytePad 168 (encodeString key) ++ data ++ rightEncode (8 * out))

end Sys2Proof.Machine
end

