-- ==== Sys2Proof/Machine/Outside.lean ====
section
/-! DEFINITION. Accesses by agents outside the cores, and the host message channel (R132-R135, R244). -/

namespace Sys2Proof.Machine

/-! ### Reads and writes of a space by an agent outside the cores -/

/-- The writer id of the dispatcher (log 11). -/
def dispWriter : Nat := 16420

/-- What is left of a line at an address, at most n. -/
def chunkOf (va n : Nat) : Nat := min n (64 - va % 64)

/-- The walk status 0 and the bytes, or the status that ended the read (100 for poisoned bytes); by fuel, a line at a
time. -/
def spRead (w sp : Nat) : Nat → State → Nat → Nat → List Byte → (Nat × List Byte) × State
  | 0, s, _, _, acc => ((0, acc), s)
  | f + 1, s, va, n, acc =>
    if n = 0 then ((0, acc), s)
    else
      match xlatePort s sp .read va with
      | ((0, tr), s1) =>
        let k := chunkOf va n
        if !tr.host && s1.mem.poisoned (tr.line * 64 + tr.off) k then ((100, acc), s1)
        else spRead w sp f s1 (va + k) (n - k) (acc ++ outsideRead s1 w tr k)
      | ((st, _), s1) => ((st, acc), s1)

def readSpace (s : State) (w sp va n : Nat) : (Nat × List Byte) × State := spRead w sp (n / 64 + 2) s va n []

/-- Write bytes of a space, a line at a time; the status that ended it, or 0. -/
def spWrite (w sp : Nat) : Nat → State → Nat → List Byte → Nat × State
  | 0, s, _, _ => (0, s)
  | f + 1, s, va, bs =>
    if bs.isEmpty then (0, s)
    else
      match xlatePort s sp .write va with
      | ((0, tr), s1) =>
        let k := chunkOf va bs.length
        spWrite w sp f (outsideWrite s1 w tr (bs.take k)) (va + k) (bs.drop k)
      | ((st, _), s1) => (st, s1)

def writeSpace (s : State) (w sp va : Nat) (bs : List Byte) : Nat × State := spWrite w sp (bs.length / 64 + 2) s va bs

/-- Packets of a writer that have not performed. -/
def writerPending (s : State) (w : Nat) : Bool :=
  s.mem.paths.any (fun e => e.2.any (fun p => decide (p.writer = w)))

/-! ### Messages (R132, R133) -/

/-- The n of a queue of 2^n entries from its field: HQLOG and DQLOG are stored so (07 Table 1); a network ring's field,
which 25 Table 5 stores as written, is used so (log 85). -/
def qLog (v : Nat) : Nat := if 4 ≤ fld v 0 4 ∧ fld v 0 4 ≤ 12 then fld v 0 4 else 4

/-- The successor of a sequence number: modulo 2^32, skipping 0. -/
def nextSeq (n : Nat) : Nat := if (n + 1) % 2 ^ 32 = 0 then 1 else (n + 1) % 2 ^ 32

/-- Serial-number order: a precedes b. -/
def precedes (a b : Nat) : Bool :=
  let d := (b + 2 ^ 32 - a % 2 ^ 32) % 2 ^ 32
  decide (1 ≤ d) && decide (d ≤ 2 ^ 31 - 1)

/-- The 64 bytes of a message. -/
def msgBytes (seq ack typ n body : Nat) : List Byte :=
  toBytes 64 (seq + ack * 2 ^ 32 + typ * 2 ^ 64 + n * 2 ^ 80 + body % 2 ^ 384 * 2 ^ 128)

/-- Write held messages into the device-to-host queue while it has a free entry (by fuel). -/
def flushChan : Nat → State → State
  | 0, s => s
  | n + 1, s =>
    match s.chan.pending with
    | [] => s
    | m :: ms =>
      let ch := s.chan
      if ch.dqset = false ∨ 2 ^ ch.dqlog ≤ (ch.dqwritten + 2 ^ 32 - ch.dqhead % 2 ^ 32) % 2 ^ 32 then s
      else
        let at' := ch.dqbase.toNat + 64 * (ch.dqwritten % 2 ^ ch.dqlog)
        flushChan n { s with
          chan := { ch with pending := ms, dqwritten := (ch.dqwritten + 1) % 2 ^ 32 }
          mem := { s.mem with host := Cells.putN s.mem.host at' m } }

def flushAll (s : State) : State := flushChan s.chan.pending.length s

/-- Send a message: it takes the next number, is kept for replay among the last 64, and waits for a queue entry. -/
def sendMsg (s : State) (typ n body : Nat) : State :=
  let q := nextSeq s.chan.dsent
  let m := msgBytes q s.chan.hrecv typ n body
  let kept := (s.chan.kept ++ [(q, m)])
  let kept' := kept.drop (kept.length - 64)
  flushAll { s with chan := { s.chan with
    dsent := q, kept := kept', doldest := (kept'.head?.map Prod.fst).getD 0, pending := s.chan.pending ++ [m] } }

/-! ### Health (R446) -/

/-- The health doubleword at 0x440. -/
def healthWord (s : State) : Nat :=
  let h := s.mgmt.health
  ((s.clusters.filter (fun e => e.2.fenced)).length) * 2 ^ 16 + flagAt h.resetting 3 + flagAt h.thermal 2 +
    flagAt h.limiting 1 + flagAt h.replace 0

/-- Message 0x86 when the doubleword differs from what it was. -/
def healthMsg (old : Nat) (s : State) : State :=
  if healthWord s = old then s else sendMsg s 0x86 16 (healthWord s + s.time.tick % 2 ^ 64 * 2 ^ 64)

/-! ### Ending trees from outside (R143) -/

/-- Missed-deadline action 1 on a subtree: every gang is taken off, its context dropped, its jobs cancelled. -/
def abortSubtree (s : State) (lid i : Nat) : State :=
  endSubtree s lid i 1 0

/-- A host cancel: action 1 on the named launch. -/
def cancelLaunch (s : State) (seq sp : Nat) : State :=
  match s.disp.launches.find? (fun e => decide (e.2.seq = seq) && decide (e.2.space = sp) && !e.2.done) with
  | some e => abortSubtree { s with disp := { s.disp with launches := AMap.set s.disp.launches e.1 { e.2 with aborted := true } } } e.1 0
  | none => s

/-! ### Host messages (R134, R135) -/

/-- The next host message, if there is one. -/
def hostNext (s : State) : Option Nat :=
  if s.chan.hqset && s.chan.hqread != s.chan.hqtail then
    some (ofBytes (Cells.getN s.mem.host (s.chan.hqbase.toNat + 64 * (s.chan.hqread % 2 ^ s.chan.hqlog)) 64))
  else none

/-- The type a message is acted on as: 1 for a reserved bit, an unknown type or a body longer than 48 bytes. -/
def hostType (m : Nat) : Nat :=
  if fld m 72 8 ≠ 0 ∨ fld m 96 32 ≠ 0 ∨ 48 < fld m 80 16 then 1
  else if fld m 64 8 = 2 ∨ fld m 64 8 = 3 then fld m 64 8
  else 1

/-- Handle the next host message by its sequence number; `act` is what an accepted message does. -/
def hostTake (s : State) (m : Nat) (act : State → State) : State :=
  let s1 := { s with chan := { s.chan with hqread := (s.chan.hqread + 1) % 2 ^ 32 } }
  let e := nextSeq s.chan.hrecv
  let q := fld m 0 32
  if q = e then act { s1 with chan := { s1.chan with hrecv := q } }
  else if q = s.chan.hrecv ∨ precedes q s.chan.hrecv then s1
  else sendMsg s1 0x85 4 e

/-- Handle the next host message when it is of a type. -/
def hostEvent (s : State) (typ : Nat) (act : Nat → State → State) : State :=
  match hostNext s with
  | some m => if hostType m = typ then hostTake s m (act m) else s
  | none => s

/-- Replay from a sequence number on (R135). -/
def replayFrom (s : State) (n : Nat) : State :=
  let ch := s.chan
  if precedes ch.dsent n then s
  else
    let short := precedes n ch.doldest
    let s1 := if short then sendMsg s 0x84 4 ch.doldest else s
    let from' := if short then ch.doldest else n
    let again := (ch.kept.filter (fun e => e.1 = from' || precedes from' e.1)).map (fun e =>
      e.2.take 4 ++ toBytes 4 s.chan.hrecv ++ e.2.drop 8)
    flushAll { s1 with chan := { s1.chan with pending := s1.chan.pending ++ again } }

def execHostAck (s : State) : Host.Outcome State Fault Refusal := .next (hostEvent s 1 (fun _ s => s))

def execReplayRequest (s : State) : Host.Outcome State Fault Refusal :=
  .next (hostEvent s 2 (fun m s => replayFrom s (fld m 128 32)))

def execCancel (s : State) : Host.Outcome State Fault Refusal :=
  .next (hostEvent s 3 (fun m s => cancelLaunch s (fld m 128 32) (fld m 160 16)))

/-- The host advances DQHEAD (R132). -/
def execDqheadWrite (value : Word) (s : State) : Host.Outcome State Fault Refusal :=
  .next (flushAll { s with chan := { s.chan with dqhead := wfld value 0 32 } })

/-- The host writes DQBASE (R132). -/
def execDqbaseWrite (value : Word) (s : State) : Host.Outcome State Fault Refusal :=
  .next (flushAll { s with chan := { s.chan with dqbase := value, dqset := true } })

end Sys2Proof.Machine
end

