-- ==== Sys2Proof/Machine/Home.lean ====
section
/-! DEFINITION. What a home, a bank and a queue do by themselves: atomic operations, the performing of packets, bank
updates, barrier arrivals, completion words and the window-2 views (R232, R284, R285, R298, R346, R381, R392,
R399, R403). -/

namespace Sys2Proof.Machine

/-! ### The operations of `amo`, `red` and `nred` (R392) -/

/-- The format of a float type of `nred`; none for an integer one. -/
def nFmt : NTy → Option Fmt
  | .f32 => some .f32
  | .bf16 => some .bf16
  | .i64 => none
  | .i32 => none

def nWidth : NTy → Nat
  | .i64 => 64
  | .i32 => 32
  | .f32 => 32
  | .bf16 => 16

def aTy : ATy → NTy
  | .i64 => .i64
  | .i32 => .i32
  | .f32 => .f32

/-- An integer operation at width n on unsigned codes. -/
def intAOp (op : AOp) (n : Nat) (uns : Bool) (old v : Nat) : Nat :=
  let rd (x : Nat) : Int := if uns then ((x % 2 ^ n : Nat) : Int) else sextI x n
  match op with
  | .swap => v % 2 ^ n
  | .add => (old + v) % 2 ^ n
  | .and => (old &&& v) % 2 ^ n
  | .or => (old ||| v) % 2 ^ n
  | .xor => (old ^^^ v) % 2 ^ n
  | .min => if rd old ≤ rd v then old % 2 ^ n else v % 2 ^ n
  | .max => if rd old ≥ rd v then old % 2 ^ n else v % 2 ^ n

/-- A float operation: the new code and the flags. -/
def floatAOp (op : AOp) (fmt : Fmt) (mode : RMode) (old v : Nat) : Nat × Flags :=
  let x := decodeFloat fmt old
  let y := decodeFloat fmt v
  match op with
  | .add =>
    let e := sumNum [x, y] mode
    let r := roundNum e.val fmt mode false false
    (r.code, e.flags ||| r.flags)
  | .min =>
    let e := minMaxNum false x y
    ((roundNum e.val fmt .rne false false).code, e.flags)
  | .max =>
    let e := minMaxNum true x y
    ((roundNum e.val fmt .rne false false).code, e.flags)
  | .swap => (v, 0)
  | .and => (v, 0)
  | .or => (v, 0)
  | .xor => (v, 0)

/-- Does an operation round (and so step a generator under mode 5)? -/
def aRounds : NTy → AOp → Bool
  | .f32, .add => true
  | .bf16, .add => true
  | _, _ => false

/-- One operation under mode number `r`, with a list of generators of which number 0 is stepped (R102). -/
def applyAOp (t : NTy) (op : AOp) (uns : Bool) (r : Nat) (gens : List (BitVec 16)) (old v : Nat) :
    Nat × Flags × List (BitVec 16) :=
  match nFmt t with
  | none => (intAOp op (nWidth t) uns old v, 0, gens)
  | some f =>
    let m := if aRounds t op then resolveMode r 0 gens 0 else (.rne, gens)
    let x := floatAOp op f m.1 (old % 2 ^ nWidth t) (v % 2 ^ nWidth t)
    (x.1, x.2, m.2)

/-- The cluster whose slice is the home of a line (R239, R448). -/
def homeSlice (s : State) (hl : Nat) : Nat := s.mem.sliceOf hl

/-- Read-modify-write at a home: the old value, the flags, and the state with the value and generators written; a word
that a unit of the device holds keeps its value (R37, R38). -/
def homeRmw (s : State) (hl key off : Nat) (t : NTy) (op : AOp) (uns : Bool) (r v : Nat) : Nat × Flags × State :=
  let n := nWidth t / 8
  let old := ofBytes (s.mem.lineBytes hl key off n)
  let h := homeSlice s hl
  let x := applyAOp t op uns r (s.cluster h).homeGens old v
  let s1 := homeStore s hl key off (toBytes n x.1)
  (old, x.2.1, if aRounds t op && r == 5 then s1.modCluster h (fun c => { c with homeGens := x.2.2 }) else s1)

/-! ### Barrier arrivals (R403) -/

/-- The phases that an arrival of `a` completes, by fuel; at most a + 1 of them. -/
def arriveLoop (count : Nat) : Nat → Nat → Nat → Nat → Nat × Nat
  | 0, _, pending, phase => (pending, phase)
  | f + 1, a, pending, phase =>
    if pending ≤ a then arriveLoop count f (a - pending) count ((phase + 1) % 2 ^ 16) else (pending - a, phase)

/-- The barrier doubleword after an arrival of count `a`. -/
def arrive (b a : Nat) : Nat :=
  let count := fld b 0 16
  if count = 0 ∨ a = 0 then b
  else
    let r := arriveLoop count (a + 2) a (fld b 16 16) (fld b 48 16)
    setFld (setFld b 16 16 r.1) 48 16 r.2

/-- Wake the slots parked on a barrier of a pool line. -/
def wakeBarrier (s : State) (c line : Nat) : State :=
  { s with cores := s.cores.map (fun e => (e.1, { e.2 with slots := e.2.slots.map (fun q =>
      (q.1, match q.2.status with
        | .parked (.barrier d o _) => if d = c ∧ o / 64 = line / 64 then { q.2 with status := .ready } else q.2
        | _ => q.2)) })) }

/-- Apply an arrival at a barrier; on a poisoned codeword it is discarded. -/
def barrierArrive (s : State) (c off a : Nat) : State :=
  let x := s.core c
  if x.poisoned off 8 then s
  else
    let b := x.num off 8
    let b' := arrive b a
    let s1 := if b' = b then s else s.modCore c (fun x => { x with pool := Cells.putN x.pool off (toBytes 8 b') })
    if fld b' 48 16 = fld b 48 16 then s1 else wakeBarrier s1 c off

/-! ### The performing of packets (M6) -/

/-- May the head packet of a path perform? -/
def canPerform (s : State) (key : Nat) : Bool :=
  match s.mem.path key with
  | [] => false
  | p :: _ =>
    (match p.version with
     | none => true
     | some v => decide (v = (s.mem.hline p.line).performed + 1)) && !dieHeld s (key / 4 % 16)

/-- The home has performed a version. -/
def Memory.perform (m : Memory) (hl : Nat) (v : Option Nat) : Memory :=
  match v with
  | none => m
  | some n => { m with lines := AMap.set m.lines hl { m.hline hl with performed := n } }

/-- A write of a core's thread has performed: the core's near copy takes its bytes, and those of the core's younger
writes that are still on their path (R240); a reduction takes the copy away. -/
def nearPerform (s : State) (p : Packet) (key : Nat) : State :=
  if 16384 ≤ p.writer then s
  else
    let c := p.writer / 4
    match p.op with
    | .marker => s
    | .reduce _ _ _ _ _ _ _ => nearDrop s c (nearIdx p.key p.line)
    | .write bs => ((s.mem.path key).filter (fun q => q.writer / 4 == c && q.line == p.line && q.key == p.key)).foldl
        (fun s q => match q.op with
          | .write b => s.modCore c (fun x => nearMerge x p.line p.key b)
          | .reduce _ _ _ _ _ _ _ => s
          | .marker => s) (s.modCore c (fun x => nearMerge x p.line p.key bs))

/-- What a write leaves at its home: bytes that a unit of the device holds keep what that unit last wrote (R37, R38). -/
def landing (s : State) (p : Packet) (bs : AMap Byte) : AMap Byte :=
  if p.writer = dispWriter then bs else bs.filter (fun e => !deviceHeld s (p.line * 64 + e.1))

/-- M6: the head packet of a path performs. A reduction on poison is discarded (R282); its barrier is arrived at. -/
def performHead (s : State) (key : Nat) : State :=
  match s.mem.path key with
  | [] => s
  | p :: ps =>
    let s1 := s.modMem (fun m => ({ m with paths := if ps.isEmpty then AMap.del m.paths key else AMap.set m.paths key ps }).perform p.line p.version)
    match p.op with
    | .write bs => nearPerform (s1.modMem (fun m => m.writeMask p.line p.key (landing s p bs))) { p with op := .write (landing s p bs) } key
    | .marker => s1.modMem (fun m => { m with gathered := AMap.set m.gathered p.writer (AMap.getD m.gathered p.writer 0 + 1) })
    | .reduce off op ty uns r v bar =>
      let s2 := nearPerform (if s1.mem.poisoned (p.line * 64 + off) (aBytes ty) then s1
        else (homeRmw s1 p.line p.key off (aTy ty) op uns r v).2.2) p key
      match bar with
      | some (c, o) => barrierArrive s2 c o 1
      | none => s2

/-- Perform heads until no packet of the writers that `sel` names is left, by fuel. -/
def settleWriters (sel : Nat → Bool) : Nat → State → State
  | 0, s => s
  | n + 1, s =>
    if s.mem.paths.any (fun e => e.2.any (fun p => sel p.writer)) then
      match s.mem.paths.find? (fun e => canPerform s e.1) with
      | some e => settleWriters sel n (performHead s e.1)
      | none => s
    else s

/-- The number of packets on their way. -/
def packetCount (s : State) : Nat := s.mem.paths.foldl (fun n e => n + e.2.length) 0

/-! ### Bank updates (R399, R400) -/

/-- The new word of an update function. -/
def bankFn (code w v : Nat) : Nat :=
  let m := 2 ^ 32
  let sw := sextI w 32
  let sv := sextI v 32
  let f (op : AOp) (r : RMode) : Nat := (floatAOp op .f32 r w v).1
  match code with
  | 0 => (w + v) % m
  | 1 => ((satInt 32 (sw + sv)).1 % (m : Int)).toNat
  | 2 => f .add .rne
  | 3 => if sw ≤ sv then w else v
  | 4 => if sw ≥ sv then w else v
  | 5 => min w v
  | 6 => max w v
  | 7 => f .min .rne
  | 8 => f .max .rne
  | 9 => w &&& v
  | 10 => w ||| v
  | 11 => w ^^^ v
  | 12 => v
  | 13 => if v ≤ w then 0 else w + 1
  | _ => w

/-- Apply one update of the word at `off` of a pool; a poisoned codeword is left as it is. -/
def applyUpdate (s : State) (c off v fn : Nat) (tag : Bool) : State :=
  let x := s.core c
  let s1 := if x.poisoned off 4 then s
    else s.modCore c (fun x => { x with
      pool := Cells.putN x.pool off (toBytes 4 (bankFn (AMap.getD x.fns fn 0) (x.num off 4) (v % 2 ^ 32))) })
  if tag then setTagsWake s1 c off 4 true else s1

def applyBank (s : State) (c : Nat) : BankOp → State
  | .update off v fn tag => applyUpdate s c off v.toNat fn tag
  | .config fn code => s.modCore c (fun x => { x with fns := AMap.set x.fns fn code })

/-- The next accepted update of a pool. -/
def bankHead (s : State) (c : Nat) : State :=
  match (s.core c).bank with
  | [] => s
  | b :: bs => applyBank (s.modCore c (fun x => { x with bank := bs })) c b

/-- Every accepted update of a pool, by fuel. -/
def bankDrain : Nat → State → Nat → State
  | 0, s, _ => s
  | n + 1, s, c => if (s.core c).bank.isEmpty then s else bankDrain n (bankHead s c) c

def bankAll (s : State) (c : Nat) : State := bankDrain (s.core c).bank.length s c

/-! ### Completion words (R284, R346, R417) -/

/-- The copy completion word, 128 bits (14 Table 1). -/
def CopyJob.word (j : CopyJob) : Nat :=
  j.id + j.status * 2 ^ 32 + j.code * 2 ^ 40 + j.grade.toNat * 2 ^ 48 + j.need * 2 ^ 64 + j.flags % 64 * 2 ^ 80 +
    j.mask % 256 * 2 ^ 88 + j.rst % 2 ^ 32 * 2 ^ 96

/-- The matrix completion word (17 Table 2). -/
def MatrixJob.word (j : MatrixJob) : Nat :=
  j.id + j.status * 2 ^ 32 + j.code * 2 ^ 40 + j.grade.toNat * 2 ^ 48 + j.need * 2 ^ 64 + j.flags % 64 * 2 ^ 80 +
    j.done % 64 * 2 ^ 96 + j.afmt * 2 ^ 112 + j.bfmt * 2 ^ 120

/-- The depth and next identifier of a queue: 0 matrix, 1 copy. -/
def queueDepth (q : Nat) : Nat := if q = 0 then 16 else 32
def queueNext (s : State) (cl q : Nat) : Nat := if q = 0 then (s.cluster cl).mxNext else (s.cluster cl).copyNext

/-- How many identifiers a queue has issued since `id`, modulo 2^32. -/
def idAge (next id : Nat) : Nat := (next + 2 ^ 32 - id % 2 ^ 32) % 2 ^ 32

/-- The completion word of a listed job. -/
def listedWord (s : State) (cl q id : Nat) : Option Nat :=
  if q = 0 then (AMap.get (s.cluster cl).mxJobs id).map MatrixJob.word
  else (AMap.get (s.cluster cl).copyJobs id).map CopyJob.word

/-- The completion word that a poll sees (R417): an identifier not issued yet gives status 2 and code 0xFF, a word
that is no longer readable gives status 1. -/
def jobWord (s : State) (cl q id : Nat) : Nat :=
  let next := queueNext s cl q
  let age := idAge next id
  if age = 0 ∨ 2 ^ 31 ≤ age then id % 2 ^ 32 + 2 * 2 ^ 32 + 0xFF * 2 ^ 40
  else if age ≤ queueDepth q then (listedWord s cl q id).getD (id % 2 ^ 32 + 2 ^ 32)
  else id % 2 ^ 32 + 2 ^ 32

/-- A job number has a final status. -/
def jobFinal (s : State) (cl q id : Nat) : Bool := decide (fld (jobWord s cl q id) 32 3 ≠ 0)

/-- The completion word that the acting thread sees through its rename table (R435). -/
def renamedWord (s : State) (c k q id : Nat) : Nat :=
  match AMap.get (s.thread c k).ren (q * 2 ^ 32 + id % 2 ^ 32) with
  | some (.final w) => w
  | some (.renamed n) => jobWord s (clusterOf c) q n
  | some (.command _ _ _ _ _) => id % 2 ^ 32
  | none => jobWord s (clusterOf c) q id

def pendingJobs (s : State) (cl q : Nat) : Nat :=
  if q = 0 then ((s.cluster cl).mxJobs.filter (fun e => e.2.status == 0)).length
  else ((s.cluster cl).copyJobs.filter (fun e => e.2.status == 0)).length

/-! ### The views of window 2 (R232) -/

/-- Rings that a cluster's governor holds, in the order of acceptance. -/
def heldRings (s : State) (cl : Nat) : List Ring :=
  sortBy (fun r => r.launch) ((AMap.vals s.disp.rings).filter (fun r => r.holder == some cl))

def ringCounters (r : Ring) : Nat := r.claim + r.post * 2 ^ 32 + r.take * 2 ^ 64 + r.free * 2 ^ 96

def shutterView (h : Shutter) : Nat :=
  h.lo % 2 ^ 64 + h.hi % 2 ^ 64 * 2 ^ 64 + h.id % 2 ^ 32 * 2 ^ 128 + flagAt h.closed 160 + flagAt h.global 161 + h.pos * 2 ^ 162

/-- The doubleword that window 2 shows to a core at an offset of a sub-window. -/
def viewWord (s : State) (c sub off : Nat) : Nat :=
  let cl := clusterOf c
  let half (w : Nat) : Nat := fld w (off % 16 * 8) 64
  let slotWord (q i : Nat) : Nat :=
    let ids := if q = 0 then AMap.keys (s.cluster cl).mxJobs else AMap.keys (s.cluster cl).copyJobs
    match ids.filter (fun id => id % queueDepth q == i && decide (idAge (queueNext s cl q) id ≤ queueDepth q)) with
    | id :: _ => (listedWord s cl q id).getD 0
    | [] => 0
  match sub with
  | 0 =>
    if off < 0x100 then half (slotWord 0 (off / 16))
    else if off = 0x100 then queueNext s cl 0 + pendingJobs s cl 0 * 2 ^ 32 else 0
  | 1 =>
    if off < 0x200 then half (slotWord 1 (off / 16))
    else if off = 0x200 then queueNext s cl 1 + pendingJobs s cl 1 * 2 ^ 32 else 0
  | 2 =>
    if off < 512 then
      match AMap.get (s.core c).shutters (off / 32) with
      | some h => fld (shutterView h) (off % 32 * 8) 64
      | none => 0
    else 0
  | _ =>
    match (heldRings s cl).drop (off / 16) with
    | r :: _ => half (ringCounters r)
    | [] => 0

/-! ### Answers (R260, R261, R277) -/

/-- Fill the answer entry of a slot. -/
def putAnswer (s : State) (c k : Nat) (bs : List Byte) (poison : Nat) : State :=
  s.modThread c k (fun t => { t with answer := t.answer.map (fun e =>
    { e with ready := true, bytes := bs, poison := poison }) })

/-- n bytes of host memory from an address of slot (c, k) whose page lies there, its own queued writes over them; what
crosses the line is translated again, and is not there when its page is gone. -/
def hostBytes (s : State) (c k : Nat) (va : Word) (tr : Trans) (n : Nat) : Option (List Byte) × State :=
  let at' (tr : Trans) (i m : Nat) : List Byte := (List.range m).map (fun j =>
    (ownHostByte s c k (tr.hostAddr + i + j)).getD (Cells.get s.mem.host (tr.hostAddr + i + j)))
  let m := min n (64 - tr.off)
  if m = n then (some (at' tr 0 n), s)
  else
    match xlateCore s c (s.thread c k).place.spaceid .read (va + BitVec.ofNat 64 m).toNat with
    | ((0, tr2), s1) => (if tr2.host then some (at' tr 0 m ++ at' tr2 0 (n - m)) else none, s1)
    | (_, s1) => (none, s1)

/-- The answer to a parked access of slot (c, k), when it may come now; none while it waits. -/
def answerAccess (s : State) (c k : Nat) (e : Answer) : Option State :=
  let th := s.thread c k
  match decodeAddr e.addr with
  | .own _ => some (putAnswer s c k [] 0)
  | .peer q o =>
    let tc := peerCore s c q
    if poolShut (s.core tc) o e.len then none
    else if e.kind = 0 then some (putAnswer s c k ((s.core tc).bytes o e.len) (if (s.core tc).poisoned o e.len then 1 else 0))
    else if e.kind = 6 then some (putAnswer s c k (toBytes 2 ((s.core tc).lineTags o)) 0)
    else if e.kind = 1 then some (putAnswer s c k [] 0)
    else none
  | .view sub o => some (putAnswer s c k (toBytes 8 (viewWord s c sub o)) 0)
  | .badWindow _ => some (putAnswer s c k [] 0)
  | .global =>
    match xlateCore s c th.place.spaceid .read e.addr.toNat with
    | ((0, tr), s1) =>
      if tr.host then
        match hostBytes s1 c k e.addr tr e.len with
        | (some bs, s2) => some (putAnswer s2 c k bs 0)
        | (none, s2) => some (s2.modThread c k (fun t => { t with answer := none }))
      else if dieHeld s1 (lineDie tr.line) then none
      else if e.kind = 3 then
        some (putAnswer (s1.modMem (fun m => m.writeBack tr.line)) c k [] 0)
      else if e.kind = 7 then
        some (putAnswer (s1.modMem (fun m => m.evict (fun x => x.line == tr.line))) c k [] 0)
      else some (homeAnswer s1 c k tr e)
    | (_, s1) => some (s1.modThread c k (fun t => { t with answer := none }))
  | .nonCanon => some (s.modThread c k (fun t => { t with answer := none }))

/-- An access of the slot waits for its answer. -/
def waitsAnswer (t : Thread) : Option Answer :=
  match t.answer with
  | some e => if !e.ready && decide (t.status = .parked .access) && e.kind != 4 && e.kind != 5 then some e else none
  | none => none

/-- The tags allow a held request. -/
def tagAllows (x : Core) (r : TagReq) : Bool :=
  !poolShut x r.off (4 * r.words) && (if r.store.isSome then x.allEmpty r.off (4 * r.words) else x.allFull r.off (4 * r.words))

/-- Answer a held tagged request of a pool. -/
def tagAnswer (s : State) (c : Nat) (r : TagReq) : State :=
  let x := s.core c
  let n := 4 * r.words
  match r.store with
  | some bs => putAnswer (tagStore s c r.off bs) r.core r.slot [] 0
  | none =>
    if x.poisoned r.off n then putAnswer s r.core r.slot [] 1
    else putAnswer (tagLoad s c r.off n r.keep) r.core r.slot (x.bytes r.off n) 0

/-- The first request that can be dropped or answered is. -/
def tagServe (s : State) (c : Nat) : State :=
  match (s.core c).tagReqs.find? (fun r => !tagWanted s c r || tagAllows (s.core c) r) with
  | some r =>
    let s1 := s.modCore c (fun x => { x with tagReqs := x.tagReqs.erase r })
    if tagWanted s c r then tagAnswer s1 c r else s1
  | none => s

/-! ### The events of memory and parked threads -/

/-- An event of a part that exists; else the fault of an address that does not. -/
def onUnit (ok : Bool) (s : State) : Host.Outcome State Fault Refusal := if ok then .next s else .fault .noSuchUnit

def isCore (c : Nat) : Bool := decide (c < Config.cores)
def isSlot (c k : Nat) : Bool := decide (c < Config.cores) && decide (k < 4)
def isCluster (cl : Nat) : Bool := decide (cl < Config.clusters)
def isDie (d : Nat) : Bool := decide (d < Config.dies)

def execWqDispatch (writer : Nat) (s : State) : Host.Outcome State Fault Refusal :=
  onUnit (decide (writer < 16384)) (dispatchOldest s (writer / 4) (writer % 4))

def execPathPerform (src dst idx : Nat) (s : State) : Host.Outcome State Fault Refusal :=
  let key := pathKey src dst idx
  onUnit (isDie src && isDie dst && decide (idx < 4)) (if canPerform s key then performHead s key else s)

/-- M13: a near cache takes a line at the home's bytes, or drops one. -/
def execNearCacheFillEvict (core line key : Nat) (fill : Bool) (s : State) : Host.Outcome State Fault Refusal :=
  onUnit (isCore core) (if fill then (if dieHeld s (lineDie line) then s else nearFill s core line key)
    else nearDrop s core (nearIdx key line))

/-- M11: the wait of a pending release ends, and the thread is ready. -/
def execReleaseWaitEnd (core slot : Nat) (s : State) : Host.Outcome State Fault Refusal :=
  let t := s.thread core slot
  onUnit (isSlot core slot) (match t.rel with
    | some r => if releaseDone s core slot r && decide (t.status = .parked .release) then
        s.setThread core slot { t with status := .ready } else s
    | none => s)

def execParkedAnswer (core slot : Nat) (s : State) : Host.Outcome State Fault Refusal :=
  onUnit (isSlot core slot) (match waitsAnswer (s.thread core slot) with
    | some e => (answerAccess s core slot e).getD s
    | none => s)

def execTagWake (core line : Nat) (s : State) : Host.Outcome State Fault Refusal :=
  onUnit (isCore core) (wakeTag s core (line / 64 * 64))

def execPeerTaggedRequest (core : Nat) (s : State) : Host.Outcome State Fault Refusal :=
  onUnit (isCore core) (tagServe s core)

/-- R277: a refused request is due again. -/
def execRefusedRequestRetry (core slot : Nat) (s : State) : Host.Outcome State Fault Refusal :=
  let t := s.thread core slot
  onUnit (isSlot core slot) (match t.status with
    | .parked (.retry n) => if n ≤ s.time.cycle then s.setThread core slot { t with status := .ready } else s
    | _ => s)

def execBankUpdateApply (core : Nat) (s : State) : Host.Outcome State Fault Refusal :=
  onUnit (isCore core) (bankHead s core)

def execBarrierArrival (core off count : Nat) (s : State) : Host.Outcome State Fault Refusal :=
  onUnit (isCore core) (barrierArrive s core off (count % 2 ^ 16))

def execPauseExpiry (core slot : Nat) (s : State) : Host.Outcome State Fault Refusal :=
  let t := s.thread core slot
  onUnit (isSlot core slot) (match t.status with
    | .paused n => if n ≤ s.time.cycle then s.setThread core slot { t with status := .ready } else s
    | _ => s)

def execSleepExpiry (core slot : Nat) (s : State) : Host.Outcome State Fault Refusal :=
  let t := s.thread core slot
  onUnit (isSlot core slot) (match t.status with
    | .sleeping n => if n ≤ s.time.tick then s.setThread core slot { t with status := .ready } else s
    | _ => s)

/-- A parked `wait` is ready again; it evaluates its block from the start (R409). -/
def execWaitTimeout (core slot : Nat) (s : State) : Host.Outcome State Fault Refusal :=
  let t := s.thread core slot
  onUnit (isSlot core slot) (if t.status = .parked .cond then s.setThread core slot { t with status := .ready } else s)

def execTimerInterrupt (core slot : Nat) (s : State) : Host.Outcome State Fault Refusal :=
  let t := s.thread core slot
  onUnit (isSlot core slot) (if timerDue s t && decide (t.status ≠ .unplaced) then
    s.setThread core slot { t with pend := { t.pend with timer := true } } else s)

end Sys2Proof.Machine
end

