-- ==== Sys2Proof/Machine/Sync.lean ====
section
/-! DEFINITION. Atomics, reductions, bank updates, barriers, the reduction tree, waiting, messages, transoms and the
polling of jobs: opcodes 0x88 to 0x9C but `vbupd` (R391-R418), with the events of the tree and of messages. -/

namespace Sys2Proof.Machine

/-! ### Shared gates (R393, R398) -/

/-- Inside an open tolerant region the instruction traps (R398). -/
def notTolerant (s : State) (k : Eff) : Eff := if s.me.tol.isOpen then tolTrap s 2 0 else k

/-- A pool target of this chapter: checked, past shutters and, on a peer, accepted there (R260, R393). -/
def withPool (s : State) (m : Word) (n : Nat) (k : State → Nat → Nat → Eff) : Eff :=
  match tagTarget s m n with
  | .inl t => .trap s t
  | .inr (tc, o) =>
    if poolShut (s.core tc) o n || vstPending s m.toNat n then .park s .shutter
    else if isPeer m then
      match answerFor s m 1 with
      | some e => if e.ready then k s tc o else .park s .access
      | none => askAnswer s m n 1
    else k s tc o

/-- The check of a pool target alone. -/
def checkPool (s : State) (m : Word) (n : Nat) (k : Eff) : Eff :=
  match tagTarget s m n with
  | .inl t => .trap s t
  | .inr _ => k

/-- Poison in a pool word traps (R237). -/
def notPoisoned (s : State) (m : Word) (tc o n : Nat) (k : Eff) : Eff :=
  if (s.core tc).poisoned o n then .failAt s 0x11 m 1 else k

/-- A read of a line that a tolerant pass has written traps (R122). -/
def notWritten (s : State) (m : Word) (tc o n : Nat) (k : Eff) : Eff := if tolRead s tc o n then tolTrap s 1 m else k

/-- The number of a rounding mode, the dynamic one read from frm (R99). -/
def rndNum (s : State) (r : Rnd) : Nat := if r.code = 6 then s.me.ctl.frm.toNat else r.code

/-! ### amo, amo.cas, red (R394-R397) -/

/-- The home can perform an atomic at once: nothing stands on its path, and every version of a checked line has
performed. -/
def homeReady (s : State) (tr : Trans) : Bool :=
  (s.mem.path (pathOf (dieOf s.cur.1) tr.line)).isEmpty && !dieHeld s (lineDie tr.line) &&
    (!tr.checked || decide ((s.mem.hline tr.line).commit = (s.mem.hline tr.line).performed))

/-- An atomic on a checked line takes a version for the words it writes (R394). -/
def versionAt (s : State) (tr : Trans) (ws : List Nat) : State :=
  if tr.checked then
    let v := s.mem.commit tr.line ws (writerOf s.cur.1 s.cur.2)
    s.modMem (fun _ => v.2.perform tr.line (some v.1))
  else s

/-- The common path of `amo` and `amo.cas`: the release part, the translation, the wait for the home, poison. -/
def withAtomic (s : State) (m : Word) (n : Nat) (k : State → Trans → Eff) : Eff :=
  notTolerant s (aligned s m n (
    if wfld m 56 8 = 0xFE then .trap s (windowTrap m)
    else closeRelease s .mod (fun s1 =>
      if globalShut s1.myCore m.toNat n then .park s1 .shutter
      else withTrans s1 m .write 2 (fun s2 tr =>
        if tr.host then .failAt s2 0x06 m (faultInfo 7 2 s2.me.place.spaceid)
        else if !homeReady s2 tr then .wait s2
        else if s2.mem.poisoned (tr.line * 64 + tr.off) n then .failAt s2 0x11 m (homePoison s2.mem tr.line (rangeWords tr.off n))
        else k s2 tr))))

/-- The old value as the destination register takes it: a float as its code, an integer extended. -/
def oldValue (t : NTy) (uns : Bool) (old : Nat) : Word :=
  match nFmt t with
  | some _ => zextW old (nWidth t)
  | none => if uns then zextW old (nWidth t) else sextW old (nWidth t)

def effAmo (t : ATy) (n : AOp) (r : Rnd) (u : Bool) (a : Fin 64) (b : Mem) (c : GSrc) (s : State) : Eff :=
  let w := aBytes t
  let m := memAddr s b w
  withAtomic s m w (fun s1 tr =>
    let x := homeRmw s1 tr.line tr.key tr.off (aTy t) n u (rndNum s1 r) (wfld (readGSrc s c) 0 (8 * w))
    let s2 := versionAt x.2.2 tr (wordsOf ((List.range w).map (fun i => tr.off + i)))
    .ok ((nearClear (s2.raise x.2.1) s2.cur.1).wrG a.val (oldValue (aTy t) u x.1)))

def effAmoCas (t : PTy) (a : Fin 64) (b : Mem) (c : Fin 64) (s : State) : Eff :=
  let w := pBytes t
  let m := memAddr s b w
  withAtomic s m w (fun s1 tr =>
    let old := ofBytes (s1.mem.lineBytes tr.line tr.key tr.off w)
    let hit := decide (old = wfld (s.rdG a.val) 0 (8 * w))
    let s2 := if hit then homeStore s1 tr.line tr.key tr.off (lowBytes w (s.rdG c.val)) else s1
    let s3 := versionAt s2 tr (if hit then wordsOf ((List.range w).map (fun i => tr.off + i)) else [])
    .ok ((nearClear s3 s3.cur.1).wrG a.val (sextW old (8 * w))))

/-- The barrier that a `red` names (R396): none for g0 or a value of 0. -/
def redBarrier (s : State) (c : Fin 64) : Option Word :=
  if c.val = 0 ∨ s.rdG c.val = 0 then none else some (s.rdG c.val)

def effRed (t : ATy) (n : AOp) (r : Rnd) (u : Bool) (a : Mem) (b : GSrc) (c : Fin 64) (s : State) : Eff :=
  let w := aBytes t
  let m := memAddr s a w
  let v := wfld (readGSrc s b) 0 (8 * w)
  let go (bar : Option (Nat × Nat)) : Eff :=
    if globalShut s.myCore m.toNat w || vstPending s m.toNat w then .park s .shutter
    else withTrans s m .write 2 (fun s1 tr =>
      let q : QWrite := { host := false, line := tr.line, off := tr.off, checked := tr.checked, key := tr.key,
                          op := .reduce n t u (rndNum s1 r) v bar }
      if tr.host then .failAt s1 0x06 m (faultInfo 7 2 s1.me.place.spaceid)
      else if vstMeets s1 tr.pa w then .park s1 .shutter
      else if (AMap.get s1.me.rgn.held tr.line).isSome then withSplit s1 (fun s2 => pushWq s2 q Eff.ok)
      else pushWq s1 q Eff.ok)
  notTolerant s (aligned s m w (
    match redBarrier s c with
    | none => if wfld m 56 8 = 0xFE then .trap s (windowTrap m) else go none
    | some bar => aligned s bar 8 (
        if wfld m 56 8 = 0xFE then .trap s (windowTrap m)
        else match tagTarget s bar 8 with
          | .inl e => .trap s e
          | .inr p => go (some p))))

/-! ### Bank updates (R399, R400) -/

/-- Submit one update of a scratchpad word; the old word goes on. -/
def submitUpdate (s : State) (m v : Word) (fn : Nat) (tag : Bool) (k : State → Nat → Eff) : Eff :=
  notTolerant s (aligned s m 4 (withPool s m 4 (fun s1 tc o =>
    notPoisoned s1 m tc o 4 (
      let s2 := bankAll s1 tc
      k (applyUpdate s2 tc o (wfld v 0 32) fn tag) ((s2.core tc).num o 4)))))

def effBupd (n : Fin 4) (u : Bool) (a : Mem) (b : GSrc) (s : State) : Eff :=
  submitUpdate s (memAddr s a 4) (readGSrc s b) n.val u (fun s1 _ => .ok s1)

def effBupdR (n : Fin 4) (u : Bool) (a : Fin 64) (b : Mem) (c : GSrc) (s : State) : Eff :=
  submitUpdate s (memAddr s b 4) (readGSrc s c) n.val u (fun s1 old => .ok (s1.wrG a.val (sextW old 32)))

def effBcfg (a : Fin 4) (b : Fin 64) (c : Fin 14) (s : State) : Eff :=
  let m := s.rdG b.val
  notTolerant s (match decodeAddr m with
    | .own _ => .ok (applyBank (bankAll s s.cur.1) s.cur.1 (.config a.val c.val))
    | .peer q _ => .ok (applyBank (bankAll s (peerCore s s.cur.1 q)) (peerCore s s.cur.1 q) (.config a.val c.val))
    | .view _ _ => .trap s (windowTrap m)
    | .badWindow _ => .trap s (windowTrap m)
    | .global => .trap s (windowTrap m)
    | .nonCanon => .trap s (windowTrap m))

/-! ### Barrier objects (R402-R404) -/

/-- `bar.init` writes count, pending and the reserved field; the phase stays. -/
def effBarInit (a : Mem) (b : GSrc) (s : State) : Eff :=
  let m := memAddr s a 8
  let n := wfld (readGSrc s b) 0 16
  aligned s m 8 (withPool s m 8 (fun s1 tc o => poolWrite s1 m tc o (toBytes 6 (n + n * 2 ^ 16)) Eff.ok))

def effBarArr (a : Fin 64) (b : Mem) (c : GSrc) (s : State) : Eff :=
  let m := memAddr s b 8
  notTolerant s (aligned s m 8 (checkPool s m 8 (closeRelease s .clu (fun s1 =>
    withPool s1 m 8 (fun s2 tc o => notPoisoned s2 m tc o 8 (
      .ok ((barrierArrive s2 tc o (wfld (readGSrc s c) 0 16)).wrG a.val (zextW (fld ((s2.core tc).num o 8) 48 16) 16))))))))

def effBarWait (a : Mem) (b : GSrc) (s : State) : Eff :=
  let m := memAddr s a 8
  aligned s m 8 (withPool s m 8 (fun s1 tc o => notWritten s1 m tc o 8 (notPoisoned s1 m tc o 8 (
    if fld ((s1.core tc).num o 8) 48 16 = wfld (readGSrc s b) 0 16 then
      .park s1 (.barrier tc o (wfld (readGSrc s b) 0 16))
    else .ok (nearClear s1 s1.cur.1)))))

def effBarTest (a : Fin 64) (b : Mem) (s : State) : Eff :=
  let m := memAddr s b 8
  aligned s m 8 (withPool s m 8 (fun s1 tc o => notWritten s1 m tc o 8 (notPoisoned s1 m tc o 8 (
    .ok (s1.wrG a.val (BitVec.ofNat 64 ((s1.core tc).num o 8)))))))

/-! ### The reduction tree (R405, R406) -/

/-- The root launch of a launch: the one that no stage launched (R154), by fuel. -/
def rootLaunch (s : State) : Nat → Nat → Nat
  | 0, lid => lid
  | n + 1, lid =>
    match AMap.get s.disp.launches lid with
    | some l => match l.parent with
      | some p => rootLaunch s n p.1
      | none => lid
    | none => lid

def rootOf (s : State) (lid : Nat) : Nat := rootLaunch s s.disp.launches.length lid

/-- A new arrival of a slot must wait: it has arrived already, the episode is full, or 64 episodes are open. -/
def treeBusy (d : Die) (key c k : Nat) : Bool :=
  match AMap.get d.episodes key with
  | some e => e.arrivals.any (fun r => r.core == c && r.slot == k) || decide (e.n ≤ e.arrivals.length)
  | none => decide (64 ≤ d.episodes.length)

def treeEnter (s : State) (key : Nat) (fresh : Episode) (r : Arrival) : State :=
  s.modDie (dieOf s.cur.1) (fun d =>
    let e := AMap.getD d.episodes key fresh
    { d with episodes := AMap.set d.episodes key { e with arrivals := e.arrivals ++ [r] } })

/-- `tbar` and `nred`: an arrival with a value, and what the first arrival fixes. -/
def treeArrive (s : State) (o spec v : Word) (red : Option (NTy × AOp × Bool × Nat)) : Eff :=
  let a := winAddr o.toNat
  let root := rootOf s s.me.place.launch
  let g := wfld spec 0 4
  let key := root * 16 + g
  notTolerant s (aligned s a 8 (
    if !inScratch s.myCore.part o.toNat 8 then .failAt s 0x0A a 0
    else closeRelease s .die (fun s1 =>
      if treeBusy (s1.die (dieOf s1.cur.1)) key s1.cur.1 s1.cur.2 then .park s1 .tree
      else
        let s2 := setTagsWake s1 s1.cur.1 o.toNat 8 false
        .ok (treeEnter s2 key { launch := root, group := g, n := wfld spec 4 10 + 1, red := red, arrivals := [] }
          { core := s2.cur.1, slot := s2.cur.2, off := o.toNat, val := v }))))

def effTbar (a c : GSrc) (s : State) : Eff := treeArrive s (readGSrc s a) (readGSrc s c) 0 none

def effNred (t : NTy) (n : AOp) (r : Rnd) (u : Bool) (a : GSrc) (b : Fin 64) (c : GSrc) (s : State) : Eff :=
  treeArrive s (readGSrc s a) (readGSrc s c) (s.rdG b.val) (some (t, n, u, rndNum s r))

/-- The generators of the tree nodes of a die, by node: 0 root, 8 + band, 16 + cluster, 64 + core. -/
abbrev TreeGens := AMap (List (BitVec 16))

/-- Combine partial results at a node in ascending child order (R405). -/
def combineAt (t : NTy) (op : AOp) (u : Bool) (r node : Nat) (g : TreeGens) : List Nat → Option Nat × TreeGens
  | [] => (none, g)
  | x :: xs =>
    let f := xs.foldl (fun (q : Nat × TreeGens) v =>
      let y := applyAOp t op u r (AMap.getD q.2 node (seedGens 0)) q.1 v
      (y.1, if aRounds t op && r == 5 then AMap.set q.2 node y.2.2 else q.2)) (x, g)
    (some f.1, f.2)

/-- Combine the children of a node: a list of partial results found in child order. -/
def combineKids (t : NTy) (op : AOp) (u : Bool) (r node : Nat) (n : Nat) (kid : Nat → TreeGens → Option Nat × TreeGens)
    (g : TreeGens) : Option Nat × TreeGens :=
  let q := (List.range n).foldl (fun (q : List Nat × TreeGens) i =>
    match kid i q.2 with
    | (some v, g1) => (q.1 ++ [v], g1)
    | (none, g1) => (q.1, g1)) ([], g)
  combineAt t op u r node q.2 q.1

/-- The combined value of a die's arrivals: slots, then positions, clusters and bands. -/
def treeCombine (t : NTy) (op : AOp) (u : Bool) (r : Nat) (as : List Arrival) (g : TreeGens) : Option Nat × TreeGens :=
  let leaf (c k : Nat) (g : TreeGens) : Option Nat × TreeGens :=
    ((as.find? (fun a => a.core % 256 == c && a.slot == k)).map (fun a => wfld a.val 0 (nWidth t)), g)
  let core (cl p : Nat) (g : TreeGens) : Option Nat × TreeGens :=
    let c := coreAt cl p
    if as.any (fun a => a.core % 256 == c) then combineKids t op u r (64 + c) 4 (leaf c) g else (none, g)
  let cluster (cl : Nat) (g : TreeGens) : Option Nat × TreeGens :=
    if as.any (fun a => clusterOf (a.core % 256) == cl) then combineKids t op u r (16 + cl) 8 (core cl) g else (none, g)
  let band (q : Nat) (g : TreeGens) : Option Nat × TreeGens :=
    combineKids t op u r (8 + q) 4 (fun i => cluster (4 * q + i)) g
  combineKids t op u r 0 8 band g

/-- The saved set that holds a participant's gang, if it has been pre-empted (R407). -/
def savedHolder (s : State) (root c k : Nat) : Option Nat :=
  (s.disp.saved.find? (fun e => e.2.gangs.any (fun g => g.2.members.contains (c, k) && rootOf s g.2.launch == root))).map
    Prod.fst

/-- An answer of the tree reaches a participant's pool, or is held for its saved one. -/
def treeDeliver (s : State) (root : Nat) (v : Word) (r : Arrival) : State :=
  match savedHolder s root r.core r.slot with
  | some id => s.modDisp (fun d => { d with heldTree := d.heldTree ++ [(id, r.core, r.off, v)] })
  | none =>
    if rootOf s (s.thread r.core r.slot).place.launch = root ∧ (s.thread r.core r.slot).status ≠ .unplaced then
      setTagsWake (s.modCore r.core (fun x => x.putNum r.off 8 v.toNat)) r.core r.off 8 true
    else s

/-- A full episode combines and answers every participant. -/
def treeComplete (s : State) (die key : Nat) : State :=
  let d := s.die die
  match AMap.get d.episodes key with
  | none => s
  | some e =>
    if e.arrivals.length < e.n then s
    else
      let cnt := (AMap.getD d.groups key 0 + 1) % 2 ^ 32
      let x : Word × TreeGens := match e.red with
        | none => (BitVec.ofNat 64 cnt, d.treeGens)
        | some (t, op, u, r) =>
          let q := treeCombine t op u r e.arrivals d.treeGens
          (oldValue t u (q.1.getD 0), q.2)
      let s1 := s.setDie die { d with episodes := AMap.del d.episodes key, groups := AMap.set d.groups key cnt,
                                      treeGens := x.2 }
      e.arrivals.foldl (fun s r => treeDeliver s e.launch x.1 r) s1

def execTreeEpisodeComplete (die key : Nat) (s : State) : Host.Outcome State Fault Refusal :=
  onUnit (isDie die) (treeComplete s die key)

/-! ### wait and pause (R408-R410) -/

/-- A wait condition of the block. -/
def condField (b i : Nat) : Nat := fld b (64 * i) 64

/-- The alignment of the word that a kind names; 0 when it names none. -/
def condAlign (kind : Nat) : Nat := if kind = 3 then 8 else if kind = 1 ∨ kind = 2 ∨ kind = 7 then 4 else 0

/-- The bit offset of the first fault of a condition (R409). -/
def condFault (part : Word) (x : Nat) : Option Nat :=
  let kind := fld x 0 4
  let al := condAlign kind
  let off := fld x 8 24
  if 8 ≤ kind then some 0
  else if fld x 4 4 ≠ 0 then some (4 + trailZeros 4 (fld x 4 4))
  else if al ≠ 0 ∧ (off % al ≠ 0 ∨ !inScratch part off al) then some 8
  else none

/-- Does a condition hold? -/
def waitHolds (s : State) (x : Nat) : Bool :=
  let c := s.cur.1
  let off := fld x 8 24
  let w := fld x 32 32
  match fld x 0 4 with
  | 1 => s.myCore.tagFull off
  | 2 => !s.myCore.tagFull off
  | 3 => fld (s.myCore.num off 8) 48 16 != w % 2 ^ 16
  | 4 => fld (renamedWord s c s.cur.2 0 w) 32 3 != 0
  | 5 => fld (renamedWord s c s.cur.2 1 w) 32 3 != 0
  | 6 => s.me.msgCount != 0
  | 7 => s.myCore.num off 4 != w
  | _ => false

/-- What reading the word of a condition comes to: a stall, a tolerant trap or poison, else nothing. -/
def condStop (s : State) (x : Nat) : Option Eff :=
  let kind := fld x 0 4
  let al := condAlign kind
  let off := fld x 8 24
  if al = 0 then none
  else if poolShut s.myCore off al || vstPending s (winAddr off).toNat al then some (.park s .shutter)
  else if tolRead s s.cur.1 off al && (kind == 3 || kind == 7) then some (tolTrap s 1 (winAddr off))
  else if s.myCore.poisoned off al && (kind == 3 || kind == 7) then some (.failAt s 0x11 (winAddr off) 1)
  else none

def effWait (a : Fin 64) (b : Mem) (c : Fin 64) (s : State) : Eff :=
  let m := memAddr s b 8
  aligned s m 32 (
    match tagTarget s m 32 with
    | .inl t => .trap s t
    | .inr (_, o) =>
      if isPeer m then .trap s (windowTrap m)
      else poolRead s m s.cur.1 o 32 (fun s1 bs =>
        let blk := ofBytes bs
        let xs := (List.range 4).map (fun i => (i, condField blk i))
        match xs.findSome? (fun e => (condFault s1.myCore.part e.2).map (fun f => 64 * e.1 + f)) with
        | some f => .ok (s1.wrG a.val (BitVec.ofNat 64 (2 ^ 63 + f)))
        | none =>
          match xs.findSome? (fun e => condStop s1 e.2) with
          | some e => e
          | none =>
            let hs := xs.filter (fun e => waitHolds s1 e.2)
            if hs.isEmpty then
              if c.val ≠ 0 ∧ (s.rdG c.val).toNat ≤ s1.time.tick then .ok (s1.wrG a.val 0x10) else .park s1 .cond
            else
              let s2 := if hs.any (fun e => fld e.2 0 4 == 6) then s1.modMe (fun t => { t with msgCount := 0 }) else s1
              .ok (s2.wrG a.val (BitVec.ofNat 64 (maskOf (hs.map Prod.fst))))))

/-- After `pause` retires, its slot is not ready for the cycles named. -/
def pauseMe (p : Nat) (s : State) : State :=
  if p = 0 then s else s.modMe (fun t => { t with status := .paused (s.time.cycle + p) })

def effPause (s : State) : Eff := .ok s

def execPause (h : Hdr) (a : GSrc) (s : State) : Host.Outcome State Fault Refusal :=
  let p := min (readGSrc s a).toNat 65535
  let s1 := finish { h with yields := true } effPause s
  .next (if guardHolds s h then pauseMe p s1 else s1)

/-! ### Messages (R411-R413) -/

/-- The core that a coordinate names (04 Table 6, coord). -/
def coordCore (x : Nat) : Nat := fld x 12 4 * 256 + fld x 8 4 * 16 + fld x 4 4

def effMsgSend (a b : Fin 64) (c : GSrc) (s : State) : Eff :=
  let t := s.rdG a.val
  notTolerant s (closeRelease s .mod (fun s1 =>
    let m : Msg := { core := coordCore (wfld t 0 16), slot := wfld t 16 2, fromCore := s1.cur.1, fromSlot := s1.cur.2,
                     space := s1.me.place.spaceid, launch := s1.me.place.launch, node := s1.me.place.node,
                     gen := wfld (s.rdG b.val) 0 32, target := t, payload := readGSrc s c, waiting := false }
    .ok (s1.modCore m.core (fun x => { x with msgs := x.msgs ++ [m] }))))

/-- The pool offset a message names. -/
def Msg.off (m : Msg) : Nat := wfld m.target 20 24

/-- Why a message cannot be delivered, whatever its tags (R412 reasons 2, 1, 4). -/
def deadReason (s : State) (m : Msg) : Option Nat :=
  let t := s.thread m.core m.slot
  if wfld m.target 0 4 ≠ 0 ∨ wfld m.target 18 2 ≠ 0 ∨ wfld m.target 44 20 ≠ 0 ∨ m.off % 8 ≠ 0 then some 2
  else if t.status = .unplaced ∨ t.place.gen.toNat ≠ m.gen then some 1
  else if t.place.spaceid ≠ m.space then some 4
  else if !inScratch (s.core m.core).part m.off 8 then some 2
  else none

/-- A dead letter of the sender's stage (R413): written in the stage's space at its ring, and counted. -/
def deadLetter (s : State) (m : Msg) (reason : Nat) : State :=
  match s.node m.launch m.node with
  | none => s
  | some n =>
    let e := m.payload.toNat + m.target.toNat * 2 ^ 64 + m.gen * 2 ^ 128 + reason * 2 ^ 160 + m.fromCore * 2 ^ 172 +
      m.fromSlot * 2 ^ 184 + s.time.tick % 2 ^ 64 * 2 ^ 192
    let s1 := (writeSpace s dispWriter m.space (n.dlRing + 32 * (n.dlCount % 64)) (toBytes 32 e)).2
    s1.modNode m.launch m.node (fun x => { x with dlCount := x.dlCount + 1 })

/-- Deliver: the payload and both tags in one access, the count, the interrupt. -/
def msgDeliverTo (s : State) (m : Msg) : State :=
  let s1 := setTagsWake (s.modCore m.core (fun x => x.putNum m.off 8 m.payload.toNat)) m.core m.off 8 true
  s1.modThread m.core m.slot (fun t =>
    { t with msgCount := min (t.msgCount + 1) (2 ^ 32 - 1), pend := { t.pend with msg := true } })

def tagsEmpty (s : State) (m : Msg) : Bool := (s.core m.core).allEmpty m.off 8

/-- A waiting message of the same sender to the same slot stands before this one (R411: send order). -/
def msgBehind (x : Core) (m : Msg) : Bool :=
  x.msgs.any (fun w => w.waiting && w.slot == m.slot && w.fromCore == m.fromCore && w.fromSlot == m.fromSlot)

/-- One message of a core: the oldest waiting one when it can go, else the oldest that has just arrived. -/
def msgStep (s : State) (c : Nat) : State :=
  let x := s.core c
  let drop (m : Msg) : State := s.setCore c { x with msgs := x.msgs.erase m }
  let arrival : State :=
    match x.msgs.find? (fun m => !m.waiting) with
    | none => s
    | some m =>
      match deadReason s m with
      | some r => deadLetter (drop m) m r
      | none =>
        if tagsEmpty s m && !msgBehind x m then msgDeliverTo (drop m) m
        else if 16 ≤ (x.msgs.filter (fun w => w.waiting)).length then deadLetter (drop m) m 3
        else s.setCore c { x with msgs := x.msgs.erase m ++ [{ m with waiting := true }] }
  match x.msgs.find? (fun m => m.waiting) with
  | some m =>
    match deadReason s m with
    | some r => deadLetter (drop m) m r
    | none => if tagsEmpty s m then msgDeliverTo (drop m) m else arrival
  | none => arrival

/-- Some message of a core can be dealt with now. -/
def msgDue (s : State) (c : Nat) : Bool :=
  let x := s.core c
  x.msgs.any (fun m => !m.waiting) ||
    (match x.msgs.find? (fun m => m.waiting) with
     | some m => (deadReason s m).isSome || tagsEmpty s m
     | none => false)

def execMsgDeliver (core : Nat) (s : State) : Host.Outcome State Fault Refusal := onUnit (isCore core) (msgStep s core)

/-! ### Transoms (R414, R415) -/

def setLane (s : State) (c key : Nat) (l : List Word) (root : Nat) : State :=
  s.modCore (laneCore c) (fun x => { x with lanes := AMap.set x.lanes key l, laneLaunch := AMap.set x.laneLaunch key root })

def effHatchPut (b : GSrc) (s : State) : Eff :=
  let c := s.cur.1
  let key := outLane c s.cur.2
  notTolerant s (
    if laneDepth ≤ (laneOf s c key).length then .park s .transom
    else .ok (setLane s c key (laneOf s c key ++ [readGSrc s b]) (rootOf s s.me.place.launch)))

def effHatchGet (a : Fin 64) (s : State) : Eff :=
  let c := s.cur.1
  let key := inLane c s.cur.2
  notTolerant s (
    match laneOf s c key with
    | [] => .park s .transom
    | x :: xs => .ok ((s.modCore (laneCore c) (fun y => { y with lanes := AMap.set y.lanes key xs })).wrG a.val x))

def effHatchFree (a : Fin 64) (s : State) : Eff :=
  .ok (s.wrG a.val (BitVec.ofNat 64 (laneDepth - (laneOf s s.cur.1 (outLane s.cur.1 s.cur.2)).length)))

/-! ### Jobs (R417, R418) -/

def queueOf (q : Bool) : Nat := if q then 1 else 0

def pollWord (b : GSrc) (c : Bool) (s : State) : Nat :=
  renamedWord s s.cur.1 s.cur.2 (queueOf c) (wfld (readGSrc s b) 0 32)

def effJobPoll (a : Fin 64) (b : GSrc) (c : Bool) (s : State) : Eff :=
  .ok (s.wrG a.val (BitVec.ofNat 64 (pollWord b c s)))

def effJobPollAcq (a : Fin 64) (b : GSrc) (c : Bool) (s : State) : Eff :=
  let w := pollWord b c s
  let s1 := if fld w 32 3 ≠ 0 then nearClear s s.cur.1 else s
  .ok (s1.wrG a.val (BitVec.ofNat 64 w))

/-- The stage charter of a listed job's issuer. -/
def jobOwner (s : State) (cl q id : Nat) : Option (Nat × Nat) :=
  if q = 0 then (AMap.get (s.cluster cl).mxJobs id).map (fun j => (j.launch, j.node))
  else (AMap.get (s.cluster cl).copyJobs id).map (fun j => (j.launch, j.node))

def markCancel (s : State) (cl q id : Nat) : State :=
  s.modCluster cl (fun x =>
    if q = 0 then { x with mxJobs := x.mxJobs.map (fun e => (e.1, if e.1 = id then { e.2 with cancel := true } else e.2)) }
    else { x with copyJobs := x.copyJobs.map (fun e => (e.1, if e.1 = id then { e.2 with cancel := true } else e.2)) })

/-- Cancel a job of a cluster for a thread (R418). -/
def cancelJob (s : State) (cl q id launch node : Nat) : Nat × State :=
  let age := idAge (queueNext s cl q) id
  if age = 0 ∨ queueDepth q < age then (2, s)
  else
    match jobOwner s cl q id with
    | none => (1, s)
    | some p =>
      if p ≠ (launch, node) then (2, s)
      else if jobFinal s cl q id then (1, s)
      else (0, markCancel s cl q id)

def effJobCancel (a : Fin 64) (b : GSrc) (c : Bool) (s : State) : Eff :=
  let q := queueOf c
  let id := wfld (readGSrc s b) 0 32
  let pl := s.me.place
  notTolerant s (
    match AMap.get s.me.ren (q * 2 ^ 32 + id) with
    | some (.final _) => .ok (s.wrG a.val 1)
    | some (.renamed n) =>
      let r := cancelJob s (clusterOf s.cur.1) q n pl.launch pl.node
      .ok (r.2.wrG a.val (BitVec.ofNat 64 r.1))
    | some (.command _ _ _ _ _) => .ok (s.wrG a.val 2)
    | none =>
      let r := cancelJob s (clusterOf s.cur.1) q id pl.launch pl.node
      .ok (r.2.wrG a.val (BitVec.ofNat 64 r.1)))

/-! ### The instructions -/

def execAmo (h : Hdr) (t : ATy) (n : AOp) (r : Rnd) (u : Bool) (a : Fin 64) (b : Mem) (c : GSrc) (s : State) :=
  run h (effAmo t n r u a b c) s
def execAmoCas (h : Hdr) (t : PTy) (a : Fin 64) (b : Mem) (c : Fin 64) (s : State) := run h (effAmoCas t a b c) s
def execRed (h : Hdr) (t : ATy) (n : AOp) (r : Rnd) (u : Bool) (a : Mem) (b : GSrc) (c : Fin 64) (s : State) :=
  run h (effRed t n r u a b c) s
def execBupd (h : Hdr) (n : Fin 4) (u : Bool) (a : Mem) (b : GSrc) (s : State) := run h (effBupd n u a b) s
def execBupdR (h : Hdr) (n : Fin 4) (u : Bool) (a : Fin 64) (b : Mem) (c : GSrc) (s : State) :=
  run h (effBupdR n u a b c) s
def execBcfg (h : Hdr) (a : Fin 4) (b : Fin 64) (c : Fin 14) (s : State) := run h (effBcfg a b c) s
def execBarInit (h : Hdr) (a : Mem) (b : GSrc) (s : State) := run h (effBarInit a b) s
def execBarArr (h : Hdr) (a : Fin 64) (b : Mem) (c : GSrc) (s : State) := run h (effBarArr a b c) s
def execBarWait (h : Hdr) (a : Mem) (b : GSrc) (s : State) := run h (effBarWait a b) s
def execBarTest (h : Hdr) (a : Fin 64) (b : Mem) (s : State) := run h (effBarTest a b) s
def execTbar (h : Hdr) (a c : GSrc) (s : State) := run h (effTbar a c) s
def execNred (h : Hdr) (t : NTy) (n : AOp) (r : Rnd) (u : Bool) (a : GSrc) (b : Fin 64) (c : GSrc) (s : State) :=
  run h (effNred t n r u a b c) s
def execWait (h : Hdr) (a : Fin 64) (b : Mem) (c : Fin 64) (s : State) := run h (effWait a b c) s
def execMsgSend (h : Hdr) (a b : Fin 64) (c : GSrc) (s : State) := run h (effMsgSend a b c) s
def execHatchPut (h : Hdr) (b : GSrc) (s : State) := run h (effHatchPut b) s
def execHatchGet (h : Hdr) (a : Fin 64) (s : State) := run h (effHatchGet a) s
def execHatchFree (h : Hdr) (a : Fin 64) (s : State) := run h (effHatchFree a) s
def execJobPoll (h : Hdr) (a : Fin 64) (b : GSrc) (c : Bool) (s : State) := run h (effJobPoll a b c) s
def execJobPollAcq (h : Hdr) (a : Fin 64) (b : GSrc) (c : Bool) (s : State) := run h (effJobPollAcq a b c) s
def execJobCancel (h : Hdr) (a : Fin 64) (b : GSrc) (c : Bool) (s : State) := run h (effJobCancel a b c) s

end Sys2Proof.Machine
end

