-- ==== Sys2Proof/Machine/Charter.lean ====
section
/-! DEFINITION. Reading and checking a launch packet and its charter tree (R22-R39, R136-R138, R142, R144, R147). -/

namespace Sys2Proof.Machine

/-! ### Refusals (R138) -/

/-- A refusal: the reason, the bit offset, and the record at fault. -/
structure LRefuse where
  reason : Nat
  off : Nat
  addr : Nat
  deriving DecidableEq, Repr

/-- What a check gives: a value, or a refusal. -/
abbrev Chk (α : Type) := Except LRefuse α

def refuse {α : Type} (reason off addr : Nat) : Chk α := .error { reason := reason, off := off, addr := addr }

/-- Go on unless some offsets are at fault: the least one is reported. -/
def chkOffs (reason addr : Nat) (offs : List Nat) : Chk Unit :=
  match offs.min? with
  | some o => refuse reason o addr
  | none => .ok ()

/-- The lowest set bit of a field as an offset of the record; nothing when the field is 0. A set bit inside a reserved
field, and a misaligned address, are reported at that bit (DESIGN CHOICE, log 29). -/
def lowBitAt (rec' lo len : Nat) : List Nat := if fld rec' lo len = 0 then [] else [lo + trailZeros len (fld rec' lo len)]

/-- Offset `o` when a condition fails. -/
def need (ok : Bool) (o : Nat) : List Nat := if ok then [] else [o]

/-- Bits of an address below an alignment of 2^k, as an offset from `lo`. -/
def misaligned (rec' lo k : Nat) : List Nat := lowBitAt rec' lo k

/-! ### The packet (R136) -/

def pkCharter (p : Nat) : Nat := fld p 0 64
def pkDeadline (p : Nat) : Nat := fld p 64 64
def pkStart (p : Nat) : Nat := fld p 128 64
def pkSeq (p : Nat) : Nat := fld p 192 32
def pkNdeps (p : Nat) : Nat := fld p 224 4
def pkStrict (p : Nat) : Bool := p.testBit 228
def pkDep (p i : Nat) : Nat := fld p (256 + 32 * i) 32
def pkArgs (p : Nat) : Nat := fld p 384 64

/-- The offsets at fault in a packet. -/
def packetOffs (p : Nat) : List Nat :=
  lowBitAt p 448 64 ++ lowBitAt p 229 27 ++ need (decide (pkNdeps p ≤ 4)) 224 ++
    ((List.range 4).filter (fun i => decide (pkNdeps p ≤ i))).flatMap (fun i => lowBitAt p (256 + 32 * i) 32) ++
    need (decide (pkSeq p ≠ 0)) 192 ++ misaligned p 0 8

/-! ### Space limits and the effective values (R26-R28) -/

/-- What a parent hands down: deadline, missed, policy, energy, dram, pool, cores. -/
structure Eff7 where
  deadline : Nat
  missed : Nat
  policy : Nat
  energy : Nat
  dram : Nat
  pool : Nat
  cores : Nat
  deriving DecidableEq, Repr

/-- The limits that the resident kernel has set for a space (log 17): energy, dram, pool, cores. -/
def spaceLimits (s : State) (sp : Nat) : Nat × Nat × Nat × Nat :=
  AMap.getD s.disp.limits sp (2 ^ 64 - 1, 2 ^ 38, 1610612736, 4096)

/-- What stands above a root (R27). -/
def rootEff (s : State) (sp deadline : Nat) : Eff7 :=
  let l := spaceLimits s sp
  { deadline := deadline, missed := 0, policy := 0, energy := l.1, dram := l.2.1, pool := l.2.2.1, cores := l.2.2.2 }

/-- A node's effective values as a parent's. -/
def nodeEff (n : Node) : Eff7 :=
  { deadline := n.deadline, missed := n.missed, policy := n.policy, energy := n.energy, dram := n.dram, pool := n.pool,
    cores := n.cores }

/-- The effective values of a charter record under its parent's; at a root with no parent charter its own budgets
govern unlimited. -/
def effective (top : Bool) (p : Eff7) (r : Nat) : Eff7 :=
  let on (i : Nat) : Bool := r.testBit (32 + i)
  let bud (i own up : Nat) : Nat := if on i then (if top then own else min own up) else up
  { deadline := if on 0 then min (fld r 64 64) p.deadline else p.deadline
    missed := if on 1 then fld r 16 2 else p.missed
    policy := if on 2 then fld r 18 2 else p.policy
    energy := bud 3 (fld r 128 64) p.energy
    dram := bud 4 (fld r 192 64) p.dram
    pool := bud 5 (fld r 256 32) p.pool
    cores := bud 6 (fld r 288 13) p.cores }

/-- The offsets at fault in the common part (R24, R25): a field whose inherit bit is clear is not read. -/
def commonOffs (r : Nat) : List Nat :=
  let on (i : Nat) : Bool := r.testBit (32 + i)
  let kind := fld r 0 8
  need (decide (kind = 1 ∨ kind = 2 ∨ kind = 3)) 0 ++ need (decide (fld r 8 8 = 2)) 8 ++
    need (!on 1 || decide (fld r 16 2 ≠ 3)) 16 ++ need (!on 2 || decide (fld r 18 2 ≠ 3)) 18 ++
    lowBitAt r 20 12 ++ lowBitAt r 39 9 ++ lowBitAt r 48 16 ++
    need (!on 3 || decide (fld r 128 64 ≠ 0)) 128 ++
    need (!on 4 || (decide (1 ≤ fld r 192 64) && decide (fld r 192 64 ≤ 2 ^ 38))) 192 ++
    need (!on 5 || (decide (1 ≤ fld r 256 32) && decide (fld r 256 32 ≤ 1610612736))) 256 ++
    need (!on 6 || (decide (1 ≤ fld r 288 13) && decide (fld r 288 13 ≤ 4096))) 288 ++
    lowBitAt r 301 19 ++ lowBitAt r 352 672

/-- Group and pipeline bodies (R30). -/
def groupOffs (r : Nat) : List Nat :=
  misaligned r 1024 3 ++ need (decide (1 ≤ fld r 1088 9) && decide (fld r 1088 9 ≤ 256)) 1088 ++ lowBitAt r 1097 951

def pipeOffs (r : Nat) : List Nat :=
  misaligned r 1024 3 ++ need (decide (2 ≤ fld r 1088 5) && decide (fld r 1088 5 ≤ 16)) 1088 ++ lowBitAt r 1093 955

/-- Stage bodies (R32, R33). -/
def stageOffs (r : Nat) : List Nat :=
  let g := fld r 1088 4
  let lo := fld r 1104 16
  let hi := fld r 1120 16
  need (decide (fld r 1024 2 = 0)) 1024 ++ need (decide (1 ≤ g) && decide (g ≤ 8)) 1088 ++ lowBitAt r 1092 12 ++ need (decide (1 ≤ lo)) 1104 ++
    need (decide (lo ≤ hi) && decide (hi * g ≤ 16384)) 1120 ++ lowBitAt r 1136 16 ++ need (r.testBit 1216) 1216 ++
    lowBitAt r 1232 48 ++ misaligned r 1280 6 ++ misaligned r 1344 6 ++ misaligned r 1408 5 ++ misaligned r 1472 6 ++
    lowBitAt r 1536 512

/-- The partition word of a stage (R144, reason 10). -/
def partOffs (r : Nat) : List Nat :=
  let w := BitVec.ofNat 64 (fld r 1152 64)
  let acc := partAcc w
  let code := partCode w
  let fits := decide (acc ≤ 32) && decide (1 ≤ code) && decide (code ≤ 64)
  need (decide (1 ≤ code) && decide (code ≤ 64)) 1160 ++ need (decide (acc ≤ 32)) 1168 ++
    need (!(partShadow w && acc == 0)) 1174 ++ lowBitAt r 1158 2 ++ lowBitAt r 1175 1 ++ lowBitAt r 1192 24 ++
    (if fits then need (decide (codeEnd w + 1024 * partMinScr w ≤ accStart w) && decide (codeEnd w + 4096 * acc *
      (if partShadow w then 2 else 1) ≤ regStart w)) 1176 else [])

/-! ### Reading records -/

/-- What parsing carries: the state (walks set a bits), the addresses seen, the nodes found so far, and whether the
loader checks an image, which leaves out partitions and pool images (R41). -/
structure Parse where
  s : State
  seen : List Nat
  nodes : AMap Node
  next : Nat
  load : Bool

/-- Read a record of n bytes; one that cannot be read is reason 1 at bit 0 (log 29). -/
def readRec (s : State) (sp va n addr : Nat) : Chk (Nat × State) :=
  match readSpace s dispWriter sp va n with
  | ((0, bs), s1) => .ok (ofBytes bs, s1)
  | (_, _) => refuse 1 0 addr

/-- The i-th 64-bit word of an array. -/
def arrayWord (a i : Nat) : Nat := fld a (64 * i) 64

/-- Where bytes of a space lie in DRAM: home addresses with lengths, a line at a time, by fuel. -/
def homeCells (sp : Nat) : Nat → State → Nat → Nat → List (Nat × Nat) × State
  | 0, s, _, _ => ([], s)
  | f + 1, s, va, n =>
    if n = 0 then ([], s)
    else
      match xlatePort s sp .read va with
      | ((0, tr), s1) =>
        let r := homeCells sp f s1 (va + chunkOf va n) (n - chunkOf va n)
        (if tr.host then r.1 else (tr.line * 64 + tr.off, chunkOf va n) :: r.1, r.2)
      | (_, s1) => ([], s1)

/-- A tile space (R38, R39). Each stage that names a descriptor counts its own tiles (DESIGN CHOICE, log 122). -/
def readTile (s : State) (sp a : Nat) : Chk (Option TileSpace × State) :=
  if a = 0 then .ok (none, s)
  else do
    let (d, s1) ← readRec s sp a 32 a
    let dims := fld d 48 2
    chkOffs 1 a (need (decide (dims ≠ 0)) 48 ++ need (decide (fld d 50 2 ≠ 3)) 50 ++ lowBitAt d 52 12 ++ lowBitAt d 112 144)
    chkOffs 4 a ((if dims < 2 then lowBitAt d 16 16 else []) ++ (if dims < 3 then lowBitAt d 32 16 else []) ++ lowBitAt d 64 48)
    let (cells, s2) := homeCells sp 2 s1 (a + 8) 6
    .ok (some { addr := a, dims := dims, order := fld d 50 2, xext := fld d 0 16, yext := fld d 16 16, zext := fld d 32 16,
                issued := 0, next := 0, back := [], cells := cells }, s2)

/-- A pool-image header (R147). -/
def checkImage (s : State) (sp a : Nat) (part : Word) : Chk State :=
  if a = 0 then .ok s
  else do
    let (h, s1) ← readRec s sp a 16 a
    chkOffs 1 a (lowBitAt h 96 32)
    let o := fld h 32 32
    if o < 0x2000 ∨ o % 4 ≠ 0 ∨ codeEnd part < o + fld h 0 32 then refuse 10 32 a else .ok s1

/-- A fresh node from a charter record. -/
def mkNode (addr r : Nat) (parent : Option Nat) (e : Eff7) (ring : Nat) : Node :=
  { addr := addr, kind := fld r 0 8, parent := parent, children := [], tag := fld r 320 32, deadline := e.deadline,
    missed := e.missed, policy := e.policy, energy := e.energy, dram := e.dram, pool := e.pool, cores := e.cores,
    stage := if fld r 0 8 = 3 then some {
        entry := BitVec.ofNat 64 (fld r 1024 64), gang := fld r 1088 4, mininst := fld r 1104 16, maxinst := fld r 1120 16,
        part := BitVec.ofNat 64 (fld r 1152 64), feat := BitVec.ofNat 64 (fld r 1216 64), inring := fld r 1280 64,
        outring := fld r 1344 64, tiles := fld r 1408 64, pimage := fld r 1472 64 } else none
    tile := none, usedCores := 0, usedDram := 0, usedEnergy := 0, firstStart := 0, placed := false, started := 0,
    running := 0, complete := false, ending := false, missApplied := false, status := 0, code := 0, health := false,
    retried := false, again := false, overrun := none, dlCount := 0, dlRing := ring, metered := 0 }

/-- A charter and its subtree, depth first with children in array order; at most eight levels (fuel), 1,024 charters,
no address twice (R22). `e` is what its parent hands down. An address that is not 256-aligned is reported under reason 1
at bit 0 (DESIGN CHOICE, log 29). -/
def parseNode (sp : Nat) : Nat → Parse → Nat → Option Nat → Bool → Eff7 → Chk (Nat × Parse)
  | 0, _, addr, _, _, _ => refuse 2 0 addr
  | lv + 1, p, addr, parent, top, e =>
    if p.seen.contains addr ∨ 1024 ≤ p.seen.length then refuse 2 0 addr
    else if addr % 256 ≠ 0 then refuse 1 0 addr
    else do
      let (r, s1) ← readRec p.s sp addr 256 addr
      let kind := fld r 0 8
      chkOffs 1 addr (commonOffs r ++ (if kind = 1 then groupOffs r else if kind = 2 then pipeOffs r
        else if kind = 3 then stageOffs r else []))
      let me := p.next
      let eff := effective top e r
      if kind = 3 then do
        chkOffs 10 addr (if p.load then [] else partOffs r)
        let (tile, s2) ← readTile s1 sp (fld r 1408 64)
        let s3 ← if p.load then Except.ok s2 else checkImage s2 sp (fld r 1472 64) (BitVec.ofNat 64 (fld r 1152 64))
        let n := { mkNode addr r parent eff s3.drawFree.1 with tile := tile }
        .ok (me, { s := s3.drawFree.2, seen := addr :: p.seen, nodes := AMap.set p.nodes me n, next := me + 1, load := p.load })
      else do
        let n := mkNode addr r parent eff 0
        let cnt := if kind = 1 then fld r 1088 9 else fld r 1088 5
        let (arr, s2) ← readRec s1 sp (fld r 1024 64) (8 * cnt) addr
        let p1 : Parse := { s := s2, seen := addr :: p.seen, nodes := AMap.set p.nodes me n, next := me + 1, load := p.load }
        let (ids, p2) ← (List.range cnt).foldlM (fun (q : List Nat × Parse) i => do
          let (j, q1) ← parseNode sp lv q.2 (arrayWord arr i) (some me) false eff
          Except.ok (q.1 ++ [j], q1)) ([], p1)
        .ok (me, { p2 with nodes := AMap.set p2.nodes me { n with children := ids } })

/-! ### Pipelines and rings (R31, R35) -/

def stageRings (n : Node) : Nat × Nat :=
  match n.stage with
  | some g => (g.inring, g.outring)
  | none => (0, 0)

/-- The conditions of R31 on a pipeline's children. -/
def checkPipe (nodes : AMap Node) (p : Node) : Chk Unit :=
  let kids := p.children.filterMap (fun i => AMap.get nodes i)
  match kids.find? (fun k => k.kind ≠ 3) with
  | some k => refuse 3 0 k.addr
  | none =>
    match (kids.zip kids.tail).find? (fun e => (stageRings e.1).2 = 0 ∨ (stageRings e.1).2 ≠ (stageRings e.2).1) with
    | some e => refuse 3 1344 e.1.addr
    | none => .ok ()

/-- The key of a ring held by the device. -/
def ringKey (sp a : Nat) : Nat := sp * 2 ^ 64 + a

/-- Read and check a ring descriptor with its states (R34-R36). -/
def readRing (s : State) (sp lid a : Nat) : Chk (Ring × State) := do
  if (match AMap.get s.disp.rings (ringKey sp a) with
      | some r => !(ringNames s (ringKey sp a, r)).isEmpty
      | none => false) then refuse 3 0 a
  else do
    let (d, s1) ← readRec s sp a 64 a
    let nlog := fld d 136 4
    let size := fld d 128 4
    chkOffs 1 a (lowBitAt d 320 192 ++ lowBitAt d 176 16 ++ lowBitAt d 140 4 ++ lowBitAt d 132 4 ++
      need (decide (1 ≤ nlog)) 136 ++ need (decide (size ≤ 10)) 128 ++ misaligned d 64 3 ++
      (if size ≤ 10 then misaligned d 0 (size + 6) else []))
    let low := fld d 160 16
    let high := fld d 144 16
    let c := fld d 192 32
    chkOffs 3 a (need (decide (low < high) && decide (high ≤ 2 ^ nlog)) 144 ++
      need (decide (fld d 224 32 = c) && decide (fld d 256 32 = c) && decide (fld d 288 32 = c)) 192)
    let (st, s2) ← readRec s1 sp (fld d 64 64) (2 ^ nlog) a
    let (c1, s3) := homeCells sp 2 s2 (a + 24) 16
    let (c2, s4) := homeCells sp (2 ^ nlog / 64 + 2) s3 (fld d 64 64) (2 ^ nlog)
    if st ≠ 0 then refuse 3 64 a
    else .ok ({ space := sp, launch := lid, slots := BitVec.ofNat 64 (fld d 0 64), size := size,
                states := BitVec.ofNat 64 (fld d 64 64), nlog := nlog, low := low, high := high, claim := c, post := c,
                take := c, free := c, st := [], holder := none, above := 0, below := 0, mark := none, closed := false,
                start := c, cells := c1 ++ c2 }, s4)

/-- Every ring that the tree names, once each. -/
def treeRings (nodes : AMap Node) : List Nat :=
  nodes.foldl (fun l e => let r := stageRings e.2
    (if r.1 = 0 then (fun l => l) else insertNat r.1) ((if r.2 = 0 then (fun l => l) else insertNat r.2) l)) []

/-! ### The minimum placement (R142) -/

/-- Cores of the minimum placement of a stage. -/
def stageCores (n : Node) : Nat :=
  match n.stage with
  | some g => g.mininst * g.gang
  | none => 0

def stagePart (n : Node) : Word :=
  match n.stage with
  | some g => g.part
  | none => 0

/-- Whole clusters for the minimum placement of some stages at once, of one partition word (R144). -/
def coresUp (ns : List Node) : Nat := (ns.foldl (fun a n => a + stageCores n) 0 + 7) / 8

/-- The partition words of some stages, once each, in order. -/
def partWords (ns : List Node) : List Word := ns.foldl (fun l n => if l.contains (stagePart n) then l else l ++ [stagePart n]) []

/-- Clusters that some stages placed at once need: their cores rounded up to whole clusters; stages of different
partition words share none (R142, R144; log 31). -/
def togetherClusters (ns : List Node) : Nat :=
  (partWords ns).foldl (fun a w => a + coresUp (ns.filter (fun n => stagePart n == w))) 0

/-- The first child in the order of R140: earliest deadline, then the array's order. -/
def firstChild (nodes : AMap Node) (kids : List Nat) : Option Nat :=
  (sortBy (fun i => match AMap.get nodes i with
    | some n => n.deadline
    | none => 0) kids).head?

/-- Clusters of the minimum placement of a charter (fuel: the levels). -/
def minClusters (nodes : AMap Node) : Nat → Nat → Nat
  | 0, _ => 0
  | f + 1, i =>
    match AMap.get nodes i with
    | none => 0
    | some n =>
      if n.kind = 3 then togetherClusters [n]
      else if n.kind = 2 then togetherClusters (n.children.filterMap (AMap.get nodes))
      else
        match firstChild nodes n.children with
        | some j => minClusters nodes f j
        | none => 0

/-- Pool bytes that a core counts (R151). -/
def corePool : Nat := 393216

/-- A cluster is healthy: neither it nor its die is fenced. -/
def healthy (s : State) (cl : Nat) : Bool := !(s.cluster cl).fenced && !s.mem.lost.contains (cl / 32)

def healthyCount (s : State) : Nat := ((List.range Config.clusters).filter (healthy s)).length

/-- Reason 7 of a charter. -/
def tooBig (s : State) (nodes : AMap Node) (i : Nat) (n : Node) : Bool :=
  let c := minClusters nodes 8 i
  decide (n.cores < 8 * c) || decide (n.pool < 8 * c * corePool) || decide (healthyCount s < c)

/-! ### The whole check -/

/-- An accepted launch, with the state that reading left and the rings it holds. -/
structure Accepted where
  s : State
  launch : Launch
  rings : List (Nat × Ring)

/-- Check a packet in a space; `parent` is the stage whose `launch` submitted it (R154). Its tree counts by itself for
the limits of R22 (DESIGN CHOICE, log 121). -/
def checkLaunch (s : State) (sp pkt : Nat) (parent : Option (Nat × Nat)) : Chk Accepted := do
  chkOffs 1 0 (packetOffs pkt ++ need (decide ((AMap.getD s.mgmt.areas sp Area.reset).clog ≠ 0)) 0)
  if 1024 ≤ (s.disp.launches.filter (fun e => !e.2.done)).length then refuse 9 0 0
  else
    let seq := pkSeq pkt
    let deps := (List.range (pkNdeps pkt)).map (pkDep pkt)
    if (match AMap.get s.disp.lastSeq sp with
        | some l => !precedes l seq
        | none => false) then refuse 5 192 0
    else if deps.any (fun d => d == seq || precedes seq d) then refuse 6 256 0
    else do
      let up : Bool × Eff7 := match parent with
        | none => (true, rootEff s sp (pkDeadline pkt))
        | some q => match s.node q.1 q.2 with
          | some n => (false, { nodeEff n with deadline := min n.deadline (pkDeadline pkt) })
          | none => (true, rootEff s sp (pkDeadline pkt))
      let (_, p) ← parseNode sp 8 { s := s, seen := [], nodes := [], next := 0, load := false } (pkCharter pkt) none up.1 up.2
      p.nodes.forM (fun e => if e.2.kind = 2 then checkPipe p.nodes e.2 else .ok ())
      let (rings, s1) ← (treeRings p.nodes).foldlM (fun (q : List (Nat × Ring) × State) a => do
        let (r, s1) ← readRing q.2 sp s.disp.nextLaunch a
        Except.ok (q.1 ++ [(ringKey sp a, r)], s1)) (([] : List (Nat × Ring)), p.s)
      p.nodes.forM (fun e => if tooBig s p.nodes e.1 e.2 then refuse 7 0 e.2.addr else .ok ())
      .ok { s := s1
            launch := { space := sp, seq := seq, args := BitVec.ofNat 64 (pkArgs pkt), start := pkStart pkt, deps := deps,
                        strict := pkStrict pkt, nodes := p.nodes, parent := parent, clusters := [], done := false,
                        aborted := false, record := 0 }
            rings := rings }

end Sys2Proof.Machine
end

