-- ==== Sys2Proof/Machine/Place.lean ====
section
/-! DEFINITION. The dispatcher, the placers and the governors at work: readiness and rank, placement, starting and
ending instances, tiles, rings, meters, deadlines and completion records (R137-R159, R161, R443, R444), with their
events. -/

namespace Sys2Proof.Machine

/-! ### Readiness and rank (R139, R140) -/

/-- A dependence is satisfied: kept outcomes count when their record is written, others at once. -/
def depDone (s : State) (sp d : Nat) : Bool :=
  match (AMap.getD s.disp.outcomes sp []).find? (fun e => e.1 == d) with
  | some (_, r) => r.isSome
  | none => true

/-- A dependence has completed unhealthy. -/
def depSick (s : State) (sp d : Nat) : Bool :=
  match (AMap.getD s.disp.outcomes sp []).find? (fun e => e.1 == d) with
  | some (_, some u) => u
  | some (_, none) => false
  | none => false

/-- A strict launch of which a dependence completed unhealthy. -/
def struck (s : State) (l : Launch) : Bool := l.strict && l.deps.any (depSick s l.space)

/-- A cluster that a placer may grant. -/
def grantable (s : State) (cl : Nat) : Bool :=
  healthy s cl && (s.cluster cl).holder.isNone && (s.die (cl / 32)).running && (s.die (cl / 32)).phase == 0

/-- The first n grantable clusters (log 31). -/
def freeClusters (s : State) (n : Nat) : List Nat := ((List.range Config.clusters).filter (grantable s)).take n

/-- Something of the launch has been placed: it has become ready and stays so. -/
def launchBegun (l : Launch) : Bool :=
  match AMap.get l.nodes 0 with
  | some n => n.firstStart != 0
  | none => false

/-- The free healthy clusters hold the minimum placement of the root. -/
def rootFits (s : State) (l : Launch) : Bool :=
  decide (minClusters l.nodes 8 0 ≤ (freeClusters s (minClusters l.nodes 8 0)).length)

/-- R140: dependences, start and room (log 116). -/
def launchReady (s : State) (l : Launch) : Bool :=
  !l.done && !l.aborted && !struck s l && decide (l.start ≤ s.time.tick) && l.deps.all (depDone s l.space) &&
    (launchBegun l || rootFits s l)

/-- The topmost charter of the tree, from `i` up, whose missed action has struck (R143). -/
def struckBy (l : Launch) : Nat → Nat → Option Node
  | 0, _ => none
  | f + 1, i =>
    match AMap.get l.nodes i with
    | none => none
    | some n =>
      match (match n.parent with
        | some p => struckBy l f p
        | none => none) with
      | some m => some m
      | none => if n.missApplied then some n else none

/-- A charter runs late (R140). -/
def isLate (l : Launch) (i : Nat) : Bool :=
  match struckBy l 8 i with
  | some n => n.missed == 0
  | none => false

/-- The rank of a charter as one number: late last, then deadline, seq, space, place in the tree. -/
def rankOf (l : Launch) (i : Nat) (n : Node) : Nat :=
  ((((if isLate l i then 1 else 0) * 2 ^ 64 + n.deadline) * 2 ^ 32 + l.seq) * 2 ^ 16 + l.space) * 2 ^ 16 + i

/-- A unit that is placed as a whole: a stage outside a pipeline, or a pipeline (R142). -/
def isUnit (l : Launch) (n : Node) : Bool :=
  n.kind == 2 || (n.kind == 3 && (match n.parent with
    | some p => (match AMap.get l.nodes p with
      | some m => m.kind != 2
      | none => true)
    | none => true))

/-- The units that wait for placement, best rank first, as (launch, charter). -/
def waitingUnits (s : State) : List (Nat × Nat) :=
  let xs := s.disp.launches.flatMap (fun e =>
    if launchReady s e.2 then
      e.2.nodes.filterMap (fun q =>
        if isUnit e.2 q.2 && !q.2.placed && !q.2.complete && !q.2.ending then some (rankOf e.2 q.1 q.2, (e.1, q.1)) else none)
    else [])
  (sortBy Prod.fst xs).map Prod.snd

/-! ### Placement (R142-R148) -/

/-- Every budget of a charter and its ancestors allows n more clusters (R152). -/
def budgetAllows (s : State) (lid i n : Nat) : Bool :=
  (ancestors s lid i).all (fun p => match s.node p.1 p.2 with
    | some x => decide (x.usedCores + 8 * n ≤ x.cores) && decide ((x.usedCores + 8 * n) * corePool ≤ x.pool)
    | none => true)

/-- A core as a placer leaves it: the partition word, the sill, full tags, open shutters, the function table of R399,
a raised blind. -/
def grantCore (x : Core) (part : Word) : Core :=
  { x with part := part, sill := BitVec.ofNat 64 (codeEnd part), emptyTags := [], shutters := [], fns := Core.reset.fns,
           imaged := [], beta := none, lowered := false }

/-- Grant one cluster to a stage and to those placed at once with it. -/
def grantCluster (lid i : Nat) (also : List Nat) (part : Word) (s : State) (cl : Nat) : State :=
  let s1 := s.modCluster cl (fun x =>
    { x with holder := some (lid, i), also := also, lmap := [], sampleAt := s.time.cycle + 4096 })
  (List.range 8).foldl (fun s p => s.modCore (coreAt cl p) (fun x => grantCore x part)) s1

/-- Count n clusters on a charter and its ancestors; the first placement sets start (R444). -/
def countClusters (s : State) (lid i n : Nat) : State :=
  (ancestors s lid i).foldl (fun s p => s.modNode p.1 p.2 (fun x =>
    { x with usedCores := x.usedCores + 8 * n, firstStart := if x.firstStart = 0 then s.time.tick else x.firstStart })) s

/-- Stages of a launch whose output ring is `a`. -/
def producers (s : State) (lid a : Nat) : List Node :=
  match AMap.get s.disp.launches lid with
  | some l => (AMap.vals l.nodes).filter (fun n => (stageRings n).2 == a && a != 0)
  | none => []

def consumers (s : State) (lid a : Nat) : List Node :=
  match AMap.get s.disp.launches lid with
  | some l => (AMap.vals l.nodes).filter (fun n => (stageRings n).1 == a && a != 0)
  | none => []

/-- The rings whose governor the first placement of a stage fixes: its output ring, and its input ring when that is
external (R150). -/
def governed (s : State) (lid : Nat) (n : Node) : List Nat :=
  let r := stageRings n
  (if r.2 = 0 then [] else [r.2]) ++ (if r.1 = 0 ∨ !(producers s lid r.1).isEmpty then [] else [r.1])

/-- Hand rings to a cluster's governor where none holds them. -/
def takeRings (s : State) (sp : Nat) (as : List Nat) (cl : Nat) : State :=
  s.modDisp (fun d => { d with rings := d.rings.map (fun e =>
    (e.1, if as.any (fun a => ringKey sp a == e.1) && e.2.holder.isNone then { e.2 with holder := some cl } else e.2)) })

/-- A stage is placed: its start is counted, its rings get their governor. -/
def settleStage (lid cl : Nat) (s : State) (i : Nat) : State :=
  match AMap.get s.disp.launches lid, s.node lid i with
  | some l, some n =>
    let s1 := (countClusters s lid i 0).modNode lid i (fun x => { x with placed := true, metered := s.time.cycle })
    takeRings s1 l.space (governed s1 lid n) cl
  | _, _ => s

/-- Place stages of one partition word at once: their clusters are granted, and the meters of the first of them and of the
charters above count (log 117); none when they do not fit. -/
def placeStages (lid : Nat) (s : State) (is : List Nat) : Option State :=
  match is with
  | [] => some s
  | i :: rest =>
    let ns := is.filterMap (s.node lid)
    let c := coresUp ns
    let cls := freeClusters s c
    if cls.length < c ∨ !budgetAllows s lid i c then none
    else
      let s1 := cls.foldl (grantCluster lid i rest ((partWords ns).headD 0)) s
      some (is.foldl (settleStage lid (minD 0 cls)) (countClusters s1 lid i c))

/-- Place a unit: a stage, or all the stages of a pipeline at once. -/
def placeUnit (s : State) (u : Nat × Nat) : Option State :=
  match s.node u.1 u.2 with
  | none => none
  | some n =>
    if n.kind = 3 then placeStages u.1 s [u.2]
    else
      let groups := (partWords (n.children.filterMap (s.node u.1))).map (fun w => n.children.filter (fun j =>
        match s.node u.1 j with
        | some k => stagePart k == w
        | none => false))
      match groups.foldlM (placeStages u.1) s with
      | some s1 => some (s1.modNode u.1 u.2 (fun x => { x with placed := true }))
      | none => none

/-! ### Starting instances (R146-R148) -/

/-- Tiles of the order that have not been handed out yet. -/
def freshTiles (t : TileSpace) : Bool := decide (t.issued + t.back.length < (t.xext + 1) * (t.yext + 1) * (t.zext + 1))

/-- A query receives a tile (R39). -/
def tilesLeft (t : TileSpace) : Bool := !t.back.isEmpty || freshTiles t

/-- The producer of a ring has completed: every producing stage, or the outside party's close (R149). -/
def producerDone (s : State) (r : Ring) (a : Nat) : Bool :=
  let ps := producers s r.launch a
  if ps.isEmpty then r.closed else ps.all (fun n => n.complete)

/-- A ring has nothing to take and never will. -/
def ringDry (s : State) (sp a : Nat) : Bool :=
  match AMap.get s.disp.rings (ringKey sp a) with
  | some r => producerDone s r a && r.post == r.take
  | none => true

/-- A stage that names an input ring or a tile space. -/
def isFed (n : Node) : Bool := n.tile.isSome || decide ((stageRings n).1 ≠ 0)

/-- There may be work for one more instance of a fed stage. -/
def moreWork (s : State) (sp : Nat) (n : Node) : Bool :=
  (match n.tile with
   | some t => freshTiles t
   | none => true) && ((stageRings n).1 == 0 || !ringDry s sp (stageRings n).1)

/-- A given-back tile waits while no instance runs: one new instance is started for it (R155). -/
def tileWaits (n : Node) : Bool :=
  n.running == 0 && (match n.tile with
    | some t => !t.back.isEmpty
    | none => false)

/-- A stage wants another instance started (R146, R149, R155). -/
def wantsStart (s : State) (sp : Nat) (n : Node) : Bool :=
  match n.stage with
  | none => false
  | some g =>
    n.placed && !n.complete && !n.ending &&
      (if isFed n then decide (n.started < g.mininst) || tileWaits n || (decide (n.running < g.maxinst) && moreWork s sp n)
       else decide (n.started < g.mininst))

/-- The lowest free slot of a core. -/
def freeSlot (s : State) (c : Nat) : Option Nat :=
  let x := s.core c
  (List.range (partThreads x.part)).find? (fun k => decide ((x.slot k).status = .unplaced))

/-- Slots in use on a core. -/
def coreLoad (s : State) (c : Nat) : Nat := ((s.core c).slots.filter (fun e => decide (e.2.status ≠ .unplaced))).length

/-- A stage has this pool image. -/
def hasImage (s : State) (lid i pimage : Nat) : Bool :=
  match s.node lid i with
  | some n => n.stage.map Stage.pimage == some pimage
  | none => false

/-- The slots in use on a core all run stages with this pool image, and their gangs are marked for no other (R147). -/
def imageFits (s : State) (c pimage : Nat) : Bool :=
  (s.core c).slots.all (fun e => decide (e.2.status = .unplaced) ||
    (hasImage s e.2.place.launch e.2.place.node pimage &&
      (match AMap.get s.disp.gangs e.2.place.gang with
       | some g => (match g.marked with
         | some j => hasImage s g.launch j pimage
         | none => true)
       | none => true)))

/-- k distinct cores of a cluster with a free slot each and the same pool image, the least loaded first (log 31). -/
def pickMembers (s : State) (cl k pimage : Nat) : Option (List (Nat × Nat)) :=
  let cs := ((sortBy (fun p => coreLoad s (coreAt cl p)) (List.range 8)).filter (fun p => imageFits s (coreAt cl p) pimage)).filterMap
    (fun p => (freeSlot s (coreAt cl p)).map (fun q => (coreAt cl p, q)))
  if k ≤ cs.length then some (cs.take k) else none

/-- The clusters that a stage holds or shares, the least loaded first. -/
def stageHeld (s : State) (lid i : Nat) : List Nat :=
  let cls := (s.clusters.filter (fun e => e.2.holder == some (lid, i) ||
    (e.2.holder.map Prod.fst == some lid && e.2.also.contains i))).map Prod.fst
  sortBy (fun cl => (List.range 8).foldl (fun a p => a + coreLoad s (coreAt cl p)) 0) cls

/-- Write a stage's pool image into a core (R147, log 34). -/
def writeImage (s : State) (sp a c : Nat) : State :=
  if a = 0 then s
  else
    match readSpace s dispWriter sp a 16 with
    | ((0, h), s1) =>
      let n := fld (ofBytes h) 0 32
      let o := fld (ofBytes h) 32 32
      if o < 0x2000 ∨ o % 4 ≠ 0 ∨ codeEnd (s.core c).part < o + n then s1
      else
        match readSpace s1 dispWriter sp (a + 16) n with
        | ((0, bs), s2) => s2.modCore c (fun x => x.putBytes o bs)
        | (_, s2) => s2
    | (_, s1) => s1

/-- Lanes k of a pair are emptied unless their entries belong to the same root launch (R414). -/
def clearLanes (s : State) (c k root : Nat) : State :=
  s.modCore (laneCore c) (fun x =>
    let keep (key : Nat) : Bool := AMap.get x.laneLaunch key == some root
    { x with lanes := x.lanes.filter (fun e => (e.1 != k && e.1 != 4 + k) || keep e.1) })

/-- A budget of the charter or of an ancestor has run out (R152). -/
def overrunOf (s : State) (lid i : Nat) : Option Nat :=
  (ancestors s lid i).findSome? (fun p => match s.node p.1 p.2 with
    | some x => x.overrun
    | none => none)

/-- The thread that an instance starts on a slot (R146, R148). -/
def freshThread (s : State) (old : Thread) (lid i gid gpos inum : Nat) (lead : Nat) (l : Launch) (n : Node) (g : Stage) : Thread :=
  { Thread.reset with
    pc := g.entry, status := .ready, wq := old.wq, g := [(1, l.args), (2, BitVec.ofNat 64 inum), (3, BitVec.ofNat 64 n.addr)]
    pend := { Pending.none with meter := overrunOf s lid i }
    place := { charter := BitVec.ofNat 64 n.addr, feat := g.feat, spaceid := l.space
               keyslot := (match spaceEntry s l.space with
                 | some e => e.keyslot
                 | none => 0)
               deadline := BitVec.ofNat 64 n.deadline, launch := lid, node := i, gang := gid, gsize := g.gang,
               gpos := gpos, leader := lead, shed := false, gen := old.place.gen + 1 } }

/-- Start one member. -/
def startMember (lid i gid inum lead : Nat) (l : Launch) (n : Node) (g : Stage) (moved : Bool) (s : State)
    (m : Nat × (Nat × Nat)) : State :=
  let c := m.2.1
  let s1 := if moved || !(s.core c).imaged.contains (lid, i) then
      (writeImage s l.space g.pimage c).modCore c (fun x => { x with imaged := (lid, i) :: x.imaged })
    else s
  let s2 := clearLanes s1 c m.2.2 (rootOf s1 lid)
  (s2.setThread c m.2.2 (freshThread s2 (s2.thread c m.2.2) lid i gid m.1 inum lead l n g)).modCore c
    (fun x => { x with lowered := false })

/-- Start an instance of a stage on given slots; `since` is the tick from which its gang runs the stage. -/
def startGang (s : State) (lid i : Nat) (ms : List (Nat × Nat)) (moved : Bool) (since : Nat) : State :=
  match AMap.get s.disp.launches lid, s.node lid i with
  | some l, some n =>
    match n.stage, ms with
    | some g, m :: _ =>
      let gid := s.disp.nextGang + 1
      let gang : Gang := { launch := lid, node := i, cluster := clusterOf m.1, members := ms, inum := n.started,
                           startTick := since, marked := none, token := false, started := true, fatal := none }
      let s1 := s.modDisp (fun d => { d with gangs := AMap.set d.gangs gid gang, nextGang := gid })
      let s2 := s1.modNode lid i (fun x => { x with started := x.started + 1, running := x.running + 1 })
      ((List.range ms.length).zip ms).foldl (startMember lid i gid n.started (posOf m.1) l n g moved) s2
    | _, _ => s
  | _, _ => s

/-- Start the next instance that a stage wants: on slots it holds, else on one more cluster as clusters free. -/
def startNext (s : State) (lid i : Nat) : Option State :=
  match AMap.get s.disp.launches lid, s.node lid i with
  | some l, some n =>
    match n.stage with
    | none => none
    | some g =>
      if !wantsStart s l.space n then none
      else
        match (stageHeld s lid i).findSome? (fun cl => pickMembers s cl g.gang g.pimage) with
        | some ms => some (startGang s lid i ms false s.time.tick)
        | none =>
          if !(waitingUnits s).isEmpty ∨ !budgetAllows s lid i 1 then none
          else
            match freeClusters s 1 with
            | cl :: _ =>
              let s1 := countClusters (grantCluster lid i [] g.part s cl) lid i 1
              (pickMembers s1 cl g.gang g.pimage).map (fun ms => startGang s1 lid i ms false s.time.tick)
            | [] => none
  | _, _ => none

/-- The first stage for which an instance can be started. -/
def dueStart (s : State) : Option (Nat × Nat) :=
  s.disp.launches.findSome? (fun e => e.2.nodes.findSome? (fun q =>
    if q.2.kind = 3 ∧ (startNext s e.1 q.1).isSome then some (e.1, q.1) else none))

/-! ### Tiles (R39, R155, R156) -/

/-- Deal the bits of n in turn to the first `dims` coordinates (by fuel). -/
def mortonFrom (dims : Nat) : Nat → Nat → Nat → Nat → Nat → Nat → Nat × Nat × Nat
  | 0, _, _, x, y, z => (x, y, z)
  | f + 1, b, n, x, y, z =>
    let y1 := if dims ≥ 2 then y + n / 2 % 2 * 2 ^ b else y
    let z1 := if dims ≥ 3 then z + n / 4 % 2 * 2 ^ b else z
    mortonFrom dims f (b + 1) (n / 2 ^ dims) (x + n % 2 * 2 ^ b) y1 z1

/-- Coordinate n of an order. -/
def tileAt (t : TileSpace) (n : Nat) : Nat × Nat × Nat :=
  let xs := t.xext + 1
  let ys := t.yext + 1
  match t.order with
  | 0 => (n % xs, n / xs % ys, n / (xs * ys))
  | 1 => (n / ys % xs, n % ys, n / (xs * ys))
  | _ => mortonFrom t.dims 16 0 n 0 0 0

def inExtents (t : TileSpace) (c : Nat × Nat × Nat) : Bool :=
  decide (c.1 ≤ t.xext) && decide (c.2.1 ≤ t.yext) && decide (c.2.2 ≤ t.zext)

/-- The first count from n on whose coordinate lies in the extents. -/
def nextInside (t : TileSpace) : Nat → Nat → Nat
  | 0, n => n
  | f + 1, n => if inExtents t (tileAt t n) then n else nextInside t f (n + 1)

/-- A tile as one number: x, y, z in 16 bits each. -/
def packTile (c : Nat × Nat × Nat) : Nat := c.1 + c.2.1 * 2 ^ 16 + c.2.2 * 2 ^ 32

/-- The next tile of a space, or none for the token. -/
def takeTile (t : TileSpace) : Option Nat × TileSpace :=
  match t.back with
  | b :: bs => (some b, { t with back := bs, issued := t.issued + 1 })
  | [] =>
    if tilesLeft t then
      let n := nextInside t (2 ^ 48) t.next
      (some (packTile (tileAt t n)), { t with next := n + 1, issued := t.issued + 1 })
    else (none, t)

/-- Write an answer into the pool of every member of a gang: word o, then word o + 4, each tag full. -/
def writeTile (s : State) (gid off w0 w1 : Nat) : State :=
  (gangMembers s gid).foldl (fun s m =>
    setTagsWake (s.modCore m.1 (fun x => (x.putNum off 4 w0).putNum (off + 4) 4 w1)) m.1 off 8 true) s

/-- The distributor answers the oldest query. -/
def answerTile (s : State) : State :=
  match s.disp.queries with
  | [] => s
  | (c, k, off) :: qs =>
    let s0 := s.modDisp (fun d => { d with queries := qs })
    let t := s.thread c k
    let gid := t.place.gang
    match s.node t.place.launch t.place.node with
    | none => s0
    | some n =>
      let r : Option Nat × Option TileSpace := match n.tile with
        | some ts => ((takeTile ts).1, some (takeTile ts).2)
        | none => (none, none)
      let s1 := s0.modNode t.place.launch t.place.node (fun x => { x with tile := r.2 })
      let w : Nat × Nat := match r.1 with
        | some x => (x % 2 ^ 32, x / 2 ^ 32)
        | none => (0, 0x80000000)
      let s2 := writeTile s1 gid off w.1 w.2
      let s3 := if r.1.isNone then s2.modDisp (fun d => { d with gangs := d.gangs.map (fun e =>
          (e.1, if e.1 = gid then { e.2 with token := true } else e.2)) }) else s2
      s3.modThread c k (fun t => { t with
        tilesOut := t.tilesOut.erase off
        tilesAns := ((off, w.1, w.2) :: t.tilesAns).take 4 })

/-- Answers, newest first, without those that a newer one has overwritten. -/
def standing : List (Nat × Nat × Nat) → List (Nat × Nat × Nat)
  | [] => []
  | a :: as => a :: (standing as).filter (fun b => b.1 != a.1)

/-- Give back the unread tiles among the last four answers of an ending gang, oldest answer first. -/
def giveBack (s : State) (c k : Nat) : State :=
  let t := s.thread c k
  (standing t.tilesAns).reverse.foldl (fun s a =>
    if (s.core c).tagFull a.1 && (s.core c).tagFull (a.1 + 4) && decide (a.2.2 < 0x80000000) then
      s.modNode t.place.launch t.place.node (fun x => { x with tile := x.tile.map (fun ts =>
        { ts with back := ts.back ++ [a.2.1 + a.2.2 * 2 ^ 32], issued := ts.issued - 1 }) })
    else s) s

/-! ### The end of an instance by `done` (R149, R150, R155) -/

/-- Does a `done` restart its gang as an instance of the same stage? -/
def restarts (s : State) (gang : Gang) (n : Node) (sp : Nat) : Bool :=
  isFed n && !n.ending &&
    !(gang.token && (match n.tile with
      | some t => t.back.isEmpty
      | none => true)) &&
    ((stageRings n).1 == 0 || !ringDry s sp (stageRings n).1)

/-- End the instance of a gang: its unread tiles are given back; it restarts, moves, or its slots are released. -/
def endInstance (s : State) (c k : Nat) : State :=
  let t := s.thread c k
  let gid := t.place.gang
  match AMap.get s.disp.gangs gid, AMap.get s.disp.launches t.place.launch with
  | some gang, some l =>
    let s1 := giveBack s c k
    let s2 := stopGang s1 gid
    let s3 := s2.modNode gang.launch gang.node (fun x => { x with running := x.running - 1 })
    match s3.node gang.launch gang.node with
    | none => s3
    | some n =>
      if restarts s3 gang n l.space then
        match gang.marked with
        | some j =>
          let size := match s3.node gang.launch j with
            | some m => (match m.stage with
              | some g => g.gang
              | none => 0)
            | none => 0
          (gang.members.drop size).foldl (fun s m => idleCore s m.1)
            (startGang s3 gang.launch j (gang.members.take size) true s.time.tick)
        | none => startGang s3 gang.launch gang.node gang.members false gang.startTick
      else gang.members.foldl (fun s m => idleCore s m.1) s3
  | _, _ => stopSlot s c k

/-! ### Rings at the device (R36, R37, R157, R158) -/

def ringSlots (r : Ring) : Nat := 2 ^ r.nlog
def idx32 (a b : Nat) : Nat := (a + 2 ^ 32 - b % 2 ^ 32) % 2 ^ 32
def slotAddr (r : Ring) (j : Nat) : Word := r.slots + BitVec.ofNat 64 (j * 2 ^ (r.size + 6))

/-- The slot number of a slot address. -/
def slotOf (r : Ring) (a : Word) : Option Nat :=
  let d := (a - r.slots).toNat
  if d % 2 ^ (r.size + 6) = 0 ∧ d / 2 ^ (r.size + 6) < ringSlots r then some (d / 2 ^ (r.size + 6)) else none

/-- Advance a count over consecutive slots in a state, up to a limit, by fuel. -/
def advanceOver (r : Ring) (state limit : Nat) : Nat → Nat → Nat
  | 0, i => i
  | f + 1, i =>
    if i = limit then i
    else if AMap.getD r.st (i % ringSlots r) 0 = state then advanceOver r state limit f ((i + 1) % 2 ^ 32)
    else i

def setRing (s : State) (key : Nat) (r : Ring) : State := s.modDisp (fun d => { d with rings := AMap.set d.rings key r })

/-- Write a ring's counters and state bytes back to memory (R37). -/
def ringBack (s : State) (a : Nat) (r : Ring) : State :=
  let s1 := (writeSpace s dispWriter r.space (a + 24) (toBytes 16 (ringCounters r))).2
  (writeSpace s1 dispWriter r.space r.states.toNat
    ((List.range (ringSlots r)).map (fun j => BitVec.ofNat 8 (AMap.getD r.st j 0)))).2

/-- Set the states of n slots from a count on. -/
def setStates (r : Ring) (i n st : Nat) : AMap Nat :=
  foldUp n (fun j m => AMap.set m ((i + j) % ringSlots r) st) r.st

/-! ### Meters (R151, R152) -/

def meterPending (m : Nat) (t : Thread) : Thread := { t with pend := { t.pend with meter := some m } }

/-- Mark the saved threads of some charters. -/
def markSaved (ps : List (Nat × Nat)) (m : Nat) (v : Saved) : Saved :=
  (v.gangs.filter (fun e => ps.contains (e.2.launch, e.2.node))).foldl (fun v e => e.2.members.foldl (fun v q =>
    { v with cores := v.cores.map (fun x => (x.1, if x.1 = q.1 then { x.2 with slots := x.2.slots.map (fun y =>
        (y.1, if y.1 = q.2 then meterPending m y.2 else y.2)) } else x.2)) }) v) v

/-- Mark every thread of a charter's subtree, placed or saved, for trap 0x12. -/
def markMeter (s : State) (lid i m : Nat) : State :=
  let ps := subtreeAll s 8 lid i
  let s1 := s.disp.gangs.foldl (fun s e =>
    if ps.contains (e.2.launch, e.2.node) then
      e.2.members.foldl (fun s q => s.modThread q.1 q.2 (meterPending m)) s
    else s) s
  s1.modDisp (fun d => { d with saved := d.saved.map (fun e => (e.1, markSaved ps m e.2)) })

/-- Add to the meters of one charter; a DRAM or energy budget that is reached traps its subtree, once. -/
def addMeters (dram energy : Nat) (s : State) (p : Nat × Nat) : State :=
  let s1 := s.modNode p.1 p.2 (fun x => { x with usedDram := x.usedDram + dram, usedEnergy := x.usedEnergy + energy })
  match s1.node p.1 p.2 with
  | none => s1
  | some x =>
    let spent := if x.dram ≤ x.usedDram then some 2 else if x.energy ≤ x.usedEnergy then some 3 else none
    match x.overrun, spent with
    | none, some m => markMeter (s1.modNode p.1 p.2 (fun x => { x with overrun := some m })) p.1 p.2 m
    | _, _ => s1

/-- Add to the meters of a charter and of every charter above it (R28). -/
def addAll (s : State) (lid i dram energy : Nat) : State := (ancestors s lid i).foldl (addMeters dram energy) s

/-- The calibrated energy of the counted events since the last update (log 9). -/
def State.drawEnergy (s : State) : Nat × State := (Config.energyOf s.free, { s with free := s.free + 1 })

/-- The DRAM bytes that a change of the home slices moves: a line filled is read, a line that turns dirty will be written
back (R151; log 113). -/
def dramBytes (m m' : Memory) : Nat :=
  64 * (m'.slice.countP (fun e => match m.entry e.line with
      | some x => x.key != e.key
      | none => true) +
    m'.slice.countP (fun e => e.dirty && !(match m.entry e.line with
      | some x => x.dirty
      | none => false)))

/-- Charge the DRAM traffic of a step to the stage on whose behalf it was (R151). -/
def chargeDram (old : Memory) (who : Option (Nat × Nat)) (s : State) : State :=
  match who, dramBytes old s.mem with
  | none, _ => s
  | some _, 0 => s
  | some p, n + 1 => addAll s p.1 p.2 (n + 1) 0

/-- A placed stage whose energy meter is due for its update. -/
def meterDue (s : State) (n : Node) : Bool :=
  n.kind == 3 && n.placed && !n.complete && decide (n.metered + 4096 ≤ s.time.cycle)

/-! ### Governors (R150) -/

/-- A gang of a stage that may be marked for another one. -/
def markable (s : State) (donor recv : Node) (gd gr : Stage) (rn : Nat) (e : Nat × Gang) : Bool :=
  decide (gd.mininst < donor.running) && decide (recv.running < gr.maxinst) && decide (gr.gang ≤ gd.gang) &&
    decide (e.2.startTick + 50000 ≤ s.time.tick) && e.2.marked.isNone && e.2.node != rn && gd.part == gr.part &&
    (gd.pimage == gr.pimage || e.2.members.all (fun m => coreLoad s m.1 ≤ 1))

/-- Mark one gang of stage `d` of a launch for stage `r`. -/
def markGang (s : State) (key lid d r : Nat) : Option State :=
  match s.node lid d, s.node lid r with
  | some dn, some rn =>
    match dn.stage, rn.stage with
    | some gd, some gr =>
      match s.disp.gangs.find? (fun e => e.2.launch == lid && e.2.node == d && markable s dn rn gd gr r e) with
      | some e => some (s.modDisp (fun x => { x with
          gangs := AMap.set x.gangs e.1 { e.2 with marked := some r }
          rings := x.rings.map (fun q => (q.1, if q.1 = key then { q.2 with mark := some e.1, above := 0, below := 0 } else q.2)) }))
      | none => none
    | _, _ => none
  | _, _ => none

/-- The stages that produce into and consume from a ring, as charter indices. -/
def ringEnds (s : State) (lid a : Nat) : Option (Nat × Nat) :=
  match AMap.get s.disp.launches lid with
  | none => none
  | some l =>
    match l.nodes.find? (fun e => (stageRings e.2).2 == a), l.nodes.find? (fun e => (stageRings e.2).1 == a) with
    | some p, some c => some (p.1, c.1)
    | _, _ => none

/-- One sample of one ring. -/
def sampleRing (s : State) (e : Nat × Ring) : State :=
  match ringEnds s e.2.launch (e.1 % 2 ^ 64) with
  | none => s
  | some (p, c) =>
    let occ := idx32 e.2.post e.2.take
    let above := if e.2.high < occ then e.2.above + 1 else 0
    let below := if occ < e.2.low then e.2.below + 1 else 0
    let s1 := setRing s e.1 { e.2 with above := above, below := below }
    if e.2.mark.isSome then s1
    else if 3 ≤ above then (markGang s1 e.1 e.2.launch p c).getD s1
    else if 3 ≤ below then (markGang s1 e.1 e.2.launch c p).getD s1
    else s1

def sampleCluster (s : State) (cl : Nat) : State :=
  let rs := s.disp.rings.filter (fun e => e.2.holder == some cl)
  (rs.foldl sampleRing s).modCluster cl (fun x => { x with sampleAt := s.time.cycle + 4096 })

/-! ### Completion (R443, R444) -/

/-- A charter has nothing left to run and its record may be written. -/
def mayComplete (s : State) (lid i : Nat) : Bool :=
  match AMap.get s.disp.launches lid with
  | none => false
  | some l =>
    match AMap.get l.nodes i with
    | none => false
    | some x =>
      !x.complete &&
        x.children.all (fun j => match AMap.get l.nodes j with
          | some k => k.complete
          | none => true) &&
        s.disp.launches.all (fun e => e.2.parent != some (lid, i) || e.2.done) &&
        (x.kind != 3 || (x.running == 0 && (x.ending || (x.placed && !wantsStart s l.space x && (match x.stage with
          | some g => decide (g.mininst ≤ x.started)
          | none => true)))))

/-- The completion record, 1,024 bits (25 Table 2). -/
def recordBits (s : State) (l : Launch) (i : Nat) (x : Node) (status cseq : Nat) : Nat :=
  let late := s.time.tick - x.deadline
  flagAt (late != 0) 285 + flagAt s.mgmt.health.replace 286 + flagAt x.health 287 +
    (if status = 2 then x.code % 256 else 0) * 2 ^ 288 + status * 2 ^ 296 + l.space * 2 ^ 304 + l.seq * 2 ^ 320 +
    cseq % 2 ^ 32 * 2 ^ 352 + (match x.parent with
      | some p => p
      | none => 0xFFFF) * 2 ^ 384 + i * 2 ^ 400 + x.tag * 2 ^ 416 + x.addr * 2 ^ 448 + x.deadline % 2 ^ 64 * 2 ^ 512 +
    late % 2 ^ 64 * 2 ^ 576 + x.firstStart % 2 ^ 64 * 2 ^ 640 + s.time.tick % 2 ^ 64 * 2 ^ 704 +
    min x.usedEnergy (2 ^ 64 - 1) * 2 ^ 768 + min x.usedDram (2 ^ 64 - 1) * 2 ^ 832 + (x.dlCount - 64) % 2 ^ 32 * 2 ^ 928 +
    (if x.kind = 3 then x.dlRing % 2 ^ 64 else 0) * 2 ^ 960

/-- Another stage for which a ring's governor holds it still runs. -/
def governedElse (s : State) (lid a : Nat) (x : Node) : Bool :=
  match AMap.get s.disp.launches lid with
  | some l => l.nodes.any (fun e => e.2.addr != x.addr && !e.2.complete && e.2.placed && (governed s lid e.2).contains a)
  | none => false

/-- The rings of a completing stage are written back; those that its governor holds go to the dispatcher (R37, R150). -/
def closeRings (s : State) (lid : Nat) (x : Node) (sp : Nat) : State :=
  let rs := stageRings x
  [rs.1, rs.2].foldl (fun s a =>
    match (if a = 0 then none else AMap.get s.disp.rings (ringKey sp a)) with
    | none => s
    | some r =>
      if r.launch ≠ lid then s
      else
        let s1 := ringBack s a r
        if (governed s lid x).contains a && !governedElse s lid a x then
          setRing s1 (ringKey sp a) { r with holder := none, above := 0, below := 0 }
        else s1) s

/-- Every ring of a launch is written back. -/
def backRings (s : State) (lid : Nat) : State :=
  (s.disp.rings.filter (fun e => e.2.launch == lid)).foldl (fun s e => ringBack s (e.1 % 2 ^ 64) e.2) s

/-- The `issued` word of a stage's tile space is written back (R38). -/
def tileBack (s : State) (sp : Nat) (x : Node) : State :=
  match x.tile with
  | some t => (writeSpace s dispWriter sp (t.addr + 8) (toBytes 6 t.issued)).2
  | none => s

/-- Keep the outcome of a launch whose root's record is written (R139). -/
def keepOutcome (s : State) (sp seq : Nat) (sick : Bool) : State :=
  s.modDisp (fun d => { d with outcomes := AMap.set d.outcomes sp ((AMap.getD d.outcomes sp []).map (fun e =>
    if e.1 = seq then (seq, some sick) else e)) })

/-- Write the record of charter i: clusters, rings and tile space are given back, the record is stored. -/
def writeRecord (s : State) (lid i : Nat) (l : Launch) (x : Node) : State :=
  let status := if x.ending then x.status else if x.again then 3 else 0
  let s0 := if i = 0 then backRings s lid else s
  let s1 := if x.kind = 3 then releaseStage (closeRings s0 lid x l.space) lid i else s0
  let s2 := tileBack s1 l.space x
  let ar := AMap.getD s2.mgmt.areas l.space Area.reset
  let at' := ar.cbase.toNat + 128 * (ar.ccount % 2 ^ ar.clog)
  let s3 := (writeSpace s2 dispWriter l.space at' (toBytes 128 (recordBits s2 l i x status ar.ccount))).2
  let s4 := s3.modMgmt (fun g => { g with areas := AMap.set g.areas l.space { ar with ccount := (ar.ccount + 1) % 2 ^ 32 } })
  let s5 := s4.modNode lid i (fun y => { y with complete := true, status := status })
  if i = 0 then
    keepOutcome (s5.modDisp (fun d => { d with
      launches := d.launches.map (fun e => (e.1, if e.1 = lid then { e.2 with record := at' } else e.2))
      reports := d.reports ++ [lid] })) l.space l.seq (x.health || status == 2 || status == 3)
  else s5

/-- After the root's record has performed, message 0x81 goes out and the launch is complete, with its rings. -/
def reportLaunch (s : State) (lid : Nat) (l : Launch) : State :=
  let s1 := s.modDisp (fun d => { d with
    launches := AMap.set d.launches lid { l with done := true }
    reports := d.reports.erase lid
    rings := d.rings.filter (fun e => e.2.launch != lid) })
  sendMsg s1 0x81 16 (l.seq + l.space * 2 ^ 32 + l.record % 2 ^ 64 * 2 ^ 64)

/-- The launch is the next one to be reported: reports go in the order of the root records (R153). -/
def reportDue (s : State) (lid : Nat) : Bool := s.disp.reports.head? == some lid && !writerPending s dispWriter

def completeCharter (s : State) (lid i : Nat) : State :=
  match AMap.get s.disp.launches lid with
  | none => s
  | some l =>
    if i = 0 ∧ reportDue s lid then reportLaunch s lid l
    else
      match AMap.get l.nodes i with
      | some x => if mayComplete s lid i then writeRecord s lid i l x else s
      | none => s

/-! ### Deadlines (R143) -/

/-- The reference time has passed a charter's deadline before its record. -/
def missDue (s : State) (x : Node) : Bool := decide (x.deadline < s.time.tick) && !x.complete && !x.missApplied

/-- An ancestor in the tree whose own deadline has passed governs instead. -/
def missAbove (s : State) (l : Launch) : Nat → Nat → Bool
  | 0, _ => false
  | f + 1, i =>
    match AMap.get l.nodes i with
    | some x => (match x.parent with
      | some p => (match AMap.get l.nodes p with
        | some y => decide (y.deadline < s.time.tick) || missAbove s l f p
        | none => false)
      | none => false)
    | none => false

def applyMiss (s : State) (lid i : Nat) : State :=
  match AMap.get s.disp.launches lid with
  | none => s
  | some l =>
    match AMap.get l.nodes i with
    | none => s
    | some x =>
      if !missDue s x then s
      else
        let s1 := s.modNode lid i (fun y => { y with missApplied := true })
        if missAbove s l 8 i then s1
        else if x.missed = 1 then abortSubtree s1 lid i
        else if x.missed = 2 then
          sendMsg s1 0x83 24 (l.seq + l.space * 2 ^ 32 + x.addr * 2 ^ 64 + s.time.tick % 2 ^ 64 * 2 ^ 128)
        else s1

/-! ### Submissions (R137, R138, R154, R161) -/

/-- The outcome word of a window slot. -/
def outcomeWord (seq status reason off : Nat) : Word :=
  BitVec.ofNat 64 (seq + status * 2 ^ 32 + reason % 256 * 2 ^ 40 + off % 2 ^ 16 * 2 ^ 48)

/-- The result of `launch` (R154). -/
def launchWord : Option LRefuse → Nat
  | some f => f.reason % 256 + f.off % 2 ^ 16 * 2 ^ 16
  | none => 0

/-- Tell the submitter what became of its packet. -/
def answerSubmit (s : State) (q : Submit) (r : Option LRefuse) : State :=
  let seq := pkSeq q.packet
  let s1 := match q.thread with
    | some (c, k) => s.modThread c k (fun t => { t with launchRes := t.launchRes.map (fun e => (e.1, some (launchWord r))) })
    | none => s
  match q.slot with
  | none => s1
  | some i =>
    let w := match r with
      | some f => outcomeWord seq 2 f.reason f.off
      | none => outcomeWord seq 1 0 0
    let slot := { AMap.getD s1.disp.window i WinSlot.reset with outcome := w, pending := false }
    let s2 := s1.modDisp (fun d => { d with window := AMap.set d.window i slot })
    match r with
    | some f => sendMsg s2 0x82 17 (seq + q.space * 2 ^ 32 + f.reason % 256 * 2 ^ 48 + f.off % 2 ^ 16 * 2 ^ 56 + f.addr % 2 ^ 64 * 2 ^ 72)
    | none => s2

/-- Take an accepted launch into the dispatcher. -/
def enterLaunch (s : State) (a : Accepted) : State :=
  let sp := a.launch.space
  let seq := a.launch.seq
  let kept := AMap.getD s.disp.outcomes sp [] ++ [(seq, none)]
  { a.s with
    time := { a.s.time with launchAccepted := true }
    disp := { a.s.disp with
      launches := AMap.set a.s.disp.launches s.disp.nextLaunch a.launch
      nextLaunch := s.disp.nextLaunch + 1
      outcomes := AMap.set a.s.disp.outcomes sp (kept.drop (kept.length - 4096))
      lastSeq := AMap.set a.s.disp.lastSeq sp seq
      rings := a.rings.foldl (fun m e => AMap.set m e.1 e.2) a.s.disp.rings } }

/-- The stage charter of a submitting thread. -/
def submitParent (s : State) (q : Submit) : Option (Nat × Nat) :=
  q.thread.map (fun p => ((s.thread p.1 p.2).place.launch, (s.thread p.1 p.2).place.node))

/-- Check the oldest submitted packet and accept or refuse it. -/
def acceptNext (s : State) : State :=
  match s.disp.submits with
  | [] => s
  | q :: qs =>
    let s0 := s.modDisp (fun d => { d with submits := qs })
    match checkLaunch s0 q.space q.packet (submitParent s0 q) with
    | .ok a => answerSubmit (enterLaunch s0 a) q none
    | .error f => answerSubmit s0 q (some f)

/-- A write of 8 bytes to a slot of the launch window; offset 56 latches it. -/
def latchWrite (s : State) (i off : Nat) (v : Word) : State :=
  let w := AMap.getD s.disp.window i WinSlot.reset
  let w1 := { w with bytes := (byteMap off (toBytes 8 v.toNat)).foldl (fun m e => AMap.set m e.1 e.2) w.bytes }
  let sp := AMap.getD s.disp.lwspace i 0
  if off = 56 ∧ sp.testBit 16 ∧ !w.pending then
    let pkt := ofBytes ((List.range 64).map (fun j => AMap.getD w1.bytes j 0))
    s.modDisp (fun d => { d with
      window := AMap.set d.window i { w1 with outcome := outcomeWord (pkSeq pkt) 0 0 0, pending := true }
      submits := d.submits ++ [{ slot := some i, thread := none, space := sp % 2 ^ 16, packet := pkt }] })
  else s.modDisp (fun d => { d with window := AMap.set d.window i w1 })

/-- Launches of which a strict dependence completed unhealthy. -/
def struckLaunch (s : State) : Option Nat :=
  (s.disp.launches.find? (fun e => !e.2.done && !e.2.aborted && struck s e.2)).map Prod.fst

/-! ### Ring commands of outside parties (R158, R159) -/

/-- The outside agents whose writes a post orders: system cores and the host. -/
def outsideAgent (w : Nat) : Bool := decide (16384 ≤ w) && decide (w < 16400) || decide (w = 16410)

/-- Show the counters and an outcome. -/
def ringShow (s : State) (r : Option Ring) (outcome : Nat) : State :=
  s.modMgmt (fun g => match r with
    | some r => ({ g with rcres := outcome * 2, rcstat0 := BitVec.ofNat 64 (r.post + r.claim * 2 ^ 32),
                          rcstat1 := BitVec.ofNat 64 (r.free + r.take * 2 ^ 32) } : Mgmt)
    | none => ({ g with rcres := outcome * 2 } : Mgmt))

/-- A command on the named ring; the dispatcher writes back at once a ring that no stage names any more (log 115). An
input command needs a ring no stage produces into, an output command one that no stage consumes from. -/
def ringCmd (s : State) (input : Bool) (act : Ring → Option Ring) : State :=
  let s0 := settleWriters outsideAgent (packetCount s) s
  let a := s0.mgmt.rcring.toNat
  let key := ringKey s0.mgmt.rcspace a
  match AMap.get s0.disp.rings key with
  | none => ringShow s0 none 2
  | some r =>
    let ok := if input then (producers s0 r.launch a).isEmpty && !(consumers s0 r.launch a).isEmpty
      else (consumers s0 r.launch a).isEmpty && !(producers s0 r.launch a).isEmpty
    if !ok then ringShow s0 (some r) 2
    else
      match act r with
      | some r1 =>
        let s1 := setRing s0 key r1
        ringShow (if (ringNames s1 (key, r1)).isEmpty then ringBack s1 a r1 else s1) (some r1) 0
      | none => ringShow s0 (some r) 1

def ringPostN (n : Nat) (r : Ring) : Option Ring :=
  if n = 0 ∨ 32768 < n ∨ ringSlots r < idx32 r.claim r.free + n then none
  else some { r with st := setStates r r.claim n 2, claim := (r.claim + n) % 2 ^ 32, post := (r.post + n) % 2 ^ 32 }

def ringRetireN (n : Nat) (r : Ring) : Option Ring :=
  if n = 0 ∨ 32768 < n ∨ idx32 r.post r.take < n then none
  else some { r with st := setStates r r.take n 0, take := (r.take + n) % 2 ^ 32, free := (r.free + n) % 2 ^ 32 }

def ringSelect (s : State) (ring : Word) (sp : Nat) : State :=
  let s1 := s.modMgmt (fun g => { g with rcring := ring, rcspace := sp % 2 ^ 16 })
  match AMap.get s1.disp.rings (ringKey (sp % 2 ^ 16) ring.toNat) with
  | some r => s1.modMgmt (fun g => { g with rcstat0 := BitVec.ofNat 64 (r.post + r.claim * 2 ^ 32),
                                            rcstat1 := BitVec.ofNat 64 (r.free + r.take * 2 ^ 32) })
  | none => s1

/-! ### The events -/

def execLaunchLatch (slot off : Nat) (value : Word) (s : State) : Host.Outcome State Fault Refusal :=
  onUnit (decide (slot < 16)) (if off % 8 = 0 ∧ off < 64 then latchWrite s slot off value else s)

def execLaunchAccept (s : State) : Host.Outcome State Fault Refusal := .next (acceptNext s)

def execInstanceStart (s : State) : Host.Outcome State Fault Refusal :=
  .next (match dueStart s with
    | some p => (startNext s p.1 p.2).getD s
    | none => s)

def execNexttileAnswer (s : State) : Host.Outcome State Fault Refusal := .next (answerTile s)

def execGovernorSample (cluster : Nat) (s : State) : Host.Outcome State Fault Refusal :=
  onUnit (isCluster cluster) (sampleCluster s cluster)

/-- An update of a stage's energy meter and of those above it: it adds the calibrated energy of what was counted (log 9),
and the DRAM bytes of traffic that no step shows (log 99). -/
def execMeterUpdate (launch idx dram : Nat) (s : State) : Host.Outcome State Fault Refusal :=
  .next ((addAll s.drawEnergy.2 launch idx dram s.drawEnergy.1).modNode launch idx (fun x => { x with metered := s.time.cycle }))

def execDeadlineMiss (launch idx : Nat) (s : State) : Host.Outcome State Fault Refusal := .next (applyMiss s launch idx)

def execCharterComplete (launch idx : Nat) (s : State) : Host.Outcome State Fault Refusal :=
  .next (completeCharter s launch idx)

def execRingCmdPost (n : Nat) (s : State) : Host.Outcome State Fault Refusal := .next (ringCmd s true (ringPostN n))

def execRingCmdRetire (n : Nat) (s : State) : Host.Outcome State Fault Refusal := .next (ringCmd s false (ringRetireN n))

def execRingCmdClose (s : State) : Host.Outcome State Fault Refusal :=
  .next (ringCmd s true (fun r => some { r with closed := true }))

def execRingCmdSelect (ring : Word) (space : Nat) (s : State) : Host.Outcome State Fault Refusal :=
  .next (ringSelect s ring space)

end Sys2Proof.Machine
end

