-- ==== Sys2Proof/Machine/Work.lean ====
section
/-! DEFINITION. Launching, ending an instance, tiles and rings from a thread: opcodes 0x60 to 0x67 (R154-R157). -/

namespace Sys2Proof.Machine

/-! ### launch (R154) -/

/-- Inside an open tolerant region a conflict is reported before the sub-cause 2 trap. -/
def tolerantClose (s : State) (k : Eff) : Eff :=
  if s.me.tol.isOpen then
    match s.me.rgn.conflict with
    | some x => .trap s (conflictTrap x)
    | none =>
      match findConflict s s.cur.1 s.cur.2 with
      | some x => .trap (s.modMe (fun t => { t with rgn := { t.rgn with conflict := some x } })) (conflictTrap x)
      | none => tolTrap s 2 0
  else k

/-- Submit a packet and park until the dispatcher has judged it. -/
def submitPacket (s : State) (pkt : Nat) : State :=
  (s.modMe (fun t => { t with launchRes := some (t.pc, none) })).modDisp (fun d =>
    { d with submits := d.submits ++ [{ slot := none, thread := some s.cur, space := s.me.place.spaceid, packet := pkt }] })

def effLaunch (a : Fin 64) (b : Mem) : State → Eff :=
  oncePerGang a (fun s =>
    let m := memAddr s b 8
    match s.me.launchRes with
    | some (pc, r) =>
      if pc = s.me.pc then
        match r with
        | none => .park s .launch
        | some v => .once ((s.modMe (fun t => { t with launchRes := none })).wrG a.val (BitVec.ofNat 64 v)) (BitVec.ofNat 64 v)
      else begin' s m
    | none => begin' s m)
where
  /-- The first part: the packet is read, the region closed, the earlier writes waited for. -/
  begin' (s : State) (m : Word) : Eff :=
    aligned s m 64 (readAny s m 64 4 false true (fun s1 bs => tolerantClose s1 (
      if sidingIdle s1 s1.cur.1 s1.cur.2 = false then .wait s1
      else closeRelease s1 .mod (fun s2 => .park (submitPacket s2 (ofBytes bs)) .launch))))

/-! ### done (R155) -/

/-- Every job that a member issued has a final status. -/
def jobsFinal (s : State) (m : Nat × Nat) : Bool :=
  (s.thread m.1 m.2).jobs.all (fun j => decide (fld (renamedWord s m.1 m.2 j.1 j.2) 32 3 ≠ 0))

/-- The gang may end: its lockstep followers have come to their own `done`, its jobs are final and its tile queries
answered. -/
def gangQuiet (s : State) (gid : Nat) (self : Nat × Nat) : Bool :=
  jobsFinal s self && (s.thread self.1 self.2).tilesOut.isEmpty &&
    (gangMembers s gid).all (fun m =>
      let t := s.thread m.1 m.2
      jobsFinal s m && t.tilesOut.isEmpty && (t.place.shed || m == self || decide (t.status = .parked .doneWait)))

def effDoneI (s : State) : Eff :=
  if s.me.tol.isOpen then tolTrap s 6 0
  else if s.me.place.shed then .park s .doneWait
  else if sidingIdle s s.cur.1 s.cur.2 = false then .wait s
  else closeRelease s .mod (fun s1 =>
    if s1.me.follower then .park s1 .doneWait
    else if gangQuiet s1 s1.me.place.gang s1.cur then .wait (endInstance s1 s1.cur.1 s1.cur.2)
    else .park s1 .doneWait)

/-! ### nexttile (R156) -/

/-- Empty the tags of the answer in every member's pool. -/
def emptyAnswer (s : State) (off : Nat) : State :=
  (if gangMembers s s.me.place.gang = [] then [s.cur] else gangMembers s s.me.place.gang).foldl
    (fun s m => setTagsWake s m.1 off 8 false) s

def effNexttile (a : GSrc) (s : State) : Eff :=
  notTolerant s (oncePerGang 0 (fun s =>
    let o := readGSrc s a
    let w := winAddr o.toNat
    aligned s w 8 (
      if !inScratch s.myCore.part o.toNat 8 then .failAt s 0x0A w 0
      else if 4 ≤ s.me.tilesOut.length then .park s .tiles
      else
        let s1 := (emptyAnswer s o.toNat).modMe (fun t => { t with tilesOut := t.tilesOut ++ [o.toNat] })
        .once (s1.modDisp (fun d => { d with queries := d.queries ++ [(s1.cur.1, s1.cur.2, o.toNat)] })) 0)) s)

/-! ### Rings (R157) -/

/-- The ring of the stage on one side (true: output), with its key. -/
def myRing (s : State) (out : Bool) : Option (Nat × Ring) :=
  match stageNode s s.me with
  | none => none
  | some n =>
    let a := if out then (stageRings n).2 else (stageRings n).1
    if a = 0 then none
    else (AMap.get s.disp.rings (ringKey s.me.place.spaceid a)).map (fun r => (ringKey s.me.place.spaceid a, r))

/-- The ring that `sel` names, for an instruction of the side `out`: the selected ring must be the stage's own on that
side, since R36 lets only the producing stage claim and only the consuming stage take (log 45). -/
def sideRing (s : State) (sel out : Bool) : Option (Nat × Ring) :=
  match myRing s sel, myRing s out with
  | some p, some q => if p.1 = q.1 then some p else none
  | _, _ => none

/-- Write one result for the whole gang. -/
def gangResult (s : State) (a : Fin 64) (v : Word) : Eff := .once (s.wrG a.val v) v

def ringClaimed (r : Ring) : Word × Ring :=
  let j := r.claim % ringSlots r
  (slotAddr r j, { r with st := AMap.set r.st j 1, claim := (r.claim + 1) % 2 ^ 32 })

def ringPosted (r : Ring) (j : Nat) : Ring :=
  let r1 := { r with st := AMap.set r.st j 2 }
  { r1 with post := advanceOver r1 2 r1.claim (ringSlots r1) r1.post }

def ringTaken (r : Ring) : Word × Ring :=
  let j := r.take % ringSlots r
  (slotAddr r j, { r with st := AMap.set r.st j 3, take := (r.take + 1) % 2 ^ 32 })

def ringFreed (r : Ring) (j : Nat) : Ring :=
  let r1 := { r with st := AMap.set r.st j 0 }
  { r1 with free := advanceOver r1 0 r1.take (ringSlots r1) r1.free }

/-- Every member drops its near-cache lines: the acquire part of `ring.take` (M12). -/
def gangAcquire (s : State) : State :=
  (gangMembers s s.me.place.gang).foldl (fun s m => nearClear s m.1) (nearClear s s.cur.1)

def effRingClaim (u : Bool) (a : Fin 64) (b : Bool) (s : State) : Eff :=
  notTolerant s (oncePerGang a (fun s =>
    match sideRing s b true with
    | none => gangResult s a (BitVec.ofInt 64 (-3))
    | some (key, r) =>
      if idx32 r.claim r.free = ringSlots r then
        (if u then gangResult s a (BitVec.ofInt 64 (-1)) else .park s .ring)
      else gangResult (setRing s key (ringClaimed r).2) a (ringClaimed r).1) s)

def effRingPost (a b : Fin 64) (s : State) : Eff :=
  notTolerant s (oncePerGang a (fun s =>
    closeRelease s .mod (fun s1 =>
      match myRing s1 true with
      | none => gangResult s1 a 1
      | some (key, r) =>
        match slotOf r (s.rdG b.val) with
        | none => gangResult s1 a 1
        | some j =>
          if AMap.getD r.st j 0 = 1 then gangResult (setRing s1 key (ringPosted r j)) a 0 else gangResult s1 a 1)) s)

def effRingTake (u : Bool) (a : Fin 64) (b : Bool) (s : State) : Eff :=
  notTolerant s (oncePerGang a (fun s =>
    match sideRing s b false with
    | none => gangResult s a (BitVec.ofInt 64 (-3))
    | some (key, r) =>
      if r.post = r.take then
        (if producerDone s r (key % 2 ^ 64) then gangResult s a (BitVec.ofInt 64 (-2))
         else if u then gangResult s a (BitVec.ofInt 64 (-1)) else .park s .ring)
      else gangResult (gangAcquire (setRing s key (ringTaken r).2)) a (ringTaken r).1) s)

def effRingFree (a b : Fin 64) (s : State) : Eff :=
  notTolerant s (oncePerGang a (fun s =>
    match myRing s false with
    | none => gangResult s a 1
    | some (key, r) =>
      match slotOf r (s.rdG b.val) with
      | none => gangResult s a 1
      | some j => if AMap.getD r.st j 0 = 3 then gangResult (setRing s key (ringFreed r j)) a 0 else gangResult s a 1) s)

def effRingStat (a : Fin 64) (b : Bool) : State → Eff :=
  oncePerGang a (fun s =>
    match myRing s b with
    | none => gangResult s a (BitVec.ofInt 64 (-3))
    | some (_, r) => gangResult s a (BitVec.ofNat 64 (idx32 r.claim r.free * 2 ^ 32 + idx32 r.post r.take)))

def execLaunch (h : Hdr) (a : Fin 64) (b : Mem) (s : State) := run h (effLaunch a b) s
def execDoneI (h : Hdr) (s : State) := run h effDoneI s
def execNexttile (h : Hdr) (a : GSrc) (s : State) := run h (effNexttile a) s
def execRingClaim (h : Hdr) (u : Bool) (a : Fin 64) (b : Bool) (s : State) := run h (effRingClaim u a b) s
def execRingPost (h : Hdr) (a b : Fin 64) (s : State) := run h (effRingPost a b) s
def execRingTake (h : Hdr) (u : Bool) (a : Fin 64) (b : Bool) (s : State) := run h (effRingTake u a b) s
def execRingFree (h : Hdr) (a b : Fin 64) (s : State) := run h (effRingFree a b) s
def execRingStat (h : Hdr) (a : Fin 64) (b : Bool) (s : State) := run h (effRingStat a b) s

end Sys2Proof.Machine
end

