-- ==== Sys2Proof/Machine/Engine.lean ====
section
/-! DEFINITION. What engines and homes share: actions that may stop, reads and writes by an engine, and shutters
(M14-M17, R298-R300). -/

namespace Sys2Proof.Machine

/-! ### Actions that may stop -/

/-- Why a unit of work does not complete: a walk with its address, kind and status, an error of its chapter, poison,
or something it must wait for. -/
inductive Stop where
  | walk (va : Nat) (kind : WalkKind) (st : Nat)
  | code (status code : Nat)
  | poison
  | again
  deriving DecidableEq, Repr

/-- An action of an engine or a home. One that stops changes nothing. -/
abbrev Act (α : Type) := StateT State (Except Stop) α

def stop {α : Type} (e : Stop) : Act α := fun _ => .error e

def modState (f : State → State) : Act Unit := fun s => .ok ((), f s)

/-- A translation for an engine or the content store. -/
def actTrans (cl sp : Nat) (cls : Cls) (kind : WalkKind) (va : Nat) : Act Trans := fun s =>
  match xlateCluster s cl sp false cls kind va with
  | ((0, tr), s1) => if dieHeld s1 (lineDie tr.line) then .error .again else .ok (tr, s1)
  | ((st, _), _) => .error (.walk va kind st)

/-- Bytes within one line, read at the home. -/
def actRead (cl sp : Nat) (cls : Cls) (va n : Nat) (desc : Bool) : Act (List Byte) := do
  let tr ← actTrans cl sp cls .read va
  let s ← get
  if desc && !tr.described then stop (.code 2 2)
  else if s.mem.poisoned (tr.line * 64 + tr.off) n then stop .poison
  else pure (s.mem.lineBytes tr.line tr.key tr.off n)

/-- Any number of bytes, a line at a time (by fuel). -/
def actReadN (cl sp : Nat) (cls : Cls) : Nat → Nat → Nat → Act (List Byte)
  | 0, _, _ => pure []
  | f + 1, va, n =>
    if n = 0 then pure []
    else do
      let k := min n (64 - va % 64)
      let a ← actRead cl sp cls va k false
      let b ← actReadN cl sp cls f (va + k) (n - k)
      pure (a ++ b)

/-- Bytes of one line written at the home at once. -/
def actWriteHome (cl sp : Nat) (cls : Cls) (va : Nat) (bs : List Byte) : Act Unit := do
  let tr ← actTrans cl sp cls .write va
  modState (fun s => homeStore s tr.line tr.key tr.off bs)

/-! ### Jobs as engines see them -/

/-- The queue (0 matrix, 1 copy) and number of a job, its cluster, issuing core and space. -/
structure JobRef where
  q : Nat
  id : Nat
  cl : Nat
  core : Nat
  space : Nat
  deriving DecidableEq, Repr

/-- A closed shutter of another job over [lo, hi), pool or global (R299). -/
def foreignShut (x : Core) (j : JobRef) (glob : Bool) (lo hi : Nat) : Bool :=
  (AMap.vals x.shutters).any (fun h => h.closed && h.global == glob && decide (h.lo < hi) && decide (lo < h.hi) &&
    !(h.queue == j.q && h.id == j.id))

/-- Pool bytes read by an engine (M15). -/
def engPoolRead (j : JobRef) (tc o n : Nat) : Act (List Byte) := do
  let s ← get
  if foreignShut (s.core tc) j false o (o + n) then stop .again
  else if (s.core tc).poisoned o n then stop .poison
  else pure ((s.core tc).bytes o n)

/-- Memory bytes read by an engine (M15), under the issuing core's global shutters. -/
def engRead (j : JobRef) (va n : Nat) (desc : Bool) : Act (List Byte) := do
  let s ← get
  if foreignShut (s.core j.core) j true va (va + n) then stop .again
  else actRead j.cl j.space .engine va n desc

/-- The same across lines (by fuel). -/
def engReadN (j : JobRef) : Nat → Nat → Nat → Act (List Byte)
  | 0, _, _ => pure []
  | f + 1, va, n =>
    if n = 0 then pure []
    else do
      let k := min n (64 - va % 64)
      let a ← engRead j va k false
      let b ← engReadN j f (va + k) (n - k)
      pure (a ++ b)

/-- Masked pool bytes; a codeword that is wholly replaced loses its poison (R282). -/
def Core.putMask (x : Core) (bs : AMap Byte) : Core :=
  let y := bs.foldl (fun x e => { x with pool := Cells.put x.pool e.1 e.2 }) x
  { y with poolPoison := y.poolPoison.filter (fun w =>
      !((List.range 8).all (fun i => (AMap.get bs (8 * w + i)).isSome))) }

/-- Pool bytes written by an engine (M16 as M4). -/
def engPoolWrite (j : JobRef) (tc : Nat) (bs : AMap Byte) : Act Unit := do
  let s ← get
  if bs.any (fun e => foreignShut (s.core tc) j false e.1 (e.1 + 1)) then stop .again
  else modState (fun s => s.modCore tc (fun x => x.putMask bs))

/-- The bytes of a map that lie in one line, by offset in it. -/
def lineBytesOf (bs : AMap Byte) (l : Nat) : AMap Byte :=
  (bs.filter (fun e => e.1 / 64 == l)).map (fun e => (e.1 % 64, e.2))

/-- Memory bytes written by an engine (M16): one unversioned packet a line. -/
def engWrite (j : JobRef) (bs : AMap Byte) : Act Unit := do
  let s ← get
  if bs.any (fun e => foreignShut (s.core j.core) j true e.1 (e.1 + 1)) then stop .again
  else
    ((AMap.keys bs).foldl (fun l a => insertNat (a / 64) l) []).forM (fun l => do
      let tr ← actTrans j.cl j.space .engine .write (64 * l)
      modState (fun s => engineWrite s j.cl j.q tr.line tr.key (lineBytesOf bs l)))

/-! ### Shutters (R298, R300) -/

/-- The lowest open shutter of a core. -/
def freeShutter (x : Core) : Option Nat :=
  (List.range 16).find? (fun i => match AMap.get x.shutters i with
    | some h => !h.closed
    | none => true)

def openCount (x : Core) : Nat := 16 - ((AMap.vals x.shutters).filter (fun h => h.closed)).length

/-- Close a shutter of a core; its place, when one was open. -/
def closeShutter (s : State) (c : Nat) (h : Shutter) : Option (Nat × Nat) × State :=
  match freeShutter (s.core c) with
  | some i => (some (c, i), s.modCore c (fun x => { x with shutters := AMap.set x.shutters i h }))
  | none => (none, s)

def openShutter (s : State) (p : Nat × Nat) : State :=
  s.modCore p.1 (fun x => { x with shutters := AMap.del x.shutters p.2 })

/-- Close a list of shutters; where they stand. -/
def closeAll (s : State) (hs : List (Nat × Shutter)) : List (Nat × Nat) × State :=
  hs.foldl (fun q e => match closeShutter q.2 e.1 e.2 with
    | (some p, s1) => (q.1 ++ [p], s1)
    | (none, s1) => (q.1, s1)) ([], s)

/-- Enough open shutters for a list of new ones. -/
def shuttersFree (s : State) (hs : List (Nat × Shutter)) : Bool :=
  hs.all (fun e => decide ((hs.filter (fun f => f.1 == e.1)).length ≤ openCount (s.core e.1)))

/-- The arrival of a job's final status at its barrier (R403); 0 names none. -/
def jobBarrier (s : State) (c : Nat) (a : Word) : State :=
  if a = 0 then s
  else match windowAt s c a with
    | some p => barrierArrive s p.1 p.2 1
    | none => s

/-- The check of a barrier named in a job record, as one of the instruction's pool ranges (R396). -/
def checkBarrier (s : State) (a : Word) (k : Eff) : Eff :=
  if a = 0 then k
  else aligned s a 8 (match tagTarget s a 8 with
    | .inl t => .trap s t
    | .inr _ => k)

/-- The window address of an offset of a core's pool as core `c` sees it. -/
def addrOf (c tc o : Nat) : Word :=
  if c = tc then winAddr o else BitVec.ofNat 64 (0xFE01 * 2 ^ 48 + posOf tc * 2 ^ 40 + o)

/-- The first pool range that R231 refuses, as a trap. -/
def checkRanges (s : State) (rs : List (Nat × Nat × Nat)) : Option TrapInfo :=
  rs.findSome? (fun r => poolCheck s r.1 s.me.priv (addrOf s.cur.1 r.1 r.2.1) r.2.1 (r.2.2 - r.2.1))

/-- Forget the jobs of a queue whose completion words are no longer readable and that own no shutter. -/
def pruneCopy (next : Nat) (js : AMap CopyJob) : AMap CopyJob :=
  js.filter (fun e => decide (idAge next e.1 ≤ 32) || e.2.status == 0 || !e.2.shutters.isEmpty)

def pruneMx (next : Nat) (js : AMap MatrixJob) : AMap MatrixJob :=
  js.filter (fun e => decide (idAge next e.1 ≤ 16) || e.2.status == 0)

/-- A job of the acting thread has been accepted: the thread remembers it until its final status is seen. -/
def rememberJob (s : State) (q id : Nat) : State :=
  let cl := clusterOf s.cur.1
  s.modMe (fun t => { t with jobs := t.jobs.filter (fun j => !jobFinal s cl j.1 j.2) ++ [(q, id)] })

/-- Part of a record that lies in one line, as a load reads it. -/
def readPart (s : State) (a : Word) (n : Nat) (k : State → Trans → Eff) : Eff :=
  if globalShut s.myCore a.toNat n || vstPending s a.toNat n then .park s .shutter else withTrans s a .read 4 k

/-- A read that crosses a line and lies in host memory on both sides: one answer brings it all. -/
def hostRecord (s : State) (a : Word) (n : Nat) (k : State → List Byte → Eff) : Eff :=
  match answerFor s a 0 with
  | some e => if e.ready then k s e.bytes else .park s .access
  | none => askAnswer s a n 0

/-- Read a record that may cross a line: pool records at once, memory a line at a time, a part in host memory last. -/
def readRecord (s : State) (m : Word) (n : Nat) (k : State → List Byte → Eff) : Eff :=
  let first := min n (64 - m.toNat % 64)
  let m2 := m + BitVec.ofNat 64 first
  if first = n ∨ wfld m 56 8 = 0xFE then readAny s m n 4 false true k
  else readPart s m first (fun s1 tr1 => readPart s1 m2 (n - first) (fun s2 tr2 =>
    if tr1.host && tr2.host then hostRecord s2 m n k
    else if tr1.host then
      globalRead s2 m2 tr2 (n - first) false true (fun s3 b => globalRead s3 m tr1 first false true (fun s4 a => k s4 (a ++ b)))
    else
      globalRead s2 m tr1 first false true (fun s3 a => globalRead s3 m2 tr2 (n - first) false true (fun s4 b => k s4 (a ++ b)))))

end Sys2Proof.Machine
end

