-- ==== Sys2Proof/Machine/Content.lean ====
section
/-! DEFINITION. The content store: names, the directory, references and reclaim, trees, and opcodes 0x7C to 0x82 and
0x84 (R354-R375, R377); `cn.out` stands with the copy unit. -/

namespace Sys2Proof.Machine

/-! ### The store of a space (R355) -/

def Store.on (st : Store) : Bool := st.cfg.testBit 167
def Store.noverify (st : Store) : Bool := st.cfg.testBit 166
def Store.nlog (st : Store) : Nat := fld st.cfg 160 5
def Store.slots (st : Store) : Nat := fld st.cfg 128 32
def Store.sbase (st : Store) : Nat := fld st.cfg 64 64
def Store.tbase (st : Store) : Nat := fld st.cfg 0 64

/-- The enabled store of a space. -/
def storeOf (s : State) (sp : Nat) : Option Store :=
  match AMap.get s.stores sp with
  | some st => if st.on then some st else none
  | none => none

def actStore (sp : Nat) (e : Stop) : Act Store := fun s =>
  match storeOf s sp with
  | some st => .ok (st, s)
  | none => .error e

def modStore (sp : Nat) (f : Store → Store) : Act Unit := modState (fun s => s.setStore sp (f (s.store sp)))

/-! ### Names (R356, R357) -/

def lineName (s : State) (st : Store) (line : List Byte) : Nat :=
  let n := ofBytes ((kmac128 (toBytes 16 (Config.storeKey s.trust.boots st.bootSlot)) line 16).take 12)
  if n = 0 then 1 else n

def nameHome (n : Nat) : Nat := n % 512
def nameBucket (st : Store) (n : Nat) : Nat := n / 512 % 2 ^ st.nlog

/-! ### Buckets and entries (R358, R359) -/

def bucketVa (st : Store) (h i : Nat) : Nat := st.tbase + 64 * (h * 2 ^ st.nlog + i)
def slotVa (st : Store) (i : Nat) : Nat := st.sbase + 64 * i

def readBucket (sp : Nat) (st : Store) (h i : Nat) : Act Nat := do
  let bs ← actRead h sp .content (bucketVa st h i) 64 false
  pure (ofBytes bs)

def writeBucket (sp : Nat) (st : Store) (h i b : Nat) : Act Unit :=
  actWriteHome h sp .content (bucketVa st h i) (toBytes 64 b)

def entryAt (b e : Nat) : Nat := fld b (32 + 160 * e) 160
def eName (x : Nat) : Nat := fld x 64 96
def eSlot (x : Nat) : Nat := fld x 32 32
def eCount (x : Nat) : Nat := fld x 8 24
def eNode (x : Nat) : Bool := x.testBit 2
def eState (x : Nat) : Nat := fld x 0 2
def setEntry (b e x : Nat) : Nat := setFld b (32 + 160 * e) 160 x

/-- Where an entry stands: its home, bucket index, place in the bucket, and the bucket. -/
structure Found where
  home : Nat
  idx : Nat
  e : Nat
  bucket : Nat
  deriving DecidableEq, Repr

def Found.entry (f : Found) : Nat := entryAt f.bucket f.e

/-- Examine up to 8 buckets for a live or reclaiming entry of a name (by fuel). -/
def findFrom (sp : Nat) (st : Store) (n : Nat) : Nat → Nat → Act (Option Found)
  | 0, _ => pure none
  | f + 1, i => do
    let h := nameHome n
    let b ← readBucket sp st h i
    match [0, 1, 2].find? (fun e => (eState (entryAt b e) == 1 || eState (entryAt b e) == 2) && eName (entryAt b e) == n) with
    | some e => pure (some { home := h, idx := i, e := e, bucket := b })
    | none => if b.testBit 0 then findFrom sp st n f ((i + 1) % 2 ^ st.nlog) else pure none

def findEntry (sp : Nat) (st : Store) (n : Nat) : Act (Option Found) :=
  if n = 0 then pure none else findFrom sp st n 8 (nameBucket st n)

/-- A live entry of a name. -/
def findLive (sp : Nat) (st : Store) (n : Nat) : Act (Option Found) := do
  let f ← findEntry sp st n
  match f with
  | some x => if eState x.entry = 1 then pure (some x) else pure none
  | none => pure none

/-- The lowest free slot that a home manages. -/
def freeSlotOf (st : Store) (h : Nat) : Option Nat :=
  ((List.range (st.slots / 512)).map (fun k => h + 512 * k)).find? (fun i => (AMap.get st.used i).isNone)

/-- Buckets to pass over and the place of the first free entry (by fuel). -/
def placeFrom (sp : Nat) (st : Store) (h : Nat) : Nat → Nat → List (Nat × Nat) → Act (Option (List (Nat × Nat) × Found))
  | 0, _, _ => pure none
  | f + 1, i, acc => do
    let b ← readBucket sp st h i
    match [0, 1, 2].find? (fun e => eState (entryAt b e) == 0) with
    | some e => pure (some (acc, { home := h, idx := i, e := e, bucket := b }))
    | none => placeFrom sp st h f ((i + 1) % 2 ^ st.nlog) (acc ++ [(i, b)])

def readSlot (sp : Nat) (st : Store) (h i : Nat) : Act (List Byte) := actRead h sp .content (slotVa st i) 64 false

/-- Allocate an entry with count 1; none when there is no place (R359). The slot is written first (R369). -/
def allocate (sp : Nat) (st : Store) (n : Nat) (line : List Byte) (node : Bool) : Act (Option Nat) := do
  let p ← placeFrom sp st (nameHome n) 8 (nameBucket st n) []
  match p, freeSlotOf st (nameHome n) with
  | some (passed, f), some i => do
    passed.forM (fun q => if q.2.testBit 0 then pure () else writeBucket sp st f.home q.1 (q.2 + 1))
    actWriteHome f.home sp .content (slotVa st i) line
    writeBucket sp st f.home f.idx (setEntry f.bucket f.e (1 + flagAt node 2 + 2 ^ 8 + i * 2 ^ 32 + n * 2 ^ 64))
    modStore sp (fun x => { x with used := AMap.set x.used i n })
    pure (some i)
  | _, _ => pure none

/-! ### Counts (R362, R363) -/

def pinned : Nat := 0xFFFFFF

/-- Change the count of a live entry by one; at zero the entry is reclaiming and queued. -/
def bump (sp : Nat) (st : Store) (f : Found) (up : Bool) : Act Unit :=
  let x := f.entry
  if eCount x = pinned then pure ()
  else if up then writeBucket sp st f.home f.idx (setEntry f.bucket f.e (setFld x 8 24 (eCount x + 1)))
  else if eCount x ≤ 1 then do
    writeBucket sp st f.home f.idx (setEntry f.bucket f.e (setFld (setFld x 8 24 0) 0 2 2))
    modStore sp (fun y => { y with reclaim := AMap.set y.reclaim f.home (AMap.getD y.reclaim f.home [] ++ [eName x]) })
  else writeBucket sp st f.home f.idx (setEntry f.bucket f.e (setFld x 8 24 (eCount x - 1)))

/-- Change the count of a name; false when it has no live entry. -/
def bumpName (sp : Nat) (st : Store) (n : Nat) (up : Bool) : Act Bool := do
  let f ← findLive sp st n
  match f with
  | some x => do
    bump sp st x up
    pure true
  | none => pure false

/-- Send a count change from one home to a name's home (R368). -/
def sendCount (s : State) (src sp n : Nat) (up : Bool) : State :=
  let key := src * 512 + nameHome n
  { s with counts := AMap.set s.counts key (AMap.getD s.counts key [] ++ [{ space := sp, name := n, up := up }]) }

def countUncorrected (s : State) : State :=
  s.modMgmt (fun g => { g with health := { g.health with uncorrected := g.health.uncorrected + 1 } })

/-- The issuer that a home slice is to the walkers when no instruction waits for it (R253). -/
def contentIssuer (h : Nat) : Nat := 33792 + h

/-- The home waits for the service of a walk. -/
def contentWaits (s : State) (h : Nat) : Bool := s.mem.walks.any (fun w => w.2.issuer == contentIssuer h)

/-- What becomes of a home's own work that stops: poison drops it and is counted (R363), a serviced walk asks for service
and the work waits (R253), and one that is declined or not serviced is dropped as poison is (log 112). `s1` is the state
with the work taken off its queue. -/
def contentStop (s s1 : State) (h sp : Nat) : Stop → State
  | .poison => countUncorrected s1
  | .walk va kind st =>
    let key := (contentIssuer h, sp, va)
    if serviced st && !s.net.declined.contains key then
      (if contentWaits s h then s else (askService s (contentIssuer h) sp va kind st).2)
    else countUncorrected { s1 with net := { s1.net with declined := s1.net.declined.filter (fun d => d != key) } }
  | .again => s
  | .code _ _ => s1

/-- The first count message of a channel arrives, unless its home waits. -/
def countArrive (s : State) (src dst : Nat) : State :=
  let key := src * 512 + dst
  match AMap.getD s.counts key [] with
  | [] => s
  | m :: ms =>
    let s1 := { s with counts := if ms.isEmpty then AMap.del s.counts key else AMap.set s.counts key ms }
    match storeOf s m.space with
    | none => s1
    | some st =>
      match bumpName m.space st m.name m.up s1 with
      | .ok (_, s2) => s2
      | .error e => contentStop s s1 dst m.space e

/-- The names of a node line's children. -/
def nodeKids (x : Nat) : List Nat := (List.range (min (fld x 8 8) 4)).map (fun j => fld x (128 + 96 * j) 96)

/-- The next queued entry of a home is reclaimed (R363). -/
def reclaimOne (sp : Nat) (st : Store) (h n : Nat) : Act Unit := do
  let f ← findEntry sp st n
  match f with
  | none => pure ()
  | some x =>
    if eState x.entry ≠ 2 then pure ()
    else do
      let kids ← if eNode x.entry then do
          let l ← readSlot sp st h (eSlot x.entry)
          pure (nodeKids (ofBytes l))
        else pure []
      modState (fun s => kids.foldl (fun s k => sendCount s h sp k false) s)
      writeBucket sp st h x.idx (setEntry x.bucket x.e (setFld x.entry 0 2 0))
      modStore sp (fun y => { y with used := AMap.del y.used (eSlot x.entry) })

def reclaimStep (s : State) (sp h : Nat) : State :=
  match storeOf s sp with
  | none => s
  | some st =>
    match AMap.getD st.reclaim h [] with
    | [] => s
    | n :: ns =>
      let s1 := s.setStore sp { st with reclaim := if ns.isEmpty then AMap.del st.reclaim h else AMap.set st.reclaim h ns }
      match reclaimOne sp st h n s1 with
      | .ok (_, s2) => s2
      | .error e => contentStop s s1 h sp e

/-! ### Trees (R365) -/

/-- Elements that a line counts for in its parent; none for a malformed leaf. -/
def lineCount (x : Nat) : Option Nat :=
  if fld x 0 8 = 0xC0 then some (fld x 64 64)
  else if fld x 0 8 = 0 then some 60
  else (bfmtOf (fld x 0 8)).map BFmt.k

/-- A faulty tree ends a job with status 2 and code 4. -/
def faulty {α : Type} : Act α := stop (.code 2 4)

/-- The line of a live name. -/
def treeLine (sp : Nat) (st : Store) (n : Nat) : Act Nat := do
  let f ← findLive sp st n
  match f with
  | some x => do
    let l ← readSlot sp st x.home (eSlot x.entry)
    pure (ofBytes l)
  | none => faulty

/-- The child that holds element n, with n counted from its start. -/
def pickChild : List (Nat × Nat) → Nat → Option (Nat × Nat)
  | [], _ => none
  | (k, c) :: ks, n => if n < c then some (k, n) else pickChild ks (n - c)

/-- Descend to the leaf that holds element n: its line and n's place in it (fuel: 16 nodes and a leaf). A node that counts
no element has a mismatch at it or below it, since it has a child and every leaf counts some. -/
def treeFind (sp : Nat) (st : Store) : Nat → Nat → Nat → Act (Nat × Nat)
  | 0, _, _ => faulty
  | f + 1, name, n => do
    let x ← treeLine sp st name
    if fld x 0 8 = 0xC0 then do
      let kids ← (nodeKids x).mapM (fun k => do
        let y ← treeLine sp st k
        match lineCount y with
        | some c => pure (k, c)
        | none => faulty)
      if kids.any (fun e => e.2 == 0) || kids.foldl (fun a e => a + e.2) 0 != fld x 64 64 then faulty
      else match pickChild kids n with
        | some (k, m) => treeFind sp st f k m
        | none => faulty
    else match lineCount x with
      | some c => if n < c then pure (x, n) else faulty
      | none => faulty

/-- A job takes a reference on a root (R362). -/
def holdRoot (sp n : Nat) : Act Unit := do
  let st ← actStore sp (.code 2 4)
  let ok ← bumpName sp st n true
  if ok then pure () else faulty

/-- A job gives its reference up. -/
def releaseRoot (s : State) (sp n : Nat) : State :=
  match storeOf s sp with
  | none => s
  | some st => match bumpName sp st n false s with
    | .ok (_, s1) => s1
    | .error _ => countUncorrected s

/-! ### Requests at the home (R367, R372-R375) -/

/-- What a home answers: status, slot and kite. -/
abbrev CnAns := Nat × Nat × Nat

/-- `cn.put` and `cn.node` at the home of the name. -/
def install (sp : Nat) (st : Store) (n : Nat) (line : List Byte) (node : Bool) : Act CnAns := do
  let kids := if node then nodeKids (ofBytes line) else []
  let live ← kids.mapM (fun k => findLive sp st k)
  if live.any Option.isNone then pure (4, 0, 0)
  else do
    let f ← findEntry sp st n
    match f with
    | some x =>
      if eState x.entry = 2 then stop .again
      else do
        let same ← if st.noverify then pure true else do
          let l ← readSlot sp st x.home (eSlot x.entry)
          pure (l == line)
        if same then do
          bump sp st x true
          kids.forM (fun k => do
            let _ ← bumpName sp st k false
            pure ())
          pure (0, eSlot x.entry, 0)
        else do
          modStore sp (fun y => { y with collides := if node then y.collides else y.collides + 1 })
          pure (2, 0, 0)
    | none => do
      let i ← allocate sp st n line node
      match i with
      | some i => pure (1, i, 0)
      | none => pure (3, 0, 0)

/-- The kite's home line, once no write of the thread to it and no unperformed version is on its way; a kite in host
memory waits for the thread's own writes there (log 111). -/
def actKite (sp c k : Nat) (va : Nat) (write : Bool) : Act Trans := do
  let s ← get
  let tr ← actTrans (clusterOf c) sp .compute (if write then .write else .read) va
  let h := s.mem.hline tr.line
  if tr.host then
    (if (List.range 16).any (fun i => (ownHostByte s c k (tr.hostAddr + i)).isSome) then stop .again else pure tr)
  else if !(ownWrites s c k tr.line).isEmpty || (write && tr.checked && decide (h.commit ≠ h.performed)) then stop .again
  else if s.mem.poisoned (tr.line * 64 + tr.off) 16 then stop .poison
  else pure tr

def kiteAt (s : State) (tr : Trans) : Nat :=
  if tr.host then ofBytes (Cells.getN s.mem.host tr.hostAddr 16) else ofBytes (s.mem.lineBytes tr.line tr.key tr.off 16)

/-- The home slice of a kite; for one in host memory the slice of the thread's own cluster (log 111). -/
def kiteHome (s : State) (c : Nat) (tr : Trans) : Nat := if tr.host then clusterOf c else homeSlice s tr.line

/-- A kite is written. -/
def putKite (s : State) (tr : Trans) (bs : List Byte) : State :=
  if tr.host then s.modMem (fun m => { m with host := Cells.putN m.host tr.hostAddr bs })
  else homeStore s tr.line tr.key tr.off bs

/-- `cn.swap` at the kite's home, as one action. -/
def swapKite (sp c k va blk : Nat) : Act CnAns := do
  let tr ← actKite sp c k va true
  let s ← get
  let old := kiteAt s tr
  if old = fld blk 0 128 then do
    modState (fun s => putKite s tr (toBytes 16 (fld blk 128 96 + (fld old 96 32 + 1) % 2 ^ 32 * 2 ^ 96)))
    modState (fun s => if tr.checked && !tr.host then
        let v := s.mem.commit tr.line (wordsOf ((List.range 16).map (fun i => tr.off + i))) (writerOf c k)
        s.modMem (fun _ => v.2.perform tr.line (some v.1))
      else s)
    modState (fun s => if fld old 0 96 = 0 then s else sendCount s (kiteHome s c tr) sp (fld old 0 96) false)
    pure (0, 0, old)
  else pure (6, 0, old)

/-- `cn.root` at the kite's home. -/
def rootKite (sp c k va : Nat) (ref : Bool) : Act CnAns := do
  let tr ← actKite sp c k va false
  let s ← get
  let x := kiteAt s tr
  let r := fld x 0 96
  if ref then do
    modState (fun s => if r = 0 then s else sendCount s (kiteHome s c tr) sp r true)
    pure (if r = 0 then 4 else 0, 0, x)
  else pure (0, 0, x)

/-- A request on one name. -/
def oneName (sp : Nat) (st : Store) (n : Nat) (change : Option Bool) : Act CnAns := do
  let f ← findLive sp st n
  match f with
  | none => pure (4, 0, 0)
  | some x => do
    match change with
    | some up => bump sp st x up
    | none => pure ()
    pure (0, eSlot x.entry, 0)

/-- What a request does at its home. -/
def homeRequest (c k : Nat) (r : CnReq) : Act CnAns := do
  let st ← actStore r.space (.code 0 1)
  match r.kind with
  | .get => oneName r.space st r.name none
  | .inc => oneName r.space st r.name (some true)
  | .dec => oneName r.space st r.name (some false)
  | .put => install r.space st r.name (toBytes 64 r.data) false
  | .node => install r.space st r.name (toBytes 64 r.data) true
  | .swap => swapKite r.space c k r.area r.data
  | .root ref => rootKite r.space c k r.area ref

def setCn (s : State) (c k : Nat) (r : Option CnReq) : State := s.modThread c k (fun t => { t with cn := r })

/-- The home performs a slot's request; one whose tables cannot be translated any more is gathered again. -/
def contentServe (s : State) (c k : Nat) : State :=
  match (s.thread c k).cn with
  | none => s
  | some r =>
    if r.answered then s
    else
      match homeRequest c k r s with
      | .ok (a, s1) => setCn s1 c k (some { r with answered := true, status := a.1, slotIdx := a.2.1, kite := a.2.2 })
      | .error .poison => setCn s c k (some { r with answered := true, status := 16 })
      | .error .again => s
      | .error (.walk _ _ _) => setCn s c k none
      | .error (.code _ _) => setCn s c k none

/-! ### The gathering phase (R367, R371) -/

def cnGate (s : State) (allowed : Bool) (k : Eff) : Eff := if s.me.tol.isOpen && !allowed then tolTrap s 2 0 else k

/-- The window checks and the translation of an area, with nothing read or written. -/
def gather (s : State) (a : Word) (n : Nat) (write : Bool) (k : State → Eff) : Eff :=
  checkWindow s a n write (
    if wfld a 56 8 = 0xFE then k s
    else withTrans s a (if write then .write else .read) 3 (fun s1 _ => k s1))

/-- An area that a later write of n bytes will find room for: any split is made here (R265, R367). -/
def gatherRoom (s : State) (a : Word) (k : State → Eff) : Eff :=
  if wfld a 56 8 = 0xFE then
    (match poolTarget s s.cur.1 s.me.priv a 1 with
     | .inl t => .trap s t
     | .inr (tc, o) => if poolShut (s.core tc) o 16 then .park s .shutter else k s)
  else withTrans s a .write 3 (fun s1 tr =>
    if !tr.host && tr.checked && !s1.me.priv then
      (if (AMap.get s1.me.rgn.held tr.line).isSome || decide (s1.me.rgn.held.length < 64) || s1.me.tol.isOpen then k s1
       else withSplit s1 k)
    else if wqFull s1.myCore then .park s1 .writeQueue else k s1)

/-- Trap 0x10. -/
def cnTrap (s : State) (info : Nat) (a : Word) : Eff := .failAt s 0x10 a info

def withStore (s : State) (k : Store → Eff) : Eff :=
  match storeOf s s.me.place.spaceid with
  | some st => k st
  | none => cnTrap s 1 0

/-- Send a request once its directory lines translate: the thread then waits at rung 6. -/
def sendRequest (s : State) (r : CnReq) : Eff :=
  match homeRequest s.cur.1 s.cur.2 r s with
  | .error (.walk va kind st) => walkStop s (BitVec.ofNat 64 va) kind st 3
  | .error _ => .wait (setCn s s.cur.1 s.cur.2 (some r))
  | .ok _ => .wait (setCn s s.cur.1 s.cur.2 (some r))

/-- The request that the acting thread's instruction has sent. -/
def sentRequest (s : State) : Option CnReq :=
  match s.me.cn with
  | some r => if r.pc = s.me.pc then some r else none
  | none => none

/-- Go on with the answer: wait for it, trap on poison, else finish. -/
def withAnswer (s : State) (r : CnReq) (k : State → Eff) : Eff :=
  if !r.answered then .wait s
  else if r.status = 16 then cnTrap (setCn s s.cur.1 s.cur.2 none) 3 (BitVec.ofNat 64 r.area)
  else k s

def cnDone (s : State) : State := s.modMe (fun t => { t with cn := none })

/-- The issuing core's near copy of a slot goes (R369). -/
def dropSlot (s : State) (sp i : Nat) : State :=
  match storeOf s sp with
  | none => s
  | some st =>
    match xlateCluster s (clusterOf s.cur.1) sp false .content .read (slotVa st i) with
    | ((0, tr), s1) => nearDrop s1 s1.cur.1 (nearIdx tr.key tr.line)
    | (_, _) => s

def resultWord (status hi : Nat) : Word := BitVec.ofNat 64 (hi % 2 ^ 32 * 2 ^ 32 + status)

/-- A fresh request. -/
def mkReq (s : State) (kind : CnKind) (name data : Nat) (area : Word) : CnReq :=
  { pc := s.me.pc, kind := kind, space := s.me.place.spaceid, name := name, data := data, area := area.toNat,
    answered := false, status := 0, slotIdx := 0, kite := 0 }

/-! ### The instructions on one name (R372) -/

def effCnOne (kind : CnKind) (shows allowed : Bool) (a : Fin 64) (b : Mem) (s : State) : Eff :=
  let m := memAddr s b 16
  match sentRequest s with
  | some r => withAnswer s r (fun s1 =>
      let s2 := if r.status = 0 ∧ kind ≠ .dec then dropSlot s1 r.space r.slotIdx else s1
      .ok ((cnDone s2).wrG a.val (resultWord r.status (if shows && r.status == 0 then r.slotIdx else 0))))
  | none => cnGate s allowed (aligned s m 16 (gather s m 16 false (fun s1 => withStore s1 (fun _ =>
      readAny s1 m 16 3 false true (fun s2 bs =>
        if fld (ofBytes bs) 96 32 ≠ 0 then cnTrap s2 2 m
        else sendRequest s2 (mkReq s2 kind (fld (ofBytes bs) 0 96) 0 m))))))

def effCnGet (a : Fin 64) (b : Mem) : State → Eff := effCnOne .get true true a b
def effCnGetRef (a : Fin 64) (b : Mem) : State → Eff := effCnOne .inc true false a b
def effCnRef (a : Fin 64) (b : Mem) : State → Eff := effCnOne .inc false false a b
def effCnUnref (a : Fin 64) (b : Mem) : State → Eff := effCnOne .dec false false a b

/-! ### put and node (R364, R373) -/

/-- A node line that R364 calls malformed. -/
def badNode (x : Nat) : Bool :=
  let c := fld x 8 8
  decide (fld x 0 8 ≠ 0xC0) || decide (c < 1) || decide (4 < c) || decide (fld x 16 48 ≠ 0) ||
    (List.range 4).any (fun j => if j < c then fld x (128 + 96 * j) 96 == 0 else fld x (128 + 96 * j) 96 != 0)

/-- Write the name and the result. -/
def nameOut (s : State) (a : Fin 64) (c : Word) (name status slot : Nat) : Eff :=
  writeAny s c (toBytes 16 name) 3 false (fun s1 =>
    .ok ((cnDone s1).wrG a.val (resultWord status (if status < 2 then slot else 0))))

def effInstall (node : Bool) (a : Fin 64) (b : Mem) (c : Fin 64) (s : State) : Eff :=
  let m := memAddr s b 64
  let w := s.rdG c.val
  match sentRequest s with
  | some r => withAnswer s r (fun s1 =>
      nameOut (if r.status < 2 then dropSlot s1 r.space r.slotIdx else s1) a w r.name r.status r.slotIdx)
  | none => cnGate s false (aligned s m 64 (aligned s w 16 (checkWindow s m 64 false (checkWindow s w 16 true (
      gather s m 64 false (fun s1 => gather s1 w 16 true (fun s2 => withStore s2 (fun st =>
        readAny s2 m 64 3 false true (fun s3 bs => gatherRoom s3 w (fun s4 =>
          let x := ofBytes bs
          let n := lineName s4 st bs
          if (if node then badNode x else fld x 0 8 == 0xC0) then nameOut s4 a w n 5 0
          else sendRequest s4 (mkReq s4 (if node then .node else .put) n x w)))))))))))

def effCnPut (a : Fin 64) (b : Mem) (c : Fin 64) : State → Eff := effInstall false a b c
def effCnNode (a : Fin 64) (b : Mem) (c : Fin 64) : State → Eff := effInstall true a b c

/-! ### Kites (R366, R374, R375) -/

/-- A kite operand lies in memory. -/
def kiteOperand (s : State) (m : Word) (k : Eff) : Eff := if wfld m 56 8 = 0xFE then .trap s (windowTrap m) else k

def effCnSwap (a : Fin 64) (b : Mem) (c : Fin 64) (s : State) : Eff :=
  let m := memAddr s b 16
  let w := s.rdG c.val
  match sentRequest s with
  | some r => withAnswer s r (fun s1 =>
      let fin (s : State) : Eff := .ok ((cnDone s).wrG a.val (resultWord r.status 0))
      if r.status = 6 then writeAny s1 w (toBytes 16 r.kite) 3 false fin else fin s1)
  | none => cnGate s false (aligned s m 16 (aligned s w 32 (kiteOperand s m (checkWindow s w 32 true (
      if sidingIdle s s.cur.1 s.cur.2 = false then .wait s
      else closeRelease s .mod (fun s1 => gather s1 m 16 true (fun s2 => gather s2 w 32 true (fun s3 =>
        withStore s3 (fun _ => readAny s3 w 32 3 false true (fun s4 bs =>
          if fld (ofBytes bs) 224 32 ≠ 0 then cnTrap s4 2 w
          else gatherRoom s4 w (fun s5 => sendRequest s5 (mkReq s5 .swap 0 (ofBytes bs) m))))))))))))

/-- The kite's address is what a trap on poison reports. -/
def effKite (ref : Bool) (a : Fin 64) (b : Mem) (c : Fin 64) (s : State) : Eff :=
  let m := memAddr s b 16
  let w := s.rdG c.val
  match sentRequest s with
  | some r => withAnswer s r (fun s1 => writeAny s1 w (toBytes 16 r.kite) 3 false (fun s2 =>
      .ok ((nearClear (cnDone s2) s2.cur.1).wrG a.val (resultWord r.status (fld r.kite 96 32)))))
  | none => cnGate s (!ref) (aligned s m 16 (aligned s w 16 (kiteOperand s m (checkWindow s w 16 true (
      if sidingIdle s s.cur.1 s.cur.2 = false then .wait s
      else withBoundary s (fun s1 => gather s1 m 16 false (fun s2 => gather s2 w 16 true (fun s3 =>
        withStore s3 (fun _ => gatherRoom s3 w (fun s4 => sendRequest s4 (mkReq s4 (.root ref) 0 0 m)))))))))))

def effCnRoot (a : Fin 64) (b : Mem) (c : Fin 64) : State → Eff := effKite false a b c
def effCnRootRef (a : Fin 64) (b : Mem) (c : Fin 64) : State → Eff := effKite true a b c

/-! ### Configuration (R355, R377) -/

/-- Apply a record to a space: 0 when it is installed, replaces or removes, else 1. -/
def configure (s : State) (sp rec' : Nat) : Nat × State :=
  let st : Store := { cfg := rec', bootSlot := (match spaceEntry s sp with
                        | some e => e.keyslot
                        | none => 0), collides := 0, reclaim := [], used := [] }
  let bad := decide (st.nlog < 4) || decide (20 < st.nlog) || decide (st.slots = 0) || decide (st.slots % 512 ≠ 0) ||
    decide (st.sbase % 64 ≠ 0) || decide (st.tbase % 64 ≠ 0)
  let busy := match storeOf s sp with
    | some o => !o.used.isEmpty
    | none => false
  if bad || busy then (1, s)
  else (0, if st.on then s.setStore sp st else { s with stores := AMap.del s.stores sp })

def effCnCfg (a : Fin 64) (b : Mem) (s : State) : Eff :=
  let m := memAddr s b 64
  cnGate s false (aligned s m 64 (readAny s m 64 3 false true (fun s1 bs =>
    let x := ofBytes bs
    if fld x 168 344 ≠ 0 ∨ x.testBit 165 then cnTrap s1 2 m
    else
      let r := configure s1 s1.me.place.spaceid x
      .ok (r.2.wrG a.val (BitVec.ofNat 64 r.1)))))

/-- The live entries of a store for which a test holds. -/
def liveCount (s : State) (sp : Nat) (st : Store) (p : Nat → Bool) : Nat :=
  (st.used.filter (fun e => match findLive sp st e.2 s with
    | .ok (some f, _) => p f.entry
    | .ok (none, _) => false
    | .error _ => false)).length

def effCnCfgStat (a : Fin 64) (b : Fin 5) (s : State) : Eff :=
  cnGate s false (withStore s (fun st =>
    let sp := s.me.place.spaceid
    let v := match b.val with
      | 0 => liveCount s sp st (fun _ => true)
      | 1 => st.slots - st.used.length
      | 2 => st.reclaim.foldl (fun n e => n + e.2.length) 0
      | 3 => st.collides
      | _ => liveCount s sp st (fun x => eCount x == pinned)
    .ok (s.wrG a.val (BitVec.ofNat 64 v))))

/-! ### The instructions and events -/

def execCnPut (h : Hdr) (a : Fin 64) (b : Mem) (c : Fin 64) (s : State) := run h (effCnPut a b c) s
def execCnGet (h : Hdr) (a : Fin 64) (b : Mem) (s : State) := run h (effCnGet a b) s
def execCnGetRef (h : Hdr) (a : Fin 64) (b : Mem) (s : State) := run h (effCnGetRef a b) s
def execCnRef (h : Hdr) (a : Fin 64) (b : Mem) (s : State) := run h (effCnRef a b) s
def execCnUnref (h : Hdr) (a : Fin 64) (b : Mem) (s : State) := run h (effCnUnref a b) s
def execCnNode (h : Hdr) (a : Fin 64) (b : Mem) (c : Fin 64) (s : State) := run h (effCnNode a b c) s
def execCnSwap (h : Hdr) (a : Fin 64) (b : Mem) (c : Fin 64) (s : State) := run h (effCnSwap a b c) s
def execCnRoot (h : Hdr) (a : Fin 64) (b : Mem) (c : Fin 64) (s : State) := run h (effCnRoot a b c) s
def execCnRootRef (h : Hdr) (a : Fin 64) (b : Mem) (c : Fin 64) (s : State) := run h (effCnRootRef a b c) s
def execCnCfg (h : Hdr) (a : Fin 64) (b : Mem) (s : State) := runHandler 0x84 h (effCnCfg a b) s
def execCnCfgStat (h : Hdr) (a : Fin 64) (b : Fin 5) (s : State) := runHandler 0x84 h (effCnCfgStat a b) s

def execContentHomeRequest (core slot : Nat) (s : State) : Host.Outcome State Fault Refusal :=
  onUnit (isSlot core slot) (contentServe s core slot)

def execContentCountMessage (src dst : Nat) (s : State) : Host.Outcome State Fault Refusal :=
  onUnit (isCluster src && isCluster dst) (countArrive s src dst)

def execReclaim (space home : Nat) (s : State) : Host.Outcome State Fault Refusal :=
  onUnit (isCluster home) (reclaimStep s space home)

end Sys2Proof.Machine
end

