-- ==== Sys2Proof/Machine/LogPath.lean ====
section
/-! DEFINITION. The functions of the logarithmic path: special values, exact results, and results rounded to q
significant bits (R116, R333, R334). Approximations carry about 240 bits, far beyond the 25 that decide a rounding
to at most 24 bits (log 60). -/

namespace Sys2Proof.Machine

/-- The functions (16 Table 5). -/
inductive LogFn where
  | rcp | sqrt | rsqrt | log2 | exp2 | ln | exp | pow | sigm | tanh
  deriving DecidableEq, Repr

/-- Column A of Tables 5 and 6. -/
def LogFn.colA : LogFn → Bool
  | .rcp => true | .sqrt => true | .rsqrt => true | .log2 => true | .exp2 => true
  | .ln => false | .exp => false | .pow => false | .sigm => false | .tanh => false

/-- The operator class (06 Table 2). -/
def LogFn.cls : LogFn → Nat
  | .rcp => 6 | .sqrt => 7 | .rsqrt => 8 | .exp2 => 9 | .exp => 9 | .log2 => 10 | .ln => 10 | .pow => 11
  | .sigm => 12 | .tanh => 12

/-- Significant bits by iteration count (16 Table 6). -/
def logBits (f : LogFn) (i : Nat) : Nat :=
  let q := if i = 0 then 6 else if i = 1 then 12 else if i = 2 then 20 else 24
  if f.colA then q else q - 1

/-- The bound of an iteration count in sixteenths of a bit (06 Table 5). -/
def logBound (f : LogFn) (i : Nat) : Nat :=
  let q := if i = 0 then 96 else if i = 1 then 192 else if i = 2 then 320 else 384
  if f.colA then q else q - 16

/-- The fewest iterations that meet a share, else 3 (R116). -/
def logIters (f : LogFn) (share : BitVec 16) : Nat :=
  if share.getLsbD 15 then 3
  else ([0, 1, 2].find? (fun i => decide ((share.extractLsb' 0 12).toNat ≤ logBound f i))).getD 3

/-! ### Rounding to q bits -/

/-- Round to nearest, ties to even, to q significant bits. -/
def roundBits (q : Nat) : Num → Num
  | .fin n m e =>
    let b := bitLen m
    if b ≤ q then .fin n m e
    else
      let d := 2 ^ (b - q)
      let h := m / d
      let r := m % d
      let up := decide (d < 2 * r) || (decide (d = 2 * r) && decide (h % 2 = 1))
      .fin n (if up then h + 1 else h) (e + (b - q : Nat))
  | .nan s n p => .nan s n p
  | .inf n => .inf n

/-! ### Fixed-point series with 256 fraction bits -/

def fxBits : Nat := 256
def fxOne : Int := 2 ^ 256

/-- The odd powers of z over their index: atanh z, by fuel. -/
def atanhSeries (z z2 : Int) : Nat → Nat → Int → Int
  | 0, _, acc => acc
  | f + 1, k, acc => atanhSeries (z * z2 / fxOne) z2 f (k + 2) (acc + z / (k : Int))

/-- 2 atanh z. -/
def ln1 (z : Int) (fuel : Nat) : Int := 2 * atanhSeries z (z * z / fxOne) fuel 1 0

/-- ln 2 = 2 atanh (1/3). -/
def fxLn2 : Int := ln1 (fxOne / 3) 90

/-- A positive mag · 2^exp as 2^e · m with m between 1/√2 and √2: e and ln m. -/
def lnParts (mag : Nat) (exp : Int) : Int × Int :=
  let b := Nat.log2 mag
  let m : Int := (mag * 2 ^ fxBits / 2 ^ b : Nat)
  let high := decide (m * m > 2 * fxOne * fxOne)
  let m1 := if high then m / 2 else m
  let e1 : Int := (b : Int) + exp + (if high then 1 else 0)
  (e1, ln1 ((m1 - fxOne) * fxOne / (m1 + fxOne)) 60)

/-- The Taylor series of e^r for r between 0 and 1, by fuel. -/
def expSeries (r : Int) : Nat → Nat → Int → Int → Int
  | 0, _, _, acc => acc
  | f + 1, n, term, acc => expSeries r f (n + 1) (term * r / fxOne / (n : Int)) (acc + term)

/-- e^t for a fixed-point t of at most 2^14 in magnitude. -/
def fxExp (t : Int) : Num :=
  let k := t / fxLn2
  .fin false (expSeries (t - k * fxLn2) 80 1 fxOne 0).toNat (k - fxBits)

/-- A value beyond every format, and one below every format. -/
def hugeNum : Num := .fin false 1 6000
def minuteNum : Num := .fin false 1 (-6000)

/-- A finite value as a fixed-point number, cut off at ±2^14. -/
def toFx (x : Num) : Int :=
  match x with
  | .fin n m e =>
    let big := decide (m ≠ 0) && decide ((14 : Int) ≤ expOf m e)
    let v : Int := if big then 2 ^ 14 * fxOne
      else if e + fxBits ≥ 0 then (m : Int) * 2 ^ (e + fxBits).toNat else (m : Int) / 2 ^ (-(e + fxBits)).toNat
    if n then -v else v
  | .inf n => if n then -(2 ^ 14 * fxOne) else 2 ^ 14 * fxOne
  | .nan _ _ _ => 0

/-- e^t, cut off where every format over- or underflows. -/
def expNum (t : Int) : Num :=
  if 2 ^ 13 * fxOne ≤ t then hugeNum else if t ≤ -(2 ^ 13 * fxOne) then minuteNum else fxExp t

/-- A fixed-point number as a value. -/
def ofFx (x : Int) : Num := .fin (decide (x < 0)) x.natAbs (-(fxBits : Int))

/-! ### Roots and reciprocals, with a sticky bit -/

/-- An even exponent: mag and exp with exp even. -/
def evenExp (m : Nat) (e : Int) : Nat × Int := if e % 2 = 0 then (m, e) else (2 * m, e - 1)

/-- An odd magnitude, for a nonzero value. -/
def oddPart (m : Nat) (e : Int) : Nat × Int :=
  let t := trailZeros (bitLen m) m
  (m / 2 ^ t, e + t)

/-- The exact square root of a number, if it is one. -/
def exactRoot (m : Nat) : Option Nat := if isqrt m * isqrt m = m then some (isqrt m) else none

/-- √(m 2^e): exact, or cut with a sticky bit. -/
def sqrtNum (m : Nat) (e : Int) : Num × Bool :=
  let x := evenExp m e
  match exactRoot x.1 with
  | some r => (.fin false r (x.2 / 2), true)
  | none => (.fin false (2 * isqrt (x.1 * 4 ^ 128) + 1) (x.2 / 2 - 129), false)

def rcpNum (n : Bool) (m : Nat) (e : Int) : Num × Bool :=
  let x := oddPart m e
  if x.1 = 1 then (.fin n 1 (-x.2), true) else (.fin n (2 * (2 ^ 256 / x.1) + 1) (-x.2 - 257), false)

def rsqrtNum (m : Nat) (e : Int) : Num × Bool :=
  let o := oddPart m e
  let x := evenExp o.1 o.2
  if x.1 = 1 then (.fin false 1 (-x.2 / 2), true)
  else (.fin false (2 * isqrt (4 ^ 256 / x.1) + 1) (-x.2 / 2 - 257), false)

/-! ### Powers -/

/-- The 2^s-th root of an odd magnitude by repeated square roots. -/
def rootTimes : Nat → Nat → Option Nat
  | 0, m => some m
  | s + 1, m =>
    match exactRoot m with
    | some r => rootTimes s r
    | none => none

/-- x^y for positive x when it is a dyadic number of a size that can matter: x = m 2^e and y = ±n / 2^s, all odd. -/
def powExact (m : Nat) (e : Int) (yn : Bool) (n : Nat) (ye : Int) : Option Num :=
  let o := oddPart m e
  let y := oddPart n ye
  let s := (-y.2).toNat
  let yi : Int := (if yn then -1 else 1) * (y.1 : Int)
  let cap (k : Int) : Int := max (-6000) (min 6000 k)
  if o.1 = 1 then
    if 0 ≤ y.2 then
      (if 20 < y.2 then (if o.2 = 0 then some (.fin false 1 0) else some (.fin false 1 (cap (o.2 * yi * 2 ^ 20))))
       else some (.fin false 1 (cap (o.2 * yi * 2 ^ y.2.toNat))))
    else if o.2 = 0 then some (.fin false 1 0)
    else if 200 < s then none
    else if o.2 * yi % (2 ^ s : Int) = 0 then some (.fin false 1 (cap (o.2 * yi / (2 ^ s : Int)))) else none
  else if yn then none
  else
    let k := if 0 ≤ y.2 then y.1 * 2 ^ (min y.2.toNat 8) else y.1
    if 64 < k ∨ 8 < s then none
    else
      match rootTimes s o.1 with
      | none => none
      | some r => if o.2 * yi % (2 ^ s : Int) = 0 then some (.fin false (r ^ k) (o.2 * (k : Int) / (2 ^ s : Int))) else none

/-- 2^(y log2 x) for positive x ≠ 1. -/
def powApprox (m : Nat) (e : Int) (y : Num) : Num :=
  let q := lnParts m e
  let l : Int := q.1 * fxLn2 + q.2
  match y with
  | .fin n a f =>
    let p : Int := l * (a : Int)
    let t : Int := if f ≥ 0 then (if 200 < f then p * 2 ^ 200 else p * 2 ^ f.toNat) else p / 2 ^ (-f).toNat
    expNum (if n then -t else t)
  | .inf n => if decide (0 < l) != n then hugeNum else minuteNum
  | .nan _ _ _ => .canonNaN

/-! ### Special values (R334) -/

def numOne : Num := .fin false 1 0
def plusZero : Num := .fin false 0 0

/-- Is the value 1? -/
def isOne (x : Num) : Bool := x.eqv numOne

/-- The special result and its flags; an infinity of `pow` outside the table follows exp2(y log2 x), where the product
of 0 and ∞ is invalid (log 61). -/
def logSpecial (f : LogFn) (x y : Num) : Option (Num × Flags) :=
  let neg := x.negative
  if f = .pow ∧ y.isZero then some (numOne, 0)
  else if x.isNaN then some (.canonNaN, if x.signalling || (decide (f = .pow) && y.signalling) then flInvalid else 0)
  else if f = .pow ∧ y.isNaN then some (.canonNaN, if y.signalling then flInvalid else 0)
  else
    match f with
    | .rcp => if x.isZero then some (.inf neg, flDivZero) else if x.isInf then some (.fin neg 0 0, 0) else none
    | .sqrt =>
      if x.isZero then some (x, 0) else if neg then some (.canonNaN, flInvalid) else if x.isInf then some (.inf false, 0)
      else none
    | .rsqrt =>
      if x.isZero then some (.inf false, flDivZero) else if neg then some (.canonNaN, flInvalid)
      else if x.isInf then some (plusZero, 0) else none
    | .ln =>
      if x.isZero then some (.inf true, flDivZero) else if neg then some (.canonNaN, flInvalid)
      else if x.isInf then some (.inf false, 0) else if isOne x then some (plusZero, 0) else none
    | .log2 =>
      if x.isZero then some (.inf true, flDivZero) else if neg then some (.canonNaN, flInvalid)
      else if x.isInf then some (.inf false, 0) else if isOne x then some (plusZero, 0) else none
    | .exp => if x.isInf then some (if neg then plusZero else .inf false, 0) else none
    | .exp2 => if x.isInf then some (if neg then plusZero else .inf false, 0) else none
    | .sigm => if x.isInf then some (if neg then plusZero else numOne, 0) else none
    | .tanh => if x.isZero then some (x, 0) else if x.isInf then some (.fin neg 1 0, 0) else none
    | .pow =>
      if neg then some (.canonNaN, flInvalid)
      else if x.isZero then (if y.negative then some (.inf false, flDivZero) else some (plusZero, 0))
      else if isOne x && y.isInf then some (.canonNaN, flInvalid)
      else if x.isInf then some (if y.negative then plusZero else .inf false, 0)
      else if y.isInf then some (if numOne.lt x != y.negative then .inf false else plusZero, 0)
      else none

/-- 1 / (1 + e^-x) away from 0 and the infinities. -/
def sigmApprox (x : Num) : Num :=
  let t := toFx x
  if 1000 * fxOne ≤ t then .fin false (2 ^ 300 - 1) (-300)
  else if t ≤ -(1000 * fxOne) then expNum t
  else
    match fxExp t with
    | .fin _ m k =>
      let z := k + fxBits
      if 0 ≤ z then
        let den := 2 ^ fxBits + m * 2 ^ z.toNat
        .fin false (m * 2 ^ z.toNat * 2 ^ 300 / den) (-300)
      else
        let den := 2 ^ fxBits + m / 2 ^ (-z).toNat
        .fin false (m * 2 ^ 300 / den) (k + fxBits - 300)
    | .inf _ => numOne
    | .nan _ _ _ => .canonNaN

/-- tanh of a nonzero finite value: below 2^-40 just less than x in magnitude, else (1 - E) / (1 + E) with
E = e^(-2|x|). -/
def tanhApprox (n : Bool) (m : Nat) (e : Int) : Num :=
  if expOf m e < -40 then .fin n (m * 2 ^ 80 - 1) (e - 80)
  else
    let t := toFx (.fin false m e)
    if 500 * fxOne ≤ t then .fin n (2 ^ 300 - 1) (-300)
    else
      match fxExp (-(2 * t)) with
      | .fin _ a k =>
        let ex := a / 2 ^ (-(k + fxBits)).toNat
        .fin n ((2 ^ fxBits - ex) * 2 ^ fxBits / (2 ^ fxBits + ex)) (-(fxBits : Int))
      | .inf _ => plusZero
      | .nan _ _ _ => .canonNaN

/-- f at inputs that are not special: an exact value (true), or a value that rounds as f does (false). -/
def logValue (f : LogFn) (x y : Num) : Num × Bool :=
  match x with
  | .fin n m e =>
    match f with
    | .rcp => rcpNum n m e
    | .sqrt => sqrtNum m e
    | .rsqrt => rsqrtNum m e
    | .log2 =>
      let o := oddPart m e
      if o.1 = 1 then (.ofInt o.2, true)
      else
        let q := lnParts m e
        (ofFx (q.1 * fxOne + q.2 * fxOne / fxLn2), false)
    | .ln =>
      let q := lnParts m e
      (ofFx (q.1 * fxLn2 + q.2), false)
    | .exp2 =>
      if m = 0 then (numOne, true)
      else if 0 ≤ e ∨ m % 2 ^ (-e).toNat = 0 then
        (.fin false 1 (toFx x / fxOne), true)
      else (expNum (toFx x * fxLn2 / fxOne), false)
    | .exp => if m = 0 then (numOne, true) else (expNum (toFx x), false)
    | .sigm => if m = 0 then (.fin false 1 (-1), true) else (sigmApprox x, false)
    | .tanh => (tanhApprox n m e, false)
    | .pow =>
      match y with
      | .fin yn a ye =>
        match powExact m e yn a ye with
        | some v => (v, true)
        | none => (powApprox m e y, false)
      | .inf _ => (powApprox m e y, false)
      | .nan _ _ _ => (.canonNaN, true)
  | .inf _ => (.canonNaN, true)
  | .nan _ _ _ => (.canonNaN, true)

end Sys2Proof.Machine
end

