-- ==== Sys2Proof/Machine/Copy.lean ====
section
/-! DEFINITION. The copy unit: layout records, units, shutters and opcodes 0x70 to 0x73 and 0x83, with the events of
copy jobs (R283-R307, R376). -/

namespace Sys2Proof.Machine

/-! ### The layout record (R286-R288) -/

def lrSkind (r : Nat) : Nat := fld r 208 2
def lrDkind (r : Nat) : Nat := fld r 210 2
def lrNdims (r : Nat) : Nat := fld r 216 3
def lrDim (r d lo len : Nat) : Nat := fld r (368 + 80 * d + lo) len
def lrWext (r d : Nat) : Nat := lrDim r d 0 16 + 1
def lrBudget (r : Nat) : BitVec 16 := BitVec.ofNat 16 (fld r 256 16)
def lrSat (r : Nat) : Bool := r.testBit 215
def lrTags (r : Nat) : Bool := r.testBit 219
def lrSrc (r : Nat) : Word := BitVec.ofNat 64 (fld r 0 64)
def lrDst (r : Nat) : Word := BitVec.ofNat 64 (fld r 64 64)

/-- The destination is the tensor side (R288). -/
def tensorDst (r : Nat) : Bool := lrSkind r == 2 && lrDkind r != 2

/-- The array side is a pool destination. -/
def poolDst (r : Nat) : Bool := !tensorDst r && lrDkind r == 2

/-- Elements of the window. -/
def windowSize (r : Nat) : Nat := (List.range (lrNdims r)).foldl (fun a d => a * lrWext r d) 1

/-- Where element n of a compact array lies: byte offset, bit in that byte, bits, and bytes touched (R289). -/
def plainLoc (f : BFmt) (n : Nat) : Nat × Nat × Nat × Nat :=
  match f with
  | .flat t => if t.width = 4 then (n / 2, 4 * (n % 2), 4, 1) else (n * (t.width / 8), 0, t.width, t.width / 8)
  | .nest w => let q := if w = 9 then 32 else 16; (n / 16 * q, 0, 8 * q, q)

/-- Bytes of an array of n elements. -/
def arrayBytes (f : BFmt) (n : Nat) : Nat :=
  match f with
  | .flat t => (n * t.width + 7) / 8
  | .nest w => (n + 15) / 16 * (if w = 9 then 32 else 16)

/-- The source format, and the destination format from its code. -/
def lrSfmt (r : Nat) : BFmt := (bfmtOf (fld r 192 8)).getD (.flat .f32)
def codeFmt (c : Nat) : BFmt := (bfmtOf c).getD (.flat .f32)

/-- The destination code of a record, with 0xF0 chosen under its budget (R294). -/
def copyFmt (r : Nat) : Nat :=
  if fld r 200 8 = 0xF0 then chooseFmt (adj (lrBudget r) (lOf 2)) [0x23, 0x24, 0x25, 0x26, 0x27] codeCredit 0x27
  else fld r 200 8

/-- The offsets at fault in a layout record (R287); `deal` when it is dealt. -/
def layoutOffs (r : Nat) (deal : Bool) : List Nat :=
  let nd := lrNdims r
  let ok := decide (1 ≤ nd) && decide (nd ≤ 5)
  let pool := poolDst r
  let afmt := if tensorDst r then bfmtOf (fld r 192 8) else bfmtOf (copyFmt r)
  let abase := if tensorDst r then fld r 0 64 else fld r 64 64
  lowBitAt r 320 48 ++ lowBitAt r 248 8 ++
    need (decide (lrDkind r ≠ 3)) 210 ++ need (decide (fld r 220 2 ≠ 3)) 220 ++ need (decide (fld r 222 2 < 2)) 222 ++
    need (decide (fld r 224 4 ≤ 5)) 224 ++ need (decide (fld r 228 4 ≤ 8)) 228 ++ need ok 216 ++
    need (decide (fld r 212 3 ≠ 7)) 212 ++ need (decide (fld r 232 8 ≠ 255)) 232 ++
    (List.range 5).flatMap (fun d => if d < nd then [] else lowBitAt r (368 + 80 * d) 80) ++
    need (bfmtOf (fld r 192 8)).isSome 192 ++ need ((bfmtOf (copyFmt r)).isSome) 200 ++
    lowBitAt r 284 3 ++ lowBitAt r 268 2 ++
    need (pool || !lrTags r) 219 ++ need (pool || fld r 222 2 == 0) 222 ++ need (pool || fld r 224 4 == 0) 224 ++
    need ((pool && deal) || fld r 228 4 == 0) 228 ++
    need (decide (fld r 222 2 ≠ 1) || decide (abase % 64 = 0)) 222 ++
    need (!lrTags r || (match afmt with
      | some f => decide (abase % 4 = 0) && (!ok || decide (arrayBytes f (windowSize r) % 4 = 0))
      | none => true)) 219 ++
    need (decide (fld r 240 8 ≠ 255) || lrDkind r == 0) 240 ++
    (if ok then need (decide (windowSize r < 2 ^ 32)) (368 + 80 * (nd - 1)) else []) ++
    need (!deal || pool) 210

/-! ### Coordinates and places (R288-R291) -/

/-- The digits of an array index in the window extents. -/
def digits : List Nat → Nat → List Nat
  | [], _ => []
  | w :: ws, a => a % w :: digits ws (a / w)

/-- The element index of a window element, whether it lies beyond the ragged edge, and the index of the clamped
coordinates. -/
def elemIndex (r a : Nat) : Int × Bool × Int :=
  let nd := lrNdims r
  let is := digits ((List.range nd).map (lrWext r)) a
  let f (q : Int × Bool × Int) (e : Nat × Nat) : Int × Bool × Int :=
    let c := lrDim r e.1 16 16 + e.2
    let ext := lrDim r e.1 32 16
    let st := sextI (lrDim r e.1 48 32) 32
    (q.1 + c * st, q.2.1 || decide (ext < c), q.2.2 + (min c ext : Nat) * st)
  let x := ((List.range nd).zip is).foldl f (0, false, 0)
  (x.1, x.2.1 || decide (x.1 < 0), x.2.2)

/-- The members of a peer mask. -/
def maskPeers (mask : Nat) : List Nat := (List.range 8).filter (fun i => mask.testBit i)

/-- The dealt peer and offset of array byte y; no peer without dealing (R291 step 1). -/
def dealByte (mask chunk y : Nat) : Option Nat × Nat :=
  let ps := maskPeers mask
  if ps.isEmpty then (none, y)
  else (some (ps.getD (y / chunk % ps.length) 0), y / chunk / ps.length * chunk + y % chunk)

/-- The pool byte of array byte y of a pool destination. -/
def placeByte (s : State) (c r mask y : Nat) : Nat × Nat :=
  let b := (windowAt s c (lrDst r)).getD (c, 0)
  let d := dealByte mask (2 ^ (fld r 228 4 + 6)) y
  let off := if fld r 222 2 = 1 then d.2 ^^^ (d.2 / 2 ^ (fld r 224 4 + 7) % 8 * 8) else d.2
  (match d.1 with
   | some p => peerCore s c p
   | none => b.1, b.2 + off)

/-- A byte of a side: key 0 and a virtual address, or core + 1 and a pool offset. -/
abbrev Place' := Nat × Nat

/-- Byte y of a plain or pool side. -/
def sideByte (s : State) (c r mask : Nat) (dst : Bool) (y : Nat) : Place' :=
  let kind := if dst then lrDkind r else lrSkind r
  let base := if dst then lrDst r else lrSrc r
  if kind ≠ 2 then (0, (base.toNat + y) % 2 ^ 64)
  else if dst && poolDst r then
    let p := placeByte s c r mask y
    (p.1 + 1, p.2)
  else
    let b := (windowAt s c base).getD (c, 0)
    (b.1 + 1, b.2 + y)

/-- The bytes that element n of a side touches, as ranges. -/
def spanOf (s : State) (c r mask fmt : Nat) (dst : Bool) (n : Nat) : List (Nat × Nat × Nat) :=
  let kind := if dst then lrDkind r else lrSkind r
  let f := if dst then codeFmt fmt else lrSfmt r
  let base := (if dst then lrDst r else lrSrc r).toNat
  match kind with
  | 0 => [(0, (base + 64 * (n / f.k)) % 2 ^ 64, (base + 64 * (n / f.k)) % 2 ^ 64 + 64)]
  | 3 => []
  | _ =>
    let l := plainLoc f n
    (List.range l.2.2.2).map (fun i => let p := sideByte s c r mask dst (l.1 + i); (p.1, p.2, p.2 + 1))

/-- A hull by key. -/
abbrev Hull := AMap (Nat × Nat)

def hullAdd (h : Hull) (x : Nat × Nat × Nat) : Hull :=
  match AMap.get h x.1 with
  | some e => AMap.set h x.1 (min e.1 x.2.1, max e.2 x.2.2)
  | none => AMap.set h x.1 x.2

/-- The hull of the bytes that array indices a0 onward touch on a side (R298, R300). -/
def copyHull (s : State) (c r mask fmt : Nat) (dst : Bool) (a0 : Nat) : Hull :=
  let td := tensorDst r
  foldUp (windowSize r - a0) (fun i h =>
    let a := a0 + i
    let e := elemIndex r a
    let n : Option Nat :=
      if dst == td then
        (if !e.2.1 then some e.1.toNat
         else if !dst && fld r 220 2 == 2 && decide (0 ≤ e.2.2) then some e.2.2.toNat else none)
      else some a
    match n with
    | some n => (spanOf s c r mask fmt dst n).foldl hullAdd h
    | none => h) []

/-! ### Moving one unit (R289-R297) -/

def CopyJob.ref (j : CopyJob) (cl : Nat) : JobRef := { q := 1, id := j.id, cl := cl, core := j.core, space := j.space }

/-- A value on its way: its array index, its number at the destination (none when it is not written), the exact
value, its operand grade and whether a NaN payload is kept. -/
structure Moved where
  a : Nat
  n : Option Nat
  x : Num
  g : Grade
  keep : Bool
  deriving DecidableEq, Repr

/-- Bytes of a plain or pool side, from byte y. -/
def readSide (j : JobRef) (r mask : Nat) (dst : Bool) (y n : Nat) : Act (List Byte) := do
  let s ← get
  let p := sideByte s j.core r mask dst y
  if p.1 = 0 then engReadN j (n / 64 + 2) p.2 n
  else (List.range n).mapM (fun i => do
    let q := sideByte s j.core r mask dst (y + i)
    let b ← engPoolRead j (q.1 - 1) q.2 1
    pure (b.getD 0 0))

/-- The value of slot k of a described block of a width class. -/
def blockValue (cls b k : Nat) : Act (Num × Grade × Bool) :=
  match blockIn cls b with
  | some f => pure (blockElem f b k, blockGrade b, f.keeps)
  | none => stop (.code 2 1)

/-- Element n of a plain or pool side: its code's value, without a scale. -/
def plainValue (f : BFmt) (n : Nat) (bs : List Byte) : Num :=
  let l := plainLoc f n
  match f with
  | .flat t => decodeFloat t (fld (ofBytes bs) l.2.1 t.width)
  | .nest w => groupElem w (ofBytes bs) (n % 16)

/-- Element n of the source, exact (R292). -/
def sourceElem (j : CopyJob) (ref : JobRef) (n : Nat) : Act (Num × Grade × Bool) := do
  let r := j.record
  let f := lrSfmt r
  match lrSkind r with
  | 0 => do
    let b ← engRead ref ((fld r 0 64 + 64 * (n / f.k)) % 2 ^ 64) 64 true
    blockValue f.cls (ofBytes b) (n % f.k)
  | 3 => do
    let st ← actStore j.space (.code 2 4)
    let q ← treeFind j.space st 17 (j.root.getD 0) n
    blockValue f.cls q.1 q.2
  | _ => do
    let l := plainLoc f n
    let bs ← readSide ref r j.mask false l.1 l.2.2.2
    pure ((plainValue f n bs).scale ((fld r 232 8 : Int) - 127), BitVec.ofNat 16 (fld r 272 16), f.keeps)

/-- The fill value of R290. -/
def fillNum (r : Nat) (f : BFmt) : Num :=
  if f.isInt then .ofInt (sextI (fld r 288 32) 32) else decodeFloat .f32 (fld r 288 32)

/-- The value of array index a on its way (R288, R290). -/
def moveElem (j : CopyJob) (ref : JobRef) (a : Nat) : Act Moved := do
  let r := j.record
  let e := elemIndex r a
  let zero : Num := .fin false 0 0
  if tensorDst r then do
    let v ← sourceElem j ref a
    pure { a := a, n := if e.2.1 then none else some e.1.toNat, x := v.1, g := v.2.1, keep := v.2.2 }
  else if !e.2.1 then do
    let v ← sourceElem j ref e.1.toNat
    pure { a := a, n := some a, x := v.1, g := v.2.1, keep := v.2.2 }
  else if fld r 220 2 = 2 ∧ 0 ≤ e.2.2 then do
    let v ← sourceElem j ref e.2.2.toNat
    pure { a := a, n := some a, x := v.1, g := gExact, keep := v.2.2 }
  else pure { a := a, n := some a, x := if fld r 220 2 = 1 then fillNum r (codeFmt j.fmt) else zero, g := gExact,
              keep := !(codeFmt j.fmt).isInt && decide (fld r 220 2 = 1) }

/-- The grade of a delivered element (R295, R117). -/
def elemGrade (f : BFmt) (sens : Int) (g : Grade) (same : Bool) : Grade :=
  gradeOf (!g.known || (f.isInt && !same)) (operandTerm g sens ++ (if same then [] else [16 * (f.credit : Int)]))

/-- What a conversion of slots comes to: payload bits, flags and the worst grade. -/
structure Conv where
  bits : Nat
  flags : Flags
  grade : Grade
  deriving DecidableEq, Repr

/-- The bit in a payload at which the code of slot k stands. -/
def slotBit (f : BFmt) (stride k : Nat) : Nat :=
  match f with
  | .flat t => t.width * k
  | .nest w => 8 * stride * (k / 16) + 16 + w * (k % 16)

def slotWidth : BFmt → Nat
  | .flat t => t.width
  | .nest w => w

/-- The slots that hold no element hold zero codes (R293), also in a group whose other bits are open. -/
def blankSlots {α : Type} (f : BFmt) (stride : Nat) (xs : List (Option α)) (bits : Nat) : Nat :=
  ((List.range xs.length).zip xs).foldl (fun b e => match e.2 with
    | some _ => b
    | none => setFld b (slotBit f stride e.1) (slotWidth f) 0) bits

/-- Convert slots with scale S; each slot is a value, its mode, its keep mark and its operand grade, or a zero code. -/
def convert (f : BFmt) (stride : Nat) (sat : Bool) (sens : Int) (scale : Nat) (xs : List (Option (Num × RMode × Bool × Grade))) :
    Act Conv := fun s =>
  let es := xs.map (fun e => match e with
    | some (x, m, k, _) => ({ x := x.scale (127 - (scale : Int)), mode := m, keep := k } : ESlot)
    | none => ESlot.zero)
  let o := encodePayload f stride es sat s.free
  let gs := (xs.zip (es.zip o.vals)).map (fun e => match e.1 with
    | some (_, _, _, g) => elemGrade f sens g (numSame e.2.1.x e.2.2)
    | none => gExact)
  .ok ({ bits := blankSlots f stride xs o.bits, flags := o.flags, grade := gs.foldl gWorse gExact }, { s with free := o.free })

/-- The scale of a destination block. -/
def blockScaleOf (r : Nat) (f : BFmt) (xs : List Num) : Nat := if fld r 240 8 = 255 then pickScale f xs else fld r 240 8

/-- The header stride of nested groups in a block. -/
def blockStride : BFmt → Nat
  | .flat _ => 0
  | .nest w => groupBytes w

/-- A described page for a destination block. -/
def describedDst (ref : JobRef) (va : Nat) : Act Trans := do
  let tr ← actTrans ref.cl ref.space .engine .write va
  if tr.described then pure tr else stop (.code 2 2)

/-- A described destination on the array side: the unit is one block (R293). -/
def putArrayBlock (j : CopyJob) (ref : JobRef) (vs : List (Moved × RMode)) (a0 : Nat) : Act Conv := do
  let r := j.record
  let f := codeFmt j.fmt
  let va := (fld r 64 64 + 64 * (a0 / f.k)) % 2 ^ 64
  let _ ← describedDst ref va
  let xs := vs.map (fun v => some (v.1.x, v.2, v.1.keep, v.1.g))
  let sc := blockScaleOf r f (vs.map (fun v => v.1.x))
  let c ← convert f (blockStride f) (lrSat r) j.sens sc (xs ++ List.replicate (f.k - xs.length) none)
  engWrite ref (byteMap va (toBytes 64 (mkBlock j.fmt sc c.grade c.bits)))
  pure c

/-- The value that ends in slot n of the tensor side: where two window elements of a unit name one slot, the later one
(R297; log 110). -/
def lastAt (vs : List (Moved × RMode)) (n : Nat) : Option (Moved × RMode) := vs.reverse.find? (fun v => v.1.n == some n)

/-- One block of a described tensor destination is read, changed and written at its home as one access (R296). A base
that is no multiple of 64, which R289 excludes without a check, is read where it stands and written at the start of its
line (DESIGN CHOICE, log 128). -/
def mergeBlock (j : CopyJob) (ref : JobRef) (vs : List (Moved × RMode)) (bi : Nat) : Act Conv := do
  let r := j.record
  let f := codeFmt j.fmt
  let va := (fld r 64 64 + 64 * bi) % 2 ^ 64
  let tr ← describedDst ref va
  let old ← engRead ref va 64 true
  let b := ofBytes old
  match blockIn f.cls b with
  | none => stop (.code 2 1)
  | some g => do
    let kmode : RMode := match vs.head? with
      | some (_, .sr _) => .rne
      | some (_, m) => m
      | none => .rne
    let xs := (List.range f.k).map (fun k =>
      match lastAt vs (bi * f.k + k) with
      | some v => (v.1.x, v.2, v.1.keep, v.1.g)
      | none => (blockElem g b k, kmode, g.keeps, blockGrade b))
    let sc := blockScaleOf r f (xs.map Prod.fst)
    let c ← convert f (blockStride f) (lrSat r) j.sens sc (xs.map some)
    modState (fun s => homeStore s tr.line tr.key 0 (toBytes 64 (mkBlock j.fmt sc c.grade c.bits)))
    pure c

/-- The distinct values of a function over a list, in order of first appearance. -/
def distinctBy {α : Type} (f : α → Nat) (l : List α) : List Nat :=
  l.foldl (fun acc x => if acc.contains (f x) then acc else acc ++ [f x]) []

/-- Bytes on their way to a plain or pool destination, keyed by key * 2^64 + address. -/
abbrev WBuf := AMap Byte

def bufKey (p : Place') : Nat := p.1 * 2 ^ 64 + p.2

/-- The byte of a destination as it will stand. -/
def oldByte (j : CopyJob) (ref : JobRef) (y : Nat) (w : WBuf) : Act Byte := do
  let s ← get
  match AMap.get w (bufKey (sideByte s j.core j.record j.mask true y)) with
  | some b => pure b
  | none => do
    let bs ← readSide ref j.record j.mask true y 1
    pure (bs.getD 0 0)

def putBytesAt (s : State) (j : CopyJob) (y : Nat) (bs : List Byte) (w : WBuf) : WBuf :=
  (byteMap y bs).foldl (fun m e => AMap.set m (bufKey (sideByte s j.core j.record j.mask true e.1)) e.2) w

/-- Flat elements to a plain or pool destination. -/
def putFlat (j : CopyJob) (ref : JobRef) (t : Fmt) (vs : List (Moved × RMode)) (w : WBuf) : Act (Conv × WBuf) := do
  let r := j.record
  let c ← convert (.flat t) 0 (lrSat r) j.sens (fld r 240 8) (vs.map (fun v => some (v.1.x, v.2, v.1.keep, v.1.g)))
  let w1 ← ((List.range vs.length).zip vs).foldlM (fun (w : WBuf) e => do
    let code := fld c.bits (t.width * e.1) t.width
    match e.2.1.n with
    | none => pure w
    | some n => do
      let l := plainLoc (.flat t) n
      let s ← get
      if t.width = 4 then do
        let b ← oldByte j ref l.1 w
        pure (putBytesAt s j l.1 [BitVec.ofNat 8 (setFld b.toNat l.2.1 4 code)] w)
      else pure (putBytesAt s j l.1 (toBytes l.2.2.2 code) w)) w
  pure (c, w1)

/-- One nested group of a plain or pool destination: elements that the unit does not write keep their values on the
tensor side and are zero on the array side (log 51). -/
def putGroup (j : CopyJob) (ref : JobRef) (wd : Nat) (vs : List (Moved × RMode)) (w : WBuf) (gi : Nat) : Act (Conv × WBuf) := do
  let r := j.record
  let l := plainLoc (.nest wd) (16 * gi)
  let mine := vs.filter (fun v => match v.1.n with
    | some n => n / 16 == gi
    | none => false)
  let old ← if tensorDst r && decide (mine.length < 16) then (List.range l.2.2.2).mapM (fun i => oldByte j ref (l.1 + i) w)
    else pure []
  let xs := (List.range 16).map (fun k =>
    match lastAt mine (16 * gi + k) with
    | some v => some (v.1.x, v.2, v.1.keep, v.1.g)
    | none => if old.isEmpty then none
      else some ((groupElem wd (ofBytes old) k).scale ((fld r 240 8 : Int) - 127), .rne, false, gExact))
  let c ← convert (.nest wd) 0 (lrSat r) j.sens (fld r 240 8) xs
  let s ← get
  pure (c, putBytesAt s j l.1 (toBytes l.2.2.2 c.bits) w)

/-- Write a buffer out: pools at once, memory as packets. -/
def flushBuf (ref : JobRef) (w : WBuf) : Act Unit :=
  (distinctBy (fun e : Nat × Byte => e.1 / 2 ^ 64) w).forM (fun key =>
    let bs : AMap Byte := (w.filter (fun e => e.1 / 2 ^ 64 == key)).map (fun e => (e.1 % 2 ^ 64, e.2))
    if key = 0 then engWrite ref bs else engPoolWrite ref (key - 1) bs)

def convJoin (a b : Conv) : Conv := { bits := 0, flags := a.flags ||| b.flags, grade := gWorse a.grade b.grade }
def convNone : Conv := { bits := 0, flags := 0, grade := gExact }

/-- The words of a tagged destination from `lo` to `hi` become full (or empty). -/
def tagWords (j : CopyJob) (lo hi : Nat) (full : Bool) (s : State) : State :=
  foldUp (hi - lo) (fun i s =>
    let p := sideByte s j.core j.record j.mask true (4 * (lo + i))
    if p.1 = 0 then s else setTagsWake s (p.1 - 1) p.2 4 full) s

/-- The modes of a unit's elements, with the generators they leave (R297). -/
def unitModes (rnd a0 n : Nat) (gens : List (BitVec 16)) : List RMode × List (BitVec 16) :=
  foldUp n (fun i (q : List RMode × List (BitVec 16)) =>
    let m := resolveMode rnd 0 q.2 (a0 + i)
    (q.1 ++ [m.1], m.2)) ([], gens)

/-- Write the values of a unit. -/
def putUnit (j : CopyJob) (ref : JobRef) (vs : List (Moved × RMode)) (a0 : Nat) : Act Conv := do
  let r := j.record
  let f := codeFmt j.fmt
  let kept := vs.filter (fun v => v.1.n.isSome)
  if lrDkind r = 0 then
    if tensorDst r then
      (distinctBy (fun v : Moved × RMode => v.1.n.getD 0 / f.k) kept).foldlM (fun (c : Conv) bi => do
        let d ← mergeBlock j ref kept bi
        pure (convJoin c d)) convNone
    else putArrayBlock j ref vs a0
  else do
    let q ← (match f with
      | .flat t => putFlat j ref t kept []
      | .nest wd => (distinctBy (fun v : Moved × RMode => v.1.n.getD 0 / 16) kept).foldlM (fun (q : Conv × WBuf) gi => do
          let p ← putGroup j ref wd kept q.2 gi
          pure (convJoin q.1 p.1, p.2)) (convNone, ([] : WBuf)))
    flushBuf ref q.2
    pure q.1

/-- The array side's format, whose K is the unit (R304). -/
def unitFmt (j : CopyJob) : BFmt := if tensorDst j.record then lrSfmt j.record else codeFmt j.fmt

/-- A content-tree source takes its root reference (R289, R362). -/
def takeRoot (j : CopyJob) (ref : JobRef) : Act CopyJob :=
  if lrSkind j.record = 3 ∧ j.root.isNone then do
    let bs ← engReadN ref 3 (fld j.record 0 64) 16
    let n := fld (ofBytes bs) 0 96
    holdRoot j.space n
    pure { j with root := some n }
  else pure j

/-- The next unit of a copy job. -/
def copyUnit (j0 : CopyJob) (cl : Nat) : Act CopyJob := do
  let ref := j0.ref cl
  let j ← takeRoot j0 ref
  let f := unitFmt j
  let a0 := j.next
  let n := min f.k (j.total - a0)
  let ms := unitModes j.rnd a0 n j.gens
  let vs ← (List.range n).mapM (fun i => moveElem j ref (a0 + i))
  let c ← putUnit j ref (vs.zip ms.1) a0
  let a1 := a0 + n
  if lrTags j.record then
    modState (tagWords j (arrayBytes f a0 / 4) (if a1 ≥ j.total then (arrayBytes f a1 + 3) / 4 else arrayBytes f a1 / 4) true)
  else pure ()
  pure { j with next := a1, rst := a1, gens := ms.2, flags := j.flags ||| c.flags, grade := gWorse j.grade c.grade,
                ended := if j.total ≤ a1 then some (1, 0) else none }

/-- The next leaf of a copy-out job (R376). -/
def outUnit (j0 : CopyJob) (cl dest limit : Nat) : Act CopyJob := do
  let j ← if j0.root.isNone then do
      holdRoot j0.space j0.record
      pure { j0 with root := some j0.record }
    else pure j0
  let st ← actStore j.space (.code 2 4)
  let top ← treeLine j.space st j.record
  match lineCount top with
  | none => faulty
  | some all =>
    if all = 0 then faulty
    else if all ≤ j.start then pure { j with ended := some (1, 0) }
    else if limit ≤ j.next then faulty
    else do
      let q ← treeFind j.space st 17 j.record j.start
      engWrite (j.ref cl) (byteMap ((dest + 64 * j.next) % 2 ^ 64) (toBytes 64 q.1))
      pure { j with next := j.next + 1, rst := j.next + 1, start := j.start + (lineCount q.1).getD 1 }

/-! ### Choosing and ending jobs (R283, R300, R304) -/

def setCopy (s : State) (cl : Nat) (j : CopyJob) : State :=
  s.modCluster cl (fun x => { x with copyJobs := AMap.set x.copyJobs j.id j })

/-- Jobs without a final status: earliest deadline first, then lowest identifier. -/
def copyOrder (s : State) (cl : Nat) : List CopyJob :=
  sortBy (fun j => j.deadline * 2 ^ 32 + j.id)
    ((AMap.vals (s.cluster cl).copyJobs).filter (fun j => j.status == 0 && j.ended.isNone))

/-- The job that a stop leaves, with the state. -/
def copyStop (s : State) (cl : Nat) (j : CopyJob) : Stop → Option State
  | .again => none
  | .poison => some (setCopy s cl { j with ended := some (2, 3) })
  | .code st c => some (setCopy s cl { j with ended := some (st, c) })
  | .walk va kind st =>
    if serviced st then
      match askService s (32769 + cl * 2) j.space va kind st with
      | (id, s1) => some (setCopy s1 cl { j with walk := some id })
    else some (setCopy s cl { j with ended := some (2, 0x10 + st) })

/-- One job at its unit boundary: it is cancelled, moves its next unit, or steps aside (none). -/
def copyTry (s : State) (cl : Nat) (j : CopyJob) : Option State :=
  if j.cancel then some (setCopy s cl { j with ended := some (4, 0) })
  else if (match j.walk with
      | some id => (AMap.get s.mem.walks id).isSome
      | none => false) then none
  else
    let j1 := { j with walk := none }
    match (match j1.out with
      | some (dest, limit) => outUnit j1 cl dest limit s
      | none => copyUnit j1 cl s) with
    | .ok (j2, s1) => some (setCopy s1 cl j2)
    | .error e => copyStop s cl j1 e

/-- The job that the unit works on: the first in order that does not step aside. -/
def copyChoice (s : State) (cl : Nat) : Option CopyJob := (copyOrder s cl).find? (fun j => (copyTry s cl j).isSome)

/-- The chosen job moves one unit; nothing starts while packets of the unit are on their way (log 52). -/
def copyStep (s : State) (cl : Nat) : Option State :=
  if enginePending s cl 1 then none else (copyChoice s cl).bind (copyTry s cl)

/-- Open every shutter of a job. -/
def openAll (s : State) (ps : List (Nat × Nat)) : State := ps.foldl openShutter s

/-- The hull that a status-3 or status-4 job keeps shut. -/
def keptHull (s : State) (j : CopyJob) : Hull :=
  match j.out with
  | some (dest, limit) => [(0, (dest + 64 * j.next, dest + 64 * limit))]
  | none => copyHull s j.core j.record j.mask j.fmt true j.next

/-- Narrow a job's shutters to a hull; they stay closed. -/
def narrow (s : State) (ps : List (Nat × Nat)) (h : Hull) : State :=
  ps.foldl (fun s p => s.modCore p.1 (fun x => { x with shutters := x.shutters.map (fun e =>
    (e.1, if e.1 = p.2 then
      let r := (AMap.get h (if e.2.global then 0 else p.1 + 1)).getD (0, 0)
      { e.2 with lo := r.1, hi := r.2 }
    else e.2)) })) s

/-- M17 of a copy job. -/
def copyFinal (s : State) (cl : Nat) (j : CopyJob) (st code : Nat) : State :=
  let gone := decide ((s.thread j.core j.slot).status = .unplaced) || (s.thread j.core j.slot).place.gen != j.gen
  let opens := decide (st < 3) || gone
  let j1 := { j with
    status := st, code := code, ended := none, walk := none
    rst := if st = 1 ∧ j.out.isNone then j.total else j.next
    need := if j.out.isNone then needOf j.grade (lrBudget j.record) else 0
    shutters := if opens then [] else j.shutters }
  let s1 := setCopy s cl j1
  let s2 := if opens then openAll s1 j.shutters else narrow s1 j.shutters (keptHull s j)
  let s3 := match j.root with
    | some n => releaseRoot s2 j.space n
    | none => s2
  if j.out.isNone then jobBarrier s3 j.core (BitVec.ofNat 64 (fld j.record 128 64)) else s3

def copyFinalDue (s : State) (cl : Nat) (j : CopyJob) : Bool := j.ended.isSome && j.status == 0 && !enginePending s cl 1

def execCopyJobUnit (cluster : Nat) (s : State) : Host.Outcome State Fault Refusal :=
  onUnit (isCluster cluster) ((copyStep s cluster).getD s)

def execCopyJobFinal (cluster id : Nat) (s : State) : Host.Outcome State Fault Refusal :=
  onUnit (isCluster cluster) (match AMap.get (s.cluster cluster).copyJobs id with
    | some j => (match j.ended with
      | some e => if copyFinalDue s cluster j then copyFinal s cluster j e.1 e.2 else s
      | none => s)
    | none => s)

def execCnOutJob (cluster id : Nat) (s : State) : Host.Outcome State Fault Refusal :=
  onUnit (isCluster cluster) (match AMap.get (s.cluster cluster).copyJobs id with
    | some j => if j.out.isSome && !enginePending s cluster 1 && (copyChoice s cluster).map CopyJob.id == some id then
        (copyTry s cluster j).getD s else s
    | none => s)

/-! ### Submission (R298, R301-R306) -/

/-- A record with a nested format needs feature bit 14. -/
def nestedRecord (r : Nat) : Bool := (lrSfmt r).nested || (codeFmt (copyFmt r)).nested

/-- A base of the wrong kind (R289): a pool base that is no window-0 or window-1 address, or a memory base that is not
translated (R230). -/
def badBase (kind : Nat) (a : Word) : Bool :=
  match decodeAddr a with
  | .own _ => kind != 2
  | .peer _ _ => kind != 2
  | .view _ _ => true
  | .badWindow _ => true
  | .global => kind == 2
  | .nonCanon => true

def badBases (r : Nat) : Option Word :=
  if badBase (lrSkind r) (lrSrc r) then some (lrSrc r) else if badBase (lrDkind r) (lrDst r) then some (lrDst r) else none

/-- The pool ranges of hulls. -/
def poolRanges (h : Hull) : List (Nat × Nat × Nat) := h.filterMap (fun e => if e.1 = 0 then none else some (e.1 - 1, e.2.1, e.2.2))

/-- A shutter over each range of a job's destination hull, by core (R298). -/
def hullShutters (s : State) (id : Nat) (h : Hull) : List (Nat × Shutter) :=
  let mk (g : Bool) (e : Nat × Nat) : Shutter :=
    { closed := true, global := g, lo := e.1, hi := e.2, queue := 1, id := id, pos := posOf s.cur.1 }
  h.map (fun e => if e.1 = 0 then (s.cur.1, mk true e.2) else (e.1 - 1, mk false e.2))

/-- The shutters that a job closes: with filltags none over a pool (R298). -/
def wantShutters (s : State) (r id : Nat) (h : Hull) : List (Nat × Shutter) :=
  (hullShutters s id h).filter (fun w => w.2.global || !lrTags r)

/-- A shutter whose job is at status 3 or 4, or no longer known. -/
def deadShutter (s : State) (cl : Nat) (h : Shutter) : Bool :=
  h.closed && h.queue == 1 && (match AMap.get (s.cluster cl).copyJobs h.id with
    | some j => decide (3 ≤ j.status)
    | none => true)

/-- The dead shutters that a resumed job takes over for one wanted shutter (R305). -/
def takenFor (s : State) (w : Nat × Shutter) : List (Nat × Nat) :=
  (s.core w.1).shutters.filterMap (fun e =>
    if deadShutter s (clusterOf s.cur.1) e.2 && e.2.global == w.2.global && decide (w.2.lo ≤ e.2.lo) && decide (e.2.hi ≤ w.2.hi)
    then some (w.1, e.1) else none)

/-- The parts of [lo, hi) that ascending ranges leave. -/
def gapsIn (hi : Nat) : Nat → List (Nat × Nat) → List (Nat × Nat)
  | lo, [] => if lo < hi then [(lo, hi)] else []
  | lo, r :: rs => (if lo < min r.1 hi then [(lo, min r.1 hi)] else []) ++ gapsIn hi (max lo r.2) rs

/-- The new shutters of a resumed job close over the rest of its ranges (R305). -/
def restOf (s : State) (ps : List (Nat × Nat)) (w : Nat × Shutter) : List (Nat × Shutter) :=
  let mine := (ps.filter (fun p => p.1 == w.1)).filterMap (fun p => (AMap.get (s.core p.1).shutters p.2).bind (fun e =>
    if e.global == w.2.global then some (e.lo, e.hi) else none))
  (gapsIn w.2.hi w.2.lo (sortBy Prod.fst mine)).map (fun g => (w.1, { w.2 with lo := g.1, hi := g.2 }))

/-- Make shutters the property of a job. -/
def ownShutters (s : State) (id : Nat) (ps : List (Nat × Nat)) : State :=
  let s1 := ps.foldl (fun s p => s.modCore p.1 (fun x => { x with shutters := x.shutters.map (fun e =>
    (e.1, if e.1 = p.2 then { e.2 with id := id, pos := posOf s.cur.1 } else e.2)) })) s
  s1.modCluster (clusterOf s.cur.1) (fun x => { x with copyJobs := x.copyJobs.map (fun e =>
    (e.1, { e.2 with shutters := e.2.shutters.filter (fun p => !ps.contains p) })) })

/-- A fresh job of the acting thread; its mode and sensitivities are those of its acceptance (DESIGN CHOICE,
log 106). -/
def newCopy (s : State) (id r : Nat) (m : Word) : CopyJob :=
  let t := s.me
  { id := id, core := s.cur.1, slot := s.cur.2, space := t.place.spaceid, keyslot := t.place.keyslot,
    launch := t.place.launch, node := t.place.node, deadline := t.place.deadline.toNat, record := r, recAddr := m.toNat,
    mask := 0, deal := false, start := 0, next := 0, total := 0, fmt := copyFmt r, gens := seedGens t.ctl.srseed,
    flags := 0, grade := gExact, need := 0, rst := 0, status := 0, code := 0, ended := none, cancel := false, walk := none,
    out := none, root := none, shutters := [], sens := t.sensOf 13 0,
    rnd := if fld r 212 3 = 6 then t.ctl.frm.toNat else fld r 212 3, gen := t.place.gen }

/-- Put an accepted job into the queue. -/
def enqueueCopy (s : State) (j : CopyJob) : State :=
  let s1 := s.modCluster (clusterOf s.cur.1) (fun x =>
    let next := (x.copyNext + 1) % 2 ^ 32
    { x with copyNext := next, copyJobs := AMap.set (pruneCopy next x.copyJobs) j.id j })
  rememberJob s1 1 j.id

/-- Accept a checked job: shutters close, tags empty, the job is queued; or the thread parks (R301). -/
def acceptCopy (s : State) (a : Fin 64) (r : Nat) (m : Word) (mask : Nat) (deal : Bool) (resume : Option Nat) : Eff :=
  let cl := clusterOf s.cur.1
  let id := (s.cluster cl).copyNext
  let total := windowSize r
  let j0 := { newCopy s id r m with mask := mask, deal := deal, total := total }
  let st := match resume with
    | some x => min (x / (unitFmt j0).k * (unitFmt j0).k) total
    | none => 0
  let quick := (deal && mask == 0) || decide (total ≤ resume.getD 0)
  let hull := if quick then [] else copyHull s s.cur.1 r mask j0.fmt true st
  let src := if quick then [] else copyHull s s.cur.1 r mask j0.fmt false st
  match checkRanges s (poolRanges src ++ poolRanges hull) with
  | some t => .trap s t
  | none => checkBarrier s (BitVec.ofNat 64 (fld r 128 64)) (
    let taken := if resume.isSome then (hullShutters s id hull).flatMap (takenFor s) else []
    let fresh := (wantShutters s r id hull).flatMap (restOf s taken)
    if 32 ≤ pendingJobs s cl 1 ∨ !shuttersFree s fresh then .park s .jobQueue
    else
      let s1 := ownShutters s id taken
      let q := closeAll s1 fresh
      let j1 := { j0 with
        start := st, next := if quick then total else st, rst := if quick then total else st
        gens := if j0.rnd = 5 then foldUp st (fun i g => (drawGen g i).1) j0.gens else j0.gens
        ended := if quick then some (1, 0) else none, shutters := taken ++ q.1 }
      let s2 := if lrTags r && !quick then
          tagWords j1 (arrayBytes (unitFmt j1) st / 4) ((arrayBytes (unitFmt j1) total + 3) / 4) false q.2
        else q.2
      let j2 := match takeRoot j1 (j1.ref cl) s2 with
        | .ok x => x
        | .error _ => (j1, s2)
      .ok ((enqueueCopy j2.2 j2.1).wrG a.val (BitVec.ofNat 64 id)))

/-- The submission of `copy`, `copy.deal` and `copy.resume` (R306). -/
def submitCopy (s : State) (a : Fin 64) (b : Mem) (mask : Nat) (deal : Bool) (resume : Option Nat) : Eff :=
  let m := memAddr s b 8
  notTolerant s (aligned s m 32 (
    if sidingIdle s s.cur.1 s.cur.2 = false then .wait s
    else closeRelease s .clu (fun s1 => readRecord s1 m 96 (fun s2 bs =>
      let r := ofBytes bs
      match (layoutOffs r deal).min? with
      | some o => .failAt s2 0x02 m (o + 65536)
      | none =>
        if nestedRecord r && !(s2.me.place.feat.getLsbD 14) then .fail s2 0x15 14
        else match badBases r with
          | some w => .trap s2 (windowTrap w)
          | none => acceptCopy s2 a r m mask deal resume))))

def effCopy (a : Fin 64) (b : Mem) (s : State) : Eff := submitCopy s a b 0 false none

def effCopyDeal (a : Fin 64) (b : Mem) (c : GSrc) (s : State) : Eff :=
  submitCopy s a b (wfld (readGSrc s c) 0 8) true none

def effCopyResume (a : Fin 64) (b : Mem) (c : Fin 64) (s : State) : Eff :=
  let w := s.rdG c.val
  submitCopy s a b (wfld w 24 8) (decide (wfld w 24 8 ≠ 0)) (some (wfld w 32 32))

/-! ### shut.q (R307) -/

def effShutQ (a b : Fin 64) (s : State) : Eff :=
  let w := s.rdG b.val
  let q : Nat × Bool × Nat := match windowAt s s.cur.1 w with
    | some p => (p.1, false, p.2)
    | none => (s.cur.1, true, w.toNat)
  let hit := (s.core q.1).shutters.filter (fun e => e.2.closed && e.2.global == q.2.1 && decide (e.2.lo ≤ q.2.2) && decide (q.2.2 < e.2.hi))
  let id := match hit with
    | e :: _ => e.2.id
    | [] => 0
  .ok (s.wrG a.val (BitVec.ofNat 64 (maskOf ((List.range 16).filter (fun i => hit.any (fun e => e.1 == i))) + id % 2 ^ 32 * 2 ^ 32)))

/-- Closed shutters of a restored pool image whose job had this identifier (R437, log 72). -/
def restoredShutters (s : State) (cl k id : Nat) : List (Nat × Nat) :=
  (s.cores.filter (fun e => clusterOf e.1 == cl)).flatMap (fun e =>
    (e.2.shutters.filter (fun h => h.2.closed && h.2.id == (k + 1) * 2 ^ 32 + id)).map (fun h => (e.1, h.1)))

def effShutQDrop (a b : Fin 64) (s : State) : Eff :=
  let cl := clusterOf s.cur.1
  match AMap.get (s.cluster cl).copyJobs (wfld (s.rdG b.val) 0 32) with
  | none =>
    let ps := restoredShutters s cl s.cur.2 (wfld (s.rdG b.val) 0 32)
    .ok ((openAll s ps).wrG a.val (BitVec.ofNat 64 ps.length))
  | some j =>
    if j.status = 0 then .ok (s.wrG a.val (BitVec.ofInt 64 (-1)))
    else if j.status < 3 then .ok (s.wrG a.val 0)
    else .ok ((setCopy (openAll s j.shutters) cl { j with shutters := [] }).wrG a.val (BitVec.ofNat 64 j.shutters.length))

/-! ### cn.out (R376) -/

/-- Accept a copy-out job. -/
def acceptOut (s : State) (a : Fin 64) (m : Word) (root dest limit : Nat) : Eff :=
  let cl := clusterOf s.cur.1
  let id := (s.cluster cl).copyNext
  let h : Shutter := { closed := true, global := true, lo := dest, hi := dest + 64 * limit, queue := 1, id := id,
                       pos := posOf s.cur.1 }
  if 32 ≤ pendingJobs s cl 1 ∨ !shuttersFree s [(s.cur.1, h)] then .park s .jobQueue
  else
    let q := closeAll s [(s.cur.1, h)]
    let j := { newCopy s id root m with out := some (dest, limit), shutters := q.1, grade := 0, rnd := 0 }
    let s1 := match holdRoot j.space root q.2 with
      | .ok (_, s1) => ({ j with root := some root }, s1)
      | .error _ => (j, q.2)
    .ok ((enqueueCopy s1.2 s1.1).wrG a.val (BitVec.ofNat 64 id))

def effCnOut (a : Fin 64) (b : Mem) (c : Fin 64) (s : State) : Eff :=
  let m := memAddr s b 16
  let w := s.rdG c.val
  cnGate s false (aligned s m 16 (aligned s w 16 (
    if sidingIdle s s.cur.1 s.cur.2 = false then .wait s
    else readAny s w 16 3 false true (fun s1 bs =>
      let x := ofBytes bs
      let dest : Word := BitVec.ofNat 64 (fld x 0 64)
      aligned s1 dest 64 (kiteOperand s1 dest (checkWindow s1 m 16 false (closeRelease s1 .clu (fun s2 =>
        gather s2 m 16 false (fun s3 => gather s3 dest 64 true (fun s4 => withStore s4 (fun _ =>
          readAny s4 m 16 3 false true (fun s5 ns =>
            if fld (ofBytes ns) 96 32 ≠ 0 then cnTrap s5 2 m
            else if fld x 96 32 ≠ 0 ∨ fld x 64 32 = 0 then cnTrap s5 2 w
            else acceptOut s5 a m (fld (ofBytes ns) 0 96) dest.toNat (fld x 64 32)))))))))))))

/-! ### The instructions -/

def execCopy (h : Hdr) (a : Fin 64) (b : Mem) (s : State) := run h (effCopy a b) s
def execCopyDeal (h : Hdr) (a : Fin 64) (b : Mem) (c : GSrc) (s : State) := run h (effCopyDeal a b c) s
def execCopyResume (h : Hdr) (a : Fin 64) (b : Mem) (c : Fin 64) (s : State) := run h (effCopyResume a b c) s
def execShutQ (h : Hdr) (a b : Fin 64) (s : State) := run h (effShutQ a b) s
def execShutQDrop (h : Hdr) (a b : Fin 64) (s : State) := run h (effShutQDrop a b) s
def execCnOut (h : Hdr) (a : Fin 64) (b : Mem) (c : Fin 64) (s : State) := run h (effCnOut a b c) s

end Sys2Proof.Machine
end

