-- ==== Sys2Proof/Machine/Matrix.lean ====
section
/-! DEFINITION. The matrix engine: opcodes 0x78 and 0x79 with the events of matrix jobs (R104, R336-R352). -/

namespace Sys2Proof.Machine

/-! ### The job record (R338, R339) -/

/-- The fields of one operand: A (false) or B (true). -/
structure MxOp where
  base : Word
  stride : Nat
  desc : Bool
  sfmt : BFmt
  scale : Nat
  grade : Grade
  mask : Nat
  chunk : Nat
  deriving DecidableEq, Repr

def mxBase (r : Nat) (b : Bool) : Word := BitVec.ofNat 64 (fld r (if b then 64 else 0) 64)
def mxDesc (r : Nat) (b : Bool) : Bool := r.testBit (if b then 332 else 331)
def mxStored (r : Nat) (b : Bool) : Nat := fld r (if b then 232 else 224) 8
def mxComp (r : Nat) (b : Bool) : Nat := fld r (if b then 248 else 240) 8
def mxDeal (r : Nat) (b : Bool) : Nat := fld r (if b then 456 else 448) 8
def mxDsz (r : Nat) (b : Bool) : Nat := fld r (if b then 468 else 464) 4

def mxOp (r : Nat) (b : Bool) : MxOp :=
  { base := mxBase r b, stride := fld r (if b then 160 else 128) 32, desc := mxDesc r b
    sfmt := (bfmtOf (mxStored r b)).getD (.flat .f32), scale := fld r (if b then 312 else 304) 8
    grade := BitVec.ofNat 16 (fld r (if b then 288 else 272) 16), mask := mxDeal r b, chunk := 2 ^ (mxDsz r b + 6) }

def mxM (r : Nat) : Nat := 32 * (fld r 192 5 + 1)
def mxN (r : Nat) : Nat := 32 * (fld r 200 5 + 1)
def mxK (r : Nat) : Nat := 48 * (fld r 208 16 + 1)
def mxCols (r : Nat) : Nat := fld r 200 5 + 1
def mxTiles (r : Nat) : Nat := (fld r 192 5 + 1) * (fld r 200 5 + 1)
def mxAcc (r : Nat) : Nat := fld r 320 5
def mxSparse (r : Nat) : Nat := fld r 328 3
def mxBudget (r : Nat) : BitVec 16 := BitVec.ofNat 16 (fld r 256 16)
def mxSat (r : Nat) : Bool := r.testBit 336
def mxShadow (r : Nat) : Nat := fld r 337 2
def mxAfterq (r : Nat) : Nat := fld r 339 2
def mxAfter (r : Nat) : Nat := fld r 352 32

/-- N of an N-of-24 sparse A. -/
def sparseN (k : Nat) : Nat := if k = 4 then 12 else 2 * k + 2

/-- A base outside window addresses is translated (R340). -/
def translatedBase (a : Word) : Bool := wfld a 56 8 != 0xFE
def mxTranslated (r : Nat) : Bool := translatedBase (mxBase r false) || translatedBase (mxBase r true)

/-- A format that an operand or a conversion may have: binary8, BF16 or FP32. -/
def isMxFlat (c : Nat) : Bool :=
  match bfmtOf c with
  | some (.flat (.q _ _)) => true
  | some (.flat .bf16) => true
  | some (.flat .f32) => true
  | some (.flat (.int _)) => false
  | some (.nest _) => false
  | none => false

def isNested (c : Nat) : Bool :=
  match bfmtOf c with
  | some (.nest _) => true
  | some (.flat _) => false
  | none => false

/-- A compute format that a stored format accepts. -/
def compOk (stored comp : Nat) : Bool :=
  if isNested stored then comp == 0
  else comp == 0 || comp == 0xF0 || (isMxFlat comp && decide (codeCredit comp ≤ codeCredit stored))

/-- The job is shadowed (R349). -/
def mxShadows (r : Nat) : Bool := mxShadow r == 1 || (mxShadow r == 0 && mxTranslated r)

/-- An `after` that follows the last identifier of its queue, as a serial number. -/
def afterAhead (s : State) (cl r : Nat) : Bool :=
  let q := mxAfterq r
  (q == 1 || q == 2) &&
    decide ((mxAfter r + 2 ^ 32 - queueNext s cl (if q = 1 then 0 else 1)) % 2 ^ 32 ≤ 2 ^ 31 - 2)

/-- The offsets at fault of one operand. -/
def mxOpOffs (r : Nat) (b : Bool) : List Nat :=
  let base := mxBase r b
  let o (x y : Nat) : Nat := if b then y else x
  need (decide (base.toNat % 64 = 0) && (!mxDesc r b || translatedBase base)) (o 0 64) ++
    need (mxDesc r b || decide (fld r (o 128 160) 32 % 64 = 0)) (o 128 160) ++
    need (isMxFlat (mxStored r b) || isNested (mxStored r b)) (o 224 232) ++
    need (compOk (mxStored r b) (mxComp r b)) (o 240 248) ++
    need (decide (fld r (o 304 312) 8 ≠ 255)) (o 304 312) ++
    lowBitAt r (o 284 300) 3 ++
    need ((mxDeal r b == 0 || decide (wfld base 48 16 = 0xFE00) || decide (wfld base 48 16 = 0xFE01)) &&
      decide (mxDsz r b ≤ 8)) (o 448 456)

/-- The offsets at fault of a job record (R339). -/
def mxOffs (s : State) (cl : Nat) (part : Word) (r : Nat) : List Nat :=
  need (decide (fld r 472 40 = 0)) 472 ++ need (decide (fld r 341 11 = 0)) 341 ++
    need (decide (fld r 325 3 = 0)) 325 ++ need (decide (fld r 205 3 = 0)) 205 ++ need (decide (fld r 197 3 = 0)) 197 ++
    need (decide (mxSparse r ≤ 4) && (mxSparse r == 0 || (!mxDesc r false && mxComp r false != 0x51 &&
      isMxFlat (mxStored r false) && mxStored r false != 0x51))) 328 ++
    need (decide (fld r 333 3 ≠ 7)) 333 ++
    need (decide (mxShadow r ≠ 3) && !(mxShadow r == 2 && mxTranslated r) && (!mxShadows r || partShadow part)) 337 ++
    need (decide (mxAfterq r ≠ 3)) 339 ++ mxOpOffs r false ++ mxOpOffs r true ++ lowBitAt r 268 2 ++
    need (decide (mxAcc r + mxTiles r ≤ partAcc part)) 320 ++ need (!afterAhead s cl r) 352

/-- The compute format of an operand, chosen once per job (R342). -/
def mxFmt (t : Thread) (r : Nat) (b : Bool) : Nat :=
  let c := mxComp r b
  let st := mxStored r b
  if c = 0 then st
  else if c ≠ 0xF0 then c
  else chooseFmt (t.share (mxBudget r) 14 (if b then 1 else 0))
    ([0x23, 0x24, 0x25, 0x26, 0x27, 0x50, 0x51].filter (fun x =>
      decide (codeCredit x < codeCredit st) && !(!b && mxSparse r != 0 && x == 0x51))) codeCredit st

/-! ### Where operands lie (R340, R341) -/

/-- Bytes from a row's start to the end of its packed values, and to the end of its mask words. -/
def mxValueBytes (r : Nat) (b : Bool) : Nat :=
  arrayBytes (mxOp r b).sfmt (if !b && mxSparse r != 0 then mxK r / 24 * sparseN (mxSparse r) else mxK r)

/-- The bytes of a row, as offsets from its start: the values, and the mask words of a sparse A. -/
def mxRowParts (r : Nat) (b : Bool) : List (Nat × Nat) :=
  let v := mxValueBytes r b
  (0, v) :: (if !b && mxSparse r != 0 then [((v + 63) / 64 * 64, 4 * (mxK r / 24))] else [])

/-- A run of operand bytes as pool ranges (core, low, high), split where dealing chunks end (by fuel). -/
def mxSegs (s : State) (c : Nat) (o : MxOp) : Nat → Nat → Nat → List (Nat × Nat × Nat)
  | 0, _, _ => []
  | f + 1, y, n =>
    if n = 0 then []
    else
      let w := (windowAt s c o.base).getD (c, 0)
      let k := if o.mask = 0 then n else min n (o.chunk - y % o.chunk)
      let d := dealByte o.mask o.chunk y
      let tc := match d.1 with
        | some p => peerCore s c p
        | none => w.1
      (tc, w.2 + d.2, w.2 + d.2 + k) :: mxSegs s c o f (y + k) (n - k)

/-- The hull of a pool operand in each pool. -/
def mxHull (s : State) (c r : Nat) (b : Bool) : Hull :=
  let o := mxOp r b
  if translatedBase o.base then []
  else foldUp (if b then mxN r else mxM r) (fun i h =>
    (mxRowParts r b).foldl (fun h p =>
      (mxSegs s c o (p.2 / 64 + 2) (i * o.stride + p.1) p.2).foldl (fun h x => hullAdd h (x.1 + 1, x.2.1, x.2.2)) h) h) []

/-- Operand bytes from offset y of a plain operand. -/
def mxBytes (j : JobRef) (o : MxOp) (y n : Nat) : Act (List Byte) := do
  if translatedBase o.base then engReadN j (n / 64 + 2) ((o.base.toNat + y) % 2 ^ 64) n
  else do
    let s ← get
    (mxSegs s j.core o (n / 64 + 2) y n).foldlM (fun (acc : List Byte) x => do
      let bs ← engPoolRead j x.1 x.2.1 (x.2.2 - x.2.1)
      pure (acc ++ bs)) []

/-! ### Conversion (R343) -/

/-- A converted element: its value, its operand's grade, and whether the conversion was inexact. -/
structure MxElem where
  x : Num
  g : Grade
  inexact : Bool
  deriving DecidableEq, Repr

/-- An element as one number, as the job holds it. -/
def MxElem.pack (e : MxElem) : Nat :=
  let v : Nat := match e.x with
    | .nan sg _ _ => 1 + flagAt sg 2
    | .inf n => 2 + flagAt n 2
    | .fin n m x => flagAt n 2 + (x + 2 ^ 20).toNat % 2 ^ 21 * 2 ^ 20 + m * 2 ^ 41
  v + flagAt e.inexact 3 + e.g.toNat * 2 ^ 4

def MxElem.unpack (v : Nat) : MxElem :=
  { x := if v % 4 = 1 then .nan (v.testBit 2) false 0 else if v % 4 = 2 then .inf (v.testBit 2)
      else .fin (v.testBit 2) (v / 2 ^ 41) ((fld v 20 21 : Int) - 2 ^ 20)
    g := BitVec.ofNat 16 (fld v 4 16), inexact := v.testBit 3 }

/-- An element on its way: its exact value, its grade, and whether a NaN keeps its payload. -/
abbrev MxRaw := Num × Grade × Bool

/-- One row of a plain dense operand. -/
def mxPlainRow (j : JobRef) (o : MxOp) (k i : Nat) : Act (List MxRaw) := do
  let bs ← mxBytes j o (i * o.stride) (arrayBytes o.sfmt k)
  pure ((List.range k).map (fun n =>
    let l := plainLoc o.sfmt n
    ((plainValue o.sfmt n ((bs.drop l.1).take l.2.2.2)).scale ((o.scale : Int) - 127), o.grade, o.sfmt.keeps)))

/-- One row of a described operand: each block of the row is read once. -/
def mxDescRow (j : JobRef) (o : MxOp) (k i : Nat) : Act (List MxRaw) := do
  let n0 := i * o.stride
  let kb := o.sfmt.k
  let q ← (List.range k).foldlM (fun (q : List MxRaw × Option (Nat × Nat)) e => do
    let n := n0 + e
    let b ← (match q.2 with
      | some (bi, b) => if bi = n / kb then pure b else do
          let bs ← engRead j ((o.base.toNat + 64 * (n / kb)) % 2 ^ 64) 64 true
          pure (ofBytes bs)
      | none => do
          let bs ← engRead j ((o.base.toNat + 64 * (n / kb)) % 2 ^ 64) 64 true
          pure (ofBytes bs))
    let v ← blockValue o.sfmt.cls b (n % kb)
    pure (q.1 ++ [v], some (n / kb, b))) (([] : List MxRaw), (none : Option (Nat × Nat)))
  pure q.1

/-- Values laid over the marked positions of a mask; unmarked positions are zero (R341). -/
def spreadMask (zero : MxRaw) (mask : Nat) (vs : List MxRaw) : List MxRaw :=
  ((List.range 24).foldl (fun (q : List MxRaw × List MxRaw) i =>
    if mask.testBit i then (q.1 ++ [q.2.headD zero], q.2.tail) else (q.1 ++ [zero], q.2)) ([], vs)).1

/-- One row of a sparse A. -/
def mxSparseRow (j : JobRef) (o : MxOp) (r i : Nat) : Act (List MxRaw) := do
  let n := sparseN (mxSparse r)
  let groups := mxK r / 24
  let vs ← mxPlainRow j o (groups * n) i
  let ms ← mxBytes j o (i * o.stride + (mxValueBytes r false + 63) / 64 * 64) (4 * groups)
  (List.range groups).foldlM (fun (acc : List MxRaw) g => do
    let m := ofBytes ((ms.drop (4 * g)).take 4)
    if popCount 24 m ≠ n ∨ 2 ^ 24 ≤ m then stop (.code 2 5)
    else pure (acc ++ spreadMask (.fin false 0 0, o.grade, false) m ((vs.drop (g * n)).take n))) []

/-- Convert one element; a nested compute format holds every element as it is stored (log 57). -/
def mxConvert (cf : BFmt) (sat : Bool) (mode : RMode) (e : MxRaw) : MxElem × Flags :=
  match cf with
  | .nest _ => ({ x := e.1, g := e.2.1, inexact := false }, 0)
  | .flat t =>
    let q := roundNum e.1 t mode sat e.2.2
    ({ x := decodeFloat t q.code, g := e.2.1, inexact := q.flags.testBit 0 }, q.flags)

/-- A whole operand, row by row with k fastest; conversion e uses generator e mod 32. -/
def mxOperand (j : MatrixJob) (ref : JobRef) (b : Bool) (gens : List (BitVec 16)) :
    Act (List Nat × Flags × List (BitVec 16)) := do
  let r := j.record
  let o := mxOp r b
  let cf := codeFmt (if b then j.bfmt else j.afmt)
  (List.range (if b then mxN r else mxM r)).foldlM (fun (q : List Nat × Flags × List (BitVec 16)) i => do
    let row ← (if o.desc then mxDescRow ref o (mxK r) i
      else if !b && mxSparse r != 0 then mxSparseRow ref o r i else mxPlainRow ref o (mxK r) i)
    let e0 := (if b then mxM r * mxK r else 0) + i * mxK r
    let c := ((List.range row.length).zip row).foldl (fun (q : List Nat × Flags × List (BitVec 16)) e =>
      let m := resolveMode j.rnd 0 q.2.2 (e0 + e.1)
      let v := mxConvert cf (mxSat r) m.1 e.2
      (v.1.pack :: q.1, q.2.1 ||| v.2, m.2)) (([] : List Nat), q.2.1, q.2.2)
    pure (q.1 ++ c.1.reverse, c.2.1, c.2.2)) (([] : List Nat), (0 : Flags), gens)

/-! ### Accumulation (R104) and grades (R345) -/

/-- One slice of 16 products added to the accumulator: the new code and the flags. -/
def mxSlice (acc : Nat) (xs ys : List MxElem) : Nat × Flags :=
  let ps := (xs.zip ys).map (fun e => mulNum e.1.x e.2.x)
  let sum := sumNum (ps.map Exact.val) .rne
  let t := sumNum [decodeFloat .f32 acc, sum.val] .rne
  let c := roundNum t.val .f32 .rne false false
  (c.code, ps.foldl (fun a p => a ||| p.flags) 0 ||| sum.flags ||| t.flags ||| c.flags)

/-- Every slice of one output element, by fuel (the number of slices). -/
def mxDot : Nat → Nat → List MxElem → List MxElem → Flags → Nat × Flags
  | 0, acc, _, _, fl => (acc, fl)
  | n + 1, acc, xs, ys, fl =>
    let q := mxSlice acc (xs.take 16) (ys.take 16)
    mxDot n q.1 (xs.drop 16) (ys.drop 16) (fl ||| q.2)

/-- What the elements of a row say of grades: the worst operand grade and whether any conversion was inexact. -/
def rowGrade (xs : List MxElem) : Grade × Bool :=
  (xs.foldl (fun g e => gWorse g e.g) gExact, xs.any (fun e => e.inexact))

/-- The grade of an output element. -/
def mxGrade (j : MatrixJob) (a b : Grade × Bool) (inexact : Bool) : Grade :=
  let part (g : Grade × Bool) (f : Nat) (s : Int) : List Int :=
    operandTerm g.1 s ++ (if g.2 then [16 * (codeCredit f : Int) - s] else [])
  gradeOf (!a.1.known || !b.1.known) (part a j.afmt j.sensA ++ part b j.bfmt j.sensB ++ (if inexact then [384] else []))

/-- A 32 by 32 tile: new bytes, flags and worst grade, from its old bytes and the operands. -/
def mxTile (j : MatrixJob) (t : Nat) (old : List Byte) : List Byte × Flags × Grade :=
  let r := j.record
  let k := mxK r
  let rows := (List.range 32).map (fun i => ((j.opA.drop ((32 * (t / mxCols r) + i) * k)).take k).map MxElem.unpack)
  let cols := (List.range 32).map (fun i => ((j.opB.drop ((32 * (t % mxCols r) + i) * k)).take k).map MxElem.unpack)
  let cg := cols.map (fun c => (c, rowGrade c))
  ((List.range 32).zip rows).foldl (fun q row =>
    let rg := rowGrade row.2
    ((List.range 32).zip cg).foldl (fun (q : List Byte × Flags × Grade) c =>
      let w := 4 * (32 * row.1 + c.1)
      let d := mxDot (k / 16) (ofBytes ((old.drop w).take 4)) row.2 c.2.1 0
      (q.1 ++ toBytes 4 d.1, q.2.1 ||| d.2, gWorse q.2.2 (mxGrade j rg c.2.2 (d.2.testBit 0)))) q)
    (([] : List Byte), (0 : Flags), gExact)

/-! ### Choosing and advancing jobs (R336, R347-R350) -/

def setMx (s : State) (cl : Nat) (j : MatrixJob) : State :=
  s.modCluster cl (fun x => { x with mxJobs := AMap.set x.mxJobs j.id j })

def MatrixJob.ref (j : MatrixJob) (cl : Nat) : JobRef := { q := 0, id := j.id, cl := cl, core := j.core, space := j.space }

/-- Start of tile t of a job's accumulator range. -/
def tileOff (s : State) (j : MatrixJob) (t : Nat) : Nat := accStart (s.core j.core).part + 4096 * (j.first + t)

/-- The tile is covered by the shutter of an earlier job, or of another queue (R336, R347). -/
def tileShut (s : State) (cl : Nat) (j : MatrixJob) (t : Nat) : Bool :=
  let lo := tileOff s j t
  let next := (s.cluster cl).mxNext
  (AMap.vals (s.core j.core).shutters).any (fun h => h.closed && !h.global && decide (h.lo < lo + 4096) && decide (lo < h.hi) &&
    (h.queue != 0 || decide (idAge next j.id < idAge next h.id)))

/-- Bytes of a pool copied to another place in it; a poisoned codeword is poisoned there too (R445). -/
def Core.moveBytes (x : Core) (dst src n : Nat) : Core :=
  let y := x.putBytes dst (x.bytes src n)
  let bad := x.poolPoison.filter (fun w => decide (src ≤ w * 8) && decide (w * 8 < src + n))
  { y with poolPoison := bad.foldl (fun l w => insertNat ((w * 8 - src + dst) / 8) l) y.poolPoison }

/-- The tiles copied to the shadow area, or back from it (R349). -/
def mxCopyTiles (s : State) (j : MatrixJob) (back : Bool) : State :=
  s.modCore j.core (fun x =>
    let a := accStart x.part + 4096 * j.first
    let b := poolLimit x.part + 4096 * j.first
    let n := 4096 * j.tiles
    if back then x.moveBytes a b n else x.moveBytes b a n)

/-- The predecessor's state: none while it is pending, else whether it ended with status 1 (R348). -/
def predecessor (s : State) (cl : Nat) (j : MatrixJob) : Option Bool :=
  let q := mxAfterq j.record
  if j.zero.isSome ∨ q = 0 then some true
  else
    let st := fld (jobWord s cl (if q = 1 then 0 else 1) (mxAfter j.record)) 32 3
    if st = 0 then none else some (st == 1)

/-- Read and convert both operands (R343). -/
def mxLoad (j : MatrixJob) (cl : Nat) : Act MatrixJob := do
  let a ← mxOperand j (j.ref cl) false (seedGens j.seed)
  let b ← mxOperand j (j.ref cl) true a.2.2
  pure { j with opA := a.1, opB := b.1, converted := true, flags := a.2.1 ||| b.2.1 }

/-- The job that a stop leaves, with the state. -/
def mxStop (s : State) (cl : Nat) (j : MatrixJob) : Stop → Option State
  | .again => none
  | .poison => some (setMx s cl { j with ended := some (2, 3) })
  | .code st c => some (setMx s cl { j with ended := some (st, c) })
  | .walk va kind st =>
    if serviced st then
      match askService s (32768 + cl * 2) j.space va kind st with
      | (id, s1) => some (setMx s1 cl { j with walk := some id })
    else some (setMx s cl { j with ended := some (2, 0x10 + st) })

/-- The next tile of a converted job. -/
def mxNextTile (s : State) (cl : Nat) (j : MatrixJob) : Option State :=
  let o := tileOff s j j.done
  if tileShut s cl j j.done then none
  else if (s.core j.core).poisoned o 4096 then some (setMx s cl { j with ended := some (2, 3) })
  else
    let q := mxTile j j.done ((s.core j.core).bytes o 4096)
    let s1 := s.modCore j.core (fun x => x.putBytes o q.1)
    some (setMx s1 cl { j with
      done := j.done + 1, flags := j.flags ||| q.2.1, grade := gWorse j.grade q.2.2
      ended := if j.tiles ≤ j.done + 1 then some (1, 0) else none })

/-- The next tile of an acc.zero job (R352). -/
def mxZeroTile (s : State) (cl : Nat) (j : MatrixJob) : Option State :=
  if tileShut s cl j j.done then none
  else
    let o := tileOff s j j.done
    let s1 := s.modCore j.core (fun x => x.putBytes o (List.replicate 4096 0))
    some (setMx s1 cl { j with done := j.done + 1, ended := if j.tiles ≤ j.done + 1 then some (1, 0) else none })

/-- One job at a tile boundary: cancelled, ended by its predecessor, shadowed and converted, or one tile further; or it
steps aside (none). -/
def mxTry (s : State) (cl : Nat) (j : MatrixJob) : Option State :=
  if j.cancel then some (setMx s cl { j with ended := some (4, 0) })
  else if j.walk.isSome then none
  else if j.zero.isSome then mxZeroTile s cl j
  else
    match predecessor s cl j with
    | none => none
    | some false => some (setMx s cl { j with ended := some (2, 6) })
    | some true =>
      if j.converted then mxNextTile s cl j
      else if (List.range j.tiles).any (tileShut s cl j) then none
      else
        let save := mxShadows j.record && !j.shadowed
        let s1 := if save then mxCopyTiles s j false else s
        let j1 := { j with shadowed := j.shadowed || save }
        match mxLoad j1 cl s1 with
        | .ok (j2, s2) => some (setMx s2 cl j2)
        | .error e => mxStop s1 cl j1 e

/-- Jobs without a final status: earliest deadline first, then lowest identifier. -/
def mxOrder (s : State) (cl : Nat) : List MatrixJob :=
  sortBy (fun j => j.deadline * 2 ^ 32 + j.id)
    ((AMap.vals (s.cluster cl).mxJobs).filter (fun j => j.status == 0 && j.ended.isNone))

/-- The job that the engine works on: the first in order that does not step aside. -/
def mxChoice (s : State) (cl : Nat) : Option MatrixJob := (mxOrder s cl).find? (fun j => (mxTry s cl j).isSome)

def mxStep (s : State) (cl : Nat) : Option State := (mxChoice s cl).bind (mxTry s cl)

/-- A released walk: the tiles come back from the shadow and the whole job replays (R349). -/
def mxReplay (s : State) (cl : Nat) (j : MatrixJob) : State :=
  let s1 := if j.shadowed then mxCopyTiles s j true else s
  setMx s1 cl { j with walk := none, done := 0, converted := false, opA := [], opB := [], flags := 0, grade := gExact }

/-- The walk of a job is released. -/
def mxReleased (s : State) (j : MatrixJob) : Bool :=
  j.status == 0 && j.ended.isNone && (match j.walk with
    | some id => (AMap.get s.mem.walks id).isNone
    | none => false)

/-- M17 of a matrix job: a declined walk restores the tiles, and the shutter opens (R346-R349). -/
def mxFinal (s : State) (cl : Nat) (j : MatrixJob) (st code : Nat) : State :=
  let s1 := if st = 3 ∧ j.shadowed then mxCopyTiles s j true else s
  let s2 := setMx s1 cl { j with
    status := st, code := code, ended := none, walk := none, done := if st = 3 then 0 else j.done, opA := [], opB := []
    need := if j.zero.isSome then 0 else needOf j.grade (mxBudget j.record) }
  let s3 := s2.modCore j.core (fun x => { x with
    shutters := x.shutters.filter (fun e => !(e.2.queue == 0 && e.2.id == j.id)) })
  if j.zero.isSome then s3 else jobBarrier s3 j.core (BitVec.ofNat 64 (fld j.record 384 64))

/-! ### Submission (R351, R352) -/

/-- A fresh job of the acting thread. Its mode, formats and sensitivities are those of its acceptance (DESIGN CHOICE, log 106); a job
over no tile, which a negative count of `acc.zero` makes, has ended (log 58). -/
def newMx (s : State) (id r : Nat) (m : Word) (first tiles : Nat) (zero : Option (Nat × Nat)) : MatrixJob :=
  let t := s.me
  { id := id, core := s.cur.1, slot := s.cur.2, space := t.place.spaceid, keyslot := t.place.keyslot,
    launch := t.place.launch, node := t.place.node, deadline := t.place.deadline.toNat, record := r, recAddr := m.toNat,
    rnd := if fld r 333 3 = 6 then t.ctl.frm.toNat else fld r 333 3, zero := zero, first := first, tiles := tiles,
    done := 0, afmt := if zero.isSome then 0 else mxFmt t r false, bfmt := if zero.isSome then 0 else mxFmt t r true,
    seed := t.ctl.srseed, opA := [], opB := [], converted := false, flags := 0, grade := gExact, need := 0, status := 0,
    code := 0, ended := if tiles = 0 then some (1, 0) else none, cancel := false, walk := none, shadowed := false, sensA := t.sensOf 14 0,
    sensB := t.sensOf 14 1 }

/-- Accept a matrix or acc.zero job, or park while the queue is full or no shutter is open. -/
def acceptMx (s : State) (a : Fin 64) (r : Nat) (m : Word) (first tiles : Nat) (zero : Option (Nat × Nat)) : Eff :=
  let cl := clusterOf s.cur.1
  let id := (s.cluster cl).mxNext
  let lo := accStart s.myCore.part + 4096 * first
  let h : Shutter := { closed := true, global := false, lo := lo, hi := lo + 4096 * tiles, queue := 0, id := id,
                       pos := posOf s.cur.1 }
  if 16 ≤ pendingJobs s cl 0 ∨ !shuttersFree s [(s.cur.1, h)] then .park s .jobQueue
  else
    let s1 := (closeShutter s s.cur.1 h).2
    let j := newMx s id r m first tiles zero
    let s2 := s1.modCluster cl (fun x =>
      let next := (x.mxNext + 1) % 2 ^ 32
      { x with mxNext := next, mxJobs := AMap.set (pruneMx next x.mxJobs) id j })
    .ok ((rememberJob s2 0 id).wrG a.val (BitVec.ofNat 64 id))

/-- The first base in a window that is neither 0 nor 1, or with a reserved address bit (R231, R340). -/
def mxBadBase (r : Nat) : Option Word :=
  [mxBase r false, mxBase r true].find? (fun a => match decodeAddr a with
    | .own _ => false
    | .peer _ _ => false
    | .view _ _ => true
    | .badWindow _ => true
    | .global => false
    | .nonCanon => false)

def effMx (a : Fin 64) (b : Mem) (s : State) : Eff :=
  let m := memAddr s b 8
  notTolerant s (aligned s m 64 (
    if sidingIdle s s.cur.1 s.cur.2 = false then .wait s
    else closeRelease s .clu (fun s1 => readRecord s1 m 64 (fun s2 bs =>
      let r := ofBytes bs
      match (mxOffs s2 (clusterOf s2.cur.1) s2.myCore.part r).min? with
      | some o => .failAt s2 0x0F m o
      | none =>
        if (isNested (mxStored r false) || isNested (mxStored r true)) && !(s2.me.place.feat.getLsbD 14) then
          .fail s2 0x15 14
        else if mxSparse r ≠ 0 ∧ s2.me.place.feat.getLsbD 15 = false then .fail s2 0x15 15
        else match mxBadBase r with
          | some w => .trap s2 (windowTrap w)
          | none =>
            match checkRanges s2 (poolRanges (mxHull s2 s2.cur.1 r false) ++ poolRanges (mxHull s2 s2.cur.1 r true)) with
            | some t => .trap s2 t
            | none => checkBarrier s2 (BitVec.ofNat 64 (fld r 384 64)) (acceptMx s2 a r m (mxAcc r) (mxTiles r) none)))))

def effAccZero (a : Fin 64) (b c : GSrc) (s : State) : Eff :=
  let t := signed (readGSrc s b)
  let n := signed (readGSrc s c)
  if n = 0 ∨ t < 0 ∨ (partAcc s.myCore.part : Int) < t + n then
    .failAt s 0x0A (winAddr (accStart s.myCore.part) + wordOf (4096 * t)) 0
  else if sidingIdle s s.cur.1 s.cur.2 = false then .wait s
  else acceptMx s a 0 0 t.toNat n.toNat (some (t.toNat, n.toNat))

def execMx (h : Hdr) (a : Fin 64) (b : Mem) (s : State) := run h (effMx a b) s
def execAccZero (h : Hdr) (a : Fin 64) (b c : GSrc) (s : State) := run h (effAccZero a b c) s

/-! ### The events of the engine -/

/-- Apply an action to a listed matrix job. -/
def onMx (s : State) (cl id : Nat) (f : MatrixJob → State) : State :=
  match AMap.get (s.cluster cl).mxJobs id with
  | some j => f j
  | none => s

def execMatrixTile (cluster : Nat) (s : State) : Host.Outcome State Fault Refusal :=
  onUnit (isCluster cluster) ((mxStep s cluster).getD s)

def execMatrixJobFinal (cluster id : Nat) (s : State) : Host.Outcome State Fault Refusal :=
  onUnit (isCluster cluster) (onMx s cluster id (fun j =>
    match j.ended with
    | some e => if j.status = 0 then mxFinal s cluster j e.1 e.2 else s
    | none => s))

def execMatrixShadowReplay (cluster id : Nat) (s : State) : Host.Outcome State Fault Refusal :=
  onUnit (isCluster cluster) (onMx s cluster id (fun j => if mxReleased s j then mxReplay s cluster j else s))

def execAccZeroJob (cluster id : Nat) (s : State) : Host.Outcome State Fault Refusal :=
  onUnit (isCluster cluster) (onMx s cluster id (fun j =>
    if j.zero.isSome && (mxChoice s cluster).map MatrixJob.id == some id then (mxTry s cluster j).getD s else s))

end Sys2Proof.Machine
end

