-- ==== Sys2Proof/Machine/Lanes.lean ====
section
/-! DEFINITION. Packets of the vector siding: lanes, streams, delivery of results with their grades, and what one
packet of each vector instruction does (R105, R107, R311-R313, R316-R334, R401). -/

namespace Sys2Proof.Machine

open Sys2Proof

/-! ### Types as lanes (R311, R312) -/

def vWidth : VTy → Nat
  | .int t => t.width
  | .f32 => 32
  | .bf16 => 16
  | .q _ _ => 8
  | .i4 => 4
  | .x _ => 32

def vFmt : VTy → Fmt
  | .int t => .int t.width
  | .f32 => .f32
  | .bf16 => .bf16
  | .q v p => .q v (p.val + 1)
  | .i4 => .int 4
  | .x _ => .f32

def vIsInt : VTy → Bool
  | .int _ => true
  | .i4 => true
  | .f32 => false
  | .bf16 => false
  | .q _ _ => false
  | .x _ => false

def vIsX : VTy → Bool
  | .x _ => true
  | .int _ => false
  | .f32 => false
  | .bf16 => false
  | .q _ _ => false
  | .i4 => false

/-- Formats whose NaN payload a conversion keeps (R103). -/
def vKeeps (t : VTy) : Bool := (BFmt.flat (vFmt t)).keeps

/-- The wide counterpart of a narrow type (R329). -/
def vWide : VTy → VTy
  | .int .i64 => .int .i64
  | .int .i32 => .int .i64
  | .int .i16 => .int .i32
  | .int .i8 => .int .i16
  | .i4 => .int .i8
  | .bf16 => .f32
  | .q _ _ => .bf16
  | .f32 => .f32
  | .x b => .x b

def lanesOf (n : Nat) (x : Lanes) : List Nat := (List.range (256 / n)).map (fun i => fld x.toNat (n * i) n)
def joinLanes (n : Nat) (xs : List Nat) : Lanes :=
  BitVec.ofNat 256 ((xs.foldl (fun (q : Nat × Nat) x => (q.1 + x % 2 ^ n * 2 ^ q.2, q.2 + n)) (0, 0)).1)

/-! ### Actions of a packet -/

/-- An action of a packet: one that must wait gives nothing and changes nothing. -/
abbrev Pk (α : Type) := StateT State Option α

def pkWait {α : Type} : Pk α := fun _ => none
def pkMod (f : State → State) : Pk Unit := fun s => some ((), f s)

/-- The thread a packet belongs to. -/
def pkThread (c k : Nat) : Pk Thread := fun s => some (s.thread c k, s)

def pkRaise (c k : Nat) (f : Flags) : Pk Unit :=
  if f = 0 then pure () else pkMod (fun s => s.modThread c k (fun t => t.raise f))

/-- The mode of one rounding of a lane: mode 5 steps generator `lane` mod 32 (R102). -/
def pkMode (c k : Nat) (r lane : Nat) : Pk RMode := fun s =>
  let t := s.thread c k
  let q := resolveMode r t.ctl.frm.toNat t.gens lane
  some (q.1, if q.2 = t.gens then s else s.modThread c k (fun t => { t with gens := q.2 }))

/-- Hold the first deferred fault of the slot (R321, R401). -/
def pkPoison (c k cause : Nat) (a : Word) : Pk Unit :=
  pkMod (fun s => s.modThread c k (fun t => if t.ppoison.isSome then t else { t with ppoison := some (cause, a) }))

/-! ### Streams (R316-R321) -/

def sdBase (d : Nat) : Nat := fld d 0 32
def sdStride (d i : Nat) : Int := sextI (fld d (32 + 32 * i) 32) 32
def sdCount (d i : Nat) : Nat := fld d (160 + 16 * i) 16
def sdPush (d : Nat) : Bool := d.testBit 224
def sdTags (d : Nat) : Bool := d.testBit 225
def sdGrade (d : Nat) : BitVec 16 := BitVec.ofNat 16 (fld d 240 16) &&& 0x8FFF

/-- Pool offset of the packet at a stream's position. -/
def Stream.off (x : Stream) : Nat :=
  ((sdBase x.desc : Int) + (x.i0 : Int) * sdStride x.desc 0 + (x.i1 : Int) * sdStride x.desc 1 +
    (x.i2 : Int) * sdStride x.desc 2 + (x.i3 : Int) * sdStride x.desc 3).toNat

/-- The next position, i0 fastest; after the last packet the first. -/
def Stream.advance (x : Stream) : Stream :=
  if x.i0 < sdCount x.desc 0 then { x with i0 := x.i0 + 1 }
  else if x.i1 < sdCount x.desc 1 then { x with i0 := 0, i1 := x.i1 + 1 }
  else if x.i2 < sdCount x.desc 2 then { x with i0 := 0, i1 := 0, i2 := x.i2 + 1 }
  else if x.i3 < sdCount x.desc 3 then { x with i0 := 0, i1 := 0, i2 := 0, i3 := x.i3 + 1 }
  else { x with i0 := 0, i1 := 0, i2 := 0, i3 := 0 }

/-- The stream bound to a register. -/
def boundStream (t : Thread) (r : Nat) : Option Stream :=
  match AMap.get t.streams r with
  | some x => if x.bound then some x else none
  | none => none

def setStream (c k r : Nat) (x : Stream) : Pk Unit :=
  pkMod (fun s => s.modThread c k (fun t => { t with streams := AMap.set t.streams r x }))

/-- The first poisoned address of a packet. -/
def poisonAt (x : Core) (o : Nat) : Nat :=
  (((List.range 32).find? (fun i => x.poisoned (o + i) 1)).getD 0) + o

/-- The entry of the slot that issues was handed off at user privilege. -/
def userWork (s : State) (c k : Nat) : Bool :=
  match (s.core c).seq.find? (fun e => e.slot == k) with
  | some e => !e.priv
  | none => true

/-- A pop in an open tolerant region of a line that the pass has written is a deferred fault (R122; log 59). -/
def pkTolPop (c k o : Nat) : Pk Unit := do
  let s ← get
  if userWork s c k && tolReadBy (s.thread c k) c o 32 then pkPoison c k (0x0D + 256 * 1) (winAddr o) else pure ()

/-- A push in an open tolerant region enters the lines that it writes in the written-line set; past 64 lines it is a
deferred fault (R121, R122; log 59). -/
def pkTolPush (c k o : Nat) : Pk Unit := do
  let s ← get
  if userWork s c k then
    [o / 64 * 64, (o + 31) / 64 * 64].forM (fun l => do
      let s ← get
      match tolWriteBy s c k c l with
      | some s1 => set s1
      | none => pkPoison c k (0x0D + 256 * 3) (winAddr l))
  else pure ()

/-- Read v_r: a bound pop stream pops one packet. `bad` are the lanes that a poisoned packet reads as. -/
def pkRead (c k r : Nat) (bad : Lanes) : Pk VVal := do
  let t ← pkThread c k
  match boundStream t r with
  | none => pure (t.rdV r)
  | some x =>
    if sdPush x.desc then pure (x.last.getD (t.rdV r))
    else do
      let o := x.off
      let s ← get
      let y := s.core c
      if poolShut y o 32 || (sdTags x.desc && !y.allFull o 32) then pkWait
      else do
        let v : VVal := if y.poisoned o 32 then { bits := bad, grade := gUnknown }
          else { bits := BitVec.ofNat 256 (y.num o 32), grade := sdGrade x.desc }
        pkTolPop c k o
        if y.poisoned o 32 then pkPoison c k 0x11 (winAddr (poisonAt y o)) else pure ()
        if sdTags x.desc then pkMod (fun s => setTagsWake s c o 32 false) else pure ()
        setStream c k r { x.advance with last := some v }
        pure v

/-- Write v_r: a bound push stream pushes, a bound pop stream discards. -/
def pkWrite (c k r : Nat) (v : VVal) : Pk Unit := do
  let t ← pkThread c k
  match boundStream t r with
  | none => pkMod (fun s => s.modThread c k (fun t => t.wrV r v))
  | some x =>
    if sdPush x.desc then do
      let o := x.off
      let s ← get
      if poolShut (s.core c) o 32 || (sdTags x.desc && !(s.core c).allEmpty o 32) then pkWait
      else do
        pkTolPush c k o
        pkMod (fun s => s.modCore c (fun y => y.putNum o 32 v.bits.toNat))
        if sdTags x.desc then pkMod (fun s => setTagsWake s c o 32 true) else pure ()
        setStream c k r { x.advance with last := some v }
    else pure ()

/-- The lanes that a poisoned packet gives a type: the canonical NaN, or 0 for integers (R321). -/
def badLanes (t : VTy) : Lanes :=
  if vIsInt t then 0 else joinLanes (vWidth t) (List.replicate (256 / vWidth t) (nanCode (vFmt t)))

/-- Read each named register once. -/
def pkReads (c k : Nat) (bad : Lanes) (rs : List Nat) : Pk (AMap VVal) :=
  rs.foldlM (fun (m : AMap VVal) r => do
    match AMap.get m r with
    | some _ => pure m
    | none => do
      let v ← pkRead c k r bad
      pure (AMap.set m r v)) []

def vSrcRegs : VSrc → List Nat
  | .v r => [r.val]
  | .g _ => []
  | .imm _ => []

def vgSrc : VGSrc → VSrc
  | .v r => .v r
  | .g r => .g r

/-- A source as lanes with its grade: a g value or an immediate goes to every lane and is exact (R313, R325). -/
structure Opnd where
  lanes : List Nat
  g : Grade
  deriving DecidableEq, Repr

def opndV (n : Nat) (m : AMap VVal) (r : Nat) : Opnd :=
  let v := AMap.getD m r VVal.zero
  { lanes := lanesOf n v.bits, g := v.grade }

def opndOf (n : Nat) (m : AMap VVal) (x : VSrc) (w : Word) : Opnd :=
  match x with
  | .v r => opndV n m r.val
  | .g _ => { lanes := List.replicate (256 / n) (w.toNat % 2 ^ n), g := gExact }
  | .imm _ => { lanes := List.replicate (256 / n) (w.toNat % 2 ^ n), g := gExact }

def Opnd.at (x : Opnd) (i : Nat) : Nat := x.lanes.getD i 0

/-! ### Delivering a lane (R117, R118, R312, R313, R327) -/

/-- What an instruction fixes for its results: its type, chosen format, mode field and sat. -/
structure VEnv where
  t : VTy
  chosen : Fmt
  rnd : Nat
  sat : Bool
  deriving DecidableEq, Repr

/-- The format chosen under a share (R115, R312). -/
def vChosen (t : VTy) (bud : Word) : Fmt :=
  if vIsX t then
    match bfmtOf (chooseFmt (bud.setWidth 16) [0x24, 0x50, 0x51] codeCredit 0x51) with
    | some (.flat f) => f
    | some (.nest _) => .f32
    | none => .f32
  else vFmt t

def vEnv (t : VTy) (r : Nat) (sat : Bool) (bud : Word) : VEnv := { t := t, chosen := vChosen t bud, rnd := r, sat := sat }

/-- A delivered lane: code, flags, and its value. -/
structure Lane where
  code : Nat
  flags : Flags
  val : Num
  deriving DecidableEq, Repr

/-- Round into the type: the chosen format widened to f32 under type 12. -/
def roundLane (v : VEnv) (m : RMode) (keep : Bool) (x : Num) : Lane :=
  let q := roundNum x v.chosen m v.sat keep
  let y := decodeFloat v.chosen q.code
  if vIsX v.t then { code := (roundNum y .f32 .rne false true).code, flags := q.flags, val := y }
  else { code := q.code, flags := q.flags, val := y }

/-- An integer result: wrapped, or clamped under sat. -/
def intLane (v : VEnv) (x : Int) : Lane :=
  let n := vWidth v.t
  let r : Int × Flags := if v.sat then satInt n x else (x, 0)
  let c := (r.1 % (2 ^ n : Int)).toNat
  { code := c, flags := r.2, val := .ofInt (sextI c n) }

/-- A lane of an arithmetic result. -/
def deliver (v : VEnv) (m : RMode) (x : Num) : Lane :=
  if vIsInt v.t then intLane v (signedAt 0 x) else roundLane v m false x

/-- The own term of arithmetic: present when the value differs from the exact result; integers have none (R313). -/
def ownTerm (v : VEnv) (x : Num) (l : Lane) : List Int :=
  if vIsInt v.t || numSame x l.val then [] else [16 * (v.chosen.credit : Int)]

/-- An operand for a grade: its grade, its number in the class, and its measured sensitivity. -/
structure GOp where
  g : Grade
  j : Nat
  m : Option Int
  deriving DecidableEq, Repr

/-- R118: the measured sensitivity of an addend against the exact sum. -/
def measured (x c : Num) : Option Int :=
  match x, c with
  | .fin _ a e, .fin _ b f =>
    if a = 0 then some 0 else if b = 0 then some 4095 else some (16 * (expOf a e - expOf b f))
  | _, _ => none

/-- R117 with class k. -/
def classGrade (t : Thread) (k : Nat) (ops : List GOp) (own : List Int) : Grade :=
  gradeOf (ops.any (fun o => !o.g.known)) (ops.flatMap (fun o =>
    operandTerm o.g (match o.m with
      | some m => max (t.sensOf k o.j) m
      | none => t.sensOf k o.j)) ++ own)

/-- The greatest deficit of the addends, if one makes the result short. -/
def deficitOf (t : Thread) (k : Nat) (ops : List GOp) : Option Int :=
  ops.foldl (fun (d : Option Int) o =>
    match o.m with
    | some m =>
      let x := m - t.sensOf k o.j - t.tol.tight
      if !o.g.exact && decide (16 < x) then some (max x (d.getD 0)) else d
    | none => d) none

/-- Record a short result inside an open tolerant region; an exact pass is never short (R123). -/
def pkShort (c k cls : Nat) (ops : List GOp) : Pk Unit :=
  pkMod (fun s =>
    let t := s.thread c k
    match deficitOf t cls ops with
    | some d =>
      if t.tol.isOpen && !t.tol.exactpass then s.modThread c k (fun t => { t with tol := { t.tol with
        short := true, deficit := max t.tol.deficit (min d 4095).toNat } })
      else s
    | none => s)

/-- A lane and its grade. -/
abbrev LaneG := Nat × Grade

/-- Deliver an exact result to a lane and grade it. -/
def pkLane (c k : Nat) (v : VEnv) (lane cls : Nat) (ex : RMode → Exact) (ops : Num → List GOp) : Pk LaneG := do
  let m ← pkMode c k v.rnd lane
  let e := ex m
  let l := deliver v m e.val
  pkRaise c k (e.flags ||| l.flags)
  pkShort c k cls (ops e.val)
  let t ← pkThread c k
  pure (l.code, classGrade t cls (ops e.val) (ownTerm v e.val l))

/-- Write whole lanes; the tag is the worst grade. -/
def pkPut (c k n a : Nat) (ls : List LaneG) : Pk Unit :=
  pkWrite c k a { bits := joinLanes n (ls.map Prod.fst), grade := ls.foldl (fun g l => gWorse g l.2) gExact }

/-- The lanes of a vector result, one by one. -/
def pkLanes (n : Nat) (f : Nat → Pk LaneG) : Pk (List LaneG) := (List.range (256 / n)).mapM f

/-! ### Lane-wise arithmetic (R327) -/

/-- Which sum or product. -/
inductive VArith where
  | add | sub | mul | fma | fms | nfma
  deriving DecidableEq, Repr

/-- The exact result of one lane. -/
def arithExact (op : VArith) (a b c : Num) (m : RMode) : Exact :=
  let fused (p : Num → Num) (q : Num → Num) : Exact :=
    let x := mulNum b c
    let y := sumNum [p x.val, q a] m
    { val := y.val, flags := x.flags ||| y.flags ||| sigFlag [a] }
  match op with
  | .add => sumNum [b, c] m
  | .sub => sumNum [b, c.neg] m
  | .mul => mulNum b c
  | .fma => fused id id
  | .fms => fused id Num.neg
  | .nfma => fused Num.neg id

def arithClass : VArith → Nat
  | .add => 1 | .sub => 1 | .mul => 2 | .fma => 3 | .fms => 3 | .nfma => 3

/-- The operands of a lane for its grade. -/
def arithOps (op : VArith) (ga gb gc : Grade) (a b c x : Num) : List GOp :=
  let fused : List GOp :=
    let m := measured (mulNum b c).val x
    [{ g := gb, j := 0, m := m }, { g := gc, j := 1, m := m }, { g := ga, j := 2, m := measured a x }]
  match op with
  | .add => [{ g := gb, j := 0, m := measured b x }, { g := gc, j := 1, m := measured c x }]
  | .sub => [{ g := gb, j := 0, m := measured b x }, { g := gc, j := 1, m := measured c x }]
  | .mul => [{ g := gb, j := 0, m := none }, { g := gc, j := 1, m := none }]
  | .fma => fused
  | .fms => fused
  | .nfma => fused

def isFused : VArith → Bool
  | .add => false | .sub => false | .mul => false | .fma => true | .fms => true | .nfma => true

def pkArith (c k : Nat) (op : VArith) (v : VEnv) (a b : Nat) (y : VSrc) (w : Word) : Pk Unit := do
  let n := vWidth v.t
  let m ← pkReads c k (badLanes v.t) ((if isFused op then [a] else []) ++ [b] ++ vSrcRegs y)
  let xa := opndV n m a
  let xb := opndV n m b
  let xc := opndOf n m y w
  let d (o : Opnd) (i : Nat) : Num := decodeFloat (vFmt v.t) (o.at i)
  let ls ← pkLanes n (fun i => pkLane c k v i (arithClass op) (arithExact op (d xa i) (d xb i) (d xc i))
    (fun x => arithOps op xa.g xb.g xc.g (d xa i) (d xb i) (d xc i) x))
  pkPut c k n a ls

/-- `vmin` and `vmax`: no rounding under type 12 (R312). -/
def pkMinMax (c k : Nat) (isMax uns : Bool) (v : VEnv) (a b : Nat) (y : VSrc) (w : Word) : Pk Unit := do
  let n := vWidth v.t
  let m ← pkReads c k (badLanes v.t) (b :: vSrcRegs y)
  let xb := opndV n m b
  let xc := opndOf n m y w
  let t ← pkThread c k
  let g := classGrade t 5 [{ g := xb.g, j := 0, m := none }, { g := xc.g, j := 1, m := none }] []
  let ls ← pkLanes n (fun i => do
    if vIsInt v.t then
      let p (x : Nat) : Int := if uns then (x : Int) else sextI x n
      pure (if decide (p (xb.at i) < p (xc.at i)) == isMax then xc.at i else xb.at i, g)
    else do
      let e := minMaxNum isMax (decodeFloat (vFmt v.t) (xb.at i)) (decodeFloat (vFmt v.t) (xc.at i))
      pkRaise c k e.flags
      pure ((roundNum e.val (vFmt v.t) .rne false false).code, g))
  pkPut c k n a ls

/-- `vabs` and `vneg`. -/
def pkAbsNeg (c k : Nat) (isNeg : Bool) (v : VEnv) (a b : Nat) : Pk Unit := do
  let n := vWidth v.t
  let m ← pkReads c k (badLanes v.t) [b]
  let xb := opndV n m b
  let t ← pkThread c k
  let g := classGrade t 5 [{ g := xb.g, j := 0, m := none }] []
  let top := 2 ^ (n - 1)
  let flip (x : Nat) : Nat := if isNeg then (x + top) % 2 ^ n else x % top
  let ls ← pkLanes n (fun i => do
    let x := xb.at i
    match v.t with
    | .int _ => do
      let s := sextI x n
      let l := intLane v (if isNeg then -s else if s < 0 then -s else s)
      pkRaise c k l.flags
      pure (l.code, g)
    | .q q _ => pure (if q.uns || decide (x % top = 0) then x else flip x, g)
    | .f32 => pure (flip x, g)
    | .bf16 => pure (flip x, g)
    | .x _ => pure (flip x, g)
    | .i4 => pure (x, g))
  pkPut c k n a ls

/-! ### Conversions (R328, R329) -/

/-- One converted lane: an integer that differs from its exact result is unknown (R117). A mode 5 steps the generator of
the lane for every destination type, integer sources included (R102, R324; DESIGN CHOICE, log 105). -/
def pkConvert (c k : Nat) (v : VEnv) (lane : Nat) (src : VTy) (code : Nat) (g : Grade) : Pk LaneG := do
  let m ← pkMode c k v.rnd lane
  let x := decodeFloat (vFmt src) code
  let l := roundLane v m (vKeeps src) x
  pkRaise c k l.flags
  let t ← pkThread c k
  let same := numSame x l.val
  pure (l.code, if vIsInt v.t && !same then gUnknown
    else classGrade t 0 [{ g := g, j := 0, m := none }] (if same then [] else [16 * (v.chosen.credit : Int)]))

def pkCvt (c k : Nat) (v : VEnv) (a b : Nat) (src : VTy) : Pk Unit := do
  let n := vWidth v.t
  let m ← pkReads c k (badLanes src) [b]
  let xb := opndV n m b
  let ls ← pkLanes n (fun i => pkConvert c k v i src (xb.at i) xb.g)
  pkPut c k n a ls

/-- One packed lane: an integer takes the low bits of its wide lane, or the clamp, with no own term (R313, R327, R329). -/
def pkPackLane (c k : Nat) (v : VEnv) (lane code : Nat) (g : Grade) : Pk LaneG :=
  if vIsInt v.t then do
    let l := intLane v (sextI code (2 * vWidth v.t))
    pkRaise c k l.flags
    let t ← pkThread c k
    pure (l.code, classGrade t 0 [{ g := g, j := 0, m := none }] [])
  else pkConvert c k v lane (vWide v.t) code g

def pkPack (c k : Nat) (v : VEnv) (a b y : Nat) : Pk Unit := do
  let n := vWidth v.t
  let wide := vWide v.t
  let m ← pkReads c k (badLanes wide) [b, y]
  let xb := opndV (2 * n) m b
  let xc := opndV (2 * n) m y
  let half := 256 / n / 2
  let ls ← pkLanes n (fun i =>
    if i < half then pkPackLane c k v i (xb.at i) xb.g else pkPackLane c k v i (xc.at (i - half)) xc.g)
  pkPut c k n a ls

def pkUnpack (c k : Nat) (v : VEnv) (a b : Nat) (src : VTy) (hi : Bool) : Pk Unit := do
  let n := vWidth v.t
  let m ← pkReads c k (badLanes src) [b]
  let xb := opndV (vWidth src) m b
  let base := if hi then 256 / n else 0
  let ls ← pkLanes n (fun i => pkConvert c k { v with rnd := 0, sat := false } i src (xb.at (base + i)) xb.g)
  pkPut c k n a ls

/-! ### Comparison, selection, logic, shifts, moves (R327, R330) -/

/-- A condition on two floating values: a NaN makes every one but .ne false. -/
def condNum (n : Cond) (x y : Num) : Bool :=
  let un := x.isNaN || y.isNaN
  match n with
  | .eq => x.eqv y
  | .ne => un || !x.eqv y
  | .lt => x.lt y
  | .le => !un && !y.lt x
  | .gt => y.lt x
  | .ge => !un && !x.lt y
  | .tst => false

def condInt (n : Cond) (x y : Int) (bits : Bool) : Bool :=
  match n with
  | .eq => decide (x = y)
  | .ne => decide (x ≠ y)
  | .lt => decide (x < y)
  | .le => decide (x ≤ y)
  | .gt => decide (y < x)
  | .ge => decide (y ≤ x)
  | .tst => bits

/-- The type of a `vcmp` lane; the order of binary8 codes does not depend on the precision (R324). -/
def cmpTy : CTy → VTy
  | .int t => .int t
  | .f32 => .f32
  | .bf16 => .bf16
  | .q v => .q v 3

def pkCmp (c k : Nat) (t : VTy) (cond : Cond) (uns : Bool) (a b : Nat) (y : VSrc) (w : Word) : Pk Unit := do
  let n := vWidth t
  let m ← pkReads c k (badLanes t) (b :: vSrcRegs y)
  let xb := opndV n m b
  let xc := opndOf n m y w
  let ls ← pkLanes n (fun i => do
    let p := xb.at i
    let q := xc.at i
    let holds ← (if vIsInt t then
        pure (condInt cond (if uns then (p : Int) else sextI p n) (if uns then (q : Int) else sextI q n) (p &&& q != 0))
      else do
        let x := decodeFloat (vFmt t) p
        let z := decodeFloat (vFmt t) q
        pkRaise c k (sigFlag [x, z])
        pure (condNum cond x z))
    pure (if holds then 2 ^ n - 1 else 0, gExact))
  pkPut c k n a ls

def pkSel (c k : Nat) (t : VTy) (a b : Nat) (y : VSrc) (w : Word) : Pk Unit := do
  let n := vWidth t
  let m ← pkReads c k (badLanes t) ([a, b] ++ vSrcRegs y)
  let xa := opndV n m a
  let xb := opndV n m b
  let xc := opndOf n m y w
  let ls ← pkLanes n (fun i => pure (if xa.at i ≠ 0 then (xb.at i, xb.g) else (xc.at i, xc.g)))
  pkPut c k n a ls

def pkLogic (c k : Nat) (f : Nat → Nat → Nat) (a b : Nat) (y : VSrc) (w : Word) : Pk Unit := do
  let m ← pkReads c k 0 (b :: vSrcRegs y)
  let xb := opndV 64 m b
  let xc := opndOf 64 m y w
  let ls ← pkLanes 64 (fun i => pure (f (xb.at i) (xc.at i), gWorse xb.g xc.g))
  pkPut c k 64 a ls

def pkShift (c k : Nat) (left uns : Bool) (v : VEnv) (a b : Nat) (y : VSrc) (w : Word) : Pk Unit := do
  let n := vWidth v.t
  let m ← pkReads c k 0 (b :: vSrcRegs y)
  let xb := opndV n m b
  let xc := opndOf n m y w
  let ls ← pkLanes n (fun i => do
    let sh := xc.at i % n
    let x : Int := if left || !uns then sextI (xb.at i) n else (xb.at i : Int)
    let l := intLane v (if left then x * 2 ^ sh else x / 2 ^ sh)
    pkRaise c k l.flags
    pure (l.code, xb.g))
  pkPut c k n a ls

def pkPerm (c k : Nat) (t : VTy) (a b y : Nat) : Pk Unit := do
  let n := vWidth t
  let m ← pkReads c k (badLanes t) [b, y]
  let xb := opndV n m b
  let xc := opndV n m y
  let ls ← pkLanes n (fun i => pure (xb.at (xc.at i % (256 / n)), xb.g))
  pkPut c k n a ls

/-- `vbcast`: a lane's grade is that of the lane it came from, under class 0 (R111, R117, R313; log 63). -/
def pkBcast (c k : Nat) (t : VTy) (a : Nat) (o : BcastOp) (w : Word) : Pk Unit := do
  let n := vWidth t
  match o with
  | .fromG _ => do
    let ls ← pkLanes n (fun _ => pure (w.toNat % 2 ^ n, gExact))
    pkPut c k n a ls
  | .fromV b _ => do
    let m ← pkReads c k (badLanes t) [b.val]
    let xb := opndV n m b.val
    let t ← pkThread c k
    let g := classGrade t 0 [{ g := xb.g, j := 0, m := none }] []
    let ls ← pkLanes n (fun _ => pure (xb.at (w.toNat % (256 / n)), g))
    pkPut c k n a ls

/-- Replace one lane; the other lanes keep their value and grade. -/
def pkPutLane (c k n a i : Nat) (old : Opnd) (x : LaneG) : Pk Unit :=
  pkPut c k n a ((List.range (256 / n)).map (fun j => if j = i then x else (old.at j, old.g)))

def pkIns (c k : Nat) (t : VTy) (a : Nat) (w idx : Word) : Pk Unit := do
  let n := vWidth t
  let m ← pkReads c k (badLanes t) [a]
  pkPutLane c k n a (idx.toNat % (256 / n)) (opndV n m a) (w.toNat % 2 ^ n, gExact)

/-! ### Reductions (R331, R332) -/

/-- A running reduction: its value and the greatest sensitivities measured of the tree's addends. -/
structure RSum where
  val : Num
  code : Nat
  m : Option Int
  deriving DecidableEq, Repr

def maxOpt (a b : Option Int) : Option Int :=
  match a, b with
  | some x, some y => some (max x y)
  | some x, none => some x
  | none, y => y

/-- One addition of a reduction: `gs` names the operands that each addend stands for. -/
def pkAdd2 (c k : Nat) (v : VEnv) (lane : Nat) (x y : Num) (gx gy : List (Grade × Nat)) :
    Pk (Lane × Option Int × Option Int) := do
  let m ← pkMode c k v.rnd lane
  let e := sumNum [x, y] m
  let l := deliver v m e.val
  let mx := measured x e.val
  let my := measured y e.val
  pkRaise c k (e.flags ||| l.flags)
  pkShort c k 4 (gx.map (fun g => { g := g.1, j := g.2, m := mx }) ++ gy.map (fun g => { g := g.1, j := g.2, m := my }))
  pure (l, mx, my)

/-- One level of the pairwise tree of R105 (structural on the list). -/
def pkLevel (c k : Nat) (v : VEnv) (gs : List (Grade × Nat)) : List Num → Pk (List Num × Option Int)
  | x :: y :: rest => do
    let q ← pkAdd2 c k v 0 x y gs gs
    let r ← pkLevel c k v gs rest
    pure (q.1.val :: r.1, maxOpt (maxOpt q.2.1 q.2.2) r.2)
  | xs => pure (xs, none)

/-- The tree, level by level, by fuel. -/
def pkTree (c k : Nat) (v : VEnv) (gs : List (Grade × Nat)) : Nat → List Num → Option Int → Pk (Num × Option Int)
  | 0, xs, m => pure (xs.headD plusZero, m)
  | f + 1, xs, m =>
    if xs.length ≤ 1 then pure (xs.headD plusZero, m)
    else do
      let q ← pkLevel c k v gs xs
      pkTree c k v gs f q.1 (maxOpt m q.2)

/-- `vsum` and `vdot`: the tree's addends stand for B (and C), the running sum for operand 1 (R118, log 62). -/
def pkSum (c k : Nat) (v : VEnv) (a b : Nat) (y : Option (VSrc × Word)) : Pk Unit := do
  let n := vWidth v.t
  let m ← pkReads c k (badLanes v.t) ([a, b] ++ (match y with
    | some q => vSrcRegs q.1
    | none => []))
  let xa := opndV n m a
  let xb := opndV n m b
  let d (o : Opnd) (i : Nat) : Num := decodeFloat (vFmt v.t) (o.at i)
  let xc : Option Opnd := y.map (fun q => opndOf n m q.1 q.2)
  let gs : List (Grade × Nat) := (xb.g, 0) :: (match xc with
    | some o => [(o.g, 1)]
    | none => [])
  let exacts := (List.range (256 / n)).map (fun i => match xc with
    | some o => mulNum (d xb i) (d o i)
    | none => { val := d xb i, flags := 0 })
  let ts ← ((List.range (256 / n)).zip exacts).mapM (fun e =>
    if xc.isSome then do
      let md ← pkMode c k v.rnd e.1
      let l := deliver v md e.2.val
      pkRaise c k (e.2.flags ||| l.flags)
      pure l.val
    else pure e.2.val)
  let q ← pkTree c k v gs 7 ts none
  let r ← pkAdd2 c k v 0 (d xa 0) q.1 [(xa.g, 1)] gs
  let whole := sumNum (d xa 0 :: exacts.map Exact.val) .rne
  let t ← pkThread c k
  let ops : List GOp := gs.map (fun g => { g := g.1, j := g.2, m := maxOpt q.2 r.2.2 }) ++ [{ g := xa.g, j := 1, m := r.2.1 }]
  let g := classGrade t 4 ops (ownTerm v whole.val r.1)
  pkPutLane c k n a 0 xa (r.1.code, g)

/-- The sum of a group: it starts from the leader's value, and each later lane is added with one rounding. -/
def pkGroup (c k : Nat) (v : VEnv) (lane : Nat) (g : Grade) : List Num → Num → Option Int → Pk (Num × Option Int)
  | [], acc, m => pure (acc, m)
  | x :: xs, acc, m => do
    let q ← pkAdd2 c k v lane acc x [(g, 1)] [(g, 1)]
    pkGroup c k v lane g xs q.1.val (maxOpt m (maxOpt q.2.1 q.2.2))

/-- `vmr` under class 4 (R313): the keys of B are operand 0, which is no addend and is not measured, and the values of C
are operand 1 (R117, R118; log 63). -/
def pkMr (c k : Nat) (v : VEnv) (a b y : Nat) : Pk Unit := do
  let n := vWidth v.t
  let m ← pkReads c k (badLanes v.t) [b, y]
  let xb := opndV n m b
  let xc := opndV n m y
  let d (i : Nat) : Num := decodeFloat (vFmt v.t) (xc.at i)
  let ls ← pkLanes n (fun i => do
    let grp := (List.range (256 / n)).filter (fun j => xb.at j == xb.at i)
    if grp.headD 0 ≠ i then pure (0, gExact)
    else do
      let q ← (if grp.length = 1 then do
          let md ← pkMode c k v.rnd i
          let l := deliver v md (d i)
          pkRaise c k l.flags
          pure (l.val, (none : Option Int))
        else pkGroup c k v i xc.g ((grp.drop 1).map d) (d i) none)
      let whole := if grp.length = 1 then { val := d i, flags := 0 } else sumNum (grp.map d) .rne
      let t ← pkThread c k
      let code := if vIsInt v.t then (signedAt 0 q.1 % (2 ^ n : Int)).toNat else (roundNum q.1 (vFmt v.t) .rne false true).code
      pure (code, classGrade t 4 [{ g := xb.g, j := 0, m := none }, { g := xc.g, j := 1, m := q.2 }]
        (if vIsInt v.t || numSame whole.val q.1 then [] else [16 * (v.chosen.credit : Int)])))
  pkPut c k n a ls

/-! ### The logarithmic path (R333) -/

/-- A result that differs from f(x) is inexact, and underflows when |f(x)| lies below the smallest normal of the format,
whether the difference arose in forming y or in rounding it (R100, R333, R334; log 104). -/
def logFlags (fmt : Fmt) : Num → Flags
  | .fin _ m e => flInexact ||| (if m ≠ 0 && magLt m e 1 (1 - fmt.float.bias) then flUnder else 0)
  | .inf _ => flInexact
  | .nan _ _ _ => flInexact

def pkLog (c k : Nat) (f : LogFn) (v : VEnv) (bud : Word) (a b : Nat) (y : Option (VSrc × Word)) : Pk Unit := do
  let n := vWidth v.t
  let m ← pkReads c k (badLanes v.t) (b :: (match y with
    | some q => vSrcRegs q.1
    | none => []))
  let xb := opndV n m b
  let xc : Option Opnd := y.map (fun q => opndOf n m q.1 q.2)
  let i := if vIsX v.t then logIters f (bud.setWidth 16) else 3
  let own : Int := min (16 * (v.chosen.credit : Int)) (logBound f i)
  let ops : List GOp := { g := xb.g, j := 0, m := none } :: (match xc with
    | some o => [{ g := o.g, j := 1, m := none }]
    | none => [])
  let ls ← pkLanes n (fun lane => do
    let x := decodeFloat (vFmt v.t) (xb.at lane)
    let z := match xc with
      | some o => decodeFloat (vFmt v.t) (o.at lane)
      | none => plusZero
    let md ← pkMode c k v.rnd lane
    let t ← pkThread c k
    match logSpecial f x z with
    | some r => do
      let l := roundLane v md false r.1
      pkRaise c k (r.2 ||| l.flags)
      pure (l.code, classGrade t f.cls ops (if numSame r.1 l.val then [] else [own]))
    | none => do
      let r := logValue f x z
      let fits := r.2 && numSame r.1 (decodeFloat v.chosen (roundNum r.1 v.chosen .rne true false).code)
      let l := roundLane v md false (if fits then r.1 else roundBits (logBits f i) r.1)
      pkRaise c k (l.flags ||| (if fits then 0 else logFlags v.chosen r.1))
      pure (l.code, classGrade t f.cls ops (if fits then [] else [own])))
  pkPut c k n a ls

/-! ### Memory, streams and bank updates -/

/-- One lane of `vbupd`: an own-pool update applies at once, one for a peer pool is submitted to it. -/
def pkUpdate (c k : Nat) (a : Word) (val fn : Nat) (tag : Bool) : Pk Unit := do
  let s ← get
  match windowAt s c a with
  | none => pkPoison c k 0x0A a
  | some p =>
    if a.toNat % 4 ≠ 0 ∨ !inScratch (s.core p.1).part p.2 4 then pkPoison c k 0x0A a
    else if poolShut (s.core p.1) p.2 4 then pkWait
    else if p.1 = c then pkMod (fun s => applyUpdate (bankAll s c) c p.2 val fn tag)
    else pkMod (fun s => s.modCore p.1 (fun x => { x with
      bank := x.bank ++ [.update p.2 (BitVec.ofNat 32 val) fn tag] }))

def pkBupd (c k : Nat) (m : Word) (b y fn : Nat) (tag : Bool) : Pk Unit := do
  let q ← pkReads c k 0 [b, y]
  let xb := opndV 32 q b
  let xc := opndV 32 q y
  let _ ← (List.range 8).mapM (fun i => pkUpdate c k (m + wordOf (4 * sextI (xb.at i) 32)) (xc.at i) fn tag)
  pure ()

/-- The write of a `vst` at the place it reserved: a pool, the region buffer, or the write queue (R326). The place is
that of its hand-off, whatever the privilege has become; a store of a dropped pass writes nothing. -/
def pkStore (c k : Nat) (e : SeqEntry) (b : Nat) : Pk Unit := do
  let q ← pkReads c k 0 [b]
  let bs := toBytes 32 (AMap.getD q b VVal.zero).bits.toNat
  let s ← get
  if e.void then pure ()
  else match windowAt s c e.s0 with
  | some p => if poolShut (s.core p.1) p.2 32 then pkWait else pkMod (fun s => s.modCore p.1 (fun x => x.putBytes p.2 bs))
  | none =>
    let tr : Trans := { pa := e.s1.toNat, attrs := e.s2.toNat, keyslot := (s.thread c k).place.keyslot }
    if globalShut (s.core c) e.s0.toNat 32 then pkWait
    else if !tr.host && tr.checked && !e.priv then
      pkMod (fun s => s.modThread c k (fun t => { t with rgn := { t.rgn with
        held := AMap.set t.rgn.held tr.line ((heldOf t.rgn e.s0.toNat tr).put (byteMap tr.off bs)) } }))
    else
      let w : QWrite := { host := tr.host, line := if tr.host then tr.hostAddr else tr.line,
                          off := if tr.host then 0 else tr.off, checked := !tr.host && tr.checked, key := tr.key,
                          op := .store bs }
      pkMod (fun s => s.modThread c k (fun t => { t with wq := t.wq ++ [w], rgn := shade t.rgn w }))

/-! ### Values delivered to the pipe (R130, R196, R330) -/

/-- Deliver a value to the instruction of the slot that waits for it. -/
def pkDeliver (c k : Nat) (pc w : Word) : Pk Unit :=
  pkMod (fun s => s.modThread c k (fun t => { t with vwait := some (pc, some w) }))

/-- `vext`. -/
def pkExt (c k : Nat) (pc : Word) (t : VTy) (uns : Bool) (b : Nat) (i : Word) : Pk Unit := do
  let n := vWidth t
  let v ← pkRead c k b (badLanes t)
  let x := (lanesOf n v.bits).getD (i.toNat % (256 / n)) 0
  pkDeliver c k pc (if uns then BitVec.ofNat 64 x else sextW x n)

/-- A grade read; of a register bound to a pop stream it pops a packet, as any packet that reads it does (log 107). -/
def pkGradeRead (c k : Nat) (pc : Word) (r : Nat) : Pk Unit := do
  let v ← pkRead c k r 0
  pkDeliver c k pc (v.grade.setWidth 64)

/-- `scfg` at its place in the queue. -/
def pkConfigure (c k r d : Nat) : Pk Unit :=
  setStream c k r { desc := d, configured := true, bound := false, i0 := 0, i1 := 0, i2 := 0, i3 := 0, last := none }

/-- `sbind`: no effect on a register that is bound or has no configured stream. -/
def bindStream (t : Thread) (r : Nat) : Thread :=
  match AMap.get t.streams r with
  | some x => if x.configured && !x.bound then { t with streams := AMap.set t.streams r { x with bound := true, last := none } } else t
  | none => t

/-- `sfree`: the register takes the last packet, and the descriptor is forgotten. -/
def freeStream (t : Thread) (r : Nat) : Thread :=
  match AMap.get t.streams r with
  | some x =>
    if x.bound then
      let t1 := { t with streams := AMap.del t.streams r }
      match x.last with
      | some v => t1.wrV r v
      | none => t1
    else t
  | none => t

/-- `grade vd, gs`: the lanes are unchanged; a bound register keeps its stream (log 64). -/
def setGrade (t : Thread) (r : Nat) (w : Word) : Thread :=
  if (boundStream t r).isSome then t else t.wrV r { t.rdV r with grade := w.setWidth 16 &&& 0x8FFF }

end Sys2Proof.Machine
end

