-- ==== Sys2Proof/Machine/Vector.lean ====
section
/-! DEFINITION. The sequencer of the vector siding and opcodes 0x3C, 0x8E and 0xB0 to 0xDB (R130, R196, R314-R335, R401). -/

namespace Sys2Proof.Machine

open Sys2Proof

/-! ### Packets -/

/-- What the siding does for one packet of a handed-off instruction. -/
def packet (c k : Nat) (e : SeqEntry) : Pk Unit :=
  match e.instr with
  | .vld _ a _ _ => pkWrite c k a.val { bits := BitVec.ofNat 256 (ofBytes e.bytes), grade := e.s0.setWidth 16 &&& 0x8FFF }
  | .vst _ _ b => pkStore c k e b.val
  | .vadd _ t r sa a b y => pkArith c k .add (vEnv t r.code sa e.s2) a.val b.val y e.s0
  | .vsub _ t r sa a b y => pkArith c k .sub (vEnv t r.code sa e.s2) a.val b.val y e.s0
  | .vmul _ t r sa a b y => pkArith c k .mul (vEnv t r.code sa e.s2) a.val b.val y e.s0
  | .vfma _ t r sa a b y => pkArith c k .fma (vEnv t r.code sa e.s2) a.val b.val (vgSrc y) e.s0
  | .vfms _ t r sa a b y => pkArith c k .fms (vEnv t r.code sa e.s2) a.val b.val (vgSrc y) e.s0
  | .vnfma _ t r sa a b y => pkArith c k .nfma (vEnv t r.code sa e.s2) a.val b.val (vgSrc y) e.s0
  | .vmin _ t u a b y => pkMinMax c k false u (vEnv t 0 false e.s2) a.val b.val y e.s0
  | .vmax _ t u a b y => pkMinMax c k true u (vEnv t 0 false e.s2) a.val b.val y e.s0
  | .vabs _ t sa a b => pkAbsNeg c k false (vEnv t 0 sa e.s2) a.val b.val
  | .vneg _ t sa a b => pkAbsNeg c k true (vEnv t 0 sa e.s2) a.val b.val
  | .vcvt _ t r sa a b src => pkCvt c k (vEnv t r.code sa e.s2) a.val b.val src
  | .vsum _ t r sa a b => pkSum c k (vEnv t r.code sa e.s2) a.val b.val none
  | .vdot _ t r sa a b y => pkSum c k (vEnv t r.code sa e.s2) a.val b.val (some (vgSrc y, e.s0))
  | .vcmp _ t n u a b y => pkCmp c k (cmpTy t) n u a.val b.val y e.s0
  | .vsel _ t a b y => pkSel c k (.int t) a.val b.val (vgSrc y) e.s0
  | .vand _ a b y => pkLogic c k (fun x z => x &&& z) a.val b.val (vgSrc y) e.s0
  | .vor _ a b y => pkLogic c k (fun x z => x ||| z) a.val b.val (vgSrc y) e.s0
  | .vxor _ a b y => pkLogic c k (fun x z => x ^^^ z) a.val b.val (vgSrc y) e.s0
  | .vshl _ t sa a b y => pkShift c k true false (vEnv (.int t) 0 sa 0) a.val b.val y e.s0
  | .vshr _ t u a b y => pkShift c k false u (vEnv (.int t) 0 false 0) a.val b.val y e.s0
  | .vbcast _ t a m => pkBcast c k t a.val m e.s0
  | .vins _ t a _ _ => pkIns c k t a.val e.s1 e.s0
  | .vpack _ t r sa a b y => pkPack c k (vEnv t r.code sa e.s2) a.val b.val y.val
  | .vunpack _ t a b src hi => pkUnpack c k (vEnv t 0 false e.s2) a.val b.val src hi
  | .vperm _ t a b y => pkPerm c k (.int t) a.val b.val y.val
  | .vmr _ t r sa a b y => pkMr c k (vEnv t r.code sa e.s2) a.val b.val y.val
  | .vlog _ t r sa a b => pkLog c k .ln (vEnv t r.code sa e.s2) e.s2 a.val b.val none
  | .valog _ t r sa a b => pkLog c k .exp (vEnv t r.code sa e.s2) e.s2 a.val b.val none
  | .vexp2 _ t r sa a b => pkLog c k .exp2 (vEnv t r.code sa e.s2) e.s2 a.val b.val none
  | .vlog2 _ t r sa a b => pkLog c k .log2 (vEnv t r.code sa e.s2) e.s2 a.val b.val none
  | .vrcp _ t r sa a b => pkLog c k .rcp (vEnv t r.code sa e.s2) e.s2 a.val b.val none
  | .vsqrt _ t r sa a b => pkLog c k .sqrt (vEnv t r.code sa e.s2) e.s2 a.val b.val none
  | .vrsqrt _ t r sa a b => pkLog c k .rsqrt (vEnv t r.code sa e.s2) e.s2 a.val b.val none
  | .vsigm _ t r sa a b => pkLog c k .sigm (vEnv t r.code sa e.s2) e.s2 a.val b.val none
  | .vtanh _ t r sa a b => pkLog c k .tanh (vEnv t r.code sa e.s2) e.s2 a.val b.val none
  | .vpow _ t r sa a b y => pkLog c k .pow (vEnv t r.code sa e.s2) e.s2 a.val b.val (some (vgSrc y, e.s0))
  | .vbupd _ n u _ b y => pkBupd c k e.s0 b.val y.val n.val u
  | .scfg _ a _ => pkConfigure c k a.val (ofBytes e.bytes)
  | .sbind _ a => pkMod (fun s => s.modThread c k (fun t => bindStream t a.val))
  | .sfree _ a => pkMod (fun s => s.modThread c k (fun t => freeStream t a.val))
  | .grade _ (.vFromG d _) => pkMod (fun s => s.modThread c k (fun t => setGrade t d.val e.s0))
  | .grade _ (.gFromV _ r) => pkGradeRead c k e.pc r.val
  | .grade _ (.bFromV _ r) => pkGradeRead c k e.pc r.val
  | .vext _ t u _ b _ => pkExt c k e.pc t u b.val e.s0
  | _ => pure ()

/-! ### The sequencer (R314, R322) -/

/-- A repeat instruction. -/
def isRepeat (e : SeqEntry) : Bool :=
  match e.instr with
  | .vrpt _ _ _ => true
  | _ => false

/-- Instructions of the queue that end a body early. -/
def endsBody (e : SeqEntry) : Bool :=
  match e.instr with
  | .vld _ _ _ _ => true
  | .vst _ _ _ => true
  | .vrpt _ _ _ => true
  | .scfg _ _ _ => true
  | .sbind _ _ => true
  | .sfree _ _ => true
  | .vext _ _ _ _ _ _ => true
  | .grade _ (.gFromV _ _) => true
  | .grade _ (.bFromV _ _) => true
  | _ => false

/-- The later entries of the same slot. -/
def sameSlot (e : SeqEntry) (rest : List SeqEntry) : List SeqEntry := rest.filter (fun x => x.slot == e.slot)

/-- The body of a repeat: at most the named count of entries, up to one that ends it early. -/
def bodyOf (e : SeqEntry) (rest : List SeqEntry) : List SeqEntry :=
  ((sameSlot e rest).takeWhile (fun x => !endsBody x)).take e.s1.toNat

/-- The body is complete: every named entry has come, or one that ends it early. -/
def bodyComplete (e : SeqEntry) (rest : List SeqEntry) : Bool :=
  decide ((bodyOf e rest).length = e.s1.toNat) || (sameSlot e rest).any endsBody

/-- An instruction outside the queue ends the bodies of a slot: the count of each repeat becomes what it has. -/
def closeBodies (k : Nat) : List SeqEntry → List SeqEntry
  | [] => []
  | e :: es =>
    (if e.slot == k && isRepeat e then { e with s1 := BitVec.ofNat 64 (bodyOf e es).length } else e) :: closeBodies k es

/-- Leave out the first n entries of a slot. -/
def dropSlot' (k : Nat) : Nat → List SeqEntry → List SeqEntry
  | _, [] => []
  | n, e :: es => if e.slot == k && decide (0 < n) then dropSlot' k (n - 1) es else e :: dropSlot' k n es

def setSeq (s : State) (c : Nat) (l : List SeqEntry) : State := s.modCore c (fun x => { x with seq := l })

/-- The next packet of a repeat at the head of the queue (R322). -/
def repeatStep (s : State) (c : Nat) (e : SeqEntry) (rest : List SeqEntry) : Option State :=
  if !bodyComplete e rest then none
  else
    let body := bodyOf e rest
    let count := wfld e.s0 0 32
    let done (s : State) : State :=
      setSeq (s.modThread c e.slot (fun t => { t with rpt := none })) c (dropSlot' e.slot body.length rest)
    if count = 0 ∨ body.isEmpty then some (done s)
    else
      let r := match (s.thread c e.slot).rpt with
        | some r => r
        | none => { count := count, len := body.length, body := body, running := true, left := count, next := 0 }
      match r.body[r.next]? with
      | none => some (done s)
      | some b =>
        match packet c e.slot b s with
        | none => none
        | some (_, s1) =>
          if r.next + 1 < r.body.length then
            some (s1.modThread c e.slot (fun t => { t with rpt := some { r with next := r.next + 1 } }))
          else if r.left ≤ 1 then some (done s1)
          else some (s1.modThread c e.slot (fun t => { t with rpt := some { r with next := 0, left := r.left - 1 } }))

/-- An instruction of a slot of the core waits at its rung for a value of the siding (R196). -/
def valueAwaited (x : Core) : Bool := x.slots.any (fun e => e.2.vwait.isSome)

/-- The siding of a core issues one packet, in hand-off order; none when the head must wait, or its slot is being
pre-empted and no instruction of the core waits for a value behind it (R434, R193). -/
def sidingStep (s : State) (c : Nat) : Option State :=
  match (s.core c).seq with
  | [] => none
  | e :: rest =>
    if (s.thread c e.slot).pend.preempt.isSome && !valueAwaited (s.core c) then none
    else if isRepeat e then repeatStep s c e rest
    else
      match packet c e.slot e s with
      | some (_, s1) => some (setSeq s1 c rest)
      | none => none

def execSidingIssue (core : Nat) (s : State) : Host.Outcome State Fault Refusal :=
  onUnit (isCore core) ((sidingStep s core).getD s)

/-! ### Hand-off (R196) -/

/-- A deferred fault of the slot: its cause in the low byte, the sub-cause of a 0x0D above it (R321, R401; log 59). -/
def deferredInfo (f : Nat × Word) : TrapInfo :=
  { cause := f.1 % 256, addr := f.2,
    info := if f.1 % 256 = 0x11 then 1 else if f.1 % 256 = 0x0D then BitVec.ofNat 64 (f.1 / 256)
      else BitVec.ofNat 64 (wfld f.2 48 8) }

/-- A deferred fault of the slot is taken by its next vector instruction (R321, R401). -/
def deferredTrap (s : State) (k : Eff) : Eff :=
  match s.me.ppoison with
  | some f => .trap (s.modMe (fun t => { t with ppoison := none })) (deferredInfo f)
  | none => k

/-- Room in the sequencer, or a wait at rung 6. -/
def seqRoom (s : State) (k : Eff) : Eff := if 16 ≤ s.myCore.seq.length then .wait s else k

/-- Put an entry in the queue; alone there, its packet issues at once. -/
def enqueue (s : State) (i : Instr) (s0 s1 s2 : Word) (bs : List Byte) : State :=
  let e : SeqEntry := { slot := s.cur.2, instr := i, pc := s.me.pc, s0 := s0, s1 := s1, s2 := s2, bytes := bs,
                        priv := s.me.priv, void := false }
  let q := s.modCore s.cur.1 (fun x => { x with seq := x.seq ++ [e] })
  if s.myCore.seq.isEmpty && !isRepeat e then (sidingStep q s.cur.1).getD q else q

/-- A hand-off that completes its instruction. -/
def handOff (s : State) (i : Instr) (s0 s1 s2 : Word) (bs : List Byte) : Eff := .ok (enqueue s i s0 s1 s2 bs)

/-- A vector instruction that only hands off. -/
def vecOp (s : State) (i : Instr) (s0 s1 s2 : Word) : Eff := deferredTrap s (seqRoom s (handOff s i s0 s1 s2 []))

/-- The held value of a source. -/
def heldV (s : State) : VSrc → Word
  | .v _ => 0
  | .g r => s.rdG r.val
  | .imm v => immW v

def heldVG (s : State) (y : VGSrc) : Word := heldV s (vgSrc y)

/-- The held budget of type 12 (R312). -/
def heldB (s : State) : VTy → Word
  | .x b => (s.rdB b.val).setWidth 64
  | .int _ => 0
  | .f32 => 0
  | .bf16 => 0
  | .q _ _ => 0
  | .i4 => 0

/-- The value that the siding has delivered to the instruction at pc, or a wait for it at rung 6 (R196). -/
def awaitValue (s : State) (k : State → Word → Eff) : Eff :=
  match s.me.vwait with
  | some (_, some w) => k (s.modMe (fun t => { t with vwait := none })) w
  | some (_, none) => .wait s
  | none => .wait s

/-- An instruction with a g or b destination: it ends a body, takes its place in the queue, and waits at rung 6 until the
siding delivers its value (R196, R322). -/
def vecRead (s : State) (i : Instr) (s0 : Word) (k : State → Word → Eff) : Eff :=
  if s.me.vwait.map Prod.fst = some s.me.pc then awaitValue s k
  else deferredTrap s (
    let s1 := s.modCore s.cur.1 (fun x => { x with seq := closeBodies s.cur.2 x.seq })
    seqRoom s1 (awaitValue (enqueue (s1.modMe (fun t => { t with vwait := some (t.pc, none) })) i s0 0 0 []) k))

/-! ### grade (R130), vext (R330), vsync (R335) -/

/-- `grade`. A read of a register that is bound to a pop stream pops a packet, as R318 says of reads and leaves open for a
read of the grade alone (DESIGN CHOICE, log 107). -/
def effGrade (h : Hdr) (m : GradeOp) (s : State) : Eff :=
  match m with
  | .gFromV d r => vecRead s (.grade h (.gFromV d r)) 0 (fun s1 w => .ok (s1.wrG d.val w))
  | .bFromV d r => vecRead s (.grade h (.bFromV d r)) 0 (fun s1 w => .ok (s1.wrB d.val (w.setWidth 16)))
  | .vFromG d r => vecOp s (.grade h (.vFromG d r)) (s.rdG r.val) 0 0

def effVext (h : Hdr) (t : VTy) (u : Bool) (a : Fin 64) (b : Fin 32) (c : GSrc) (s : State) : Eff :=
  vecRead s (.vext h t u a b c) (readGSrc s c) (fun s1 w => .ok (s1.wrG a.val w))

/-- Wait until the siding has completed every older entry of the slot, take a deferred fault, and go on. -/
def afterSiding (s : State) (k : State → Eff) : Eff :=
  let s1 := s.modCore s.cur.1 (fun x => { x with seq := closeBodies s.cur.2 x.seq })
  if sidingIdle s1 s1.cur.1 s1.cur.2 then deferredTrap s1 (k s1) else .wait s1

def effVsync (s : State) : Eff := afterSiding s .ok

/-! ### vld, vst, vbupd (R326, R401) -/

def effVld (h : Hdr) (a : Fin 32) (b : Mem) (c : GSrc) (s : State) : Eff :=
  let m := memAddr s b 32
  deferredTrap s (seqRoom s (aligned s m 32 (readAny s m 32 1 false true (fun s1 bs =>
    handOff s1 (.vld h a b c) (readGSrc s c) 0 0 bs))))

/-- Reserve a place in the region buffer for a `vst` (R326). -/
def reserveLine (s : State) (a : Word) (tr : Trans) (k : State → Eff) : Eff :=
  let add (s : State) : State := s.modMe (fun t => { t with rgn := { t.rgn with
    held := AMap.set t.rgn.held tr.line (heldOf t.rgn a.toNat tr) } })
  if (AMap.get s.me.rgn.held tr.line).isSome then k s
  else if s.me.rgn.held.length < 64 then k (add s)
  else if s.me.tol.isOpen then tolTrap s 3 (BitVec.ofNat 64 (a.toNat - tr.off))
  else withSplit s (fun s1 => k (add s1))

/-- The reservation of a `vst`; the translation goes on with it. -/
def reserveStore (s : State) (m : Word) (k : State → Word → Word → Eff) : Eff :=
  match windowCheck s m 32 true with
  | some t => .trap s t
  | none =>
    let pool (tc o : Nat) : Eff :=
      if poolShut (s.core tc) o 32 then .park s .shutter
      else match tolWrite s tc o with
        | none => tolTrap s 3 (BitVec.ofNat 64 (m.toNat / 64 * 64))
        | some s1 => k s1 0 0
    let glob : Eff :=
      if globalShut s.myCore m.toNat 32 then .park s .shutter
      else withTrans s m .write 1 (fun s1 tr =>
        let go (s : State) : Eff := k s (BitVec.ofNat 64 tr.pa) (BitVec.ofNat 64 tr.attrs)
        if !tr.host && tr.checked && !s1.me.priv then reserveLine s1 m tr go
        else if wqFull s1.myCore then .park s1 .writeQueue else go s1)
    match decodeAddr m with
    | .own o => pool s.cur.1 o
    | .peer q o => match answerFor s m 1 with
      | some e => if e.ready then pool (peerCore s s.cur.1 q) o else .park s .access
      | none => askAnswer s m 32 1
    | .view _ _ => .trap s (windowTrap m)
    | .badWindow _ => .trap s (windowTrap m)
    | .global => glob
    | .nonCanon => glob

def effVst (h : Hdr) (a : Mem) (b : Fin 32) (s : State) : Eff :=
  let m := memAddr s a 32
  deferredTrap s (seqRoom s (aligned s m 32 (reserveStore s m (fun s1 pa attrs =>
    handOff s1 (.vst h a b) m pa attrs []))))

def effVbupd (h : Hdr) (n : Fin 4) (u : Bool) (a : Mem) (b c : Fin 32) (s : State) : Eff :=
  let m := memAddr s a 4
  deferredTrap s (notTolerant s (aligned s m 4 (checkPool s m 4 (seqRoom s (handOff s (.vbupd h n u a b c) m 0 0 [])))))

/-! ### scfg, sbind, sfree, vrpt (R317, R318, R335) -/

/-- Whether a stream register is configured and bound once the queue's entries have taken effect. -/
def bindingAhead (s : State) (k r : Nat) : Bool × Bool :=
  let now : Bool × Bool := match AMap.get (s.thread s.cur.1 k).streams r with
    | some x => (x.configured, x.bound)
    | none => (false, false)
  s.myCore.seq.foldl (fun (q : Bool × Bool) e =>
    if e.slot ≠ k then q
    else match e.instr with
      | .scfg _ a _ => if a.val = r then (true, q.2) else q
      | .sbind _ a => if a.val = r then (q.1, q.2 || q.1) else q
      | .sfree _ a => if a.val = r ∧ q.2 then (false, false) else q
      | _ => q) now

/-- The least and greatest byte of a stream's hull. -/
def streamHull (d : Nat) : Int × Int :=
  let part (i : Nat) : Int := sdStride d i * (sdCount d i : Int)
  ([0, 1, 2, 3].foldl (fun a i => a + min 0 (part i)) (sdBase d : Int),
    [0, 1, 2, 3].foldl (fun a i => a + max 0 (part i)) (sdBase d : Int) + 32)

/-- The reason that refuses a descriptor, in the order of R317. -/
def streamReason (s : State) (r d : Nat) : Option Nat :=
  let h := streamHull d
  let p := s.myCore.part
  if (bindingAhead s s.cur.2 r).2 then some 3
  else if fld d 226 14 ≠ 0 ∨ fld d 252 3 ≠ 0 ∨ sdBase d % 4 ≠ 0 ∨ [0, 1, 2, 3].any (fun i => decide (sdStride d i % 4 ≠ 0)) then some 2
  else if h.1 < (codeEnd p : Int) ∨ (accStart p : Int) < h.2 then some 1
  else none

def effScfg (h : Hdr) (a : Fin 4) (b : Mem) (s : State) : Eff :=
  let m := memAddr s b 32
  deferredTrap s (seqRoom s (aligned s m 32 (
    match decodeAddr m with
    | .own o =>
      match poolCheck s s.cur.1 s.me.priv m o 32 with
      | some t => .trap s t
      | none => poolRead s m s.cur.1 o 32 (fun s1 bs =>
          match streamReason s1 a.val (ofBytes bs) with
          | some x => .fail s1 0x0B (a.val + 256 * x)
          | none => handOff s1 (.scfg h a b) 0 0 0 bs)
    | .peer _ _ => .trap s (windowTrap m)
    | .view _ _ => .trap s (windowTrap m)
    | .badWindow _ => .trap s (windowTrap m)
    | .global => .trap s (windowTrap m)
    | .nonCanon => .trap s (windowTrap m))))

def effSbind (h : Hdr) (a : Fin 4) (s : State) : Eff := vecOp s (.sbind h a) 0 0 0
def effSfree (h : Hdr) (a : Fin 4) (s : State) : Eff := vecOp s (.sfree h a) 0 0 0
def effVrpt (h : Hdr) (a : GSrc) (b : Fin 15) (s : State) : Eff :=
  vecOp s (.vrpt h a b) (readGSrc s a) (BitVec.ofNat 64 (b.val + 1)) 0

/-! ### Instructions that only hand off -/

def effVadd (h : Hdr) (t : VTy) (r : Rnd) (sa : Bool) (a b : Fin 32) (c : VSrc) (s : State) : Eff := vecOp s (.vadd h t r sa a b c) (heldV s c) 0 (heldB s t)
def effVsub (h : Hdr) (t : VTy) (r : Rnd) (sa : Bool) (a b : Fin 32) (c : VSrc) (s : State) : Eff := vecOp s (.vsub h t r sa a b c) (heldV s c) 0 (heldB s t)
def effVmul (h : Hdr) (t : VTy) (r : Rnd) (sa : Bool) (a b : Fin 32) (c : VSrc) (s : State) : Eff := vecOp s (.vmul h t r sa a b c) (heldV s c) 0 (heldB s t)
def effVfma (h : Hdr) (t : VTy) (r : Rnd) (sa : Bool) (a b : Fin 32) (c : VGSrc) (s : State) : Eff := vecOp s (.vfma h t r sa a b c) (heldVG s c) 0 (heldB s t)
def effVfms (h : Hdr) (t : VTy) (r : Rnd) (sa : Bool) (a b : Fin 32) (c : VGSrc) (s : State) : Eff := vecOp s (.vfms h t r sa a b c) (heldVG s c) 0 (heldB s t)
def effVnfma (h : Hdr) (t : VTy) (r : Rnd) (sa : Bool) (a b : Fin 32) (c : VGSrc) (s : State) : Eff := vecOp s (.vnfma h t r sa a b c) (heldVG s c) 0 (heldB s t)
def effVmin (h : Hdr) (t : VTy) (u : Bool) (a b : Fin 32) (c : VSrc) (s : State) : Eff := vecOp s (.vmin h t u a b c) (heldV s c) 0 (heldB s t)
def effVmax (h : Hdr) (t : VTy) (u : Bool) (a b : Fin 32) (c : VSrc) (s : State) : Eff := vecOp s (.vmax h t u a b c) (heldV s c) 0 (heldB s t)
def effVabs (h : Hdr) (t : VTy) (sa : Bool) (a b : Fin 32) (s : State) : Eff := vecOp s (.vabs h t sa a b) 0 0 (heldB s t)
def effVneg (h : Hdr) (t : VTy) (sa : Bool) (a b : Fin 32) (s : State) : Eff := vecOp s (.vneg h t sa a b) 0 0 (heldB s t)
def effVcvt (h : Hdr) (t : VTy) (r : Rnd) (sa : Bool) (a b : Fin 32) (c : VTy) (s : State) : Eff := vecOp s (.vcvt h t r sa a b c) 0 0 (heldB s t)
def effVsum (h : Hdr) (t : VTy) (r : Rnd) (sa : Bool) (a b : Fin 32) (s : State) : Eff := vecOp s (.vsum h t r sa a b) 0 0 (heldB s t)
def effVdot (h : Hdr) (t : VTy) (r : Rnd) (sa : Bool) (a b : Fin 32) (c : VGSrc) (s : State) : Eff := vecOp s (.vdot h t r sa a b c) (heldVG s c) 0 (heldB s t)
def effVcmp (h : Hdr) (t : CTy) (n : Cond) (u : Bool) (a b : Fin 32) (c : VSrc) (s : State) : Eff := vecOp s (.vcmp h t n u a b c) (heldV s c) 0 0
def effVsel (h : Hdr) (t : ITy) (a b : Fin 32) (c : VGSrc) (s : State) : Eff := vecOp s (.vsel h t a b c) (heldVG s c) 0 0
def effVand (h : Hdr) (a b : Fin 32) (c : VGSrc) (s : State) : Eff := vecOp s (.vand h a b c) (heldVG s c) 0 0
def effVor (h : Hdr) (a b : Fin 32) (c : VGSrc) (s : State) : Eff := vecOp s (.vor h a b c) (heldVG s c) 0 0
def effVxor (h : Hdr) (a b : Fin 32) (c : VGSrc) (s : State) : Eff := vecOp s (.vxor h a b c) (heldVG s c) 0 0
def effVshl (h : Hdr) (t : ITy) (sa : Bool) (a b : Fin 32) (c : VSrc) (s : State) : Eff := vecOp s (.vshl h t sa a b c) (heldV s c) 0 0
def effVshr (h : Hdr) (t : ITy) (u : Bool) (a b : Fin 32) (c : VSrc) (s : State) : Eff := vecOp s (.vshr h t u a b c) (heldV s c) 0 0

/-- The g value of `vbcast`, or its lane index. -/
def bcastWord (s : State) : BcastOp → Word
  | .fromG r => s.rdG r.val
  | .fromV _ k => readGSrc s k

def effVbcast (h : Hdr) (t : VTy) (a : Fin 32) (m : BcastOp) (s : State) : Eff := vecOp s (.vbcast h t a m) (bcastWord s m) 0 0
def effVins (h : Hdr) (t : VTy) (a : Fin 32) (b : Fin 64) (c : GSrc) (s : State) : Eff := vecOp s (.vins h t a b c) (readGSrc s c) (s.rdG b.val) 0
def effVpack (h : Hdr) (t : VTy) (r : Rnd) (sa : Bool) (a b c : Fin 32) (s : State) : Eff := vecOp s (.vpack h t r sa a b c) 0 0 (heldB s t)
def effVunpack (h : Hdr) (t : VTy) (a b : Fin 32) (c : VTy) (hi : Bool) (s : State) : Eff := vecOp s (.vunpack h t a b c hi) 0 0 0
def effVperm (h : Hdr) (t : ITy) (a b c : Fin 32) (s : State) : Eff := vecOp s (.vperm h t a b c) 0 0 0
def effVmr (h : Hdr) (t : VTy) (r : Rnd) (sa : Bool) (a b c : Fin 32) (s : State) : Eff := vecOp s (.vmr h t r sa a b c) 0 0 (heldB s t)
def effVlog (h : Hdr) (t : VTy) (r : Rnd) (sa : Bool) (a b : Fin 32) (s : State) : Eff := vecOp s (.vlog h t r sa a b) 0 0 (heldB s t)
def effValog (h : Hdr) (t : VTy) (r : Rnd) (sa : Bool) (a b : Fin 32) (s : State) : Eff := vecOp s (.valog h t r sa a b) 0 0 (heldB s t)
def effVexp2 (h : Hdr) (t : VTy) (r : Rnd) (sa : Bool) (a b : Fin 32) (s : State) : Eff := vecOp s (.vexp2 h t r sa a b) 0 0 (heldB s t)
def effVlog2 (h : Hdr) (t : VTy) (r : Rnd) (sa : Bool) (a b : Fin 32) (s : State) : Eff := vecOp s (.vlog2 h t r sa a b) 0 0 (heldB s t)
def effVrcp (h : Hdr) (t : VTy) (r : Rnd) (sa : Bool) (a b : Fin 32) (s : State) : Eff := vecOp s (.vrcp h t r sa a b) 0 0 (heldB s t)
def effVsqrt (h : Hdr) (t : VTy) (r : Rnd) (sa : Bool) (a b : Fin 32) (s : State) : Eff := vecOp s (.vsqrt h t r sa a b) 0 0 (heldB s t)
def effVrsqrt (h : Hdr) (t : VTy) (r : Rnd) (sa : Bool) (a b : Fin 32) (s : State) : Eff := vecOp s (.vrsqrt h t r sa a b) 0 0 (heldB s t)
def effVsigm (h : Hdr) (t : VTy) (r : Rnd) (sa : Bool) (a b : Fin 32) (s : State) : Eff := vecOp s (.vsigm h t r sa a b) 0 0 (heldB s t)
def effVtanh (h : Hdr) (t : VTy) (r : Rnd) (sa : Bool) (a b : Fin 32) (s : State) : Eff := vecOp s (.vtanh h t r sa a b) 0 0 (heldB s t)
def effVpow (h : Hdr) (t : VTy) (r : Rnd) (sa : Bool) (a b : Fin 32) (c : VGSrc) (s : State) : Eff := vecOp s (.vpow h t r sa a b c) (heldVG s c) 0 (heldB s t)

/-! ### The instructions -/

def execGrade (h : Hdr) (m : GradeOp) (s : State) := run h (effGrade h m) s
def execVext (h : Hdr) (t : VTy) (u : Bool) (a : Fin 64) (b : Fin 32) (c : GSrc) (s : State) := run h (effVext h t u a b c) s
def execVsync (h : Hdr) (s : State) := run h effVsync s
def execVld (h : Hdr) (a : Fin 32) (b : Mem) (c : GSrc) (s : State) := run h (effVld h a b c) s
def execVst (h : Hdr) (a : Mem) (b : Fin 32) (s : State) := run h (effVst h a b) s
def execVbupd (h : Hdr) (n : Fin 4) (u : Bool) (a : Mem) (b c : Fin 32) (s : State) := run h (effVbupd h n u a b c) s
def execScfg (h : Hdr) (a : Fin 4) (b : Mem) (s : State) := run h (effScfg h a b) s
def execSbind (h : Hdr) (a : Fin 4) (s : State) := run h (effSbind h a) s
def execSfree (h : Hdr) (a : Fin 4) (s : State) := run h (effSfree h a) s
def execVrpt (h : Hdr) (a : GSrc) (b : Fin 15) (s : State) := run h (effVrpt h a b) s
def execVadd (h : Hdr) (t : VTy) (r : Rnd) (sa : Bool) (a b : Fin 32) (c : VSrc) (s : State) :=
  run h (effVadd h t r sa a b c) s
def execVsub (h : Hdr) (t : VTy) (r : Rnd) (sa : Bool) (a b : Fin 32) (c : VSrc) (s : State) :=
  run h (effVsub h t r sa a b c) s
def execVmul (h : Hdr) (t : VTy) (r : Rnd) (sa : Bool) (a b : Fin 32) (c : VSrc) (s : State) :=
  run h (effVmul h t r sa a b c) s
def execVfma (h : Hdr) (t : VTy) (r : Rnd) (sa : Bool) (a b : Fin 32) (c : VGSrc) (s : State) :=
  run h (effVfma h t r sa a b c) s
def execVfms (h : Hdr) (t : VTy) (r : Rnd) (sa : Bool) (a b : Fin 32) (c : VGSrc) (s : State) :=
  run h (effVfms h t r sa a b c) s
def execVnfma (h : Hdr) (t : VTy) (r : Rnd) (sa : Bool) (a b : Fin 32) (c : VGSrc) (s : State) :=
  run h (effVnfma h t r sa a b c) s
def execVmin (h : Hdr) (t : VTy) (u : Bool) (a b : Fin 32) (c : VSrc) (s : State) :=
  run h (effVmin h t u a b c) s
def execVmax (h : Hdr) (t : VTy) (u : Bool) (a b : Fin 32) (c : VSrc) (s : State) :=
  run h (effVmax h t u a b c) s
def execVabs (h : Hdr) (t : VTy) (sa : Bool) (a b : Fin 32) (s : State) :=
  run h (effVabs h t sa a b) s
def execVneg (h : Hdr) (t : VTy) (sa : Bool) (a b : Fin 32) (s : State) :=
  run h (effVneg h t sa a b) s
def execVcvt (h : Hdr) (t : VTy) (r : Rnd) (sa : Bool) (a b : Fin 32) (c : VTy) (s : State) :=
  run h (effVcvt h t r sa a b c) s
def execVsum (h : Hdr) (t : VTy) (r : Rnd) (sa : Bool) (a b : Fin 32) (s : State) :=
  run h (effVsum h t r sa a b) s
def execVdot (h : Hdr) (t : VTy) (r : Rnd) (sa : Bool) (a b : Fin 32) (c : VGSrc) (s : State) :=
  run h (effVdot h t r sa a b c) s
def execVcmp (h : Hdr) (t : CTy) (n : Cond) (u : Bool) (a b : Fin 32) (c : VSrc) (s : State) :=
  run h (effVcmp h t n u a b c) s
def execVsel (h : Hdr) (t : ITy) (a b : Fin 32) (c : VGSrc) (s : State) :=
  run h (effVsel h t a b c) s
def execVand (h : Hdr) (a b : Fin 32) (c : VGSrc) (s : State) :=
  run h (effVand h a b c) s
def execVor (h : Hdr) (a b : Fin 32) (c : VGSrc) (s : State) :=
  run h (effVor h a b c) s
def execVxor (h : Hdr) (a b : Fin 32) (c : VGSrc) (s : State) :=
  run h (effVxor h a b c) s
def execVshl (h : Hdr) (t : ITy) (sa : Bool) (a b : Fin 32) (c : VSrc) (s : State) :=
  run h (effVshl h t sa a b c) s
def execVshr (h : Hdr) (t : ITy) (u : Bool) (a b : Fin 32) (c : VSrc) (s : State) :=
  run h (effVshr h t u a b c) s
def execVbcast (h : Hdr) (t : VTy) (a : Fin 32) (m : BcastOp) (s : State) :=
  run h (effVbcast h t a m) s
def execVins (h : Hdr) (t : VTy) (a : Fin 32) (b : Fin 64) (c : GSrc) (s : State) :=
  run h (effVins h t a b c) s
def execVpack (h : Hdr) (t : VTy) (r : Rnd) (sa : Bool) (a b c : Fin 32) (s : State) :=
  run h (effVpack h t r sa a b c) s
def execVunpack (h : Hdr) (t : VTy) (a b : Fin 32) (c : VTy) (hi : Bool) (s : State) :=
  run h (effVunpack h t a b c hi) s
def execVperm (h : Hdr) (t : ITy) (a b c : Fin 32) (s : State) :=
  run h (effVperm h t a b c) s
def execVmr (h : Hdr) (t : VTy) (r : Rnd) (sa : Bool) (a b c : Fin 32) (s : State) :=
  run h (effVmr h t r sa a b c) s
def execVlog (h : Hdr) (t : VTy) (r : Rnd) (sa : Bool) (a b : Fin 32) (s : State) :=
  run h (effVlog h t r sa a b) s
def execValog (h : Hdr) (t : VTy) (r : Rnd) (sa : Bool) (a b : Fin 32) (s : State) :=
  run h (effValog h t r sa a b) s
def execVexp2 (h : Hdr) (t : VTy) (r : Rnd) (sa : Bool) (a b : Fin 32) (s : State) :=
  run h (effVexp2 h t r sa a b) s
def execVlog2 (h : Hdr) (t : VTy) (r : Rnd) (sa : Bool) (a b : Fin 32) (s : State) :=
  run h (effVlog2 h t r sa a b) s
def execVrcp (h : Hdr) (t : VTy) (r : Rnd) (sa : Bool) (a b : Fin 32) (s : State) :=
  run h (effVrcp h t r sa a b) s
def execVsqrt (h : Hdr) (t : VTy) (r : Rnd) (sa : Bool) (a b : Fin 32) (s : State) :=
  run h (effVsqrt h t r sa a b) s
def execVrsqrt (h : Hdr) (t : VTy) (r : Rnd) (sa : Bool) (a b : Fin 32) (s : State) :=
  run h (effVrsqrt h t r sa a b) s
def execVsigm (h : Hdr) (t : VTy) (r : Rnd) (sa : Bool) (a b : Fin 32) (s : State) :=
  run h (effVsigm h t r sa a b) s
def execVtanh (h : Hdr) (t : VTy) (r : Rnd) (sa : Bool) (a b : Fin 32) (s : State) :=
  run h (effVtanh h t r sa a b) s
def execVpow (h : Hdr) (t : VTy) (r : Rnd) (sa : Bool) (a b : Fin 32) (c : VGSrc) (s : State) :=
  run h (effVpow h t r sa a b c) s

end Sys2Proof.Machine
end

