-- ==== Sys2Proof/Machine/Context.lean ====
section
/-! DEFINITION. The context of a thread: the image of 24 Table 6, the checks of an image, re-issued jobs, and
`ctx.save`, `ctx.drop` and `ctx.load` (R435-R442). -/

namespace Sys2Proof.Machine

/-! ### Writing an image (R436) -/

def zeros (n : Nat) : List Byte := List.replicate n 0

/-- Entries of a list as records of one width, padded with zeros to n entries. -/
def table {α : Type} (n w : Nat) (f : α → Nat) (xs : List α) : List Byte :=
  (xs.take n).flatMap (fun x => toBytes w (f x)) ++ zeros (w * (n - xs.length))

/-- A signed number as the low n bits of a field. -/
def low (n : Nat) (x : Int) : Nat := (x % 2 ^ n).toNat

/-- Offsets 0x0000 to 0x003F. -/
def imageHead (s : State) (c k : Nat) (t : Thread) : List Byte :=
  toBytes 8 (s.core c).part.toNat ++ toBytes 8 t.pc.toNat ++
    toBytes 8 (t.place.gen.toNat * 2 ^ 32 + t.place.spaceid * 2 ^ 16 + k % 4 * 4 + flagAt t.priv 0) ++
    toBytes 8 t.place.charter.toNat ++ toBytes 8 (laneDepth * 2 ^ 40 + gangVal t) ++ zeros 24

/-- Offsets 0x0040 to 0x0257: g, p and b. -/
def imageRegs (t : Thread) : List Byte :=
  table 64 8 (fun r => (t.rdG r).toNat) (List.range 64) ++
    toBytes 8 ((List.range 7).foldl (fun a i => a + flagAt (t.rdP (i + 1)) (i + 1)) 0) ++
    table 8 2 (fun r => if r = 0 then 0 else (t.rdB r).toNat) (List.range 8)

/-- Offsets 0x0258 to 0x02FF: the control registers and what is pending. -/
def imageCtl (t : Thread) : List Byte :=
  let x := t.ctl
  table 16 8 id [x.xpc.toNat, x.xcause.toNat, x.xaddr.toNat, x.xinfo.toNat, x.xvec.toNat, xstatVal t, x.xscratch.toNat,
    x.ptime.toNat, x.cycles.toNat, x.frm.toNat, x.fflags.toNat, x.srseed.toNat, x.rsplits.toNat, tstateVal t.tol,
    t.tol.tentry.toNat, t.tol.treplays] ++
  toBytes 8 (t.msgCount % 2 ^ 32 * 2 ^ 32 + flagAt t.pend.msg 2 + flagAt t.ppoison.isSome 1 + flagAt t.rgn.conflict.isSome 0) ++
  toBytes 8 (match t.rgn.conflict with
    | some x => x.1
    | none => 0) ++
  toBytes 8 (match t.rgn.conflict, t.ppoison with
    | some x, _ => x.2
    | none, some x => x.1
    | none, none => 0) ++
  toBytes 8 (match t.ppoison with
    | some x => x.2.toNat
    | none => 0) ++ zeros 8

/-- One stream, 48 bytes. -/
def imageStream (t : Thread) (k : Nat) : List Byte :=
  match AMap.get t.streams k with
  | some x => toBytes 32 x.desc ++ toBytes 2 x.i0 ++ toBytes 2 x.i1 ++ toBytes 2 x.i2 ++ toBytes 2 x.i3 ++
      toBytes 8 (flagAt x.configured 0 + flagAt x.bound 1)
  | none => zeros 48

/-- The v register of an image: a bound one holds the last packet moved, which it takes when it is freed (R318). -/
def imageV (t : Thread) (r : Nat) : VVal :=
  match boundStream t r with
  | some x => x.last.getD (t.rdV r)
  | none => t.rdV r

/-- Offsets 0x0300 to 0x0A3F: sensitivities, generators, streams, no repeat, v and grades. -/
def imageVec (t : Thread) : List Byte :=
  table 192 2 (fun i => low 12 (t.sensOf (i / 3) (i % 3))) (List.range 192) ++
    table 32 2 (fun i => (t.gens.getD i 1).toNat) (List.range 32) ++
    (List.range 4).flatMap (imageStream t) ++ zeros 128 ++
    table 32 32 (fun r => (imageV t r).bits.toNat) (List.range 32) ++
    table 32 2 (fun r => (imageV t r).grade.toNat) (List.range 32)

/-- One line of the region buffer, 80 bytes. -/
def imageLine (h : HeldLine) : List Byte :=
  toBytes 8 h.pa ++ toBytes 8 (maskOf (AMap.keys h.bytes)) ++ (List.range 64).map (fun o => AMap.getD h.bytes o 0)

/-- Offsets 0x0A40 to 0x3FFF of the image of `ctx.save`: the sequencer, the renames and the lane are empty. -/
def imageRgn (c : Nat) (t : Thread) : List Byte :=
  zeros 768 ++
    table 64 16 (fun e : ReadLine => e.pa + (e.rv % 2 ^ 32 + e.mask % 2 ^ 16 * 2 ^ 32 + 2 ^ 48) * 2 ^ 64) (AMap.vals t.rgn.reads) ++
    ((AMap.vals t.rgn.held).take 64).flatMap imageLine ++ zeros (80 * (64 - t.rgn.held.length)) ++ zeros 2304 ++ zeros 64 ++
    table 64 8 (fun w => w % 2 ^ 40 + 1) (t.rgn.written.filter (fun w => w / 2 ^ 40 == c)) ++ zeros 3968

/-- The 16,384 bytes of the image that `ctx.save` writes for a thread. -/
def imageBytes (s : State) (c k : Nat) (t : Thread) : List Byte :=
  imageHead s c k t ++ imageRegs t ++ imageCtl t ++ imageVec t ++ imageRgn c t

/-! ### Checking an image (R442) -/

/-- The fields of 24 Table 6 that are reserved (0), as (bit offset, width). -/
def imageReserved : List (Nat × Nat) :=
  let every (n a w : Nat) (f : List (Nat × Nat)) : List (Nat × Nat) :=
    (List.range n).flatMap (fun i => f.map (fun e => (8 * (a + w * i) + e.1, e.2)))
  [(268, 4), (277, 3), (286, 2), (292, 4), (304, 16), (320, 192), (512, 64), (4608, 1), (4616, 56), (4672, 16)] ++
    every 8 0x248 2 [(12, 2)] ++ [(0x2D8 * 8 + 3, 29), (0x2F8 * 8, 64)] ++ every 192 0x300 2 [(12, 4)] ++
    every 4 0x4C0 48 [(226, 14), (252, 3), (322, 62)] ++ [(0x580 * 8 + 8, 24), (0x588 * 8, 960)] ++ every 32 0xA00 2 [(12, 3)] ++
    every 16 0xA40 48 [(96, 32), (320, 64)] ++ every 64 0xD40 16 [(113, 15)] ++ every 48 0x2540 48 [(38, 26)] ++
    every 64 0x2E80 8 [(1, 5), (40, 24)] ++ [(0x3080 * 8, 31744)]

/-- Whole fields of an image that hold a reserved value: the reason, counts above their range, a generator of 0, and
the state and kind of a rename entry. -/
def imageValues (b : Nat) : List Nat :=
  let bad (x : Bool) (o : Nat) : List Nat := if x then [o] else []
  bad (decide (3 < fld b 132 4)) 132 ++ bad (decide (16 < fld b 272 5)) 272 ++ bad (decide (48 < fld b 280 6)) 280 ++
    bad (decide (8 < fld b 288 4)) 288 ++
    (List.range 32).flatMap (fun i => bad (decide (fld b (8 * 0x480 + 16 * i) 16 = 0)) (8 * 0x480 + 16 * i)) ++
    (List.range 48).flatMap (fun i =>
      let o := 8 * 0x2540 + 384 * i
      bad (decide (fld b (o + 33) 2 = 3)) (o + 33) ++ bad (decide (4 < fld b (o + 35) 3)) (o + 35))

/-- The instruction word of a sequencer entry. -/
def imageWord (b i : Nat) : InstrWord := BitVec.ofNat 96 (fld b (8 * 0xA40 + 384 * i) 96)

/-- Every offending bit offset of an image for a thread. -/
def imageFaults (s : State) (c k b : Nat) : List Nat :=
  let t := s.thread c k
  let bad (x : Bool) (o : Nat) : List Nat := if x then [o] else []
  imageReserved.flatMap (fun e => bad (decide (fld b e.1 e.2 ≠ 0)) (e.1 + trailZeros e.2 (fld b e.1 e.2))) ++ imageValues b ++
    bad (decide (fld b 0 64 ≠ (s.core c).part.toNat)) 0 ++ bad (decide (fld b 144 16 ≠ t.place.spaceid)) 144 ++
    bad (decide (fld b 192 64 ≠ t.place.charter.toNat)) 192 ++
    bad (decide (0 < fld b 288 4) && decide (fld b 296 8 ≠ laneDepth)) 296 ++
    (List.range (min 16 (fld b 272 5))).flatMap (fun i => match decode (decodeCtx s c k) (imageWord b i) with
      | .instr _ => []
      | .trap _ _ => [8 * 0xA40 + 384 * i])

/-! ### Loading an image -/

def signedFld (b o n : Nat) : Int := sextI (fld b o n) n

/-- The home line of a DRAM physical address of the thread's space: the interleave of the page that a TLB holds for it
(log 66). -/
def lineOfPa (s : State) (c pa : Nat) : Nat :=
  let es := (s.core c).tlb ++ (s.cluster (clusterOf c)).l2
  homeLine pa (match es.find? (fun e => decide (e.pbase ≤ pa) && decide (pa < e.pbase + e.size)) with
    | some e => e.attrs.testBit 59
    | none => true)

def imageTol (b : Nat) : Tol :=
  let w := fld b (8 * 0x2C0) 64
  { root := BitVec.ofNat 16 (fld w 48 16), tree := BitVec.ofNat 19 (fld w 29 19), tight := fld w 17 12, deficit := fld w 5 12,
    short := w.testBit 4, exactpass := w.testBit 1, isOpen := w.testBit 0, tentry := BitVec.ofNat 64 (fld b (8 * 0x2C8) 64),
    treplays := fld b (8 * 0x2D0) 64, deferred := if w.testBit 0 then 5 else 0,
    sens := (List.range 192).map (fun i => (i, signedFld b (8 * 0x300 + 16 * i) 12)) }

def imageCtlOf (b : Nat) : Ctl :=
  let w (i : Nat) : Word := BitVec.ofNat 64 (fld b (8 * 0x258 + 64 * i) 64)
  { xpc := w 0, xcause := (w 1).setWidth 8, xaddr := w 2, xinfo := w 3, xvec := w 4 &&& ~~~3, xscratch := w 6,
    ppriv := (w 5).getLsbD 0, pie := (w 5).getLsbD 1, ie := (w 5).getLsbD 2, itimer := (w 5).getLsbD 8,
    imsg := (w 5).getLsbD 9, ptime := w 7, cycles := w 8, frm := (w 9).setWidth 3, fflags := (w 10).setWidth 6,
    srseed := w 11, rsplits := w 12 }

def imageStreamOf (b k : Nat) : Option Stream :=
  let o := 8 * (0x4C0 + 48 * k)
  if fld b (o + 320) 2 = 0 then none
  else some { desc := fld b o 256, configured := (fld b (o + 320) 1) == 1, bound := (fld b (o + 321) 1) == 1,
              i0 := fld b (o + 256) 16, i1 := fld b (o + 272) 16, i2 := fld b (o + 288) 16, i3 := fld b (o + 304) 16,
              last := if fld b (o + 321) 1 = 1 then
                some { bits := BitVec.ofNat 256 (fld b (8 * 0x600 + 256 * k) 256), grade := BitVec.ofNat 16 (fld b (8 * 0xA00 + 16 * k) 16) }
                else none }

def imageRegion (s : State) (c k b : Nat) : Region :=
  let ks := (s.thread c k).place.keyslot
  { held := (List.range 64).foldl (fun m i =>
      let o := 8 * (0x1140 + 80 * i)
      let pa := fld b o 64
      let mask := fld b (o + 64) 64
      let bs : AMap Byte := (List.range 64).filterMap (fun j =>
        if mask.testBit j then some (j, BitVec.ofNat 8 (fld b (o + 128 + 8 * j) 8)) else none)
      if mask = 0 then m else AMap.set m (lineOfPa s c pa) 
        { pa := pa, va := pa, key := keyOf ks pa, bytes := bs, shaded := [], gone := false }) []
    reads := (List.range 64).foldl (fun m i =>
      let o := 8 * (0xD40 + 16 * i)
      if fld b (o + 112) 1 = 0 then m
      else AMap.set m (lineOfPa s c (fld b o 64)) { pa := fld b o 64, va := fld b o 64, rv := fld b (o + 64) 32, mask := fld b (o + 96) 16 }) []
    written := (List.range 64).foldl (fun l i =>
      let w := fld b (8 * (0x2E80 + 8 * i)) 64
      if w.testBit 0 then insertNat (c * 2 ^ 40 + fld w 6 34 * 64) l else l) []
    conflict := if b.testBit (8 * 0x2D8) then some (fld b (8 * 0x2E0) 64, fld b (8 * 0x2E8) 64) else none }

/-- The pending poison of an image; its cause stands in cmask when no conflict is pending, with the sub-cause of a 0x0D
above it (logs 59, 67). -/
def imagePoison (b : Nat) : Option (Nat × Word) :=
  if b.testBit (8 * 0x2D8 + 1) then
    some (if b.testBit (8 * 0x2D8) then 0x11 else fld b (8 * 0x2E8) 16, BitVec.ofNat 64 (fld b (8 * 0x2F0) 64))
  else none

/-- The sequencer entries of an image for a slot; a repeat in progress stands before its body. They act at the privilege
of the image, which does not record another one, and the bytes of a `vld`, for which it has no place, are free (log 66). -/
def imageSeq (s : State) (c k b : Nat) : List SeqEntry :=
  let entry (i : Nat) : Option SeqEntry := match decode (decodeCtx s c k) (imageWord b i) with
    | .instr x =>
      let w (j : Nat) : Word := BitVec.ofNat 64 (fld b (8 * 0xA40 + 384 * i + 128 + 64 * j) 64)
      some { slot := k, instr := x, pc := 0, s0 := w 0, s1 := w 1, s2 := w 2,
             bytes := toBytes 32 (Config.freeValue (s.free + i)), priv := b.testBit 128, void := false }
    | .trap _ _ => none
  let es := (List.range (fld b 272 5)).filterMap entry
  match es with
  | [] => []
  | e :: _ =>
    if fld b (8 * 0x580) 4 = 0 then es
    else { e with instr := .vrpt { pred := 0, inv := false, taken := false, yields := false, lastb := false, lastc := false } (.imm 0) 1, s0 := BitVec.ofNat 64 (fld b (8 * 0x580 + 32) 32),
                  s1 := BitVec.ofNat 64 (fld b (8 * 0x580) 4) } :: es

def imageRepeat (es : List SeqEntry) (b : Nat) : Option Repeat :=
  let n := fld b (8 * 0x580) 4
  if n = 0 ∨ es.isEmpty then none
  else some { count := fld b (8 * 0x580 + 32) 32, len := n, body := (es.drop 1).take n, running := true,
              left := fld b (8 * 0x580 + 32) 32, next := fld b (8 * 0x580 + 4) 4 }

/-- The rename entries of an image: key (queue, old identifier). -/
def imageRen (b : Nat) : AMap Rename :=
  (List.range (fld b 280 6)).foldl (fun m i =>
    let o := 8 * (0x2540 + 48 * i)
    let key := fld b (o + 32) 1 * 2 ^ 32 + fld b o 32
    let kind := fld b (o + 35) 3
    match fld b (o + 33) 2 with
    | 1 => AMap.set m key (if kind = 4 then .command kind 0 0 (fld b (o + 128) 128) (fld b (o + 256) 128)
        else .command kind (fld b (o + 128) 64) (fld b (o + 192) 64) 0 0)
    | 2 => AMap.set m key (.final (fld b (o + 128) 128))
    | _ => m) []

/-- The thread of an image: every field of 24 Table 6 (R442). -/
def loadThread (s : State) (c k b : Nat) : Thread :=
  let t := s.thread c k
  let es := imageSeq s c k b
  let gang := fld b 256 12
  { t with
    pc := BitVec.ofNat 64 (fld b 64 64), priv := b.testBit 128
    g := (List.range 63).map (fun i => (i + 1, BitVec.ofNat 64 (fld b (8 * 0x40 + 64 * (i + 1)) 64)))
    p := (List.range 7).map (fun i => (i + 1, b.testBit (8 * 0x240 + i + 1)))
    b := (List.range 7).map (fun i => (i + 1, BitVec.ofNat 16 (fld b (8 * 0x248 + 16 * (i + 1)) 16)))
    v := (List.range 32).map (fun i => (i, { bits := BitVec.ofNat 256 (fld b (8 * 0x600 + 256 * i) 256)
                                             grade := BitVec.ofNat 16 (fld b (8 * 0xA00 + 16 * i) 16) }))
    ctl := imageCtlOf b, tol := imageTol b, rgn := imageRegion s c k b
    gens := (List.range 32).map (fun i => BitVec.ofNat 16 (fld b (8 * 0x480 + 16 * i) 16))
    streams := (List.range 4).filterMap (fun i => (imageStreamOf b i).map (fun x => (i, x)))
    rpt := imageRepeat es b, ppoison := imagePoison b, msgCount := fld b (8 * 0x2D8 + 32) 32
    pend := { t.pend with msg := b.testBit (8 * 0x2D8 + 2), timer := false }
    ren := imageRen b, answer := none, rel := none, inStub := false, fresh := false
    place := { t.place with gen := BitVec.ofNat 32 (fld b 160 32), gsize := fld gang 0 4, gpos := fld gang 4 4,
                            leader := fld gang 8 3, shed := gang.testBit 11 } }

/-! ### Re-issued jobs (R435, R438) -/

/-- Bytes that thread (c, k) names by an address: its own or a peer's pool, or memory at the home; none where nothing
answers. -/
def recordBytes (s : State) (c k : Nat) (a n : Nat) : Option (List Byte) :=
  match windowAt s c (BitVec.ofNat 64 a) with
  | some p => some ((s.core p.1).bytes p.2 n)
  | none =>
    match readSpace s (writerOf c k) (s.thread c k).place.spaceid a n with
    | ((0, bs), _) => some bs
    | (_, _) => none

/-- The acceptance of one command by the acting thread; its record is read again. -/
def reissueEff (s : State) : Nat → Nat → Nat → Nat → Nat → Eff
  | 0, a, _, _, _ =>
    match recordBytes s s.cur.1 s.cur.2 a 64 with
    | none => .fail s 0x05 0
    | some bs =>
      let r0 := ofBytes bs
      -- the identifier after which the job runs is renamed through the same table (R435)
      let r := match AMap.get s.me.ren ((if mxAfterq r0 = 1 then 0 else 1) * 2 ^ 32 + mxAfter r0) with
        | some (.renamed n) => if mxAfterq r0 = 0 then r0 else setFld r0 352 32 n
        | some (.final _) => r0
        | some (.command _ _ _ _ _) => r0
        | none => r0
      if mxOffs s (clusterOf s.cur.1) s.myCore.part r ≠ [] then .fail s 0x0F 0
      else acceptMx s 0 r (BitVec.ofNat 64 a) (mxAcc r) (mxTiles r) none
  | 1, _, upper, _, _ => acceptMx s 0 0 0 (fld upper 0 32) (fld upper 32 32) (some (fld upper 0 32, fld upper 32 32))
  | 4, _, _, name, block => acceptOut s 0 0 (fld name 0 96) (fld block 0 64) (fld block 64 32)
  | kind, a, upper, _, _ =>
    match recordBytes s s.cur.1 s.cur.2 a 96 with
    | none => .fail s 0x05 0
    | some bs =>
      let mask := if kind = 3 then fld upper 24 8 else 0
      if layoutOffs (ofBytes bs) (mask ≠ 0) ≠ [] then .fail s 0x02 0
      else acceptCopy s 0 (ofBytes bs) (BitVec.ofNat 64 a) mask (mask ≠ 0) (some (fld upper 32 32))

/-- Re-issue one rename entry of thread (c, k); none while the queue or the shutters have no room. A record that the
unit no longer accepts leaves a final word with status 2 and a code that the spec does not state (log 68). -/
def reissueOne (c k : Nat) (s : State) (e : Nat × Rename) : Option State :=
  let setRen (s : State) (r : Rename) : State := s.modThread c k (fun t => { t with ren := AMap.set t.ren e.1 r })
  match e.2 with
  | .command kind a upper n1 n2 =>
    let q := e.1 / 2 ^ 32
    let id := queueNext s (clusterOf c) q
    match reissueEff { s with cur := (c, k) } kind a upper n1 n2 with
    | .ok s1 => some (setRen { s1 with cur := s.cur } (.renamed id))
    | .park _ _ => none
    | .trap _ _ =>
      let f := s.drawFree
      some (setRen f.2 (.final (e.1 % 2 ^ 32 + 2 * 2 ^ 32 + wfld f.1 0 8 * 2 ^ 40)))
    | .once _ _ => none
    | .jump _ _ => none
    | .wait _ => none
  | .final _ => some s
  | .renamed _ => some s

/-- Re-issue every command of a thread in ascending old identifier per queue. -/
def reissueAll (s : State) (c k : Nat) : Option State := (s.thread c k).ren.foldlM (reissueOne c k) s

/-! ### ctx.drop (R441) -/

/-- Cancel the jobs of the acting thread that have no final status; how many. -/
def dropJobs (s : State) : Nat × State :=
  s.me.jobs.foldl (fun (q : Nat × State) j =>
    let r := cancelJob q.2 (clusterOf s.cur.1) j.1 j.2 s.me.place.launch s.me.place.node
    if r.1 = 0 then (q.1 + 1, r.2) else q) (0, s)

/-- The bound registers take their last packets, and no stream is configured. -/
def dropStreams (t : Thread) : Thread := { [0, 1, 2, 3].foldl freeStream t with streams := [] }

/-- What `ctx.drop` does to the acting thread, with the number of jobs cancelled. -/
def dropContext (s : State) : Nat × State :=
  let q := dropJobs s
  let s1 := q.2.modCore s.cur.1 (fun x => { x with seq := x.seq.filter (fun e => e.slot != s.cur.2) })
  (q.1, s1.modMe (fun t =>
    { dropStreams t with
      rgn := Region.empty, tol := { t.tol with isOpen := false, deferred := 0 }, rpt := none, answer := none, ppoison := none }))

def effCtxDrop (a : Fin 64) (s : State) : Eff :=
  let q := dropContext s
  .ok (q.2.wrG a.val (BitVec.ofNat 64 q.1))

/-! ### The memory of an image -/

/-- The translations of the 256 lines of an image from line i on, or the address and status that failed (by fuel). -/
def imageTrans (m : Word) (kind : WalkKind) : Nat → Nat → State → List Trans → (Option (Word × Nat) × List Trans) × State
  | 0, _, s, acc => ((none, acc), s)
  | f + 1, i, s, acc =>
    let va := m + BitVec.ofNat 64 (64 * i)
    match xlateCore s s.cur.1 s.me.place.spaceid kind va.toNat with
    | ((0, tr), s1) => imageTrans m kind f (i + 1) s1 (acc ++ [tr])
    | ((st, _), s1) => ((some (va, st), acc), s1)

/-- Translate every line of an image, then go on. -/
def withImage (s : State) (m : Word) (kind : WalkKind) (k : State → List Trans → Eff) : Eff :=
  match imageTrans m kind 256 0 s [] with
  | ((some e, _), s1) => walkStop s1 e.1 kind e.2 4
  | ((none, ts), s1) => k s1 ts

/-- M3 and M5 of the lines of an image, after the writes already queued. -/
def writeImageLines (s : State) (ts : List Trans) (bs : List Byte) : State :=
  let c := s.cur.1
  let k := s.cur.2
  let s1 := foldUp s.me.wq.length (fun _ s => dispatchOldest s c k) s
  ((List.range ts.length).zip ts).foldl (fun s e =>
    dispatchWrite s c k
      { host := e.2.host, line := if e.2.host then e.2.hostAddr else e.2.line, off := if e.2.host then 0 else e.2.off
        checked := !e.2.host && e.2.checked, key := e.2.key, op := .store ((bs.drop (64 * e.1)).take 64) }) s1

/-- One line of an image as the thread reads it (M1): its own writes over the home. -/
def readImageLine (s : State) (tr : Trans) : List Byte × Nat :=
  let c := s.cur.1
  let k := s.cur.2
  if tr.host then ((List.range 64).map (fun i => (ownHostByte s c k (tr.hostAddr + i)).getD (Cells.get s.mem.host (tr.hostAddr + i))), 0)
  else ((overlay s c k tr.line 0 (s.mem.lineBytes tr.line tr.key 0 64)).1, homePoison s.mem tr.line (baseWords s c k tr.line 0 64))

/-- Read the image at m: pool bytes at once, memory line by line at the home. -/
def readImage (s : State) (m : Word) (k : State → List Byte → Eff) : Eff :=
  match windowCheck s m 16384 false with
  | some t => .trap s t
  | none =>
    match windowAt s s.cur.1 m with
    | some p =>
      if poolShut (s.core p.1) p.2 16384 then .park s .shutter
      else if (s.core p.1).poisoned p.2 16384 then .failAt s 0x11 m 1
      else k s ((s.core p.1).bytes p.2 16384)
    | none =>
      if globalShut s.myCore m.toNat 16384 || vstPending s m.toNat 16384 then .park s .shutter
      else withImage s m .read (fun s1 ts =>
        if ts.any (fun tr => !tr.host && dieHeld s1 (lineDie tr.line)) then .park s1 (.retry (s1.time.cycle + 1))
        else if ts.any (fun tr => !tr.host && redPending s1 s1.cur.1 s1.cur.2 tr.line 0 64) then .park s1 (.retry (s1.time.cycle + 1))
        else
          let s2 := ts.foldl (fun s tr => if tr.host then s
            else (nearDrop s s.cur.1 (nearIdx tr.key tr.line)).modMem (fun m => m.fill tr.line tr.key)) s1
          let xs := ts.map (readImageLine s2)
          match xs.findIdx? (fun x => decide (x.2 ≠ 0)) with
          | some i => .failAt s2 0x11 (m + BitVec.ofNat 64 (64 * i)) (xs.getD i ([], 0)).2
          | none => k s2 (xs.flatMap Prod.fst))

/-! ### ctx.save (R440) -/

/-- The image of the acting thread, as a load of it resumes. -/
def savedImage (s : State) (a : Fin 64) : List Byte :=
  imageBytes s s.cur.1 s.cur.2 { s.me.wrG a.val 1 with pc := s.me.pc + 12 }

/-- Every job that the thread issued has a final status. -/
def jobsDone (s : State) : Bool :=
  s.me.jobs.all (fun j => jobFinal s (clusterOf s.cur.1) j.1 j.2)

/-- The release of the image has begun at this instruction (log 69). -/
def imageSent (s : State) : Bool :=
  match s.me.rel with
  | some r => r.pc == s.me.pc
  | none => false

/-- Write the image once, then wait as a release at .clu does. -/
def saveImage (s : State) (a : Fin 64) (m : Word) : Eff :=
  let done (s : State) : Eff := .ok (s.wrG a.val 0)
  match windowAt s s.cur.1 m with
  | some p =>
    if poolShut (s.core p.1) p.2 16384 then .park s .shutter
    else withRelease (if imageSent s then s else s.modCore p.1 (fun x => x.putBytes p.2 (savedImage s a))) .clu done
  | none =>
    if imageSent s then withRelease s .clu done
    else if globalShut s.myCore m.toNat 16384 then .park s .shutter
    else withImage s m .write (fun s1 ts => withRelease (writeImageLines s1 ts (savedImage s1 a)) .clu done)

def effCtxSave (a : Fin 64) (b : Mem) (s : State) : Eff :=
  let m := memAddr s b 8
  notTolerant s (aligned s m 64 (
    match (match windowCheck s m 16384 true, windowAt s s.cur.1 m with
      | some t, _ => some t
      | none, some p => if inScratch (s.core p.1).part p.2 16384 then none else some (windowTrap m)
      | none, none => none) with
    | some t => .trap s t
    | none =>
      let save (s : State) : Eff := afterSiding s (fun s1 => if jobsDone s1 then saveImage s1 a m else .park s1 .save)
      if (windowAt s s.cur.1 m).isSome then save s else withImage s m .write (fun s1 _ => save s1)))

/-! ### ctx.load (R442) -/

/-- The outgoing lane of an image; with no entry saved the lane stays as it is (log 70). -/
def loadLane (s : State) (c k b : Nat) : State :=
  let n := fld b 288 4
  if n = 0 then s
  else setLane s c (outLane c k) ((List.range n).map (fun i => BitVec.ofNat 64 (fld b (8 * (0x2E40 + 8 * i)) 64)))
    (rootOf s (s.thread c k).place.launch)

/-- Replace the context of the acting thread by a checked image. -/
def loadImage (s : State) (b : Nat) : Eff :=
  let c := s.cur.1
  let k := s.cur.2
  let s1 := (dropContext s).2
  let t := loadThread s1 c k b
  let s2 : State := { (loadLane s1 c k b).modCore c (fun x => { x with seq := x.seq ++ imageSeq s1 c k b }) with free := s1.free + 16 }
  match reissueAll (s2.setThread c k t) c k with
  | none => .park s .jobQueue
  | some s3 => .jump s3 t.pc

def effCtxLoad (a : Mem) (s : State) : Eff :=
  let m := memAddr s a 8
  aligned s m 64 (readImage s m (fun s1 bs =>
    let b := ofBytes bs
    match (imageFaults s1 s1.cur.1 s1.cur.2 b).min? with
    | some o => .failAt s1 0x02 m (o % 2 ^ 16 + 3 * 2 ^ 16)
    | none => loadImage s1 b))

def execCtxSave (h : Hdr) (a : Fin 64) (b : Mem) (s : State) := run h (effCtxSave a b) s
def execCtxLoad (h : Hdr) (a : Mem) (s : State) := runHandler 0xF1 h (effCtxLoad a) s
def execCtxDrop (h : Hdr) (a : Fin 64) (s : State) := runHandler 0xF2 h (effCtxDrop a) s

end Sys2Proof.Machine
end

