-- ==== Sys2Proof/Machine/Shoot.lean ====
section
/-! DEFINITION. Walks by the walkers and shoot-downs (R250, R251, R254, R255), with their events. -/

namespace Sys2Proof.Machine

/-! ### A walk (R250, R251) -/

/-- A walker translates a miss of a core: on success the entry stands in the L2 TLB and the core's L1, or in the
cluster's instruction TLB; a failed walk leaves nothing. -/
def walkMiss (s : State) (c sp : Nat) (va : Word) (kind : WalkKind) : State :=
  match kind with
  | .read => serveMiss s c sp va.toNat kind
  | .write => serveMiss s c sp va.toNat kind
  | .fill => (xlateCluster s (clusterOf c) sp true .compute kind va.toNat).2

def execTlbWalk (core space : Nat) (va : Word) (kind : WalkKind) (s : State) : Host.Outcome State Fault Refusal :=
  onUnit (isCore core) (walkMiss s core space va kind)

/-! ### Shoot-downs (R254, R255) -/

/-- What a shoot-down removes: the pages of a space that meet [lo, hi), or those of every space. -/
structure Shot where
  space : Option Nat
  ispace : Bool
  lo : Nat
  hi : Nat
  deriving DecidableEq, Repr

/-- The entry goes. -/
def Shot.hits (x : Shot) (e : Tlb) : Bool :=
  (match x.space with
   | some sp => e.space == sp
   | none => true) && e.ispace == x.ispace && decide (e.vbase < x.hi) && decide (x.lo < e.vbase + e.size)

/-- The whole address space, as translations count it. -/
def wholeSpace : Nat := 2 ^ 57

/-- The shot of a control word and an address (12 Table 9). -/
def shotOf (addr : Word) (ctrl : Nat) : Shot :=
  let va := addr.toNat % 2 ^ 57 / 4096 * 4096
  let n := fld ctrl 18 6
  let sp := some (fld ctrl 0 16)
  let isp := ctrl.testBit 24
  match fld ctrl 16 2 with
  | 0 => { space := sp, ispace := isp, lo := va, hi := va + 4096 }
  | 1 => if 12 ≤ n ∧ n ≤ 57 then { space := sp, ispace := isp, lo := va / 2 ^ n * 2 ^ n, hi := va / 2 ^ n * 2 ^ n + 2 ^ n }
      else { space := sp, ispace := isp, lo := 0, hi := wholeSpace }
  | 2 => { space := sp, ispace := isp, lo := 0, hi := wholeSpace }
  | _ => { space := none, ispace := isp, lo := 0, hi := wholeSpace }

/-- Every TLB drops its matching entries. -/
def dropTlbs (s : State) (x : Shot) : State :=
  { s with
    cores := s.cores.map (fun e => (e.1, { e.2 with tlb := e.2.tlb.filter (fun t => !x.hits t) }))
    clusters := s.clusters.map (fun e => (e.1, { e.2 with
      l2 := e.2.l2.filter (fun t => !x.hits t), itlb := e.2.itlb.filter (fun t => !x.hits t)
      etlb := e.2.etlb.filter (fun t => !x.hits t) }))
    net := { s.net with tlb := s.net.tlb.filter (fun t => !x.hits t) } }

/-- The held lines of a thread that a shot covers. -/
def rewalkThread (x : Shot) (c k : Nat) (s : State) : State :=
  let t := s.thread c k
  let hit := (match x.space with
    | some sp => t.place.spaceid == sp
    | none => true) && !x.ispace
  (t.rgn.held.filter (fun e => hit && decide (x.lo ≤ e.2.va % 2 ^ 57) && decide (e.2.va % 2 ^ 57 < x.hi))).foldl
    (rewalkLine c k) s

def rewalkHeld (s : State) (x : Shot) : State :=
  s.cores.foldl (fun s e => e.2.slots.foldl (fun s q => rewalkThread x e.1 q.1 s) s) s

/-- Start a shoot-down on a register set; ignored while one is in progress. -/
def startShot (s : State) (i : Nat) (addr : Word) (ctrl : Nat) : State :=
  let r := AMap.getD s.mgmt.shoot i ShootSet.reset
  if r.busy then s
  else
    let s1 := s.modMgmt (fun g => { g with shoot := AMap.set g.shoot i { r with addr := addr, ctrl := ctrl % 2 ^ 25, busy := true } })
    rewalkHeld (dropTlbs s1 (shotOf addr ctrl)) (shotOf addr ctrl)

/-- No access that a removed entry translated is still on its way: nothing is queued, on a path, or held by a `vst` in
a sequencer. -/
def shotQuiet (s : State) : Bool :=
  s.mem.paths.all (fun e => e.2.all (fun p => match p.op with
    | .marker => true
    | .write _ => false
    | .reduce _ _ _ _ _ _ _ => false)) &&
  s.cores.all (fun e => e.2.slots.all (fun q => q.2.wq.isEmpty) && e.2.seq.all (fun q => match q.instr with
    | .vst _ _ _ => false
    | _ => true))

def endShot (s : State) (i : Nat) : State :=
  let r := AMap.getD s.mgmt.shoot i ShootSet.reset
  if r.busy && shotQuiet s then
    (rewalkHeld s (shotOf r.addr r.ctrl)).modMgmt (fun g => { g with shoot := AMap.set g.shoot i { r with busy := false, count := (r.count + 1) % 2 ^ 32 } })
  else s

/-- The control word of a shoot-down. -/
def shotCtrl (space kind n : Nat) (ispace : Bool) : Nat :=
  space % 2 ^ 16 + kind * 2 ^ 16 + n % 64 * 2 ^ 18 + flagAt ispace 24

def isShootSet (i : Nat) : Bool := decide (i < 16)

def execShootdownPage (set space : Nat) (addr : Word) (ispace : Bool) (s : State) : Host.Outcome State Fault Refusal :=
  onUnit (isShootSet set) (startShot s set addr (shotCtrl space 0 0 ispace))

def execShootdownRange (set space : Nat) (addr : Word) (n : Nat) (ispace : Bool) (s : State) : Host.Outcome State Fault Refusal :=
  onUnit (isShootSet set) (startShot s set addr (shotCtrl space 1 n ispace))

def execShootdownSpace (set space : Nat) (ispace : Bool) (s : State) : Host.Outcome State Fault Refusal :=
  onUnit (isShootSet set) (startShot s set (AMap.getD s.mgmt.shoot set ShootSet.reset).addr (shotCtrl space 2 0 ispace))

def execShootdownAll (set : Nat) (ispace : Bool) (s : State) : Host.Outcome State Fault Refusal :=
  onUnit (isShootSet set) (startShot s set (AMap.getD s.mgmt.shoot set ShootSet.reset).addr
    (shotCtrl (fld (AMap.getD s.mgmt.shoot set ShootSet.reset).ctrl 0 16) 3 0 ispace))

def execShootdownComplete (set : Nat) (s : State) : Host.Outcome State Fault Refusal :=
  onUnit (isShootSet set) (endShot s set)

end Sys2Proof.Machine
end

