-- ==== Sys2Proof/Machine/Port.lean ====
section
/-! DEFINITION. Accesses of the network ports, the host link and the storage port to the memory of a space, with the
walk service of R253 (R244, R248). -/

namespace Sys2Proof.Machine

/-- Writer ids of the ports (log 11). -/
def portWriter (p : Nat) : Nat := 16400 + p
def hostWriter : Nat := 16410
def driveWriter : Nat := 16411

/-- What a port's access comes to: done, waiting for service, or failed with a walk status at an address. -/
inductive PX (α : Type) where
  | ok (x : α) (s : State)
  | wait (s : State)
  | fail (status addr : Nat) (s : State)

/-- The walk that an issuer waits for at an address. -/
def walkOf (s : State) (issuer sp va : Nat) : Option Nat :=
  (s.mem.walks.find? (fun e => e.2.issuer == issuer && e.2.space == sp && e.2.va == va)).map Prod.fst

/-- Translate one address of a port; a walk of status 1, 2 or 9 asks for service once and waits, and fails when the
service was declined (R253); an access whose home die resets waits (R449). -/
def portTrans (s : State) (issuer sp : Nat) (kind : WalkKind) (va : Nat) : PX Trans :=
  match xlatePort s sp kind va with
  | ((0, tr), s1) => if !tr.host && dieHeld s1 (lineDie tr.line) then .wait s1 else .ok tr s1
  | ((st, _), s1) =>
    if !serviced st then .fail st va s1
    else if s1.net.declined.contains (issuer, sp, va) then
      .fail st va { s1 with net := { s1.net with declined := s1.net.declined.erase (issuer, sp, va) } }
    else if (walkOf s1 issuer sp va).isSome then .wait s1
    else .wait (askService s1 issuer sp va kind st).2

/-- Read a line at a time, by fuel: the bytes, and whether some of them are poisoned. -/
def portReadFrom (issuer sp : Nat) : Nat → State → Nat → Nat → List Byte × Bool → PX (List Byte × Bool)
  | 0, s, _, _, acc => .ok acc s
  | f + 1, s, va, n, acc =>
    if n = 0 then .ok acc s
    else
      match portTrans s issuer sp .read (va % 2 ^ 64) with
      | .ok tr s1 =>
        let k := chunkOf va n
        let bad := !tr.host && s1.mem.poisoned (tr.line * 64 + tr.off) k
        portReadFrom issuer sp f s1 (va + k) (n - k) (acc.1 ++ outsideRead s1 issuer tr k, acc.2 || bad)
      | .wait s1 => .wait s1
      | .fail st a s1 => .fail st a s1

def portRead (s : State) (issuer sp va n : Nat) : PX (List Byte × Bool) :=
  portReadFrom issuer sp (n / 64 + 2) s va n ([], false)

/-- Translate every line of a write before any byte is written, by fuel. -/
def portProbe (issuer sp : Nat) : Nat → State → Nat → Nat → PX Unit
  | 0, s, _, _ => .ok () s
  | f + 1, s, va, n =>
    if n = 0 then .ok () s
    else
      match portTrans s issuer sp .write (va % 2 ^ 64) with
      | .ok _ s1 => portProbe issuer sp f s1 (va + chunkOf va n) (n - chunkOf va n)
      | .wait s1 => .wait s1
      | .fail st a s1 => .fail st a s1

/-- Write bytes, all or none of them. -/
def portWrite (s : State) (issuer sp va : Nat) (bs : List Byte) : PX Unit :=
  match portProbe issuer sp (bs.length / 64 + 2) s va bs.length with
  | .ok _ s1 => .ok () (writeSpace s1 issuer sp va bs).2
  | .wait s1 => .wait s1
  | .fail st a s1 => .fail st a s1

/-- An interrupt to a system core. -/
def sysIrq (s : State) (kind core : Nat) (data : List Nat) : State :=
  s.modMgmt (fun g => { g with irqs := g.irqs ++ [{ kind := kind, core := core, data := data }] })

end Sys2Proof.Machine
end

