-- ==== Sys2Proof/Machine/Net.lean ====
section
/-! DEFINITION. The network ports, the module transport and the raw and PTP rings (R456-R466), with their events. -/

namespace Sys2Proof.Machine

/-! ### Parts -/

def State.port (s : State) (p : Nat) : Port := AMap.getD s.net.ports p Port.reset
def State.modPort (s : State) (p : Nat) (f : Port → Port) : State :=
  { s with net := { s.net with ports := AMap.set s.net.ports p (f (s.port p)) } }
def State.flow (s : State) (f : Nat) : Flow := AMap.getD s.net.flows f Flow.reset
def State.setFlow (s : State) (f : Nat) (x : Flow) : State :=
  { s with net := { s.net with flows := AMap.set s.net.flows f x } }
def State.modFlow (s : State) (f : Nat) (g : Flow → Flow) : State := s.setFlow f (g (s.flow f))
def Flow.path (x : Flow) (i : Nat) : Path := AMap.getD x.paths i Path.reset
def Flow.setPath (x : Flow) (i : Nat) (p : Path) : Flow := { x with paths := AMap.set x.paths i p }
def State.modPath (s : State) (f i : Nat) (g : Path → Path) : State :=
  s.modFlow f (fun x => x.setPath i (g (x.path i)))

/-! ### The flow entry (25 Table 7) -/

def feCqLog (e : Nat) : Nat := fld e 116 4
def feWqLog (e : Nat) : Nat := fld e 112 4
def feSpace (e : Nat) : Nat := fld e 88 16
def fePorts (e : Nat) : List Nat := (List.range 8).filter (fun i => e.testBit (80 + i))
def fePaths (e : Nat) : Nat := fld e 76 4 + 1

/-- An entry is in use (R459). -/
def feOk (e : Nat) : Bool :=
  e.testBit 104 && decide (fld e 384 128 = 0) && decide (fld e 120 8 = 0) && decide (fld e 106 6 = 0) &&
    decide (4 ≤ feCqLog e) && decide (4 ≤ feWqLog e) && decide (feWqLog e ≤ 12) && decide (fld e 80 8 ≠ 0) &&
    decide (fld e 320 2 = 0) && decide (fld e 256 5 = 0) && decide (fld e 192 2 = 0) && decide (fld e 128 6 = 0)

/-- The port through which path i of a flow leaves (R460). -/
def pathPort (e i : Nat) : Nat := (fePorts e).getD (i % max 1 (fePorts e).length) 0

/-! ### Frames (R456) -/

/-- The CRC-32 of IEEE 802.3, a bit at a time. -/
def crcBit (c : Nat) : Nat := if c % 2 = 1 then (c / 2) ^^^ 0xEDB88320 else c / 2
def crcByte (c : Nat) (b : Byte) : Nat := (List.range 8).foldl (fun x _ => crcBit x) (c ^^^ b.toNat)
def crc32 (bs : List Byte) : Nat := (bs.foldl crcByte 0xFFFFFFFF) ^^^ 0xFFFFFFFF

/-- An address of 48 bits as it stands in a frame, first byte highest. -/
def macBytes (a : Nat) : List Byte := (toBytes 6 a).reverse

/-- A two-byte field of a frame, first byte highest. -/
def beNat (bs : List Byte) : Nat := ofBytes bs.reverse

/-- The port sends a frame, padded to 60 bytes, with its FCS. -/
def sendFrame (s : State) (p : Nat) (bytes : List Byte) : State :=
  let body := bytes ++ List.replicate (60 - bytes.length) 0
  let x := s.port p
  if x.enable && x.up then
    s.modPort p (fun x => { x with sent := x.sent ++ [body ++ toBytes 4 (crc32 body)], framestx := (x.framestx + 1) % 2 ^ 64 })
  else s

def countDrop (s : State) (p : Nat) : State := s.modPort p (fun x => { x with dropped := (x.dropped + 1) % 2 ^ 64 })

/-! ### Headers (25 Table 8) -/

def hdType (h : Nat) : Nat := fld h 8 8
def hdLast (h : Nat) : Bool := h.testBit 16
def hdRelease (h : Nat) : Bool := h.testBit 17
def hdAckReq (h : Nat) : Bool := h.testBit 18
def hdFlow (h : Nat) : Nat := fld h 28 12
def hdMpath (h : Nat) : Nat := fld h 40 4
def hdPath (h : Nat) : Nat := fld h 44 4
def hdLen (h : Nat) : Nat := fld h 48 16
def hdAck (h : Nat) : Nat := fld h 64 32
def hdPsn (h : Nat) : Nat := fld h 96 32
def hdOff (h : Nat) : Nat := fld h 128 32
def hdMsg (h : Nat) : Nat := fld h 160 32
def hdAddr (h : Nat) : Nat := fld h 192 64

/-- A header without the fields of its path. -/
def mkHeader (type msg off addr len mpath : Nat) (last release : Bool) : Nat :=
  1 + type * 2 ^ 8 + flagAt last 16 + flagAt release 17 + mpath * 2 ^ 40 + len * 2 ^ 48 + off % 2 ^ 32 * 2 ^ 128 +
    msg % 2 ^ 32 * 2 ^ 160 + addr % 2 ^ 64 * 2 ^ 192

/-- No write of a network port is on its way to its home. -/
def netQuiet (s : State) : Bool :=
  !(s.mem.paths.any (fun e => e.2.any (fun p => decide (16400 ≤ p.writer) && decide (p.writer < 16408))))

/-- The psn after the last packet of a path that has been accepted and has performed (R462). -/
def ackTo (s : State) (p : Path) : Nat := if netQuiet s then p.holds.head?.getD p.recvPsn else p.acked

/-- Send a packet of a flow on a path with a psn; it carries the acknowledgement of the path. -/
def emit (s : State) (f i psn header : Nat) (payload : List Byte) : State :=
  let x := s.flow f
  let a := ackTo s (x.path i)
  let h := header + fld x.entry 64 12 * 2 ^ 28 + i * 2 ^ 44 + (a + 2 ^ 32 - 1) % 2 ^ 32 * 2 ^ 64 + psn % 2 ^ 32 * 2 ^ 96
  let tag := if x.entry.testBit 63 then [0x81, 0x00] ++ (toBytes 2 (fld x.entry 60 3 * 2 ^ 13 + fld x.entry 48 12)).reverse else []
  let s1 := s.modPath f i (fun p => { p with acked := a, ackNow := false, accTick := s.time.tick })
  sendFrame s1 (pathPort x.entry i)
    (macBytes (fld x.entry 0 48) ++ macBytes (s.port (pathPort x.entry i)).pmac ++ tag ++ [0x88, 0xB5] ++ toBytes 32 h ++ payload)

/-! ### Sending (R461, R462) -/

def Path.bytes (p : Path) : Nat := p.unacked.foldl (fun n q => n + q.payload.length) 0

/-- Paths of a flow that are up. -/
def upPaths (x : Flow) : List Nat := (List.range (fePaths x.entry)).filter (fun i => !(x.path i).down)

/-- The path with the fewest unacknowledged bytes, ties to the lowest index. -/
def bestPath (x : Flow) : Option Nat := (sortBy (fun i => (x.path i).bytes * 16 + i) (upPaths x)).head?

/-- The path for n more bytes; none may hold more than 512 KiB unacknowledged. -/
def pathFor (x : Flow) (n : Nat) : Option Nat :=
  match bestPath x with
  | some i => if (x.path i).bytes + n ≤ 524288 then some i else none
  | none => none

/-- A packet takes the next psn of a path and waits there for its acknowledgement. -/
def sendOn (s : State) (f i header : Nat) (payload : List Byte) (req : Option Nat) : State :=
  let p := (s.flow f).path i
  let s1 := s.modPath f i (fun p => { p with
    sendPsn := (p.sendPsn + 1) % 2 ^ 32
    unacked := p.unacked ++ [{ psn := p.sendPsn, header := header, payload := payload, req := req }]
    sentTick := if p.unacked.isEmpty then s.time.tick else p.sentTick })
  emit s1 f i p.sendPsn header payload

/-- A path sends its unacknowledged packets again in order. -/
def resend (s : State) (f i : Nat) : State :=
  let x := s.flow f
  let ps := (x.path i).unacked
  let s1 := ps.foldl (fun s q => emit s f i q.psn q.header q.payload) s
  (s1.modPort (pathPort x.entry i) (fun y => { y with resent := (y.resent + ps.length) % 2 ^ 64 })).modPath f i
    (fun p => { p with sentTick := s.time.tick })

/-! ### Completions (R464) -/

/-- The completion entry of a request without its phase (25 Table 10). -/
def compEntry (f kind status msg user length : Nat) : Nat :=
  msg % 2 ^ 32 + status * 2 ^ 32 + kind * 2 ^ 40 + f * 2 ^ 48 + user % 2 ^ 64 * 2 ^ 64 + length % 2 ^ 32 * 2 ^ 128

def wrOp (e : Nat) : Nat := fld e 0 8
def wrRelease (e : Nat) : Bool := e.testBit 8
def wrSignal (e : Nat) : Bool := e.testBit 9
def wrLength (e : Nat) : Nat := fld e 32 32
def wrLaddr (e : Nat) : Nat := fld e 64 64
def wrRaddr (e : Nat) : Nat := fld e 128 64
def wrUser (e : Nat) : Nat := fld e 192 64

/-- A work request ends with a status; its send completion is made when signal is set. -/
def endReq (s : State) (f : Nat) (r : WorkReq) (status : Nat) : State :=
  s.modFlow f (fun x => { x with
    reqs := x.reqs.filter (fun q => q.num != r.num)
    comps := if wrSignal r.entry then x.comps ++ [compEntry f 1 status r.num (wrUser r.entry) (wrLength r.entry - r.left)]
      else x.comps })

def endReqNum (s : State) (f num status : Nat) : State :=
  match (s.flow f).reqs.find? (fun r => r.num == num) with
  | some r => endReq s f r status
  | none => s

/-- A flow goes into error: every outstanding request completes with status 2 and a system core is interrupted (R465). -/
def flowFail (s : State) (f : Nat) : State :=
  let x := s.flow f
  if x.inUse && !x.error then
    let s1 := x.reqs.foldl (fun s r => endReq s f r 2) s
    sysIrq (s1.modFlow f (fun x => { x with error := true, resps := [] })) 2 0 [f]
  else s

/-- A path of a flow goes down: its unacknowledged packets are sent again on other paths in their order; without one
the flow is in error (R462). -/
def pathDown (s : State) (f i : Nat) : State :=
  let x := s.flow f
  let ps := (x.path i).unacked
  let s1 := s.modPath f i (fun p => { p with down := true, downTick := s.time.tick, unacked := [], timeouts := 0, probe := none })
  let s2 := s1.modPort (pathPort x.entry i) (fun y => { y with downs := (y.downs + 1) % 2 ^ 64 })
  if (upPaths (s2.flow f)).isEmpty then flowFail s2 f
  else ps.foldl (fun s q =>
    match bestPath (s.flow f) with
    | some j => (sendOn s f j q.header q.payload q.req).modPort (pathPort x.entry j) (fun y => { y with resent := (y.resent + 1) % 2 ^ 64 })
    | none => s) s2

/-- Acknowledged bytes of a WRITE count towards its completion. -/
def ackedPacket (f : Nat) (s : State) (q : TPacket) : State :=
  match q.req with
  | none => s
  | some n =>
    match (s.flow f).reqs.find? (fun r => r.num == n) with
    | none => s
    | some r =>
      let r1 := { r with left := r.left - q.payload.length }
      if wrOp r.entry ≠ 1 then s
      else if r1.left = 0 ∧ r1.sent = wrLength r.entry then endReq s f r1 0
      else s.modFlow f (fun x => { x with reqs := x.reqs.map (fun y => if y.num = n then r1 else y) })

/-- An acknowledgement of a path arrives: packets up to it are done, and a path that was down is back when its marker
is among them. -/
def takeAck (s : State) (f i ack : Nat) : State :=
  let p := (s.flow f).path i
  let done := p.unacked.takeWhile (fun q => q.psn == ack || precedes q.psn ack)
  if done.isEmpty then s
  else
    let back : Bool := match p.probe with
      | some n => done.any (fun q => q.psn == n)
      | none => false
    let s1 := s.modPath f i (fun p => { p with
      unacked := p.unacked.drop done.length, timeouts := 0, sentTick := s.time.tick
      down := p.down && !back, probe := if back then none else p.probe })
    done.foldl (ackedPacket f) s1

/-! ### The sender's steps (R461, R463) -/

/-- Send the next part of an answer to a READREQ. -/
def sendResp (s : State) (f : Nat) (r : Resp) : State :=
  let n := min 8192 (r.length - r.sent)
  let drop (s : State) : State := (s.modFlow f (fun x => { x with resps := x.resps.tail })).modPath f r.path
    (fun p => { p with holds := p.holds.filter (fun q => q != r.psn), ackNow := true })
  match pathFor (s.flow f) n with
  | none => s
  | some i =>
    match portRead s (portWriter (pathPort (s.flow f).entry i)) (feSpace (s.flow f).entry) (r.addr + r.sent) n with
    | .wait s1 => s1
    | .fail st a s1 =>
      emit (drop s1) f r.path ((s1.flow f).path r.path).recvPsn (mkHeader 6 r.msg (2 ^ 31 + st) a 0 0 false false) []
    | .ok b s1 =>
      if b.2 then
        let d := s1.drawFree
        emit (drop d.2) f r.path ((s1.flow f).path r.path).recvPsn
          (mkHeader 6 r.msg (2 ^ 31 + d.1 % 256) (r.addr + r.sent) 0 0 false false) []
      else
        let last := decide (r.sent + n = r.length)
        let s2 := sendOn s1 f i (mkHeader 3 r.msg r.sent r.dest n 0 last false) b.1 none
        if last then drop s2
        else s2.modFlow f (fun x => { x with resps := { r with sent := r.sent + n } :: x.resps.tail })

/-- Send the next packet of a work request: the markers of a release message first. -/
def sendReq (s : State) (f : Nat) (r : WorkReq) : State :=
  let x := s.flow f
  let put (s : State) (r1 : WorkReq) : State :=
    s.modFlow f (fun x => { x with reqs := x.reqs.map (fun y => if y.num = r.num then r1 else y) })
  if wrRelease r.entry && !r.marked then
    let s1 := (List.range (fePaths x.entry)).foldl (fun s i =>
      let h := mkHeader 5 r.num 0 0 0 i false true
      if ((s.flow f).path i).down then
        (match bestPath (s.flow f) with
         | some j => sendOn s f j h [] none
         | none => s)
      else sendOn s f i h [] none) s
    put s1 { r with marked := true }
  else if wrOp r.entry = 2 then
    match pathFor x 16 with
    | none => s
    | some i =>
      put (sendOn s f i (mkHeader 2 r.num 0 (wrRaddr r.entry) 16 0 true false)
        (toBytes 16 (wrLaddr r.entry + wrLength r.entry * 2 ^ 64)) none) { r with sent := wrLength r.entry }
  else
    let n := min 8192 (wrLength r.entry - r.sent)
    match pathFor x n with
    | none => s
    | some i =>
      match portRead s (portWriter (pathPort x.entry i)) (feSpace x.entry) (wrLaddr r.entry + r.sent) n with
      | .wait s1 => s1
      | .fail _ _ s1 => endReq s1 f r 3
      | .ok b s1 =>
        if b.2 then endReq s1 f r 3
        else
          let last := decide (r.sent + n = wrLength r.entry)
          sendOn (put s1 { r with sent := r.sent + n }) f i
            (mkHeader 1 r.num r.sent (wrRaddr r.entry) n 0 last (wrRelease r.entry)) b.1 (some r.num)

/-- A work request is malformed (status 5). -/
def wrBad (e : Nat) : Bool :=
  decide (fld e 256 256 ≠ 0) || decide (fld e 11 21 ≠ 0) || decide (wrOp e ≠ 1 ∧ wrOp e ≠ 2) ||
    decide (wrLength e = 0 ∨ 2 ^ 30 < wrLength e) || (wrRelease e && decide (wrOp e = 2))

/-- The port takes the next work request of a queue. -/
def takeReq (s : State) (f : Nat) : State :=
  let x := s.flow f
  match portRead s (portWriter (pathPort x.entry 0)) (feSpace x.entry)
      (fld x.entry 128 64 + 64 * (x.consumed % 2 ^ feWqLog x.entry)) 64 with
  | .wait s1 => s1
  | .fail _ _ s1 => flowFail s1 f
  | .ok b s1 =>
    if b.2 then flowFail s1 f
    else
      let e := ofBytes b.1
      let r : WorkReq := { num := x.consumed, entry := e, sent := 0, marked := false, left := wrLength e, got := [] }
      let s2 := s1.modFlow f (fun x => { x with consumed := (x.consumed + 1) % 2 ^ 32, reqs := x.reqs ++ [r] })
      if wrBad e then endReq s2 f r 5 else s2

def unsent (r : WorkReq) : Bool := decide (r.sent < wrLength r.entry)

/-- One step of a flow's sender: an answer to a READREQ, the next packet of the oldest request that is not wholly sent,
or the next request. -/
def flowWork (s : State) (f : Nat) : State :=
  let x := s.flow f
  if !x.inUse || x.error then s
  else
    match x.resps with
    | r :: _ => sendResp s f r
    | [] =>
      match x.reqs.find? unsent with
      | some r => sendReq s f r
      | none => if x.consumed = x.produced then s else takeReq s f

/-- Read the count of work requests produced; a count that cannot be read is a flow error. -/
def readProduced (s : State) (f : Nat) : State :=
  let x := s.flow f
  match portRead s (portWriter (pathPort x.entry 0)) (feSpace x.entry) (fld x.entry 192 64) 4 with
  | .wait s1 => s1
  | .fail _ _ s1 => flowFail s1 f
  | .ok b s1 => if b.2 then flowFail s1 f else s1.modFlow f (fun x => { x with produced := ofBytes b.1 })

/-- DOORBELL (R459, R465): the entry is read under key slot 0; a flow out of use or in error starts with every counter
at 0, one whose entry is no longer in use completes its requests with status 4. -/
def doorbell (s : State) (f : Nat) : State :=
  let x := s.flow f
  let a := s.net.flowbase.toNat / 64 * 64 + 64 * f
  let listed := decide (f < s.net.flowcount) && decide (f < 4096)
  let there := decide (a + 64 ≤ 2 ^ 38) && !s.mem.poisoned (homeLine a false * 64) 64
  if listed && !there && x.inUse then flowFail s f
  else
    let e := if listed && there then s.mem.physNum 0 a 64 else 0
    if feOk e then
      let s1 := if x.inUse && !x.error then s.modFlow f (fun x => { x with entry := e })
        else s.setFlow f { Flow.reset with
          inUse := true, entry := e, pollAt := s.time.tick
          comps := x.comps, written := if x.error then x.written else 0, consumed := if x.error then x.consumed else 0 }
      readProduced s1 f
    else if x.inUse then
      (x.reqs.foldl (fun s r => endReq s f r 4) s).modFlow f (fun x => { x with inUse := false, error := false, resps := [], held := [] })
    else s

/-! ### Receiving (R456-R463) -/

/-- The parts of a frame after its addresses: tagged twice, the EtherType, and what follows it. -/
def frameBody (fr : List Byte) : Bool × Nat × List Byte :=
  let t := beNat ((fr.drop 12).take 2)
  if t = 0x8100 then
    let t2 := beNat ((fr.drop 16).take 2)
    (decide (t2 = 0x8100 ∨ t2 = 0x88A8), t2, fr.drop 18)
  else (false, t, fr.drop 14)

/-- The destination is one the port keeps (R456). -/
def macKept (x : Port) (fr : List Byte) : Bool :=
  let d := fr.take 6
  let a := beNat d
  decide (a = x.pmac) || decide (a = 2 ^ 48 - 1) || (decide ((d.getD 0 0).toNat % 2 = 1) && x.pmcast.getLsbD (crc32 d % 64))

/-- A transport frame that a flow in use takes: flow, header and payload (R460). -/
def parsePacket (s : State) (fr : List Byte) : Option (Nat × Nat × List Byte) :=
  let b := frameBody fr
  let h := ofBytes (b.2.2.take 32)
  let f := hdFlow h
  let x := s.flow f
  if decide (b.2.1 = 0x88B5) && decide (32 ≤ b.2.2.length) && decide (fld h 0 8 = 1) && decide (1 ≤ hdType h) &&
      decide (hdType h ≤ 6) && decide (fld h 19 9 = 0) && decide (hdLen h ≤ 8192) && decide (32 + hdLen h ≤ b.2.2.length) &&
      x.inUse && !x.error && decide (hdPath h < fePaths x.entry)
  then some (f, h, (b.2.2.drop 32).take (hdLen h)) else none

/-- The frame of a counted packet waits behind one of its path that waits for service. -/
def stallKey (f i : Nat) : Nat := f * 16 + i + 1

def isStalled (s : State) (p f i : Nat) : Bool := (s.port p).stalled.any (fun e => e.1 == stallKey f i)

def stall (s : State) (p key : Nat) (fr : List Byte) : State :=
  s.modPort p (fun x => { x with stalled := x.stalled ++ [(key, fr)] })

/-- A packet is accepted: the next psn is expected; `hold` keeps it from being acknowledged yet. -/
def acceptPkt (s : State) (f i : Nat) (h : Nat) (hold : Bool) : State :=
  s.modPath f i (fun p => { p with
    recvPsn := (p.recvPsn + 1) % 2 ^ 32
    accTick := if p.acked = p.recvPsn then s.time.tick else p.accTick
    ackNow := p.ackNow || hdAckReq h
    holds := if hold then p.holds ++ [hdPsn h] else p.holds })

/-- A NACK on a path; its psn is the one that the receiver expects. -/
def sendNack (s : State) (f i msg off addr : Nat) : State :=
  emit s f i ((s.flow f).path i).recvPsn (mkHeader 6 msg off addr 0 0 false false) []

/-- Bytes of a message have performed; a receive completion is made once all have, when the sender asked for one (the
header has no field for it: log 76). -/
def noteBytes (s : State) (f msg off len : Nat) (last : Bool) : State :=
  let r := AMap.getD (s.flow f).recv msg RecvMsg.reset
  let r1 : RecvMsg := { r with got := AMap.set r.got off len, total := if last then some (off + len) else r.total }
  let sum := r1.got.foldl (fun n e => n + e.2) 0
  let whole := r1.total == some sum && !r1.done
  let c := match Config.rsignal f msg with
    | some user => if whole then [compEntry f 2 0 msg user sum] else []
    | none => []
  s.modFlow f (fun x => { x with recv := AMap.set x.recv msg { r1 with done := r1.done || whole }, comps := x.comps ++ c })

/-- The receiver's check of a psn (R462): what follows for an accepted packet. -/
def withPsn (s0 : State) (port f h : Nat) (fr : List Byte) (k : State → State) : State :=
  let i := hdPath h
  let s := takeAck s0 f i (hdAck h)
  let p := (s.flow f).path i
  if isStalled s port f i then stall s port (stallKey f i) fr
  else if hdPsn h = p.recvPsn then k s
  else if precedes p.recvPsn (hdPsn h) then sendNack (countDrop s port) f i 0 0 0
  else (countDrop s port).modPath f i (fun p => { p with ackNow := true })

/-- A packet of a type at a port: one of another type has no effect; one that no flow takes is dropped and counted. -/
def onPacket (port type : Nat) (fr : List Byte) (s : State) (k : Nat → Nat → List Byte → State) : State :=
  match parsePacket s fr with
  | none => countDrop s port
  | some (f, h, pay) => if hdType h = type then k f h pay else s

/-- WRITE at the receiver: the last packet of a release message is held, any other performs (R463, R465). -/
def handleWrite (port : Nat) (fr : List Byte) (s : State) : State :=
  onPacket port 1 fr s (fun f h pay => withPsn s port f h fr (fun s =>
    let i := hdPath h
    if hdRelease h && hdLast h then
      (acceptPkt s f i h true).modFlow f (fun x => { x with
        held := x.held ++ [{ msg := hdMsg h, path := i, psn := hdPsn h, addr := hdAddr h, off := hdOff h, payload := pay }] })
    else
      match portWrite s (portWriter port) (feSpace (s.flow f).entry) (hdAddr h + hdOff h) pay with
      | .wait s1 => stall s1 port (stallKey f i) fr
      | .fail st a s1 => sendNack (acceptPkt s1 f i h false) f i (hdMsg h) (2 ^ 31 + st) a
      | .ok _ s1 => noteBytes (acceptPkt s1 f i h false) f (hdMsg h) (hdOff h) pay.length (hdLast h)))

/-- READREQ at the responder. -/
def handleReadReq (port : Nat) (fr : List Byte) (s : State) : State :=
  onPacket port 2 fr s (fun f h pay => withPsn s port f h fr (fun s =>
    let n := ofBytes pay
    let r : Resp := { path := hdPath h, psn := hdPsn h, msg := hdMsg h, addr := hdAddr h, dest := fld n 0 64,
                      length := fld n 64 32, sent := 0 }
    if r.length = 0 then acceptPkt s f (hdPath h) h false
    else (acceptPkt s f (hdPath h) h true).modFlow f (fun x => { x with resps := x.resps ++ [r] })))

/-- READRESP at the requester: bytes already received are dropped. -/
def handleReadResp (port : Nat) (fr : List Byte) (s : State) : State :=
  onPacket port 3 fr s (fun f h pay => withPsn s port f h fr (fun s =>
    let i := hdPath h
    match (s.flow f).reqs.find? (fun r => r.num == hdMsg h && wrOp r.entry == 2) with
    | none => acceptPkt s f i h false
    | some r =>
      if r.got.contains (hdOff h) then acceptPkt s f i h false
      else
        match portWrite s (portWriter port) (feSpace (s.flow f).entry) (hdAddr h + hdOff h) pay with
        | .wait s1 => stall s1 port (stallKey f i) fr
        | .fail _ _ s1 => endReq (acceptPkt s1 f i h false) f r 3
        | .ok _ s1 =>
          let r1 := { r with got := r.got ++ [hdOff h], left := r.left - pay.length }
          let s2 := acceptPkt s1 f i h false
          if r1.left = 0 then endReq s2 f r1 0
          else s2.modFlow f (fun x => { x with reqs := x.reqs.map (fun y => if y.num = r.num then r1 else y) })))

def handleAck (port : Nat) (fr : List Byte) (s : State) : State :=
  onPacket port 4 fr s (fun f h _ => takeAck s f (hdPath h) (hdAck h))

/-- MARKER: one that closes a message carries its release bit (log 77). -/
def handleMarker (port : Nat) (fr : List Byte) (s : State) : State :=
  onPacket port 5 fr s (fun f h _ => withPsn s port f h fr (fun s =>
    let s1 := acceptPkt s f (hdPath h) h false
    if hdRelease h then s1.modFlow f (fun x => { x with
      markers := if x.markers.contains (hdMsg h, hdMpath h) then x.markers else (hdMsg h, hdMpath h) :: x.markers })
    else s1))

/-- NACK: a fault ends the work request with status 1; any other makes the path send again. A path that is down gives
its marker the psn that the receiver expects (log 77). -/
def handleNack (port : Nat) (fr : List Byte) (s : State) : State :=
  onPacket port 6 fr s (fun f h _ =>
    let i := hdPath h
    let s1 := takeAck s f i (hdAck h)
    if (hdOff h).testBit 31 then endReqNum s1 f (hdMsg h) 1
    else if ((s1.flow f).path i).down then
      resend (s1.modPath f i (fun p => { p with
        sendPsn := (hdPsn h + p.unacked.length) % 2 ^ 32
        probe := p.probe.map (fun _ => hdPsn h)
        unacked := p.unacked.zipIdx.map (fun q => { q.1 with psn := (hdPsn h + q.2) % 2 ^ 32 }) })) f i
    else resend s1 f i)

/-- The held packet of a release message may perform. -/
def heldReady (s : State) (x : Flow) (h : HeldPkt) : Bool :=
  netQuiet s && (List.range (fePaths x.entry)).all (fun i => x.markers.contains (h.msg, i)) &&
    decide ((AMap.getD x.recv h.msg RecvMsg.reset).got.foldl (fun n e => n + e.2) 0 = h.off)

/-- It performs and may be acknowledged. -/
def performHeld (s : State) (f : Nat) (h : HeldPkt) : State :=
  let w := portWriter (pathPort (s.flow f).entry h.path)
  let free (s : State) : State := (s.modFlow f (fun x => { x with
      held := x.held.filter (fun y => y != h), markers := x.markers.filter (fun m => m.1 != h.msg) })).modPath f h.path
    (fun p => { p with holds := p.holds.filter (fun q => q != h.psn), ackNow := true })
  match portWrite s w (feSpace (s.flow f).entry) (h.addr + h.off) h.payload with
  | .wait s1 => s1
  | .fail st a s1 => sendNack (free s1) f h.path h.msg (2 ^ 31 + st) a
  | .ok _ s1 => noteBytes (free s1) f h.msg h.off h.payload.length true

/-! ### The raw and PTP rings (R466) -/

/-- A kept frame enters a receive ring: its entry names a buffer; without a posted entry, or with one that cannot be
reached, it is dropped and counted. -/
def ringReceive (s : State) (p : Nat) (ptp : Bool) (fr : List Byte) : State :=
  let x := s.port p
  let prod := if ptp then x.pprod else x.rxprod
  let cons := if ptp then x.pcons else x.rxcons
  let size := if ptp then 32 else 16
  let base := if ptp then x.ptprx.toNat / 32 * 32 else x.rawrx.toNat / 16 * 16
  let e := base + size * (cons % 2 ^ qLog (if ptp then x.plog else x.rxlog))
  if prod = cons then countDrop s p
  else
    match portRead s (portWriter p) 0 e 16 with
    | .wait s1 => stall s1 p 0 fr
    | .fail _ _ s1 => countDrop s1 p
    | .ok b s1 =>
      let buf := fld (ofBytes b.1) 0 64
      match portWrite s1 (portWriter p) 0 buf fr with
      | .wait s2 => stall s2 p 0 fr
      | .fail _ _ s2 => countDrop s2 p
      | .ok _ s2 =>
        let out := toBytes 16 (setFld (setFld (ofBytes b.1) 64 14 fr.length) 96 32 1) ++
          (if ptp then toBytes 8 s2.time.tick else [])
        match portWrite s2 (portWriter p) 0 e out with
        | .wait s3 => stall s3 p 0 fr
        | .fail _ _ s3 => countDrop s3 p
        | .ok _ s3 => s3.modPort p (fun x =>
            if ptp then { x with pcons := (x.pcons + 1) % 2 ^ 32 } else { x with rxcons := (x.rxcons + 1) % 2 ^ 32 })

/-- A transport frame goes to the handler of its type. -/
def handlePacket (p : Nat) (fr : List Byte) (s : State) : State :=
  match parsePacket s fr with
  | none => countDrop s p
  | some (_, h, _) =>
    match hdType h with
    | 1 => handleWrite p fr s
    | 2 => handleReadReq p fr s
    | 3 => handleReadResp p fr s
    | 4 => handleAck p fr s
    | 5 => handleMarker p fr s
    | _ => handleNack p fr s

/-- A kept frame goes to its receiver (R457). -/
def routeFrame (s : State) (p : Nat) (fr : List Byte) : State :=
  let b := frameBody fr
  if b.2.1 = 0x88B5 then handlePacket p fr s
  else ringReceive s p (decide (b.2.1 = 0x88F7)) fr

/-- A frame, given without its FCS, arrives at a port whose link is up (R456). -/
def receiveFrame (s : State) (p : Nat) (fr : List Byte) (fcsOk : Bool) : State :=
  let x := s.port p
  let b := frameBody fr
  if !x.enable || !x.up then s
  else if !fcsOk then s.modPort p (fun x => { x with fcserr := (x.fcserr + 1) % 2 ^ 64 })
  else if fr.length < 60 ∨ 9212 < fr.length then countDrop s p
  else if b.2.1 = 0x8808 then
    (if beNat (b.2.2.take 2) = 0x0101 then s else countDrop s p)
  else if b.1 || !macKept x fr then countDrop s p
  else routeFrame (s.modPort p (fun x => { x with framesrx := (x.framesrx + 1) % 2 ^ 64 })) p fr

/-- The frames that wait in a port are handled again. -/
def redrivePort (s : State) (p : Nat) : State :=
  let fs := (s.port p).stalled
  if fs.isEmpty then s
  else fs.foldl (fun s e => routeFrame s p e.2) (s.modPort p (fun x => { x with stalled := [] }))

/-- A port sends its next raw entry. -/
def rawSend (s : State) (p : Nat) : State :=
  let x := s.port p
  let e := x.rawtx.toNat / 16 * 16 + 16 * (x.txcons % 2 ^ qLog x.txlog)
  let done (s : State) : State := s.modPort p (fun x => { x with txcons := (x.txcons + 1) % 2 ^ 32 })
  if x.txprod = x.txcons || !x.enable || !x.up then s
  else
    match portRead s (portWriter p) 0 e 16 with
    | .wait s1 => s1
    | .fail _ _ s1 => done s1
    | .ok b s1 =>
      let d := ofBytes b.1
      let len := fld d 64 14
      let finish (s : State) (st : Nat) : State :=
        match portWrite s (portWriter p) 0 e (toBytes 16 (setFld d 96 32 st)) with
        | .wait s2 => s2
        | .fail _ _ s2 => done s2
        | .ok _ s2 => done s2
      if fld d 79 17 ≠ 0 ∨ len < 60 ∨ 9212 < len then finish s1 2
      else
        match portRead s1 (portWriter p) 0 (fld d 0 64) len with
        | .wait s2 => s2
        | .fail _ _ s2 => finish s2 2
        | .ok f s2 =>
          if f.2 then finish s2 2
          else
            let body := frameBody f.1
            let s3 := if d.testBit 78 then s2.modPort p (fun x => { x with
                txts := x.txts ++ [(s2.time.tick, (body.2.2.getD 0 0).toNat % 16, beNat ((body.2.2.drop 30).take 2))] })
              else s2
            finish (sendFrame s3 p f.1) 1

/-! ### Timers and completion entries -/

def rtoDue (s : State) (p : Path) : Bool :=
  !p.down && !p.unacked.isEmpty && decide (p.sentTick + s.net.rto ≤ s.time.tick)

def pathTimeout (s : State) (f i : Nat) : State :=
  let p := (s.flow f).path i
  if rtoDue s p then
    if 16 ≤ p.timeouts + 1 then pathDown s f i
    else (resend s f i).modPath f i (fun p => { p with timeouts := p.timeouts + 1 })
  else s

/-- A down path is tried once per second (ticks of 1 ns). -/
def retryDue (s : State) (p : Path) : Bool := p.down && decide (p.downTick + 10 ^ 9 ≤ s.time.tick)

def tryPath (s : State) (f i : Nat) : State :=
  let p := (s.flow f).path i
  if retryDue s p then
    let s1 := s.modPath f i (fun p => { p with downTick := s.time.tick })
    match p.probe with
    | some _ => resend s1 f i
    | none => sendOn (s1.modPath f i (fun q => { q with probe := some q.sendPsn })) f i (mkHeader 5 0 0 0 0 i false false) [] none
  else s

/-- An acknowledgement is due: asked for, after 16 packets, or 4 microseconds after the oldest acceptance. -/
def ackDue (s : State) (p : Path) : Bool :=
  netQuiet s && (p.ackNow || (decide (ackTo s p ≠ p.acked) &&
    (decide (16 ≤ (p.recvPsn + 2 ^ 32 - p.acked) % 2 ^ 32) || decide (p.accTick + 4000 ≤ s.time.tick))))

def sendAck (s : State) (f i : Nat) : State :=
  if ackDue s ((s.flow f).path i) then emit s f i ((s.flow f).path i).sendPsn (mkHeader 4 0 0 0 0 0 false false) [] else s

/-- Write the next completion entry once its transfer has performed and the queue has room (R464). -/
def writeComp (s : State) (f : Nat) : State :=
  let x := s.flow f
  let w := portWriter (pathPort x.entry 0)
  match x.comps with
  | [] => s
  | c :: cs =>
    if !netQuiet s then s
    else
      match portRead s w (feSpace x.entry) (fld x.entry 320 64) 4 with
      | .wait s1 => s1
      | .fail _ _ s1 => s1.modFlow f (fun x => { x with comps := cs })
      | .ok b s1 =>
        if 2 ^ feCqLog x.entry ≤ (x.written + 2 ^ 32 - ofBytes b.1 % 2 ^ 32) % 2 ^ 32 then s1
        else
          let d := x.written
          let phase := if d / 2 ^ feCqLog x.entry % 2 = 0 then 1 else 0
          match portWrite s1 w (feSpace x.entry) (fld x.entry 256 64 + 32 * (d % 2 ^ feCqLog x.entry)) (toBytes 32 (c + phase * 2 ^ 160)) with
          | .wait s2 => s2
          | .fail _ _ s2 => s2.modFlow f (fun x => { x with comps := cs })
          | .ok _ s2 => s2.modFlow f (fun x => { x with comps := cs, written := (d + 1) % 2 ^ 32 })

/-! ### The events -/

def isPort (p : Nat) : Bool := decide (p < 8)
def isFlow (f : Nat) : Bool := decide (f < 4096)

def execFrameReceive (port : Nat) (frame : List Byte) (fcsOk : Bool) (s : State) : Host.Outcome State Fault Refusal :=
  onUnit (isPort port) (receiveFrame s port frame fcsOk)

def execRawSend (port : Nat) (s : State) : Host.Outcome State Fault Refusal := onUnit (isPort port) (rawSend s port)

def execTxtsRead (port : Nat) (s : State) : Host.Outcome State Fault Refusal :=
  onUnit (isPort port) (s.modPort port (fun x => { x with txts := x.txts.tail }))

def execDoorbell (flow : Nat) (s : State) : Host.Outcome State Fault Refusal := onUnit (isFlow flow) (doorbell s flow)

/-- The poll of every microsecond. -/
def execFlowPoll (flow : Nat) (s : State) : Host.Outcome State Fault Refusal :=
  let x := s.flow flow
  onUnit (isFlow flow) (if x.inUse && !x.error && x.entry.testBit 105 then
    readProduced (s.setFlow flow { x with pollAt := s.time.tick + 1000 }) flow else s)

def execWorkRequest (flow : Nat) (s : State) : Host.Outcome State Fault Refusal := onUnit (isFlow flow) (flowWork s flow)

def execWriteI (port : Nat) (frame : List Byte) (s : State) : Host.Outcome State Fault Refusal :=
  onUnit (isPort port) (handleWrite port frame s)

def execReadreq (port : Nat) (frame : List Byte) (s : State) : Host.Outcome State Fault Refusal :=
  onUnit (isPort port) (handleReadReq port frame s)

def execReadresp (port : Nat) (frame : List Byte) (s : State) : Host.Outcome State Fault Refusal :=
  onUnit (isPort port) (handleReadResp port frame s)

def execAck (port : Nat) (frame : List Byte) (s : State) : Host.Outcome State Fault Refusal :=
  onUnit (isPort port) (handleAck port frame s)

def execMarker (port : Nat) (frame : List Byte) (s : State) : Host.Outcome State Fault Refusal :=
  onUnit (isPort port) (handleMarker port frame s)

def execNack (port : Nat) (frame : List Byte) (s : State) : Host.Outcome State Fault Refusal :=
  onUnit (isPort port) (handleNack port frame s)

def execReleasePerform (flow : Nat) (s : State) : Host.Outcome State Fault Refusal :=
  onUnit (isFlow flow) (match (s.flow flow).held.find? (heldReady s (s.flow flow)) with
    | some h => performHeld s flow h
    | none => s)

def execRtoExpiry (flow path : Nat) (s : State) : Host.Outcome State Fault Refusal :=
  onUnit (isFlow flow && decide (path < 16)) (pathTimeout s flow path)

def execPathRetry (flow path : Nat) (s : State) : Host.Outcome State Fault Refusal :=
  onUnit (isFlow flow && decide (path < 16)) (tryPath s flow path)

def execAckTimer (flow path : Nat) (s : State) : Host.Outcome State Fault Refusal :=
  onUnit (isFlow flow && decide (path < 16)) (sendAck s flow path)

def execCompletionEntry (flow : Nat) (s : State) : Host.Outcome State Fault Refusal := onUnit (isFlow flow) (writeComp s flow)

def execFlowError (flow : Nat) (s : State) : Host.Outcome State Fault Refusal := onUnit (isFlow flow) (flowFail s flow)

/-- The link of a port comes up only where `enable` lets it (25 Table 5). -/
def execPortLinkChange (port : Nat) (up fec aligned : Bool) (s : State) : Host.Outcome State Fault Refusal :=
  onUnit (isPort port) (s.modPort port (fun x => { x with up := up && x.enable, fec := fec, aligned := aligned }))

/-- TIMESET acts only forward and before any launch is accepted (25 Table 6). -/
def setTime (s : State) (v : Word) : State :=
  if s.time.tick < v.toNat && !s.time.launchAccepted then { s with time := { s.time with tick := v.toNat, phase := 0 } } else s

def execTimeset (value : Word) (s : State) : Host.Outcome State Fault Refusal := .next (setTime s value)

end Sys2Proof.Machine
end

