-- ==== Sys2Proof/Machine/Stor.lean ====
section
/-! DEFINITION. The storage port: the drive's requests, its interrupts, the windows of the system cores and the link
(R467-R470), with their events. -/

namespace Sys2Proof.Machine

def State.modStor (s : State) (f : Stor → Stor) : State := { s with stor := f s.stor }

/-! ### Requests of the drive (R468, R470) -/

/-- The virtual address of a port address: bit 56 is copied upward. -/
def portVa (a : Word) : Nat := if a.getLsbD 56 then wfld a 0 57 + 127 * 2 ^ 57 else wfld a 0 57

/-- The drive takes the completion of a read: status 0 done, 1 Completer Abort, 2 Unsupported Request, 3 poisoned. -/
def answerDrive (s : State) (st : Nat) (bs : List Byte) : State := s.modStor (fun x => { x with answers := x.answers ++ [(st, bs)] })

/-- A request is refused: counted, and its port address kept when it is the first since the last read of SFAULT. -/
def refuseDrive (s : State) (r : PortReq) (st : Nat) : State :=
  let s1 := s.modStor (fun x => { x with
    sfaults := (x.sfaults + 1) % 2 ^ 64, sfault := match x.sfault with
      | some a => some a
      | none => some r.addr })
  match r.data with
  | none => answerDrive s1 st []
  | some _ => s1

/-- An MSI-X vector goes to the system core that SVEC names. -/
def deliverMsix (s : State) (v : Nat) : State :=
  let x := AMap.getD s.stor.svec v 0
  if x.testBit 8 then sysIrq s 3 (fld x 0 4) [v] else s

/-- The interrupt window: a 4-byte write at 4v is a vector, which waits for the drive's earlier writes (R470); anything
else is refused. -/
def driveWindow (s : State) (r : PortReq) : Bool × State :=
  let o := wfld r.addr 0 57
  match r.data with
  | none => (true, refuseDrive s r 1)
  | some bs =>
    if bs.length = 4 ∧ o % 4 = 0 ∧ o / 4 < 128 then
      let s1 := settleWriters (fun w => w == driveWriter) (packetCount s) s
      if writerPending s1 driveWriter then (false, s1) else (true, deliverMsix s1 (o / 4))
    else (true, refuseDrive s r 1)

/-- One request: done or refused, or not yet. -/
def driveOne (s : State) (r : PortReq) : Bool × State :=
  let k := wfld r.addr 57 7
  if k = 127 then driveWindow s r
  else
    let sl := AMap.getD s.stor.sspace k 0
    if sl.testBit 16 = false then (true, refuseDrive s r 2)
    else
      match r.data with
      | none =>
        match portRead s driveWriter (fld sl 0 16) (portVa r.addr) r.len with
        | .ok b s1 => (true, answerDrive s1 (if b.2 then 3 else 0) b.1)
        | .wait s1 => (false, s1)
        | .fail _ _ s1 => (true, refuseDrive s1 r 1)
      | some bs =>
        match portWrite s driveWriter (fld sl 0 16) (portVa r.addr) bs with
        | .ok _ s1 => (true, s1)
        | .wait s1 => (false, s1)
        | .fail _ _ s1 => (true, refuseDrive s1 r 1)

/-- The walk for which a port's issuer waits. -/
def walkFor (s : State) (issuer : Nat) : Option Nat := (s.mem.walks.find? (fun e => e.2.issuer == issuer)).map Prod.fst

/-- The drive's requests act in the order in which they arrive, as far as they can (by fuel). -/
def drainDrive : Nat → State → State
  | 0, s => s
  | n + 1, s =>
    match s.stor.waiting with
    | [] => s
    | r :: rs =>
      match driveOne s r with
      | (true, s1) => drainDrive n (s1.modStor (fun x => { x with waiting := rs }))
      | (false, s1) => s1.modStor (fun x => { x with waiting := { r with walk := walkFor s1 driveWriter } :: rs })

def driveAll (s : State) : State := drainDrive s.stor.waiting.length s

def driveRequest (s : State) (addr : Word) (len : Nat) (data : Option (List Byte)) : State :=
  let r : PortReq := { addr := addr, len := len, data := data, space := 0, walk := none, since := s.time.tick }
  driveAll (s.modStor (fun x => { x with waiting := x.waiting ++ [r] }))

/-- The service of a walk has taken 10 ms. -/
def timeoutDue (s : State) (id : Nat) : Bool :=
  match s.stor.waiting with
  | r :: _ => r.walk == some id && decide (r.since + 10 ^ 7 ≤ s.time.tick)
  | [] => false

def driveTimeout (s : State) (id : Nat) : State :=
  match s.stor.waiting with
  | [] => s
  | r :: rs =>
    if timeoutDue s id then
      driveAll (refuseDrive ((s.modMem (fun m => { m with walks := AMap.del m.walks id })).modStor (fun x => { x with waiting := rs })) r 1)
    else s

/-! ### The windows of the system cores (R468) -/

/-- A system core takes the completion of an access: status 0 done, 1 error, 2 Unsupported Request, 3 poisoned. -/
def answerCore (s : State) (st : Nat) (bs : List Byte) : State :=
  { s with trust := { s.trust with coreAnswers := s.trust.coreAnswers ++ [(st, bs)] } }

/-- An access to the configuration window (functions 0 to 7) or the memory window goes to the drive; what a read brings
is the drive's (log 12). -/
def driveAccess (s : State) (config : Bool) (off len : Nat) (data : Option (List Byte)) : State :=
  let ok := s.stor.up && (if config then decide (off + len ≤ 8 * 4096) else decide (off + len ≤ 2 ^ 36))
  let s1 := if ok then s.modStor (fun x => { x with toDrive := x.toDrive ++ [(config, off, len, data)] }) else s
  match data with
  | some _ => s1
  | none => if ok then answerCore { s1 with free := s1.free + 1 } 0 ((Config.driveRead s1.free).take len) else answerCore s1 2 []

/-! ### The link (R467, R469) -/

def retrainLink (s : State) : State := if s.stor.enable then s.modStor (fun x => { x with training := true }) else s

def linkChange (s : State) (up : Bool) (rate width : Nat) (flit : Bool) : State :=
  let u := up && s.stor.enable && decide (1 ≤ rate) && decide (rate ≤ 6) && (width == 1 || width == 2 || width == 4 || width == 8)
  s.modStor (fun x => { x with up := u, rate := if u then rate else 0, width := if u then width else 0, flit := u && flit, training := false })

/-! ### The events -/

def isSysCore (c : Nat) : Bool := decide (c < 16)

def execDriveMemoryRequest (addr : Word) (len : Nat) (data : Option (List Byte)) (s : State) : Host.Outcome State Fault Refusal :=
  .next (driveRequest s addr len data)

/-- A vector is a 4-byte write to the interrupt window. -/
def execDriveMsix (vector : Nat) (s : State) : Host.Outcome State Fault Refusal :=
  onUnit (decide (vector < 128)) (driveRequest s (BitVec.ofNat 64 (127 * 2 ^ 57 + 4 * vector)) 4 (some [0, 0, 0, 0]))

def execSfaultRead (s : State) : Host.Outcome State Fault Refusal := .next (s.modStor (fun x => { x with sfault := none }))

def execSystemCoreDriveAccess (core : Nat) (config : Bool) (off len : Nat) (data : Option (List Byte)) (s : State) :
    Host.Outcome State Fault Refusal :=
  onUnit (isSysCore core) (driveAccess s config off len data)

def execStorageRetrain (s : State) : Host.Outcome State Fault Refusal := .next (retrainLink s)

def execStorageLinkChange (up : Bool) (rate width : Nat) (flit : Bool) (s : State) : Host.Outcome State Fault Refusal :=
  .next (linkChange s up rate width flit)

def execAdvancedErrorReporting (core : Nat) (s : State) : Host.Outcome State Fault Refusal :=
  onUnit (isSysCore core) (sysIrq s 4 core [])

def execDriveServiceTimeout (id : Nat) (s : State) : Host.Outcome State Fault Refusal := .next (driveTimeout s id)

end Sys2Proof.Machine
end

