-- ==== Sys2Proof/Machine/Link.lean ====
section
/-! DEFINITION. Requests of the host link and of the system cores to memory, and the walk service that port requests,
threads and jobs wait for (R244, R253, R445), with their events. -/

namespace Sys2Proof.Machine

/-! ### The host link (R244) -/

/-- The completion of a host request: status 0 done, 1 error, 2 Unsupported Request, 3 poisoned. -/
def answerHost (s : State) (st : Nat) (bs : List Byte) : State :=
  { s with trust := { s.trust with hostAnswers := s.trust.hostAnswers ++ [(st, bs)] } }

def hostOne (s : State) (r : PortReq) : Bool × State :=
  match r.data with
  | none =>
    match portRead s hostWriter r.space r.addr.toNat r.len with
    | .ok b s1 => (true, answerHost s1 (if b.2 then 3 else 0) b.1)
    | .wait s1 => (false, s1)
    | .fail _ _ s1 => (true, answerHost s1 1 [])
  | some bs =>
    match portWrite s hostWriter r.space r.addr.toNat bs with
    | .ok _ s1 => (true, answerHost s1 0 [])
    | .wait s1 => (false, s1)
    | .fail _ _ s1 => (true, answerHost s1 1 [])

/-- Host requests act in order, as far as they can (by fuel). -/
def drainHost : Nat → State → State
  | 0, s => s
  | n + 1, s =>
    match s.trust.hostReqs with
    | [] => s
    | r :: rs =>
      match hostOne s r with
      | (true, s1) => drainHost n { s1 with trust := { s1.trust with hostReqs := rs } }
      | (false, s1) => { s1 with trust := { s1.trust with hostReqs := { r with walk := walkFor s1 hostWriter } :: rs } }

def hostAll (s : State) : State := drainHost s.trust.hostReqs.length s

def hostRequest (s : State) (pasid : Option Nat) (addr : Word) (len : Nat) (data : Option (List Byte)) : State :=
  match pasid with
  | none => answerHost s 2 []
  | some p =>
    if 65536 ≤ p then answerHost s 2 []
    else
      let r : PortReq := { addr := addr, len := len, data := data, space := p, walk := none, since := s.time.tick }
      hostAll { s with trust := { s.trust with hostReqs := s.trust.hostReqs ++ [r] } }

/-! ### System cores (R244): their own MMUs walk, and they ignore the device's attributes (R246) -/

/-- The key slot of a space; space 0 reads page tables under slot 0. -/
def spaceKey (s : State) (sp : Nat) : Nat := match spaceEntry s sp with
  | some e => e.keyslot
  | none => 0

def sysTrans (s : State) (sp pa : Nat) : Trans := { pa := pa, attrs := 0, keyslot := spaceKey s sp }

/-- Read physical bytes a line at a time, by fuel; none while a home die resets. -/
def sysReadFrom (w sp : Nat) : Nat → State → Nat → Nat → List Byte × Bool → Option (List Byte × Bool)
  | 0, _, _, _, acc => some acc
  | f + 1, s, pa, n, acc =>
    if n = 0 then some acc
    else
      let tr := sysTrans s sp pa
      let k := chunkOf pa n
      if !tr.host && dieHeld s (lineDie tr.line) then none
      else sysReadFrom w sp f s (pa + k) (n - k)
        (acc.1 ++ outsideRead s w tr k, acc.2 || (!tr.host && s.mem.poisoned (tr.line * 64 + tr.off) k))

def sysWriteFrom (w sp : Nat) : Nat → State → Nat → List Byte → State
  | 0, s, _, _ => s
  | f + 1, s, pa, bs =>
    if bs.isEmpty then s
    else sysWriteFrom w sp f (outsideWrite s w (sysTrans s sp pa) (bs.take (chunkOf pa bs.length))) (pa + chunkOf pa bs.length)
      (bs.drop (chunkOf pa bs.length))

/-- Memory that a system core reaches: module DRAM and host memory. -/
def sysMem (pa n : Nat) : Bool := decide (pa + n ≤ 2 ^ 38) || (decide (2 ^ 52 ≤ pa) && decide (pa + n ≤ 2 ^ 53))

/-- An access to memory by the system core that `walk` names. -/
def coreOne (s : State) (r : PortReq) : Bool × State :=
  let w := 16384 + r.walk.getD 0
  match r.data with
  | none =>
    match sysReadFrom w r.space (r.len / 64 + 2) s r.addr.toNat r.len ([], false) with
    | some b => (true, answerCore s (if b.2 then 3 else 0) b.1)
    | none => (false, s)
  | some bs => (true, sysWriteFrom w r.space (bs.length / 64 + 2) s r.addr.toNat bs)

def drainCores : Nat → State → State
  | 0, s => s
  | n + 1, s =>
    match s.trust.coreReqs with
    | [] => s
    | r :: rs =>
      match coreOne s r with
      | (true, s1) => drainCores n { s1 with trust := { s1.trust with coreReqs := rs } }
      | (false, s1) => s1

def coresAll (s : State) : State := drainCores s.trust.coreReqs.length s

def coreRequest (s : State) (core sp pa len : Nat) (data : Option (List Byte)) : State :=
  let r : PortReq := { addr := BitVec.ofNat 64 pa, len := len, data := data, space := sp, walk := some core, since := s.time.tick }
  coresAll { s with trust := { s.trust with coreReqs := s.trust.coreReqs ++ [r] } }

/-! ### Walk service (R253) -/

/-- Every port tries again what waits in it. -/
def retryPorts (s : State) : State := coresAll (hostAll (driveAll ((List.range 8).foldl redrivePort s)))

/-- The issuer of a served walk goes on: a thread is ready, a port tries again; a job looks for itself. -/
def resumeIssuer (s : State) (id issuer : Nat) : State :=
  if issuer < 16384 then
    s.modThread (issuer / 4) (issuer % 4) (fun t => if t.status = .parked (.walk id) then { t with status := .ready } else t)
  else if 16400 ≤ issuer ∧ issuer < 16408 then redrivePort s (issuer - 16400)
  else if issuer = hostWriter then hostAll s
  else if issuer = driveWriter then driveAll s
  else s

def releaseWalk (s : State) (id : Nat) : State :=
  match AMap.get s.mem.walks id with
  | none => s
  | some w => resumeIssuer (s.modMem (fun m => { m with walks := AMap.del m.walks id })) id w.issuer

/-- A job whose walk was declined ends with status 3 and the walk's status in its code. -/
def declineJobs (s : State) (id st : Nat) : State :=
  { s with clusters := s.clusters.map (fun e => (e.1, { e.2 with
      copyJobs := e.2.copyJobs.map (fun j => (j.1, if j.2.walk = some id ∧ j.2.status = 0 then
        { j.2 with ended := some (3, 0x10 + st), walk := none } else j.2))
      mxJobs := e.2.mxJobs.map (fun j => (j.1, if j.2.walk = some id ∧ j.2.status = 0 then
        { j.2 with ended := some (3, 0x10 + st), walk := none } else j.2)) })) }

def declineWalk (s : State) (id : Nat) : State :=
  match AMap.get s.mem.walks id with
  | none => s
  | some w =>
    let s1 := s.modMem (fun m => { m with walks := AMap.del m.walks id })
    let s2 := if w.issuer < 16384 then
        s1.modThread (w.issuer / 4) (w.issuer % 4) (fun t =>
          if t.status = .parked (.walk id) then { t with declined := some (w.va, w.status) } else t)
      else if w.issuer < 32768 ∨ 33792 ≤ w.issuer then { s1 with net := { s1.net with declined := s1.net.declined ++ [(w.issuer, w.space, w.va)] } }
      else declineJobs s1 id w.status
    resumeIssuer s2 id w.issuer

/-! ### The events -/

def execHostMemoryRequest (pasid : Option Nat) (addr : Word) (len : Nat) (data : Option (List Byte)) (s : State) :
    Host.Outcome State Fault Refusal :=
  .next (hostRequest s pasid addr len data)

def execWalkServiceRelease (id : Nat) (s : State) : Host.Outcome State Fault Refusal := .next (releaseWalk s id)

def execWalkServiceDecline (id : Nat) (s : State) : Host.Outcome State Fault Refusal := .next (declineWalk s id)

end Sys2Proof.Machine
end

