-- ==== Sys2Proof/Machine/Preempt.lean ====
section
/-! DEFINITION. Pre-emption and restoring of clusters (R141, R407, R433-R439), with their events. -/

namespace Sys2Proof.Machine

/-! ### What a pre-emption takes (R433) -/

/-- The cluster above or below in the same tower. -/
def partnerCluster (cl : Nat) : Nat := if cl / 32 % 2 = 0 then cl + 32 else cl - 32

/-- The root launch of a cluster's holder. -/
def holderRoot (s : State) (cl : Nat) : Option Nat := (s.cluster cl).holder.map (fun h => rootOf s h.1)

/-- A cluster with its transom partner when both are held by one root launch. -/
def preemptSet (s : State) (cl : Nat) : List Nat :=
  if (holderRoot s cl).isSome && holderRoot s (partnerCluster cl) == holderRoot s cl then [cl, partnerCluster cl] else [cl]

def gangsOn (s : State) (cls : List Nat) : List (Nat × Gang) := s.disp.gangs.filter (fun e => cls.contains e.2.cluster)

def membersOn (s : State) (cls : List Nat) : List (Nat × Nat) := (gangsOn s cls).flatMap (fun e => e.2.members)

/-! ### Jobs (24 Table 5) -/

/-- The rename entry of a copy job that is taken off: the command that goes on from its next unit. -/
def copyCommand (j : CopyJob) : Rename :=
  match j.out with
  | some (dest, limit) => .command 4 0 0 j.record (dest + limit * 2 ^ 64)
  | none =>
    if j.deal || j.next != j.start || j.walk.isSome then .command 3 j.recAddr (j.next * 2 ^ 32 + j.mask % 256 * 2 ^ 24) 0 0
    else .command 2 j.recAddr (j.start * 2 ^ 32) 0 0

/-- Record the rename of one job of a slot: an entry that already names it is replaced (R435). -/
def setRename (t : Thread) (q id : Nat) (r : Rename) : Thread :=
  let named := t.ren.filter (fun e => e.1 / 2 ^ 32 == q && e.2 == .renamed id)
  match named with
  | [] => { t with ren := AMap.set t.ren (q * 2 ^ 32 + id) r }
  | e :: _ => { t with ren := AMap.set t.ren e.1 r }

/-- The walk request that a job waits for is forgotten. -/
def dropWalk (s : State) (w : Option Nat) : State :=
  match w with
  | some id => s.modMem (fun m => { m with walks := AMap.del m.walks id })
  | none => s

/-- A copy job without a final status is taken off at its unit boundary: one that has not started leaves the queue,
another ends with status 4, its shutters narrowed; it arrives at no barrier yet (log 71). -/
def takeCopy (cl : Nat) (s : State) (j : CopyJob) : State :=
  let s1 := (dropWalk s j.walk).modThread j.core j.slot (fun t => setRename t 1 j.id (copyCommand j))
  let s2 := match j.root with
    | some n => releaseRoot s1 j.space n
    | none => s1
  if j.out.isNone && j.next == j.start && j.walk.isNone then
    (openAll s2 j.shutters).modCluster cl (fun x => { x with copyJobs := AMap.del x.copyJobs j.id })
  else
    narrow (setCopy s2 cl { j with
      status := 4, code := 0, walk := none, root := none, rst := j.next
      need := if j.out.isNone then needOf j.grade (lrBudget j.record) else 0 }) j.shutters (keptHull s j)

/-- A matrix job that has not started, or waits for fault service, is removed; its shutter opens. -/
def takeMx (cl : Nat) (s : State) (j : MatrixJob) : State :=
  let cmd : Rename := match j.zero with
    | some (a, n) => .command 1 0 (a + n * 2 ^ 32) 0 0
    | none => .command 0 j.recAddr 0 0 0
  let s1 := (dropWalk s j.walk).modThread j.core j.slot (fun t => setRename t 0 j.id cmd)
  let s2 := if j.shadowed then mxCopyTiles s1 j true else s1
  (s2.modCore j.core (fun x => { x with shutters := x.shutters.filter (fun e => !(e.2.queue == 0 && e.2.id == j.id)) })).modCluster cl
    (fun x => { x with mxJobs := AMap.del x.mxJobs j.id })

/-- Step 3 for one cluster: what runs to its end stays. -/
def takeJobs (ms : List (Nat × Nat)) (s : State) (cl : Nat) : State :=
  let mine (c k : Nat) : Bool := ms.contains (c, k)
  let s1 := ((AMap.vals (s.cluster cl).copyJobs).filter (fun j =>
    mine j.core j.slot && j.status == 0 && j.ended.isNone && !j.cancel)).foldl (takeCopy cl) s
  ((AMap.vals (s1.cluster cl).mxJobs).filter (fun j =>
    mine j.core j.slot && j.status == 0 && j.ended.isNone && !j.cancel && (j.walk.isSome || (!j.converted && j.done == 0)))).foldl
      (takeMx cl) s1

/-- Final words of the jobs of a slot that are still readable. -/
def finalWords (s : State) (cl c k : Nat) (t : Thread) : Thread :=
  let x := s.cluster cl
  let t1 := x.copyJobs.foldl (fun t e =>
    if e.2.core = c ∧ e.2.slot = k ∧ e.2.status ≠ 0 ∧ idAge x.copyNext e.1 ≤ 32 ∧
        !(t.ren.any (fun r => r.1 == 2 ^ 32 + e.1 || r.2 == .renamed e.1 && r.1 / 2 ^ 32 == 1)) ∨
       e.2.core = c ∧ e.2.slot = k ∧ e.2.status ≠ 0 ∧ t.ren.any (fun r => r.2 == .renamed e.1 && r.1 / 2 ^ 32 == 1) then
      setRename t 1 e.1 (.final e.2.word) else t) t
  x.mxJobs.foldl (fun t e =>
    if e.2.core = c ∧ e.2.slot = k ∧ e.2.status ≠ 0 ∧ !(t.ren.any (fun r => r.1 == e.1)) then
      setRename t 0 e.1 (.final e.2.word) else t) t1

/-! ### Steps 1 to 4 (R434) -/

/-- Every member takes 0x40: it fetches nothing more, and its jobs are treated. -/
def markPreempt (s0 : State) (cls : List Nat) (reason : Nat) : State :=
  let ms := membersOn s0 cls
  let s := ms.foldl (fun s m => emptyPipe s m.1) s0
  let s1 := ms.foldl (fun s m => s.modThread m.1 m.2 (fun t => { t with pend := { t.pend with preempt := some reason } })) s
  cls.foldl (takeJobs ms) s1

def marked (s : State) (cls : List Nat) : Bool := (membersOn s cls).all (fun m => (s.thread m.1 m.2).pend.preempt.isSome)

/-- A packet on a path names a barrier of one of the clusters (log 37). -/
def barrierPending (s : State) (cls : List Nat) : Bool :=
  s.mem.paths.any (fun e => e.2.any (fun p => match p.op with
    | .reduce _ _ _ _ _ _ (some b) => cls.contains (clusterOf b.1)
    | .reduce _ _ _ _ _ _ none => false
    | .write _ => false
    | .marker => false))

/-- What step 4 waits for has come: no request of an instruction is under way, tile queries are answered, write queues
and engines have drained, and the jobs that run to their end have ended. -/
def drained (s : State) (cls : List Nat) : Bool :=
  let ms := membersOn s cls
  ms.all (fun m =>
    let t := s.thread m.1 m.2
    !effectUnderWay t && (AMap.vals (s.pipe m.1).ins).all (fun i => i.slot != m.2) && t.wq.isEmpty && !writerPending s (writerOf m.1 m.2) &&
      (match t.launchRes with
       | some (_, r) => r.isSome
       | none => true) && !(s.disp.queries.any (fun q => q.1 == m.1 && q.2.1 == m.2))) &&
  !barrierPending s cls &&
  cls.all (fun cl => !enginePending s cl 0 && !enginePending s cl 1 &&
    (AMap.vals (s.cluster cl).copyJobs).all (fun j => j.status != 0 || !ms.contains (j.core, j.slot)) &&
    (AMap.vals (s.cluster cl).mxJobs).all (fun j => j.status != 0 || !ms.contains (j.core, j.slot)))

/-! ### Steps 5 to 7 -/

/-- A governor writes back the rings it holds, and the distributor the tile spaces of the cluster's stages (R37, R38). -/
def giveRings (s0 : State) (cl : Nat) : State :=
  let s := (gangsOn s0 [cl]).foldl (fun s g => match s.node g.2.launch g.2.node, AMap.get s.disp.launches g.2.launch with
    | some n, some l => tileBack s l.space n
    | _, _ => s) s0
  (s.disp.rings.filter (fun e => e.2.holder == some cl)).foldl (fun s e =>
    setRing (ringBack s (e.1 % 2 ^ 64) e.2) e.1 { e.2 with holder := none, above := 0, below := 0 }) s

/-- The thread as an image holds it. -/
def savedThread (s : State) (c k : Nat) : Thread :=
  let t := finalWords s (clusterOf c) c k (s.thread c k)
  { t with status := .ready, answer := none, rel := none, dests := [], jobs := []
           pend := { t.pend with preempt := none, quiesce := none } }

/-- The shutters of a pool image: those of jobs that ended with status 3 or 4, marked with the job's slot (log 72). -/
def savedShutters (s : State) (c : Nat) : AMap Shutter :=
  (s.core c).shutters.filterMap (fun e =>
    if !e.2.closed then none
    else if 2 ^ 32 ≤ e.2.id then some e
    else match AMap.get (s.cluster (clusterOf c)).copyJobs e.2.id with
      | some j => some (e.1, { e.2 with id := e.2.id + (j.slot + 1) * 2 ^ 32 })
      | none => some e)

/-- A core as its images hold it; the lanes are the outgoing entries of each slot. -/
def savedCore (s : State) (ms : List (Nat × Nat)) (c : Nat) : Core :=
  let x := s.core c
  { x with
    slots := (ms.filter (fun m => m.1 == c)).foldl (fun a m => AMap.set a m.2 (savedThread s c m.2)) []
    shutters := savedShutters s c, near := [], tlb := [], msgs := [], tagReqs := [], bank := [], inPipe := none
    pipe := Pipe.reset, laneLaunch := []
    lanes := ((ms.filter (fun m => m.1 == c)).map Prod.snd).foldl (fun a k =>
      if (laneOf s c (outLane c k)).isEmpty then a else AMap.set a k (laneOf s c (outLane c k))) [] }

/-- The bytes of one pool image: the pool up to the register store with its tags, the shutters, the function table and
the sill, in whole lines (log 73). -/
def poolImageSize (part : Word) : Nat := (regStart part + regStart part / 32 + 512 + 16 + 63) / 64 * 64

/-- The bytes that the images of some clusters take. -/
def imagesSize (cores : List Core) : Nat :=
  cores.foldl (fun a x => a + poolImageSize x.part + 16384 * x.slots.length) 0

def savedSpace (s : State) (v : Saved) : Nat := match AMap.get s.disp.launches v.launch with
  | some l => l.space
  | none => 0

/-- Bytes of a space's save area that saved sets use. -/
def areaUsed (s : State) (sp : Nat) : Nat :=
  (AMap.vals s.disp.saved).foldl (fun a v => if savedSpace s v = sp then a + imagesSize (AMap.vals v.cores) else a) 0

/-- The area of a space can hold the images of the clusters (07 Table 8). -/
def areaHolds (s : State) (sp : Nat) (cls : List Nat) : Bool :=
  let ms := membersOn s cls
  let cores := cls.flatMap (fun cl => (List.range 8).map (fun p => savedCore s ms (coreAt cl p)))
  decide (areaUsed s sp + imagesSize cores ≤ (AMap.getD s.mgmt.areas sp Area.reset).savesize * 65536)

/-- The lines of the save area that new images fill hold bytes whose order the spec does not state: they read as
unrelated bytes under every key slot (log 73). -/
def fillArea (s : State) (sp used n id : Nat) : State :=
  let a := (AMap.getD s.mgmt.areas sp Area.reset).savebase.toNat / 4096 * 4096 + used
  let lo := homeLine a false
  let hi := lo + n / 64
  let mid : AMap (Nat × Nat) := (List.range (hi - lo)).map (fun i => (lo + i, (2 ^ 32 + id, 0)))
  s.modMem (fun m => { m with
    keys := m.keys.filter (fun e => decide (e.1 < lo)) ++ mid ++ m.keys.filter (fun e => decide (hi ≤ e.1)) })

/-- A slot that its context has left: its gen is increased by one (R438). -/
def vacate (s : State) (m : Nat × Nat) : State :=
  let g := (s.thread m.1 m.2).place.gen
  s.modCore m.1 (fun x => { x with
    slots := AMap.set x.slots m.2 { Thread.reset with place := { Place.reset with gen := g + 1 } }
    inPipe := none, seq := x.seq.filter (fun e => e.slot != m.2), pipe := { Pipe.reset with active := x.pipe.active } })

/-- The outgoing lane and the shutters of a slot's core are empty once its images are written. -/
def clearLeft (s : State) (m : Nat × Nat) : State :=
  let s1 := s.modCore (laneCore m.1) (fun x => { x with lanes := AMap.del x.lanes (outLane m.1 m.2) })
  (s1.modCore m.1 (fun x => { x with shutters := [] })).modCluster (clusterOf m.1) (fun x => { x with
    copyJobs := x.copyJobs.map (fun e => (e.1, if e.2.core = m.1 then { e.2 with shutters := [] } else e.2)) })

/-- A cluster that a pre-emption leaves: its holder's meters fall, and it is free. -/
def leaveCluster (s : State) (cl : Nat) : State :=
  let s1 := match (s.cluster cl).holder with
    | some h => (ancestors s h.1 h.2).foldl (fun (s : State) (p : Nat × Nat) => s.modNode p.1 p.2 (fun n => { n with usedCores := n.usedCores - 8 })) s
    | none => s
  freeCluster (s1.modCluster cl (fun x => { x with also := [] })) cl

/-- Steps 5 to 7 of a saved pre-emption. -/
def saveClusters (s0 : State) (cls : List Nat) (reason : Nat) : State :=
  let s1 := cls.foldl (fun s cl => (List.range 8).foldl (fun s p => bankAll s (coreAt cl p)) s) s0
  let s2 := (membersOn s1 cls).foldl (fun s m => emptyPipe s m.1) s1
  let s := cls.foldl giveRings s2
  let gs := gangsOn s cls
  match gs with
  | [] => cls.foldl leaveCluster s
  | g :: _ =>
    let ms := membersOn s cls
    let cores : AMap Core := cls.foldl (fun a cl => (List.range 8).foldl (fun a p =>
      AMap.set a (coreAt cl p) (savedCore s ms (coreAt cl p))) a) []
    let v : Saved := { launch := g.2.launch, gangs := gs, cores := cores, depth := laneDepth, reason := reason }
    let sp := savedSpace s v
    let s3 := (fillArea s sp (areaUsed s sp) (imagesSize (AMap.vals cores)) s.disp.nextSaved).modDisp (fun d => { d with
      saved := AMap.set d.saved d.nextSaved v, nextSaved := d.nextSaved + 1
      gangs := d.gangs.filter (fun e => !cls.contains e.2.cluster) })
    let s4 := ms.foldl vacate (ms.foldl clearLeft s3)
    let s5 := s4.modMem (fun m => { m with walks := m.walks.filter (fun e => !(ms.any (fun q => writerOf q.1 q.2 == e.2.issuer))) })
    let s6 := { s5 with cores := s5.cores.map (fun e => (e.1, { e.2 with
      tagReqs := e.2.tagReqs.filter (fun r => !ms.contains (r.core, r.slot)) })) }
    cls.foldl leaveCluster s6

/-- Reason 2: nothing is written, and every job is cancelled. -/
def dropClusters (s : State) (cls : List Nat) : State :=
  let gs := gangsOn s cls
  let s1 := gs.foldl (fun s e => cancelJobs (stopGang s e.1) e.2.launch e.2.node) s
  cls.foldl leaveCluster (cls.foldl giveRings s1)

/-! ### When the dispatcher pre-empts (R141) -/

/-- The rank of a gang's charter. -/
def gangRank (s : State) (g : Gang) : Nat :=
  match AMap.get s.disp.launches g.launch with
  | some l => (match AMap.get l.nodes g.node with
    | some n => rankOf l g.node n
    | none => 0)
  | none => 0

/-- The best rank among the gangs of a saved set. -/
def savedRank (s : State) (v : Saved) : Option Nat := (v.gangs.map (fun e => gangRank s e.2)).min?

/-- The clusters of a saved set, lower number first. -/
def savedClusters (v : Saved) : List Nat := (AMap.keys v.cores).foldl (fun l c => insertNat (clusterOf c) l) []

/-- Clusters that a waiting unit needs. -/
def unitNeeds (s : State) (u : Nat × Nat) : Nat :=
  match s.node u.1 u.2 with
  | none => 0
  | some n =>
    if n.kind = 3 then togetherClusters [n] else togetherClusters (n.children.filterMap (s.node u.1))

def unitRank (s : State) (u : Nat × Nat) : Nat :=
  match AMap.get s.disp.launches u.1, s.node u.1 u.2 with
  | some l, some n => rankOf l u.2 n
  | _, _ => 0

/-- Clusters held, each with its lowest rank, that hold only gangs ranking after r and whose images fit the area. -/
def victims (s : State) (r : Nat) : List (Nat × Nat) :=
  let cls := (s.clusters.filter (fun e => e.2.holder.isSome)).map Prod.fst
  cls.filterMap (fun cl =>
    let q := preemptSet s cl
    let gs := gangsOn s q
    let lo := maxD 0 (gs.map (fun e => gangRank s e.2))
    if !gs.isEmpty && gs.all (fun e => decide (r < gangRank s e.2)) &&
        (match gs with
         | g :: _ => (match AMap.get s.disp.launches g.2.launch with
           | some l => areaHolds s l.space q
           | none => false)
         | [] => false) then some (lo, cl) else none)

/-- The cluster to be pre-empted for a unit of rank r that needs n clusters: the lowest-ranked victim, when the free
clusters and all victims together suffice. -/
def victimFor (s : State) (r n : Nat) : Option Nat :=
  let free := (freeClusters s n).length
  let vs := victims s r
  if n ≤ free ∨ free + vs.length < n then none
  else (vs.foldl (fun (b : Option (Nat × Nat)) e => match b with
    | some x => if x.1 < e.1 then some e else some x
    | none => some e) none).map Prod.snd

/-- What waits for clusters, by rank: a unit with its need, or a saved set. -/
def waitingAll (s : State) : List (Nat × (Nat × Nat ⊕ Nat)) :=
  let us := (waitingUnits s).map (fun u => (unitRank s u, (Sum.inl u : Nat × Nat ⊕ Nat)))
  let vs := s.disp.saved.filterMap (fun e => (savedRank s e.2).map (fun r => (r, (Sum.inr e.1 : Nat × Nat ⊕ Nat))))
  sortBy Prod.fst (us ++ vs)

/-- The cluster that the dispatcher pre-empts next: for the best-ranked thing that waits and can be helped. -/
def duePreempt (s : State) : Option Nat :=
  (waitingAll s).findSome? (fun w => match w.2 with
    | .inl u => if budgetAllows s u.1 u.2 (unitNeeds s u) then victimFor s w.1 (unitNeeds s u) else none
    | .inr id => match AMap.get s.disp.saved id with
      | some v => victimFor s w.1 (savedClusters v).length
      | none => none)

/-- A pre-emption is under way on a cluster. -/
def preempting (s : State) (cl : Nat) : Bool :=
  (membersOn s [cl]).any (fun m => (s.thread m.1 m.2).pend.preempt.isSome)

/-- The reason of the pre-emption under way. -/
def preemptReason (s : State) (cl : Nat) : Nat :=
  ((membersOn s [cl]).findSome? (fun m => (s.thread m.1 m.2).pend.preempt)).getD 1

/-- Does the dispatcher have this reason to pre-empt the cluster now? -/
def mayPreempt (s : State) (cl reason : Nat) : Bool :=
  match reason with
  | 1 => duePreempt s == some cl
  | 2 => (gangsOn s [cl]).all (fun e => match AMap.get s.disp.launches e.2.launch with
      | some l => l.aborted || (match AMap.get l.nodes e.2.node with
        | some n => n.ending
        | none => true)
      | none => true)
  | 3 => decide (1 ≤ (s.die (cl / 32)).phase) && decide ((s.die (cl / 32)).phase ≤ 3)
  | _ => false

/-- One step of a pre-emption: it begins when the dispatcher has the reason, and ends once all has drained. -/
def preemptStep (s : State) (cl reason : Nat) : State :=
  let cls := preemptSet s cl
  if preempting s cl then
    let s1 := if marked s cls then s else markPreempt s cls reason
    if drained s1 cls then saveClusters s1 cls reason else s1
  else if mayPreempt s cl reason then
    if reason = 2 then dropClusters s cls
    else
      let s1 := markPreempt s cls reason
      if drained s1 cls then saveClusters s1 cls reason else s1
  else s

/-! ### Restoring (R438) -/

/-- Where a saved core goes: its own place in the target, or in the target's partner (log 74). -/
def targetCore (v : Saved) (cl c : Nat) : Nat :=
  coreAt (if clusterOf c = minD 0 (savedClusters v) then cl else partnerCluster cl) (posOf c)

/-- The clusters that a saved set takes. -/
def targets (v : Saved) (cl : Nat) : List Nat :=
  if (savedClusters v).length = 2 then [cl, partnerCluster cl] else [cl]

/-- A target fits: free and healthy, on the same side of its tower when the set has two clusters or filled lanes, and
within the budgets. -/
def fits (s : State) (v : Saved) (cl : Nat) : Bool :=
  let c0 := minD 0 (savedClusters v)
  let pair := decide ((savedClusters v).length = 2) || v.cores.any (fun e => !e.2.lanes.isEmpty)
  (targets v cl).all (grantable s) && (!pair || cl / 32 % 2 == c0 / 32 % 2) &&
    (match v.gangs with
     | g :: _ => budgetAllows s g.2.launch g.2.node (targets v cl).length
     | [] => false)

/-- The members of the gangs that are still there. -/
def savedMembers (v : Saved) : List (Nat × Nat) := v.gangs.flatMap (fun e => e.2.members)

/-- Write one core's images into its new place. -/
def restoreCore (v : Saved) (cl root : Nat) (s : State) (e : Nat × Core) : State :=
  let c := targetCore v cl e.1
  let x := s.core c
  let ks := (savedMembers v).filterMap (fun m => if m.1 = e.1 then some m.2 else none)
  let slots := ks.foldl (fun a k => AMap.set a k { e.2.slot k with wq := (x.slot k).wq }) x.slots
  let s1 := s.setCore c { x with
    pool := e.2.pool, emptyTags := e.2.emptyTags, poolPoison := e.2.poolPoison, part := e.2.part, sill := e.2.sill
    shutters := e.2.shutters, fns := e.2.fns, slots := slots, seq := e.2.seq.filter (fun q => ks.contains q.slot)
    imaged := e.2.imaged, beta := e.2.beta, lowered := false, near := [], inPipe := none }
  ks.foldl (fun s k =>
    let out := AMap.getD e.2.lanes k []
    setLane (clearLanes s c k root) c (outLane c k) (laneOf (clearLanes s c k root) c (outLane c k) ++ out) root) s1

/-- Rename the writers of committed words after a move: a thread keeps its own words, and the former user of its new
slot loses them. -/
def moveWriters (s : State) (f : Nat → Nat) : State :=
  s.modMem (fun m => { m with lines := m.lines.map (fun e => (e.1, { e.2 with w := e.2.w.map (fun q => (q.1, f q.2)) })) })

def writerMap (v : Saved) (cl w : Nat) : Nat :=
  let ms := savedMembers v
  match ms.find? (fun m => writerOf m.1 m.2 == w) with
  | some m => writerOf (targetCore v cl m.1) m.2
  | none => if ms.any (fun m => writerOf (targetCore v cl m.1) m.2 == w) then 2 ^ 32 else w

/-- Arrivals that still stand in a tree name the new place of their slot (R407). -/
def moveArrivals (s : State) (v : Saved) (cl root : Nat) : State :=
  { s with dies := s.dies.map (fun e => (e.1, { e.2 with episodes := e.2.episodes.map (fun p =>
      (p.1, if p.2.launch = root then { p.2 with arrivals := p.2.arrivals.map (fun a =>
        if (savedMembers v).contains (a.core, a.slot) then { a with core := targetCore v cl a.core } else a) } else p.2)) })) }

/-- Held answers are applied to the restored pools (R407). -/
def applyHeld (s : State) (v : Saved) (id cl : Nat) : State :=
  let s1 := (s.disp.heldTree.filter (fun h => h.1 == id)).foldl (fun s h =>
    let c := targetCore v cl h.2.1
    setTagsWake (s.modCore c (fun x => x.putNum h.2.2.1 8 h.2.2.2.toNat)) c h.2.2.1 8 true) s
  s1.modDisp (fun d => { d with heldTree := d.heldTree.filter (fun h => h.1 != id) })

/-- Hand the rings of a set's stages to the governor of the new cluster: the dispatcher, which has acted on them as a
governor does, writes them back, and the governor takes what it wrote (R150, R438; log 115). -/
def takeBackRings (s : State) (v : Saved) (cl : Nat) : State :=
  v.gangs.foldl (fun s g =>
    match s.node g.2.launch g.2.node, AMap.get s.disp.launches g.2.launch with
    | some n, some l =>
      let as := (governed s g.2.launch n).filter (fun a => match AMap.get s.disp.rings (ringKey l.space a) with
        | some r => r.holder.isNone
        | none => false)
      let s1 := as.foldl (fun s a => match AMap.get s.disp.rings (ringKey l.space a) with
        | some r => ringBack s a r
        | none => s) s
      takeRings s1 l.space as cl
    | _, _ => s) s

/-- The other stages of a saved set. -/
def savedStages (v : Saved) (i : Nat) : List Nat := (v.gangs.foldl (fun l e => insertNat e.2.node l) []).erase i

/-- Restore a saved set on a cluster; none when it does not fit or a queue has no room for the commands yet. -/
def restoreTo (s : State) (id cl : Nat) : Option State :=
  match AMap.get s.disp.saved id with
  | none => none
  | some v =>
    match v.gangs with
    | [] => none
    | g :: _ =>
      if !fits s v cl then none
      else
        let root := rootOf s g.2.launch
        let ts := targets v cl
        let s1 := ts.foldl (fun s c =>
          let s1 := s.modCluster c (fun x => { x with
            holder := some (g.2.launch, g.2.node), also := savedStages v g.2.node, lmap := [], sampleAt := s.time.cycle + 4096 })
          countClusters s1 g.2.launch g.2.node 1) s
        let s2 := v.cores.foldl (restoreCore v cl root) s1
        let s3 := moveArrivals (moveWriters s2 (writerMap v cl)) v cl root
        let s4 := applyHeld s3 v id cl
        let s5 := s4.modDisp (fun d => { d with
          saved := AMap.del d.saved id
          gangs := v.gangs.foldl (fun a e => AMap.set a e.1 { e.2 with
            members := e.2.members.map (fun m => (targetCore v cl m.1, m.2))
            cluster := clusterOf (match e.2.members with
              | m :: _ => targetCore v cl m.1
              | [] => coreAt cl 0) }) d.gangs })
        let s6 := takeBackRings s5 v cl
        (savedMembers v).foldlM (fun s m => reissueAll s (targetCore v cl m.1) m.2) s6

/-- The first cluster on which a saved set can be restored. -/
def restoreTarget (s : State) (id : Nat) : Option Nat :=
  (List.range Config.clusters).find? (fun cl => match AMap.get s.disp.saved id with
    | some v => fits s v cl
    | none => false)

/-- A saved set whose gangs have all been dropped is forgotten. -/
def dropEmpty (s : State) : State :=
  s.modDisp (fun d => { d with saved := d.saved.filter (fun e => !e.2.gangs.isEmpty)
                               heldTree := d.heldTree.filter (fun h => match AMap.get d.saved h.1 with
                                 | some v => !v.gangs.isEmpty
                                 | none => false) })

/-- What the dispatcher places next, of what waits in the order of rank: a unit, or a saved set with its cluster. What
ranks lower waits while pre-emption can make room for the first that does not fit; work that a budget holds is passed over
(R140, R141, R152, R153). -/
def nextPlaced (s : State) : List (Nat × (Nat × Nat ⊕ Nat)) → Option (Nat × Nat ⊕ Nat × Nat)
  | [] => none
  | w :: ws =>
    match w.2 with
    | .inl u =>
      if !budgetAllows s u.1 u.2 (unitNeeds s u) then nextPlaced s ws
      else if (placeUnit s u).isSome then some (.inl u)
      else if (victimFor s w.1 (unitNeeds s u)).isSome then none
      else nextPlaced s ws
    | .inr id =>
      match AMap.get s.disp.saved id, restoreTarget s id with
      | some _, some cl => if (restoreTo s id cl).isSome then some (.inr (id, cl)) else nextPlaced s ws
      | some v, none => if (victimFor s w.1 (savedClusters v).length).isSome then none else nextPlaced s ws
      | none, _ => nextPlaced s ws

def duePlaced (s : State) : Option (Nat × Nat ⊕ Nat × Nat) := nextPlaced s (waitingAll s)

/-- The saved set that is restored next. -/
def dueRestore (s : State) : Option (Nat × Nat) :=
  match duePlaced s with
  | some (.inr p) => some p
  | some (.inl _) => none
  | none => none

/-- The next unit in rank order placed. -/
def duePlace (s : State) : Option State :=
  match duePlaced s with
  | some (.inl u) => placeUnit s u
  | some (.inr _) => none
  | none => none

/-- Abort a struck launch, else place the next unit. -/
def placeNext (s : State) : State :=
  match struckLaunch s with
  | some lid => abortSubtree (s.modDisp (fun d => { d with launches := d.launches.map (fun e =>
      (e.1, if e.1 = lid then { e.2 with aborted := true } else e.2)) })) lid 0
  | none => (duePlace s).getD s

/-! ### Phase 3 of a single-die reset (R449) -/

/-- No gang holds a cluster of the die. -/
def dieVacated (s : State) (d : Nat) : Bool := s.disp.gangs.all (fun e => e.2.cluster / 32 != d)

/-- Phase 3 ends once no gang is left on the die. -/
def advanceDie (s : State) (d : Nat) : State :=
  if (s.die d).phase == 3 && dieVacated s d then s.modDie d (fun x => { x with phase := 4 }) else s

def execLaunchPlace (s : State) : Host.Outcome State Fault Refusal := .next (placeNext s)

def execPreempt (cluster reason : Nat) (s : State) : Host.Outcome State Fault Refusal :=
  let s1 := preemptStep s cluster reason
  onUnit (isCluster cluster) (if s1.mgmt.dieBusy then advanceDie s1 s1.mgmt.dieNum else s1)

def execRestore (saved cluster : Nat) (s : State) : Host.Outcome State Fault Refusal :=
  onUnit (isCluster cluster) ((restoreTo (dropEmpty s) saved cluster).getD (dropEmpty s))

end Sys2Proof.Machine
end

