-- ==== Sys2Proof/Machine/Health.lean ====
section
/-! DEFINITION. Errors, the power limiter, fencing, single-die reset, key slots and the debugger's signals (R429, R431,
R445-R449, R454, R455), with their events. -/

namespace Sys2Proof.Machine

/-! ### Fencing (R448) -/

/-- Every job of the cluster's queues that has no final status ends with status 2 and code 0xFD. -/
def endJobs (s : State) (cl : Nat) : State :=
  s.modCluster cl (fun x => { x with
    copyJobs := x.copyJobs.map (fun e => (e.1, if e.2.status = 0 then { e.2 with ended := some (2, 0xFD), walk := none } else e.2))
    mxJobs := x.mxJobs.map (fun e => (e.1, if e.2.status = 0 then { e.2 with ended := some (2, 0xFD), walk := none } else e.2)) })

/-- A gang of a fenced cluster ends as a fault (R29). -/
def fenceGang (s : State) (e : Nat × Gang) : State :=
  match AMap.get s.disp.gangs e.1 with
  | some g => faultCharter (stopGang s e.1) g.launch g.node 0xFD
  | none => s

/-- Rings that nobody holds go to the governor of another cluster that runs one of their stages. -/
def rehold (s : State) : State :=
  (s.disp.rings.filter (fun e => e.2.holder.isNone)).foldl (fun s e =>
    match s.disp.gangs.find? (fun g => decide (g.2.launch = e.2.launch) && (match s.node g.2.launch g.2.node with
      | some n => namesRing n (e.1 % 2 ^ 64)
      | none => false)) with
    | some g => setRing s e.1 { e.2 with holder := some g.2.cluster }
    | none => s) s

/-- Lines of a die. -/
def ofDie (d : Nat) (hl : Nat) : Bool := lineDie hl == d

/-- One cluster is fenced: its gangs, its jobs, its home slice, which writes its lines back and passes them to the other
slice of its pair, then the registers. -/
def fenceOne (s : State) (cl : Nat) : State :=
  if (s.cluster cl).fenced then s
  else
    let s0 := match (s.cluster cl).holder with
      | some h => (s.cluster cl).also.foldl (fun s i => markHealth s h.1 i) (markHealth s h.1 h.2)
      | none => s
    let s1 := (gangsOn s0 [cl]).foldl fenceGang s0
    let s2 := leaveCluster (rehold (giveRings (endJobs s1 cl) cl)) cl
    let s3 := (s2.modMem (fun m =>
      { m.evict (fun e => m.sliceOf e.line == cl) with off := insertNat cl m.off })).modCluster cl
      (fun x => { x with fenced := true })
    s3.modMgmt (fun g => { g with health := { g.health with replace := true } })

/-- A whole die is fenced: every access whose home is the die completes as poisoned. -/
def fenceDie (s : State) (d : Nat) : State :=
  ((List.range 32).foldl (fun s i => fenceOne s (d * 32 + i)) s).modMem (fun m => { m with lost := insertNat d m.lost })

/-- Fence a cluster; when both slices of its pair have failed, the die (R448). -/
def fence (s : State) (cl : Nat) : State :=
  let s1 := fenceOne s cl
  healthMsg (healthWord s) (if (s1.cluster (cl ^^^ 1)).fenced then fenceDie s1 (cl / 32) else s1)

/-! ### Errors (R445) -/

/-- An uncorrectable error that consumption does not explain: the second one in 2^40 ticks fences the cluster. -/
def unexplained (s : State) (cl : Nat) : State :=
  let ts := (s.cluster cl).errTicks.filter (fun t => decide (s.time.tick ≤ t + 2 ^ 40))
  let s1 := s.modCluster cl (fun x => { x with errTicks := ts ++ [s.time.tick] })
  if ts.isEmpty then s1 else fence s1 cl

/-- The cluster in whose units an error arises. -/
def eccCluster : EccSite → Option Nat
  | .pool c _ => some (clusterOf c)
  | .dram _ _ => none
  | .near c _ _ => some (clusterOf c)
  | .tlb c _ => some (clusterOf c)
  | .clusterTlb cl _ _ => some cl
  | .portTlb _ => none
  | .queue c _ => some (clusterOf c)
  | .unit cl => some cl

/-- What a double-bit error does where it is found. -/
def eccDouble (s : State) : EccSite → State
  | .pool c o => s.modCore c (fun x => { x with poolPoison := insertNat (o / 8) x.poolPoison })
  | .dram d o => s.modMem (fun m => { m with poison := insertNat ((d % 16 * 2 ^ 34 + o % 2 ^ 34) / 8) m.poison })
  | .near c l w => s.modCore c (fun x => { x with near := x.near.map (fun e =>
      (e.1, if e.1 = l then { e.2 with bad := insertNat (w % 8) e.2.bad } else e.2)) })
  | .tlb c i => s.modCore c (fun x => { x with tlb := x.tlb.eraseIdx i })
  | .clusterTlb cl w i => s.modCluster cl (fun x => match w.val with
      | 0 => { x with l2 := x.l2.eraseIdx i }
      | 1 => { x with itlb := x.itlb.eraseIdx i }
      | _ => { x with etlb := x.etlb.eraseIdx i })
  | .portTlb i => { s with net := { s.net with tlb := s.net.tlb.eraseIdx i } }
  | .queue c k => if (s.thread c k).status = .unplaced then s else faultInstance s c k 0xFE
  | .unit _ => s

def eccError (s : State) (site : EccSite) (double consumed : Bool) : State :=
  let h (f : Health → Health) (s : State) : State := s.modMgmt (fun g => { g with health := f g.health })
  if !double then h (fun x => { x with corrected := (x.corrected + 1) % 2 ^ 64 }) s
  else
    let s1 := eccDouble (h (fun x => { x with uncorrected := (x.uncorrected + 1) % 2 ^ 64 }) s) site
    match eccCluster site with
    | some cl => if consumed then s1 else unexplained s1 cl
    | none => s1

/-- The parts of an error's place exist. -/
def eccSiteOk : EccSite → Bool
  | .pool c o => isCore c && decide (o < Config.poolSize)
  | .dram d o => isDie d && decide (o < 2 ^ 34)
  | .near c _ _ => isCore c
  | .tlb c _ => isCore c
  | .clusterTlb cl _ _ => isCluster cl
  | .portTlb _ => true
  | .queue c k => isSlot c k
  | .unit cl => isCluster cl

/-! ### The power limiter (R447) -/

def limiter (s : State) (watts withheld : Nat) (thermal : Bool) : State :=
  let on := decide (s.mgmt.health.plimit < watts)
  healthMsg (healthWord s) (s.modMgmt (fun g => { g with health := { g.health with
    limiting := on, thermal := thermal
    throttled := (g.health.throttled + (if on || thermal then withheld else 0)) % 2 ^ 64 } }))

/-! ### Resetting one die (R449) -/

/-- Phases 1 and 2: announced, and interrupt 0x44 pending on every thread slot of the die; 100 microseconds follow. -/
def startReset (s : State) (d : Nat) : State :=
  if s.mgmt.dieBusy then s
  else
    let s1 := s.modMgmt (fun g => { g with dieBusy := true, dieNum := d, health := { g.health with resetting := true } })
    let s2 := s1.modDie d (fun x => { x with phase := 2, phaseEnd := s.time.tick + 100000 })
    let s3 := { s2 with cores := s2.cores.map (fun e => (e.1, if dieOf e.1 = d then { e.2 with slots := e.2.slots.map (fun q =>
      (q.1, if q.2.status = .unplaced then q.2 else { q.2 with pend := { q.2.pend with quiesce := some d } })) } else e.2)) }
    healthMsg (healthWord s) s3

def graceDue (s : State) (d : Nat) : Bool := (s.die d).phase == 2 && decide ((s.die d).phaseEnd ≤ s.time.tick)

def endGrace (s : State) (d : Nat) : State :=
  advanceDie (if graceDue s d then s.modDie d (fun x => { x with phase := 3 }) else s) d

/-- No write of the die's cores is still queued. -/
def dieDrained (s : State) (d : Nat) : Bool :=
  s.cores.all (fun e => dieOf e.1 != d || e.2.slots.all (fun q => q.2.wq.isEmpty))

/-- A slot after the reset of its die: every control register with a Reset column holds it (R6, 04 Table 6); `gen`, which has
none, stays (log 93). No thread is placed there then. -/
def resetSlot (t : Thread) : Thread := { Thread.reset with place := { Place.reset with gen := t.place.gen } }

/-- What a die's parts hold after its reset; the generators of its tree nodes and home slices are seeded again (R102),
its TLBs are empty and its walker routines are loaded again (R251, R449). -/
def resetParts (s : State) (d : Nat) : State :=
  { s with
    dies := AMap.set s.dies d { s.die d with treeGens := [], misses := [], routines := some s.trust.boots }
    cores := s.cores.map (fun e => (e.1, if dieOf e.1 = d then { Core.reset with
      slots := e.2.slots.map (fun q => (q.1, resetSlot q.2)), msgs := e.2.msgs, lanes := e.2.lanes, laneLaunch := e.2.laneLaunch, lowered := e.2.lowered } else e.2))
    clusters := s.clusters.map (fun e => (e.1, if e.1 / 32 = d then { Cluster.reset with
      fenced := e.2.fenced, errTicks := e.2.errTicks, sampleAt := s.time.cycle + 4096 } else e.2)) }

/-- Phases 4 and 5: the slices write back every line, lines that cannot be written become poisoned, the die resets and is
measured; one that fails is fenced whole. -/
def endDrain (s : State) (d : Nat) (ok : Bool) (bad : List Nat) : State :=
  if (s.die d).phase == 4 && dieDrained s d then
    let lost := bad.filter (fun hl => ofDie d hl && s.mem.dirty.contains hl)
    let s1 := s.modMem (fun m => { m.evict (fun e => ofDie d e.line) with
      poison := lost.foldl (fun p hl => (List.range 8).foldl (fun p i => insertNat (hl * 8 + i) p) p) m.poison })
    let s2 := (resetParts s1 d).modDie d (fun x => { x with phase := 5, running := ok })
    let s3 := { s2.drawFree.2 with trust := { s2.trust with meas := AMap.set s2.trust.meas (d + 1) s2.drawFree.1 } }
    if ok then s3 else healthMsg (healthWord s3) (fenceDie s3 d)
  else s

/-- Phase 6. -/
def resumeDie (s : State) (d : Nat) : State :=
  if (s.die d).phase == 5 then
    let s1 := s.modDie d (fun x => { x with phase := 0 })
    retryPorts (healthMsg (healthWord s)
      (s1.modMgmt (fun g => { g with dieBusy := false, health := { g.health with resetting := false } })))
  else s

/-! ### Key slots (R454, R455) -/

/-- A key command: slot 0 and operations 0 and 3 are refused; else every home slice writes back the lines it holds under
the slot, and a fresh key is installed. -/
def keyCommand (s : State) (slot op : Nat) : State :=
  let k := slot % 4096
  if k = 0 ∨ (op ≠ 1 ∧ op ≠ 2) then s.modMgmt (fun g => { g with keyRefused := true })
  else
    (s.modMem (fun m => { m.evict (fun e => e.key % 4096 == k) with
      keyGen := AMap.set m.keyGen k (m.gen k + 1) })).modMgmt (fun g => { g with keyRefused := false })

/-! ### The debugger (R429, R431) -/

def debugSignal (s : State) (c k code : Nat) : State :=
  s.modThread c k (fun t => if t.status = .unplaced then t else { t with pend := { t.pend with debug := some (code % 256) } })

/-- A slot that the stub parked under 0x43 returns to xpc. -/
def debugRelease (s : State) (c k : Nat) : State :=
  if (s.thread c k).status = .debugHold then stubReturn s c k (s.thread c k).ctl.xpc else s

/-! ### The events -/

def execFenceCluster (cluster : Nat) (s : State) : Host.Outcome State Fault Refusal := onUnit (isCluster cluster) (fence s cluster)

def execEccError (site : EccSite) (double consumed : Bool) (s : State) : Host.Outcome State Fault Refusal :=
  onUnit (eccSiteOk site) (eccError s site double consumed)

def execLimiterWindow (watts withheld : Nat) (thermal : Bool) (s : State) : Host.Outcome State Fault Refusal :=
  .next (limiter s watts withheld thermal)

def execDiereset (die : Nat) (s : State) : Host.Outcome State Fault Refusal := onUnit (isDie die) (startReset s die)

def execQuiesceGraceExpiry (die : Nat) (s : State) : Host.Outcome State Fault Refusal := onUnit (isDie die) (endGrace s die)

def execQuiesceDrainDone (die : Nat) (digestOk : Bool) (bad : List Nat) (s : State) : Host.Outcome State Fault Refusal :=
  onUnit (isDie die) (endDrain s die digestOk bad)

def execDieResume (die : Nat) (s : State) : Host.Outcome State Fault Refusal := onUnit (isDie die) (resumeDie s die)

def execKeyInstall (slot : Nat) (s : State) : Host.Outcome State Fault Refusal := .next (keyCommand s slot 1)

def execKeyRekey (slot : Nat) (s : State) : Host.Outcome State Fault Refusal := .next (keyCommand s slot 2)

def execDbgsig (core slot code : Nat) (s : State) : Host.Outcome State Fault Refusal :=
  onUnit (isSlot core slot) (debugSignal s core slot code)

def execDbgrel (core slot : Nat) (s : State) : Host.Outcome State Fault Refusal :=
  onUnit (isSlot core slot) (debugRelease s core slot)

end Sys2Proof.Machine
end

