-- ==== Sys2Proof/Machine/Trust.lean ====
section
/-! DEFINITION. The trust die: power-on, measurement, the SPDM responder and image updates (R450-R453), with their
events. What R453 takes from DMTF SPDM 1.3 is laid out as that standard does (log 78). -/

namespace Sys2Proof.Machine

def State.modTrust (s : State) (f : Trust → Trust) : State := { s with trust := f s.trust }

/-! ### Power-on and measurement (R450, R451, R454) -/

/-- What a power-on keeps: DRAM bytes, which no new key reads (every key is generated anew), host memory, the firmware
image (an update takes effect), the model's own agenda and free-value counter; everything else is as after reset. -/
def powerOn (s : State) (ok : Bool) : State :=
  let img := s.trust.nextImage.getD s.trust.image
  let b := s.trust.boots + 1
  { State.reset with
    time := Time.reset
    agenda := s.agenda, free := s.free
    mem := { Memory.reset with
      dram := s.mem.dram, keys := s.mem.keys, host := s.mem.host
      keyGen := (List.range 4096).map (fun k => (k, s.mem.gen k + 1)) }
    trust := { Trust.reset with
      boots := b, running := ok, failed := !ok, image := img
      meas := if ok then [(18, Config.measured b 17), (19, Config.sha512 img)] else [] } }

/-- The trust die measures a die before releasing it: the port die (16) first, then the compute dies in order. A die
that leaves reset loads its walker routines from the image (R251); one that fails stays in reset and is fenced whole. -/
def measureDie (s : State) (d : Nat) (ok : Bool) : State :=
  let known (i : Nat) : Bool := (AMap.get s.trust.meas i).isSome
  let turn := s.trust.running && !known (d + 1) && (decide (d = 16) || (known 17 && (List.range d).all (fun j => known (j + 1))))
  if !turn then s
  else
    let s1 := s.modTrust (fun t => { t with meas := AMap.set t.meas (d + 1) (Config.measured t.boots d) })
    if d = 16 then s1
    else if ok then s1.modDie d (fun x => { x with running := true, routines := some s.trust.boots })
    else healthMsg (healthWord s1) (fenceDie s1 d)

/-! ### The SPDM responder (R453) -/

/-- A response goes out; the transcript that a signature covers grows by request and response. -/
def respond (s : State) (req resp : List Byte) : State :=
  s.modTrust (fun t => { t with responses := t.responses ++ [resp], transcript := t.transcript ++ req ++ resp })

/-- ERROR with a code and data. -/
def spdmError (s : State) (code data : Nat) : State :=
  s.modTrust (fun t => { t with responses := t.responses ++ [[0x13, 0x7F, BitVec.ofNat 8 code, BitVec.ofNat 8 data]] })

/-- Error codes: InvalidRequest, UnexpectedRequest, UnsupportedRequest. -/
def eInvalid : Nat := 1
def eUnexpected : Nat := 4
def eUnsupported : Nat := 7

def reqByte (req : List Byte) (i : Nat) : Nat := (req.getD i 0).toNat

/-- A request with code `code` and at least n bytes. -/
def reqOk (req : List Byte) (code n : Nat) : Bool := decide (reqByte req 1 = code) && decide (n ≤ req.length)

def getVersion (s : State) (req : List Byte) : State :=
  if reqOk req 0x84 4 then
    let s1 := s.modTrust (fun t => { t with version := true, capabilities := false, algorithms := false, transcript := [] })
    respond s1 req [0x10, 0x04, 0, 0, 0, 1, 0x00, 0x13]
  else spdmError s eInvalid 0

/-- CERT_CAP, CHAL_CAP and signed MEAS_CAP; the timing exponent and the message sizes are open. -/
def getCapabilities (s : State) (req : List Byte) : State :=
  if !reqOk req 0xE1 4 then spdmError s eInvalid 0
  else if !s.trust.version then spdmError s eUnexpected 0
  else
    let d := s.drawFree
    let s1 := d.2.modTrust (fun t => { t with capabilities := true })
    respond s1 req ([0x13, 0x61, 0, 0, 0, BitVec.ofNat 8 d.1, 0, 0] ++ toBytes 4 0x16 ++ toBytes 4 (d.1 / 256) ++ toBytes 4 (d.1 / 256))

/-- RSASSA-4096 and SHA-512. -/
def negotiate (s : State) (req : List Byte) : State :=
  if !reqOk req 0xE3 4 then spdmError s eInvalid 0
  else if !s.trust.capabilities then spdmError s eUnexpected 0
  else
    let s1 := s.modTrust (fun t => { t with algorithms := true })
    respond s1 req ([0x13, 0x63, 0, 0] ++ toBytes 2 36 ++ [1, 0] ++ toBytes 4 8 ++ toBytes 4 32 ++ toBytes 4 4 ++ List.replicate 16 0)

def chain (s : State) : List Byte := Config.certificate s.trust.boots
def chainDigest (s : State) : List Byte := toBytes 64 (Config.sha512 (chain s))

def getDigests (s : State) (req : List Byte) : State :=
  if !reqOk req 0x81 4 then spdmError s eInvalid 0
  else if !s.trust.algorithms then spdmError s eUnexpected 0
  else respond s req ([0x13, 0x01, 1, 1] ++ chainDigest s)

def getCertificate (s : State) (req : List Byte) : State :=
  if !reqOk req 0x82 8 || decide (reqByte req 2 ≠ 0) then spdmError s eInvalid 0
  else if !s.trust.algorithms then spdmError s eUnexpected 0
  else
    let off := ofBytes ((req.drop 4).take 2)
    let len := ofBytes ((req.drop 6).take 2)
    let part := ((chain s).drop off).take len
    respond s req ([0x13, 0x02, 0, 0] ++ toBytes 2 part.length ++ toBytes 2 ((chain s).length - off - part.length) ++ part)

/-- A fresh nonce of the responder. -/
def freshNonce (s : State) : List Byte × State :=
  (Config.nonce s.trust.nonces, s.modTrust (fun t => { t with nonces := t.nonces + 1 }))

/-- The blocks of R453, in order of index, with their raw digests. -/
def blockOf (i d : Nat) : List Byte := [BitVec.ofNat 8 i, 1] ++ toBytes 2 67 ++ [1] ++ toBytes 2 64 ++ toBytes 64 d
def blocks (s : State) (want : Nat → Bool) : List (List Byte) :=
  (s.trust.meas.filter (fun e => want e.1)).map (fun e => blockOf e.1 e.2)

def signed' (s : State) (req resp : List Byte) : List Byte := resp ++ Config.signature (s.trust.transcript ++ req ++ resp)

def challenge (s : State) (req : List Byte) : State :=
  if !reqOk req 0x83 36 || decide (reqByte req 2 ≠ 0) then spdmError s eInvalid 0
  else if !s.trust.algorithms then spdmError s eUnexpected 0
  else
    let n := freshNonce s
    let sum := if reqByte req 3 = 0 then [] else toBytes 64 (Config.sha512 ((blocks s (fun _ => true)).flatten))
    let body := [0x13, 0x03, 0, 1] ++ chainDigest s ++ n.1 ++ sum ++ [0, 0] ++ (req.drop 36).take 8
    respond n.2 req (signed' s req body)

/-- GET_MEASUREMENTS: operation 0 asks for the number of blocks, 0xFF for all, any other for one. -/
def getMeasurements (s : State) (req : List Byte) : State :=
  let op := reqByte req 3
  let sign := decide (reqByte req 2 % 2 = 1)
  if !reqOk req 0xE0 (if sign then 37 else 4) then spdmError s eInvalid 0
  else if !s.trust.algorithms then spdmError s eUnexpected 0
  else
    let bs := if op = 0 then [] else blocks s (fun i => op == 0xFF || i == op)
    if op ≠ 0 ∧ bs = [] then spdmError s eInvalid 0
    else
      let rec' := bs.flatten
      let n := freshNonce s
      let head := [0x13, 0x60, if op = 0 then BitVec.ofNat 8 s.trust.meas.length else 0, 0, BitVec.ofNat 8 bs.length] ++ toBytes 3 rec'.length
      let body := head ++ rec' ++ n.1 ++ [0, 0] ++ (if sign then (req.drop 37).take 8 else (req.drop 4).take 8)
      respond n.2 req (if sign then signed' s req body else body)

/-! ### The events -/

def execPowerOn (imageOk : Bool) (s : State) : Host.Outcome State Fault Refusal := .next (powerOn s imageOk)

def execDieMeasure (die : Nat) (digestOk : Bool) (s : State) : Host.Outcome State Fault Refusal :=
  onUnit (decide (die ≤ 16)) (measureDie s die digestOk)

def execGetVersion (req : List Byte) (s : State) : Host.Outcome State Fault Refusal := .next (getVersion s req)
def execGetCapabilities (req : List Byte) (s : State) : Host.Outcome State Fault Refusal := .next (getCapabilities s req)
def execNegotiateAlgorithms (req : List Byte) (s : State) : Host.Outcome State Fault Refusal := .next (negotiate s req)
def execGetDigests (req : List Byte) (s : State) : Host.Outcome State Fault Refusal := .next (getDigests s req)
def execGetCertificate (req : List Byte) (s : State) : Host.Outcome State Fault Refusal := .next (getCertificate s req)
def execChallenge (req : List Byte) (s : State) : Host.Outcome State Fault Refusal := .next (challenge s req)
def execGetMeasurements (req : List Byte) (s : State) : Host.Outcome State Fault Refusal := .next (getMeasurements s req)

/-- KEY_EXCHANGE, PSK_EXCHANGE, mutual authentication, chunking and every other request (R453). -/
def execSpdmUnsupported (req : List Byte) (s : State) : Host.Outcome State Fault Refusal :=
  .next (spdmError s eUnsupported (reqByte req 1))

def execImageUpdate (image : List Byte) (s : State) : Host.Outcome State Fault Refusal :=
  .next (s.modTrust (fun t => { t with nextImage := some image }))

end Sys2Proof.Machine
end

