-- ==== Sys2Proof/Machine/Image.lean ====
section
/-! DEFINITION. Loading an application image (R40, R41, R57, R471), with its event. -/

namespace Sys2Proof.Machine

/-! ### The file (R40) -/

/-- A section of an image: type, file offset, size and load address. -/
structure Section where
  type : Nat
  off : Nat
  size : Nat
  load : Nat
  deriving DecidableEq, Repr

def imgBytes (im : List Byte) (off n : Nat) : List Byte := (im.drop off).take n
def imgNum (im : List Byte) (off n : Nat) : Nat := ofBytes (imgBytes im off n)

def readSection (im : List Byte) (tab i : Nat) : Section × Nat :=
  let e := imgNum im (tab + 32 * i) 32
  ({ type := fld e 0 16, off := fld e 64 64, size := fld e 128 64, load := fld e 192 64 }, fld e 16 48)

/-- Header, sections, and the reserved bits of their entries; none when the table does not lie in the file. -/
def sections (im : List Byte) : Option (List (Section × Nat)) :=
  let n := imgNum im 8 4
  let tab := imgNum im 16 8
  if im.length < tab + 32 * n then none else some ((List.range n).map (readSection im tab))

/-- A reserved bit in the feature masks: of an entry, of bits [63:16] of its mask, or bit 0 of the mask clear (R33;
log 119). -/
def badMasks (im : List Byte) (e : Section) : Bool :=
  (List.range (e.size / 16)).any (fun i =>
    decide (imgNum im (e.off + 16 * i + 4) 4 ≠ 0) || decide (2 ^ 16 ≤ imgNum im (e.off + 16 * i + 8) 8) ||
      decide (imgNum im (e.off + 16 * i + 8) 8 % 2 = 0))

/-- Status 1: magic, level, version, a reserved bit or a reserved type; type 0, which 02 Table 9 does not list, counts as
reserved (DESIGN CHOICE, log 123). -/
def badHeader (im : List Byte) (ss : List (Section × Nat)) : Bool :=
  let h := imgNum im 0 64
  decide (im.length < 64) || decide (fld h 0 32 ≠ 0x32584C55) || decide (fld h 32 16 ≠ 2) || decide (fld h 48 16 ≠ 1) ||
    decide (fld h 96 32 ≠ 0) || decide (fld h 192 320 ≠ 0) ||
    ss.any (fun e => decide (e.2 ≠ 0) || decide (e.1.type = 0) || decide (9 ≤ e.1.type) ||
      (decide (e.1.type = 8) && decide (imgNum im (e.1.off + 12) 4 ≠ 0)) ||
      (decide (e.1.type = 5) && badMasks im e.1))

def ofType (ss : List Section) (t : Nat) : List Section := ss.filter (fun e => e.type == t)

/-- The index of the type-2 section that a pool image names. -/
def poolOwner (im : List Byte) (e : Section) : Nat := imgNum im (e.off + 8) 4

/-- Status 2: the counts of 02 Table 9 and the bounds of the file. -/
def badCounts (im : List Byte) (ss : List Section) : Bool :=
  let n (t : Nat) : Nat := (ofType ss t).length
  decide (n 1 ≠ 1) || decide (n 2 = 0) || decide (n 4 = 0) || decide (n 5 ≠ 1) || decide (1 < n 6) ||
    (ofType ss 8).any (fun e => decide (((ofType ss 8).filter (fun f => poolOwner im f == poolOwner im e)).length ≠ 1)) ||
    ss.any (fun e => decide (im.length < e.off + e.size))

/-! ### Feature masks (R33, R471) -/

/-- The mask of the kernel whose type-2 section has an index; 0 for a kernel that has no entry (DESIGN CHOICE, log 123). -/
def kernelMask (im : List Byte) (ss : List Section) (idx : Nat) : Nat :=
  match ofType ss 5 with
  | m :: _ => ((List.range (m.size / 16)).findSome? (fun i =>
      if imgNum im (m.off + 16 * i) 4 = idx then some (imgNum im (m.off + 16 * i + 8) 8) else none)).getD 0
  | [] => 0

/-- A stretch of kernel code: where it runs, its bytes, its mask, the index of its kernel's type-2 section, and the load
address of its pool image when it is one. -/
structure Code where
  base : Nat
  bytes : List Byte
  mask : Nat
  kernel : Nat
  image : Option Nat

def codeWord (k : Code) (pc : Nat) : Option InstrWord :=
  if k.base ≤ pc ∧ pc + 12 ≤ k.base + k.bytes.length then some (wordOfBytes ((k.bytes.drop (pc - k.base)).take 12)) else none

def branchTo (pc : Nat) (c : BitVec 20) : Nat := ((pc : Int) + c.toInt * 12).toNat

/-- Always taken: the guard field is 0, and A names p0 (or, left out, stands for it) with flag 0. -/
def always (w : InstrWord) : Bool :=
  let a := w.extractLsb' 44 22
  w.extractLsb' 72 5 == 0 && (a == 0 || a == 0x20000)

/-- Where the walk goes on from a word, whatever its other fields hold. -/
def follows (pc : Nat) (w : InstrWord) : List Nat :=
  let c := w.extractLsb' 0 22
  let next := if kindOf c = 1 then [branchTo pc (immOf c)] else []
  match (w.extractLsb' 88 8).toNat with
  | 0x21 => next ++ (if always w then [] else [pc + 12])
  | 0x22 => next ++ [pc + 12]
  | 0x23 => if always w then [] else [pc + 12]
  | 0x25 => next ++ [pc + 12]
  | 0x2B => []
  | 0x2C => if kindOf c = 1 ∧ immOf c = 4 then [] else [pc + 12]
  | 0x2D => []
  | 0x61 => []
  | _ => [pc + 12]

/-- The walk of R471 from a list of places, by fuel: does it meet a word that needs a feature bit the mask lacks? -/
def walkCode (k : Code) : Nat → List Nat → List Nat → Bool
  | 0, _, _ => false
  | _ + 1, [], _ => false
  | n + 1, pc :: todo, seen =>
    if seen.contains pc then walkCode k n todo seen
    else
      match codeWord k pc with
      | none => walkCode k n todo (pc :: seen)
      | some w =>
        match decode { DecodeCtx.full with mask := k.mask } w with
        | .instr _ => walkCode k n (follows pc w ++ todo) (pc :: seen)
        | .trap c _ =>
          if c = 0x15 then true
          else if c = 0x01 then walkCode k n todo (pc :: seen)
          else walkCode k n (follows pc w ++ todo) (pc :: seen)

/-- The kernels' code: type-2 sections at their load addresses, pool images at their offsets. -/
def codes (im : List Byte) (ss : List Section) : List Code :=
  ss.zipIdx.filterMap (fun e =>
    if e.1.type = 2 then some { base := e.1.load, bytes := imgBytes im e.1.off e.1.size, mask := kernelMask im ss e.2,
                                kernel := e.2, image := none }
    else if e.1.type = 8 then some { base := imgNum im (e.1.off + 4) 4, bytes := imgBytes im (e.1.off + 16) (imgNum im e.1.off 4),
                                     mask := kernelMask im ss (poolOwner im e.1), kernel := poolOwner im e.1, image := some e.1.load }
    else none)

/-- A stage with an entry and a pool image enters a stretch of code: its own pool image, or the text of that image's
kernel, or any text when it names no image. -/
def enters (ks : List Code) (k : Code) (st : Nat × Nat) : Bool :=
  (codeWord k st.1).isSome && (match k.image with
    | some a => st.2 == a
    | none => st.2 == 0 || ks.any (fun j => j.image == some st.2 && j.kernel == k.kernel))

/-- Status 3: from the entries of the stage charters. -/
def badFeatures (im : List Byte) (ss : List Section) (stages : List (Nat × Nat)) : Bool :=
  let ks := codes im ss
  ks.any (fun k => walkCode k (4 * k.bytes.length + stages.length + 4) ((stages.filter (enters ks k)).map Prod.fst) [])

/-! ### Relocations (R57) -/

/-- The load address of a section plus an offset (R56). -/
def symbolAt (ss : List Section) (sec : Nat) (off : Int) : Int := ((ss[sec]?.map Section.load).getD 0 : Nat) + off

/-- The resolved value of a record. -/
def relValue (ss : List Section) (r : Reloc) : Int :=
  let x := symbolAt ss r.sec r.off
  match r.fn with
  | .plain => x
  | .lo40 => sextI (x % (2 ^ 40 : Nat)).toNat 40
  | .hi24 => (x + (2 ^ 39 : Nat)) / (2 ^ 40 : Nat) % (2 ^ 24 : Nat)
  | .bits h l => x / (2 ^ l : Nat) % (2 ^ (h - l + 1) : Nat)
  | .pcrel sec off => x - symbolAt ss sec off

def relWidth (r : Reloc) : Nat := r.pieces.foldl (fun a p => a + p.2) 0

/-- Status 5. -/
def badReloc (ss : List Section) (r : Reloc) : Bool :=
  let v := relValue ss r
  let q := v / (r.scale : Int)
  let w := relWidth r
  decide (r.scale = 0) || decide (v % (r.scale : Int) ≠ 0) ||
    (if r.isSigned then decide (q < -(2 ^ (w - 1) : Nat)) || decide (((2 ^ (w - 1) : Nat) : Int) ≤ q)
     else decide (q < 0) || decide (((2 ^ w : Nat) : Int) ≤ q))

/-- Put the low bits of a value into the pieces of a field. -/
def putPieces (file : Nat) : List (Nat × Nat) → Nat → List Byte → List Byte
  | [], _, im => im
  | (b, w) :: ps, v, im =>
    let n := (b + w + 7) / 8
    let x := setFld (imgNum im file n) b w (v % 2 ^ w)
    putPieces file ps (v / 2 ^ w) (im.take file ++ toBytes n x ++ im.drop (file + n))

/-- The field takes the value. -/
def applyReloc (ss : List Section) (im : List Byte) (r : Reloc) : List Byte :=
  putPieces r.file r.pieces ((relValue ss r / (r.scale : Int)) % ((2 ^ relWidth r : Nat) : Int)).toNat im

/-! ### Loading (R41) -/

/-- The writer id of the loader: system core 0 (log 11). -/
def loaderId : Nat := 16384

/-- Write text into the instruction address space (R167), a line at a time, by fuel; none where it does not translate. -/
def writeText (sp : Nat) : Nat → State → Nat → List Byte → Option State
  | 0, s, _, _ => some s
  | f + 1, s, va, bs =>
    if bs.isEmpty then some s
    else
      let w := walkSpace s sp true .port .fill va
      if w.1.status ≠ 0 then none
      else writeText sp f (outsideWrite s loaderId ((tlbOf sp true w.1 w.2 .fill).trans va) (bs.take (chunkOf va bs.length)))
        (va + chunkOf va bs.length) (bs.drop (chunkOf va bs.length))

/-- Load one section: kernel text into the instruction address space, the rest into the space's data. The loader's writes
have performed before the image is used. -/
def loadSection (sp : Nat) (im : List Byte) (s : State) (e : Section) : Option State :=
  let bs := imgBytes im e.off e.size
  let settle (s : State) : State := settleWriters (fun w => w == loaderId) (packetCount s) s
  if e.load = 0 then some s
  else if e.type = 2 then (writeText sp (bs.length / 64 + 2) s e.load bs).map settle
  else
    match writeSpace s loaderId sp e.load bs with
    | (0, s1) => some (settle s1)
    | (_, _) => none

/-- The charters that an image names, checked against their load addresses: does one break R22, R25, R31, R35 or R39
(status 6)? -/
def badCharters (s : State) (sp : Nat) (roots : List Nat) : Bool :=
  roots.any (fun r =>
    match (do
      let (_, p) ← parseNode sp 8 { s := s, seen := [], nodes := [], next := 0, load := true } r none true (rootEff s sp (2 ^ 64 - 1))
      p.nodes.forM (fun e => if e.2.kind = 2 then checkPipe p.nodes e.2 else .ok ())
      let _ ← (treeRings p.nodes).foldlM (fun st a => do
        let (_, s1) ← readRing st sp s.disp.nextLaunch a
        Except.ok s1) p.s
      Except.ok () : Chk Unit) with
    | .ok _ => false
    | .error _ => true)

/-- The entries and pool images of the stage charters under an address, as they stand, by levels: whether or not the
charters pass their checks. -/
def stagesUnder (s : State) (sp : Nat) : Nat → Nat → List (Nat × Nat)
  | 0, _ => []
  | f + 1, a =>
    match readSpace s loaderId sp a 256 with
    | ((0, bs), _) =>
      let r := ofBytes bs
      let kids (n : Nat) : List (Nat × Nat) := match readSpace s loaderId sp (fld r 1024 64) (8 * n) with
        | ((0, cs), _) => (List.range n).flatMap (fun i => stagesUnder s sp f (arrayWord (ofBytes cs) i))
        | (_, _) => []
      match fld r 0 8 with
      | 1 => kids (fld r 1088 9)
      | 2 => kids (fld r 1088 5)
      | 3 => [(fld r 1024 64, fld r 1472 64)]
      | _ => []
    | (_, _) => []

/-- Load an image: its status and the state; a refused image leaves nothing loaded, and of several statuses the least is
given. A section whose place does not translate is not loaded, under a status that the spec does not give (log 119). The
device carries no compatibility mode for any erratum (log 79). -/
def loadUlx (s : State) (sp : Nat) (im0 : List Byte) (records : List Reloc) (roots : List Nat) : Nat × State :=
  match sections im0 with
  | none => (if badHeader im0 [] then 1 else 2, s)
  | some tab =>
    let ss := tab.map Prod.fst
    if badHeader im0 tab then (1, s)
    else if badCounts im0 ss then (2, s)
    else
      let relocs := if (ofType ss 7).isEmpty then [] else records
      let im := relocs.foldl (applyReloc ss) im0
      match ss.foldlM (loadSection sp im) s with
      | none => s.drawFree
      | some s1 =>
        if badFeatures im ss (roots.flatMap (stagesUnder s1 sp 8)) then (3, s)
        else if (ofType ss 6).any (fun e => decide (e.size ≠ 0)) then (4, s)
        else if relocs.any (badReloc ss) then (5, s)
        else if badCharters s1 sp roots then (6, s)
        else (0, s1)

/-- The outcome is recorded. -/
def execImageLoad (space : Nat) (image : List Byte) (relocs : List Reloc) (charters : List Nat) (s : State) :
    Host.Outcome State Fault Refusal :=
  let r := loadUlx s space image relocs charters
  .next (r.2.modTrust (fun t => { t with loaded := t.loaded ++ [(space, r.1)] }))

end Sys2Proof.Machine
end

