-- ==== Sys2Proof/Machine/Units.lean ====
section
/-! DEFINITION. What the pipe and the choice of threads know of each instruction: its effect, the registers that it
names, the rung of its siding, and how it changes the fetch (R175-R181, 09 Table 1). -/

namespace Sys2Proof.Machine

/-! ### What each instruction names, and its rung (R175, R177, 09 Table 1) -/

def gN (i : Nat) : RName := { cls := 0, idx := i }
def pN (i : Nat) : RName := { cls := 2, idx := i }
def bN (i : Nat) : RName := { cls := 3, idx := i }

/-- How an instruction changes the fetch: not, to a relative target, or to a computed one (R189). -/
inductive Fetching where
  | none
  | rel (c : BitVec 20)
  | jump
  deriving DecidableEq, Repr

/-- An instruction as the pipe sees it: header, effect, register sources and destinations, the rung of its siding, an
external effect (R185), serialising (R181), and what it does to the fetch. -/
structure PUnit where
  hdr : Hdr
  eff : State → Eff
  srcs : List RName
  dests : List RName
  rung : Nat
  ext : Bool
  serial : Bool
  kind : Fetching

def uGSrc : GSrc → List RName
  | .reg r => [gN r.val]
  | .imm _ => []

def uBSrc : BSrc → List RName
  | .reg r => [bN r.val]
  | .imm _ => []

def uPSrc : PSrc → List RName
  | .p r => [pN r.val]
  | .g r => [gN r.val]
  | .imm _ => []

def uVSrc : VSrc → List RName
  | .g r => [gN r.val]
  | .v _ => []
  | .imm _ => []

def uVTy : VTy → List RName
  | .x r => [bN r.val]
  | .int _ => [] | .f32 => [] | .bf16 => [] | .q _ _ => [] | .i4 => []

def uBmov : BmovOp → List RName × List RName
  | .bFromG d s => ([gN s.val], [bN d.val])
  | .bFromB d s => ([bN s.val], [bN d.val])
  | .bFromI d _ => ([], [bN d.val])
  | .gFromB d s => ([bN s.val], [gN d.val])

def uGrade : GradeOp → List RName × List RName
  | .gFromV d _ => ([], [gN d.val])
  | .bFromV d _ => ([], [bN d.val])
  | .vFromG _ s => ([gN s.val], [])

def uBcast : BcastOp → List RName
  | .fromG s => [gN s.val]
  | .fromV _ k => uGSrc k

/-- The instructions of the part; an event is none of them. -/
def pipeUnit : Instr → Option PUnit
  | .add h t sa a b c => some { hdr := h, eff := (effAdd t sa a b c), srcs := [gN b.val] ++ (uGSrc c), dests := [gN a.val], rung := 2, ext := false, serial := h.yields, kind := .none }
  | .sub h t sa a b c => some { hdr := h, eff := (effSub t sa a b c), srcs := [gN b.val] ++ (uGSrc c), dests := [gN a.val], rung := 2, ext := false, serial := h.yields, kind := .none }
  | .mul h t sa a b c => some { hdr := h, eff := (effMul t sa a b c), srcs := [gN b.val] ++ (uGSrc c), dests := [gN a.val], rung := 4, ext := false, serial := h.yields, kind := .none }
  | .mulh h t u a b c => some { hdr := h, eff := (effMulh t u a b c), srcs := [gN b.val] ++ (uGSrc c), dests := [gN a.val], rung := 4, ext := false, serial := h.yields, kind := .none }
  | .mad h t sa a b c => some { hdr := h, eff := (effMad t sa a b c), srcs := [gN a.val] ++ [gN b.val] ++ (uGSrc c), dests := [gN a.val], rung := 4, ext := false, serial := h.yields, kind := .none }
  | .div h t u a b c => some { hdr := h, eff := (effDiv t u a b c), srcs := [gN b.val] ++ (uGSrc c), dests := [gN a.val], rung := 4, ext := false, serial := h.yields, kind := .none }
  | .rem h t u a b c => some { hdr := h, eff := (effRem t u a b c), srcs := [gN b.val] ++ (uGSrc c), dests := [gN a.val], rung := 4, ext := false, serial := h.yields, kind := .none }
  | .and h t a b c => some { hdr := h, eff := (effAnd t a b c), srcs := [gN b.val] ++ (uGSrc c), dests := [gN a.val], rung := 2, ext := false, serial := h.yields, kind := .none }
  | .or h t a b c => some { hdr := h, eff := (effOr t a b c), srcs := [gN b.val] ++ (uGSrc c), dests := [gN a.val], rung := 2, ext := false, serial := h.yields, kind := .none }
  | .xor h t a b c => some { hdr := h, eff := (effXor t a b c), srcs := [gN b.val] ++ (uGSrc c), dests := [gN a.val], rung := 2, ext := false, serial := h.yields, kind := .none }
  | .andn h t a b c => some { hdr := h, eff := (effAndn t a b c), srcs := [gN b.val] ++ (uGSrc c), dests := [gN a.val], rung := 2, ext := false, serial := h.yields, kind := .none }
  | .shl h t sa a b c => some { hdr := h, eff := (effShl t sa a b c), srcs := [gN b.val] ++ (uGSrc c), dests := [gN a.val], rung := 2, ext := false, serial := h.yields, kind := .none }
  | .shr h t u a b c => some { hdr := h, eff := (effShr t u a b c), srcs := [gN b.val] ++ (uGSrc c), dests := [gN a.val], rung := 2, ext := false, serial := h.yields, kind := .none }
  | .rot h t a b c => some { hdr := h, eff := (effRot t a b c), srcs := [gN b.val] ++ (uGSrc c), dests := [gN a.val], rung := 2, ext := false, serial := h.yields, kind := .none }
  | .min h t u a b c => some { hdr := h, eff := (effMin t u a b c), srcs := [gN b.val] ++ (uGSrc c), dests := [gN a.val], rung := 2, ext := false, serial := h.yields, kind := .none }
  | .max h t u a b c => some { hdr := h, eff := (effMax t u a b c), srcs := [gN b.val] ++ (uGSrc c), dests := [gN a.val], rung := 2, ext := false, serial := h.yields, kind := .none }
  | .abs h t sa a b => some { hdr := h, eff := (effAbs t sa a b), srcs := [gN b.val], dests := [gN a.val], rung := 2, ext := false, serial := h.yields, kind := .none }
  | .clz h t a b => some { hdr := h, eff := (effClz t a b), srcs := [gN b.val], dests := [gN a.val], rung := 2, ext := false, serial := h.yields, kind := .none }
  | .ctz h t a b => some { hdr := h, eff := (effCtz t a b), srcs := [gN b.val], dests := [gN a.val], rung := 2, ext := false, serial := h.yields, kind := .none }
  | .pop h t a b => some { hdr := h, eff := (effPop t a b), srcs := [gN b.val], dests := [gN a.val], rung := 2, ext := false, serial := h.yields, kind := .none }
  | .bext h u a b c => some { hdr := h, eff := (effBext u a b c), srcs := [gN b.val] ++ (uGSrc c), dests := [gN a.val], rung := 2, ext := false, serial := h.yields, kind := .none }
  | .bins h a b c => some { hdr := h, eff := (effBins a b c), srcs := [gN a.val] ++ [gN b.val] ++ (uGSrc c), dests := [gN a.val], rung := 2, ext := false, serial := h.yields, kind := .none }
  | .extI h t u a b => some { hdr := h, eff := (effExtI t u a b), srcs := [gN b.val], dests := [gN a.val], rung := 2, ext := false, serial := h.yields, kind := .none }
  | .mov h a b => some { hdr := h, eff := (effMov a b), srcs := (uGSrc b), dests := [gN a.val], rung := 2, ext := false, serial := h.yields, kind := .none }
  | .li h a w => some { hdr := h, eff := (effLi a w), srcs := [], dests := [gN a.val], rung := 2, ext := false, serial := h.yields, kind := .none }
  | .lih h a w => some { hdr := h, eff := (effLih a w), srcs := [gN a.val], dests := [gN a.val], rung := 2, ext := false, serial := h.yields, kind := .none }
  | .lpc h a c => some { hdr := h, eff := (effLpc a c), srcs := [], dests := [gN a.val], rung := 2, ext := false, serial := h.yields, kind := .none }
  | .sel h n u a b c => some { hdr := h, eff := (effSel n u a b c), srcs := [pN n.val] ++ [gN b.val] ++ (uGSrc c), dests := [gN a.val], rung := 2, ext := false, serial := h.yields, kind := .none }
  | .cmp h t n u a b c => some { hdr := h, eff := (effCmp t n u a b c), srcs := [gN b.val] ++ (uGSrc c), dests := [pN a.val], rung := 3, ext := false, serial := h.yields, kind := .none }
  | .plog h n a b c => some { hdr := h, eff := (effPlog n a b c), srcs := [pN b.val] ++ [pN c.val], dests := [pN a.val], rung := 3, ext := false, serial := h.yields, kind := .none }
  | .pmov h u a b => some { hdr := h, eff := (effPmov u a b), srcs := (uPSrc b), dests := [pN a.val], rung := 3, ext := false, serial := h.yields, kind := .none }
  | .pget h a b => some { hdr := h, eff := (effPget a b), srcs := [pN b.val], dests := [gN a.val], rung := 3, ext := false, serial := h.yields, kind := .none }
  | .br h u a c => some { hdr := h, eff := (effBr u a c), srcs := (a.elim [] (fun r => [pN r.val])), dests := [], rung := 3, ext := false, serial := h.yields, kind := .rel c }
  | .brl h u a c => some { hdr := h, eff := (effBrl u a c), srcs := (a.elim [] (fun r => [pN r.val])), dests := [gN 63], rung := 3, ext := false, serial := h.yields, kind := .rel c }
  | .jr h u a b c => some { hdr := h, eff := (effJr u a b c), srcs := (a.elim [] (fun r => [pN r.val])) ++ [gN b.val] ++ (uGSrc c), dests := [], rung := 3, ext := false, serial := h.yields, kind := .jump }
  | .jrl h u a b c => some { hdr := h, eff := (effJrl u a b c), srcs := (a.elim [] (fun r => [pN r.val])) ++ [gN b.val] ++ (uGSrc c), dests := [gN 63], rung := 3, ext := false, serial := h.yields, kind := .jump }
  | .dbr h a c => some { hdr := h, eff := (effDbr a c), srcs := [gN a.val], dests := [gN a.val], rung := 3, ext := false, serial := h.yields, kind := .rel c }
  | .ctlRd h a b => some { hdr := h, eff := (effCtlRd a b), srcs := [], dests := [gN a.val], rung := 6, ext := true, serial := h.yields, kind := .none }
  | .ctlWr h a b => some { hdr := h, eff := (effCtlWr a b), srcs := (uGSrc b), dests := [], rung := 6, ext := true, serial := true, kind := .none }
  | .ctlSet h a b => some { hdr := h, eff := (effCtlSet a b), srcs := (uGSrc b), dests := [], rung := 6, ext := true, serial := true, kind := .none }
  | .ctlClr h a b => some { hdr := h, eff := (effCtlClr a b), srcs := (uGSrc b), dests := [], rung := 6, ext := true, serial := true, kind := .none }
  | .trap h c => some { hdr := h, eff := (effTrap c), srcs := [], dests := [], rung := 7, ext := false, serial := true, kind := .none }
  | .eret h => some { hdr := h, eff := effEret, srcs := [], dests := [], rung := 7, ext := true, serial := true, kind := .none }
  | .sysc h c => some { hdr := h, eff := (effSysc c), srcs := [], dests := [], rung := 7, ext := false, serial := true, kind := .none }
  | .halt h => some { hdr := h, eff := effHalt, srcs := [], dests := [], rung := 7, ext := true, serial := true, kind := .none }
  | .nop h => some { hdr := h, eff := effNop, srcs := [], dests := [], rung := 7, ext := false, serial := h.yields, kind := .none }
  | .yieldI h => some { hdr := { h with yields := true }, eff := effYieldI, srcs := [], dests := [], rung := 7, ext := false, serial := true, kind := .none }
  | .ifence h => some { hdr := h, eff := effIfence, srcs := [], dests := [], rung := 6, ext := true, serial := true, kind := .none }
  | .ifenceFill h a b c => some { hdr := h, eff := (effIfenceFill a b c), srcs := [gN a.val] ++ [gN b.val] ++ (uGSrc c), dests := [], rung := 6, ext := true, serial := true, kind := .none }
  | .gangShed h => some { hdr := h, eff := effGangShed, srcs := [], dests := [], rung := 6, ext := true, serial := true, kind := .none }
  | .gangJoin h => some { hdr := h, eff := effGangJoin, srcs := [], dests := [], rung := 6, ext := true, serial := true, kind := .none }
  | .demand h a b => some { hdr := h, eff := (effDemand a b), srcs := (uGSrc a) ++ (uBSrc b), dests := [], rung := 6, ext := true, serial := h.yields, kind := .none }
  | .settle h => some { hdr := h, eff := effSettle, srcs := [], dests := [], rung := 6, ext := true, serial := h.yields, kind := .none }
  | .bshare h a b c => some { hdr := h, eff := (effBshare a b c), srcs := [bN b.val], dests := [bN a.val], rung := 6, ext := false, serial := h.yields, kind := .none }
  | .bmov h m => some { hdr := h, eff := (effBmov m), srcs := (uBmov m).1, dests := (uBmov m).2, rung := 6, ext := false, serial := h.yields, kind := .none }
  | .grade h m => some { hdr := h, eff := (effGrade h m), srcs := (uGrade m).1, dests := (uGrade m).2, rung := 6, ext := true, serial := h.yields, kind := .none }
  | .sensLd h a b => some { hdr := h, eff := (effSensLd a b), srcs := (uGSrc a) ++ [gN b.base.val], dests := [], rung := 6, ext := true, serial := h.yields, kind := .none }
  | .sensLdReset h a => some { hdr := h, eff := (effSensLdReset a), srcs := (uGSrc a), dests := [], rung := 6, ext := true, serial := h.yields, kind := .none }
  | .ld h t u a b => some { hdr := h, eff := (effLd t u a b), srcs := [gN b.base.val], dests := [gN a.val], rung := 5, ext := false, serial := h.yields, kind := .none }
  | .st h t a b => some { hdr := h, eff := (effSt t a b), srcs := [gN a.base.val] ++ (uGSrc b), dests := [], rung := 5, ext := true, serial := h.yields, kind := .none }
  | .ldAcq h t n u a b => some { hdr := h, eff := (effLdAcq t n u a b), srcs := [gN b.base.val], dests := [gN a.val], rung := 5, ext := true, serial := h.yields, kind := .none }
  | .stRel h t n a b => some { hdr := h, eff := (effStRel t n a b), srcs := [gN a.base.val] ++ (uGSrc b), dests := [], rung := 5, ext := true, serial := h.yields, kind := .none }
  | .ldWf h t n u a b => some { hdr := h, eff := (effLdWf t n u a b), srcs := [gN b.base.val], dests := [gN a.val], rung := 5, ext := true, serial := h.yields, kind := .none }
  | .stWe h t a b => some { hdr := h, eff := (effStWe t a b), srcs := [gN a.base.val] ++ (uGSrc b), dests := [], rung := 5, ext := true, serial := h.yields, kind := .none }
  | .tagRd h a b => some { hdr := h, eff := (effTagRd a b), srcs := [gN b.base.val], dests := [gN a.val], rung := 5, ext := false, serial := h.yields, kind := .none }
  | .tagFull h a b => some { hdr := h, eff := (effTagFull a b), srcs := [gN a.base.val] ++ (uGSrc b), dests := [], rung := 5, ext := true, serial := h.yields, kind := .none }
  | .tagEmpty h a b => some { hdr := h, eff := (effTagEmpty a b), srcs := [gN a.base.val] ++ (uGSrc b), dests := [], rung := 5, ext := true, serial := h.yields, kind := .none }
  | .pref h a => some { hdr := h, eff := (effPref a), srcs := [gN a.base.val], dests := [], rung := 5, ext := false, serial := h.yields, kind := .none }
  | .cfl h a => some { hdr := h, eff := (effCfl a), srcs := [gN a.base.val], dests := [], rung := 5, ext := true, serial := h.yields, kind := .none }
  | .cflEvict h a => some { hdr := h, eff := (effCflEvict a), srcs := [gN a.base.val], dests := [], rung := 5, ext := true, serial := h.yields, kind := .none }
  | .cinv h a => some { hdr := h, eff := (effCinv a), srcs := [gN a.base.val], dests := [], rung := 5, ext := true, serial := h.yields, kind := .none }
  | .cinvAll h => some { hdr := h, eff := effCinvAll, srcs := [], dests := [], rung := 5, ext := true, serial := h.yields, kind := .none }
  | .fence h n => some { hdr := h, eff := (effFence n), srcs := [], dests := [], rung := 5, ext := true, serial := h.yields, kind := .none }
  | .fenceAcq h n => some { hdr := h, eff := (effFenceAcq n), srcs := [], dests := [], rung := 5, ext := true, serial := h.yields, kind := .none }
  | .fenceRel h n => some { hdr := h, eff := (effFenceRel n), srcs := [], dests := [], rung := 5, ext := true, serial := h.yields, kind := .none }
  | .region h => some { hdr := h, eff := effRegion, srcs := [], dests := [], rung := 5, ext := true, serial := h.yields, kind := .none }
  | .regionForce h => some { hdr := h, eff := effRegionForce, srcs := [], dests := [], rung := 5, ext := true, serial := h.yields, kind := .none }
  | .regionDrop h => some { hdr := h, eff := effRegionDrop, srcs := [], dests := [], rung := 5, ext := true, serial := h.yields, kind := .none }
  | .ldPair h t u a b c => some { hdr := h, eff := (effLdPair t u a b c), srcs := [gN c.base.val], dests := [gN a.val] ++ [gN b.val], rung := 5, ext := false, serial := h.yields, kind := .none }
  | .stPair h t a b c => some { hdr := h, eff := (effStPair t a b c), srcs := [gN a.base.val] ++ [gN b.val] ++ [gN c.val], dests := [], rung := 5, ext := true, serial := h.yields, kind := .none }
  | .launch h a b => some { hdr := h, eff := (effLaunch a b), srcs := [gN b.base.val], dests := [gN a.val], rung := 6, ext := true, serial := h.yields, kind := .none }
  | .doneI h => some { hdr := h, eff := effDoneI, srcs := [], dests := [], rung := 6, ext := true, serial := h.yields, kind := .none }
  | .nexttile h a => some { hdr := h, eff := (effNexttile a), srcs := (uGSrc a), dests := [], rung := 6, ext := true, serial := h.yields, kind := .none }
  | .ringClaim h u a b => some { hdr := h, eff := (effRingClaim u a b), srcs := [], dests := [gN a.val], rung := 6, ext := true, serial := h.yields, kind := .none }
  | .ringPost h a b => some { hdr := h, eff := (effRingPost a b), srcs := [gN b.val], dests := [gN a.val], rung := 6, ext := true, serial := h.yields, kind := .none }
  | .ringTake h u a b => some { hdr := h, eff := (effRingTake u a b), srcs := [], dests := [gN a.val], rung := 6, ext := true, serial := h.yields, kind := .none }
  | .ringFree h a b => some { hdr := h, eff := (effRingFree a b), srcs := [gN b.val], dests := [gN a.val], rung := 6, ext := true, serial := h.yields, kind := .none }
  | .ringStat h a b => some { hdr := h, eff := (effRingStat a b), srcs := [], dests := [gN a.val], rung := 6, ext := false, serial := h.yields, kind := .none }
  | .copy h a b => some { hdr := h, eff := (effCopy a b), srcs := [gN b.base.val], dests := [gN a.val], rung := 6, ext := true, serial := h.yields, kind := .none }
  | .copyDeal h a b c => some { hdr := h, eff := (effCopyDeal a b c), srcs := [gN b.base.val] ++ (uGSrc c), dests := [gN a.val], rung := 6, ext := true, serial := h.yields, kind := .none }
  | .shutQ h a b => some { hdr := h, eff := (effShutQ a b), srcs := [gN b.val], dests := [gN a.val], rung := 6, ext := false, serial := h.yields, kind := .none }
  | .shutQDrop h a b => some { hdr := h, eff := (effShutQDrop a b), srcs := [gN b.val], dests := [gN a.val], rung := 6, ext := true, serial := h.yields, kind := .none }
  | .copyResume h a b c => some { hdr := h, eff := (effCopyResume a b c), srcs := [gN b.base.val] ++ [gN c.val], dests := [gN a.val], rung := 6, ext := true, serial := h.yields, kind := .none }
  | .mx h a b => some { hdr := h, eff := (effMx a b), srcs := [gN b.base.val], dests := [gN a.val], rung := 6, ext := true, serial := h.yields, kind := .none }
  | .accZero h a b c => some { hdr := h, eff := (effAccZero a b c), srcs := (uGSrc b) ++ (uGSrc c), dests := [gN a.val], rung := 6, ext := true, serial := h.yields, kind := .none }
  | .cnPut h a b c => some { hdr := h, eff := (effCnPut a b c), srcs := [gN b.base.val] ++ [gN c.val], dests := [gN a.val], rung := 6, ext := true, serial := h.yields, kind := .none }
  | .cnGet h a b => some { hdr := h, eff := (effCnGet a b), srcs := [gN b.base.val], dests := [gN a.val], rung := 6, ext := true, serial := h.yields, kind := .none }
  | .cnGetRef h a b => some { hdr := h, eff := (effCnGetRef a b), srcs := [gN b.base.val], dests := [gN a.val], rung := 6, ext := true, serial := h.yields, kind := .none }
  | .cnRef h a b => some { hdr := h, eff := (effCnRef a b), srcs := [gN b.base.val], dests := [gN a.val], rung := 6, ext := true, serial := h.yields, kind := .none }
  | .cnUnref h a b => some { hdr := h, eff := (effCnUnref a b), srcs := [gN b.base.val], dests := [gN a.val], rung := 6, ext := true, serial := h.yields, kind := .none }
  | .cnNode h a b c => some { hdr := h, eff := (effCnNode a b c), srcs := [gN b.base.val] ++ [gN c.val], dests := [gN a.val], rung := 6, ext := true, serial := h.yields, kind := .none }
  | .cnSwap h a b c => some { hdr := h, eff := (effCnSwap a b c), srcs := [gN b.base.val] ++ [gN c.val], dests := [gN a.val], rung := 6, ext := true, serial := h.yields, kind := .none }
  | .cnRoot h a b c => some { hdr := h, eff := (effCnRoot a b c), srcs := [gN b.base.val] ++ [gN c.val], dests := [gN a.val], rung := 6, ext := true, serial := h.yields, kind := .none }
  | .cnRootRef h a b c => some { hdr := h, eff := (effCnRootRef a b c), srcs := [gN b.base.val] ++ [gN c.val], dests := [gN a.val], rung := 6, ext := true, serial := h.yields, kind := .none }
  | .cnOut h a b c => some { hdr := h, eff := (effCnOut a b c), srcs := [gN b.base.val] ++ [gN c.val], dests := [gN a.val], rung := 6, ext := true, serial := h.yields, kind := .none }
  | .cnCfg h a b => some { hdr := h, eff := (effCnCfg a b), srcs := [gN b.base.val], dests := [gN a.val], rung := 6, ext := true, serial := h.yields, kind := .none }
  | .cnCfgStat h a b => some { hdr := h, eff := (effCnCfgStat a b), srcs := [], dests := [gN a.val], rung := 6, ext := false, serial := h.yields, kind := .none }
  | .amo h t n r u a b c => some { hdr := h, eff := (effAmo t n r u a b c), srcs := [gN b.base.val] ++ (uGSrc c), dests := [gN a.val], rung := 6, ext := true, serial := h.yields, kind := .none }
  | .amoCas h t a b c => some { hdr := h, eff := (effAmoCas t a b c), srcs := [gN a.val] ++ [gN b.base.val] ++ [gN c.val], dests := [gN a.val], rung := 6, ext := true, serial := h.yields, kind := .none }
  | .red h t n r u a b c => some { hdr := h, eff := (effRed t n r u a b c), srcs := [gN a.base.val] ++ (uGSrc b) ++ [gN c.val], dests := [], rung := 6, ext := true, serial := h.yields, kind := .none }
  | .bupd h n u a b => some { hdr := h, eff := (effBupd n u a b), srcs := [gN a.base.val] ++ (uGSrc b), dests := [], rung := 6, ext := true, serial := h.yields, kind := .none }
  | .bupdR h n u a b c => some { hdr := h, eff := (effBupdR n u a b c), srcs := [gN b.base.val] ++ (uGSrc c), dests := [gN a.val], rung := 6, ext := true, serial := h.yields, kind := .none }
  | .bcfg h a b c => some { hdr := h, eff := (effBcfg a b c), srcs := [gN b.val], dests := [], rung := 6, ext := true, serial := h.yields, kind := .none }
  | .vbupd h n u a b c => some { hdr := h, eff := (effVbupd h n u a b c), srcs := [gN a.base.val], dests := [], rung := 6, ext := true, serial := h.yields, kind := .none }
  | .barInit h a b => some { hdr := h, eff := (effBarInit a b), srcs := [gN a.base.val] ++ (uGSrc b), dests := [], rung := 6, ext := true, serial := h.yields, kind := .none }
  | .barArr h a b c => some { hdr := h, eff := (effBarArr a b c), srcs := [gN b.base.val] ++ (uGSrc c), dests := [gN a.val], rung := 6, ext := true, serial := h.yields, kind := .none }
  | .barWait h a b => some { hdr := h, eff := (effBarWait a b), srcs := [gN a.base.val] ++ (uGSrc b), dests := [], rung := 6, ext := true, serial := h.yields, kind := .none }
  | .barTest h a b => some { hdr := h, eff := (effBarTest a b), srcs := [gN b.base.val], dests := [gN a.val], rung := 6, ext := false, serial := h.yields, kind := .none }
  | .tbar h a c => some { hdr := h, eff := (effTbar a c), srcs := (uGSrc a) ++ (uGSrc c), dests := [], rung := 6, ext := true, serial := h.yields, kind := .none }
  | .nred h t n r u a b c => some { hdr := h, eff := (effNred t n r u a b c), srcs := (uGSrc a) ++ [gN b.val] ++ (uGSrc c), dests := [], rung := 6, ext := true, serial := h.yields, kind := .none }
  | .wait h a b c => some { hdr := h, eff := (effWait a b c), srcs := [gN b.base.val] ++ [gN c.val], dests := [gN a.val], rung := 6, ext := true, serial := h.yields, kind := .none }
  | .pause h a => some { hdr := { h with yields := true }, eff := effPause, srcs := (uGSrc a), dests := [], rung := 6, ext := true, serial := true, kind := .none }
  | .msgSend h a b c => some { hdr := h, eff := (effMsgSend a b c), srcs := [gN a.val] ++ [gN b.val] ++ (uGSrc c), dests := [], rung := 6, ext := true, serial := h.yields, kind := .none }
  | .hatchPut h b => some { hdr := h, eff := (effHatchPut b), srcs := (uGSrc b), dests := [], rung := 6, ext := true, serial := h.yields, kind := .none }
  | .hatchGet h a => some { hdr := h, eff := (effHatchGet a), srcs := [], dests := [gN a.val], rung := 6, ext := true, serial := h.yields, kind := .none }
  | .hatchFree h a => some { hdr := h, eff := (effHatchFree a), srcs := [], dests := [gN a.val], rung := 6, ext := false, serial := h.yields, kind := .none }
  | .jobPoll h a b c => some { hdr := h, eff := (effJobPoll a b c), srcs := (uGSrc b), dests := [gN a.val], rung := 6, ext := false, serial := h.yields, kind := .none }
  | .jobPollAcq h a b c => some { hdr := h, eff := (effJobPollAcq a b c), srcs := (uGSrc b), dests := [gN a.val], rung := 6, ext := true, serial := h.yields, kind := .none }
  | .jobCancel h a b c => some { hdr := h, eff := (effJobCancel a b c), srcs := (uGSrc b), dests := [gN a.val], rung := 6, ext := true, serial := h.yields, kind := .none }
  | .vld h a b c => some { hdr := h, eff := (effVld h a b c), srcs := [gN b.base.val] ++ (uGSrc c), dests := [], rung := 6, ext := true, serial := h.yields, kind := .none }
  | .vst h a b => some { hdr := h, eff := (effVst h a b), srcs := [gN a.base.val], dests := [], rung := 6, ext := true, serial := h.yields, kind := .none }
  | .vadd h t r sa a b c => some { hdr := h, eff := (effVadd h t r sa a b c), srcs := (uVTy t) ++ (uVSrc c), dests := [], rung := 6, ext := true, serial := h.yields, kind := .none }
  | .vsub h t r sa a b c => some { hdr := h, eff := (effVsub h t r sa a b c), srcs := (uVTy t) ++ (uVSrc c), dests := [], rung := 6, ext := true, serial := h.yields, kind := .none }
  | .vmul h t r sa a b c => some { hdr := h, eff := (effVmul h t r sa a b c), srcs := (uVTy t) ++ (uVSrc c), dests := [], rung := 6, ext := true, serial := h.yields, kind := .none }
  | .vfma h t r sa a b c => some { hdr := h, eff := (effVfma h t r sa a b c), srcs := (uVTy t) ++ (uVSrc (vgSrc c)), dests := [], rung := 6, ext := true, serial := h.yields, kind := .none }
  | .vfms h t r sa a b c => some { hdr := h, eff := (effVfms h t r sa a b c), srcs := (uVTy t) ++ (uVSrc (vgSrc c)), dests := [], rung := 6, ext := true, serial := h.yields, kind := .none }
  | .vnfma h t r sa a b c => some { hdr := h, eff := (effVnfma h t r sa a b c), srcs := (uVTy t) ++ (uVSrc (vgSrc c)), dests := [], rung := 6, ext := true, serial := h.yields, kind := .none }
  | .vmin h t u a b c => some { hdr := h, eff := (effVmin h t u a b c), srcs := (uVTy t) ++ (uVSrc c), dests := [], rung := 6, ext := true, serial := h.yields, kind := .none }
  | .vmax h t u a b c => some { hdr := h, eff := (effVmax h t u a b c), srcs := (uVTy t) ++ (uVSrc c), dests := [], rung := 6, ext := true, serial := h.yields, kind := .none }
  | .vabs h t sa a b => some { hdr := h, eff := (effVabs h t sa a b), srcs := (uVTy t), dests := [], rung := 6, ext := true, serial := h.yields, kind := .none }
  | .vneg h t sa a b => some { hdr := h, eff := (effVneg h t sa a b), srcs := (uVTy t), dests := [], rung := 6, ext := true, serial := h.yields, kind := .none }
  | .vcvt h t r sa a b c => some { hdr := h, eff := (effVcvt h t r sa a b c), srcs := (uVTy t) ++ (uVTy c), dests := [], rung := 6, ext := true, serial := h.yields, kind := .none }
  | .vsum h t r sa a b => some { hdr := h, eff := (effVsum h t r sa a b), srcs := (uVTy t), dests := [], rung := 6, ext := true, serial := h.yields, kind := .none }
  | .vdot h t r sa a b c => some { hdr := h, eff := (effVdot h t r sa a b c), srcs := (uVTy t) ++ (uVSrc (vgSrc c)), dests := [], rung := 6, ext := true, serial := h.yields, kind := .none }
  | .vcmp h t n u a b c => some { hdr := h, eff := (effVcmp h t n u a b c), srcs := (uVSrc c), dests := [], rung := 6, ext := true, serial := h.yields, kind := .none }
  | .vsel h t a b c => some { hdr := h, eff := (effVsel h t a b c), srcs := (uVSrc (vgSrc c)), dests := [], rung := 6, ext := true, serial := h.yields, kind := .none }
  | .vand h a b c => some { hdr := h, eff := (effVand h a b c), srcs := (uVSrc (vgSrc c)), dests := [], rung := 6, ext := true, serial := h.yields, kind := .none }
  | .vor h a b c => some { hdr := h, eff := (effVor h a b c), srcs := (uVSrc (vgSrc c)), dests := [], rung := 6, ext := true, serial := h.yields, kind := .none }
  | .vxor h a b c => some { hdr := h, eff := (effVxor h a b c), srcs := (uVSrc (vgSrc c)), dests := [], rung := 6, ext := true, serial := h.yields, kind := .none }
  | .vshl h t sa a b c => some { hdr := h, eff := (effVshl h t sa a b c), srcs := (uVSrc c), dests := [], rung := 6, ext := true, serial := h.yields, kind := .none }
  | .vshr h t u a b c => some { hdr := h, eff := (effVshr h t u a b c), srcs := (uVSrc c), dests := [], rung := 6, ext := true, serial := h.yields, kind := .none }
  | .vbcast h t a m => some { hdr := h, eff := (effVbcast h t a m), srcs := (uVTy t) ++ (uBcast m), dests := [], rung := 6, ext := true, serial := h.yields, kind := .none }
  | .vext h t u a b c => some { hdr := h, eff := (effVext h t u a b c), srcs := (uVTy t) ++ (uGSrc c), dests := [gN a.val], rung := 6, ext := true, serial := h.yields, kind := .none }
  | .vins h t a b c => some { hdr := h, eff := (effVins h t a b c), srcs := (uVTy t) ++ [gN b.val] ++ (uGSrc c), dests := [], rung := 6, ext := true, serial := h.yields, kind := .none }
  | .vpack h t r sa a b c => some { hdr := h, eff := (effVpack h t r sa a b c), srcs := (uVTy t), dests := [], rung := 6, ext := true, serial := h.yields, kind := .none }
  | .vunpack h t a b c hi => some { hdr := h, eff := (effVunpack h t a b c hi), srcs := (uVTy t) ++ (uVTy c), dests := [], rung := 6, ext := true, serial := h.yields, kind := .none }
  | .vperm h t a b c => some { hdr := h, eff := (effVperm h t a b c), srcs := [], dests := [], rung := 6, ext := true, serial := h.yields, kind := .none }
  | .vmr h t r sa a b c => some { hdr := h, eff := (effVmr h t r sa a b c), srcs := (uVTy t), dests := [], rung := 6, ext := true, serial := h.yields, kind := .none }
  | .vlog h t r sa a b => some { hdr := h, eff := (effVlog h t r sa a b), srcs := (uVTy t), dests := [], rung := 6, ext := true, serial := h.yields, kind := .none }
  | .valog h t r sa a b => some { hdr := h, eff := (effValog h t r sa a b), srcs := (uVTy t), dests := [], rung := 6, ext := true, serial := h.yields, kind := .none }
  | .vexp2 h t r sa a b => some { hdr := h, eff := (effVexp2 h t r sa a b), srcs := (uVTy t), dests := [], rung := 6, ext := true, serial := h.yields, kind := .none }
  | .vlog2 h t r sa a b => some { hdr := h, eff := (effVlog2 h t r sa a b), srcs := (uVTy t), dests := [], rung := 6, ext := true, serial := h.yields, kind := .none }
  | .vrcp h t r sa a b => some { hdr := h, eff := (effVrcp h t r sa a b), srcs := (uVTy t), dests := [], rung := 6, ext := true, serial := h.yields, kind := .none }
  | .vsqrt h t r sa a b => some { hdr := h, eff := (effVsqrt h t r sa a b), srcs := (uVTy t), dests := [], rung := 6, ext := true, serial := h.yields, kind := .none }
  | .vrsqrt h t r sa a b => some { hdr := h, eff := (effVrsqrt h t r sa a b), srcs := (uVTy t), dests := [], rung := 6, ext := true, serial := h.yields, kind := .none }
  | .vpow h t r sa a b c => some { hdr := h, eff := (effVpow h t r sa a b c), srcs := (uVTy t) ++ (uVSrc (vgSrc c)), dests := [], rung := 6, ext := true, serial := h.yields, kind := .none }
  | .vsigm h t r sa a b => some { hdr := h, eff := (effVsigm h t r sa a b), srcs := (uVTy t), dests := [], rung := 6, ext := true, serial := h.yields, kind := .none }
  | .vtanh h t r sa a b => some { hdr := h, eff := (effVtanh h t r sa a b), srcs := (uVTy t), dests := [], rung := 6, ext := true, serial := h.yields, kind := .none }
  | .scfg h a b => some { hdr := h, eff := (effScfg h a b), srcs := [gN b.base.val], dests := [], rung := 6, ext := true, serial := h.yields, kind := .none }
  | .sbind h a => some { hdr := h, eff := (effSbind h a), srcs := [], dests := [], rung := 6, ext := true, serial := h.yields, kind := .none }
  | .sfree h a => some { hdr := h, eff := (effSfree h a), srcs := [], dests := [], rung := 6, ext := true, serial := h.yields, kind := .none }
  | .vrpt h a b => some { hdr := h, eff := (effVrpt h a b), srcs := (uGSrc a), dests := [], rung := 6, ext := true, serial := h.yields, kind := .none }
  | .vsync h => some { hdr := h, eff := effVsync, srcs := [], dests := [], rung := 6, ext := true, serial := h.yields, kind := .none }
  | .ctxSave h a b => some { hdr := h, eff := (effCtxSave a b), srcs := [gN b.base.val], dests := [gN a.val], rung := 6, ext := true, serial := h.yields, kind := .none }
  | .ctxLoad h a => some { hdr := h, eff := (effCtxLoad a), srcs := [gN a.base.val], dests := [], rung := 6, ext := true, serial := h.yields, kind := .none }
  | .ctxDrop h a => some { hdr := h, eff := (effCtxDrop a), srcs := [], dests := [gN a.val], rung := 6, ext := true, serial := h.yields, kind := .none }
  | _ => none

end Sys2Proof.Machine
end

