-- ==== Sys2Proof/Machine/Ready.lean ====
section
/-! DEFINITION. When a slot may run, which slot a core admits, and how a gang member comes back into lockstep
(R169, R170, R192-R195, R410). -/

namespace Sys2Proof.Machine

/-! ### Parked instructions (R192) -/

/-- Would the instruction at the pc of a parked slot go on if it were tried again now? One that would park again is not
tried: its event has not come (09 Table 4). -/
def wouldGo (s : State) (c k : Nat) : Bool :=
  match fetchDecode s c k with
  | .inr _ => true
  | .inl (.trap _ _) => true
  | .inl (.instr i) =>
    match pipeUnit i with
    | none => true
    | some u =>
      let s1 : State := { s with cur := (c, k) }
      if guardHolds s1 u.hdr then
        match u.eff s1 with
        | .park _ _ => false
        | .ok _ => true
        | .once _ _ => true
        | .jump _ _ => true
        | .trap _ _ => true
        | .wait _ => true
      else true

/-- The event of a park has come (09 Table 4). The resident stub tries its own service again. -/
def parkOver (s : State) (c k : Nat) (r : Park) : Bool :=
  let t := s.thread c k
  match r with
  | .access => match t.answer with
    | some e => e.ready
    | none => true
  | .acquire => match t.answer with
    | some e => e.ready
    | none => true
  | .tag _ _ => false
  | .tlb _ _ => false
  | .launch => match t.launchRes with
    | some (_, x) => x.isSome
    | none => true
  | .release => match t.rel with
    | some x => releaseDone s c k x || (scopeWide x.scope && !x.sent && t.wq.isEmpty)
    | none => true
  | .walk id => (AMap.get s.mem.walks id).isNone
  | .retry n => decide (n ≤ s.time.cycle)
  | .writeQueue => !wqFull (s.core c)
  | .tiles => decide (t.tilesOut.length < 4)
  | .gangHold => true
  | .cond => t.inStub || wouldGo s c k
  | .transom => t.inStub || wouldGo s c k
  | .jobQueue => t.inStub || wouldGo s c k
  | .ring => t.inStub || wouldGo s c k
  | .barrier _ _ _ => t.inStub || wouldGo s c k
  | .tree => t.inStub || wouldGo s c k
  | .save => t.inStub || wouldGo s c k
  | .gangJoin => t.inStub || wouldGo s c k
  | .doneWait => t.inStub || wouldGo s c k
  | .shutter => t.inStub || wouldGo s c k

/-! ### Lockstep (R169, R170) -/

/-- Forwarded words of a slot that have entered its pipe and not retired. -/
def inFlight (s : State) (c k : Nat) : Nat :=
  ((AMap.vals (s.pipe c).ins).filter (fun i => i.slot == k && i.forwarded)).length

/-- Forwarded words that wait in a slot's queue. -/
def queued (s : State) (c k : Nat) : Nat := (s.thread c k).fwd.length - inFlight s c k

/-- Instructions of a slot in its core's pipe. -/
def packetsOf (s : State) (c k : Nat) : Nat := ((AMap.vals (s.pipe c).ins).filter (fun i => i.slot == k)).length

/-- Lockstep members wait: a follower for a forwarded word, a leader while a follower's queue has no room for what the
leader has fetched, or while a member is held out of lockstep (R169, R170). -/
def gangReady (s : State) (c k : Nat) : Bool :=
  let t := s.thread c k
  if t.follower then decide (0 < queued s c k)
  else if t.lockstep then
    t.hold.isNone && (gangMembers s t.place.gang).all (fun m =>
      !(s.thread m.1 m.2).follower || decide (queued s m.1 m.2 + packetsOf s c k < 16))
  else true

/-- A gang that no member is held out of goes on in lockstep; a member at the hold point is back in it (R170). -/
def rejoin (s : State) (c k : Nat) : State :=
  let t := s.thread c k
  if t.solo ∧ t.priv = false then
    let l := leaderOf s t (c, k)
    match (s.thread l.1 l.2).hold with
    | some h =>
      if t.pc = h then
        let s1 := s.modThread c k (fun t => { t with solo := false })
        if (gangMembers s1 t.place.gang).any (fun m => (s1.thread m.1 m.2).solo) then s1
        else s1.modThread l.1 l.2 (fun t => { t with hold := none })
      else s
    | none => s.modThread c k (fun t => { t with solo := false })
  else
    if t.hold.isSome ∧ !((gangMembers s t.place.gang).any (fun m => (s.thread m.1 m.2).solo)) then
      s.modThread c k (fun t => { t with hold := none })
    else s

/-! ### Readiness and the choice of a slot (R192-R195) -/

/-- May the slot be admitted to the pipe, or go on in it? An enabled interrupt makes a parked or paused slot ready
(R432); one that is to be pre-empted fetches nothing more (R434). -/
def canRun (s : State) (c k : Nat) : Bool :=
  let t := s.thread c k
  if 0 < packetsOf s c k then true
  else if t.pend.preempt.isSome && !effectUnderWay t then false
  else
  match t.status with
  | .unplaced => false
  | .ready => gangReady s c k || (pendingIrq t).isSome
  | .parked r => (parkOver s c k r && gangReady s c k) || ((pendingIrq t).isSome && !effectUnderWay t)
  | .paused n => (decide (n ≤ s.time.cycle) && gangReady s c k) || (pendingIrq t).isSome
  | .sleeping n => decide (n ≤ s.time.tick)
  | .debugHold => false

/-- The slots of a core in the order of R195: by effective deadline, ties by number. -/
def slotOrder (s : State) (c : Nat) : List Nat :=
  sortBy (fun k => (s.thread c k).place.deadline.toNat * 4 + k) [0, 1, 2, 3]

/-- The list turned so that it begins after `x`. -/
def after (x : Nat) (l : List Nat) : List Nat :=
  (l.dropWhile (fun k => k != x)).tail ++ (l.takeWhile (fun k => k != x)) ++ (if l.contains x then [x] else [])

/-- The slot that holds or is admitted to the pipe of a core (R194, R195). -/
def chooseSlot (s : State) (c : Nat) : Option Nat :=
  let x := s.core c
  match x.inPipe with
  | some k =>
    if canRun s c k && (decide (x.heldCycles < 65536) || ([0, 1, 2, 3].all (fun j => j == k || !canRun s c j))) then some k
    else (after x.lastAdm (slotOrder s c)).find? (fun k => canRun s c k)
  | none => (after x.lastAdm (slotOrder s c)).find? (fun k => canRun s c k)

/-- The thread that acts next: on the first core that the state names, else on the next core in turn (log 4). -/
def acting (s : State) : Option (Nat × Nat) :=
  let try' (c : Nat) : Option (Nat × Nat) := (chooseSlot s c).map (fun k => (c, k))
  match s.sched with
  | c :: _ => try' c
  | [] =>
    let cs := AMap.keys s.cores
    (cs.filter (fun c => decide (s.cur.1 < c)) ++ cs.filter (fun c => decide (c ≤ s.cur.1))).findSome? try'

/-- Make (c, k) the acting thread: a slot that was not in the pipe is admitted (R195). -/
def seat (s : State) (c k : Nat) : State :=
  let x := s.core c
  let held := if x.inPipe = some k then x.heldCycles + 1 else 0
  let s1 := { s with cur := (c, k), sched := s.sched.tail }.setCore c
    { x with inPipe := some k, lastAdm := k, heldCycles := held }
  s1.modThread c k (fun t => { t with ctl := { t.ctl with cycles := t.ctl.cycles + 1 } })

/-- R194: the pipe is switched out when another slot is ready. While the core's pipe works in cycles, its crown does
this when the next instruction retires. -/
def execPipeTimeSlice (core : Nat) (s : State) : Host.Outcome State Fault Refusal :=
  let x := s.core core
  onUnit (isCore core) (match x.inPipe with
    | some k =>
      if !x.pipe.active && decide (65536 ≤ x.heldCycles) && (List.range 4).any (fun j => j != k && canRun s core j) then
        s.setCore core { x with inPipe := none }
      else s
    | none => s)

end Sys2Proof.Machine
end

