-- ==== Sys2Proof/Machine/Pipe.lean ====
section
/-! DEFINITION. The counterflow pipe, cycle by cycle (R175-R196, R228): packets, entry, garnering and hiding, sidings,
the foot buffer, the crown. The pipe changes no value (R186), so the event PIPE_CYCLE and a step of one instruction
lead to the same registers and memory (log 10). -/

namespace Sys2Proof.Machine

/-! ### Packets -/

def IPacket.marked (i : IPacket) : Bool := i.cause.isSome || i.park.isSome

/-- The guard is known false: the instruction is void, or places its old values (R179, R180). -/
def IPacket.off (i : IPacket) : Bool := i.guard == some false

/-- Every source that the instruction needs is held (R185). -/
def IPacket.ready (i : IPacket) : Bool :=
  match i.guard with
  | none => false
  | some true => i.srcs.all (fun s => s.val.isSome)
  | some false => i.old.all (fun s => s.val.isSome)

/-- The producer is in the pipe no longer: it has retired, since the results of a killed one are killed with it. -/
def retiredBy (x : Pipe) (q : Nat) : Bool := !(AMap.vals x.ins).any (fun i => i.seq == q)

/-! ### Killing and draining (R190) -/

/-- Cycles until the results that are left have been written to the store (by fuel): those on rung n reach the buffer in
n + 1 cycles, and two filled entries are written in a cycle. -/
def drainTime : Nat → List Nat → Nat → Nat
  | 0, _, _ => 0
  | f + 1, rungs, filled =>
    if rungs.isEmpty && filled == 0 then 0
    else
      let arrived := (rungs.filter (fun n => n == 0)).length
      drainTime f ((rungs.filter (fun n => n != 0)).map (fun n => n - 1)) (filled + arrived - 2) + 1

/-- Everything in the pipe is killed but the results of retired instructions, which go to the store; how long that
takes. -/
def killAll (s : State) (c : Nat) : Nat × State :=
  let x := s.pipe c
  let xs := liveResults x (retiredBy x)
  let d := drainTime 32 ((x.res.filter (fun e => retiredBy x e.2.seq)).map Prod.fst)
    ((x.foot.filter (fun e => e.val.isSome && retiredBy x e.seq)).length)
  (d, (writeResults s c xs).modPipe c (fun y => { y with ins := [], res := [], foot := [], fetchStop := false }))

/-- The slot leaves the pipe; two empty cycles follow its drain (R194). -/
def switchOut (s : State) (c : Nat) : State :=
  let k := killAll s c
  (k.2.modPipe c (fun y => { y with fetchAt := s.time.cycle + k.1 + 2 })).modCore c (fun x => { x with inPipe := none })

/-- The thread of the pipe has ended or been replaced: nothing of it is left there. -/
def abandon (s : State) (c : Nat) : State :=
  switchOut (s.modPipe c (fun y => { y with ins := [], res := [], foot := [] })) c

def putPacket (s : State) (c n : Nat) (i : IPacket) : State := s.modPipe c (fun y => { y with ins := AMap.set y.ins n i })

/-! ### What an effect sees and leaves (R186) -/

/-- The thread of a packet as the packet sees it: its pc, and for a follower the words from its own on. -/
def atPacket (s : State) (c : Nat) (i : IPacket) : State :=
  let ahead := ((AMap.vals (s.pipe c).ins).filter (fun j => j.slot == i.slot && j.forwarded && olderSeq j.seq i.seq)).length
  { s with cur := (c, i.slot) }.modThread c i.slot (fun t =>
    { t with pc := i.pc, fwd := if i.forwarded then t.fwd.drop ahead else t.fwd })

/-- Put back what the pipe keeps for a packet: the register store, the pc, and the forwarded words unless the thread has
shed or joined. -/
def settled (old : Thread) (s : State) (c k : Nat) : State :=
  s.modThread c k (fun t => { t with
    g := old.g, p := old.p, b := old.b, pc := old.pc
    fwd := if t.place.shed = old.place.shed then old.fwd else t.fwd })

/-! ### Reads and flags take effect in order (R185, R199, R265) -/

/-- The lines that a load read join the read set, after the splits that they need. -/
def commitReads : AMap ReadLine → State → Eff
  | [], s => .ok s
  | (hl, r) :: l, s => recordRead s hl r.va r.pa r.rv r.mask (commitReads l)

/-- What keeps a completed packet from taking its effect on the read set. -/
inductive Commit where
  | done' (s : State)
  | marked (s : State) (cause : Option (Nat × Word × Word)) (r : Option Park)
  | wait
  deriving DecidableEq, Repr

/-- A completed packet's reads and flags take effect: from now on an interrupt waits for it. -/
def commitPacket (s : State) (c : Nat) (i : IPacket) : Commit :=
  let old := s.thread c i.slot
  let out (s' : State) : State := settled old s' c i.slot
  match commitReads i.reads (atPacket s c i) with
  | .ok s' => .done' ((out s').modThread c i.slot (fun t => { t with ctl := { t.ctl with fflags := t.ctl.fflags ||| i.flags } }))
  | .once s' _ => .done' (out s')
  | .jump s' _ => .done' (out s')
  | .trap s' t => .marked (out s') (some (t.cause, t.addr, t.info)) none
  | .park s' r => .marked (out s') none (some r)
  | .wait _ => .wait

/-- A packet whose reads and flags have taken effect. -/
def IPacket.committed (i : IPacket) : IPacket :=
  if i.reads.isEmpty && i.flags == 0 then i else { i with reads := [], flags := 0, effect := true }

/-- The older packets of an instruction with an external effect take theirs first, in order; the first that cannot is
marked or waits, and the instruction does not start. -/
def commitOlder (c q : Nat) : List Nat → State → Bool × State
  | [], s => (true, s)
  | n :: ns, s =>
    match AMap.get (s.pipe c).ins n with
    | none => commitOlder c q ns s
    | some i =>
      if !olderSeq i.seq q || (i.reads.isEmpty && i.flags == 0) then commitOlder c q ns s
      else
        match commitPacket s c i with
        | .done' s1 => commitOlder c q ns (putPacket s1 c n i.committed)
        | .marked s1 cause r => (false, putPacket s1 c n { i with cause := cause, park := r, stopped := false })
        | .wait => (false, s)

/-! ### Step 1: the crown (R187, R190-R194) -/

/-- Another slot is ready. -/
def otherReady (s : State) (c k : Nat) : Bool := [0, 1, 2, 3].any (fun j => j != k && canRun s c j)

/-- Take a trap or an interrupt in place of the oldest instruction; the handler's first word waits for the drain. -/
def crownTake (s : State) (c : Nat) (f : State → State) : State :=
  let k := killAll s c
  let s1 := f k.2
  let t := match (s1.core c).inPipe with
    | some q => s1.thread c q
    | none => Thread.reset
  s1.modPipe c (fun y => { y with fetchPc := t.pc, fetchAt := s.time.cycle + k.1 })

/-- The trap of a marked packet; a leader's word has been forwarded if it was fetched (R170). -/
def crownMark (s : State) (c : Nat) (i : IPacket) (x : Nat × Word × Word) : State :=
  let s0 := if i.instr.isSome then forwardOnce s c i.slot i.word else s
  crownTake s0 c (fun s => takeTrap s c i.slot { cause := x.1, addr := x.2.1, info := x.2.2 } i.instr.isSome)

/-- The park of a marked packet. -/
def crownPark (s : State) (c : Nat) (i : IPacket) (r : Park) : State :=
  switchOut ((forwardOnce s c i.slot i.word).modThread c i.slot (fun t => { t with status := .parked r })) c

/-- The instruction on rung 7 retires. -/
def retirePacket (s : State) (c : Nat) (i : IPacket) (u : Option PUnit) : State :=
  let s1 := retireThread (s.modPipe c (fun y => { y with ins := AMap.del y.ins 7, retired := some i.seq })) c { i with flags := 0 }
  let yields := match u with
    | some v => v.hdr.yields && !i.off
    | none => false
  let long := 65536 ≤ (s.core c).heldCycles && otherReady s c i.slot
  let s2 := match u with
    | some v => if v.serial then s1.modPipe c (fun y => { y with fetchPc := i.next }) else s1
    | none => s1
  if yields || long then
    let s3 := switchOut s2 c
    match i.instr, i.srcs with
    | some (.pause _ (.reg _)), x :: _ => if i.off then s3 else pauseMe (min (x.val.getD 0).toNat 65535) s3
    | some (.pause _ (.imm v)), _ => if i.off then s3 else pauseMe (min (immW v).toNat 65535) s3
    | _, _ => s3
  else s2

/-- The instruction on rung 7: marked, completed, or still at work. Its reads and flags take effect as it retires, or a
trap of its split is taken in its place (R265). -/
def crownPacket (s : State) (c : Nat) (i : IPacket) : State :=
  match i.cause, i.park with
  | some x, _ => crownMark s c i x
  | none, some r => crownPark s c i r
  | none, none =>
    if i.completed then
      match commitPacket s c i with
      | .done' s1 => retirePacket s1 c i (i.instr.bind pipeUnit)
      | .marked s1 (some x) _ => crownMark s1 c i x
      | .marked s1 none (some r) => crownPark s1 c i r
      | .marked s1 none none => s1
      | .wait => s
    else s

/-- An interrupt or the trap of a meter is taken while no instruction in the pipe has performed an external effect
(R193; log 109). -/
def crown (s : State) (c : Nat) : State :=
  match (s.core c).inPipe with
  | none => s
  | some k =>
    let t := s.thread c k
    let free := (AMap.vals (s.pipe c).ins).all (fun i => !i.effect)
    match (if free then pendingIrq t else none), (if free then crownTrap t else none) with
    | some e, _ => crownTake s c (fun s => takeIrq s c k e)
    | none, some e => crownTake s c (fun s => takeCrown s c k e)
    | none, none =>
      match AMap.get (s.pipe c).ins 7 with
      | none => s
      | some i => crownPacket s c i

/-! ### Steps 2 to 4 (R182) -/

/-- The result on rung 0 enters its reserved entry; one that a retired instruction hides is killed as it enters, and its
reservation is freed (R228). -/
def footFill (x : Pipe) : Pipe :=
  match AMap.get x.res 0 with
  | none => x
  | some r =>
    let mine (e : FootEntry) : Bool := e.slot == r.slot && e.seq == r.seq && e.dest == r.dest
    let dead := match r.hider with
      | some h => retiredBy x h
      | none => false
    { x with
      res := AMap.del x.res 0
      foot := if dead then x.foot.filter (fun e => !mine e)
        else x.foot.map (fun e => if mine e then { e with val := some r.val, hider := r.hider } else e) }

/-- Results move down one rung; rung 0 is empty, so the whole column does. -/
def resultsDown (x : Pipe) : Pipe := { x with res := x.res.map (fun e => (e.1 - 1, e.2)) }

/-- The instruction waits at its siding (R185). -/
def held (n : Nat) (i : IPacket) : Bool :=
  match i.instr.bind pipeUnit with
  | some u => u.rung == n && !i.completed && !i.marked
  | none => false

/-- One instruction climbs from rung n unless something holds it; `down` lists the rungs from which a result came. -/
def climbOne (down : List Nat) (x : Pipe) (n : Nat) : Pipe :=
  match AMap.get x.ins n with
  | none => x
  | some i =>
    if (AMap.get x.ins (n + 1)).isSome || down.contains (n + 1) || held n i || i.stopped then x
    else { x with ins := AMap.set (AMap.del x.ins n) (n + 1) i }

def climb (down : List Nat) (x : Pipe) : Pipe := [6, 5, 4, 3, 2, 1, 0].foldl (climbOne down) x

/-! ### Step 5: entry (R169, R170, R178-R181, R195) -/

/-- The value of a register at entry: none when a writer is pending (R179). -/
def footRead (x : Pipe) (t : Thread) (slot : Nat) (n : RName) : Option Word :=
  if n.idx = 0 then some (t.rdName n)
  else
    let es := sortBy (fun e => seqAge x e.seq) (x.foot.filter (fun e => e.slot == slot && e.dest == n))
    match es with
    | e :: _ => e.val
    | [] => some (t.rdName n)

def sourceOf (x : Pipe) (t : Thread) (slot : Nat) (n : RName) : PSource := { name := n, val := footRead x t slot n }

/-- Destinations in name order; a g0, p0 or b0 is none (R177). -/
def realDests (ds : List RName) : List RName := sortBy (fun n => n.cls * 64 + n.idx) (ds.filter (fun n => n.idx != 0))

/-- A serialising instruction stands between entry and retirement, or a marked one waits. -/
def entryBlocked (x : Pipe) : Bool :=
  (AMap.vals x.ins).any (fun i => match i.instr.bind pipeUnit with
    | some u => u.serial
    | none => true)

/-- Room for one more sequence number (R178). -/
def seqRoomy (x : Pipe) : Bool :=
  (AMap.vals x.ins).all (fun i => decide (seqAge x i.seq < 64)) && x.foot.all (fun e => decide (seqAge x e.seq < 64))

/-- The packet of a word that a check marks at the foot (R190). -/
def markedPacket (x : Pipe) (t : Thread) (k : Nat) (w : InstrWord) (e : TrapInfo) (i : Option Instr) : IPacket :=
  { slot := k, seq := x.nextSeq, pc := t.pc, word := w, instr := i, guard := some true, srcs := [], old := [], dests := [],
    results := [], cause := some (e.cause, e.addr, e.info), park := none, busy := 0, executed := false, stopped := false,
    completed := false, effect := false, next := t.pc, reads := [], flags := 0, once := none, forwarded := t.follower }

/-- The packet of an instruction. A follower's branch under a false guard is not void: its outcome is held against its
leader's (R171). -/
def freshPacket (x : Pipe) (t : Thread) (k : Nat) (w : InstrWord) (i : Instr) (u : PUnit) : IPacket :=
  let g : Option Bool := (footRead x t k (pN u.hdr.pred.val)).map (fun v => (v != 0) != u.hdr.inv)
  let void := g == some false
  let ds := if void then [] else realDests u.dests
  { slot := k, seq := x.nextSeq, pc := t.pc, word := w, instr := some i, guard := g
    srcs := if void then [] else u.srcs.map (sourceOf x t k)
    old := if g.isNone then ds.map (sourceOf x t k) else []
    dests := ds, results := [], cause := none, park := none, busy := 0, executed := false, stopped := false
    completed := void && !(t.follower && decide (u.kind ≠ .none)), effect := false, next := t.pc + 12, reads := []
    flags := 0, once := none, forwarded := t.follower }

/-- Where fetch goes after an instruction (R189): the next pc, and whether nothing follows until it resolves. A follower's
words are the ones that its leader has passed on. -/
def fetchAfter (pc : Word) (u : PUnit) (follower : Bool) : Word × Bool :=
  if follower then (pc + 12, false)
  else match u.kind with
    | .none => (pc + 12, false)
    | .rel c => (if u.hdr.taken then pc + immW c * 12 else pc + 12, false)
    | .jump => (pc + 12, true)

/-- Put a packet on rung 0. -/
def enterPacket (s : State) (c : Nat) (i : IPacket) : State :=
  s.modPipe c (fun y => { y with
    ins := AMap.set y.ins 0 i, nextSeq := (y.nextSeq + 1) % 256
    foot := y.foot ++ i.dests.map (fun n => { slot := i.slot, seq := i.seq, dest := n, val := none, hider := none }) })

/-- The next word of the thread in the pipe enters rung 0: at the fetch pc, or the follower's next forwarded word. -/
def enterWord (s : State) (c k : Nat) : State :=
  let x := s.pipe c
  let t0 := s.thread c k
  let t : Thread := if t0.follower then
      (match t0.fwd.drop (inFlight s c k) with
       | e :: es => { t0 with pc := e.pc, fwd := e :: es }
       | [] => { t0 with fwd := [] })
    else { t0 with pc := x.fetchPc }
  let s1 := s.setThread c k t
  let w := fetchWord s1 c k
  let stopped (s : State) : State := s.modPipe c (fun y => { y with fetchStop := true })
  if t.follower && t.fwd.isEmpty then s
  else match fetchDecode s1 c k with
  | .inr e => stopped (enterPacket s c (markedPacket x t k w e none))
  | .inl (.trap cause info) =>
    stopped (enterPacket s c (markedPacket x t k w { cause := cause, addr := 0, info := BitVec.ofNat 64 info } (some (.nop
      { pred := 0, inv := false, taken := false, yields := false, lastb := false, lastc := false }))))
  | .inl (.instr i) =>
    match pipeUnit i with
    | none => s
    | some u =>
      let q := freshPacket x t k w i u
      if 6 < x.foot.length + q.dests.length then s
      else
        let next := if q.off then (t.pc + 12, false) else fetchAfter t.pc u t.follower
        (enterPacket s c q).modPipe c (fun y => { y with
          fetchPc := next.1, fetchStop := next.2
          fetchAt := if next.1 = t.pc + 12 then y.fetchAt else s.time.cycle + 2 })

/-- Admit the next ready slot to an empty pipe. -/
def admitSlot (s : State) (c : Nat) : State :=
  match (after (s.core c).lastAdm (slotOrder s c)).find? (fun k => canRun s c k) with
  | none => s
  | some k =>
    let s1 := s.modCore c (fun x => { x with inPipe := some k, lastAdm := k, heldCycles := 0 })
    let s2 := s1.modThread c k (fun t => { t with status := .ready })
    s2.modPipe c (fun y => { y with fetchPc := (s2.thread c k).pc, fetchStop := false })

/-- A member out of lockstep has fetched up to the hold point: the words before it retire first (R170). -/
def atHold (s : State) (c k : Nat) : Bool :=
  let t := s.thread c k
  let l := leaderOf s t (c, k)
  t.solo && !t.priv && (s.thread l.1 l.2).hold == some (s.pipe c).fetchPc

/-- The slot in the pipe enters its next word, or what stands in its place. -/
def enterNext (s : State) (c k : Nat) : State :=
  let x := s.pipe c
  let t := s.thread c k
  if t.pend.preempt.isSome && !effectUnderWay t then s
  else if t.inStub then
    if x.ins.isEmpty then
      let s1 := stubService { s with cur := (c, k) } c k
      s1.modPipe c (fun y => { y with fetchPc := (s1.thread c k).pc })
    else s
  else if !gangReady s c k then
    if x.ins.isEmpty && (pendingIrq t).isNone then
      switchOut (s.modThread c k (fun t => { t with status := .parked .gangHold })) c
    else s
  else if atHold s c k then s
  else enterWord s c k

def entry (s0 : State) (c : Nat) : State :=
  let now := s0.time.cycle
  let idle := (s0.core c).inPipe.isNone && (s0.pipe c).ins.isEmpty && decide ((s0.pipe c).fetchAt ≤ now)
  let s1 := if idle then admitSlot s0 c else s0
  match (s1.core c).inPipe with
  | none => s1
  | some k =>
    let s := if (s1.pipe c).ins.isEmpty then rejoin s1 c k else s1
    let x := s.pipe c
    if (AMap.get x.ins 0).isSome || x.fetchStop || decide (now < x.fetchAt) || entryBlocked x || !seqRoomy x then s
    else enterNext s c k

/-! ### Step 6: meeting (R183, R184) -/

def garner (r : RPacket) (ss : List PSource) : List PSource :=
  ss.map (fun s => if s.val.isNone ∧ s.name = r.dest then { s with val := some r.val } else s)

/-- A result is hidden from an instruction younger than its hider. -/
def hiddenFrom (r : RPacket) (i : IPacket) : Bool :=
  match r.hider with
  | some h => olderSeq h i.seq
  | none => false

/-- One instruction and one result meet. -/
def meet (i : IPacket) (r : RPacket) : IPacket × RPacket :=
  if i.slot ≠ r.slot ∨ !(olderSeq r.seq i.seq) then (i, r)
  else
    let u := i.instr.bind pipeUnit
    let take := !hiddenFrom r i
    let writer := i.dests.contains r.dest
    let guard := match i.guard, u with
      | none, some v => if take && r.dest == pN v.hdr.pred.val then some ((r.val != 0) != v.hdr.inv) else none
      | some x, _ => some x
      | none, none => none
    let i1 := { i with
      guard := guard
      srcs := if take then garner r i.srcs else i.srcs
      old := if take then garner r i.old else i.old }
    let i2 := { i1 with stopped := (i1.stopped || (writer && i.guard.isNone)) && guard.isNone }
    (i2, if writer && r.hider.isNone then { r with hider := some i.seq } else r)

def meetings (x : Pipe) : Pipe :=
  [0, 1, 2, 3, 4, 5, 6, 7].foldl (fun x n =>
    match AMap.get x.ins n, AMap.get x.res n with
    | some i, some r =>
      let q := meet i r
      { x with ins := AMap.set x.ins n q.1, res := AMap.set x.res n q.2 }
    | _, _ => x) x

/-! ### Steps 7 and 8: execution and placement (R185, R189, R190) -/

/-- The cycles of a siding but rung 5 (09 Table 1). -/
def latency (t : Thread) (i : Instr) : Nat :=
  match i with
  | .mul _ _ _ _ _ _ => 3
  | .mulh _ _ _ _ _ _ => 3
  | .mad _ _ _ _ _ _ => 3
  | .div _ ty un _ x y => divTime ty un (t.rdG x.val) (match y with
    | .reg r => t.rdG r.val
    | .imm v => immW v)
  | .rem _ ty un _ x y => divTime ty un (t.rdG x.val) (match y with
    | .reg r => t.rdG r.val
    | .imm v => immW v)
  | _ => 1
where
  divTime (ty : ITy) (un : Bool) (x y : Word) : Nat :=
    let q := bitLen (rdOp ty un x).natAbs
    if q = 0 ∨ rdOp ty un y = 0 then 6 else 6 + 7 * ((q + 15) / 16)

/-- The address, size and direction of a rung-5 access (13). -/
def memAccess (s : State) : Instr → Option (Word × Nat × Bool)
  | .ld _ t _ _ b => some (memAddr s b (iBytes t), iBytes t, false)
  | .st _ t a _ => some (memAddr s a (iBytes t), iBytes t, true)
  | .ldAcq _ t _ _ _ b => some (memAddr s b (iBytes t), iBytes t, false)
  | .stRel _ t _ a _ => some (memAddr s a (iBytes t), iBytes t, true)
  | .ldWf _ t _ _ _ b => some (memAddr s b (pBytes t), pBytes t, false)
  | .stWe _ t a _ => some (memAddr s a (pBytes t), pBytes t, true)
  | .tagRd _ _ b => some (memAddr s b 8, 64, false)
  | .tagFull _ a _ => some (memAddr s a 8, 64, true)
  | .tagEmpty _ a _ => some (memAddr s a 8, 64, true)
  | .ldPair _ t _ _ _ b => some (memAddr s b (pBytes t), 2 * pBytes t, false)
  | .stPair _ t a _ _ => some (memAddr s a (pBytes t), 2 * pBytes t, true)
  | _ => none

/-- The cycles of rung 5 (09 Table 1): 3 for the own pool, 4 when a bank is busy, 5 for a near-cache hit. An instruction
that accesses no data takes 1 (log 10). -/
def memLatency (s : State) (c : Nat) (i : Instr) : Nat :=
  match memAccess s i with
  | some (a, n, w) =>
    (match decodeAddr a with
     | .own o => if (s.core c).portBusy o n w then 4 else 3
     | .peer _ _ => 5
     | .view _ _ => 5
     | .badWindow _ => 5
     | .global => 5
     | .nonCanon => 5)
  | none => 1

/-- The state that an instruction sees: its pc and its held sources; one with an external effect starts when every older
one has completed, so their results stand too. Another one raises its flags and records its reads when it retires. -/
def overlayed (s : State) (c : Nat) (i : IPacket) (u : PUnit) : State :=
  let x := s.pipe c
  let s0 := if u.ext then writeResults s c (liveResults x (fun q => retiredBy x q || olderSeq q i.seq)) else s
  (atPacket s0 c i).modThread c i.slot (fun t =>
    let t1 := i.srcs.foldl (fun t x => match x.val with
      | some v => t.wrName x.name v
      | none => t) t
    if u.ext then t1 else { t1 with ctl := { t1.ctl with fflags := 0 }, rgn := { t1.rgn with reads := [] } })

/-- Put back the flags and the read set of an instruction that takes effect on them as it retires. -/
def deferred (u : PUnit) (old : Thread) (s : State) (c k : Nat) : State :=
  if u.ext then s
  else s.modThread c k (fun t =>
    { t with ctl := { t.ctl with fflags := old.ctl.fflags }, rgn := { t.rgn with reads := old.rgn.reads } })

/-- The thread of a packet has ended or been replaced. -/
def replaced (old new : Thread) : Bool :=
  decide (new.status = .unplaced) || new.place.gen != old.place.gen || new.place.gang != old.place.gang

/-- Every older instruction of the thread has completed and is not marked (R185). -/
def olderDone (x : Pipe) (i : IPacket) : Bool :=
  (AMap.vals x.ins).all (fun j => !olderSeq j.seq i.seq || (j.completed && !j.marked))

/-- A branch or jump has resolved: fetch goes on at its target (R189). -/
def resolved (s : State) (c : Nat) (i : IPacket) (u : PUnit) (next : Word) : State :=
  if u.kind = .none ∨ i.forwarded ∨ (next = (fetchAfter i.pc u false).1 ∧ u.kind ≠ .jump) then s
  else s.modPipe c (fun y => { killYounger i.seq y with fetchPc := next, fetchAt := s.time.cycle + 2 })

/-- Mark a packet with a trap or a park. -/
def mark (s : State) (c n : Nat) (i : IPacket) (cause : Option (Nat × Word × Word)) (r : Option Park) : State :=
  putPacket s c n { i with cause := cause, park := r, stopped := false }

/-- The results of an effect, or the old values of a false guard (R180). -/
def resultsOf (t : Thread) (i : IPacket) : List (RName × Word) :=
  if i.off then i.old.map (fun x => (x.name, x.val.getD 0)) else i.dests.map (fun d => (d, t.rdName d))

/-- An effect has ended: results, next pc, what retirement does with it, and what else it changed. Its answer entry is
spent (R261). -/
def effectDone (s s' : State) (c n : Nat) (i : IPacket) (u : PUnit) (next : Word) (once : Option Word) : State :=
  let old := s.thread c i.slot
  let new := s'.thread c i.slot
  if replaced old new then abandon s' c
  else match i.instr, i.off with
    | some (.ctxLoad _ _), false =>
      (s'.modPipe c (fun y => { y with ins := [], res := [], foot := [], fetchPc := next, fetchAt := s.time.cycle + 1, fetchStop := false })).modThread
        c i.slot (fun t => { t with pc := next })
    | _, _ =>
      let rs := resultsOf new i
      let i1 : IPacket := { i with
        executed := true, results := rs, completed := rs.isEmpty, effect := i.effect || (u.ext && !i.off), next := next, busy := 0
        reads := if u.ext then [] else new.rgn.reads
        flags := if u.ext then 0 else new.ctl.fflags
        once := once }
      let s1 := (deferred u old (settled old s' c i.slot) c i.slot).modThread c i.slot (fun t =>
        { t with answer := t.answer.filter (fun e => e.pc != i.pc) })
      resolved (putPacket s1 c n i1) c i u next

/-- What a packet does on its siding's rung: its effect, or under a false guard nothing but a follower's check of a branch
(R171, R180). -/
def packetEff (i : IPacket) (u : PUnit) (s : State) : Eff :=
  if i.off then (if u.kind = .none then .ok s else resolve s s (s.me.pc + 12)) else u.eff s

/-- One instruction that may start or go on executing on its siding's rung. -/
def operate (s0 : State) (c n : Nat) (i : IPacket) (u : PUnit) : State :=
  match (if u.ext && !i.off then commitOlder c i.seq [7, 6, 5, 4, 3, 2] s0 else (true, s0)) with
  | (false, s) => s
  | (true, s) =>
    let old := s.thread c i.slot
    let o := overlayed s c i u
    let out (s' : State) : State := deferred u old (settled old s' c i.slot) c i.slot
    let l := if i.off then 1
      else match i.instr with
        | some x => if u.rung = 5 then memLatency o c x else latency (o.thread c i.slot) x
        | none => 1
    let b := if i.busy = 0 then l else i.busy
    let go (s' : State) (pc : Word) (once : Option Word) : State :=
      if 1 < b then putPacket s c n { i with busy := b - 1 } else effectDone s s' c n i u pc once
    match packetEff i u o with
    | .trap s' t => mark (out s') c n i (some (t.cause, t.addr, t.info)) none
    | .park s' r => mark (out s') c n i none (some r)
    | .wait s' =>
      if replaced old (s'.thread c i.slot) then abandon s' c
      else putPacket (out s') c n { i with effect := i.effect || begun (s'.thread c i.slot) i.pc }
    | .ok s' => go s' (i.pc + 12) none
    | .once s' x => go s' (i.pc + 12) (some x)
    | .jump s' pc => go s' pc none

/-- Every instruction on its siding's rung, the oldest first. -/
def execution (s : State) (c : Nat) : State :=
  let ins := s.pipe c
  [7, 6, 5, 4, 3, 2].foldl (fun s n =>
    match AMap.get (s.pipe c).ins n with
    | none => s
    | some i =>
      match i.instr.bind pipeUnit with
      | none => s
      | some u =>
        if u.rung = n ∧ i.executed = false ∧ i.marked = false ∧ i.completed = false ∧ i.ready ∧
            (u.ext = false ∨ i.off ∨ olderDone ins i) then operate s c n i u else s) s

/-- Place the next result of an instruction whose operation has ended. -/
def placement (x : Pipe) : Pipe :=
  [7, 6, 5, 4, 3, 2].foldl (fun x n =>
    match AMap.get x.ins n, AMap.get x.res n with
    | some i, none =>
      match i.results with
      | r :: rs => if i.executed then { x with
            ins := AMap.set x.ins n { i with results := rs, completed := rs.isEmpty }
            res := AMap.set x.res n { slot := i.slot, seq := i.seq, dest := r.1, val := r.2, hider := none } } else x
      | [] => x
    | _, _ => x) x

/-! ### The end of a cycle (R187) -/

/-- Older entries of a register die when one of a retired producer exists; then the two oldest are written. -/
def footWrite (s : State) (c : Nat) : State :=
  let x := s.pipe c
  let live := x.foot.filter (fun e => !(e.val.isSome && x.foot.any (fun f => f.slot == e.slot && f.dest == e.dest &&
    f.val.isSome && retiredBy x f.seq && olderSeq e.seq f.seq)))
  let out := (sortBy (fun e => 256 - seqAge x e.seq) (live.filter (fun e => e.val.isSome && retiredBy x e.seq))).take 2
  let s1 := out.foldl (fun s e => s.modThread c e.slot (fun t => t.wrName e.dest (e.val.getD 0))) s
  s1.modPipe c (fun y => { y with foot := live.filter (fun e => !out.contains e) })

/-- One cycle of the pipe of a core (R182); the first one takes over at the thread's pc. -/
def pipeStep (s0 : State) (c : Nat) : State :=
  let x := s0.pipe c
  let s1 := if x.active then s0
    else s0.modPipe c (fun y => { y with active := true, fetchStop := false, fetchAt := s0.time.cycle
                                         fetchPc := (s0.thread c ((s0.core c).inPipe.getD 0)).pc })
  match (s1.core c).inPipe with
  | some k => cycle (s1.modThread c k (fun t => { t with ctl := { t.ctl with cycles := t.ctl.cycles + 1 } })) c
  | none => cycle s1 c
where
  /-- The eight steps, and the writes to the register store. -/
  cycle (s : State) (c : Nat) : State :=
    let a := (crown s c).modCore c (fun x => { x with heldCycles := x.heldCycles + 1 })
    let b := a.modPipe c footFill
    let down := AMap.keys (b.pipe c).res
    let d := entry (b.modPipe c (fun x => climb down (resultsDown x))) c
    let e := (execution (d.modPipe c meetings) c).modPipe c placement
    let f := footWrite e c
    f.modPipe c (fun y => { y with
      active := (f.core c).inPipe.isSome || !y.ins.isEmpty || !y.foot.isEmpty || decide (s.time.cycle < y.fetchAt) })

def execPipeCycle (core : Nat) (s : State) : Host.Outcome State Fault Refusal := onUnit (isCore core) (pipeStep s core)

end Sys2Proof.Machine
end

