-- ==== Sys2Proof/Machine/Window.lean ====
section
/-! DEFINITION. The management and launch windows as registers (R132, R159-R161, R254, R443, R446, R458, R459, R469), and
the accesses of the system cores to the physical address map (R238), with their events. -/

namespace Sys2Proof.Machine

/-! ### Message channel (07 Table 1) -/

def chanRead (s : State) (off : Nat) : Nat :=
  let c := s.chan
  match off with
  | 0x00 => c.hqbase.toNat
  | 0x08 => c.hqlog
  | 0x10 => c.hqtail
  | 0x18 => c.dqbase.toNat
  | 0x20 => c.dqlog
  | 0x28 => c.dqhead
  | 0x30 => c.dsent
  | 0x38 => c.hrecv
  | 0x40 => c.doldest
  | _ => 0

def State.modChan (s : State) (f : Channel → Channel) : State := { s with chan := f s.chan }

def chanWrite (s : State) (off : Nat) (v : Word) : State :=
  match off with
  | 0x00 => s.modChan (fun c => { c with hqbase := v, hqset := true })
  | 0x08 => s.modChan (fun c => { c with hqlog := qLog v.toNat })
  | 0x10 => s.modChan (fun c => { c with hqtail := wfld v 0 32 })
  | 0x18 => flushAll (s.modChan (fun c => { c with dqbase := v, dqset := true }))
  | 0x20 => flushAll (s.modChan (fun c => { c with dqlog := qLog v.toNat }))
  | 0x28 => flushAll (s.modChan (fun c => { c with dqhead := wfld v 0 32 }))
  | _ => s

/-! ### Shoot-down sets (12 Table 9) -/

def shootRead (s : State) (off : Nat) : Nat :=
  let r := AMap.getD s.mgmt.shoot (off / 32) ShootSet.reset
  match off % 32 with
  | 0x00 => r.addr.toNat
  | 0x08 => r.ctrl
  | 0x10 => flagAt r.busy 0 + r.count * 2 ^ 32
  | _ => 0

/-- The fields of the control word that are kept. -/
def shootBits (v : Nat) : Nat := v % 2 ^ 25

def shootWrite (s : State) (off : Nat) (v : Word) : State :=
  let i := off / 32
  let r := AMap.getD s.mgmt.shoot i ShootSet.reset
  match off % 32 with
  | 0x00 => s.modMgmt (fun g => { g with shoot := AMap.set g.shoot i { r with addr := v } })
  | 0x08 => if v.getLsbD 31 && !r.busy then startShot s i r.addr (shootBits v.toNat)
      else s.modMgmt (fun g => { g with shoot := AMap.set g.shoot i { r with ctrl := shootBits v.toNat } })
  | _ => s

/-! ### Spaces, areas, health and commands (07 Table 8, 25 Tables 1 and 3) -/

def selArea (s : State) : Area := AMap.getD s.mgmt.areas s.mgmt.csel Area.reset
def modArea (s : State) (f : Area → Area) : State :=
  s.modMgmt (fun g => { g with areas := AMap.set g.areas g.csel (f (selArea s)) })

/-- 64 bits of fmask. -/
def fmaskWord (s : State) (i : Nat) : Nat :=
  (List.range 64).foldl (fun a j => a + flagAt (s.cluster (64 * i + j)).fenced j) 0

def coreRegRead (s : State) (off : Nat) : Nat :=
  let g := s.mgmt
  match off with
  | 0x300 => g.sptbase.toNat
  | 0x308 => g.sptcount
  | 0x400 => g.csel
  | 0x408 => (selArea s).cbase.toNat
  | 0x410 => (selArea s).clog
  | 0x418 => (selArea s).ccount
  | 0x420 => (selArea s).savebase.toNat
  | 0x428 => (selArea s).savesize
  | 0x440 => healthWord s
  | 0x448 => g.health.corrected
  | 0x450 => g.health.uncorrected
  | 0x458 => g.health.throttled
  | 0x460 => g.health.plimit
  | 0x4C0 => g.dieNum + flagAt g.dieBusy 30
  | 0x500 => g.rcring.toNat
  | 0x508 => g.rcspace
  | 0x518 => g.rcres
  | 0x520 => g.rcstat0.toNat
  | 0x528 => g.rcstat1.toNat
  | 0x5A8 => flagAt g.keyRefused 1
  | _ =>
    if 0x310 ≤ off ∧ off < 0x390 then AMap.getD s.disp.lwspace ((off - 0x310) / 8) 0
    else if 0x480 ≤ off ∧ off < 0x4C0 then fmaskWord s ((off - 0x480) / 8)
    else 0

/-- A ring command word: op and n. -/
def ringCommand (s : State) (v : Word) : State :=
  match wfld v 0 2 with
  | 1 => ringCmd s true (ringPostN (wfld v 16 16))
  | 2 => ringCmd s false (ringRetireN (wfld v 16 16))
  | 3 => ringCmd s true (fun r => some { r with closed := true })
  | _ => s

/-- Writes of the core window's registers. SPTCOUNT takes the 17 bits of its field as written (R5); a value above its range, for
which its Meaning gives nothing, lists all 65,536 spaces (DESIGN CHOICE, log 126). -/
def coreRegWrite (s : State) (off : Nat) (v : Word) : State :=
  let go := v.getLsbD 31
  match off with
  | 0x300 => s.modMgmt (fun g => { g with sptbase := BitVec.ofNat 64 (v.toNat / 4096 * 4096) })
  | 0x308 => s.modMgmt (fun g => { g with sptcount := wfld v 0 17 })
  | 0x400 => s.modMgmt (fun g => { g with csel := wfld v 0 16 })
  | 0x408 => modArea s (fun a => { a with cbase := BitVec.ofNat 64 (v.toNat / 4096 * 4096) })
  | 0x410 => modArea s (fun a => { a with clog := if 6 ≤ wfld v 0 5 ∧ wfld v 0 5 ≤ 16 then wfld v 0 5 else 0 })
  | 0x420 => modArea s (fun a => { a with savebase := BitVec.ofNat 64 (v.toNat / 4096 * 4096) })
  | 0x428 => modArea s (fun a => { a with savesize := wfld v 0 32 })
  | 0x460 => s.modMgmt (fun g => { g with health := { g.health with
      plimit := if 400 ≤ wfld v 0 11 ∧ wfld v 0 11 ≤ 1600 then wfld v 0 11 else 1600 } })
  | 0x4C0 => if go then startReset s (wfld v 0 4) else s
  | 0x500 => ringSelect s v s.mgmt.rcspace
  | 0x508 => ringSelect s s.mgmt.rcring (wfld v 0 16)
  | 0x510 => ringCommand s v
  | 0x580 => if go then fence s (wfld v 0 9) else s
  | 0x588 => if go then debugSignal s (wfld v 0 12) (wfld v 12 2) (wfld v 16 8) else s
  | 0x590 => if go then debugRelease s (wfld v 0 12) (wfld v 12 2) else s
  | 0x5A0 => if go then keyCommand s (wfld v 0 12) (wfld v 16 2) else s
  | _ =>
    if 0x310 ≤ off ∧ off < 0x390 then
      s.modDisp (fun d => { d with lwspace := AMap.set d.lwspace ((off - 0x310) / 8) (wfld v 0 17) })
    else s

/-! ### Network ports (25 Tables 5 and 6) -/

def portRegRead (s : State) (p off : Nat) : Nat × State :=
  let x := s.port p
  match off with
  | 0x00 => (flagAt x.enable 0 + x.pfc * 2 ^ 8, s)
  | 0x08 => (flagAt x.up 0 + flagAt x.fec 1 + flagAt x.aligned 2, s)
  | 0x10 => (x.pmac, s)
  | 0x18 => (x.pmcast.toNat, s)
  | 0x20 => (x.rawtx.toNat, s)
  | 0x28 => (x.txlog + x.txprod * 2 ^ 32, s)
  | 0x30 => (x.txcons, s)
  | 0x38 => (x.rawrx.toNat, s)
  | 0x40 => (x.rxlog + x.rxprod * 2 ^ 32, s)
  | 0x48 => (x.rxcons, s)
  | 0x50 => (x.ptprx.toNat, s)
  | 0x58 => (x.plog + x.pprod * 2 ^ 32, s)
  | 0x60 => (x.pcons, s)
  | 0x68 => ((x.txts.head?.map Prod.fst).getD 0, s.modPort p (fun x => { x with txts := x.txts.tail }))
  | 0x70 => (match x.txts with
      | e :: _ => e.2.2 % 2 ^ 16 + e.2.1 * 2 ^ 16 + 2 ^ 31
      | [] => 0, s)
  | 0x80 => (x.framestx, s)
  | 0x88 => (x.framesrx, s)
  | 0x90 => (x.fcserr, s)
  | 0x98 => (x.dropped, s)
  | 0xA0 => (x.resent, s)
  | 0xA8 => (x.downs, s)
  | _ => (0, s)

def portRegWrite (s : State) (p off : Nat) (v : Word) : State :=
  let put (f : Port → Port) : State := s.modPort p f
  match off with
  | 0x00 => put (fun x => { x with enable := v.getLsbD 0, pfc := wfld v 8 8, up := x.up && v.getLsbD 0 })
  | 0x10 => put (fun x => { x with pmac := wfld v 0 48 })
  | 0x18 => put (fun x => { x with pmcast := v })
  | 0x20 => put (fun x => { x with rawtx := v })
  | 0x28 => put (fun x => { x with txlog := wfld v 0 4, txprod := wfld v 32 32 })
  | 0x38 => put (fun x => { x with rawrx := v })
  | 0x40 => put (fun x => { x with rxlog := wfld v 0 4, rxprod := wfld v 32 32 })
  | 0x50 => put (fun x => { x with ptprx := v })
  | 0x58 => put (fun x => { x with plog := wfld v 0 4, pprod := wfld v 32 32 })
  | _ => s

/-- The flow in error that 0x1820 shows. -/
def flowErrWord (s : State) : Nat :=
  match (s.net.flows.find? (fun e => e.2.error)).map Prod.fst with
  | some f => f + 2 ^ 31
  | none => 0

/-- TIMESLEW is kept clamped (25 Table 6). -/
def slewOf (v : Word) : Int := max (-4294967) (min 4294967 (sextI v.toNat 32))

def timeRegRead (s : State) (off : Nat) : Nat :=
  match off with
  | 0x1800 => s.net.flowbase.toNat
  | 0x1808 => s.net.flowcount
  | 0x1810 => s.net.rto
  | 0x1820 => flowErrWord s
  | 0x1880 => (s.time.slew % (2 ^ 32 : Int)).toNat
  | 0x1890 => s.time.tick
  | _ => 0

/-- Writes of the transport's and the clock's registers. FLOWCOUNT takes the 13 bits of its field as written (R5); a value
above its range, for which its Meaning gives nothing, lists all 4,096 flows (DESIGN CHOICE, log 126). -/
def timeRegWrite (s : State) (off : Nat) (v : Word) : State :=
  match off with
  | 0x1800 => { s with net := { s.net with flowbase := BitVec.ofNat 64 (v.toNat / 64 * 64) } }
  | 0x1808 => { s with net := { s.net with flowcount := wfld v 0 13 } }
  | 0x1810 => { s with net := { s.net with rto := max 10000 (wfld v 0 32) } }
  | 0x1818 => doorbell s (wfld v 0 12)
  | 0x1880 => { s with time := { s.time with slew := slewOf v } }
  | 0x1888 => setTime s v
  | _ => s

/-! ### Storage port (25 Table 11) -/

def storRegRead (s : State) (off : Nat) : Nat × State :=
  let x := s.stor
  match off with
  | 0x2000 => (flagAt x.enable 0, s)
  | 0x2008 => (flagAt x.up 0 + x.rate * 2 + x.width * 2 ^ 4 + flagAt x.flit 8, s)
  | 0x2010 => ((x.sfault.map BitVec.toNat).getD 0, s.modStor (fun x => { x with sfault := none }))
  | 0x2018 => (x.sfaults, s)
  | _ =>
    if 0x2100 ≤ off ∧ off < 0x24F8 then (AMap.getD x.sspace ((off - 0x2100) / 8) 0, s)
    else if 0x2500 ≤ off ∧ off < 0x2900 then (AMap.getD x.svec ((off - 0x2500) / 8) 0, s)
    else (0, s)

def storRegWrite (s : State) (off : Nat) (v : Word) : State :=
  match off with
  | 0x2000 =>
    let s1 := s.modStor (fun x => { x with enable := v.getLsbD 0, up := x.up && v.getLsbD 0 })
    if v.getLsbD 1 then retrainLink s1 else s1
  | _ =>
    if 0x2100 ≤ off ∧ off < 0x24F8 then s.modStor (fun x => { x with sspace := AMap.set x.sspace ((off - 0x2100) / 8) (wfld v 0 17) })
    else if 0x2500 ≤ off ∧ off < 0x2900 then
      s.modStor (fun x => { x with svec := AMap.set x.svec ((off - 0x2500) / 8) (wfld v 0 4 + flagAt (v.getLsbD 8) 8) })
    else s

/-! ### The whole window (R160) -/

/-- An aligned 8-byte read of the management window; a read may change what it reads. -/
def regRead (s : State) (off : Nat) : Nat × State :=
  if off % 8 ≠ 0 then (0, s)
  else if off < 0x50 then (chanRead s off, s)
  else if 0x100 ≤ off ∧ off < 0x300 then (shootRead s (off - 0x100), s)
  else if 0x300 ≤ off ∧ off < 0x600 then (coreRegRead s off, s)
  else if 0x1000 ≤ off ∧ off < 0x1800 then portRegRead s ((off - 0x1000) / 0x100) (off % 0x100)
  else if 0x1800 ≤ off ∧ off < 0x1900 then (timeRegRead s off, s)
  else if 0x2000 ≤ off ∧ off < 0x3000 then storRegRead s off
  else (0, s)

/-- An aligned 8-byte write of the management window. -/
def regWrite (s : State) (off : Nat) (v : Word) : State :=
  if off % 8 ≠ 0 then s
  else if off < 0x50 then chanWrite s off v
  else if 0x100 ≤ off ∧ off < 0x300 then shootWrite s (off - 0x100) v
  else if 0x300 ≤ off ∧ off < 0x600 then coreRegWrite s off v
  else if 0x1000 ≤ off ∧ off < 0x1800 then portRegWrite s ((off - 0x1000) / 0x100) (off % 0x100) v
  else if 0x1800 ≤ off ∧ off < 0x1900 then timeRegWrite s off v
  else if 0x2000 ≤ off ∧ off < 0x3000 then storRegWrite s off v
  else s

/-- A read of the launch window: the outcome word at a slot's first offset, else what was written there (R161). -/
def latchRead (s : State) (off : Nat) : Nat :=
  let w := AMap.getD s.disp.window (off / 64) WinSlot.reset
  if off % 64 = 0 then w.outcome.toNat
  else ofBytes ((List.range 8).map (fun j => AMap.getD w.bytes (off % 64 + j) 0))

/-! ### System cores (R238) -/

/-- An access of a system core by physical address: memory, a window, or nothing (an error to the core). -/
def coreAccess (s : State) (core sp pa len : Nat) (data : Option (List Byte)) : State :=
  let mg := 0x00FE000000000000
  let lw := 0x00FE000100000000
  let cf := 0x00FE000200000000
  let mw := 0x00FE001000000000
  let word := decide (len = 8) && decide (pa % 8 = 0)
  if sysMem pa len then coreRequest s core sp pa len data
  else if mg ≤ pa ∧ pa < mg + 0x10000 then
    match data with
    | some bs => if word then regWrite s (pa - mg) (BitVec.ofNat 64 (ofBytes bs)) else s
    | none =>
      if word then
        let r := regRead s (pa - mg)
        answerCore r.2 0 (toBytes 8 r.1)
      else answerCore s 0 (toBytes len 0)
  else if lw ≤ pa ∧ pa < lw + 0x400 then
    match data with
    | some bs => if word then latchWrite s ((pa - lw) / 64) ((pa - lw) % 64) (BitVec.ofNat 64 (ofBytes bs)) else s
    | none => answerCore s 0 (if word then toBytes 8 (latchRead s (pa - lw)) else toBytes len 0)
  else if cf ≤ pa ∧ pa < cf + 0x100000 then driveAccess s true (pa - cf) len data
  else if mw ≤ pa ∧ pa < mw + 2 ^ 36 then driveAccess s false (pa - mw) len data
  else match data with
    | some _ => s
    | none => answerCore s 1 []

/-! ### The events -/

def execRegisterWrite (off : Nat) (value : Word) (s : State) : Host.Outcome State Fault Refusal := .next (regWrite s off value)

def execSystemCoreMemoryAccess (core space pa len : Nat) (data : Option (List Byte)) (s : State) :
    Host.Outcome State Fault Refusal :=
  onUnit (isSysCore core) (coreAccess s core space pa len data)

end Sys2Proof.Machine
end

