-- ==== Sys2Proof/Machine/Dispatch.lean ====
section
/-! DEFINITION. The dispatch of every constructor of `Instr` to its meaning, one arm each. -/

namespace Sys2Proof.Machine

open Sys2Proof

def exec (i : Instr) (s : State) : Host.Outcome State Fault Refusal :=
  match i with
  | .add h t sa a b c => Sys2Proof.Machine.execAdd h t sa a b c s
  | .sub h t sa a b c => Sys2Proof.Machine.execSub h t sa a b c s
  | .mul h t sa a b c => Sys2Proof.Machine.execMul h t sa a b c s
  | .mulh h t u a b c => Sys2Proof.Machine.execMulh h t u a b c s
  | .mad h t sa a b c => Sys2Proof.Machine.execMad h t sa a b c s
  | .div h t u a b c => Sys2Proof.Machine.execDiv h t u a b c s
  | .rem h t u a b c => Sys2Proof.Machine.execRem h t u a b c s
  | .and h t a b c => Sys2Proof.Machine.execAnd h t a b c s
  | .or h t a b c => Sys2Proof.Machine.execOr h t a b c s
  | .xor h t a b c => Sys2Proof.Machine.execXor h t a b c s
  | .andn h t a b c => Sys2Proof.Machine.execAndn h t a b c s
  | .shl h t sa a b c => Sys2Proof.Machine.execShl h t sa a b c s
  | .shr h t u a b c => Sys2Proof.Machine.execShr h t u a b c s
  | .rot h t a b c => Sys2Proof.Machine.execRot h t a b c s
  | .min h t u a b c => Sys2Proof.Machine.execMin h t u a b c s
  | .max h t u a b c => Sys2Proof.Machine.execMax h t u a b c s
  | .abs h t sa a b => Sys2Proof.Machine.execAbs h t sa a b s
  | .clz h t a b => Sys2Proof.Machine.execClz h t a b s
  | .ctz h t a b => Sys2Proof.Machine.execCtz h t a b s
  | .pop h t a b => Sys2Proof.Machine.execPop h t a b s
  | .bext h u a b c => Sys2Proof.Machine.execBext h u a b c s
  | .bins h a b c => Sys2Proof.Machine.execBins h a b c s
  | .extI h t u a b => Sys2Proof.Machine.execExtI h t u a b s
  | .mov h a b => Sys2Proof.Machine.execMov h a b s
  | .li h a w => Sys2Proof.Machine.execLi h a w s
  | .lih h a w => Sys2Proof.Machine.execLih h a w s
  | .lpc h a c => Sys2Proof.Machine.execLpc h a c s
  | .sel h n u a b c => Sys2Proof.Machine.execSel h n u a b c s
  | .cmp h t n u a b c => Sys2Proof.Machine.execCmp h t n u a b c s
  | .plog h n a b c => Sys2Proof.Machine.execPlog h n a b c s
  | .pmov h u a b => Sys2Proof.Machine.execPmov h u a b s
  | .pget h a b => Sys2Proof.Machine.execPget h a b s
  | .br h u a c => Sys2Proof.Machine.execBr h u a c s
  | .brl h u a c => Sys2Proof.Machine.execBrl h u a c s
  | .jr h u a b c => Sys2Proof.Machine.execJr h u a b c s
  | .jrl h u a b c => Sys2Proof.Machine.execJrl h u a b c s
  | .dbr h a c => Sys2Proof.Machine.execDbr h a c s
  | .ctlRd h a b => Sys2Proof.Machine.execCtlRd h a b s
  | .ctlWr h a b => Sys2Proof.Machine.execCtlWr h a b s
  | .ctlSet h a b => Sys2Proof.Machine.execCtlSet h a b s
  | .ctlClr h a b => Sys2Proof.Machine.execCtlClr h a b s
  | .trap h c => Sys2Proof.Machine.execTrap h c s
  | .eret h => Sys2Proof.Machine.execEret h s
  | .sysc h c => Sys2Proof.Machine.execSysc h c s
  | .halt h => Sys2Proof.Machine.execHalt h s
  | .nop h => Sys2Proof.Machine.execNop h s
  | .yieldI h => Sys2Proof.Machine.execYieldI h s
  | .ifence h => Sys2Proof.Machine.execIfence h s
  | .ifenceFill h a b c => Sys2Proof.Machine.execIfenceFill h a b c s
  | .gangShed h => Sys2Proof.Machine.execGangShed h s
  | .gangJoin h => Sys2Proof.Machine.execGangJoin h s
  | .demand h a b => Sys2Proof.Machine.execDemand h a b s
  | .settle h => Sys2Proof.Machine.execSettle h s
  | .bshare h a b c => Sys2Proof.Machine.execBshare h a b c s
  | .bmov h m => Sys2Proof.Machine.execBmov h m s
  | .grade h m => Sys2Proof.Machine.execGrade h m s
  | .sensLd h a b => Sys2Proof.Machine.execSensLd h a b s
  | .sensLdReset h a => Sys2Proof.Machine.execSensLdReset h a s
  | .ld h t u a b => Sys2Proof.Machine.execLd h t u a b s
  | .st h t a b => Sys2Proof.Machine.execSt h t a b s
  | .ldAcq h t n u a b => Sys2Proof.Machine.execLdAcq h t n u a b s
  | .stRel h t n a b => Sys2Proof.Machine.execStRel h t n a b s
  | .ldWf h t n u a b => Sys2Proof.Machine.execLdWf h t n u a b s
  | .stWe h t a b => Sys2Proof.Machine.execStWe h t a b s
  | .tagRd h a b => Sys2Proof.Machine.execTagRd h a b s
  | .tagFull h a b => Sys2Proof.Machine.execTagFull h a b s
  | .tagEmpty h a b => Sys2Proof.Machine.execTagEmpty h a b s
  | .pref h a => Sys2Proof.Machine.execPref h a s
  | .cfl h a => Sys2Proof.Machine.execCfl h a s
  | .cflEvict h a => Sys2Proof.Machine.execCflEvict h a s
  | .cinv h a => Sys2Proof.Machine.execCinv h a s
  | .cinvAll h => Sys2Proof.Machine.execCinvAll h s
  | .fence h n => Sys2Proof.Machine.execFence h n s
  | .fenceAcq h n => Sys2Proof.Machine.execFenceAcq h n s
  | .fenceRel h n => Sys2Proof.Machine.execFenceRel h n s
  | .region h => Sys2Proof.Machine.execRegion h s
  | .regionForce h => Sys2Proof.Machine.execRegionForce h s
  | .regionDrop h => Sys2Proof.Machine.execRegionDrop h s
  | .ldPair h t u a b c => Sys2Proof.Machine.execLdPair h t u a b c s
  | .stPair h t a b c => Sys2Proof.Machine.execStPair h t a b c s
  | .launch h a b => Sys2Proof.Machine.execLaunch h a b s
  | .doneI h => Sys2Proof.Machine.execDoneI h s
  | .nexttile h a => Sys2Proof.Machine.execNexttile h a s
  | .ringClaim h u a b => Sys2Proof.Machine.execRingClaim h u a b s
  | .ringPost h a b => Sys2Proof.Machine.execRingPost h a b s
  | .ringTake h u a b => Sys2Proof.Machine.execRingTake h u a b s
  | .ringFree h a b => Sys2Proof.Machine.execRingFree h a b s
  | .ringStat h a b => Sys2Proof.Machine.execRingStat h a b s
  | .copy h a b => Sys2Proof.Machine.execCopy h a b s
  | .copyDeal h a b c => Sys2Proof.Machine.execCopyDeal h a b c s
  | .shutQ h a b => Sys2Proof.Machine.execShutQ h a b s
  | .shutQDrop h a b => Sys2Proof.Machine.execShutQDrop h a b s
  | .copyResume h a b c => Sys2Proof.Machine.execCopyResume h a b c s
  | .mx h a b => Sys2Proof.Machine.execMx h a b s
  | .accZero h a b c => Sys2Proof.Machine.execAccZero h a b c s
  | .cnPut h a b c => Sys2Proof.Machine.execCnPut h a b c s
  | .cnGet h a b => Sys2Proof.Machine.execCnGet h a b s
  | .cnGetRef h a b => Sys2Proof.Machine.execCnGetRef h a b s
  | .cnRef h a b => Sys2Proof.Machine.execCnRef h a b s
  | .cnUnref h a b => Sys2Proof.Machine.execCnUnref h a b s
  | .cnNode h a b c => Sys2Proof.Machine.execCnNode h a b c s
  | .cnSwap h a b c => Sys2Proof.Machine.execCnSwap h a b c s
  | .cnRoot h a b c => Sys2Proof.Machine.execCnRoot h a b c s
  | .cnRootRef h a b c => Sys2Proof.Machine.execCnRootRef h a b c s
  | .cnOut h a b c => Sys2Proof.Machine.execCnOut h a b c s
  | .cnCfg h a b => Sys2Proof.Machine.execCnCfg h a b s
  | .cnCfgStat h a b => Sys2Proof.Machine.execCnCfgStat h a b s
  | .amo h t n r u a b c => Sys2Proof.Machine.execAmo h t n r u a b c s
  | .amoCas h t a b c => Sys2Proof.Machine.execAmoCas h t a b c s
  | .red h t n r u a b c => Sys2Proof.Machine.execRed h t n r u a b c s
  | .bupd h n u a b => Sys2Proof.Machine.execBupd h n u a b s
  | .bupdR h n u a b c => Sys2Proof.Machine.execBupdR h n u a b c s
  | .bcfg h a b c => Sys2Proof.Machine.execBcfg h a b c s
  | .vbupd h n u a b c => Sys2Proof.Machine.execVbupd h n u a b c s
  | .barInit h a b => Sys2Proof.Machine.execBarInit h a b s
  | .barArr h a b c => Sys2Proof.Machine.execBarArr h a b c s
  | .barWait h a b => Sys2Proof.Machine.execBarWait h a b s
  | .barTest h a b => Sys2Proof.Machine.execBarTest h a b s
  | .tbar h a c => Sys2Proof.Machine.execTbar h a c s
  | .nred h t n r u a b c => Sys2Proof.Machine.execNred h t n r u a b c s
  | .wait h a b c => Sys2Proof.Machine.execWait h a b c s
  | .pause h a => Sys2Proof.Machine.execPause h a s
  | .msgSend h a b c => Sys2Proof.Machine.execMsgSend h a b c s
  | .hatchPut h b => Sys2Proof.Machine.execHatchPut h b s
  | .hatchGet h a => Sys2Proof.Machine.execHatchGet h a s
  | .hatchFree h a => Sys2Proof.Machine.execHatchFree h a s
  | .jobPoll h a b c => Sys2Proof.Machine.execJobPoll h a b c s
  | .jobPollAcq h a b c => Sys2Proof.Machine.execJobPollAcq h a b c s
  | .jobCancel h a b c => Sys2Proof.Machine.execJobCancel h a b c s
  | .vld h a b c => Sys2Proof.Machine.execVld h a b c s
  | .vst h a b => Sys2Proof.Machine.execVst h a b s
  | .vadd h t r sa a b c => Sys2Proof.Machine.execVadd h t r sa a b c s
  | .vsub h t r sa a b c => Sys2Proof.Machine.execVsub h t r sa a b c s
  | .vmul h t r sa a b c => Sys2Proof.Machine.execVmul h t r sa a b c s
  | .vfma h t r sa a b c => Sys2Proof.Machine.execVfma h t r sa a b c s
  | .vfms h t r sa a b c => Sys2Proof.Machine.execVfms h t r sa a b c s
  | .vnfma h t r sa a b c => Sys2Proof.Machine.execVnfma h t r sa a b c s
  | .vmin h t u a b c => Sys2Proof.Machine.execVmin h t u a b c s
  | .vmax h t u a b c => Sys2Proof.Machine.execVmax h t u a b c s
  | .vabs h t sa a b => Sys2Proof.Machine.execVabs h t sa a b s
  | .vneg h t sa a b => Sys2Proof.Machine.execVneg h t sa a b s
  | .vcvt h t r sa a b c => Sys2Proof.Machine.execVcvt h t r sa a b c s
  | .vsum h t r sa a b => Sys2Proof.Machine.execVsum h t r sa a b s
  | .vdot h t r sa a b c => Sys2Proof.Machine.execVdot h t r sa a b c s
  | .vcmp h t n u a b c => Sys2Proof.Machine.execVcmp h t n u a b c s
  | .vsel h t a b c => Sys2Proof.Machine.execVsel h t a b c s
  | .vand h a b c => Sys2Proof.Machine.execVand h a b c s
  | .vor h a b c => Sys2Proof.Machine.execVor h a b c s
  | .vxor h a b c => Sys2Proof.Machine.execVxor h a b c s
  | .vshl h t sa a b c => Sys2Proof.Machine.execVshl h t sa a b c s
  | .vshr h t u a b c => Sys2Proof.Machine.execVshr h t u a b c s
  | .vbcast h t a m => Sys2Proof.Machine.execVbcast h t a m s
  | .vext h t u a b c => Sys2Proof.Machine.execVext h t u a b c s
  | .vins h t a b c => Sys2Proof.Machine.execVins h t a b c s
  | .vpack h t r sa a b c => Sys2Proof.Machine.execVpack h t r sa a b c s
  | .vunpack h t a b c hi => Sys2Proof.Machine.execVunpack h t a b c hi s
  | .vperm h t a b c => Sys2Proof.Machine.execVperm h t a b c s
  | .vmr h t r sa a b c => Sys2Proof.Machine.execVmr h t r sa a b c s
  | .vlog h t r sa a b => Sys2Proof.Machine.execVlog h t r sa a b s
  | .valog h t r sa a b => Sys2Proof.Machine.execValog h t r sa a b s
  | .vexp2 h t r sa a b => Sys2Proof.Machine.execVexp2 h t r sa a b s
  | .vlog2 h t r sa a b => Sys2Proof.Machine.execVlog2 h t r sa a b s
  | .vrcp h t r sa a b => Sys2Proof.Machine.execVrcp h t r sa a b s
  | .vsqrt h t r sa a b => Sys2Proof.Machine.execVsqrt h t r sa a b s
  | .vrsqrt h t r sa a b => Sys2Proof.Machine.execVrsqrt h t r sa a b s
  | .vpow h t r sa a b c => Sys2Proof.Machine.execVpow h t r sa a b c s
  | .vsigm h t r sa a b => Sys2Proof.Machine.execVsigm h t r sa a b s
  | .vtanh h t r sa a b => Sys2Proof.Machine.execVtanh h t r sa a b s
  | .scfg h a b => Sys2Proof.Machine.execScfg h a b s
  | .sbind h a => Sys2Proof.Machine.execSbind h a s
  | .sfree h a => Sys2Proof.Machine.execSfree h a s
  | .vrpt h a b => Sys2Proof.Machine.execVrpt h a b s
  | .vsync h => Sys2Proof.Machine.execVsync h s
  | .ctxSave h a b => Sys2Proof.Machine.execCtxSave h a b s
  | .ctxLoad h a => Sys2Proof.Machine.execCtxLoad h a s
  | .ctxDrop h a => Sys2Proof.Machine.execCtxDrop h a s
  | .pipeCycle core => Sys2Proof.Machine.execPipeCycle core s
  | .pipeTimeSlice core => Sys2Proof.Machine.execPipeTimeSlice core s
  | .parkedAnswer core slot => Sys2Proof.Machine.execParkedAnswer core slot s
  | .tagWake core line => Sys2Proof.Machine.execTagWake core line s
  | .peerTaggedRequest core => Sys2Proof.Machine.execPeerTaggedRequest core s
  | .pauseExpiry core slot => Sys2Proof.Machine.execPauseExpiry core slot s
  | .sleepExpiry core slot => Sys2Proof.Machine.execSleepExpiry core slot s
  | .waitTimeout core slot => Sys2Proof.Machine.execWaitTimeout core slot s
  | .timerInterrupt core slot => Sys2Proof.Machine.execTimerInterrupt core slot s
  | .sidingIssue core => Sys2Proof.Machine.execSidingIssue core s
  | .tlbWalk core space va kind => Sys2Proof.Machine.execTlbWalk core space va kind s
  | .walkServiceRelease id => Sys2Proof.Machine.execWalkServiceRelease id s
  | .walkServiceDecline id => Sys2Proof.Machine.execWalkServiceDecline id s
  | .shootdownPage set space addr ispace => Sys2Proof.Machine.execShootdownPage set space addr ispace s
  | .shootdownRange set space addr n ispace => Sys2Proof.Machine.execShootdownRange set space addr n ispace s
  | .shootdownSpace set space ispace => Sys2Proof.Machine.execShootdownSpace set space ispace s
  | .shootdownAll set ispace => Sys2Proof.Machine.execShootdownAll set ispace s
  | .shootdownComplete set => Sys2Proof.Machine.execShootdownComplete set s
  | .wqDispatch writer => Sys2Proof.Machine.execWqDispatch writer s
  | .pathPerform src dst idx => Sys2Proof.Machine.execPathPerform src dst idx s
  | .nearCacheFillEvict core line keyslot fill => Sys2Proof.Machine.execNearCacheFillEvict core line keyslot fill s
  | .releaseWaitEnd core slot => Sys2Proof.Machine.execReleaseWaitEnd core slot s
  | .copyJobUnit cluster => Sys2Proof.Machine.execCopyJobUnit cluster s
  | .copyJobFinal cluster id => Sys2Proof.Machine.execCopyJobFinal cluster id s
  | .matrixTile cluster => Sys2Proof.Machine.execMatrixTile cluster s
  | .matrixJobFinal cluster id => Sys2Proof.Machine.execMatrixJobFinal cluster id s
  | .matrixShadowReplay cluster id => Sys2Proof.Machine.execMatrixShadowReplay cluster id s
  | .accZeroJob cluster id => Sys2Proof.Machine.execAccZeroJob cluster id s
  | .cnOutJob cluster id => Sys2Proof.Machine.execCnOutJob cluster id s
  | .contentHomeRequest core slot => Sys2Proof.Machine.execContentHomeRequest core slot s
  | .contentCountMessage src dst => Sys2Proof.Machine.execContentCountMessage src dst s
  | .reclaim space home => Sys2Proof.Machine.execReclaim space home s
  | .bankUpdateApply core => Sys2Proof.Machine.execBankUpdateApply core s
  | .barrierArrival core off count => Sys2Proof.Machine.execBarrierArrival core off count s
  | .treeEpisodeComplete die key => Sys2Proof.Machine.execTreeEpisodeComplete die key s
  | .msgDeliver core => Sys2Proof.Machine.execMsgDeliver core s
  | .nexttileAnswer => Sys2Proof.Machine.execNexttileAnswer s
  | .launchLatch slot off value => Sys2Proof.Machine.execLaunchLatch slot off value s
  | .launchAccept => Sys2Proof.Machine.execLaunchAccept s
  | .launchPlace => Sys2Proof.Machine.execLaunchPlace s
  | .instanceStart => Sys2Proof.Machine.execInstanceStart s
  | .governorSample cluster => Sys2Proof.Machine.execGovernorSample cluster s
  | .meterUpdate launch idx dram => Sys2Proof.Machine.execMeterUpdate launch idx dram s
  | .deadlineMiss launch idx => Sys2Proof.Machine.execDeadlineMiss launch idx s
  | .preempt cluster reason => Sys2Proof.Machine.execPreempt cluster reason s
  | .restore saved cluster => Sys2Proof.Machine.execRestore saved cluster s
  | .charterComplete launch idx => Sys2Proof.Machine.execCharterComplete launch idx s
  | .hostAck => Sys2Proof.Machine.execHostAck s
  | .replayRequest => Sys2Proof.Machine.execReplayRequest s
  | .cancel => Sys2Proof.Machine.execCancel s
  | .dqheadWrite value => Sys2Proof.Machine.execDqheadWrite value s
  | .ringCmdPost n => Sys2Proof.Machine.execRingCmdPost n s
  | .ringCmdRetire n => Sys2Proof.Machine.execRingCmdRetire n s
  | .ringCmdClose => Sys2Proof.Machine.execRingCmdClose s
  | .ringCmdSelect ring space => Sys2Proof.Machine.execRingCmdSelect ring space s
  | .fenceCluster cluster => Sys2Proof.Machine.execFenceCluster cluster s
  | .dbgsig core slot code => Sys2Proof.Machine.execDbgsig core slot code s
  | .dbgrel core slot => Sys2Proof.Machine.execDbgrel core slot s
  | .keyInstall slot => Sys2Proof.Machine.execKeyInstall slot s
  | .keyRekey slot => Sys2Proof.Machine.execKeyRekey slot s
  | .diereset die => Sys2Proof.Machine.execDiereset die s
  | .quiesceGraceExpiry die => Sys2Proof.Machine.execQuiesceGraceExpiry die s
  | .quiesceDrainDone die digestOk bad => Sys2Proof.Machine.execQuiesceDrainDone die digestOk bad s
  | .dieResume die => Sys2Proof.Machine.execDieResume die s
  | .eccError site double consumed => Sys2Proof.Machine.execEccError site double consumed s
  | .limiterWindow watts withheld thermal => Sys2Proof.Machine.execLimiterWindow watts withheld thermal s
  | .powerOn imageOk => Sys2Proof.Machine.execPowerOn imageOk s
  | .dieMeasure die digestOk => Sys2Proof.Machine.execDieMeasure die digestOk s
  | .getVersion req => Sys2Proof.Machine.execGetVersion req s
  | .getCapabilities req => Sys2Proof.Machine.execGetCapabilities req s
  | .negotiateAlgorithms req => Sys2Proof.Machine.execNegotiateAlgorithms req s
  | .getDigests req => Sys2Proof.Machine.execGetDigests req s
  | .getCertificate req => Sys2Proof.Machine.execGetCertificate req s
  | .challenge req => Sys2Proof.Machine.execChallenge req s
  | .getMeasurements req => Sys2Proof.Machine.execGetMeasurements req s
  | .spdmUnsupported req => Sys2Proof.Machine.execSpdmUnsupported req s
  | .imageLoad space image relocs charters => Sys2Proof.Machine.execImageLoad space image relocs charters s
  | .hostMemoryRequest pasid addr len data => Sys2Proof.Machine.execHostMemoryRequest pasid addr len data s
  | .frameReceive port frame fcsOk => Sys2Proof.Machine.execFrameReceive port frame fcsOk s
  | .rawSend port => Sys2Proof.Machine.execRawSend port s
  | .txtsRead port => Sys2Proof.Machine.execTxtsRead port s
  | .doorbell flow => Sys2Proof.Machine.execDoorbell flow s
  | .flowPoll flow => Sys2Proof.Machine.execFlowPoll flow s
  | .workRequest flow => Sys2Proof.Machine.execWorkRequest flow s
  | .writeI port frame => Sys2Proof.Machine.execWriteI port frame s
  | .readreq port frame => Sys2Proof.Machine.execReadreq port frame s
  | .readresp port frame => Sys2Proof.Machine.execReadresp port frame s
  | .ack port frame => Sys2Proof.Machine.execAck port frame s
  | .marker port frame => Sys2Proof.Machine.execMarker port frame s
  | .nack port frame => Sys2Proof.Machine.execNack port frame s
  | .releasePerform flow => Sys2Proof.Machine.execReleasePerform flow s
  | .rtoExpiry flow path => Sys2Proof.Machine.execRtoExpiry flow path s
  | .pathRetry flow path => Sys2Proof.Machine.execPathRetry flow path s
  | .ackTimer flow path => Sys2Proof.Machine.execAckTimer flow path s
  | .completionEntry flow => Sys2Proof.Machine.execCompletionEntry flow s
  | .flowError flow => Sys2Proof.Machine.execFlowError flow s
  | .storageRetrain => Sys2Proof.Machine.execStorageRetrain s
  | .driveMemoryRequest addr len data => Sys2Proof.Machine.execDriveMemoryRequest addr len data s
  | .driveMsix vector => Sys2Proof.Machine.execDriveMsix vector s
  | .sfaultRead => Sys2Proof.Machine.execSfaultRead s
  | .systemCoreDriveAccess core config off len data => Sys2Proof.Machine.execSystemCoreDriveAccess core config off len data s
  | .registerWrite off value => Sys2Proof.Machine.execRegisterWrite off value s
  | .portLinkChange port up fec aligned => Sys2Proof.Machine.execPortLinkChange port up fec aligned s
  | .storageLinkChange up rate width flit => Sys2Proof.Machine.execStorageLinkChange up rate width flit s
  | .advancedErrorReporting core => Sys2Proof.Machine.execAdvancedErrorReporting core s
  | .driveServiceTimeout id => Sys2Proof.Machine.execDriveServiceTimeout id s
  | .refusedRequestRetry core slot => Sys2Proof.Machine.execRefusedRequestRetry core slot s
  | .imageUpdate image => Sys2Proof.Machine.execImageUpdate image s
  | .timeset value => Sys2Proof.Machine.execTimeset value s
  | .dqbaseWrite value => Sys2Proof.Machine.execDqbaseWrite value s
  | .systemCoreMemoryAccess core space pa len data => Sys2Proof.Machine.execSystemCoreMemoryAccess core space pa len data s

end Sys2Proof.Machine
end

