-- ==== Sys2Proof/Machine/Internal.lean ====
section
/-! DEFINITION. Which event of the module's own agents is due next (R379, R381; logs 4, 5). -/

namespace Sys2Proof.Machine

/-! ### Memory and threads -/

/-- The first path queue whose head may perform (M6). -/
def duePath (s : State) : Option Instr :=
  (s.mem.paths.find? (fun e => canPerform s e.1)).map (fun e => .pathPerform (e.1 / 64) (e.1 / 4 % 16) (e.1 % 4))

/-- The first slot of the module with a property. -/
def findSlot (s : State) (f : Nat → Nat → Thread → Bool) : Option (Nat × Nat) :=
  s.cores.findSome? (fun e => (e.2.slots.find? (fun q => f e.1 q.1 q.2)).map (fun q => (e.1, q.1)))

def findCore (s : State) (f : Nat → Core → Bool) : Option Nat := (s.cores.find? (fun e => f e.1 e.2)).map Prod.fst

def findCluster (s : State) (f : Nat → Cluster → Bool) : Option Nat := (s.clusters.find? (fun e => f e.1 e.2)).map Prod.fst

/-- M5: a writer with a queued write. -/
def dueDispatch (s : State) : Option Instr :=
  (findSlot s (fun _ _ t => !t.wq.isEmpty)).map (fun m => .wqDispatch (writerOf m.1 m.2))

def dueAnswer (s : State) : Option Instr :=
  (findSlot s (fun c k t => match waitsAnswer t with
    | some e => (answerAccess s c k e).isSome
    | none => false)).map (fun m => .parkedAnswer m.1 m.2)

def dueTagReq (s : State) : Option Instr :=
  (findCore s (fun c x => x.tagReqs.any (fun r => !tagWanted s c r || tagAllows x r))).map .peerTaggedRequest

/-- A walker of a die takes its first miss, or an L2 hit fills the L1 of a core whose slot waits for it (R250, R251). -/
def dueWalk (s : State) : Option Instr :=
  match s.dies.findSome? (fun d => if d.2.routines.isSome then d.2.misses.head? else none) with
  | some m => some (.tlbWalk m.core m.space (BitVec.ofNat 64 m.va) m.kind)
  | none =>
    (findSlot s (fun c _ t => match t.status with
      | .parked (.tlb va kind) => !((s.die (dieOf c)).misses.any (fun m =>
          m.core == c && m.space == t.place.spaceid && m.va == va && m.kind == kind))
      | _ => false)).bind (fun m => match (s.thread m.1 m.2).status with
        | .parked (.tlb va kind) => some (.tlbWalk m.1 (s.thread m.1 m.2).place.spaceid (BitVec.ofNat 64 va) kind)
        | _ => none)

def dueTimer (s : State) : Option Instr :=
  (findSlot s (fun _ _ t => timerDue s t && !t.pend.timer && decide (t.status ≠ .unplaced))).map (fun m => .timerInterrupt m.1 m.2)

def dueSiding (s : State) : Option Instr := (findCore s (fun c _ => (sidingStep s c).isSome)).map .sidingIssue

def dueBank (s : State) : Option Instr := (findCore s (fun _ x => !x.bank.isEmpty)).map .bankUpdateApply

def dueMsg (s : State) : Option Instr := (findCore s (fun c _ => msgDue s c)).map .msgDeliver

def dueTree (s : State) : Option Instr :=
  s.dies.findSome? (fun d => (d.2.episodes.find? (fun e => decide (e.2.n ≤ e.2.arrivals.length))).map
    (fun e => .treeEpisodeComplete d.1 e.1))

/-! ### Engines and the content store -/

/-- The chosen copy job moves a unit; a copy-out job is its own event. -/
def dueCopy (s : State) : Option Instr :=
  (findCluster s (fun cl x => !x.copyJobs.isEmpty && (copyStep s cl).isSome)).map (fun cl =>
    match copyChoice s cl with
    | some j => if j.out.isSome then .cnOutJob cl j.id else .copyJobUnit cl
    | none => .copyJobUnit cl)

def dueCopyFinal (s : State) : Option Instr :=
  s.clusters.findSome? (fun e => (e.2.copyJobs.find? (fun j => copyFinalDue s e.1 j.2)).map (fun j => .copyJobFinal e.1 j.1))

def dueMatrix (s : State) : Option Instr :=
  (findCluster s (fun cl x => !x.mxJobs.isEmpty && (mxStep s cl).isSome)).map (fun cl =>
    match mxChoice s cl with
    | some j => if j.zero.isSome && !j.cancel then .accZeroJob cl j.id else .matrixTile cl
    | none => .matrixTile cl)

def dueMatrixFinal (s : State) : Option Instr :=
  s.clusters.findSome? (fun e => (e.2.mxJobs.find? (fun j => j.2.ended.isSome && j.2.status == 0)).map (fun j => .matrixJobFinal e.1 j.1))

def dueReplay (s : State) : Option Instr :=
  s.clusters.findSome? (fun e => (e.2.mxJobs.find? (fun j => mxReleased s j.2)).map (fun j => .matrixShadowReplay e.1 j.1))

def dueContent (s : State) : Option Instr :=
  (findSlot s (fun _ _ t => match t.cn with
    | some r => !r.answered
    | none => false)).map (fun m => .contentHomeRequest m.1 m.2)

def dueCount (s : State) : Option Instr :=
  (s.counts.find? (fun e => !e.2.isEmpty && !contentWaits s (e.1 % 512))).map (fun e => .contentCountMessage (e.1 / 512) (e.1 % 512))

def dueReclaim (s : State) : Option Instr :=
  s.stores.findSome? (fun e => (e.2.reclaim.find? (fun q => !q.2.isEmpty && !contentWaits s q.1)).map (fun q => .reclaim e.1 q.1))

/-! ### The dispatcher -/

def dueQuery (s : State) : Option Instr := if s.disp.queries.isEmpty then none else some .nexttileAnswer

def dueSubmit (s : State) : Option Instr := if s.disp.submits.isEmpty then none else some .launchAccept

/-- A saved set is restored, a struck launch aborted, or a unit placed, by rank (R140, R438). -/
def duePlacing (s : State) : Option Instr :=
  match dueRestore s with
  | some p => some (.restore p.1 p.2)
  | none => if (struckLaunch s).isSome || (duePlace s).isSome then some .launchPlace else none

def dueInstance (s : State) : Option Instr := (dueStart s).map (fun _ => .instanceStart)

def dueCharter (s : State) : Option Instr :=
  s.disp.launches.findSome? (fun e =>
    if e.2.done then none
    else if reportDue s e.1 then some (.charterComplete e.1 0)
    else (e.2.nodes.find? (fun n => mayComplete s e.1 n.1)).map (fun n => .charterComplete e.1 n.1))

def dueMiss (s : State) : Option Instr :=
  s.disp.launches.findSome? (fun e => if e.2.done then none
    else (e.2.nodes.find? (fun n => missDue s n.2)).map (fun n => .deadlineMiss e.1 n.1))

def dueSample (s : State) : Option Instr :=
  (findCluster s (fun cl x => decide (x.sampleAt ≤ s.time.cycle) && s.disp.rings.any (fun r => r.2.holder == some cl))).map .governorSample

def dueMeter (s : State) : Option Instr :=
  s.disp.launches.findSome? (fun e => (e.2.nodes.find? (fun n => meterDue s n.2)).map (fun n => .meterUpdate e.1 n.1 0))

/-- A pre-emption goes on, a die in phase 3 loses its gangs, or the dispatcher needs a cluster. -/
def duePreemption (s : State) : Option Instr :=
  match findCluster s (fun cl _ => preempting s cl && (let q := preemptSet s cl
      !marked s q || drained s q)) with
  | some cl => some (.preempt cl (preemptReason s cl))
  | none =>
    match findCluster s (fun cl _ => (s.die (cl / 32)).phase == 3 && !preempting s cl && !(gangsOn s [cl]).isEmpty) with
    | some cl => some (.preempt cl 3)
    | none => (duePreempt s).map (fun cl => .preempt cl 1)

def dueHost (s : State) : Option Instr :=
  (hostNext s).map (fun m => match hostType m with
    | 2 => .replayRequest
    | 3 => .cancel
    | _ => .hostAck)

/-! ### Shoot-downs, dies and ports -/

def dueShot (s : State) : Option Instr :=
  (s.mgmt.shoot.find? (fun e => e.2.busy && shotQuiet s)).map (fun e => .shootdownComplete e.1)

def dueDie (s : State) : Option Instr :=
  s.dies.findSome? (fun e => if graceDue s e.1 || (e.2.phase == 3 && dieVacated s e.1) then some (.quiesceGraceExpiry e.1)
    else if e.2.phase == 5 then some (.dieResume e.1) else none)

/-- The next thing that a flow does by itself. -/
def flowDue (s : State) (f : Nat) (x : Flow) : Option Instr :=
  let quiet := netQuiet s
  if !x.comps.isEmpty && quiet then some (.completionEntry f)
  else if !x.inUse || x.error then none
  else if x.held.any (heldReady s x) then some (.releasePerform f)
  else
    match x.paths.find? (fun p => rtoDue s p.2) with
    | some p => some (.rtoExpiry f p.1)
    | none =>
      match x.paths.find? (fun p => retryDue s p.2) with
      | some p => some (.pathRetry f p.1)
      | none =>
        match x.paths.find? (fun p => ackDue s p.2) with
        | some p => some (.ackTimer f p.1)
        | none =>
          if x.entry.testBit 105 && decide (x.pollAt ≤ s.time.tick) then some (.flowPoll f)
          else if (!x.resps.isEmpty || x.reqs.any unsent || x.consumed != x.produced) && (bestPath x).isSome then some (.workRequest f)
          else none

/-- Flows in turn, beginning at one that the cycle names. -/
def dueFlow (s : State) : Option Instr :=
  let n := s.time.cycle / 2 % max 1 s.net.flows.length
  (s.net.flows.drop n ++ s.net.flows.take n).findSome? (fun e => flowDue s e.1 e.2)

def dueRaw (s : State) : Option Instr :=
  (s.net.ports.find? (fun e => e.2.enable && e.2.up && e.2.txprod != e.2.txcons)).map (fun e => .rawSend e.1)

def dueDrive (s : State) : Option Instr :=
  match s.stor.waiting with
  | r :: _ => (match r.walk with
    | some id => if timeoutDue s id then some (.driveServiceTimeout id) else none
    | none => none)
  | [] => none

/-! ### On whose behalf -/

/-- The stage of the thread in a slot. -/
def slotStage (s : State) (c k : Nat) : Option (Nat × Nat) :=
  let t := s.thread c k
  if t.status = .unplaced then none else some (t.place.launch, t.place.node)

/-- The stage of a listed job. -/
def jobStage (s : State) (cl q : Nat) : Option (Nat × Nat) :=
  if q = 0 then (mxChoice s cl).map (fun j => (j.launch, j.node)) else (copyChoice s cl).map (fun j => (j.launch, j.node))

/-- The stage behind a writer id: a thread's, or that of the job that its engine serves (log 113). -/
def writerStage (s : State) (w : Nat) : Option (Nat × Nat) :=
  if w < 16384 then slotStage s (w / 4) (w % 4)
  else if 32768 ≤ w ∧ w < 33792 then jobStage s ((w - 32768) / 2) (w % 2)
  else none

/-- The stage on whose behalf a unit acts in an event (R151); none for what nobody's charter asked for. -/
def eventStage (s : State) : Instr → Option (Nat × Nat)
  | .pathPerform a b i => ((s.mem.path (a * 64 + b * 4 + i)).head?).bind (fun p => writerStage s p.writer)
  | .parkedAnswer c k => slotStage s c k
  | .contentHomeRequest c k => slotStage s c k
  | .sidingIssue c => ((s.core c).seq.head?).bind (fun e => slotStage s c e.slot)
  | .pipeCycle c => ((s.core c).inPipe).bind (fun k => slotStage s c k)
  | .tlbWalk c sp va kind => (((s.core c).slots.find? (fun e => e.2.place.spaceid == sp &&
      decide (e.2.status = .parked (.tlb va.toNat kind))))).bind (fun e => slotStage s c e.1)
  | .copyJobUnit cl => jobStage s cl 1
  | .cnOutJob cl _ => jobStage s cl 1
  | .matrixTile cl => jobStage s cl 0
  | .matrixShadowReplay cl id => (AMap.get (s.cluster cl).mxJobs id).map (fun j => (j.launch, j.node))
  | _ => none

/-! ### Whose turn it is -/

/-- The kinds of event. -/
def dueKinds : List (State → Option Instr) :=
  [duePath, dueDispatch, dueAnswer, dueWalk, dueTagReq, dueTimer, dueSiding, dueBank, dueMsg, dueTree, dueCopy, dueCopyFinal,
   dueMatrix, dueMatrixFinal, dueReplay, dueContent, dueCount, dueReclaim, dueQuery, dueSubmit, duePlacing, dueInstance,
   dueCharter, dueMiss, dueSample, dueMeter, duePreemption, dueHost, dueShot, dueDie, dueFlow, dueRaw, dueDrive]

/-- The event that acts on the agents' turn, if one is due: the kinds take turns by the cycle (log 4). -/
def nextInternal (s : State) : Option Instr :=
  let n := s.time.cycle % dueKinds.length
  (dueKinds.drop n ++ dueKinds.take n).findSome? (fun f => f s)

end Sys2Proof.Machine
end

