-- ==== Sys2Proof/Machine/Step.lean ====
section
/-! DEFINITION. One step of the module: an event of the agenda, one instruction of the acting thread, one due event of
the module's own agents, or an idle cycle (R381; logs 4 and 5). -/

namespace Sys2Proof.Machine

open Sys2Proof

/-- The step is a power-on: the clock starts again (R6; CLOCK in 25 Table 6). -/
def powersOn (s : State) : Bool :=
  match s.agenda with
  | .powerOn _ :: _ => true
  | _ => false

/-- Let time pass after an outcome. -/
def timed (old : State) : Host.Outcome State Fault Refusal → Host.Outcome State Fault Refusal
  | .next s => .next (if powersOn old then { s with time := s.time.advance } else passTime old.time s)
  | .fault r => .fault r
  | .refused r => .refused r

/-- The acting thread's next instruction: an interrupt, the resident stub, or the word at pc. -/
def threadStep (s : State) (c k : Nat) : Host.Outcome State Fault Refusal :=
  let t := s.thread c k
  match pendingIrq t with
  | some i => if effectUnderWay t then runWord s c k else .next (takeIrq s c k i)
  | none => if t.inStub then .next (stubService s c k) else runWord s c k
where
  /-- Fetch, decode and execute the word at pc. -/
  runWord (s : State) (c k : Nat) : Host.Outcome State Fault Refusal :=
    match (if effectUnderWay (s.thread c k) then none else crownTrap (s.thread c k)) with
    | some e => .next (takeCrown s c k e)
    | none =>
    match fetchDecode s c k with
    | .inr e => .next (takeTrap s c k e false)
    | .inl (.trap cause info) =>
      .next (takeTrap (forwardWord s c k) c k { cause := cause, addr := 0, info := BitVec.ofNat 64 info } true)
    | .inl (.instr i) => exec i (forwardWord s c k)

/-- The admitted thread acts, unless its return to lockstep leaves it nothing to run yet (R169, R170). -/
def seatedStep (s : State) (c k : Nat) : Host.Outcome State Fault Refusal :=
  if canRun s c k then threadStep s c k else .next s

/-- The DRAM traffic of what was done is charged to the stage on whose behalf it was (R151). -/
def charged (old : State) (who : Option (Nat × Nat)) : Host.Outcome State Fault Refusal → Host.Outcome State Fault Refusal
  | .next s => .next (chargeDram old.mem who s)
  | .fault r => .fault r
  | .refused r => .refused r

/-- An event, with its traffic charged. -/
def event (i : Instr) (s : State) : Host.Outcome State Fault Refusal := charged s (eventStage s i) (exec i s)

/-- One event or one instruction, before time passes. -/
def act (s : State) : Host.Outcome State Fault Refusal :=
  match s.agenda with
  | i :: rest => event i { s with agenda := rest }
  | [] =>
    match (if s.turn then nextInternal s else none) with
    | some i => event i { s with turn := false }
    | none =>
      match acting s with
      | some (c, k) =>
        if (s.core c).pipe.active then event (.pipeCycle c) { s with turn := true, sched := s.sched.tail, cur := (c, k) }
        else charged s (slotStage s c k) (seatedStep (rejoin (seat { s with turn := true } c k) c k) c k)
      | none =>
        match nextInternal s with
        | some i => event i { s with turn := false }
        | none => .next { s with turn := false, sched := s.sched.tail }

/-- One step of the machine. -/
def step (s : State) : Host.Outcome State Fault Refusal := timed s (act s)

/-- `s` with an instruction of `nbits` bits `w` stored where the next step fetches: thread (0, 0) stands placed, at
handler privilege, with every feature bit and a partition of 64 g and 32 v registers, its pc at the entry of the code
area, and nothing comes before it (log 13). -/
def State.withFetchWord (s : State) (nbits w : Nat) : State :=
  let x := s.core 0
  let t := x.slot 0
  let p : Word := BitVec.ofNat 64 Config.resetPart
  let t1 : Thread := { t with
    pc := 0x2000, priv := true, status := .ready, inStub := false, fresh := false, answer := none, solo := true
    pend := Pending.none, place := { t.place with feat := 0xFFFF } }
  let x1 : Core := { x with
    part := p, sill := BitVec.ofNat 64 (codeEnd p), slots := AMap.set x.slots 0 t1, inPipe := some 0, heldCycles := 0
    pipe := { x.pipe with active := false } }
  let x2 := x1.putBytes 0x2000 (bytesOfWord (BitVec.ofNat 96 (w % 2 ^ nbits)))
  { s with cores := AMap.set s.cores 0 x2, cur := (0, 0), sched := [0], turn := false, agenda := [] }

end Sys2Proof.Machine
end

