-- ==== Sys2Proof/Safety.lean ====
section
/-! DEFINITION. What a safe run is, in the terms claims use. -/

namespace Sys2Proof

open Machine

/-- A step that answers a next state. -/
def Steps (s s' : State) : Prop := step s = .next s'

/-- An outcome is a next state with a property. -/
def Answers (o : Host.Outcome State Fault Refusal) (P : State → Prop) : Prop := ∃ t, o = .next t ∧ P t

/-- A property that every step keeps. -/
def Keeps (P : State → Prop) : Prop := ∀ s s', P s → Steps s s' → P s'

/-- Nothing stops a run from a state for n steps: no fault and no refusal. -/
def RunsFor (n : Nat) (s : State) : Prop := ∃ t, Host.Core.run core n s = .next t

end Sys2Proof
end

