-- ==== Sys2Proof/Certificates/Slice0/Obligations.lean ====
section
/-! DEFINITION. The statements about the model, from the numbered rules of the spec. `Claims` holds the vocabulary the
statements share, written apart from the model's own operations. -/

namespace Sys2Proof.Claims

open Machine

/-! ### Numbers (R80, R197) -/

/-- The low w bits of a register as a signed number. -/
def sx (t : ITy) (x : Word) : Int := (x.setWidth t.width).toInt

/-- The low w bits of a register as an unsigned number. -/
def zx (t : ITy) (x : Word) : Int := ((x.setWidth t.width).toNat : Int)

/-- A source as the flag reads it (R203). -/
def val (t : ITy) (u : Bool) (x : Word) : Int := if u then zx t x else sx t x

/-- A result as R197 writes it: its low w bits, sign-extended. -/
def res (t : ITy) (x : Int) : Word := (BitVec.ofInt t.width x).signExtend 64

/-- Does x lie in the signed range of w bits? -/
def inRange (t : ITy) (x : Int) : Bool := decide (-2 ^ (t.width - 1) ≤ x) && decide (x < 2 ^ (t.width - 1))

/-- The nearest number of the signed range of w bits (R199). -/
def clamp (t : ITy) (x : Int) : Int := max (-2 ^ (t.width - 1)) (min x (2 ^ (t.width - 1) - 1))

/-- Does x lie outside the range, so that a clamp changes it? -/
def clamps (t : ITy) (sa : Bool) (x : Int) : Bool := sa && !inRange t x

/-! ### Completion -/

/-- The instruction retires: pc moves to the next word and nothing else of the machine changes but what `s'` holds. -/
def retired (h : Hdr) (s s' : State) : Host.Outcome State Fault Refusal := .next (retire s' (s.me.pc + 12) h.yields)

/-- The acting thread's fflags gain a mask. -/
def flagged (s : State) (m : BitVec 6) : State :=
  s.modMe (fun t => { t with ctl := { t.ctl with fflags := t.ctl.fflags ||| m } })

/-- R202: the exact integer x is wrapped, or clamped with fflags[5] set when the clamp changes it. -/
def wrapsOrClamps (h : Hdr) (t : ITy) (sa : Bool) (a : Fin 64) (s : State) (x : Int) : Host.Outcome State Fault Refusal :=
  if clamps t sa x then retired h s ((flagged s 0x20).wrG a.val (res t (clamp t x)))
  else retired h s (s.wrG a.val (res t x))

end Sys2Proof.Claims

open Sys2Proof Sys2Proof.Machine Sys2Proof.Claims

/-- R202: `add`, `sub`, `mul`, `mad`, `abs` and `shl` form an exact integer and wrap it, or clamp it under `.sat`. -/
def Obligations.IntegerWrapOrSaturate : Prop :=
  ∀ (h : Hdr) (t : ITy) (sa : Bool) (a b : Fin 64) (c : GSrc) (s : State), guardHolds s h = true →
    let x := sx t (s.rdG b.val)
    let y := sx t (readGSrc s c)
    let n := (readGSrc s c).toNat % t.width
    exec (.add h t sa a b c) s = wrapsOrClamps h t sa a s (x + y) ∧
    exec (.sub h t sa a b c) s = wrapsOrClamps h t sa a s (x - y) ∧
    exec (.mul h t sa a b c) s = wrapsOrClamps h t sa a s (x * y) ∧
    exec (.mad h t sa a b c) s = wrapsOrClamps h t sa a s (sx t (s.rdG a.val) * x + y) ∧
    exec (.abs h t sa a b) s = wrapsOrClamps h t sa a s (if x < 0 then -x else x) ∧
    exec (.shl h t sa a b c) s = wrapsOrClamps h t sa a s (x * 2 ^ n)

/-- R203: `mulh`, `div` and `rem` under both readings, with both borderline cases. -/
def Claims.MultiplyHighAndDivide : Prop :=
  ∀ (h : Hdr) (t : ITy) (u : Bool) (a b : Fin 64) (c : GSrc) (s : State), guardHolds s h = true →
    let x := val t u (s.rdG b.val)
    let y := val t u (readGSrc s c)
    let spills : Bool := !u && decide (x = -2 ^ (t.width - 1)) && decide (y = -1)
    let q : Int := if y = 0 then -1 else if spills then x else Int.tdiv x y
    let m : Int := if y = 0 then x else if spills then 0 else Int.tmod x y
    exec (.mulh h t u a b c) s = retired h s (s.wrG a.val (res t (Int.fdiv (x * y) (2 ^ t.width)))) ∧
    exec (.div h t u a b c) s = retired h s (s.wrG a.val (res t q)) ∧
    exec (.rem h t u a b c) s = retired h s (s.wrG a.val (res t m))

/-- R204 (Table 3): the logic, shift, rotation, minimum, maximum and counting results. A rotation moves bit i to bit
(i + n) mod w; the counts are described by the bits themselves. -/
def Claims.LogicShiftAndCount : Prop :=
  ∀ (h : Hdr) (t : ITy) (u : Bool) (a b : Fin 64) (c : GSrc) (s : State), guardHolds s h = true →
    let x := s.rdG b.val
    let y := readGSrc s c
    let w := t.width
    let n := y.toNat % w
    let puts (r : BitVec w) : Host.Outcome State Fault Refusal := retired h s (s.wrG a.val (r.signExtend 64))
    exec (.and h t a b c) s = puts ((x &&& y).setWidth w) ∧
    exec (.or h t a b c) s = puts ((x ||| y).setWidth w) ∧
    exec (.xor h t a b c) s = puts ((x ^^^ y).setWidth w) ∧
    exec (.andn h t a b c) s = puts ((x &&& ~~~y).setWidth w) ∧
    exec (.shr h t u a b c) s = puts (if u then (x.setWidth w) >>> n else (x.setWidth w).sshiftRight n) ∧
    exec (.rot h t a b c) s = puts ((x.setWidth w).rotateLeft n) ∧
    exec (.min h t u a b c) s = puts (BitVec.ofInt w (min (val t u x) (val t u y))) ∧
    exec (.max h t u a b c) s = puts (BitVec.ofInt w (max (val t u x) (val t u y))) ∧
    (∃ k, exec (.clz h t a b) s = puts (BitVec.ofNat w k) ∧ k ≤ w ∧ (∀ i, w - k ≤ i → i < w → x.getLsbD i = false) ∧
      (k < w → x.getLsbD (w - 1 - k) = true)) ∧
    (∃ k, exec (.ctz h t a b) s = puts (BitVec.ofNat w k) ∧ k ≤ w ∧ (∀ i, i < k → x.getLsbD i = false) ∧
      (k < w → x.getLsbD k = true)) ∧
    exec (.pop h t a b) s = puts (BitVec.ofNat w ((List.range w).countP (fun i => x.getLsbD i)))

/-- R205, R206: `bext` and `bins` bit by bit, and `ext`. Field bits above bit 63 read as zero and are not written. -/
def Claims.BitFieldsAndExtension : Prop :=
  ∀ (h : Hdr) (t : ITy) (u : Bool) (a b : Fin 64) (c : GSrc) (s : State), guardHolds s h = true →
    let x := s.rdG b.val
    let pos := (readGSrc s c).toNat % 64
    let len := (readGSrc s c).toNat / 64 % 64 + 1
    (∃ r : Word, exec (.bext h u a b c) s = retired h s (s.wrG a.val r) ∧
      ∀ i, i < 64 → r.getLsbD i = if i < len then x.getLsbD (pos + i) else !u && x.getLsbD (pos + len - 1)) ∧
    (∃ r : Word, exec (.bins h a b c) s = retired h s (s.wrG a.val r) ∧
      ∀ i, i < 64 → r.getLsbD i = if pos ≤ i ∧ i < pos + len then x.getLsbD (i - pos) else (s.rdG a.val).getLsbD i) ∧
    exec (.extI h t u a b) s = retired h s
      (s.wrG a.val (if u then (x.setWidth t.width).setWidth 64 else (x.setWidth t.width).signExtend 64))

/-- R203, R204, R205, R206: the remaining integer results: high products, division, logic, shifts, counts, bit fields and extension. -/
def Obligations.IntegerResults : Prop := Claims.MultiplyHighAndDivide ∧ Claims.LogicShiftAndCount ∧ Claims.BitFieldsAndExtension

/-- R207, R208: moves, immediates, the pc-relative offset and selection. -/
def Claims.MovesAndSelection : Prop :=
  ∀ (h : Hdr) (a b : Fin 64) (c : GSrc) (k : BitVec 40) (o : BitVec 20) (n : Fin 8) (u : Bool) (s : State),
    guardHolds s h = true →
    exec (.mov h a c) s = retired h s (s.wrG a.val (readGSrc s c)) ∧
    exec (.li h a k) s = retired h s (s.wrG a.val (BitVec.ofInt 64 k.toInt)) ∧
    exec (.lih h a k) s = retired h s (s.wrG a.val (BitVec.ofInt 64 ((s.rdG a.val).toInt + k.toInt * 2 ^ 40))) ∧
    exec (.lpc h a o) s = retired h s (s.wrG a.val (BitVec.ofInt 64 (s.me.pc.toInt + o.toInt))) ∧
    exec (.sel h n u a b c) s = retired h s (s.wrG a.val (if (s.rdP n.val ^^ u) then s.rdG b.val else readGSrc s c))

/-- R210 (Table 5): a condition on the two numbers, or on the masked conjunction. -/
def Claims.outcome (t : ITy) (u : Bool) (x y : Word) : Cond → Prop
  | .eq => val t u x = val t u y
  | .ne => val t u x ≠ val t u y
  | .lt => val t u x < val t u y
  | .le => val t u x ≤ val t u y
  | .gt => val t u y < val t u x
  | .ge => val t u y ≤ val t u x
  | .tst => (x &&& y).setWidth t.width ≠ 0

/-- R211 (Table 6): the eight predicate operations by number. -/
def Claims.plogic (n : Nat) (a b : Bool) : Bool :=
  [a && b, a || b, a ^^ b, a && !b, a || !b, !(a && b), !(a || b), !(a ^^ b)].getD n false

/-- R210, R211, R212: compares, predicate logic and the moves between predicates and g registers. -/
def Claims.Predicates : Prop :=
  ∀ (h : Hdr) (t : ITy) (n : Cond) (k : Fin 8) (u : Bool) (d e f : Fin 8) (a b : Fin 64) (c : GSrc) (s : State),
    guardHolds s h = true →
    (∃ v, exec (.cmp h t n u d b c) s = retired h s (s.wrP d.val v) ∧
      (v = true ↔ Claims.outcome t u (s.rdG b.val) (readGSrc s c) n)) ∧
    exec (.plog h k d e f) s = retired h s (s.wrP d.val (Claims.plogic k.val (s.rdP e.val) (s.rdP f.val))) ∧
    exec (.pmov h u d (.p e)) s = retired h s (s.wrP d.val (s.rdP e.val ^^ u)) ∧
    exec (.pmov h u d (.g b)) s = retired h s (s.wrP d.val (decide (s.rdG b.val ≠ 0) ^^ u)) ∧
    (∀ i : BitVec 20, exec (.pmov h u d (.imm i)) s = retired h s (s.wrP d.val (decide (i ≠ 0) ^^ u))) ∧
    exec (.pget h a e) s = retired h s (s.wrG a.val (if s.rdP e.val then 1 else 0))

/-- R207, R208, R210, R211, R212: moves, selection and predicates. -/
def Obligations.MovesAndPredicates : Prop := Claims.MovesAndSelection ∧ Claims.Predicates

/-- R213, R214: the condition of a branch; an omitted predicate reads p0. -/
def Claims.taken (s : State) (u : Bool) : Option (Fin 8) → Bool
  | none => !u
  | some q => s.rdP q.val ^^ u

/-- R214, R215: branches and jumps of a thread that no leader decides for. Sources are read before the link and the
counter are written. -/
def Obligations.BranchesAndJumps : Prop :=
  ∀ (h : Hdr) (u : Bool) (p : Option (Fin 8)) (a b : Fin 64) (c : GSrc) (k : BitVec 20) (s : State),
    guardHolds s h = true → s.me.follower = false →
    let taken := Claims.taken s u p
    let next := s.me.pc + 12
    let near := s.me.pc + BitVec.ofInt 64 (12 * k.toInt)
    let far := s.rdG b.val + readGSrc s c
    let n := s.rdG a.val - 1
    let goes (s' : State) (pc : Word) : Host.Outcome State Fault Refusal := .next (retire s' pc h.yields)
    exec (.br h u p k) s = goes s (if taken then near else next) ∧
    exec (.brl h u p k) s = goes (s.wrG 63 next) (if taken then near else next) ∧
    exec (.jr h u p b c) s = goes s (if taken then far else next) ∧
    exec (.jrl h u p b c) s = goes (s.wrG 63 next) (if taken then far else next) ∧
    exec (.dbr h a k) s = goes (s.wrG a.val n) (if n = 0 then next else near)

/-- R171: a lockstep follower takes trap 0x0E in place of a branch whose outcome differs from its leader's, with the
leader's next pc in xaddr and its own position in xinfo, and the link and the counter unwritten. -/
def Obligations.FollowerDivergence : Prop :=
  ∀ (h : Hdr) (u : Bool) (p : Option (Fin 8)) (k : BitVec 20) (s : State) (e : Forward) (rest : List Forward) (n : Word),
    guardHolds s h = true → s.me.follower = true → s.me.fwd = e :: rest → e.next = some n →
    let taken := Claims.taken s u p
    let pc := if taken then s.me.pc + BitVec.ofInt 64 (12 * k.toInt) else s.me.pc + 12
    let diverges : TrapInfo := { cause := 0x0E, addr := n, info := BitVec.ofNat 64 s.me.place.gpos }
    exec (.br h u p k) s = .next (if n = pc then retire s pc h.yields else takeTrap s s.cur.1 s.cur.2 diverges true) ∧
    exec (.brl h u p k) s = .next (if n = pc then retire (s.wrG 63 (s.me.pc + 12)) pc h.yields
      else takeTrap s s.cur.1 s.cur.2 diverges true)

/-! ### Control registers and system instructions -/

/-- The registers that Table 6 of 04 marks with a dash for user privilege. -/
def Claims.handlerOnly (n : CtlNum) : Bool := [.xpc, .xcause, .xaddr, .xinfo, .xvec, .xstat, .xscratch].contains n

/-- The registers that wait for the vector siding, which are also those that user privilege writes (R220, 04 Table 6). -/
def Claims.sidingReg (n : CtlNum) : Bool := [.frm, .fflags, .srseed].contains n

/-- The registers that are RO at both privileges (04 Table 6). -/
def Claims.readOnly (n : CtlNum) : Bool :=
  [.pc, .slot, .coord, .part, .charter, .gang, .feat, .spaceid, .gen, .deadline, .clock, .cycles, .energy, .region,
   .transom, .tstate, .tentry, .treplays].contains n

/-- What acting on a control register needs: the privilege, and the siding's quiet where it matters (R217, R220). -/
def Claims.ctlReady (s : State) (n : CtlNum) : Prop :=
  (Claims.handlerOnly n = true → s.me.priv = true) ∧ (Claims.sidingReg n = true → sidingIdle s s.cur.1 s.cur.2 = true)

/-- The value a register holds after a write of v (R219, Table 9; R163, R221, R426), from the value o it held. -/
def Claims.stored (s : State) (n : CtlNum) (o v : Word) : Word :=
  match n with
  | .sill =>
    let x := v &&& ~~~3
    if x.toNat < 0x2000 then 0x2000
    else if 0x2000 + 4096 * partCode (s.core s.cur.1).part < x.toNat
    then BitVec.ofNat 64 (0x2000 + 4096 * partCode (s.core s.cur.1).part) else x
  | .xcause => v &&& 0xFF
  | .xvec => v &&& ~~~3
  | .xstat => (v &&& 0x307) ||| (o &&& 0x30)
  | .frm => if (v &&& 7) = 6 ∨ (v &&& 7) = 7 then o else v &&& 7
  | .fflags => v &&& 0x3F
  | .blind => if upperDie s.cur.1 then (v &&& 0x100) ||| 1 else o
  | .deadmsg => if (stageNode s s.me).isSome then v else o
  | .xpc | .xaddr | .xinfo | .xscratch | .ptime | .srseed | .rsplits => v
  | _ => o

/-- After a write of v to n every register reads as Table 9 says: n its stored value, the others what they read before;
a write of ptime may also withdraw a pending timer interrupt, which xstat shows. -/
def Claims.writes (h : Hdr) (s : State) (n : CtlNum) (v : Word) (o : Host.Outcome State Fault Refusal) : Prop :=
  ∃ s', o = retired h s s' ∧
    ∀ m, ctlRead s' s.cur.1 s.cur.2 m =
      if m = n then Claims.stored s n (ctlRead s s.cur.1 s.cur.2 n) v
      else if m = .xstat ∧ n = .ptime then ctlRead s s.cur.1 s.cur.2 m &&& ~~~0x10
      else ctlRead s s.cur.1 s.cur.2 m

/-- R218, R219: at handler privilege `ctl.rd` reads a register, and `ctl.wr`, `ctl.set` and `ctl.clr` write the value,
the value or'ed in and the value cleared, under Table 9. -/
def Claims.ControlRegistersAtHandlerPrivilege : Prop :=
  ∀ (h : Hdr) (a : Fin 64) (n : CtlNum) (c : GSrc) (s : State), guardHolds s h = true → s.me.priv = true →
    Claims.ctlReady s n →
    let o := ctlRead s s.cur.1 s.cur.2 n
    exec (.ctlRd h a n) s = retired h s (s.wrG a.val o) ∧
    Claims.writes h s n (readGSrc s c) (exec (.ctlWr h n c) s) ∧
    Claims.writes h s n (o ||| readGSrc s c) (exec (.ctlSet h n c) s) ∧
    Claims.writes h s n (o &&& ~~~(readGSrc s c)) (exec (.ctlClr h n c) s)

/-- R78, R217, R218: at user privilege a register marked with a dash traps with 0x03 and the opcode and number in xinfo
(R77), whatever the guard; every other reads; and only frm, fflags and srseed are written. -/
def Claims.ControlRegistersAtUserPrivilege : Prop :=
  ∀ (h : Hdr) (a : Fin 64) (n : CtlNum) (c : GSrc) (s : State), s.me.priv = false →
    let denied (op : Nat) : Host.Outcome State Fault Refusal :=
      .next (takeTrap s s.cur.1 s.cur.2 { cause := 0x03, addr := 0, info := BitVec.ofNat 64 (op + 256 * n.num) } true)
    let o := ctlRead s s.cur.1 s.cur.2 n
    if Claims.handlerOnly n then
      exec (.ctlRd h a n) s = denied 0x26 ∧ exec (.ctlWr h n c) s = denied 0x27 ∧
      exec (.ctlSet h n c) s = denied 0x28 ∧ exec (.ctlClr h n c) s = denied 0x29
    else guardHolds s h = true → Claims.ctlReady s n →
      exec (.ctlRd h a n) s = retired h s (s.wrG a.val o) ∧
      (Claims.sidingReg n = true → Claims.writes h s n (readGSrc s c) (exec (.ctlWr h n c) s) ∧
        Claims.writes h s n (o ||| readGSrc s c) (exec (.ctlSet h n c) s) ∧
        Claims.writes h s n (o &&& ~~~(readGSrc s c)) (exec (.ctlClr h n c) s)) ∧
      (Claims.sidingReg n = false → exec (.ctlWr h n c) s = retired h s s ∧ exec (.ctlSet h n c) s = retired h s s ∧
        exec (.ctlClr h n c) s = retired h s s)

/-- R78, R217, R218, R219: control registers at both privileges. -/
def Obligations.ControlRegisters : Prop := Claims.ControlRegistersAtHandlerPrivilege ∧ Claims.ControlRegistersAtUserPrivilege

/-- The unsigned 20 bits of an optional immediate. -/
def Claims.imm20 : Option (BitVec 20) → Word
  | none => 0
  | some v => v.setWidth 64

/-- R223, R225, R226, R227, R430: `trap` and `sysc` raise their causes with the immediate; `eret` and `halt` need handler
privilege; `eret` goes to xpc with the saved privilege and ie, or, from the handler of a budget trap, ends the instance
(R152); `halt` ends the instance with the value of xcause;
`nop` only retires, and `yield` also leaves the pipe. -/
def Obligations.SystemInstructions : Prop :=
  ∀ (h : Hdr) (c : Option (BitVec 20)) (s : State),
    let raises (cause : Nat) (info : Word) : Host.Outcome State Fault Refusal :=
      .next (takeTrap s s.cur.1 s.cur.2 { cause := cause, addr := 0, info := info } true)
    (s.me.priv = false → exec (.eret h) s = raises 0x03 0x2B ∧ exec (.halt h) s = raises 0x03 0x2D) ∧
    (guardHolds s h = true →
      exec (.trap h c) s = raises 0x14 (Claims.imm20 c) ∧
      exec (.sysc h c) s = raises 0x13 (Claims.imm20 c) ∧
      exec (.nop h) s = retired h s s ∧
      (∃ t, exec (.yieldI h) s = .next t ∧ t = retire s (s.me.pc + 12) true ∧ (t.core s.cur.1).inPipe = none) ∧
      (s.me.priv = true → s.me.tol.isOpen = true → exec (.halt h) s = raises 0x0D 6) ∧
      (s.me.priv = true → s.me.tol.isOpen = false →
        exec (.halt h) s = .next (faultInstance s s.cur.1 s.cur.2 s.me.ctl.xcause.toNat)) ∧
      (s.me.priv = true → s.me.fatalRet = true → s.me.ctl.xcause = 0x12 →
        exec (.eret h) s = .next (faultInstance s s.cur.1 s.cur.2 0x12)) ∧
      (s.me.priv = true → (s.me.fatalRet = false ∨ s.me.ctl.xcause ≠ 0x12) →
        ∃ t, exec (.eret h) s = .next t ∧ t.me.pc = s.me.ctl.xpc ∧ t.me.priv = s.me.ctl.ppriv ∧
          t.me.ctl = { s.me.ctl with ie := s.me.ctl.pie } ∧ t.me.g = s.me.g ∧ t.me.p = s.me.p ∧ t.me.b = s.me.b ∧
          t.me.v = s.me.v ∧ t.mem = s.mem))

/-! ### Traps and interrupts -/

/-- The registers, the other state of the thread a handler sees, and all memory stay (R427). -/
def Claims.keepsData (s t : State) (c k : Nat) : Prop :=
  (t.thread c k).g = (s.thread c k).g ∧ (t.thread c k).p = (s.thread c k).p ∧ (t.thread c k).b = (s.thread c k).b ∧
  (t.thread c k).v = (s.thread c k).v ∧ (t.thread c k).ctl.xscratch = (s.thread c k).ctl.xscratch ∧
  (t.thread c k).ctl.fflags = (s.thread c k).ctl.fflags ∧ (t.thread c k).ctl.frm = (s.thread c k).ctl.frm ∧
  (t.thread c k).ctl.xvec = (s.thread c k).ctl.xvec ∧ t.mem = s.mem ∧ ∀ d, (t.core d).pool = (s.core d).pool

/-- The entry of a handler (R427): what is saved, where pc goes and how the privilege changes. -/
def Claims.enters (s t : State) (c k : Nat) (epc addr info : Word) (cause : Nat) : Prop :=
  (t.thread c k).ctl.xpc = epc ∧ (t.thread c k).ctl.xcause = BitVec.ofNat 8 cause ∧ (t.thread c k).ctl.xaddr = addr ∧
  (t.thread c k).ctl.xinfo = info ∧ (t.thread c k).ctl.ppriv = (s.thread c k).priv ∧
  (t.thread c k).ctl.pie = (s.thread c k).ctl.ie ∧ (t.thread c k).ctl.ie = false ∧ (t.thread c k).priv = true ∧
  (if (s.thread c k).ctl.xvec = 0 then (t.thread c k).inStub = true
   else (t.thread c k).inStub = false ∧ (t.thread c k).pc = (s.thread c k).ctl.xvec)

/-- R427: taking a trap, for every cause and in every gang, once an instruction of the last handler has retired. -/
def Obligations.TrapEntry : Prop :=
  ∀ (s : State) (c k : Nat) (t : TrapInfo) (f : Bool), (s.thread c k).fresh = false →
    Claims.enters s (takeTrap s c k t f) c k (s.thread c k).pc t.addr t.info t.cause ∧
    Claims.keepsData s (takeTrap s c k t f) c k

/-- R427, R125: an interrupt is entered the same way with xaddr 0; at user privilege inside an open tolerant region xpc
is the pc of the region's `demand`, and what the region held is dropped while it stays open. -/
def Obligations.InterruptEntry : Prop :=
  ∀ (s : State) (c k cause : Nat) (info : Word),
    let back := (s.thread c k).tol.isOpen && !(s.thread c k).priv
    let t := takeInterrupt s c k cause info
    Claims.enters s t c k (if back then (s.thread c k).tol.tentry else (s.thread c k).pc) 0 info cause ∧
    Claims.keepsData s t c k ∧ (t.thread c k).tol = (s.thread c k).tol ∧
    (back = true → (t.thread c k).rgn.held = [] ∧ (t.thread c k).rgn.reads = [] ∧ (t.thread c k).rgn.written = [])

/-- R428: a trap before the handler's first instruction has retired ends the instance: the slot is no longer placed, and
the space's log gains the entry with the second trap's cause, information, address and pc. -/
def Obligations.DoubleTrap : Prop :=
  ∀ (s : State) (c k : Nat) (t : TrapInfo) (f : Bool), (s.thread c k).fresh = true →
    (gangMembers s (s.thread c k).place.gang = [] ∨ (c, k) ∈ gangMembers s (s.thread c k).place.gang) →
    let th := s.thread c k
    let u := takeTrap s c k t f
    (u.thread c k).status = .unplaced ∧
    AMap.getD u.mgmt.logs th.place.spaceid [] = AMap.getD s.mgmt.logs th.place.spaceid [] ++
      (toBytes 8 t.cause ++ toBytes 8 t.info.toNat ++ toBytes 8 t.addr.toNat ++ toBytes 8 th.pc.toNat)

/-! ### Loads and stores (13) -/

/-- Address a is offset o of the acting core's own pool, n bytes there lie below the pool limit and, at user privilege,
not below the sill; no closed shutter and no pending `vst` covers them (R231, R164, R299, R326). -/
def Claims.poolOpen (s : State) (a : Word) (o n : Nat) : Prop :=
  a = BitVec.ofNat 64 (0xFE * 2 ^ 56 + o) ∧ o < 2 ^ 40 ∧ o + n ≤ poolLimit s.myCore.part ∧
  (s.me.priv = false → s.myCore.sill.toNat ≤ o) ∧ poolShut s.myCore o n = false ∧ vstPending s a.toNat n = false

/-- The bytes may be read: no poison, and no line that a tolerant pass has written (R237, R122). -/
def Claims.poolReadable (s : State) (a : Word) (o n : Nat) : Prop :=
  Claims.poolOpen s a o n ∧ s.myCore.poisoned o n = false ∧ tolRead s s.cur.1 o n = false

/-- A loaded value of n bytes (R269). -/
def Claims.loaded (u : Bool) (n x : Nat) : Word :=
  if u then BitVec.ofNat 64 (x % 256 ^ n) else (BitVec.ofNat (8 * n) x).signExtend 64

/-- R258, R269, R270: an aligned load, or pair, from the own pool. -/
def Obligations.OwnPoolLoads : Prop :=
  ∀ (h : Hdr) (t : ITy) (q : PTy) (u : Bool) (d e : Fin 64) (m : Mem) (s : State) (o : Nat), guardHolds s h = true →
    let n := t.width / 8
    let k := pBytes q
    (o % n = 0 → Claims.poolReadable s (memAddr s m n) o n →
      exec (.ld h t u d m) s = retired h s (s.wrG d.val (Claims.loaded u n (s.myCore.num o n)))) ∧
    (o % (2 * k) = 0 → Claims.poolReadable s (memAddr s m k) o (2 * k) →
      exec (.ldPair h q u d e m) s = retired h s ((s.wrG d.val (Claims.loaded u k (s.myCore.num o k))).wrG e.val
        (Claims.loaded u k (s.myCore.num (o + k) k))))

/-- The written-line set has room for the line of offset o, or the write is not counted (R121). -/
def Claims.lineRoom (s : State) (o : Nat) : Prop :=
  s.me.tol.isOpen = false ∨ s.me.priv = true ∨ inScratch s.myCore.part o 1 = false ∨
  (s.cur.1 * 2 ^ 40 + o / 64 * 64) ∈ s.me.rgn.written ∨ s.me.rgn.written.length < 64

/-- Every byte of module DRAM, under every key slot, and of host memory reads as before. -/
def Claims.sameMem (s t : State) : Prop :=
  t.mem.dram = s.mem.dram ∧ t.mem.keys = s.mem.keys ∧ t.mem.keyGen = s.mem.keyGen ∧ t.mem.host = s.mem.host

/-- After a store only the bytes [o, o + bs.length) of the acting core's pool differ, and they read as stored. -/
def Claims.storedOnly (s t : State) (o : Nat) (bs : List Byte) : Prop :=
  t.myCore.bytes o bs.length = bs ∧
  (∀ x, x < o ∨ o + bs.length ≤ x → Cells.get t.myCore.pool x = Cells.get s.myCore.pool x) ∧
  (∀ c, c ≠ s.cur.1 → (t.core c).pool = (s.core c).pool) ∧ Claims.sameMem s t

/-- The registers and the control registers of the acting thread stay, and pc moves to the next word. -/
def Claims.onlyPc (s t : State) : Prop :=
  t.cur = s.cur ∧ t.me.pc = s.me.pc + 12 ∧ t.me.g = s.me.g ∧ t.me.p = s.me.p ∧ t.me.b = s.me.b ∧ t.me.v = s.me.v ∧
  t.me.ctl = s.me.ctl ∧ t.me.priv = s.me.priv ∧ t.me.place = s.me.place

/-- R269, R270, R282: an aligned store, or pair, to the own pool writes its low bytes there and nothing else, whether
or not the bytes held poison. -/
def Obligations.OwnPoolStores : Prop :=
  ∀ (h : Hdr) (t : ITy) (q : PTy) (m : Mem) (x : GSrc) (b c : Fin 64) (s : State) (o : Nat), guardHolds s h = true →
    s.memWf = true → Claims.lineRoom s o →
    let n := t.width / 8
    let k := pBytes q
    (o % n = 0 → Claims.poolOpen s (memAddr s m n) o n →
      ∃ u, exec (.st h t m x) s = .next u ∧ Claims.onlyPc s u ∧
        Claims.storedOnly s u o (toBytes n (readGSrc s x).toNat)) ∧
    (o % (2 * k) = 0 → Claims.poolOpen s (memAddr s m k) o (2 * k) →
      ∃ u, exec (.stPair h q m b c) s = .next u ∧ Claims.onlyPc s u ∧
        Claims.storedOnly s u o (toBytes k (s.rdG b.val).toNat ++ toBytes k (s.rdG c.val).toNat))

/-- R258, R259: a misaligned address traps with 0x04, the address in xaddr and the alignment in xinfo, before any other
execution fault and whatever the address names. -/
def Claims.MisalignedAccess : Prop :=
  ∀ (h : Hdr) (t : ITy) (q : PTy) (n : Scope) (u : Bool) (d e : Fin 64) (m : Mem) (x : GSrc) (s : State),
    guardHolds s h = true →
    let k := t.width / 8
    let a := memAddr s m k
    let j := pBytes q
    let b := memAddr s m j
    let traps (a : Word) (n : Nat) : Host.Outcome State Fault Refusal :=
      .next (takeTrap s s.cur.1 s.cur.2 { cause := 0x04, addr := a, info := BitVec.ofNat 64 n } true)
    (a.toNat % k ≠ 0 → exec (.ld h t u d m) s = traps a k ∧ exec (.st h t m x) s = traps a k ∧
      exec (.ldAcq h t n u d m) s = traps a k ∧ exec (.stRel h t n m x) s = traps a k) ∧
    (b.toNat % j ≠ 0 → exec (.ldWf h q true u d m) s = traps b j ∧ exec (.ldWf h q false u d m) s = traps b j ∧
      exec (.stWe h q m x) s = traps b j) ∧
    (b.toNat % (2 * j) ≠ 0 → exec (.ldPair h q u d e m) s = traps b (2 * j) ∧
      exec (.stPair h q m d e) s = traps b (2 * j)) ∧
    ((memAddr s m 8).toNat % 64 ≠ 0 → exec (.tagRd h d m) s = traps (memAddr s m 8) 64 ∧
      exec (.tagFull h m x) s = traps (memAddr s m 8) 64 ∧ exec (.tagEmpty h m x) s = traps (memAddr s m 8) 64)

/-- R231, R164: an own-pool access that reaches past the pool limit traps with 0x0A and the window in xinfo; below the
sill it traps at user privilege with 0x09. -/
def Claims.PoolBounds : Prop :=
  ∀ (h : Hdr) (t : ITy) (u : Bool) (d : Fin 64) (m : Mem) (x : GSrc) (s : State) (o : Nat), guardHolds s h = true →
    let n := t.width / 8
    let a := memAddr s m n
    let traps (cause : Nat) : Host.Outcome State Fault Refusal :=
      .next (takeTrap s s.cur.1 s.cur.2 { cause := cause, addr := a, info := 0 } true)
    a = BitVec.ofNat 64 (0xFE * 2 ^ 56 + o) → o < 2 ^ 40 → o % n = 0 →
    (poolLimit s.myCore.part < o + n → exec (.ld h t u d m) s = traps 0x0A ∧ exec (.st h t m x) s = traps 0x0A) ∧
    (o + n ≤ poolLimit s.myCore.part → s.me.priv = false → o < s.myCore.sill.toNat →
      exec (.ld h t u d m) s = traps 0x09 ∧ exec (.st h t m x) s = traps 0x09)

/-- R258, R231, R164: the accesses to a pool that trap: misaligned ones, ones beyond the pool limit, and ones below the sill. -/
def Obligations.PoolAccessTraps : Prop := Claims.MisalignedAccess ∧ Claims.PoolBounds

/-- No line that the acting thread holds lost its page (R255). -/
def Claims.noneGone (s : State) : Prop := ∀ e ∈ s.me.rgn.held, e.2.gone = false

/-- A global address whose translation the core's TLB holds. -/
def Claims.tlbHit (s : State) (a : Word) (kind : WalkKind) (tr : Trans) : Prop :=
  decodeAddr a = .global ∧ canonical a.toNat = true ∧ Claims.noneGone s ∧
  ∃ e, s.myCore.tlb.find? (fun e => e.serves s.me.place.spaceid false .compute kind (a.toNat % 2 ^ 57)) = some e ∧
    tr = e.trans (a.toNat % 2 ^ 57)

/-- A translated address in module DRAM with nothing in the way of an access. -/
def Claims.globalOpen (s : State) (a : Word) (n : Nat) (kind : WalkKind) (tr : Trans) : Prop :=
  Claims.tlbHit s a kind tr ∧ tr.host = false ∧ globalShut s.myCore a.toNat n = false ∧
  vstPending s a.toNat n = false ∧ vstMeets s tr.pa n = false

/-- R262, R263, R264: a load that hits the near cache takes its bytes from the line, with none of the thread's own writes
on their way; at user privilege a load of a checked page also joins the read set with the line's version. -/
def Obligations.GlobalLoads : Prop :=
  ∀ (h : Hdr) (t : ITy) (u : Bool) (d : Fin 64) (m : Mem) (s : State) (tr : Trans) (x : NearLine), guardHolds s h = true →
    let n := t.width / 8
    let a := memAddr s m n
    a.toNat % n = 0 → Claims.globalOpen s a n .read tr → dieHeld s (lineDie tr.line) = false →
    redPending s s.cur.1 s.cur.2 tr.line tr.off n = false → answerFor s a 0 = none →
    (∀ i, i < n → ownByte s s.cur.1 s.cur.2 tr.line (tr.off + i) = none) →
    AMap.get s.myCore.near (nearIdx tr.key tr.line) = some x → x.key = tr.key →
    nearPoison x (baseWords s s.cur.1 s.cur.2 tr.line tr.off n) = false →
    tr.off + n ≤ x.bytes.length → 0 < n →
    let v := Claims.loaded u n (ofBytes ((x.bytes.drop tr.off).take n))
    ((tr.checked = false ∨ tr.content = true ∨ s.me.priv = true) →
      exec (.ld h t u d m) s = retired h s (s.wrG d.val v)) ∧
    (tr.checked = true → tr.content = false → s.me.priv = false → AMap.get s.me.rgn.reads tr.line = none →
      s.me.rgn.reads.length < 64 →
      ∃ w, exec (.ld h t u d m) s = .next w ∧ w.me.rdG d.val = (if d.val = 0 then 0 else v) ∧
        w.me.pc = s.me.pc + 12 ∧ w.mem = s.mem ∧
        (∃ r, AMap.get w.me.rgn.reads tr.line = some r ∧ r.rv = x.fv ∧
          ∀ i, i < 16 → (r.mask.testBit i = true ↔ tr.off / 4 ≤ i ∧ i * 4 < tr.off + n)))

/-- R263, R264: at user privilege a store to a checked page is held in the region buffer; every other store enters the
write queue, which has room for it in the core's 32 entries, and leaves the held bytes and the read set. No memory
changes yet. -/
def Obligations.GlobalStores : Prop :=
  ∀ (h : Hdr) (t : ITy) (m : Mem) (x : GSrc) (s : State) (tr : Trans), guardHolds s h = true →
    let n := t.width / 8
    let a := memAddr s m n
    let bs := toBytes n (readGSrc s x).toNat
    a.toNat % n = 0 → Claims.globalOpen s a n .write tr →
    (tr.checked = true → s.me.priv = false →
      ((AMap.get s.me.rgn.held tr.line).isSome = true ∨ s.me.rgn.held.length < 64) →
      ∃ w l, exec (.st h t m x) s = .next w ∧ Claims.onlyPc s w ∧ w.mem = s.mem ∧ w.me.wq = s.me.wq ∧
        AMap.get w.me.rgn.held tr.line = some l ∧
        (∀ i, i < n → AMap.get l.bytes (tr.off + i) = bs[i]?) ∧
        (∀ hl, hl ≠ tr.line → AMap.get w.me.rgn.held hl = AMap.get s.me.rgn.held hl)) ∧
    ((tr.checked = false ∨ s.me.priv = true) → wqFull s.myCore = false →
      ∃ w, exec (.st h t m x) s = .next w ∧ Claims.onlyPc s w ∧ w.mem = s.mem ∧ w.me.rgn.reads = s.me.rgn.reads ∧
        w.me.rgn.written = s.me.rgn.written ∧ w.me.rgn.conflict = s.me.rgn.conflict ∧
        (∀ hl, (AMap.get w.me.rgn.held hl).map HeldLine.bytes = (AMap.get s.me.rgn.held hl).map HeldLine.bytes) ∧
        w.me.wq = s.me.wq ++ [{ host := false, line := tr.line, off := tr.off, checked := tr.checked,
                                 key := tr.key, op := .store bs }])

/-! ### Regions, acquires and releases (13, 19) -/

/-- R266, R267: a close finds the first conflicting line in address order and then drains nothing, or it drains every
held line into the path to its home under a new committed version and opens an empty region. A pending conflict is
reported again. -/
def Claims.RegionClose : Prop :=
  ∀ (s : State) (c k : Nat),
    let r := (s.thread c k).rgn
    let t := (closeRegion s c k).2
    match (closeRegion s c k).1 with
    | some e => e.cause = 0x0C ∧ t.mem = s.mem ∧ (t.thread c k).rgn.held = r.held ∧ (t.thread c k).rgn.reads = r.reads ∧
        (∃ x, (t.thread c k).rgn.conflict = some x ∧ e.addr = BitVec.ofNat 64 x.1 ∧ e.info = BitVec.ofNat 64 x.2 ∧
          (r.conflict = some x ∨
            ∃ l ∈ r.reads, x.1 = l.2.va ∧ x.2 = conflictMask s.mem (writerOf c k) l.1 l.2 ∧ x.2 ≠ 0 ∧
              ∀ m ∈ r.reads, m.2.pa < l.2.pa → conflictMask s.mem (writerOf c k) m.1 m.2 = 0))
    | none => r.conflict = none ∧ (∀ l ∈ r.reads, conflictMask s.mem (writerOf c k) l.1 l.2 = 0) ∧
        (t.thread c k).rgn.held = [] ∧ (t.thread c k).rgn.reads = [] ∧ (t.thread c k).rgn.conflict = none ∧
        ∀ l ∈ r.held, ∃ p ∈ t.mem.path (pathOf (dieOf c) l.1), p.writer = writerOf c k ∧ p.line = l.1 ∧
          p.key = l.2.key ∧ p.version.isSome = true ∧ p.op = .write l.2.bytes

/-- The region of the acting thread closes at once: its older vector work is done (R315), no home die of a held line is
in a reset (R449), no held line lost its page (R255), and there is no conflict (R266). -/
def Claims.closes (s : State) : Prop :=
  sidingIdle s s.cur.1 s.cur.2 = true ∧ drainHeld s s.cur.1 s.cur.2 = false ∧ Claims.noneGone s ∧
    (closeRegion s s.cur.1 s.cur.2).1 = none

/-- A boundary of the acting thread passes: it is deferred inside a tolerant region (R275), or the region closes. -/
def Claims.boundaryPasses (s : State) : Prop := tolDefers s = true ∨ Claims.closes s

/-- What the boundary leaves of the region (R266, R275): a deferred boundary leaves the held and the read lines and the
conflict as they were; the list of written lines may grow by the instruction's own store. -/
def Claims.boundaryDone (s t : State) : Prop :=
  if tolDefers s then t.me.rgn.held = s.me.rgn.held ∧ t.me.rgn.reads = s.me.rgn.reads ∧
    t.me.rgn.conflict = s.me.rgn.conflict
  else t.me.rgn.held = [] ∧ t.me.rgn.reads = [] ∧ t.me.rgn.conflict = none

/-- The release wait of a thread ends at once: its acknowledged writes have performed, and at the wide scopes either
nothing is to be marked or every marker has been gathered (R257, R272). -/
def Claims.releaseFree (s : State) (sc : Scope) : Prop :=
  s.me.rgn.held = [] ∧ ackedPending s s.cur.1 s.cur.2 = false ∧
    match s.me.rel with
    | none => sc = .mod ∨ sc = .sys → s.me.wq = [] ∧ s.me.dests = []
    | some r => r.pc = s.me.pc ∧ (r.scope = .mod ∨ r.scope = .sys →
        r.sent = true ∧ r.need ≤ AMap.getD s.mem.gathered (writerOf s.cur.1 s.cur.2) 0)

/-- R271, R275: an acquire load from the own pool closes the region, reads, and drops the core's near cache at every scope
wider than .core. -/
def Claims.AcquireLoads : Prop :=
  ∀ (h : Hdr) (t : ITy) (sc : Scope) (u : Bool) (d : Fin 64) (m : Mem) (s : State) (o : Nat), guardHolds s h = true →
    let n := t.width / 8
    o % n = 0 → Claims.poolReadable s (memAddr s m n) o n → Claims.boundaryPasses s →
    ∃ w, exec (.ldAcq h t sc u d m) s = .next w ∧ w.cur = s.cur ∧ w.me.pc = s.me.pc + 12 ∧ Claims.boundaryDone s w ∧
      (∀ r, w.me.rdG r = if r = d.val ∧ r ≠ 0 then Claims.loaded u n (s.myCore.num o n) else s.me.rdG r) ∧
      (sc ≠ .core → w.myCore.near = []) ∧ Claims.sameMem s w ∧ ∀ c, (w.core c).pool = (s.core c).pool

/-- R272, R275: a release store to the own pool stores once every earlier write has performed, and parks with nothing
stored while an acknowledged write of the thread is still on its way. -/
def Claims.ReleaseStores : Prop :=
  ∀ (h : Hdr) (t : ITy) (sc : Scope) (m : Mem) (x : GSrc) (s : State) (o : Nat), guardHolds s h = true →
    s.memWf = true → Claims.lineRoom s o →
    let n := t.width / 8
    o % n = 0 → Claims.poolOpen s (memAddr s m n) o n → Claims.boundaryPasses s →
    ((tolDefers s = true ∨ Claims.releaseFree s sc) →
      ∃ w, exec (.stRel h t sc m x) s = .next w ∧ Claims.onlyPc s w ∧ Claims.boundaryDone s w ∧
        Claims.storedOnly s w o (toBytes n (readGSrc s x).toNat)) ∧
    (tolDefers s = false → ackedPending s s.cur.1 s.cur.2 = true →
      ∃ w, exec (.stRel h t sc m x) s = .next w ∧ w.me.status = .parked .release ∧ w.me.pc = s.me.pc ∧
        w.me.g = s.me.g ∧ Claims.sameMem s w ∧ ∀ c, (w.core c).pool = (s.core c).pool)

/-- R271, R272: acquire loads and release stores. -/
def Obligations.AcquireAndRelease : Prop := Claims.AcquireLoads ∧ Claims.ReleaseStores

/-- R273, R275: fences close the region; the acquire ones drop the near cache at every scope wider than .core; the release
ones end once every earlier write has performed. -/
def Obligations.Fences : Prop :=
  ∀ (h : Hdr) (sc : Scope) (s : State), guardHolds s h = true → Claims.boundaryPasses s →
    let done (near : Bool) (w : State) : Prop := Claims.onlyPc s w ∧ Claims.boundaryDone s w ∧ Claims.sameMem s w ∧
      (∀ c, (w.core c).pool = (s.core c).pool) ∧ (near = true → sc ≠ .core → w.myCore.near = [])
    (∃ w, exec (.fenceAcq h sc) s = .next w ∧ done true w) ∧
    ((tolDefers s = true ∨ Claims.releaseFree s sc) →
      (∃ w, exec (.fence h sc) s = .next w ∧ done true w) ∧ (∃ w, exec (.fenceRel h sc) s = .next w ∧ done false w)) ∧
    (tolDefers s = false → ackedPending s s.cur.1 s.cur.2 = true →
      ∃ w, exec (.fenceRel h sc) s = .next w ∧ w.me.status = .parked .release ∧ w.me.pc = s.me.pc)

/-- R274, R275: `region` closes, `region.force` drains without validating, `region.drop` discards; force and drop
also remove the near copies of the read lines and clear a conflict. None acts inside a tolerant region. -/
def Claims.RegionBoundaries : Prop :=
  ∀ (h : Hdr) (s : State), guardHolds s h = true →
    (tolDefers s = true → exec (.region h) s = retired h s s ∧ exec (.regionForce h) s = retired h s s ∧
      exec (.regionDrop h) s = retired h s s) ∧
    (tolDefers s = false →
      let fresh (w : State) : Prop := Claims.onlyPc s w ∧ w.me.rgn.held = [] ∧ w.me.rgn.reads = [] ∧ w.me.rgn.conflict = none
      let unread (w : State) : Prop := ∀ l ∈ s.me.rgn.reads, AMap.get w.myCore.near (l.2.pa / 64) = none
      let sent (w : State) : Prop := ∀ l ∈ s.me.rgn.held, ∃ p ∈ w.mem.path (pathOf (dieOf s.cur.1) l.1),
        p.writer = writerOf s.cur.1 s.cur.2 ∧ p.line = l.1 ∧ p.op = .write l.2.bytes
      (Claims.boundaryPasses s → ∃ w, exec (.region h) s = .next w ∧ fresh w ∧ sent w) ∧
      (sidingIdle s s.cur.1 s.cur.2 = true →
        (drainHeld s s.cur.1 s.cur.2 = false → Claims.noneGone s →
          ∃ w, exec (.regionForce h) s = .next w ∧ fresh w ∧ unread w ∧ sent w) ∧
        (∃ w, exec (.regionDrop h) s = .next w ∧ fresh w ∧ unread w ∧ w.mem = s.mem)))

/-- R266, R267, R274, R275: how a region closes, and which instructions are its boundaries. -/
def Obligations.Regions : Prop := Claims.RegionClose ∧ Claims.RegionBoundaries

/-! ### Tagged words and lines -/

/-- The tags of the words of [o, o + n) are set, every other tag of the core stays. -/
def Claims.tagsSet (s t : State) (o n : Nat) (full : Bool) : Prop :=
  ∀ w, t.myCore.tagFull (4 * w) = if o ≤ 4 * w ∧ 4 * w < o + n then full else s.myCore.tagFull (4 * w)

/-- R276: on scratchpad words whose tags allow it `ld.wf` takes the word and empties its tags unless it keeps them, and
`st.we` stores and fills them; on tags that do not, the thread parks on the line. -/
def Claims.TaggedWords : Prop :=
  ∀ (h : Hdr) (q : PTy) (keep u : Bool) (d : Fin 64) (m : Mem) (x : GSrc) (s : State) (o : Nat), guardHolds s h = true →
    s.memWf = true → Claims.lineRoom s o →
    let n := pBytes q
    let a := memAddr s m n
    o % n = 0 → inScratch s.myCore.part o n = true → answerFor s a 4 = none → answerFor s a 5 = none →
    (Claims.poolReadable s a o n → s.myCore.allFull o n = true →
      ∃ w, exec (.ldWf h q keep u d m) s = .next w ∧ w.cur = s.cur ∧ w.me.pc = s.me.pc + 12 ∧ Claims.sameMem s w ∧
        (∀ r, w.me.rdG r = if r = d.val ∧ r ≠ 0 then Claims.loaded u n (s.myCore.num o n) else s.me.rdG r) ∧
        (if keep then ∀ w4, w.myCore.tagFull (4 * w4) = s.myCore.tagFull (4 * w4) else Claims.tagsSet s w o n false) ∧
        ∀ c, (w.core c).pool = (s.core c).pool) ∧
    (Claims.poolOpen s a o n → s.myCore.allEmpty o n = true →
      ∃ w, exec (.stWe h q m x) s = .next w ∧ Claims.onlyPc s w ∧ Claims.tagsSet s w o n true ∧
        Claims.storedOnly s w o (toBytes n (readGSrc s x).toNat)) ∧
    (Claims.poolReadable s a o n → s.myCore.allFull o n = false →
      exec (.ldWf h q keep u d m) s = .next (parkMe s (.tag s.cur.1 (o / 64 * 64)))) ∧
    (Claims.poolOpen s a o n → s.myCore.allEmpty o n = false →
      exec (.stWe h q m x) s = .next (parkMe s (.tag s.cur.1 (o / 64 * 64))))

/-- R278: the sixteen tags of a scratchpad line, bit i for the word at 4 i: read, filled and emptied. -/
def Claims.LineTags : Prop :=
  ∀ (h : Hdr) (d : Fin 64) (m : Mem) (x : GSrc) (s : State) (o : Nat), guardHolds s h = true →
    let a := memAddr s m 8
    o % 64 = 0 → inScratch s.myCore.part o 64 = true → Claims.poolOpen s a o 64 → Claims.lineRoom s o →
    let sets (full : Bool) (w : State) : Prop := Claims.onlyPc s w ∧ Claims.sameMem s w ∧
      (∀ c, (w.core c).pool = (s.core c).pool) ∧
      ∀ i, w.myCore.tagFull (4 * i) = if o / 4 ≤ i ∧ i < o / 4 + 16 ∧ (readGSrc s x).getLsbD (i - o / 4) = true then full
        else s.myCore.tagFull (4 * i)
    (tolRead s s.cur.1 o 64 = false → ∃ r : Word, exec (.tagRd h d m) s = retired h s (s.wrG d.val r) ∧
      ∀ i, i < 64 → r.getLsbD i = (decide (i < 16) && s.myCore.tagFull (o + 4 * i))) ∧
    (∃ w, exec (.tagFull h m x) s = .next w ∧ sets true w) ∧
    (∃ w, exec (.tagEmpty h m x) s = .next w ∧ sets false w)

/-- R276, R278: words under full and empty tags, and the tags of a line. -/
def Obligations.Tags : Prop := Claims.TaggedWords ∧ Claims.LineTags

/-- R279, R280, R281: line maintenance never traps on what it names. `pref` and `cinv` always complete; on a
translated DRAM line `pref` takes the home's bytes and version and `cinv` drops the line; `cinv.all` drops every
line; `cfl` completes on window and host addresses, on a line that DRAM already holds, and once it is answered;
`cfl.evict` leaves no copy of the line in its home slice. -/
def Obligations.LineMaintenance : Prop :=
  ∀ (h : Hdr) (m : Mem) (s : State) (tr : Trans), guardHolds s h = true →
    let a := memAddr s m 8
    (∃ w, exec (.pref h m) s = .next w ∧ Claims.onlyPc s w) ∧
    (∃ w, exec (.cinv h m) s = .next w ∧ Claims.onlyPc s w) ∧
    (∃ w, exec (.cinvAll h) s = .next w ∧ Claims.onlyPc s w ∧ w.myCore.near = [] ∧ w.mem = s.mem) ∧
    (decodeAddr a ≠ .global → exec (.pref h m) s = retired h s s ∧ exec (.cinv h m) s = retired h s s) ∧
    (wfld a 56 8 = 0xFE → exec (.cfl h m) s = retired h s s ∧ exec (.cflEvict h m) s = retired h s s) ∧
    (Claims.tlbHit s a .read tr → tr.host = true → exec (.pref h m) s = retired h s s ∧ exec (.cinv h m) s = retired h s s ∧
      exec (.cfl h m) s = retired h s s ∧ exec (.cflEvict h m) s = retired h s s) ∧
    (Claims.tlbHit s a .read tr → tr.host = false →
      (dieHeld s (lineDie tr.line) = false → ∃ w x, exec (.pref h m) s = .next w ∧ Claims.onlyPc s w ∧
        AMap.get w.myCore.near (nearIdx tr.key tr.line) = some x ∧ x.key = tr.key ∧
        x.bytes = s.mem.lineBytes tr.line tr.key 0 64 ∧ x.fv = (s.mem.hline tr.line).performed) ∧
      (∃ w, exec (.cinv h m) s = .next w ∧ Claims.onlyPc s w ∧ AMap.get w.myCore.near (nearIdx tr.key tr.line) = none ∧
        ∀ i, i ≠ nearIdx tr.key tr.line → AMap.get w.myCore.near i = AMap.get s.myCore.near i) ∧
      ((answerFor s a 3 = none → s.mem.dirty.contains tr.line = false) →
        (∀ e, answerFor s a 3 = some e → e.ready = true) → exec (.cfl h m) s = retired h s s) ∧
      (∀ e, answerFor s a 7 = some e → e.ready = true → exec (.cflEvict h m) s = retired h s s) ∧
      (answerFor s a 7 = none → s.mem.dirty.contains tr.line = false →
        ∃ w, exec (.cflEvict h m) s = .next w ∧ Claims.onlyPc s w ∧ Claims.sameMem s w ∧ w.mem.entry tr.line = none))

/-! ### Fetch and gangs (08) -/

/-- What an execution fault of the acting instruction comes to. -/
def Claims.raises (s : State) (cause : Nat) (addr : Word) (info : Nat) : Host.Outcome State Fault Refusal :=
  .next (takeTrap s s.cur.1 s.cur.2 { cause := cause, addr := addr, info := BitVec.ofNat 64 info } true)

/-- The cluster's instruction TLB holds the translation of an instruction-space address of the acting thread's space. -/
def Claims.instrHit (s : State) (va : Nat) (tr : Trans) : Prop :=
  canonical va = true ∧
  ∃ e, (s.cluster (clusterOf s.cur.1)).itlb.find? (fun e => e.serves s.me.place.spaceid true .compute .fill (va % 2 ^ 57))
    = some e ∧ tr = e.trans (va % 2 ^ 57)

/-- R172: `ifence` retires alone. `ifence.fill` checks its three values for alignment in the order d, s, n, then the size
and the range, and copies the words of the instruction space to the pool and nothing else. -/
def Claims.InstructionFill : Prop :=
  ∀ (h : Hdr) (a b : Fin 64) (c : GSrc) (s : State) (tr : Nat → Trans), guardHolds s h = true →
    let d := (s.rdG a.val).toNat
    let x := (s.rdG b.val).toNat
    let n := (readGSrc s c).toNat
    let odd (v : Word) : Host.Outcome State Fault Refusal := Claims.raises s 0x04 v 4
    let whole : Prop := d % 4 = 0 ∧ x % 4 = 0 ∧ n % 4 = 0
    let fits : Prop := 0 < n ∧ n ≤ 65536 ∧ 0x2000 ≤ d ∧ d + n ≤ s.myCore.sill.toNat
    exec (.ifence h) s = retired h s s ∧
    (d % 4 ≠ 0 → exec (.ifenceFill h a b c) s = odd (s.rdG a.val)) ∧
    (d % 4 = 0 → x % 4 ≠ 0 → exec (.ifenceFill h a b c) s = odd (s.rdG b.val)) ∧
    (d % 4 = 0 → x % 4 = 0 → n % 4 ≠ 0 → exec (.ifenceFill h a b c) s = odd (readGSrc s c)) ∧
    (whole → ¬fits → exec (.ifenceFill h a b c) s = Claims.raises s 0x0A 0 0) ∧
    (whole → fits → s.memWf = true → poolShut s.myCore d n = false →
      (∀ i, i < n / 4 → Claims.instrHit s (x + 4 * i) (tr i) ∧ (transBytes s s.cur.1 s.cur.2 (tr i) 4).2 = 0) →
      ∃ w, exec (.ifenceFill h a b c) s = .next w ∧ Claims.onlyPc s w ∧
        Claims.storedOnly s w d ((List.range (n / 4)).flatMap (fun i => (transBytes s s.cur.1 s.cur.2 (tr i) 4).1)))

/-- Is the member parked at a `gang.join` at pc? -/
def Claims.joined (s : State) (pc : Word) (m : Nat × Nat) : Prop :=
  (s.thread m.1 m.2).status = .parked .gangJoin ∧ (s.thread m.1 m.2).pc = pc

/-- R173, R174: `gang.shed` makes a follower shed and has no effect elsewhere. `gang.join` has no effect for a
lockstep follower and without shed members; a shed follower waits for its leader, traps on another join pc, and the
last one to arrive lets every waiting member go on at J + 12 in lockstep. -/
def Claims.GangShedAndJoin : Prop :=
  ∀ (h : Hdr) (s : State) (l : Nat × Nat) (rest : List (Nat × Nat)), guardHolds s h = true →
    let t := s.me
    let ms := gangMembers s t.place.gang
    let shed (m : Nat × Nat) : Bool := (s.thread m.1 m.2).place.shed
    let inGang : Prop := 1 < t.place.gsize ∧ ms = l :: rest ∧ s.cur ∈ ms ∧ (s.thread l.1 l.2).place.gpos = 0
    let follower : Prop := t.place.gpos ≠ 0
    let leaves (w : State) (m : Nat × Nat) : Prop := (w.thread m.1 m.2).pc = t.pc + 12 ∧
      (w.thread m.1 m.2).status = .ready ∧ (w.thread m.1 m.2).place.shed = false
    (t.tol.isOpen = true → exec (.gangShed h) s = Claims.raises s 0x0D 0 6) ∧
    (t.tol.isOpen = false → t.place.gsize ≤ 1 ∨ t.place.gpos = 0 ∨ t.place.shed = true →
      exec (.gangShed h) s = retired h s s) ∧
    (t.tol.isOpen = false → inGang → follower → t.place.shed = false →
      ∃ w, exec (.gangShed h) s = .next w ∧ w.cur = s.cur ∧ w.me.pc = t.pc + 12 ∧ w.me.place = { t.place with shed := true } ∧
        w.me.fwd = [] ∧ w.me.g = t.g ∧ w.me.p = t.p ∧ w.me.b = t.b ∧ w.me.v = t.v ∧ w.me.ctl = t.ctl ∧ w.mem = s.mem ∧
        ((∀ m ∈ ms, m ≠ s.cur → (s.thread m.1 m.2).solo = false) → (w.thread l.1 l.2).hold = none)) ∧
    (t.place.gsize ≤ 1 → exec (.gangJoin h) s = retired h s s) ∧
    (inGang → follower → t.place.shed = false → exec (.gangJoin h) s = retired h s s) ∧
    (inGang → ¬follower → (∀ m ∈ ms, shed m = false) → ∃ w, exec (.gangJoin h) s = .next w ∧ Claims.onlyPc s w) ∧
    (inGang → ¬follower → (∃ m ∈ ms, shed m = true ∧ ¬Claims.joined s t.pc m) →
      exec (.gangJoin h) s = .next (parkMe s .gangJoin)) ∧
    (inGang → follower → t.place.shed = true → (s.thread l.1 l.2).status ≠ .parked .gangJoin →
      exec (.gangJoin h) s = .next (parkMe s .gangJoin)) ∧
    (inGang → follower → t.place.shed = true → (s.thread l.1 l.2).status = .parked .gangJoin →
      (s.thread l.1 l.2).pc ≠ t.pc → exec (.gangJoin h) s = Claims.raises s 0x0E (s.thread l.1 l.2).pc t.place.gpos) ∧
    (inGang → follower → t.place.shed = true → Claims.joined s t.pc l →
      (∀ m ∈ ms, m ≠ s.cur → shed m = true → Claims.joined s t.pc m) →
      ∃ w, exec (.gangJoin h) s = .next w ∧ leaves w l ∧ ∀ m ∈ ms, shed m = true → leaves w m)

/-- R172, R173, R174: filling code, and leaving and joining a gang. -/
def Obligations.FillAndGangs : Prop := Claims.InstructionFill ∧ Claims.GangShedAndJoin

/-! ### Budgets and tolerant regions (06) -/

/-- R110: Adj(b, d). -/
def Claims.adjust (b : BitVec 16) (d : Int) : BitVec 16 :=
  let keep := if b.getLsbD 14 then 0x4000 else 0
  let x : Int := (b.toNat % 4096 : Nat) + d
  BitVec.ofNat 16 (keep + if b.getLsbD 15 || decide (4095 < x) then 0x8000 else x.toNat)

/-- R110: L(n) for n from 1 to 4. -/
def Claims.log2x16 (n : Nat) : Int := [0, 0, 16, 26, 32].getD n 0

/-- R111, Table 2: the reset sensitivity of operand j of a class. -/
def Claims.table2 (k j : Nat) : Int :=
  if j = 0 then (if k = 7 ∨ k = 8 then -16 else if k = 9 ∨ k = 11 then 112 else if k = 10 then 16 else 0)
  else if j = 1 ∧ k = 11 then 112 else 0

/-- R128, R129, R131, with R109, R110 and R111: `bshare` writes Adj(b, L(n) + S), with S 0 for j = 3; `bmov` moves the
low 16 bits, a budget register storing 0 in [13:12]; `sens.ld` writes one row of the table from its three signed
fields, and its reset form from Table 2. -/
def Obligations.BudgetsAndSensitivities : Prop :=
  ∀ (h : Hdr) (d e : Fin 8) (sel : ShareSel) (a : Fin 64) (i : BitVec 20) (k : GSrc) (m : Mem) (s : State) (o : Nat),
    guardHolds s h = true →
    let sens (j : Nat) : Int := if j = 3 then 0 else s.me.sensOf sel.cls.val j
    let cls := (readGSrc s k).toNat % 64
    let row (w : State) (f : Nat → Int) : Prop := Claims.onlyPc s w ∧
      ∀ c j, c < 64 → j < 3 → w.me.sensOf c j = if c = cls then f j else s.me.sensOf c j
    exec (.bshare h d e sel) s = retired h s
      (s.wrB d.val (Claims.adjust (s.rdB e.val) (Claims.log2x16 (sel.n1.val + 1) + sens sel.opnd.val))) ∧
    exec (.bmov h (.bFromG d a)) s = retired h s (s.wrB d.val ((s.rdG a.val).setWidth 16)) ∧
    exec (.bmov h (.bFromB d e)) s = retired h s (s.wrB d.val (s.rdB e.val)) ∧
    exec (.bmov h (.bFromI d i)) s = retired h s (s.wrB d.val (i.setWidth 16)) ∧
    exec (.bmov h (.gFromB a e)) s = retired h s (s.wrG a.val ((s.rdB e.val).setWidth 64)) ∧
    (∀ c j, c < 64 → j < 3 → Thread.reset.sensOf c j = Claims.table2 c j) ∧
    (∃ w, exec (.sensLdReset h k) s = .next w ∧ row w (Claims.table2 cls)) ∧
    (o % 8 = 0 → Claims.poolReadable s (memAddr s m 8) o 8 →
      ∃ w, exec (.sensLd h k m) s = .next w ∧
        row w (fun j => (BitVec.ofNat 12 (s.myCore.num o 8 / 2 ^ (16 * j))).toInt))

/-- The value that a finished share walk leaves in a budget register: its last one there (R113). -/
def Claims.budgetAfter (s : State) (ts : List Target) (r : Nat) : BitVec 16 :=
  if r = 0 then 0x8000
  else match ts.reverse.find? (fun g => !g.slot && g.idx == r) with
    | some g => g.val &&& 0xCFFF
    | none => s.me.rdB r

/-- R122, R126 and R113: `demand` opens a tolerant region. It traps at a second pc and on a misaligned tree, closes the
open region, walks the tree with the root of its budget, and records root, tree and pc; only a restart keeps T,
exactpass and the replay count. A tree of one leaf gives the root's budget to its target. -/
def Claims.DemandOpens : Prop :=
  ∀ (h : Hdr) (a : GSrc) (b : BSrc) (s : State), guardHolds s h = true →
    let t := readGSrc s a
    let r := readBSrc s b &&& 0xBFFF
    let o := s.me.tol
    let tight := if o.isOpen then o.tight else 0
    let ex := o.isOpen && o.exactpass
    let root := Claims.adjust (if tight ≠ 0 then r ||| 0x4000 else r) tight
    let s1 := (closeRegion s s.cur.1 s.cur.2).2
    let walk := shareFrom s1 s1.me s1.myCore t.toNat ex 256 0 [(0, root)] [] []
    let again : Prop := o.isOpen = true → s.me.pc = o.tentry
    let opened : Tol :=
      { o with
        root := r, tree := t.setWidth 19, tight := tight, deficit := 0, short := false, exactpass := ex, isOpen := true
        tentry := s.me.pc, treplays := if o.isOpen then o.treplays else 0, deferred := 0 }
    (¬again → exec (.demand h a b) s = Claims.raises s 0x0D 0 4) ∧
    (again → t.toNat % 8 ≠ 0 → exec (.demand h a b) s = Claims.raises s 0x04 t 8) ∧
    (again → t.toNat % 8 = 0 → Claims.closes s →
      ∀ ts, walk = .done' ts →
      ∃ w, exec (.demand h a b) s = .next w ∧ w.cur = s.cur ∧ w.me.pc = s.me.pc + 12 ∧ w.me.g = s.me.g ∧
        w.me.rgn.held = [] ∧ w.me.rgn.reads = [] ∧
        w.me.tol = opened ∧
        (∀ k, w.me.rdB k = Claims.budgetAfter s ts k) ∧
        ((∀ g ∈ ts, g.slot = false) → ∀ c, (w.core c).pool = (s.core c).pool)) ∧
    (∀ (cls tgt : Nat), cls < 64 → tgt < 8 → t.toNat + 8 ≤ poolLimit s1.myCore.part →
      poolShut s1.myCore t.toNat 8 = false → s1.myCore.poisoned t.toNat 8 = false →
      s1.myCore.num t.toNat 8 = cls + tgt * 2 ^ 48 →
      walk = .done' [{ slot := false, idx := tgt, val := if ex then 0xC000 else Claims.adjust root 0 }]) ∧
    (poolLimit s1.myCore.part < t.toNat + 8 → ∃ i, walk = .trapped i ∧ i.cause = 0x0A)

/-- R127, R123, R124 and R122: `settle` traps without an open region, waits for the siding, replays a short pass from
tentry + 12 with T tightened and the pass dropped, and otherwise closes the region, which a conflict leaves open. -/
def Claims.SettleReplaysOrCloses : Prop :=
  ∀ (h : Hdr) (s : State), guardHolds s h = true →
    let o := s.me.tol
    let idle := sidingIdle s s.cur.1 s.cur.2
    let short := o.short && !o.exactpass
    let tight := min (o.tight + o.deficit) 4095
    let ex : Bool := o.treplays + 1 == 3
    let walk := shareFrom s s.me s.myCore o.tree.toNat ex 256 0 [(0, Claims.adjust (o.root ||| 0x4000) tight)] [] []
    let replayed : Tol :=
      { o with treplays := o.treplays + 1, tight := tight, exactpass := ex, short := false, deficit := 0, deferred := 0 }
    (o.isOpen = false → exec (.settle h) s = Claims.raises s 0x0D 0 5) ∧
    (o.isOpen = true → idle = false → exec (.settle h) s = .next s) ∧
    (o.isOpen = true → idle = true → short = true → ∀ ts, walk = .done' ts →
      ∃ w, exec (.settle h) s = .next w ∧ w.cur = s.cur ∧ w.me.pc = o.tentry + 12 ∧ w.me.g = s.me.g ∧
        w.me.rgn = { held := [], reads := [], written := [], conflict := s.me.rgn.conflict } ∧ w.mem = s.mem ∧
        w.me.tol = replayed ∧ (∀ k, w.me.rdB k = Claims.budgetAfter s ts k)) ∧
    (o.isOpen = true → idle = true → short = false → drainHeld s s.cur.1 s.cur.2 = false → Claims.noneGone s →
      ((closeRegion s s.cur.1 s.cur.2).1 = none → o.deferred = 0 →
        ∃ w, exec (.settle h) s = .next w ∧ Claims.onlyPc s w ∧ w.me.rgn.held = [] ∧ w.me.rgn.reads = [] ∧
          w.me.tol = { o with isOpen := false, deferred := 0 }) ∧
      (∀ e, (closeRegion s s.cur.1 s.cur.2).1 = some e →
        exec (.settle h) s = .next (takeTrap (closeRegion s s.cur.1 s.cur.2).2 s.cur.1 s.cur.2 e true)))

/-- R122, R113, R123, R124, R127: `demand` opens a tolerant region, and `settle` replays or closes it. -/
def Obligations.TolerantRegions : Prop := Claims.DemandOpens ∧ Claims.SettleReplaysOrCloses

/-! ### Launches, tiles and rings (07) -/

/-- The instruction retires with a result in one g register; every other register of the thread stays. -/
def Claims.gives (s w : State) (a : Fin 64) (v : Word) : Prop :=
  w.cur = s.cur ∧ w.me.pc = s.me.pc + 12 ∧ (∀ r, w.me.rdG r = if r = a.val ∧ r ≠ 0 then v else s.me.rdG r) ∧
  w.me.p = s.me.p ∧ w.me.b = s.me.b ∧ w.me.v = s.me.v ∧ w.me.ctl = s.me.ctl ∧ w.me.priv = s.me.priv

/-- R154: `launch` reads its 64-byte packet, closes the region, waits as a release and parks with the packet submitted in
this space; once the dispatcher has judged it, the status goes to the register. -/
def Claims.LaunchInstruction : Prop :=
  ∀ (h : Hdr) (a : Fin 64) (m : Mem) (s : State) (o v : Nat), guardHolds s h = true → s.me.follower = false →
    let x := memAddr s m 8
    (s.me.launchRes = some (s.me.pc, none) → exec (.launch h a m) s = .next (parkMe s .launch)) ∧
    (s.me.launchRes = some (s.me.pc, some v) →
      ∃ w, exec (.launch h a m) s = .next w ∧ Claims.gives s w a (BitVec.ofNat 64 v) ∧ w.me.launchRes = none) ∧
    ((∀ r, s.me.launchRes ≠ some (s.me.pc, r)) →
      (x.toNat % 64 ≠ 0 → exec (.launch h a m) s = Claims.raises s 0x04 x 64) ∧
      (x.toNat % 64 = 0 → Claims.poolReadable s x o 64 →
        (s.me.tol.isOpen = true → s.me.rgn.conflict = none → findConflict s s.cur.1 s.cur.2 = none →
          exec (.launch h a m) s = Claims.raises s 0x0D 0 2) ∧
        (s.me.tol.isOpen = false → sidingIdle s s.cur.1 s.cur.2 = true → Claims.closes s → Claims.releaseFree s .mod →
          ∃ w, exec (.launch h a m) s = .next w ∧ w.me.status = .parked .launch ∧ w.me.pc = s.me.pc ∧ w.me.g = s.me.g ∧
            w.disp.submits = s.disp.submits ++ [{ slot := none, thread := some s.cur, space := s.me.place.spaceid,
                                                  packet := s.myCore.num o 64 }])))

/-- R155: `done` traps inside a tolerant region; a shed follower waits to be stopped; a gang whose jobs are final and whose
tile queries are answered ends, and where nothing feeds its stage every slot is released; otherwise the thread parks. -/
def Claims.DoneInstruction : Prop :=
  ∀ (h : Hdr) (s : State) (gang : Gang) (l : Launch) (n : Node), guardHolds s h = true →
    let t := s.me
    let gid := t.place.gang
    let quiet : Bool := jobsFinal s s.cur && t.tilesOut.isEmpty && gang.members.all (fun m =>
      let u := s.thread m.1 m.2
      jobsFinal s m && u.tilesOut.isEmpty && (u.place.shed || m == s.cur || decide (u.status = .parked .doneWait)))
    (t.tol.isOpen = true → exec (.doneI h) s = Claims.raises s 0x0D 0 6) ∧
    (t.tol.isOpen = false → t.place.shed = true → exec (.doneI h) s = .next (parkMe s .doneWait)) ∧
    (t.tol.isOpen = false → t.place.shed = false → sidingIdle s s.cur.1 s.cur.2 = true → Claims.closes s →
      Claims.releaseFree s .mod →
      AMap.get s.disp.gangs gid = some gang → AMap.get s.disp.launches t.place.launch = some l →
      s.node gang.launch gang.node = some n → t.place.launch = gang.launch → t.place.node = gang.node → isFed n = false →
      (t.follower = false → quiet = true → ∃ w, exec (.doneI h) s = .next w ∧
        (∀ m ∈ gang.members, (w.thread m.1 m.2).status = .unplaced) ∧ AMap.get w.disp.gangs gid = none ∧
        ∃ n', w.node gang.launch gang.node = some n' ∧ n'.running = n.running - 1) ∧
      (t.follower = true ∨ quiet = false → ∃ w, exec (.doneI h) s = .next w ∧ w.me.status = .parked .doneWait ∧
        w.me.pc = t.pc ∧ w.me.g = t.g))

/-- R156: `nexttile` checks the place of its answer, parks at four outstanding queries, and otherwise empties the tags of
both words and sends the query. -/
def Claims.NexttileInstruction : Prop :=
  ∀ (h : Hdr) (a : GSrc) (s : State), guardHolds s h = true → s.me.follower = false →
    (gangMembers s s.me.place.gang = [] ∨ s.cur ∈ gangMembers s s.me.place.gang) →
    let o := (readGSrc s a).toNat
    let place := BitVec.ofNat 64 (0xFE * 2 ^ 56 + o)
    (s.me.tol.isOpen = true → exec (.nexttile h a) s = Claims.raises s 0x0D 0 2) ∧
    (s.me.tol.isOpen = false →
      (o % 8 ≠ 0 → exec (.nexttile h a) s = Claims.raises s 0x04 place 8) ∧
      (o % 8 = 0 → inScratch s.myCore.part o 8 = false → exec (.nexttile h a) s = Claims.raises s 0x0A place 0) ∧
      (o % 8 = 0 → inScratch s.myCore.part o 8 = true → 4 ≤ s.me.tilesOut.length →
        exec (.nexttile h a) s = .next (parkMe s .tiles)) ∧
      (o % 8 = 0 → inScratch s.myCore.part o 8 = true → s.me.tilesOut.length < 4 →
        ∃ w, exec (.nexttile h a) s = .next w ∧ Claims.onlyPc s w ∧ Claims.tagsSet s w o 8 false ∧
          w.me.tilesOut = s.me.tilesOut ++ [o] ∧ w.disp.queries = s.disp.queries ++ [(s.cur.1, s.cur.2, o)] ∧
          w.mem = s.mem ∧ ∀ c, (w.core c).pool = (s.core c).pool))

/-- R154, R155, R156: `launch`, `done` and `nexttile`. -/
def Obligations.LaunchesAndTiles : Prop := Claims.LaunchInstruction ∧ Claims.DoneInstruction ∧ Claims.NexttileInstruction

/-- From count i the count p follows over consecutive slots in a state, as far as they go and not past a limit. -/
def Claims.advances (n : Nat) (st : AMap Nat) (want limit i p : Nat) : Prop :=
  let at' (k : Nat) : Nat := if k = 0 then i else (i + k) % 2 ^ 32
  ∃ k, k ≤ n ∧ p = at' k ∧ (∀ x, x < k → at' x ≠ limit ∧ AMap.getD st (at' x % n) 0 = want) ∧
    (k = n ∨ at' k = limit ∨ AMap.getD st (at' k % n) 0 ≠ want)

/-- R157 (Table 6): the ring instructions of a thread that no leader answers for, and the result that a lockstep
follower takes from its leader. Selector false is the input ring, true the output ring. A ring that the instruction names
but on whose side the stage does not stand answers -3 (R36; log 45). -/
def Obligations.RingInstructions : Prop :=
  ∀ (h : Hdr) (u out : Bool) (a b : Fin 64) (s : State) (key : Nat) (r : Ring) (j : Nat), guardHolds s h = true →
    s.me.tol.isOpen = false →
    let size := 2 ^ (r.size + 6)
    let n := 2 ^ r.nlog
    let address (j : Nat) : Word := r.slots + BitVec.ofNat 64 (j * size)
    let gap (x y : Nat) : Nat := (x + 2 ^ 32 - y % 2 ^ 32) % 2 ^ 32
    let answers (i : Instr) (v : Word) : Prop := ∃ w, exec i s = .next w ∧ Claims.gives s w a v ∧ w.disp.rings = s.disp.rings
    let side (o : Bool) : Prop := ∃ q, myRing s o = some q ∧ q.1 = key
    let moves (i : Instr) (v : Word) (p : Ring → State → Prop) : Prop := ∃ w r', exec i s = .next w ∧ Claims.gives s w a v ∧
      AMap.get w.disp.rings key = some r' ∧ p r' w ∧ ∀ k, k ≠ key → AMap.get w.disp.rings k = AMap.get s.disp.rings k
    (s.me.follower = false →
      (myRing s out = none → answers (.ringClaim h u a out) (-3) ∧ answers (.ringTake h u a out) (-3) ∧
        answers (.ringStat h a out) (-3)) ∧
      (myRing s false = none → answers (.ringFree h a b) 1) ∧
      (myRing s true = none → Claims.closes s → Claims.releaseFree s .mod → answers (.ringPost h a b) 1) ∧
      (myRing s out = some (key, r) →
        (¬side true → answers (.ringClaim h u a out) (-3)) ∧ (¬side false → answers (.ringTake h u a out) (-3)) ∧
        (side true → gap r.claim r.free = n → answers (.ringClaim h true a out) (-1) ∧
          exec (.ringClaim h false a out) s = .next (parkMe s .ring)) ∧
        (side true → gap r.claim r.free ≠ n → moves (.ringClaim h u a out) (address (r.claim % n)) (fun r' _ =>
          r' = { r with st := AMap.set r.st (r.claim % n) 1, claim := (r.claim + 1) % 2 ^ 32 })) ∧
        (side false → r.post = r.take → producerDone s r (key % 2 ^ 64) = true → answers (.ringTake h u a out) (-2)) ∧
        (side false → r.post = r.take → producerDone s r (key % 2 ^ 64) = false → answers (.ringTake h true a out) (-1) ∧
          exec (.ringTake h false a out) s = .next (parkMe s .ring)) ∧
        (side false → r.post ≠ r.take → moves (.ringTake h u a out) (address (r.take % n)) (fun r' w =>
          r' = { r with st := AMap.set r.st (r.take % n) 3, take := (r.take + 1) % 2 ^ 32 } ∧ w.myCore.near = [])) ∧
        answers (.ringStat h a out) (BitVec.ofNat 64 (gap r.claim r.free * 2 ^ 32 + gap r.post r.take))) ∧
      (myRing s false = some (key, r) →
        ((∀ i, i < n → s.rdG b.val ≠ address i) → answers (.ringFree h a b) 1) ∧
        (j < n → j * size < 2 ^ 64 → s.rdG b.val = address j →
          (AMap.getD r.st j 0 ≠ 3 → answers (.ringFree h a b) 1) ∧
          (AMap.getD r.st j 0 = 3 → moves (.ringFree h a b) 0 (fun r' _ => ∃ p,
            r' = { r with st := AMap.set r.st j 0, free := p } ∧
            Claims.advances n (AMap.set r.st j 0) 0 r.take r.free p)))) ∧
      (myRing s true = some (key, r) → Claims.closes s → Claims.releaseFree s .mod →
        ((∀ i, i < n → s.rdG b.val ≠ address i) → answers (.ringPost h a b) 1) ∧
        (j < n → j * size < 2 ^ 64 → s.rdG b.val = address j →
          (AMap.getD r.st j 0 ≠ 1 → answers (.ringPost h a b) 1) ∧
          (AMap.getD r.st j 0 = 1 → moves (.ringPost h a b) 0 (fun r' _ => ∃ p,
            r' = { r with st := AMap.set r.st j 2, post := p } ∧
            Claims.advances n (AMap.set r.st j 2) 2 r.claim r.post p))))) ∧
    (∀ e rest next v, s.me.follower = true → s.me.fwd = e :: rest → e.next = some next → e.result = some v →
      let shared := retired h s (s.wrG a.val v)
      exec (.ringClaim h u a out) s = shared ∧ exec (.ringTake h u a out) s = shared ∧ exec (.ringStat h a out) s = shared ∧
      exec (.ringPost h a b) s = shared ∧ exec (.ringFree h a b) s = shared)

/-! ### Jobs (14, 17) -/

/-- A shutter that stands closed over a range for a job. -/
def Claims.shutFor (w : State) (c id : Nat) (glob : Bool) (lo hi : Nat) : Prop :=
  ∃ i x, (i, x) ∈ (w.core c).shutters ∧ x.closed = true ∧ x.id = id ∧ x.global = glob ∧ x.lo = lo ∧ x.hi = hi

/-- What a submission needs of the thread: no tolerant region, a quiet siding, and a closed and released region. -/
def Claims.submits (s : State) : Prop :=
  s.me.tol.isOpen = false ∧ sidingIdle s s.cur.1 s.cur.2 = true ∧ Claims.closes s ∧ Claims.releaseFree s .clu

/-- R306, R298, R301, R305: a copy submission whose record lies in the own pool. A checked record makes a pending job under
the queue's next identifier, from element 0, or for `copy.resume` from rst rounded down to whole units (a job that has
nothing left ends at once); shutters close over every destination range, a resumed job taking over those of dead jobs and
closing the rest; a full queue parks; a malformed record, a misaligned one and an open tolerant region trap. -/
def Claims.CopySubmissions : Prop :=
  ∀ (h : Hdr) (a c : Fin 64) (m : Mem) (k : GSrc) (s : State) (o : Nat), guardHolds s h = true →
    let x := memAddr s m 8
    let r := s.myCore.num o 96
    let cl := clusterOf s.cur.1
    let id := (s.cluster cl).copyNext
    let total := windowSize r
    let peers := (readGSrc s k).toNat % 256
    let again := (s.rdG c.val).toNat / 2 ^ 24 % 256
    let rst := (s.rdG c.val).toNat / 2 ^ 32
    let unit (mask : Nat) (deal : Bool) : Nat :=
      (unitFmt { newCopy s id r x with mask := mask, deal := deal, total := total }).k
    let submission (i : Instr) (mask : Nat) (deal : Bool) (start raw : Nat) (again : Bool) : Prop :=
      (s.me.tol.isOpen = true → exec i s = Claims.raises s 0x0D 0 2) ∧
      (s.me.tol.isOpen = false → x.toNat % 32 ≠ 0 → exec i s = Claims.raises s 0x04 x 32) ∧
      (x.toNat % 32 = 0 → Claims.poolReadable s x o 96 → Claims.submits s →
        (∀ off, (layoutOffs r deal).min? = some off → ∃ w, exec i s = .next (takeTrap w s.cur.1 s.cur.2
          { cause := 0x02, addr := x, info := BitVec.ofNat 64 (off + 65536) } true)) ∧
        (let quick := (deal && mask == 0) || decide (total ≤ raw)
         let reads := if quick then [] else copyHull s s.cur.1 r mask (copyFmt r) false start
         let writes := if quick then [] else copyHull s s.cur.1 r mask (copyFmt r) true start
         let taken := if again then (hullShutters s id writes).flatMap (takenFor s) else []
         let shut := (wantShutters s r id writes).flatMap (restOf s taken)
         layoutOffs r deal = [] → (nestedRecord r = true → s.me.place.feat.getLsbD 14 = true) → badBases r = none →
         checkRanges s (poolRanges reads ++ poolRanges writes) = none → r / 2 ^ 128 % 2 ^ 64 = 0 →
         (32 ≤ pendingJobs s cl 1 → ∃ w, exec i s = .next w ∧ w.me.status = .parked .jobQueue ∧ w.me.pc = s.me.pc) ∧
         (pendingJobs s cl 1 < 32 → shuttersFree s shut = true →
           ∃ w j, exec i s = .next w ∧ Claims.gives s w a (BitVec.ofNat 64 id) ∧
             (w.cluster cl).copyNext = (id + 1) % 2 ^ 32 ∧ AMap.get (w.cluster cl).copyJobs id = some j ∧
             j.record = r ∧ j.mask = mask ∧ j.start = start ∧ j.next = (if quick then total else start) ∧ j.status = 0 ∧ j.core = s.cur.1 ∧
             j.slot = s.cur.2 ∧ j.space = s.me.place.spaceid ∧ (quick = true → j.ended = some (1, 0)) ∧
             (1, id) ∈ w.me.jobs ∧ (∀ p ∈ taken, ∃ e, AMap.get (w.core p.1).shutters p.2 = some e ∧ e.id = id) ∧
             ∀ e ∈ shut, Claims.shutFor w e.1 id e.2.global e.2.lo e.2.hi)))
    submission (.copy h a m) 0 false 0 0 false ∧
    submission (.copyDeal h a m k) peers true 0 0 false ∧
    submission (.copyResume h a m c) again (again != 0)
      (min (rst / unit again (again != 0) * unit again (again != 0)) total) rst true

/-- R307: `shut.q` gives the mask of the closed shutters over an address and the job of the first of them; `shut.q.drop`
opens the shutters of a job at status 3 or 4 and counts them, gives -1 for a pending job, and else 0. -/
def Claims.ShutterQueries : Prop :=
  ∀ (h : Hdr) (a b : Fin 64) (s : State) (j : CopyJob), guardHolds s h = true →
    let v := s.rdG b.val
    let place : Nat × Bool × Nat := match decodeAddr v with
      | .own o => (s.cur.1, false, o)
      | .peer q o => (peerCore s s.cur.1 q, false, o)
      | .view _ _ => (s.cur.1, true, v.toNat)
      | .badWindow _ => (s.cur.1, true, v.toNat)
      | .global => (s.cur.1, true, v.toNat)
      | .nonCanon => (s.cur.1, true, v.toNat)
    let holds (e : Nat × Shutter) : Bool :=
      e.2.closed && e.2.global == place.2.1 && decide (e.2.lo ≤ place.2.2) && decide (place.2.2 < e.2.hi)
    let hits := (s.core place.1).shutters.filter holds
    let cl := clusterOf s.cur.1
    let id := v.toNat % 2 ^ 32
    (∃ r : Word, exec (.shutQ h a b) s = retired h s (s.wrG a.val r) ∧
      (∀ i, i < 32 → r.getLsbD i = (decide (i < 16) && hits.any (fun e => e.1 == i))) ∧
      r.toNat / 2 ^ 32 = (match hits with
        | e :: _ => e.2.id % 2 ^ 32
        | [] => 0)) ∧
    (AMap.get (s.cluster cl).copyJobs id = none → restoredShutters s cl s.cur.2 id = [] →
      exec (.shutQDrop h a b) s = retired h s (s.wrG a.val 0)) ∧
    (AMap.get (s.cluster cl).copyJobs id = some j →
      (j.status = 0 → exec (.shutQDrop h a b) s = retired h s (s.wrG a.val (-1))) ∧
      (j.status = 1 ∨ j.status = 2 → exec (.shutQDrop h a b) s = retired h s (s.wrG a.val 0)) ∧
      (3 ≤ j.status → ∃ w, exec (.shutQDrop h a b) s = .next w ∧
        Claims.gives s w a (BitVec.ofNat 64 j.shutters.length) ∧
        ∀ p ∈ j.shutters, AMap.get (w.core p.1).shutters p.2 = none))

/-- R298, R301, R305, R306, R307: submitting copies, and reading shutters. -/
def Obligations.CopyInstructions : Prop := Claims.CopySubmissions ∧ Claims.ShutterQueries

/-- R351, R352, R347: `mx` from a record in the own pool and `acc.zero`. An accepted job is pending under the matrix queue's
next identifier behind a shutter over its tiles; a full queue parks; a bad record traps with 0x0F and the offset of
its lowest offending bit, and a bad tile range with 0x0A.
That a negative count is accepted and its job is over at once, with nothing to do, is the model's reading (log 58). -/
def Obligations.MatrixSubmissions : Prop :=
  ∀ (h : Hdr) (a : Fin 64) (m : Mem) (b c : GSrc) (s : State) (o : Nat), guardHolds s h = true →
    let x := memAddr s m 8
    let r := s.myCore.num o 64
    let part := s.myCore.part
    let cl := clusterOf s.cur.1
    let id := (s.cluster cl).mxNext
    let t := (readGSrc s b).toInt
    let n := (readGSrc s c).toInt
    let accepted (i : Instr) (first tiles : Nat) (p : MatrixJob → Prop) : Prop :=
      let lo := accStart part + 4096 * first
      (16 ≤ pendingJobs s cl 0 → ∃ w, exec i s = .next w ∧ w.me.status = .parked .jobQueue ∧ w.me.pc = s.me.pc) ∧
      (pendingJobs s cl 0 < 16 → (freeShutter s.myCore).isSome = true → 0 < openCount s.myCore →
        ∃ w j, exec i s = .next w ∧ Claims.gives s w a (BitVec.ofNat 64 id) ∧
          (w.cluster cl).mxNext = (id + 1) % 2 ^ 32 ∧ AMap.get (w.cluster cl).mxJobs id = some j ∧ j.status = 0 ∧
          j.core = s.cur.1 ∧ j.slot = s.cur.2 ∧ j.first = first ∧ j.tiles = tiles ∧ j.seed = s.me.ctl.srseed ∧ p j ∧
          (0, id) ∈ w.me.jobs ∧ Claims.shutFor w s.cur.1 id false lo (lo + 4096 * tiles))
    let offending := mxOffs s cl part r
    (s.me.tol.isOpen = true → exec (.mx h a m) s = Claims.raises s 0x0D 0 2) ∧
    (s.me.tol.isOpen = false → x.toNat % 64 ≠ 0 → exec (.mx h a m) s = Claims.raises s 0x04 x 64) ∧
    (x.toNat % 64 = 0 → Claims.poolReadable s x o 64 → Claims.submits s →
      (∀ off, offending.min? = some off → ∃ w, exec (.mx h a m) s = .next (takeTrap w s.cur.1 s.cur.2
        { cause := 0x0F, addr := x, info := BitVec.ofNat 64 off } true)) ∧
      (offending = [] →
        ((isNested (mxStored r false) || isNested (mxStored r true)) = true → s.me.place.feat.getLsbD 14 = true) →
        (mxSparse r ≠ 0 → s.me.place.feat.getLsbD 15 = true) → mxBadBase r = none →
        checkRanges s (poolRanges (mxHull s s.cur.1 r false) ++ poolRanges (mxHull s s.cur.1 r true)) = none →
        r / 2 ^ 384 % 2 ^ 64 = 0 →
        accepted (.mx h a m) (mxAcc r) (mxTiles r) (fun j => j.record = r ∧ j.zero = none))) ∧
    (n = 0 ∨ t < 0 ∨ (partAcc part : Int) < t + n → exec (.accZero h a b c) s = Claims.raises s 0x0A
      (BitVec.ofInt 64 (0xFE * 2 ^ 56 + accStart part + 4096 * t)) 0) ∧
    (n ≠ 0 → 0 ≤ t → t + n ≤ partAcc part → sidingIdle s s.cur.1 s.cur.2 = true →
      accepted (.accZero h a b c) t.toNat n.toNat (fun j => j.zero = some (t.toNat, n.toNat) ∧
        (n < 0 → j.ended = some (1, 0))))

/-! ### Atomics, bank updates and barriers (20) -/

/-- R392 (Table 2): the new value of an integer operation on w bits. -/
def Claims.combined (n : AOp) (w : Nat) (u : Bool) (old v : BitVec w) : BitVec w :=
  let below := if u then decide (old.toNat ≤ v.toNat) else decide (old.toInt ≤ v.toInt)
  let above := if u then decide (v.toNat ≤ old.toNat) else decide (v.toInt ≤ old.toInt)
  match n with
  | .swap => v
  | .add => old + v
  | .and => old &&& v
  | .or => old ||| v
  | .xor => old ^^^ v
  | .min => if below then old else v
  | .max => if above then old else v

/-- A value of w bits that a register takes: a float or an unsigned one with zeros above, any other with its sign. -/
def Claims.widened (w : Nat) (u : Bool) (old : Nat) : Word :=
  if u then BitVec.ofNat 64 old else (BitVec.ofNat w old).signExtend 64

/-- Of module DRAM only the bytes at a translated address change, and they read as written; host memory, the keys'
generations and every pool stay. -/
def Claims.wroteOnly (s w : State) (tr : Trans) (bs : List Byte) : Prop :=
  w.mem.lineBytes tr.line tr.key tr.off bs.length = bs ∧
  (∀ i, i < 64 → (i < tr.off ∨ tr.off + bs.length ≤ i) →
    w.mem.lineBytes tr.line tr.key i 1 = s.mem.lineBytes tr.line tr.key i 1) ∧
  (∀ l k i, i < 64 → l ≠ tr.line → w.mem.lineBytes l k i 1 = s.mem.lineBytes l k i 1) ∧
  w.mem.host = s.mem.host ∧ w.mem.keyGen = s.mem.keyGen ∧ ∀ c, (w.core c).pool = (s.core c).pool

/-- An atomic of n bytes at m can act at once: no tolerant region, alignment, a closed and released region, a translation
for a write to module DRAM behind no closed shutter and off the bytes that the governor holds (R299, R37), a home with
nothing before it, and no poison (R394). -/
def Claims.atomicOpen (s : State) (m : Word) (n : Nat) (tr : Trans) : Prop :=
  s.me.tol.isOpen = false ∧ m.toNat % n = 0 ∧ Claims.closes s ∧ Claims.releaseFree s .mod ∧ Claims.tlbHit s m .write tr ∧
  tr.host = false ∧ homeReady s tr = true ∧ s.mem.poisoned (tr.line * 64 + tr.off) n = false ∧ tr.off + n ≤ 64 ∧
  globalShut s.myCore m.toNat n = false ∧ ∀ i, i < n → deviceHeld s (tr.line * 64 + tr.off + i) = false

/-- R392, R394: `amo` writes the combined value at the home, gives the old one, raises the flags of a rounding and drops
the core's near cache; `amo.cas` writes only where the old value equals the register. The integer operations are
those of Table 2. -/
def Claims.Atomics : Prop :=
  ∀ (h : Hdr) (t : ATy) (q : PTy) (n : AOp) (r : Rnd) (u : Bool) (a e : Fin 64) (m : Mem) (c : GSrc) (s : State) (tr : Trans),
    guardHolds s h = true → s.memWf = true →
    let k := aBytes t
    let j := pBytes q
    let old := ofBytes (s.mem.lineBytes tr.line tr.key tr.off k)
    let was := ofBytes (s.mem.lineBytes tr.line tr.key tr.off j)
    let v := (readGSrc s c).toNat % 256 ^ k
    let gens := (s.cluster (homeSlice s tr.line)).homeGens
    let new := applyAOp (aTy t) n u (rndNum s r) gens old v
    let done (w : State) (x : Word) (f : Flags) : Prop := w.cur = s.cur ∧ w.me.pc = s.me.pc + 12 ∧
      (∀ i, w.me.rdG i = if i = a.val ∧ i ≠ 0 then x else s.me.rdG i) ∧
      w.me.ctl = { s.me.ctl with fflags := s.me.ctl.fflags ||| BitVec.ofNat 6 f } ∧ w.myCore.near = []
    (Claims.atomicOpen s (memAddr s m k) k tr → ∃ w, exec (.amo h t n r u a m c) s = .next w ∧
      done w (Claims.widened (8 * k) (u || t == .f32) old) new.2.1 ∧ Claims.wroteOnly s w tr (toBytes k new.1)) ∧
    (Claims.atomicOpen s (memAddr s m j) j tr → ∃ w, exec (.amoCas h q a m e) s = .next w ∧
      done w (Claims.widened (8 * j) false was) 0 ∧
      (if was = (s.rdG a.val).toNat % 256 ^ j then Claims.wroteOnly s w tr (toBytes j (s.rdG e.val).toNat)
       else Claims.wroteOnly s w tr (s.mem.lineBytes tr.line tr.key tr.off j))) ∧
    (∀ x y, applyAOp .i64 n u 0 gens x y = ((Claims.combined n 64 u (BitVec.ofNat 64 x) (BitVec.ofNat 64 y)).toNat, 0, gens)) ∧
    (∀ x y, applyAOp .i32 n u 0 gens x y = ((Claims.combined n 32 u (BitVec.ofNat 32 x) (BitVec.ofNat 32 y)).toNat, 0, gens))

/-- R395, R396, R397, R398: `red` joins the write queue, with its barrier if the register names one; a line held in the
region buffer closes the region first, which counts as a split. A window address traps with 0x0A and a tolerant
region with 0x0D. -/
def Claims.Reductions : Prop :=
  ∀ (h : Hdr) (t : ATy) (n : AOp) (r : Rnd) (u : Bool) (m : Mem) (b : GSrc) (c : Fin 64) (s : State) (tr : Trans)
    (bar : Option (Nat × Nat)), guardHolds s h = true →
    let k := aBytes t
    let a := memAddr s m k
    let go := exec (.red h t n r u m b c) s
    let x := s.rdG c.val
    let entry : QWrite := { host := false, line := tr.line, off := tr.off, checked := tr.checked, key := tr.key
                            op := .reduce n t u (rndNum s r) ((readGSrc s b).toNat % 256 ^ k) bar }
    (s.me.tol.isOpen = true → go = Claims.raises s 0x0D 0 2) ∧
    (s.me.tol.isOpen = false → a.toNat % k ≠ 0 → go = Claims.raises s 0x04 a k) ∧
    (s.me.tol.isOpen = false → a.toNat % k = 0 → x = 0 → a.toNat / 2 ^ 56 = 0xFE →
      go = Claims.raises s 0x0A a (a.toNat / 2 ^ 48 % 2 ^ 8)) ∧
    (s.me.tol.isOpen = false → a.toNat % k = 0 → Claims.globalOpen s a k .write tr →
      (bar = none ∧ x = 0 ∨ ∃ p, bar = some p ∧ c.val ≠ 0 ∧ x ≠ 0 ∧ x.toNat % 8 = 0 ∧ tagTarget s x 8 = .inr p) →
      (AMap.get s.me.rgn.held tr.line = none → wqFull s.myCore = false →
        ∃ w, go = .next w ∧ Claims.onlyPc s w ∧ w.mem = s.mem ∧ w.me.rgn = s.me.rgn ∧ w.me.wq = s.me.wq ++ [entry]) ∧
      ((AMap.get s.me.rgn.held tr.line).isSome = true → Claims.closes s →
        let s1 := (closeRegion s s.cur.1 s.cur.2).2
        (wqFull s1.myCore = false → ∃ w, go = .next w ∧ w.me.pc = s.me.pc + 12 ∧ w.me.g = s.me.g ∧ w.me.rgn.held = [] ∧
          w.me.ctl.rsplits = s.me.ctl.rsplits + 1 ∧ w.me.wq = s1.me.wq ++ [entry])))

/-- R392, R394 to R398: atomics and reductions.
When an atomic acts at its home is the model's reading (log 38). -/
def Obligations.AtomicsAndReductions : Prop := Claims.Atomics ∧ Claims.Reductions

/-- R399 (Table 3): the integer update functions, on 32-bit words. -/
def Claims.update (code : Nat) (w v : BitVec 32) : BitVec 32 :=
  if code = 0 then w + v
  else if code = 1 then BitVec.ofInt 32 (max (-2 ^ 31) (min (w.toInt + v.toInt) (2 ^ 31 - 1)))
  else if code = 3 then (if w.toInt ≤ v.toInt then w else v)
  else if code = 4 then (if v.toInt ≤ w.toInt then w else v)
  else if code = 5 then (if w.toNat ≤ v.toNat then w else v)
  else if code = 6 then (if v.toNat ≤ w.toNat then w else v)
  else if code = 9 then w &&& v
  else if code = 10 then w ||| v
  else if code = 11 then w ^^^ v
  else if code = 12 then v
  else if v.toNat ≤ w.toNat then 0 else w + 1

/-- R399, R400: a bank update of an own scratchpad word applies the function that its slot names, sets the tag under
`.tag`, and for `bupd.r` gives the old word; `bcfg` sets a slot of the function table of the pool it names. The
integer functions are those of Table 3. -/
def Obligations.BankUpdates : Prop :=
  ∀ (h : Hdr) (n : Fin 4) (u : Bool) (a b : Fin 64) (k : Fin 14) (m : Mem) (x : GSrc) (s : State) (o : Nat),
    guardHolds s h = true → s.me.tol.isOpen = false → s.memWf = true → (∀ c, (s.core c).bank = []) →
    let p := memAddr s m 4
    let v := (readGSrc s x).toNat % 2 ^ 32
    let old := s.myCore.num o 4
    let new := bankFn (AMap.getD s.myCore.fns n.val 0) old v
    let stores (w : State) : Prop := Claims.storedOnly s w o (toBytes 4 new) ∧
      (if u then Claims.tagsSet s w o 4 true else w.myCore.emptyTags = s.myCore.emptyTags)
    (o % 4 = 0 → inScratch s.myCore.part o 4 = true → Claims.poolOpen s p o 4 → s.myCore.poisoned o 4 = false →
      (∃ w, exec (.bupd h n u m x) s = .next w ∧ Claims.onlyPc s w ∧ stores w) ∧
      (∃ w, exec (.bupdR h n u a m x) s = .next w ∧
        Claims.gives s w a ((BitVec.ofNat 32 old).signExtend 64) ∧ stores w)) ∧
    (∀ c, (decodeAddr (s.rdG b.val) = .own o ∧ c = s.cur.1 ∨
        ∃ q, decodeAddr (s.rdG b.val) = .peer q o ∧ c = peerCore s s.cur.1 q) →
      ∃ w, exec (.bcfg h n b k) s = .next w ∧ Claims.onlyPc s w ∧ AMap.get (w.core c).fns n.val = some k.val ∧
        (∀ i, i ≠ n.val → AMap.get (w.core c).fns i = AMap.get (s.core c).fns i) ∧
        Claims.sameMem s w ∧ ∀ d, (w.core d).pool = (s.core d).pool) ∧
    (∀ code (y z : BitVec 32), code < 14 → code ≠ 2 → code ≠ 7 → code ≠ 8 →
      bankFn code y.toNat z.toNat = (Claims.update code y z).toNat)

/-- R403: the doubleword of a barrier after an arrival of count a. The phases that complete are counted at once: the
first ends after `pending` arrivals and each further one after `count`. -/
def Claims.arrival (b a : Nat) : Nat :=
  let count := b % 2 ^ 16
  let pending := b / 2 ^ 16 % 2 ^ 16
  let phase := b / 2 ^ 48 % 2 ^ 16
  let rest := a - pending
  let word (p f : Nat) : Nat := count + p * 2 ^ 16 + b / 2 ^ 32 % 2 ^ 16 * 2 ^ 32 + f * 2 ^ 48
  if count = 0 ∨ a = 0 then b
  else if a < pending then word (pending - a) phase
  else word (count - rest % count) ((phase + 1 + rest / count) % 2 ^ 16)

/-- R402, R403, R404: the barrier instructions on a barrier of the own scratchpad. -/
def Claims.BarrierInstructions : Prop :=
  ∀ (h : Hdr) (a : Fin 64) (m : Mem) (x : GSrc) (s : State) (o : Nat), guardHolds s h = true → s.memWf = true →
    let p := memAddr s m 8
    let n := (readGSrc s x).toNat % 2 ^ 16
    let b := s.myCore.num o 8
    let phase := b / 2 ^ 48
    o % 8 = 0 → inScratch s.myCore.part o 8 = true → Claims.poolOpen s p o 8 →
    (Claims.lineRoom s o → ∃ w, exec (.barInit h m x) s = .next w ∧ Claims.onlyPc s w ∧
      Claims.storedOnly s w o (toBytes 6 (n + n * 2 ^ 16))) ∧
    (s.me.tol.isOpen = false → Claims.closes s → Claims.releaseFree s .clu → s.myCore.poisoned o 8 = false →
      ∃ w, exec (.barArr h a m x) s = .next w ∧ Claims.gives s w a (BitVec.ofNat 64 phase) ∧
        Claims.storedOnly s w o (toBytes 8 (Claims.arrival b n))) ∧
    (Claims.poolReadable s p o 8 →
      (phase ≠ n → ∃ w, exec (.barWait h m x) s = .next w ∧ Claims.onlyPc s w ∧ w.myCore.near = [] ∧
        Claims.sameMem s w ∧ ∀ c, (w.core c).pool = (s.core c).pool) ∧
      (phase = n → exec (.barWait h m x) s = .next (parkMe s (.barrier s.cur.1 o n))) ∧
      exec (.barTest h a m) s = retired h s (s.wrG a.val (BitVec.ofNat 64 b)))

/-- R405, R406: `tbar` and `nred` check the place of their answer, close the region and wait as a release at .die; then
the tags of the answer become empty and the arrival enters the episode of its die, root launch and group, whose first
arrival fixes the count and the operation. -/
def Claims.TreeArrivals : Prop :=
  ∀ (h : Hdr) (t : NTy) (n : AOp) (r : Rnd) (u : Bool) (a c : GSrc) (b : Fin 64) (s : State), guardHolds s h = true →
    let o := (readGSrc s a).toNat
    let place := BitVec.ofNat 64 (0xFE * 2 ^ 56 + o)
    let spec := (readGSrc s c).toNat
    let root := rootOf s s.me.place.launch
    let key := root * 16 + spec % 16
    let d := s.die (dieOf s.cur.1)
    let arrives (i : Instr) (v : Word) (red : Option (NTy × AOp × Bool × Nat)) : Prop :=
      (s.me.tol.isOpen = true → exec i s = Claims.raises s 0x0D 0 2) ∧
      (s.me.tol.isOpen = false → o % 8 ≠ 0 → exec i s = Claims.raises s 0x04 place 8) ∧
      (s.me.tol.isOpen = false → o % 8 = 0 → inScratch s.myCore.part o 8 = false → exec i s = Claims.raises s 0x0A place 0) ∧
      (s.me.tol.isOpen = false → o % 8 = 0 → inScratch s.myCore.part o 8 = true → Claims.closes s → Claims.releaseFree s .die →
        (treeBusy d key s.cur.1 s.cur.2 = true → ∃ w, exec i s = .next w ∧ w.me.status = .parked .tree ∧ w.me.pc = s.me.pc) ∧
        (treeBusy d key s.cur.1 s.cur.2 = false →
          ∃ w e, exec i s = .next w ∧ Claims.onlyPc s w ∧ Claims.tagsSet s w o 8 false ∧ Claims.sameMem s w ∧
            (∀ c, (w.core c).pool = (s.core c).pool) ∧ AMap.get (w.die (dieOf s.cur.1)).episodes key = some e ∧
            (let arrival : Arrival := { core := s.cur.1, slot := s.cur.2, off := o, val := v }
             match AMap.get d.episodes key with
             | none => e = { launch := root, group := spec % 16, n := spec / 16 % 1024 + 1, red := red, arrivals := [arrival] }
             | some f => e = { f with arrivals := f.arrivals ++ [arrival] })))
    arrives (.tbar h a c) 0 none ∧
    arrives (.nred h t n r u a b c) (s.rdG b.val) (some (t, n, u, rndNum s r))

/-- R402 to R406: barriers in memory and the trees of a die. -/
def Obligations.Barriers : Prop := Claims.BarrierInstructions ∧ Claims.TreeArrivals

/-! ### Waiting, messages, transoms and polling (20) -/

/-- R408: the bit offset of the first fault of a wait condition. -/
def Claims.badCondition (part : Word) (x : Nat) : Option Nat :=
  let kind := x % 16
  let off := x / 2 ^ 8 % 2 ^ 24
  let size := if kind = 3 then 8 else if kind = 1 ∨ kind = 2 ∨ kind = 7 then 4 else 0
  if 8 ≤ kind then some 0
  else if x / 16 % 16 ≠ 0 then some (4 + ((List.range 4).find? (fun i => (x / 16).testBit i)).getD 0)
  else if size ≠ 0 ∧ (off % size ≠ 0 ∨ inScratch part off size = false) then some 8
  else none

/-- R408 (Table 6): does a wait condition hold for the acting thread? -/
def Claims.conditionHolds (s : State) (x : Nat) : Bool :=
  let off := x / 2 ^ 8 % 2 ^ 24
  let operand := x / 2 ^ 32 % 2 ^ 32
  let final (q : Nat) : Bool := decide (renamedWord s s.cur.1 s.cur.2 q operand / 2 ^ 32 % 8 ≠ 0)
  let kind := x % 16
  if kind = 1 then s.myCore.tagFull off
  else if kind = 2 then !s.myCore.tagFull off
  else if kind = 3 then decide (s.myCore.num off 8 / 2 ^ 48 ≠ operand % 2 ^ 16)
  else if kind = 4 then final 0
  else if kind = 5 then final 1
  else if kind = 6 then decide (s.me.msgCount ≠ 0)
  else if kind = 7 then decide (s.myCore.num off 4 ≠ operand)
  else false

/-- R409, R410: `wait` reports the first fault of its block, else the mask of the conditions that hold (a held kind-6
one clears the message count), else 0x10 once the tick has come, and else parks; `pause` leaves the pipe and is not ready
for at most 65,535 cycles. -/
def Claims.WaitAndPause : Prop :=
  ∀ (h : Hdr) (a c : Fin 64) (m : Mem) (x : GSrc) (s : State) (o : Nat), guardHolds s h = true →
    let block := s.myCore.num o 32
    let cond (i : Nat) : Nat := block / 2 ^ (64 * i) % 2 ^ 64
    let bad (i : Nat) : Option Nat := Claims.badCondition s.myCore.part (cond i)
    let holds (i : Nat) : Bool := Claims.conditionHolds s (cond i)
    let held := (List.range 4).filter holds
    let mask := (held.map (fun i => 2 ^ i)).sum
    let p := min (readGSrc s x).toNat 65535
    (o % 32 = 0 → inScratch s.myCore.part o 32 = true → Claims.poolReadable s (memAddr s m 8) o 32 →
      (∀ i f, i < 4 → (∀ j, j < i → bad j = none) → bad i = some f →
        exec (.wait h a m c) s = retired h s (s.wrG a.val (BitVec.ofNat 64 (2 ^ 63 + 64 * i + f)))) ∧
      ((∀ i, i < 4 → bad i = none ∧ condStop s (cond i) = none) →
        (held ≠ [] → ∃ w, exec (.wait h a m c) s = .next w ∧ Claims.gives s w a (BitVec.ofNat 64 mask) ∧
          w.me.msgCount = (if held.any (fun i => cond i % 16 == 6) then 0 else s.me.msgCount)) ∧
        (held = [] → c.val ≠ 0 → (s.rdG c.val).toNat ≤ s.time.tick →
          exec (.wait h a m c) s = retired h s (s.wrG a.val 0x10)) ∧
        (held = [] → c.val = 0 ∨ s.time.tick < (s.rdG c.val).toNat →
          exec (.wait h a m c) s = .next (parkMe s .cond)))) ∧
    (∃ w, exec (.pause h x) s = .next w ∧ Claims.onlyPc s w ∧ w.myCore.inPipe = none ∧
      w.me.status = if p = 0 then .ready else .paused (s.time.cycle + p))

/-- R411, R414, R415: `msg.send` releases at .mod and sends; the hatch instructions append to the outgoing lane of the
slot, take from its incoming lane, park on a full or an empty lane, and count the free entries. Lanes k of a pair lie on
the lower core, 4 + k those toward it. -/
def Claims.MessagesAndTransoms : Prop :=
  ∀ (h : Hdr) (a b : Fin 64) (x : GSrc) (s : State) (v : Word) (vs : List Word), guardHolds s h = true →
    let c := s.cur.1
    let k := s.cur.2
    let upper : Bool := c / 256 % 2 == 1
    let lower := if upper then c - 256 else c
    let out := if upper then 4 + k else k
    let inn := if upper then k else 4 + k
    let lane (w : State) (i : Nat) : List Word := AMap.getD (w.core lower).lanes i []
    let t := (s.rdG a.val).toNat
    let to' := t / 2 ^ 12 % 16 * 256 + t / 2 ^ 8 % 16 * 16 + t / 2 ^ 4 % 16
    let traps := Claims.raises s 0x0D 0 2
    (s.me.tol.isOpen = true → exec (.msgSend h a b x) s = traps ∧ exec (.hatchPut h x) s = traps ∧
      exec (.hatchGet h a) s = traps) ∧
    (s.me.tol.isOpen = false → Claims.closes s → Claims.releaseFree s .mod →
      ∃ (w : State) (msg : Msg), exec (.msgSend h a b x) s = .next w ∧ Claims.onlyPc s w ∧ Claims.sameMem s w ∧
        (w.core to').msgs = (s.core to').msgs ++ [msg] ∧ msg.core = to' ∧ msg.slot = t / 2 ^ 16 % 4 ∧
        msg.target = s.rdG a.val ∧ msg.gen = (s.rdG b.val).toNat % 2 ^ 32 ∧ msg.payload = readGSrc s x ∧
        msg.fromCore = c ∧ msg.fromSlot = k ∧ msg.space = s.me.place.spaceid) ∧
    (s.me.tol.isOpen = false →
      ((lane s out).length < 8 → ∃ w, exec (.hatchPut h x) s = .next w ∧ Claims.onlyPc s w ∧ w.mem = s.mem ∧
        lane w out = lane s out ++ [readGSrc s x] ∧ ∀ i, i ≠ out → lane w i = lane s i) ∧
      (8 ≤ (lane s out).length → exec (.hatchPut h x) s = .next (parkMe s .transom)) ∧
      (lane s inn = v :: vs → ∃ w, exec (.hatchGet h a) s = .next w ∧ Claims.gives s w a v ∧ w.mem = s.mem ∧
        lane w inn = vs ∧ ∀ i, i ≠ inn → lane w i = lane s i) ∧
      (lane s inn = [] → exec (.hatchGet h a) s = .next (parkMe s .transom))) ∧
    exec (.hatchFree h a) s = retired h s (s.wrG a.val (BitVec.ofNat 64 (8 - (lane s out).length)))

/-- R417: the lower doubleword of the completion word of a job of the cluster, as a poll reads it. -/
def Claims.completion (s : State) (q : Bool) (id : Nat) : Word :=
  let x := s.cluster (clusterOf s.cur.1)
  let age := ((if q then x.copyNext else x.mxNext) + 2 ^ 32 - id) % 2 ^ 32
  let listed : Option Nat :=
    if q then (AMap.get x.copyJobs id).map (fun j => j.id + j.status * 2 ^ 32 + j.code * 2 ^ 40 + j.grade.toNat * 2 ^ 48)
    else (AMap.get x.mxJobs id).map (fun j => j.id + j.status * 2 ^ 32 + j.code * 2 ^ 40 + j.grade.toNat * 2 ^ 48)
  BitVec.ofNat 64 (
    if age = 0 ∨ 2 ^ 31 ≤ age then id + 2 * 2 ^ 32 + 0xFF * 2 ^ 40
    else if age ≤ (if q then 32 else 16) then listed.getD (id + 2 ^ 32)
    else id + 2 ^ 32)

/-- R417, R418: `job.poll` gives the completion word, and with .acq drops the near cache on a final status; `job.cancel`
marks a pending job of the same stage and answers 0, answers 1 for a final one, and 2 for another stage's job or an
identifier outside the window. -/
def Claims.JobPollAndCancel : Prop :=
  ∀ (h : Hdr) (a : Fin 64) (b : GSrc) (q : Bool) (s : State) (j : CopyJob) (x : MatrixJob), guardHolds s h = true →
    let cl := clusterOf s.cur.1
    let id := (readGSrc s b).toNat % 2 ^ 32
    let v := Claims.completion s q id
    let age (next : Nat) : Nat := (next + 2 ^ 32 - id) % 2 ^ 32
    let mine (launch node : Nat) : Prop := launch = s.me.place.launch ∧ node = s.me.place.node
    let gets (q : Bool) (n : Word) : Prop := exec (.jobCancel h a b q) s = retired h s (s.wrG a.val n)
    (s.me.tol.isOpen = true → exec (.jobCancel h a b q) s = Claims.raises s 0x0D 0 2) ∧
    (AMap.get s.me.ren ((if q then 2 ^ 32 else 0) + id) = none →
      exec (.jobPoll h a b q) s = retired h s (s.wrG a.val v) ∧
      (∃ w, exec (.jobPollAcq h a b q) s = .next w ∧ Claims.gives s w a v ∧ w.mem = s.mem ∧
        w.myCore.near = if v.toNat / 2 ^ 32 % 8 = 0 then s.myCore.near else [])) ∧
    (s.me.tol.isOpen = false → AMap.get s.me.ren (2 ^ 32 + id) = none → AMap.get s.me.ren id = none →
      (age (s.cluster cl).copyNext = 0 ∨ 32 < age (s.cluster cl).copyNext → gets true 2) ∧
      (age (s.cluster cl).mxNext = 0 ∨ 16 < age (s.cluster cl).mxNext → gets false 2) ∧
      (0 < age (s.cluster cl).copyNext → age (s.cluster cl).copyNext ≤ 32 → AMap.get (s.cluster cl).copyJobs id = some j →
        j.id = id → j.status < 5 →
        (¬mine j.launch j.node → gets true 2) ∧ (mine j.launch j.node → j.status ≠ 0 → gets true 1) ∧
        (mine j.launch j.node → j.status = 0 → ∃ w, exec (.jobCancel h a b true) s = .next w ∧ Claims.gives s w a 0 ∧
          AMap.get (w.cluster cl).copyJobs id = some { j with cancel := true })) ∧
      (0 < age (s.cluster cl).mxNext → age (s.cluster cl).mxNext ≤ 16 → AMap.get (s.cluster cl).mxJobs id = some x →
        x.id = id → x.status < 5 →
        (¬mine x.launch x.node → gets false 2) ∧ (mine x.launch x.node → x.status ≠ 0 → gets false 1) ∧
        (mine x.launch x.node → x.status = 0 → ∃ w, exec (.jobCancel h a b false) s = .next w ∧ Claims.gives s w a 0 ∧
          AMap.get (w.cluster cl).mxJobs id = some { x with cancel := true })))

/-- R408, R409, R410, R411, R414, R415, R417, R418: waiting, messages, transoms and jobs. -/
def Obligations.WaitsMessagesJobs : Prop := Claims.WaitAndPause ∧ Claims.MessagesAndTransoms ∧ Claims.JobPollAndCancel

/-! ### The content store (18) -/

/-- No request of this instruction is under way. -/
def Claims.cnFresh (s : State) : Prop := ∀ r, s.me.cn = some r → r.pc ≠ s.me.pc

/-- The thread waits with a request sent: nothing is written and pc stays (R367). -/
def Claims.asks (s w : State) (kind : CnKind) (name data : Nat) (area : Word) : Prop :=
  (∃ r, w.me.cn = some r ∧ r.pc = s.me.pc ∧ r.kind = kind ∧ r.space = s.me.place.spaceid ∧ r.name = name ∧ r.data = data ∧
    r.area = area.toNat ∧ r.answered = false) ∧ w.me.pc = s.me.pc ∧ w.me.g = s.me.g ∧ w.mem = s.mem

/-- The home's directory lines of a request translate, so that it is sent at once. -/
def Claims.reaches (s : State) (kind : CnKind) (name data : Nat) (area : Word) : Prop :=
  ∀ va k st, homeRequest s.cur.1 s.cur.2 (mkReq s kind name data area) s ≠ .error (.walk va k st)

/-- A sent request that has no answer waits without any change, and one that met poison traps with 0x10, xinfo 3 (R367,
R371). -/
def Claims.waitsFor (s : State) (i : Instr) (r : CnReq) : Prop :=
  (r.answered = false → exec i s = .next s) ∧
  (r.answered = true → r.status = 16 → ∃ w, exec i s = .next (takeTrap w s.cur.1 s.cur.2
    { cause := 0x10, addr := BitVec.ofNat 64 r.area, info := 3 } true))

/-- The result word of R371. -/
def Claims.cnResult (status hi : Nat) : Word := BitVec.ofNat 64 (hi % 2 ^ 32 * 2 ^ 32 + status)

/-- R367, R370, R371, R372: `cn.get`, `cn.get.ref`, `cn.ref` and `cn.unref` with a name area in the own pool: the gathering
with its traps, the request, and the result, which shows the slot of a hit for the two forms of `cn.get` only. -/
def Claims.ContentNames : Prop :=
  ∀ (h : Hdr) (a : Fin 64) (m : Mem) (s : State) (o : Nat) (r : CnReq), guardHolds s h = true →
    let x := memAddr s m 16
    let n := s.myCore.num o 16
    let form (i : Instr) (kind : CnKind) (shows tolerant : Bool) : Prop :=
      (Claims.cnFresh s →
        (s.me.tol.isOpen = true → tolerant = false → exec i s = Claims.raises s 0x0D 0 2) ∧
        (s.me.tol.isOpen = false ∨ tolerant = true →
          (x.toNat % 16 ≠ 0 → exec i s = Claims.raises s 0x04 x 16) ∧
          (x.toNat % 16 = 0 → Claims.poolReadable s x o 16 →
            (storeOf s s.me.place.spaceid = none → exec i s = Claims.raises s 0x10 0 1) ∧
            ((storeOf s s.me.place.spaceid).isSome = true →
              (n / 2 ^ 96 ≠ 0 → exec i s = Claims.raises s 0x10 x 2) ∧
              (n / 2 ^ 96 = 0 → Claims.reaches s kind n 0 x →
                ∃ w, exec i s = .next w ∧ Claims.asks s w kind n 0 x))))) ∧
      (s.me.cn = some r → r.pc = s.me.pc →
        Claims.waitsFor s i r ∧
        (r.answered = true → r.status ≠ 16 → ∃ w, exec i s = .next w ∧ w.me.cn = none ∧
          Claims.gives s w a (Claims.cnResult r.status (if shows && r.status == 0 then r.slotIdx else 0))))
    form (.cnGet h a m) .get true true ∧ form (.cnGetRef h a m) .inc true false ∧
    form (.cnRef h a m) .inc false false ∧ form (.cnUnref h a m) .dec false false

/-- After a write only the bytes [o, o + bs.length) of the acting core's pool differ, and they read as written. -/
def Claims.poolOnly (s t : State) (o : Nat) (bs : List Byte) : Prop :=
  t.myCore.bytes o bs.length = bs ∧
  (∀ x, x < o ∨ o + bs.length ≤ x → Cells.get t.myCore.pool x = Cells.get s.myCore.pool x) ∧
  ∀ c, c ≠ s.cur.1 → (t.core c).pool = (s.core c).pool

/-- R364: a node line that is malformed: its format, its count, its reserved bits, or a child name of the wrong kind. -/
def Claims.malformedNode (x : Nat) : Prop :=
  let n := x / 2 ^ 8 % 2 ^ 8
  x % 2 ^ 8 ≠ 0xC0 ∨ n = 0 ∨ 4 < n ∨ x / 2 ^ 16 % 2 ^ 48 ≠ 0 ∨
    ∃ j, j < 4 ∧ ¬(x / 2 ^ (128 + 96 * j) % 2 ^ 96 = 0 ↔ n ≤ j)

/-- R373, R374, R375: `cn.put` and `cn.node` end with status 5 on a malformed line, else send it under its name; an answer
writes the name area and the result, the slot for a hit or an allocation. A stale `cn.swap` leaves the kite in its
block; `cn.root` writes the kite and its serial and drops the near cache. The line and the areas lie in the own pool. -/
def Claims.ContentLinesAndKites : Prop :=
  ∀ (h : Hdr) (a c : Fin 64) (m : Mem) (s : State) (o p : Nat) (r : CnReq) (st : Store), guardHolds s h = true →
    s.memWf = true → Claims.lineRoom s p →
    let x := memAddr s m 64
    let area := s.rdG c.val
    let line := s.myCore.num o 64
    let name := lineName s st (s.myCore.bytes o 64)
    let install (i : Instr) (kind : CnKind) (malformed : Prop) : Prop :=
      (Claims.cnFresh s → s.me.tol.isOpen = true → exec i s = Claims.raises s 0x0D 0 2) ∧
      (Claims.cnFresh s → s.me.tol.isOpen = false → x.toNat % 64 ≠ 0 → exec i s = Claims.raises s 0x04 x 64) ∧
      (Claims.cnFresh s → s.me.tol.isOpen = false → x.toNat % 64 = 0 → area.toNat % 16 = 0 → Claims.poolReadable s x o 64 →
        Claims.poolOpen s area p 16 → storeOf s s.me.place.spaceid = some st →
        (malformed → ∃ w, exec i s = .next w ∧ Claims.gives s w a 5 ∧ Claims.poolOnly s w p (toBytes 16 name)) ∧
        (¬malformed → Claims.reaches s kind name line area →
          ∃ w, exec i s = .next w ∧ Claims.asks s w kind name line area)) ∧
      (s.me.cn = some r → r.pc = s.me.pc →
        Claims.waitsFor s i r ∧
        (r.answered = true → r.status ≠ 16 → Claims.poolOpen s area p 16 →
          ∃ w, exec i s = .next w ∧ w.me.cn = none ∧ Claims.poolOnly s w p (toBytes 16 r.name) ∧
            Claims.gives s w a (Claims.cnResult r.status (if r.status < 2 then r.slotIdx else 0))))
    let kite (i : Instr) : Prop := s.me.cn = some r → r.pc = s.me.pc →
      Claims.waitsFor s i r ∧
      (r.answered = true → r.status ≠ 16 → Claims.poolOpen s area p 16 →
        ∃ w, exec i s = .next w ∧ w.me.cn = none ∧ Claims.poolOnly s w p (toBytes 16 r.kite) ∧ w.myCore.near = [] ∧
          Claims.gives s w a (Claims.cnResult r.status (r.kite / 2 ^ 96 % 2 ^ 32)))
    install (.cnPut h a m c) .put (line % 256 = 0xC0) ∧
    install (.cnNode h a m c) .node (Claims.malformedNode line) ∧
    (s.me.cn = some r → r.pc = s.me.pc →
      Claims.waitsFor s (.cnSwap h a m c) r ∧
      (r.answered = true → r.status ≠ 16 → r.status ≠ 6 → ∃ w, exec (.cnSwap h a m c) s = .next w ∧ w.me.cn = none ∧
        Claims.gives s w a (BitVec.ofNat 64 r.status) ∧ w.mem = s.mem) ∧
      (r.answered = true → r.status = 6 → Claims.poolOpen s area p 16 → ∃ w, exec (.cnSwap h a m c) s = .next w ∧
        w.me.cn = none ∧ Claims.gives s w a 6 ∧ Claims.poolOnly s w p (toBytes 16 r.kite))) ∧
    kite (.cnRoot h a m c) ∧ kite (.cnRootRef h a m c)

/-- R364, R367, R370 to R375: names, lines and kites of the content store. -/
def Obligations.ContentInstructions : Prop := Claims.ContentNames ∧ Claims.ContentLinesAndKites

/-- R376, R377, R355: `cn.out` with its name and out block in the own pool submits a copy job behind a global shutter;
`cn.cfg` at handler privilege installs, replaces or removes the store of the space while it holds no entry, and
`cn.cfg.stat` reads a counter. At user privilege the last two trap with 0x03.
The answer to a misplaced base is the model's reading (log 56). -/
def Obligations.ContentOutAndConfiguration : Prop :=
  ∀ (h : Hdr) (a c : Fin 64) (m : Mem) (k : Fin 5) (s : State) (o p : Nat) (st : Store) (tr : Trans),
    guardHolds s h = true →
    let x := memAddr s m 16
    let area := s.rdG c.val
    let n := s.myCore.num o 16
    let blk := s.myCore.num p 16
    let dest := blk % 2 ^ 64
    let limit := blk / 2 ^ 64 % 2 ^ 32
    let cl := clusterOf s.cur.1
    let id := (s.cluster cl).copyNext
    let y := memAddr s m 64
    let r := s.myCore.num o 64
    let space := s.me.place.spaceid
    let nlog := r / 2 ^ 160 % 2 ^ 5
    let slots := r / 2 ^ 128 % 2 ^ 32
    let sound : Prop := 4 ≤ nlog ∧ nlog ≤ 20 ∧ slots ≠ 0 ∧ slots % 512 = 0 ∧ r / 2 ^ 64 % 2 ^ 64 % 64 = 0 ∧ r % 2 ^ 64 % 64 = 0
    let empty : Prop := ∀ f, storeOf s space = some f → f.used = []
    (s.me.tol.isOpen = true → exec (.cnOut h a m c) s = Claims.raises s 0x0D 0 2) ∧
    (x.toNat % 16 = 0 → area.toNat % 16 = 0 → Claims.submits s → Claims.poolReadable s x o 16 →
      Claims.poolReadable s area p 16 → storeOf s space = some st → dest % 64 = 0 →
      Claims.tlbHit s (BitVec.ofNat 64 dest) .write tr → n / 2 ^ 96 = 0 → blk / 2 ^ 96 = 0 → limit ≠ 0 →
      pendingJobs s cl 1 < 32 → 0 < openCount s.myCore →
      ∃ w j, exec (.cnOut h a m c) s = .next w ∧ Claims.gives s w a (BitVec.ofNat 64 id) ∧
        (w.cluster cl).copyNext = (id + 1) % 2 ^ 32 ∧ AMap.get (w.cluster cl).copyJobs id = some j ∧
        j.out = some (dest, limit) ∧ j.record = n ∧ j.status = 0 ∧ j.grade = 0 ∧
        Claims.shutFor w s.cur.1 id true dest (dest + 64 * limit)) ∧
    (s.me.priv = false → exec (.cnCfg h a m) s = Claims.raises s 0x03 0 0x84 ∧
      exec (.cnCfgStat h a k) s = Claims.raises s 0x03 0 0x84) ∧
    (s.me.priv = true → s.me.tol.isOpen = false → y.toNat % 64 = 0 → Claims.poolReadable s y o 64 →
      (r / 2 ^ 168 ≠ 0 ∨ r.testBit 165 = true → exec (.cnCfg h a m) s = Claims.raises s 0x10 y 2) ∧
      (r / 2 ^ 168 = 0 → r.testBit 165 = false →
        (sound → empty → ∃ w, exec (.cnCfg h a m) s = .next w ∧ Claims.gives s w a 0 ∧
          (r.testBit 167 = false → storeOf w space = none) ∧
          (r.testBit 167 = true → ∃ f, storeOf w space = some f ∧ f.cfg = r ∧ f.used = [] ∧ f.reclaim = [] ∧ f.collides = 0)) ∧
        (¬sound ∨ ¬empty → exec (.cnCfg h a m) s = retired h s (s.wrG a.val 1)))) ∧
    (s.me.priv = true → s.me.tol.isOpen = false → storeOf s space = some st →
      exec (.cnCfgStat h a k) s = retired h s (s.wrG a.val (BitVec.ofNat 64 (
        if k.val = 0 then liveCount s space st (fun _ => true)
        else if k.val = 1 then st.cfg / 2 ^ 128 % 2 ^ 32 - st.used.length
        else if k.val = 2 then (st.reclaim.map (fun e => e.2.length)).sum
        else if k.val = 3 then st.collides
        else liveCount s space st (fun x => x / 2 ^ 8 % 2 ^ 24 == 0xFFFFFF)))))

/-! ### Contexts (24) -/

/-- R440, R441, R442, R436: `ctx.save` of an own scratchpad writes the image of the thread as a load resumes it, with the
region kept open, gives 0, and parks while a job of the thread is pending; `ctx.drop` abandons what is in flight;
`ctx.load` checks the image in the own pool and continues with its registers at its pc. The last two need handler
privilege. -/
def Obligations.ContextInstructions : Prop :=
  ∀ (h : Hdr) (a : Fin 64) (m : Mem) (s : State) (o : Nat), guardHolds s h = true → s.memWf = true →
    let x := memAddr s m 8
    let b := s.myCore.num o 16384
    let image := savedImage s a
    let atImage : Prop := x = BitVec.ofNat 64 (0xFE * 2 ^ 56 + o) ∧ o < 2 ^ 40 ∧ o % 64 = 0 ∧
      poolShut s.myCore o 16384 = false
    let reads : Prop := atImage ∧ windowCheck s x 16384 false = none ∧ s.myCore.poisoned o 16384 = false
    let faults := imageFaults s s.cur.1 s.cur.2 b
    (s.me.tol.isOpen = true → exec (.ctxSave h a m) s = Claims.raises s 0x0D 0 2) ∧
    (s.me.tol.isOpen = false → x.toNat % 64 ≠ 0 → exec (.ctxSave h a m) s = Claims.raises s 0x04 x 64) ∧
    (s.me.tol.isOpen = false → atImage → windowCheck s x 16384 true = none → inScratch s.myCore.part o 16384 = true →
      sidingIdle s s.cur.1 s.cur.2 = true → s.me.ppoison = none →
      (jobsDone s = false → exec (.ctxSave h a m) s = .next (parkMe s .save)) ∧
      (jobsDone s = true → s.me.rel = none → ackedPending s s.cur.1 s.cur.2 = false →
        image.length = 16384 ∧
        (a.val ≠ 0 → ofBytes ((image.drop (0x40 + 8 * a.val)).take 8) = 1) ∧
        (∀ r, r < 64 → r ≠ a.val → ofBytes ((image.drop (0x40 + 8 * r)).take 8) = (s.rdG r).toNat) ∧
        ofBytes ((image.drop 8).take 8) = (s.me.pc + 12).toNat ∧
        ∃ w, exec (.ctxSave h a m) s = .next w ∧ Claims.gives s w a 0 ∧ w.me.rgn = s.me.rgn ∧
          Claims.storedOnly s w o image)) ∧
    (s.me.priv = false → exec (.ctxDrop h a) s = Claims.raises s 0x03 0 0xF2 ∧
      exec (.ctxLoad h m) s = Claims.raises s 0x03 0 0xF1) ∧
    (s.me.priv = true → ∃ w, exec (.ctxDrop h a) s = .next w ∧ w.cur = s.cur ∧ w.me.pc = s.me.pc + 12 ∧
      (∀ r, w.me.rdG r = if r = a.val ∧ r ≠ 0 then BitVec.ofNat 64 (dropContext s).1 else s.me.rdG r) ∧
      (s.me.jobs = [] → (dropContext s).1 = 0) ∧ w.me.rgn = Region.empty ∧ w.me.tol.isOpen = false ∧ w.me.rpt = none ∧
      w.me.answer = none ∧ w.me.ppoison = none ∧ w.me.streams = [] ∧ (∀ e ∈ w.myCore.seq, e.slot ≠ s.cur.2) ∧
      w.mem = s.mem ∧ ∀ c, (w.core c).pool = (s.core c).pool) ∧
    (s.me.priv = true → x.toNat % 64 ≠ 0 → exec (.ctxLoad h m) s = Claims.raises s 0x04 x 64) ∧
    (s.me.priv = true → reads →
      (∀ off, faults.min? = some off → exec (.ctxLoad h m) s = Claims.raises s 0x02 x (off % 2 ^ 16 + 3 * 2 ^ 16)) ∧
      (b % 2 ^ 64 ≠ s.myCore.part.toNat → exec (.ctxLoad h m) s = Claims.raises s 0x02 x (3 * 2 ^ 16)) ∧
      (faults = [] → b / 2 ^ 280 % 2 ^ 6 = 0 →
        ∃ w, exec (.ctxLoad h m) s = .next w ∧ w.cur = s.cur ∧ w.me.pc = BitVec.ofNat 64 (b / 2 ^ 64) ∧
          w.me.priv = b.testBit 128 ∧
          (∀ r, 0 < r → r < 64 → w.me.rdG r = BitVec.ofNat 64 (b / 2 ^ (8 * 0x40 + 64 * r))) ∧
          (∀ r, 0 < r → r < 8 → w.me.rdP r = b.testBit (8 * 0x240 + r)) ∧
          w.me.ctl.xpc = BitVec.ofNat 64 (b / 2 ^ (8 * 0x258)) ∧ w.me.ctl.fflags = BitVec.ofNat 6 (b / 2 ^ (8 * 0x2A8)) ∧
          w.me.tol.isOpen = b.testBit (8 * 0x2C0) ∧ w.mem = s.mem ∧ ∀ c, (w.core c).pool = (s.core c).pool))

/-! ### The vector siding -/

/-- An entry of the sequencer: the instruction with the g, p and b values it holds from hand-off (R314). -/
def Claims.entry (s : State) (i : Instr) (x y z : Word) (bs : List Byte) : SeqEntry :=
  { slot := s.cur.2, instr := i, pc := s.me.pc, s0 := x, s1 := y, s2 := z, bytes := bs, priv := s.me.priv, void := false }

/-- R196, R314: with work before it in the queue an instruction is handed off and the thread goes on; with sixteen
entries it waits at rung 6 without parking; and pending poison of the slot traps in its place (R321, R401). -/
def Claims.handsOff (h : Hdr) (s : State) (i : Instr) (x y z : Word) : Prop :=
  (s.me.ppoison = none → s.myCore.seq ≠ [] → s.myCore.seq.length < 16 →
    exec i s = retired h s (s.modCore s.cur.1 (fun c => { c with seq := c.seq ++ [Claims.entry s i x y z []] }))) ∧
  (s.me.ppoison = none → 16 ≤ s.myCore.seq.length → exec i s = .next s) ∧
  (∀ m, s.me.ppoison = some (0x11, m) → exec i s =
    .next (takeTrap (s.modMe (fun t => { t with ppoison := none })) s.cur.1 s.cur.2
      { cause := 0x11, addr := m, info := 1 } true))

/-- The scalar value that a source holds: none for a v register. -/
def Claims.held (s : State) : VSrc → Word
  | .v _ => 0
  | .g r => s.rdG r.val
  | .imm v => v.signExtend 64

/-- The budget that an instruction of type 12 holds. -/
def Claims.heldBudget (s : State) : VTy → Word
  | .x b => (s.rdB b.val).setWidth 64
  | _ => 0

/-- R196, R314: the hand-off of every instruction that the siding runs and that touches no memory at rung 6. -/
def Obligations.VectorHandOff : Prop :=
  ∀ (h : Hdr) (t tt : VTy) (z : ITy) (ct : CTy) (r : Rnd) (n : Cond) (u : Bool) (a b c : Fin 32) (k : Fin 4) (g e : Fin 64)
    (x : GSrc) (y : VSrc) (w : VGSrc) (l : Fin 15) (s : State), guardHolds s h = true →
    let off := Claims.handsOff h s
    let v := Claims.held s y
    let q := Claims.held s (match w with | .v i => .v i | .g i => .g i)
    let bud := Claims.heldBudget s t
    off (.vadd h t r u a b y) v 0 bud ∧ off (.vsub h t r u a b y) v 0 bud ∧ off (.vmul h t r u a b y) v 0 bud ∧
    off (.vfma h t r u a b w) q 0 bud ∧ off (.vfms h t r u a b w) q 0 bud ∧ off (.vnfma h t r u a b w) q 0 bud ∧
    off (.vmin h t u a b y) v 0 bud ∧ off (.vmax h t u a b y) v 0 bud ∧
    off (.vabs h t u a b) 0 0 bud ∧ off (.vneg h t u a b) 0 0 bud ∧ off (.vcvt h t r u a b tt) 0 0 bud ∧
    off (.vsum h t r u a b) 0 0 bud ∧ off (.vdot h t r u a b w) q 0 bud ∧ off (.vmr h t r u a b c) 0 0 bud ∧
    off (.vcmp h ct n u a b y) v 0 0 ∧ off (.vsel h z a b w) q 0 0 ∧
    off (.vand h a b w) q 0 0 ∧ off (.vor h a b w) q 0 0 ∧ off (.vxor h a b w) q 0 0 ∧
    off (.vshl h z u a b y) v 0 0 ∧ off (.vshr h z u a b y) v 0 0 ∧
    off (.vbcast h t a (.fromG g)) (s.rdG g.val) 0 0 ∧ off (.vbcast h t a (.fromV b x)) (readGSrc s x) 0 0 ∧
    off (.vins h t a g x) (readGSrc s x) (s.rdG g.val) 0 ∧ off (.vpack h t r u a b c) 0 0 bud ∧
    off (.vunpack h t a b tt u) 0 0 0 ∧ off (.vperm h z a b c) 0 0 0 ∧
    off (.vlog h t r u a b) 0 0 bud ∧ off (.valog h t r u a b) 0 0 bud ∧ off (.vexp2 h t r u a b) 0 0 bud ∧
    off (.vlog2 h t r u a b) 0 0 bud ∧ off (.vrcp h t r u a b) 0 0 bud ∧ off (.vsqrt h t r u a b) 0 0 bud ∧
    off (.vrsqrt h t r u a b) 0 0 bud ∧ off (.vsigm h t r u a b) 0 0 bud ∧ off (.vtanh h t r u a b) 0 0 bud ∧
    off (.vpow h t r u a b w) q 0 bud ∧ off (.sbind h k) 0 0 0 ∧ off (.sfree h k) 0 0 0 ∧
    off (.vrpt h x l) (readGSrc s x) (BitVec.ofNat 64 (l.val + 1)) 0 ∧
    off (.grade h (.vFromG a e)) (s.rdG e.val) 0 0

/-- The siding is free for the acting thread: no entry before it, no deferred fault, no pre-emption, no stream bound. -/
def Claims.sidingFree (s : State) : Prop :=
  s.me.ppoison = none ∧ s.myCore.seq = [] ∧ s.me.pend.preempt = none ∧ ∀ r, boundStream s.me r = none

/-- Lane i of n bits (R311). -/
def Claims.lane (n : Nat) (x : Lanes) (i : Nat) : Nat := (x.extractLsb' (n * i) n).toNat

/-- Lane i of a v register. -/
def Claims.vl (s : State) (n : Nat) (r : Fin 32) (i : Nat) : Nat := Claims.lane n (s.me.rdV r.val).bits i

/-- Lane i of a third source: a g value or an immediate gives its low n bits to every lane (R325). -/
def Claims.src (s : State) (n : Nat) (y : VSrc) (i : Nat) : Nat :=
  match y with
  | .v r => Claims.vl s n r i
  | .g r => (s.rdG r.val).toNat % 2 ^ n
  | .imm v => (v.signExtend 64).toNat % 2 ^ n

/-- A lane as a signed number. -/
def Claims.int (n c : Nat) : Int := (BitVec.ofNat n c).toInt

/-- The low n bits of a number as a lane. -/
def Claims.low (n : Nat) (x : Int) : Nat := (BitVec.ofInt n x).toNat

/-- An integer result: wrapped, or clamped under .sat (R327, R202). -/
def Claims.fit (n : Nat) (sa : Bool) (x : Int) : Nat :=
  Claims.low n (if sa then max (-2 ^ (n - 1)) (min x (2 ^ (n - 1) - 1)) else x)

/-- After a packet the acting thread differs in v[a] and, in what a rounding may leave, in fflags, the generators and
the record of a short result; everything else of the machine stays but for the retirement. -/
def Claims.packetOf (h : Hdr) (s : State) (i : Instr) (a : Nat) (t : Thread) : Prop :=
  exec i s = retired h s (s.modMe (fun _ => t)) ∧
  t = { s.me with v := t.v, ctl := { s.me.ctl with fflags := t.ctl.fflags }, gens := t.gens,
                  tol := { s.me.tol with short := t.tol.short, deficit := t.tol.deficit } } ∧
  ∀ r, r ≠ a → t.rdV r = s.me.rdV r

/-- The instruction completes at once on a free siding and lane k of v[a] is f k. -/
def Claims.lanesAre (h : Hdr) (s : State) (i : Instr) (a n : Nat) (f : Nat → Nat) : Prop :=
  ∃ t, Claims.packetOf h s i a t ∧ ∀ k, k < 256 / n → Claims.lane n (t.rdV a).bits k = f k

/-- As `lanesAre`, with the grade tag and with no flag, generator or short result changed. -/
def Claims.movesAre (h : Hdr) (s : State) (i : Instr) (a n : Nat) (g : Grade) (f : Nat → Nat) : Prop :=
  ∃ v : VVal, exec i s = retired h s (s.modMe (fun t => t.wrV a v)) ∧ v.grade = g ∧
    ∀ k, k < 256 / n → Claims.lane n v.bits k = f k

/-- R327, R330, R313: bitwise instructions, selection, permutation, broadcast and insertion on a free siding, lane by
lane, with the grade of the result; that of `vbcast` from a v register is its source's under class 0 (R111; log 63). -/
def Claims.VectorLogicAndMoves : Prop :=
  ∀ (h : Hdr) (t : VTy) (z : ITy) (a b c : Fin 32) (g : Fin 64) (x : GSrc) (w : VGSrc) (s : State),
    guardHolds s h = true → Claims.sidingFree s →
    let n := z.width
    let m := vWidth t
    let y : VSrc := match w with | .v i => .v i | .g i => .g i
    let gy : Grade := match w with | .v i => (s.me.rdV i.val).grade | .g _ => 0x8000
    let gb := (s.me.rdV b.val).grade
    let worse := gWorse gb gy
    let pick (k : Nat) : Grade := if Claims.vl s n a k ≠ 0 then gb else gy
    let k := (readGSrc s x).toNat
    Claims.movesAre h s (.vand h a b w) a.val 64 worse (fun i => Claims.vl s 64 b i &&& Claims.src s 64 y i) ∧
    Claims.movesAre h s (.vor h a b w) a.val 64 worse (fun i => Claims.vl s 64 b i ||| Claims.src s 64 y i) ∧
    Claims.movesAre h s (.vxor h a b w) a.val 64 worse (fun i => Claims.vl s 64 b i ^^^ Claims.src s 64 y i) ∧
    Claims.movesAre h s (.vsel h z a b w) a.val n ((List.range (256 / n)).foldl (fun q i => gWorse q (pick i)) gExact)
      (fun i => if Claims.vl s n a i ≠ 0 then Claims.vl s n b i else Claims.src s n y i) ∧
    Claims.movesAre h s (.vperm h z a b c) a.val n (gWorse gExact gb)
      (fun i => Claims.vl s n b (Claims.vl s n c i % (256 / n))) ∧
    Claims.movesAre h s (.vbcast h t a (.fromG g)) a.val m gExact (fun _ => (s.rdG g.val).toNat % 2 ^ m) ∧
    Claims.movesAre h s (.vbcast h t a (.fromV b x)) a.val m
      (gWorse gExact (classGrade s.me 0 [{ g := gb, j := 0, m := none }] [])) (fun _ => Claims.vl s m b (k % (256 / m))) ∧
    Claims.movesAre h s (.vins h t a g x) a.val m (gWorse gExact (s.me.rdV a.val).grade)
      (fun i => if i = k % (256 / m) then (s.rdG g.val).toNat % 2 ^ m else Claims.vl s m a i) ∧
    exec (.grade h (.vFromG a g)) s = retired h s (s.modMe (fun t =>
      t.wrV a.val { bits := (t.rdV a.val).bits, grade := (s.rdG g.val).setWidth 16 &&& 0x8FFF }))

/-- The mode of the rounding of lane i: the instruction's, or frm's; mode 5 draws generator i mod 32 (R99, R102). -/
def Claims.mode (s : State) (r : Rnd) (i : Nat) : RMode := (resolveMode r.code s.me.ctl.frm.toNat s.me.gens i).1

/-- The format that an instruction rounds to: its own, or the one chosen under type 12 (R312). -/
def Claims.format (s : State) (t : VTy) : Fmt := vChosen t (Claims.heldBudget s t)

/-- Round(x, format, mode) as a lane's code; a chosen format widens exactly to f32 (R312). -/
def Claims.rounded (s : State) (t : VTy) (r : Rnd) (sa : Bool) (i : Nat) (x : Machine.Num) : Nat :=
  let c := (roundNum x (Claims.format s t) (Claims.mode s r i) sa false).code
  match t with
  | .x _ => (roundNum (decodeFloat (Claims.format s t) c) .f32 .rne false true).code
  | _ => c

/-- A condition on two floating values: a NaN makes every one but .ne false (R327). -/
def Claims.compares (n : Cond) (x y : Machine.Num) : Bool :=
  let un := x.isNaN || y.isNaN
  match n with
  | .eq => x.eqv y
  | .ne => un || !x.eqv y
  | .lt => x.lt y
  | .le => !un && (x.lt y || x.eqv y)
  | .gt => y.lt x
  | .ge => !un && (y.lt x || x.eqv y)
  | .tst => false

/-- Codes that `vabs` and `vneg` leave: the zero codes of signed binary8, and unsigned binary8 (R327). -/
def Claims.keepsSign (t : VTy) (x : Nat) : Bool :=
  match t with
  | .q v _ => v.uns || decide (x % 128 = 0)
  | _ => false

/-- R327: lane-wise arithmetic, minimum, maximum, absolute value, negation, comparison and shifts on a free siding. An
integer lane is exact and then wrapped or clamped; a floating lane is the exact result rounded once. -/
def Claims.VectorArithmetic : Prop :=
  ∀ (h : Hdr) (t : VTy) (z : ITy) (ct : CTy) (r : Rnd) (cnd : Cond) (u : Bool) (a b : Fin 32) (y : VSrc) (w : VGSrc)
    (s : State), guardHolds s h = true → Claims.sidingFree s →
    let n := z.width
    let f := vWidth t
    let yw : VSrc := match w with | .v i => .v i | .g i => .g i
    let B (i : Nat) := Claims.int n (Claims.vl s n b i)
    let Y (i : Nat) := Claims.int n (Claims.src s n y i)
    let pu (i : Nat) : Int := if u then Claims.vl s n b i else B i
    let qu (i : Nat) : Int := if u then Claims.src s n y i else Y i
    let sh (i : Nat) := Claims.src s n y i % n
    let val (c : Nat) : Machine.Num := decodeFloat (vFmt t) c
    let x (i : Nat) : Machine.Num := val (Claims.vl s f a i)
    let p (i : Nat) : Machine.Num := val (Claims.vl s f b i)
    let q (i : Nat) : Machine.Num := val (Claims.src s f y i)
    let k (i : Nat) : Machine.Num := val (Claims.src s f yw i)
    let md := Claims.mode s r
    let fl (i : Nat) (v : Machine.Num) : Nat := Claims.rounded s t r u i v
    let least (g : Bool) (i : Nat) : Nat := (roundNum (minMaxNum g (p i) (q i)).val (vFmt t) .rne false false).code
    let ints (e : Instr) (g : Nat → Nat) : Prop := Claims.lanesAre h s e a.val n g
    let flts (e : Instr) (g : Nat → Nat) : Prop := Claims.lanesAre h s e a.val f g
    ints (.vadd h (.int z) r u a b y) (fun i => Claims.fit n u (B i + Y i)) ∧
    ints (.vsub h (.int z) r u a b y) (fun i => Claims.fit n u (B i - Y i)) ∧
    ints (.vmul h (.int z) r u a b y) (fun i => Claims.fit n u (B i * Y i)) ∧
    ints (.vmin h (.int z) u a b y) (fun i => Claims.low n (min (pu i) (qu i))) ∧
    ints (.vmax h (.int z) u a b y) (fun i => Claims.low n (max (pu i) (qu i))) ∧
    ints (.vabs h (.int z) u a b) (fun i => Claims.fit n u (if B i < 0 then -B i else B i)) ∧
    ints (.vneg h (.int z) u a b) (fun i => Claims.fit n u (-B i)) ∧
    ints (.vshl h z u a b y) (fun i => Claims.fit n u (B i * 2 ^ sh i)) ∧
    ints (.vshr h z u a b y) (fun i => Claims.low n (Int.fdiv (pu i) (2 ^ sh i))) ∧
    ints (.vcmp h (.int z) cnd u a b y) (fun i => if (match cnd with
        | .eq => decide (pu i = qu i)
        | .ne => decide (pu i ≠ qu i)
        | .lt => decide (pu i < qu i)
        | .le => decide (pu i ≤ qu i)
        | .gt => decide (qu i < pu i)
        | .ge => decide (qu i ≤ pu i)
        | .tst => decide (Claims.vl s n b i &&& Claims.src s n y i ≠ 0)) then 2 ^ n - 1 else 0) ∧
    (vIsInt (cmpTy ct) = false →
      let m := vWidth (cmpTy ct)
      let v (c : Nat) : Machine.Num := decodeFloat (vFmt (cmpTy ct)) c
      Claims.lanesAre h s (.vcmp h ct cnd u a b y) a.val m (fun i =>
        if Claims.compares cnd (v (Claims.vl s m b i)) (v (Claims.src s m y i)) then 2 ^ m - 1 else 0)) ∧
    (vIsInt t = false →
      flts (.vadd h t r u a b y) (fun i => fl i (sumNum [p i, q i] (md i)).val) ∧
      flts (.vsub h t r u a b y) (fun i => fl i (sumNum [p i, (q i).neg] (md i)).val) ∧
      flts (.vmul h t r u a b y) (fun i => fl i (mulNum (p i) (q i)).val) ∧
      flts (.vfma h t r u a b w) (fun i => fl i (sumNum [(mulNum (p i) (k i)).val, x i] (md i)).val) ∧
      flts (.vfms h t r u a b w) (fun i => fl i (sumNum [(mulNum (p i) (k i)).val, (x i).neg] (md i)).val) ∧
      flts (.vnfma h t r u a b w) (fun i => fl i (sumNum [(mulNum (p i) (k i)).val.neg, x i] (md i)).val) ∧
      flts (.vmin h t u a b y) (least false) ∧ flts (.vmax h t u a b y) (least true) ∧
      flts (.vabs h t u a b) (fun i => if Claims.keepsSign t (Claims.vl s f b i) then Claims.vl s f b i
        else Claims.vl s f b i % 2 ^ (f - 1)) ∧
      flts (.vneg h t u a b) (fun i => if Claims.keepsSign t (Claims.vl s f b i) then Claims.vl s f b i
        else (Claims.vl s f b i + 2 ^ (f - 1)) % 2 ^ f))

/-- R328, R329, R331, R332, R333, R334: conversions, reductions and the logarithmic path on a free siding. An integer
reduction that wraps is the plain sum; a special input gives the result of Table 7, and an exact one its own value. -/
def Claims.VectorConversionsAndReductions : Prop :=
  ∀ (h : Hdr) (t tt : VTy) (z : ITy) (r : Rnd) (u : Bool) (a b c : Fin 32) (w : VGSrc) (s : State),
    guardHolds s h = true → Claims.sidingFree s →
    let n := z.width
    let f := vWidth t
    let yw : VSrc := match w with | .v i => .v i | .g i => .g i
    let lanes := List.range (256 / n)
    let int (i : Fin 32) (k : Nat) : Int := Claims.int n (Claims.vl s n i k)
    let conv (keep : Bool) (i : Nat) (x : Machine.Num) : Nat :=
      let y := (roundNum x (Claims.format s t) (Claims.mode s r i) u keep).code
      match t with
      | .x _ => (roundNum (decodeFloat (Claims.format s t) y) .f32 .rne false true).code
      | _ => y
    let exactly (keep : Bool) (x : Machine.Num) : Nat := (roundNum x (vFmt t) .rne false keep).code
    let zip (rest : Nat → Nat) (head : Nat) (i : Nat) : Nat := if i = 0 then head else rest i
    let is (e : Instr) (m : Nat) (g : Nat → Nat) : Prop := Claims.lanesAre h s e a.val m g
    let some' (e : Instr) : Prop := ∃ v, Claims.packetOf h s e a.val v
    let path (fn : LogFn) (e : Instr) (y : Nat → Machine.Num) : Prop := ∃ v, Claims.packetOf h s e a.val v ∧
      (vIsInt t = false → ∀ i, i < 256 / f → ∀ q, logSpecial fn (decodeFloat (vFmt t) (Claims.vl s f b i)) (y i) = some q →
        Claims.lane f (v.rdV a.val).bits i = Claims.rounded s t r u i q.1)
    (t ≠ .i4 → is (.vcvt h t r u a b tt) f
      (fun i => conv (vKeeps tt) i (decodeFloat (vFmt tt) (Claims.vl s f b i)))) ∧
    is (.vpack h t r u a b c) f (fun i =>
      let half := 256 / f / 2
      let code : Nat := if i < half then Claims.vl s (2 * f) b i else Claims.vl s (2 * f) c (i - half)
      if vIsInt t then Claims.fit f u (Claims.int (2 * f) code)
      else conv (vKeeps (vWide t)) i (decodeFloat (vFmt (vWide t)) code)) ∧
    (vIsX t = false → is (.vunpack h t a b tt u) f (fun i =>
      exactly (vKeeps tt) (decodeFloat (vFmt tt) (Claims.vl s (vWidth tt) b ((if u then 256 / f else 0) + i))))) ∧
    is (.vsum h (.int z) r false a b) n (zip (Claims.vl s n a)
      (Claims.low n (int a 0 + (lanes.map (int b)).sum))) ∧
    is (.vdot h (.int z) r false a b w) n (zip (Claims.vl s n a)
      (Claims.low n (int a 0 + (lanes.map (fun k => int b k * Claims.int n (Claims.src s n yw k))).sum))) ∧
    is (.vmr h (.int z) r false a b c) n (fun i =>
      let same := lanes.filter (fun j => Claims.vl s n b j == Claims.vl s n b i)
      if same.headD 0 = i then Claims.low n ((same.map (int c)).sum) else 0) ∧
    some' (.vsum h t r u a b) ∧ some' (.vdot h t r u a b w) ∧ some' (.vmr h t r u a b c) ∧
    path .ln (.vlog h t r u a b) (fun _ => plusZero) ∧ path .exp (.valog h t r u a b) (fun _ => plusZero) ∧
    path .exp2 (.vexp2 h t r u a b) (fun _ => plusZero) ∧ path .log2 (.vlog2 h t r u a b) (fun _ => plusZero) ∧
    path .rcp (.vrcp h t r u a b) (fun _ => plusZero) ∧ path .sqrt (.vsqrt h t r u a b) (fun _ => plusZero) ∧
    path .rsqrt (.vrsqrt h t r u a b) (fun _ => plusZero) ∧ path .sigm (.vsigm h t r u a b) (fun _ => plusZero) ∧
    path .tanh (.vtanh h t r u a b) (fun _ => plusZero) ∧
    path .pow (.vpow h t r u a b w) (fun i => decodeFloat (vFmt t) (Claims.src s f yw i))

/-- R313, R327 to R334: the results of vector instructions.
Grades of trees and `vmr`, and the bits that the log path carries, are the model's reading (logs 60 to 63). -/
def Obligations.VectorResults : Prop := Claims.VectorLogicAndMoves ∧ Claims.VectorArithmetic ∧ Claims.VectorConversionsAndReductions

/-- As `sidingFree`, with streams perhaps bound. -/
def Claims.sidingOpen (s : State) : Prop := s.me.ppoison = none ∧ s.myCore.seq = [] ∧ s.me.pend.preempt = none

/-- The state with the acting core's entry written as it stands: a read of it finds what it found. -/
def Claims.same (s : State) : State := s.modCore s.cur.1 (fun c => c)

/-- A signed stride, a base and a count of a stream descriptor (16 Table 3). -/
def Claims.stride (d i : Nat) : Int := (BitVec.ofNat 32 (d / 2 ^ (32 + 32 * i))).toInt
def Claims.base (d : Nat) : Int := (d % 2 ^ 32 : Nat)
def Claims.count (d i : Nat) : Int := (d / 2 ^ (160 + 16 * i) % 2 ^ 16 : Nat)

/-- Why a descriptor is refused (R317, R7), for a register that no stream is bound to: 2 a form, 1 a hull outside the
scratchpad. -/
def Claims.refusal (part : Word) (d : Nat) : Option Nat :=
  let low (i : Nat) : Int := min 0 (Claims.stride d i * Claims.count d i)
  let high (i : Nat) : Int := max 0 (Claims.stride d i * Claims.count d i)
  if d / 2 ^ 226 % 2 ^ 14 ≠ 0 ∨ d / 2 ^ 252 % 2 ^ 3 ≠ 0 ∨ Claims.base d % 4 ≠ 0 ∨ Claims.stride d 0 % 4 ≠ 0 ∨ Claims.stride d 1 % 4 ≠ 0 ∨
    Claims.stride d 2 % 4 ≠ 0 ∨ Claims.stride d 3 % 4 ≠ 0 then some 2
  else if Claims.base d + low 0 + low 1 + low 2 + low 3 < (codeEnd part : Int) ∨
    (accStart part : Int) < Claims.base d + high 0 + high 1 + high 2 + high 3 + 32 then some 1
  else none

/-- R326, R317, R318, R335: vector loads and stores of the own pool, and the stream instructions, on an open siding. -/
def Claims.VectorMemoryAndStreams : Prop :=
  ∀ (h : Hdr) (a : Fin 32) (k : Fin 4) (m : Mem) (x : GSrc) (l : Fin 15) (s : State) (o : Nat), guardHolds s h = true →
    Claims.sidingOpen s →
    let p := memAddr s m 32
    let d := s.myCore.num o 32
    let str := AMap.get s.me.streams k.val
    let sets (y : Stream) : Host.Outcome State Fault Refusal :=
      retired h s (s.modMe (fun t => { t with streams := AMap.set t.streams k.val y }))
    (p.toNat % 32 ≠ 0 → exec (.vld h a m x) s = Claims.raises s 0x04 p 32 ∧
      exec (.vst h m a) s = Claims.raises s 0x04 p 32 ∧ exec (.scfg h k m) s = Claims.raises s 0x04 p 32) ∧
    (o % 32 = 0 → Claims.poolReadable s p o 32 → boundStream s.me a.val = none →
      exec (.vld h a m x) s = retired h s (s.modMe (fun t =>
        t.wrV a.val { bits := BitVec.ofNat 256 d, grade := (readGSrc s x).setWidth 16 &&& 0x8FFF }))) ∧
    (o % 32 = 0 → Claims.poolOpen s p o 32 → boundStream s.me a.val = none → Claims.lineRoom s o → s.memWf = true →
      ∃ w, exec (.vst h m a) s = .next w ∧ Claims.onlyPc s w ∧
        Claims.storedOnly s w o (toBytes 32 (s.me.rdV a.val).bits.toNat)) ∧
    (o % 32 = 0 → Claims.poolReadable s p o 32 →
      (∀ y, str = some y → y.bound = true → exec (.scfg h k m) s = Claims.raises s 0x0B 0 (k.val + 256 * 3)) ∧
      ((∀ y, str = some y → y.bound = false) →
        (∀ c, Claims.refusal s.myCore.part d = some c →
          exec (.scfg h k m) s = Claims.raises s 0x0B 0 (k.val + 256 * c)) ∧
        (Claims.refusal s.myCore.part d = none → exec (.scfg h k m) s =
          sets { desc := d, configured := true, bound := false, i0 := 0, i1 := 0, i2 := 0, i3 := 0, last := none }))) ∧
    (∀ y, str = some y → y.configured = true → y.bound = false →
      exec (.sbind h k) s = sets { y with bound := true, last := none } ∧ exec (.sfree h k) s = retired h s (s.modMe (fun t => t))) ∧
    (∀ y, str = some y → y.bound = true → exec (.sbind h k) s = retired h s (s.modMe (fun t => t)) ∧
      ∃ w, exec (.sfree h k) s = retired h s w ∧ AMap.get w.me.streams k.val = none ∧
        w.me.rdV k.val = y.last.getD (s.me.rdV k.val) ∧ ∀ r, r ≠ k.val → w.me.rdV r = s.me.rdV r) ∧
    (str = none → exec (.sbind h k) s = retired h s (s.modMe (fun t => t)) ∧ exec (.sfree h k) s = retired h s (s.modMe (fun t => t))) ∧
    exec (.vrpt h x l) s = retired h s (s.modCore s.cur.1 (fun c =>
      { c with seq := [Claims.entry s (.vrpt h x l) (readGSrc s x) (BitVec.ofNat 64 (l.val + 1)) 0 []] }))

/-- R318, R319: one packet of a bound stream. Reading a pop stream, however often an instruction names it, takes the
packet at the stream's place with the descriptor's grade and moves to the next place; writing a push stream stores
there; writing a pop stream is discarded. Tagged packets wait and change their tags. No tolerant region is open. -/
def Claims.StreamPackets : Prop :=
  ∀ (h : Hdr) (a : Fin 32) (g : Fin 64) (k : Fin 4) (s : State) (y : Stream), guardHolds s h = true →
    s.me.tol.isOpen = false →
    Claims.sidingOpen s → AMap.get s.me.streams k.val = some y → y.bound = true → boundStream s.me a.val = none →
    s.memWf = true → poolShut s.myCore y.off 32 = false → y.off % 4 = 0 →
    let v : Fin 32 := ⟨k.val, by omega⟩
    let popped : VVal := { bits := BitVec.ofNat 256 (s.myCore.num y.off 32),
                           grade := BitVec.ofNat 16 (y.desc / 2 ^ 240) &&& 0x8FFF }
    let tagged := y.desc.testBit 225
    let copies : Instr := .vor h a v (.v v)
    let fills : Instr := .vbcast h (.int .i64) v (.fromG g)
    let word := BitVec.ofNat 256 (s.rdG g.val).toNat
    let value := word ||| word <<< 64 ||| word <<< 128 ||| word <<< 192
    let queued (i : Instr) (x : Word) : Host.Outcome State Fault Refusal :=
      retired h s (s.modCore s.cur.1 (fun c => { c with seq := [Claims.entry s i x 0 0 []] }))
    (y.desc.testBit 224 = false → s.myCore.poisoned y.off 32 = false →
      (tagged = true → s.myCore.allFull y.off 32 = false → exec copies s = queued copies 0) ∧
      (tagged = false ∨ s.myCore.allFull y.off 32 = true →
        ∃ w, exec copies s = .next w ∧ w.me.pc = s.me.pc + 12 ∧ (w.me.rdV a.val).bits = popped.bits ∧
          (w.me.rdV a.val).grade = gWorse popped.grade popped.grade ∧
          AMap.get w.me.streams k.val = some { y.advance with last := some popped } ∧ w.myCore.pool = s.myCore.pool ∧
          (tagged = true → Claims.tagsSet s w y.off 32 false))) ∧
    (y.desc.testBit 224 = false → exec fills s = retired h s (Claims.same s)) ∧
    (y.desc.testBit 224 = true →
      (tagged = true → s.myCore.allEmpty y.off 32 = false → exec fills s = queued fills (s.rdG g.val)) ∧
      (tagged = false ∨ s.myCore.allEmpty y.off 32 = true →
        ∃ w, exec fills s = .next w ∧ Claims.onlyPc s w ∧ Claims.storedOnly s w y.off (toBytes 32 value.toNat) ∧
          AMap.get w.me.streams k.val = some { y.advance with last := some { bits := value, grade := gExact } } ∧
          (tagged = true → Claims.tagsSet s w y.off 32 true)))

/-- R326, R317, R318, R319, R335: vector loads and stores, and streams. -/
def Obligations.VectorMemory : Prop := Claims.VectorMemoryAndStreams ∧ Claims.StreamPackets

/-- R196, R330, R130, R335, R401: instructions that read the siding, and `vbupd` on words of the own scratchpad. A
vector instruction with a g or b destination takes its place in the queue and waits at rung 6 until the siding delivers its
value; a full queue keeps it out, and pending poison traps in its place. `vsync` waits for the slot's older work.
When lanes of `vbupd` are accepted is the model's reading (log 65). -/
def Obligations.VectorReadsAndUpdates : Prop :=
  ∀ (h : Hdr) (t : VTy) (u : Bool) (d : Fin 64) (e : Fin 8) (b c : Fin 32) (x : GSrc) (n : Fin 4) (m : Mem) (s : State)
    (o : Nat), guardHolds s h = true →
    let idle := sidingIdle s s.cur.1 s.cur.2
    let w := vWidth t
    let lane := Claims.vl s w b ((readGSrc s x).toNat % (256 / w))
    let calm := s.modMe (fun t => { t with vwait := none })
    let begins : Prop := s.me.vwait.map Prod.fst ≠ some s.me.pc ∧ s.me.ppoison = none
    let reads : List (Instr × Word) := [(.vext h t u d b x, readGSrc s x), (.grade h (.gFromV d b), 0), (.grade h (.bFromV e b), 0)]
    (begins → s.myCore.seq = [] → boundStream s.me b.val = none →
      exec (.vext h t u d b x) s = retired h s
        (calm.wrG d.val (if u then BitVec.ofNat 64 lane else (BitVec.ofNat w lane).signExtend 64)) ∧
      exec (.grade h (.gFromV d b)) s = retired h s (calm.wrG d.val ((s.me.rdV b.val).grade.setWidth 64)) ∧
      exec (.grade h (.bFromV e b)) s = retired h s (calm.wrB e.val (s.me.rdV b.val).grade)) ∧
    (begins → s.myCore.seq ≠ [] → s.myCore.seq.length < 16 → ∀ i ∈ reads, ∃ z, exec i.1 s = .next z ∧ z.cur = s.cur ∧
      z.me = { s.me with vwait := some (s.me.pc, none) } ∧ z.myCore.seq.length = s.myCore.seq.length + 1 ∧
      z.myCore.seq.getLast? = some (Claims.entry s i.1 i.2 0 0 [])) ∧
    (begins → 16 ≤ s.myCore.seq.length → ∀ i ∈ reads, ∃ z, exec i.1 s = .next z ∧ z.me = s.me ∧ z.cur = s.cur) ∧
    (s.me.vwait = some (s.me.pc, none) → ∀ i ∈ reads, exec i.1 s = .next s) ∧
    (∀ v, s.me.vwait = some (s.me.pc, some v) →
      exec (.vext h t u d b x) s = retired h s (calm.wrG d.val v) ∧
      exec (.grade h (.gFromV d b)) s = retired h s (calm.wrG d.val v) ∧
      exec (.grade h (.bFromV e b)) s = retired h s (calm.wrB e.val (v.setWidth 16))) ∧
    (idle = true → s.me.ppoison = none → exec (.vsync h) s = retired h s (Claims.same s)) ∧
    (idle = false → ∃ z, exec (.vsync h) s = .next z ∧ z.me = s.me ∧ z.cur = s.cur) ∧
    (∀ a, s.me.ppoison = some (0x11, a) →
      let traps (i : Instr) : Prop := ∃ z, exec i s = .next (takeTrap z s.cur.1 s.cur.2
        { cause := 0x11, addr := a, info := 1 } true) ∧ z.me.ppoison = none ∧ z.me.g = s.me.g
      (idle = true → traps (.vsync h)) ∧ (s.me.vwait.map Prod.fst ≠ some s.me.pc → ∀ i ∈ reads, traps i.1)) ∧
    (Claims.sidingFree s → s.me.tol.isOpen = false → s.memWf = true → (∀ q, (s.core q).bank = []) →
      memAddr s m 4 = BitVec.ofNat 64 (0xFE * 2 ^ 56 + o) → o < 2 ^ 40 → o % 4 = 0 →
      inScratch s.myCore.part o 4 = true → o + 4 ≤ poolLimit s.myCore.part → (s.me.priv = false → s.myCore.sill.toNat ≤ o) →
      ∀ off : Nat → Nat, (∀ i, i < 8 → memAddr s m 4 + BitVec.ofInt 64 (4 * Claims.int 32 (Claims.vl s 32 b i)) =
          BitVec.ofNat 64 (0xFE * 2 ^ 56 + off i) ∧ off i < 2 ^ 40 ∧ off i % 4 = 0 ∧
          inScratch s.myCore.part (off i) 4 = true ∧ s.myCore.poisoned (off i) 4 = false ∧
          poolShut s.myCore (off i) 4 = false) →
        ∃ z, exec (.vbupd h n u m b c) s = .next z ∧ Claims.onlyPc s z ∧ Claims.sameMem s z ∧
          (∀ i, i < 8 → (∀ j, j < 8 → j ≠ i → off j ≠ off i) → z.myCore.num (off i) 4 =
            bankFn (AMap.getD s.myCore.fns n.val 0) (s.myCore.num (off i) 4) (Claims.vl s 32 c i) % 2 ^ 32) ∧
          (∀ y, (∀ i, i < 8 → y < off i ∨ off i + 4 ≤ y) → Cells.get z.myCore.pool y = Cells.get s.myCore.pool y) ∧
          (u = false → z.myCore.emptyTags = s.myCore.emptyTags))

/-! ### The events of the module -/

/-- An event of a part that the module does not have names no unit. -/
def Claims.noUnit (s : State) (i : Instr) : Prop := exec i s = .fault .noSuchUnit

/-- The thread of a slot is ready again. -/
def Claims.wakes (s : State) (c k : Nat) (i : Instr) : Prop :=
  exec i s = .next (s.setThread c k { s.thread c k with status := .ready })

/-- The event finds nothing to do. -/
def Claims.idles (s : State) (i : Instr) : Prop := exec i s = .next s

/-- R408, R410, R224, R277, R272, R431, R194: the ends of waits, the timer, and the time slice of the pipe. Each
happens exactly when its time or condition has come. -/
def Claims.ThreadEvents : Prop :=
  ∀ (c k n j : Nat) (r : Release) (s : State), c < 4096 → k < 4 →
    let t := s.thread c k
    let only (p : Prop) (i : Instr) : Prop := (p → Claims.wakes s c k i) ∧ (¬p → Claims.idles s i)
    (t.status = .paused n → only (n ≤ s.time.cycle) (.pauseExpiry c k)) ∧
    (t.status = .sleeping n → only (n ≤ s.time.tick) (.sleepExpiry c k)) ∧
    (t.status = .parked (.retry n) → only (n ≤ s.time.cycle) (.refusedRequestRetry c k)) ∧
    only (t.status = .parked .cond) (.waitTimeout c k) ∧
    (t.rel = some r → only (releaseDone s c k r = true ∧ t.status = .parked .release) (.releaseWaitEnd c k)) ∧
    (t.status = .ready → Claims.idles s (.pauseExpiry c k) ∧ Claims.idles s (.sleepExpiry c k) ∧
      Claims.idles s (.refusedRequestRetry c k)) ∧
    (if t.ctl.ptime ≠ 0 ∧ t.ctl.ptime.toNat ≤ s.time.tick ∧ t.status ≠ .unplaced then
      exec (.timerInterrupt c k) s = .next (s.setThread c k { t with pend := { t.pend with timer := true } })
      else Claims.idles s (.timerInterrupt c k)) ∧
    ((s.core c).inPipe = some j →
      let due : Prop := (s.core c).pipe.active = false ∧ 65536 ≤ (s.core c).heldCycles ∧ ∃ i, i < 4 ∧ i ≠ j ∧ canRun s c i = true
      (due → exec (.pipeTimeSlice c) s = .next (s.setCore c { s.core c with inPipe := none })) ∧
      (¬due → Claims.idles s (.pipeTimeSlice c))) ∧
    (∃ w, exec (.tagWake c (64 * n)) s = .next w ∧ ∀ i, w.thread c i =
      if (s.thread c i).status = .parked (.tag c (64 * n)) then { s.thread c i with status := .ready } else s.thread c i)

/-- R260, R276, R277: the answer to a parked access to another core's pool, and to a tagged request that it holds. -/
def Claims.PeerPoolAnswers : Prop :=
  ∀ (c k q o : Nat) (e : Answer) (r : TagReq) (s : State), c < 4096 → k < 4 →
    let t := s.thread c k
    let tc := peerCore s c q
    let x := s.core tc
    let answers (w : State) (bs : List Byte) (bad : Bool) : Prop := (w.thread c k).answer =
      some { e with ready := true, bytes := bs, poison := if bad then 1 else 0 }
    (t.answer = some e → e.ready = false → t.status = .parked .access → e.kind = 0 → decodeAddr e.addr = .peer q o →
      if poolShut x o e.len then Claims.idles s (.parkedAnswer c k)
      else ∃ w, exec (.parkedAnswer c k) s = .next w ∧ answers w (x.bytes o e.len) (x.poisoned o e.len)) ∧
    (t.answer = none → Claims.idles s (.parkedAnswer c k)) ∧
    (tc < 4096 → tc ≠ c → x.tagReqs = [r] → r.core = c → r.slot = k → r.off = o → o % 4 = 0 → r.store = none →
      r.keep = false → t.answer = some e → e.ready = false → e.kind = 4 → e.pc = r.pc → e.len = 4 * r.words → decodeAddr e.addr = .peer q o →
      poolShut x o (4 * r.words) = false → x.poisoned o (4 * r.words) = false →
      if x.allFull o (4 * r.words) then ∃ w, exec (.peerTaggedRequest tc) s = .next w ∧
        answers w (x.bytes o (4 * r.words)) false ∧ (w.core tc).tagReqs = [] ∧ (w.core tc).pool = x.pool ∧
        ∀ i, (w.core tc).tagFull (4 * i) = if o ≤ 4 * i ∧ 4 * i < o + 4 * r.words then false else x.tagFull (4 * i)
      else Claims.idles s (.peerTaggedRequest tc))

/-- R182: in one cycle an instruction whose work is done climbs one rung and a result descends one; and R322: the
siding runs the body of a repeat count times, and a count of 0 discards it. -/
def Claims.PipeAndSiding : Prop :=
  ∀ (h : Hdr) (c n k q : Nat) (i : IPacket) (r : RPacket) (a : Fin 32) (g : Fin 64) (x : GSrc) (l : Fin 15)
    (z u v : Word) (pr vd : Bool) (s : State), c < 4096 → k < 4 →
    let p := (s.core c).pipe
    let body : SeqEntry :=
      { slot := k, instr := .vbcast h (.int .i64) a (.fromG g), pc := u, s0 := v, s1 := 0, s2 := 0, bytes := [],
        priv := pr, void := vd }
    let rpt (m : Nat) : SeqEntry :=
      { slot := k, instr := .vrpt h x l, pc := z, s0 := BitVec.ofNat 64 m, s1 := 1, s2 := 0, bytes := [], priv := pr, void := vd }
    let value : VVal := { bits := joinLanes 64 [v.toNat, v.toNat, v.toNat, v.toNat], grade := gExact }
    ((s.core c).inPipe = none → p.foot = [] → p.res = [] → p.ins = [(n, i)] → n < 7 → i.executed = true →
      i.completed = true → i.stopped = false → i.results = [] →
      ∃ w, exec (.pipeCycle c) s = .next w ∧ (w.core c).pipe.ins = [(n + 1, i)] ∧ (w.core c).pipe.res = []) ∧
    ((s.core c).inPipe = none → p.foot = [] → p.ins = [] → p.res = [(n + 1, r)] → p.active = true → s.time.cycle < p.fetchAt →
      ∃ w, exec (.pipeCycle c) s = .next w ∧ (w.core c).pipe.res = [(n, r)] ∧ (w.core c).pipe.ins = []) ∧
    ((s.core c).seq = [] → Claims.idles s (.sidingIssue c)) ∧
    ((s.thread c k).pend.preempt = none → (s.thread c k).rpt = none → boundStream (s.thread c k) a.val = none →
      q < 2 ^ 32 → (s.core c).seq = [rpt q, body] →
      ∃ w, exec (.sidingIssue c) s = .next w ∧ (q = 0 → (w.core c).seq = [] ∧ (w.thread c k).v = (s.thread c k).v) ∧
        (0 < q → (w.thread c k).rdV a.val = value) ∧ (q = 1 → (w.core c).seq = [] ∧ (w.thread c k).rpt = none) ∧
        (1 < q → (w.core c).seq = (s.core c).seq ∧ ((w.thread c k).rpt.map (fun y => y.left)) = some (q - 1)))

/-- R408, R410, R224, R277, R431, R194, R260, R182, R322: the events of threads, of peer pools, of the pipe and of the siding. -/
def Obligations.ThreadAndPipeEvents : Prop := Claims.ThreadEvents ∧ Claims.PeerPoolAnswers ∧ Claims.PipeAndSiding

/-- R381, R382 (M5, M6): the oldest write of a thread leaves its queue for the path to the line's home, a host write
reaches host memory, and the home performs the head of a path: a write's bytes, in version order on a checked page, or
a release marker. A byte that the governor holds keeps what it holds (R37). -/
def Claims.WriteQueuesAndPaths : Prop :=
  ∀ (c k src dst idx off : Nat) (q : QWrite) (qs : List QWrite) (p : Packet) (ps : List Packet) (bs : List Byte)
    (s : State), s.memWf = true → c < 4096 → k < 4 → src < 16 → dst < 16 → idx < 4 →
    let t := s.thread c k
    let m := s.mem
    let key := pathKey src dst idx
    let id := 4 * c + k
    let version : Option Nat := if q.checked then some ((m.hline q.line).commit + 1) else none
    let popped (w : State) : Prop := w.mem.path key = ps
    (t.wq = [] → Claims.idles s (.wqDispatch id)) ∧
    (t.wq = q :: qs → q.op = .store bs → ∃ w, exec (.wqDispatch id) s = .next w ∧ (w.thread c k).wq = qs ∧
      (q.host = true → w.mem = { m with host := w.mem.host } ∧ Cells.getN w.mem.host q.line bs.length = bs ∧
        ∀ x, x < q.line ∨ q.line + bs.length ≤ x → Cells.get w.mem.host x = Cells.get m.host x) ∧
      (q.host = false → w.mem.dram = m.dram ∧ w.mem.host = m.host ∧
        w.mem.path (pathOf (dieOf c) q.line) = m.path (pathOf (dieOf c) q.line) ++
          [{ writer := id, line := q.line, version := version, key := q.key, op := .write (byteMap q.off bs) }] ∧
        (q.checked = true → (w.mem.hline q.line).commit = (m.hline q.line).commit + 1) ∧
        lineDie q.line ∈ (w.thread c k).dests)) ∧
    (m.path key = [] → Claims.idles s (.pathPerform src dst idx)) ∧
    (m.path key = p :: ps → (s.die dst).phase < 4 →
      (∀ v, p.version = some v → v ≠ (m.hline p.line).performed + 1 → Claims.idles s (.pathPerform src dst idx)) ∧
      ((∀ v, p.version = some v → v = (m.hline p.line).performed + 1) →
        (p.op = .write (byteMap off bs) → off + bs.length ≤ 64 →
          p.writer = dispWriter ∨ (∀ i, i < bs.length → deviceHeld s (p.line * 64 + off + i) = false) → ∃ w, exec (.pathPerform src dst idx) s = .next w ∧
          popped w ∧ w.mem.lineBytes p.line p.key off bs.length = bs ∧
          (∀ x, x < 64 * p.line ∨ 64 * p.line + 64 ≤ x → Cells.get w.mem.dram x = Cells.get m.dram x) ∧
          (∀ i, i < 64 → i < off ∨ off + bs.length ≤ i →
            w.mem.lineBytes p.line p.key i 1 = m.lineBytes p.line p.key i 1) ∧
          ∀ v, p.version = some v → (w.mem.hline p.line).performed = v) ∧
        (p.op = .marker → ∃ w, exec (.pathPerform src dst idx) s = .next w ∧ popped w ∧ w.mem.dram = m.dram ∧
          AMap.getD w.mem.gathered p.writer 0 = AMap.getD m.gathered p.writer 0 + 1))) ∧
    (4 ≤ (s.die dst).phase → Claims.idles s (.pathPerform src dst idx))

/-- R240 (M13), R399, R403: a near cache takes a line at the home's bytes or drops it; a pool applies its oldest
accepted bank update; and an arrival of a job or reduction counts at a barrier. -/
def Claims.PoolAndNearEvents : Prop :=
  ∀ (c line ks off n fn : Nat) (v : BitVec 32) (u : Bool) (rest : List BankOp) (s : State), s.memWf = true → c < 4096 →
    let x := s.core c
    let others (w : State) (lo hi : Nat) : Prop :=
      (∀ y, y < lo ∨ hi ≤ y → Cells.get (w.core c).pool y = Cells.get x.pool y) ∧
      (∀ d, d ≠ c → (w.core d).pool = (s.core d).pool) ∧ Claims.sameMem s w
    ((s.die (line / 2 ^ 28)).phase < 4 → ∃ w e, exec (.nearCacheFillEvict c line ks true) s = .next w ∧
      AMap.get (w.core c).near (nearIdx ks line) = some e ∧ e.key = ks ∧ e.bytes = s.mem.lineBytes line ks 0 64 ∧
      e.fv = (s.mem.hline line).performed ∧ others w 0 0) ∧
    (∃ w, exec (.nearCacheFillEvict c line ks false) s = .next w ∧ AMap.get (w.core c).near (nearIdx ks line) = none ∧
      (∀ l, l ≠ nearIdx ks line → AMap.get (w.core c).near l = AMap.get x.near l) ∧ others w 0 0) ∧
    (x.bank = .update off v fn u :: rest → x.poisoned off 4 = false → ∃ w, exec (.bankUpdateApply c) s = .next w ∧
      (w.core c).bank = rest ∧ (w.core c).num off 4 =
        bankFn (AMap.getD x.fns fn 0) (x.num off 4) v.toNat % 2 ^ 32 ∧ others w off (off + 4)) ∧
    (x.bank = .config fn n :: rest → ∃ w, exec (.bankUpdateApply c) s = .next w ∧ (w.core c).bank = rest ∧
      AMap.get (w.core c).fns fn = some n ∧ (w.core c).pool = x.pool) ∧
    (x.bank = [] → ∃ w, exec (.bankUpdateApply c) s = .next w ∧ (w.core c).bank = [] ∧ (w.core c).pool = x.pool) ∧
    (x.poisoned off 8 = false → ∃ w, exec (.barrierArrival c off n) s = .next w ∧
      (w.core c).num off 8 = Claims.arrival (x.num off 8) (n % 2 ^ 16) ∧ others w off (off + 8)) ∧
    (x.poisoned off 8 = true → ∃ w, exec (.barrierArrival c off n) s = .next w ∧ others w 0 0)

/-- R381, R382, R240, R399, R403: the events of write queues, paths, pools and near caches. -/
def Obligations.WritesAndCaches : Prop := Claims.WriteQueuesAndPaths ∧ Claims.PoolAndNearEvents

/-- R405, R406: a full episode answers every participant with the combined value, or the group's count, and sets the
tags of its words; an episode that is not full waits. -/
def Claims.TreeEpisodes : Prop :=
  ∀ (d key : Nat) (e : Episode) (a : Arrival) (v : Nat) (s : State), d < 16 → s.disp.saved = [] →
    AMap.get (s.die d).episodes key = some e →
    let count := (AMap.getD (s.die d).groups key 0 + 1) % 2 ^ 32
    let answered (w : State) (x : Word) : Prop :=
      (w.core a.core).num a.off 8 = x.toNat ∧ (w.core a.core).allFull a.off 8 = true
    (e.arrivals.length < e.n → Claims.idles s (.treeEpisodeComplete d key)) ∧
    (e.n ≤ e.arrivals.length → e.arrivals = [a] → a.off % 8 = 0 → a.core < 256 * d + 256 → 256 * d ≤ a.core →
      a.slot < 4 → rootOf s (s.thread a.core a.slot).place.launch = e.launch →
      (s.thread a.core a.slot).status ≠ .unplaced → s.memWf = true →
      ∃ w, exec (.treeEpisodeComplete d key) s = .next w ∧ AMap.get (w.die d).episodes key = none ∧
        AMap.get (w.die d).groups key = some count ∧
        (e.red = none → answered w (BitVec.ofNat 64 count)) ∧
        (∀ op u r, e.red = some (.i32, op, u, r) → v = a.val.toNat % 2 ^ 32 →
          answered w (if u then BitVec.ofNat 64 v else (BitVec.ofNat 32 v).signExtend 64)))

/-- R411, R412: a message whose target matches is delivered to a doubleword with empty tags: the payload, the full
tags, the count and the pending interrupt; with full tags it waits there, and a wrong target never writes it. -/
def Claims.MessageDelivery : Prop :=
  ∀ (m : Msg) (s : State), m.core < 4096 → m.slot < 4 → s.memWf = true → m.waiting = false → (s.core m.core).msgs = [m] →
    let x := s.core m.core
    let t := s.thread m.core m.slot
    let off := m.target.toNat / 2 ^ 20 % 2 ^ 24
    let formed : Prop := m.target.toNat % 16 = 0 ∧ m.target.toNat / 2 ^ 18 % 4 = 0 ∧ m.target.toNat / 2 ^ 44 = 0 ∧
      off % 8 = 0 ∧ t.status ≠ .unplaced ∧ t.place.gen.toNat = m.gen ∧ t.place.spaceid = m.space ∧
      inScratch x.part off 8 = true
    (formed → x.allEmpty off 8 = true → ∃ w, exec (.msgDeliver m.core) s = .next w ∧
      (w.core m.core).msgs = [] ∧ (w.core m.core).num off 8 = m.payload.toNat ∧ (w.core m.core).allFull off 8 = true ∧
      (w.thread m.core m.slot).msgCount = min (t.msgCount + 1) (2 ^ 32 - 1) ∧
      (w.thread m.core m.slot).pend.msg = true ∧
      ∀ y, y < off ∨ off + 8 ≤ y → Cells.get (w.core m.core).pool y = Cells.get x.pool y) ∧
    (formed → x.allEmpty off 8 = false → ∃ w, exec (.msgDeliver m.core) s = .next w ∧
      (w.core m.core).msgs = [{ m with waiting := true }] ∧ (w.core m.core).pool = x.pool ∧
      w.thread m.core m.slot = t) ∧
    (¬formed → ∃ w, exec (.msgDeliver m.core) s = .next w ∧ (w.core m.core).msgs = [] ∧
      (w.core m.core).pool = x.pool ∧ w.thread m.core m.slot = t)

/-- R405, R406, R411, R412: the events of trees and of messages.
Which of two waiting messages goes first is the model's reading (log 41). -/
def Obligations.TreesAndMessages : Prop := Claims.TreeEpisodes ∧ Claims.MessageDelivery

/-- The pages that a shoot-down removes (R254): of a space, or of every space, that meet [lo, hi). -/
def Claims.shot (e : Tlb) (space : Option Nat) (ispace : Bool) (lo hi : Nat) : Prop :=
  (∀ n, space = some n → e.space = n) ∧ e.ispace = ispace ∧ e.vbase < hi ∧ lo < e.vbase + e.size

/-- A shoot-down starts on an idle register set: it is busy and no TLB holds a page that it removes; every other entry
stays. -/
def Claims.shoots (s : State) (i : Instr) (set : Nat) (sp : Option Nat) (ispace : Bool) (lo hi : Nat) : Prop :=
  ∃ w, exec i s = .next w ∧ (AMap.getD w.mgmt.shoot set ShootSet.reset).busy = true ∧
    (∀ c e, e ∈ (w.core c).tlb ↔ e ∈ (s.core c).tlb ∧ ¬Claims.shot e sp ispace lo hi) ∧
    (∀ c e, e ∈ (w.cluster c).l2 ↔ e ∈ (s.cluster c).l2 ∧ ¬Claims.shot e sp ispace lo hi) ∧
    (∀ c e, e ∈ (w.cluster c).itlb ↔ e ∈ (s.cluster c).itlb ∧ ¬Claims.shot e sp ispace lo hi) ∧
    (∀ c e, e ∈ (w.cluster c).etlb ↔ e ∈ (s.cluster c).etlb ∧ ¬Claims.shot e sp ispace lo hi) ∧
    (∀ e, e ∈ w.net.tlb ↔ e ∈ s.net.tlb ∧ ¬Claims.shot e sp ispace lo hi)

/-- R254: the four shoot-downs, by page, range, space and all, when no thread holds a line; a busy set ignores them. -/
def Claims.Shootdowns : Prop :=
  ∀ (set sp n : Nat) (a : Word) (u : Bool) (s : State), set < 16 → sp < 2 ^ 16 → n < 64 →
    (∀ c k, (s.thread c k).rgn.held = []) →
    let va := a.toNat % 2 ^ 57
    let all := 2 ^ 57
    let r := AMap.getD s.mgmt.shoot set ShootSet.reset
    let done := exec (.shootdownComplete set) s
    (r.busy = false →
      Claims.shoots s (.shootdownPage set sp a u) set (some sp) u (va / 4096 * 4096) (va / 4096 * 4096 + 4096) ∧
      (12 ≤ n → n ≤ 57 → Claims.shoots s (.shootdownRange set sp a n u) set (some sp) u (va / 2 ^ n * 2 ^ n)
        (va / 2 ^ n * 2 ^ n + 2 ^ n)) ∧
      Claims.shoots s (.shootdownSpace set sp u) set (some sp) u 0 all ∧
      Claims.shoots s (.shootdownAll set u) set none u 0 all ∧ done = .next s) ∧
    (r.busy = true → Claims.idles s (.shootdownPage set sp a u) ∧ Claims.idles s (.shootdownRange set sp a n u) ∧
      Claims.idles s (.shootdownSpace set sp u) ∧ Claims.idles s (.shootdownAll set u) ∧
      (shotQuiet s = false → done = .next s) ∧
      (shotQuiet s = true → ∃ w, done = .next w ∧ (AMap.getD w.mgmt.shoot set ShootSet.reset).busy = false ∧
        (AMap.getD w.mgmt.shoot set ShootSet.reset).count = (r.count + 1) % 2 ^ 32 ∧ w.cores = s.cores ∧ w.mem = s.mem))

/-- R250, R251, R253: with its die's routines loaded and no miss listed before it, a walk that succeeds stands in the TLBs
and wakes the slot that waits for it; a hit and a failed walk that no slot waits for change nothing, nor does a walk
before the routines are loaded; and the answers of the resident kernel wake the thread that waits, or mark its walk as
declined. -/
def Claims.WalksAndService : Prop :=
  ∀ (c k sp id : Nat) (va : Word) (r : WalkReq) (s : State), c < 4096 → k < 4 →
    let v := va.toNat % 2 ^ 57
    let l1 := (s.core c).tlb
    let l2 := (s.cluster (clusterOf c)).l2
    let misses (kind : WalkKind) : Prop := (∀ e ∈ l1, e.serves sp false .compute kind v = false) ∧
      (∀ e ∈ l2, e.serves sp false .compute kind v = false)
    let walk (kind : WalkKind) := (walkSpace s sp false .compute kind va.toNat).1
    let t := s.thread c k
    let die := s.die (dieOf c)
    let awaited (kind : WalkKind) : Prop := ∃ i, i < 4 ∧ (s.thread c i).status = .parked (.tlb va.toNat kind)
    (∀ kind ∈ [WalkKind.read, .write],
      (die.routines = none → Claims.idles s (.tlbWalk c sp va kind)) ∧
      (die.misses = [] → ¬awaited kind →
        (canonical va.toNat = false → Claims.idles s (.tlbWalk c sp va kind)) ∧
        (canonical va.toNat = true → (∃ e ∈ l1, e.serves sp false .compute kind v = true) →
          Claims.idles s (.tlbWalk c sp va kind)) ∧
        (misses kind → (walk kind).status ≠ 0 → Claims.idles s (.tlbWalk c sp va kind))) ∧
      (die.routines.isSome = true → die.misses = [] → canonical va.toNat = true → misses kind → (walk kind).status = 0 →
        ∃ w e, exec (.tlbWalk c sp va kind) s = .next w ∧ (w.core c).tlb.head? = some e ∧
          (w.cluster (clusterOf c)).l2.head? = some e ∧ e.space = sp ∧ e.ispace = false ∧
          e.vbase = (walk kind).vbase ∧ e.pbase = (walk kind).pbase ∧ e.size = (walk kind).size ∧
          e.attrs.testBit 6 = true ∧ (kind = .write → e.attrs.testBit 7 = true) ∧ (w.core c).tlb.length ≤ 64 ∧
          w.thread c k = if t.status = .parked (.tlb va.toNat kind) ∧ t.place.spaceid = sp then { t with status := .ready }
            else t)) ∧
    (AMap.get s.mem.walks id = none →
      Claims.idles s (.walkServiceRelease id) ∧ Claims.idles s (.walkServiceDecline id)) ∧
    (AMap.get s.mem.walks id = some r → r.issuer = 4 * c + k →
      (∃ w, exec (.walkServiceRelease id) s = .next w ∧ AMap.get w.mem.walks id = none ∧ w.thread c k =
        if t.status = .parked (.walk id) then { t with status := .ready } else t) ∧
      (∃ w, exec (.walkServiceDecline id) s = .next w ∧ AMap.get w.mem.walks id = none ∧ w.thread c k =
        if t.status = .parked (.walk id) then { t with status := .ready, declined := some (r.va, r.status) } else t))

/-- R250, R251, R253, R254: shoot-downs, walks and their service.
When a shoot-down ends is the model's reading (log 44). -/
def Obligations.ShootdownsAndWalks : Prop := Claims.Shootdowns ∧ Claims.WalksAndService

/-- R283, R300, R304, R418: the events of copy jobs. Nothing starts while packets are on their way; a cancelled job
ends at a unit boundary; a unit moves the whole units' elements and reports them, or the job waits or ends with an
error; the final status opens the shutters of a job that did not stop early. -/
def Claims.CopyJobEvents : Prop :=
  ∀ (cl st code : Nat) (j : CopyJob) (s : State), cl < 512 → AMap.get (s.cluster cl).copyJobs j.id = some j →
    let owner := s.thread j.core j.slot
    let unit : Instr := .copyJobUnit cl
    let final : Instr := .copyJobFinal cl j.id
    let out : Instr := .cnOutJob cl j.id
    let job (w : State) := AMap.get (w.cluster cl).copyJobs j.id
    let busy := enginePending s cl 1
    let stopped (k : CopyJob) : Prop := k.next = j.next ∧ (k.walk.isSome = true ∨ ∃ a b, k.ended = some (a, b))
    (busy = true → Claims.idles s unit ∧ Claims.idles s final ∧ Claims.idles s out) ∧
    (copyOrder s cl = [] → Claims.idles s unit) ∧
    (j.ended = none ∨ j.status ≠ 0 → Claims.idles s final) ∧
    (busy = false → copyOrder s cl = [j] → j.cancel = true → ∃ w, exec unit s = .next w ∧
      job w = some { j with ended := some (4, 0) } ∧ w.mem = s.mem ∧ w.cores = s.cores) ∧
    (busy = false → copyOrder s cl = [j] → j.cancel = false → j.walk = none → j.out = none → j.next < j.total →
      ∃ w, exec unit s = .next w ∧ (w = s ∨ ∃ k, job w = some k ∧ k.record = j.record ∧ k.total = j.total ∧
        k.shutters = j.shutters ∧ (stopped k ∨ (k.next = min (j.next + (unitFmt j).k) j.total ∧ k.rst = k.next ∧
          k.ended = (if j.total ≤ k.next then some (1, 0) else none))))) ∧
    (busy = false → j.status = 0 → j.ended = some (st, code) → j.root = none →
      j.record / 2 ^ 128 % 2 ^ 64 = 0 → owner.status ≠ .unplaced → owner.place.gen = j.gen →
      ∃ w k, exec final s = .next w ∧ job w = some k ∧ k.status = st ∧ k.code = code ∧ k.ended = none ∧
        k.record = j.record ∧ (j.out = none → k.rst = if st = 1 then j.total else j.next) ∧ w.mem = s.mem ∧
        (∀ c, (w.core c).pool = (s.core c).pool) ∧
        (st < 3 → k.shutters = [] ∧ ∀ p ∈ j.shutters, AMap.get (w.core p.1).shutters p.2 = none) ∧
        (3 ≤ st → k.shutters = j.shutters)) ∧
    (j.out = none ∨ copyOrder s cl = [] → Claims.idles s out) ∧
    (∀ d l, busy = false → copyOrder s cl = [j] → j.cancel = false → j.walk = none → j.out = some (d, l) →
      ∃ w, exec out s = .next w ∧ (w = s ∨ ∃ k, job w = some k ∧ k.record = j.record ∧ (stopped k ∨
        (k.next = j.next ∧ k.ended = some (1, 0)) ∨ (k.next = j.next + 1 ∧ k.ended = none))))

/-- A page of a space is held by the L2 of a cluster, so that an access of a class to an address in it translates there
(R250), and its home die takes accesses. -/
def Claims.reachable (s : State) (cl sp : Nat) (cls : Cls) (kind : WalkKind) (va : Nat) (tr : Trans) : Prop :=
  canonical va = true ∧ dieHeld s (lineDie tr.line) = false ∧ tr.off = 0 ∧
  ∃ e, (s.cluster cl).l2.find? (fun e => e.serves sp false cls kind (va % 2 ^ 57)) = some e ∧ e.trans (va % 2 ^ 57) = tr

/-- R355 to R359: the home of a name n finds its entry x at place e of the name's first bucket b, in the line that `tr`
reaches. -/
def Claims.directory (s : State) (sp n : Nat) (st : Store) (tr : Trans) (b e x : Nat) : Prop :=
  let entry (k : Nat) : Nat := b / 2 ^ (32 + 160 * k) % 2 ^ 160
  let holds (y : Nat) : Prop := (y % 4 = 1 ∨ y % 4 = 2) ∧ y / 2 ^ 64 % 2 ^ 96 = n
  0 < n ∧ storeOf s sp = some st ∧ e < 3 ∧ x = entry e ∧ holds x ∧ (∀ k, k < e → ¬holds (entry k)) ∧
  Claims.reachable s (n % 512) sp .content .read (st.tbase + 64 * (n % 512 * 2 ^ st.nlog + n / 512 % 2 ^ st.nlog)) tr ∧
  s.mem.poisoned (tr.line * 64) 64 = false ∧ b = s.mem.line tr.line tr.key % 2 ^ 512

/-- The same line may be written by its home, and no unit of the device holds a byte of it. -/
def Claims.directoryWritable (s : State) (sp n : Nat) (st : Store) (tr : Trans) : Prop :=
  Claims.reachable s (n % 512) sp .content .write (st.tbase + 64 * (n % 512 * 2 ^ st.nlog + n / 512 % 2 ^ st.nlog)) tr ∧
  ∀ y, y < 64 → deviceHeld s (tr.line * 64 + y) = false

/-- R283, R288 to R292, R304: a copy job alone in its queue, over one dimension of 32-bit integers from pool to pool without
fill, dealing, swizzle, scale or tags, moves its next unit of fifteen elements, or what is left: they stand at the
destination, nothing else of any pool changes, the restart count follows, and after the last unit the job ends. -/
def Claims.MovesUnit : Prop :=
  ∀ (cl p q a b : Nat) (j : CopyJob) (s : State), cl < 512 → s.memWf = true →
    let field (lo len : Nat) : Nat := j.record / 2 ^ lo % 2 ^ len
    let n := min 15 (j.total - j.next)
    let src := a + 4 * j.next
    let dst := b + 4 * j.next
    field 208 2 = 2 → field 210 2 = 2 → field 216 3 = 1 → field 192 8 = 0x63 → j.fmt = 0x63 → field 232 8 = 127 →
    field 240 8 = 127 → field 222 2 = 0 → field 219 1 = 0 → field 384 16 = 0 → field 416 32 = 1 →
    j.total ≤ field 368 16 + 1 → j.total ≤ field 400 16 + 1 → j.mask = 0 → j.next < j.total →
    windowAt s j.core (BitVec.ofNat 64 (field 0 64)) = some (p, a) →
    windowAt s j.core (BitVec.ofNat 64 (field 64 64)) = some (q, b) →
    (s.core p).poisoned src (4 * n) = false →
    (∀ c, ∀ e ∈ (s.core c).shutters, e.2.queue = 1 ∧ e.2.id = j.id) →
    enginePending s cl 1 = false → (s.cluster cl).copyJobs = [(j.id, j)] → j.status = 0 → j.ended = none →
    j.cancel = false → j.walk = none → j.out = none →
    ∃ w k, exec (.copyJobUnit cl) s = .next w ∧ AMap.get (w.cluster cl).copyJobs j.id = some k ∧ k.next = j.next + n ∧
      k.rst = j.next + n ∧ k.ended = (if j.total ≤ j.next + n then some (1, 0) else none) ∧ k.status = 0 ∧
      (∀ i, i < n → (w.core q).num (dst + 4 * i) 4 = (s.core p).num (src + 4 * i) 4) ∧
      (∀ y, y < dst ∨ dst + 4 * n ≤ y → Cells.get (w.core q).pool y = Cells.get (s.core q).pool y) ∧
      (∀ c, c ≠ q → (w.core c).pool = (s.core c).pool) ∧ w.mem = s.mem

/-- R365, R376: a copy-out job alone in its queue, on a root whose line is a leaf that its home can read, sends the leaf to
the next destination line as one packet of the copy unit, and counts its elements. -/
def Claims.MovesLeaf : Prop :=
  ∀ (cl dest limit n bk e x line : Nat) (j : CopyJob) (st : Store) (td ts tw : Trans) (s : State), cl < 512 →
    (s.cluster cl).copyJobs = [(j.id, j)] → j.status = 0 → j.ended = none → j.cancel = false → j.walk = none →
    enginePending s cl 1 = false → j.out = some (dest, limit) → j.root = some j.record → j.next < limit →
    dest % 64 = 0 → dest + 64 * limit ≤ 2 ^ 64 → (∀ e ∈ (s.core j.core).shutters, e.2.queue = 1 ∧ e.2.id = j.id) →
    Claims.directory s j.space j.record st td bk e x → x % 4 = 1 →
    Claims.reachable s (j.record % 512) j.space .content .read (st.sbase + 64 * (x / 2 ^ 32 % 2 ^ 32)) ts →
    s.mem.poisoned (ts.line * 64) 64 = false → line = s.mem.line ts.line ts.key % 2 ^ 512 →
    line % 2 ^ 8 ≠ 0xC0 → lineCount line = some n → j.start < n →
    Claims.reachable s cl j.space .engine .write (dest + 64 * j.next) tw →
    ∃ w k, exec (.cnOutJob cl j.id) s = .next w ∧ AMap.get (w.cluster cl).copyJobs j.id = some k ∧
      k.next = j.next + 1 ∧ k.rst = j.next + 1 ∧ k.start = j.start + n ∧ k.ended = none ∧
      w.mem.path (pathOf (cl / 32) tw.line) = s.mem.path (pathOf (cl / 32) tw.line) ++
        [{ writer := 32768 + 2 * cl + 1, line := tw.line, version := none, key := tw.key,
           op := .write (byteMap 0 (toBytes 64 line)) }] ∧
      w.mem.dram = s.mem.dram

/-- R336, R346, R347, R349, R352, R418: the events of matrix jobs, tile by tile. -/
def Claims.MatrixJobEvents : Prop :=
  ∀ (cl st code id : Nat) (j : MatrixJob) (s : State), cl < 512 → s.memWf = true →
    AMap.get (s.cluster cl).mxJobs j.id = some j →
    let tile : Instr := .matrixTile cl
    let final : Instr := .matrixJobFinal cl j.id
    let job (w : State) := AMap.get (w.cluster cl).mxJobs j.id
    let x := s.core j.core
    let a := accStart x.part + 4096 * (j.first + j.done)
    let all := accStart x.part + 4096 * j.first
    let kept := poolLimit x.part + 4096 * j.first
    let outside (w : State) (lo hi : Nat) : Prop :=
      (∀ y, y < lo ∨ hi ≤ y → Cells.get (w.core j.core).pool y = Cells.get x.pool y) ∧ w.mem = s.mem
    let running : Prop := j.status = 0 ∧ j.ended = none ∧ j.cancel = false ∧ j.walk = none
    let ends := if j.tiles ≤ j.done + 1 then some (1, 0) else none
    (mxOrder s cl = [] → Claims.idles s tile) ∧
    (mxOrder s cl = [j] → j.cancel = true → ∃ w, exec tile s = .next w ∧
      job w = some { j with ended := some (4, 0) } ∧ w.cores = s.cores ∧ w.mem = s.mem) ∧
    (running → j.zero.isSome = true → mxOrder s cl = [j] → ∀ e ∈ [tile, .accZeroJob cl j.id],
      (tileShut s cl j j.done = true → Claims.idles s e) ∧
      (tileShut s cl j j.done = false → ∃ w, exec e s = .next w ∧ (w.core j.core).bytes a 4096 = List.replicate 4096 0 ∧ outside w a (a + 4096) ∧
        job w = some { j with done := j.done + 1, ended := ends })) ∧
    (running → j.zero = none → j.converted = true →
      mxAfterq j.record = 0 → mxOrder s cl = [j] → x.poisoned a 4096 = false →
      (tileShut s cl j j.done = true → Claims.idles s tile) ∧
      (tileShut s cl j j.done = false → ∃ w k, exec tile s = .next w ∧ (w.core j.core).bytes a 4096 = (mxTile j j.done (x.bytes a 4096)).1 ∧
        outside w a (a + 4096) ∧ job w = some k ∧ k.done = j.done + 1 ∧ k.ended = ends)) ∧
    (j.zero = none → Claims.idles s (.accZeroJob cl j.id)) ∧
    (AMap.get (s.cluster cl).mxJobs id = none → Claims.idles s (.matrixJobFinal cl id) ∧
      Claims.idles s (.matrixShadowReplay cl id) ∧ Claims.idles s (.accZeroJob cl id)) ∧
    (j.status = 0 → j.ended = some (st, code) → j.record / 2 ^ 384 % 2 ^ 64 = 0 → ∃ w k, exec final s = .next w ∧
      job w = some k ∧ k.status = st ∧ k.code = code ∧ k.done = (if st = 3 then 0 else j.done) ∧
      (∀ e ∈ (w.core j.core).shutters, ¬(e.2.queue = 0 ∧ e.2.id = j.id)) ∧
      (st = 3 → j.shadowed = true →
        (w.core j.core).bytes all (4096 * j.tiles) = x.bytes kept (4096 * j.tiles)) ∧
      (st ≠ 3 → outside w 0 0)) ∧
    (running → Claims.idles s (.matrixShadowReplay cl j.id)) ∧
    (j.status = 0 → j.ended = none → j.walk = some id → AMap.get s.mem.walks id = none →
      ∃ w k, exec (.matrixShadowReplay cl j.id) s = .next w ∧ job w = some k ∧ k.done = 0 ∧ k.walk = none ∧
        k.converted = false ∧ (j.shadowed = true →
          (w.core j.core).bytes all (4096 * j.tiles) = x.bytes kept (4096 * j.tiles)) ∧ (j.shadowed = false → outside w 0 0))

/-- R283, R300, R304, R336, R346, R347, R349, R352, R365, R376, R418: the events of copy jobs and of matrix jobs. Each of
`copyJobUnit`, `copyJobFinal`, `cnOutJob`, `matrixTile`, `accZeroJob`, `matrixJobFinal` and `matrixShadowReplay` completes with
its own effect under conditions on the state alone.
When a unit starts, and when matrix operands are read, is the model's reading (logs 52 and 57). -/
def Obligations.JobEvents : Prop :=
  Claims.CopyJobEvents ∧ Claims.MovesUnit ∧ Claims.MovesLeaf ∧ Claims.MatrixJobEvents

/-- R367, R363, R368: a content request that has been sent is performed at its home or gathered again, count changes arrive
one by one, and a home reclaims the entries of its queue in order; work that needs the service of a walk stays where it is. -/
def Claims.ContentQueues : Prop :=
  ∀ (c k src dst sp hm n : Nat) (r : CnReq) (m : CountMsg) (ms : List CountMsg) (ns : List Nat) (st : Store) (s : State),
    c < 4096 → k < 4 → src < 512 → dst < 512 → hm < 512 →
    let serve : Instr := .contentHomeRequest c k
    let counts (w : State) := AMap.getD w.counts (src * 512 + dst) []
    let cn (w : State) := (w.thread c k).cn
    (cn s = none → Claims.idles s serve) ∧
    (cn s = some r → r.answered = true → Claims.idles s serve) ∧
    (cn s = some r → r.answered = false → ∃ w, exec serve s = .next w ∧ (w = s ∨ cn w = none ∨ ∃ a b d,
      cn w = some { r with answered := true, status := a, slotIdx := b, kite := d })) ∧
    (counts s = [] → Claims.idles s (.contentCountMessage src dst)) ∧
    (counts s = m :: ms → ∃ w, exec (.contentCountMessage src dst) s = .next w ∧ (storeOf s m.space = none → counts w = ms) ∧
      (counts w = counts s ∨ counts w = ms)) ∧
    (storeOf s sp = none → Claims.idles s (.reclaim sp hm)) ∧
    (storeOf s sp = some st → AMap.getD st.reclaim hm [] = [] → Claims.idles s (.reclaim sp hm)) ∧
    (storeOf s sp = some st → AMap.getD st.reclaim hm [] = n :: ns → ∃ w, exec (.reclaim sp hm) s = .next w ∧
      (w.stores = s.stores ∨ ∃ u, storeOf w sp = some u ∧ AMap.getD u.reclaim hm [] = ns))

/-- R358, R362, R363, R367, R372: with the name's bucket within reach of its home, a `cn.get` request is answered with the
slot; a count message changes the count of a live name by one, a pinned one not at all; and an entry that is reclaiming
becomes free with its slot. -/
def Claims.ContentEffects : Prop :=
  ∀ (c k sp n b e x src : Nat) (r : CnReq) (m : CountMsg) (ms : List CountMsg) (ns : List Nat) (st : Store) (tr : Trans)
    (s : State), c < 4096 → k < 4 → src < 512 → s.memWf = true → Claims.directory s sp n st tr b e x →
    let slot := x / 2 ^ 32 % 2 ^ 32
    let unit := 2 ^ (32 + 160 * e)
    let count := x / 2 ^ 8 % 2 ^ 24
    let bucket (w : State) := w.mem.line tr.line tr.key % 2 ^ 512
    let queue (w : State) := AMap.getD w.counts (src * 512 + n % 512) []
    let arrive : Instr := .contentCountMessage src (n % 512)
    ((s.thread c k).cn = some r → r.answered = false → r.kind = .get → r.space = sp → r.name = n → x % 4 = 1 →
      ∃ w, exec (.contentHomeRequest c k) s = .next w ∧ w.mem = s.mem ∧
        (w.thread c k).cn = some { r with answered := true, status := 0, slotIdx := slot, kite := 0 }) ∧
    (queue s = m :: ms → m.space = sp → m.name = n → x % 4 = 1 →
      (count = 0xFFFFFF → ∃ w, exec arrive s = .next w ∧ queue w = ms ∧ bucket w = b) ∧
      (Claims.directoryWritable s sp n st tr →
        (m.up = true → count ≠ 0xFFFFFF → ∃ w, exec arrive s = .next w ∧ queue w = ms ∧ bucket w = b + 2 ^ 8 * unit) ∧
        (m.up = false → count ≠ 0xFFFFFF → 2 ≤ count → ∃ w, exec arrive s = .next w ∧ queue w = ms ∧
          bucket w + 2 ^ 8 * unit = b))) ∧
    (AMap.getD st.reclaim (n % 512) [] = n :: ns → x % 4 = 2 → x / 4 % 2 = 0 → Claims.directoryWritable s sp n st tr →
      ∃ w u, exec (.reclaim sp (n % 512)) s = .next w ∧ bucket w + 2 * unit = b ∧ storeOf w sp = some u ∧
        AMap.getD u.reclaim (n % 512) [] = ns ∧ AMap.get u.used slot = none)

/-- R355 to R359, R362, R363, R367, R368, R372: the homes of the content store: requests, counts and reclaiming, each with
its effect where the bucket of the name can be reached. -/
def Obligations.ContentEvents : Prop := Claims.ContentQueues ∧ Claims.ContentEffects

/-- R161, R137, R138: a packet is latched by the write of its last doubleword, judged in order, and its outcome is
shown in the slot. -/
def Claims.LaunchSubmission : Prop :=
  ∀ (i off : Nat) (v : Word) (q : Submit) (qs : List Submit) (f : LRefuse) (a : Accepted) (s : State), i < 16 →
    let w := AMap.getD s.disp.window i WinSlot.reset
    let sp := AMap.getD s.disp.lwspace i 0
    let slot (z : State) := AMap.getD z.disp.window i WinSlot.reset
    let put : AMap Byte := (byteMap off (toBytes 8 v.toNat)).foldl (fun m e => AMap.set m e.1 e.2) w.bytes
    let packet := ofBytes ((List.range 64).map (fun j => AMap.getD put j 0))
    let seq := packet / 2 ^ 192 % 2 ^ 32
    (¬(off % 8 = 0 ∧ off < 64) → Claims.idles s (.launchLatch i off v)) ∧
    (off % 8 = 0 → off < 56 → ∃ z, exec (.launchLatch i off v) s = .next z ∧ (slot z).bytes = put ∧
      (slot z).outcome = w.outcome ∧ z.disp.submits = s.disp.submits) ∧
    (off = 56 → sp.testBit 16 = true → w.pending = false → ∃ z, exec (.launchLatch i off v) s = .next z ∧
      slot z = { bytes := put, outcome := BitVec.ofNat 64 seq, pending := true } ∧
      z.disp.submits = s.disp.submits ++ [{ slot := some i, thread := none, space := sp % 2 ^ 16, packet := packet }]) ∧
    (off = 56 → w.pending = true ∨ sp.testBit 16 = false → ∃ z, exec (.launchLatch i off v) s = .next z ∧
      z.disp.submits = s.disp.submits ∧ (slot z).outcome = w.outcome) ∧
    (s.disp.submits = [] → Claims.idles s .launchAccept) ∧
    (s.disp.submits = q :: qs → q.slot = some i → q.thread = none →
      let s0 : State :=
        { s with disp := { s.disp with submits := qs } }
      (checkLaunch s0 q.space q.packet none = .error f → ∃ z, exec .launchAccept s = .next z ∧ z.disp.submits = qs ∧
        (slot z).pending = false ∧ z.disp.launches = s.disp.launches ∧ z.chan.dsent = nextSeq s.chan.dsent ∧
        (slot z).outcome = BitVec.ofNat 64 (q.packet / 2 ^ 192 % 2 ^ 32 + 2 * 2 ^ 32 + f.reason % 256 * 2 ^ 40 +
          f.off % 2 ^ 16 * 2 ^ 48)) ∧
      (checkLaunch s0 q.space q.packet none = .ok a → ∃ z, exec .launchAccept s = .next z ∧
        (slot z).pending = false ∧ (slot z).outcome = BitVec.ofNat 64 (q.packet / 2 ^ 192 % 2 ^ 32 + 2 ^ 32) ∧
        AMap.get z.disp.launches s.disp.nextLaunch = some a.launch ∧ z.disp.nextLaunch = s.disp.nextLaunch + 1 ∧
        AMap.get z.disp.lastSeq a.launch.space = some a.launch.seq))

/-- R140, R149, R150, R151, R152, R143, R156, R443, R444: placing, starting, tiles, meters, deadlines and records. -/
def Claims.LaunchEvents : Prop :=
  ∀ (l i c k off cl : Nat) (n : Node) (ts : TileSpace) (b : Nat) (bs : List Nat) (qs : List (Nat × Nat × Nat))
    (launch : Launch) (s t : State), cl < 512 → s.memWf = true →
    let here (w : State) := w.node l i
    let late := n.deadline < s.time.tick ∧ n.complete = false ∧ n.missApplied = false
    let gang := gangMembers s (s.thread c k).place.gang
    (struckLaunch s = none → duePlace s = none → Claims.idles s .launchPlace) ∧
    (struckLaunch s = none → duePlace s = some t → exec .launchPlace s = .next t) ∧
    (struckLaunch s = some l → ∃ w, exec .launchPlace s = .next w ∧
      (AMap.get w.disp.launches l).map Launch.aborted = some true) ∧
    (dueStart s = none → Claims.idles s .instanceStart) ∧
    (s.disp.queries = [] → Claims.idles s .nexttileAnswer) ∧
    (s.disp.queries = (c, k, off) :: qs → (s.thread c k).place.launch = l → (s.thread c k).place.node = i →
      here s = some n → n.tile = some ts → ts.back = b :: bs → gang = [(c, k)] → off % 8 = 0 →
      ∃ w, exec .nexttileAnswer s = .next w ∧ w.disp.queries = qs ∧
        (here w).map (fun x => x.tile) = some (some { ts with back := bs, issued := ts.issued + 1 }) ∧
        (w.core c).num off 4 = b % 2 ^ 32 ∧ (w.core c).num (off + 4) 4 = b / 2 ^ 32 % 2 ^ 32 ∧
        (w.core c).allFull off 8 = true) ∧
    ((∀ r ∈ s.disp.rings, r.2.holder ≠ some cl) → exec (.governorSample cl) s =
      .next (s.modCluster cl (fun x => { x with sampleAt := s.time.cycle + 4096 }))) ∧
    (∃ w, exec (.governorSample cl) s = .next w ∧ (w.cluster cl).sampleAt = w.time.cycle + 4096) ∧
    (here s = none → Claims.idles s (.deadlineMiss l i)) ∧
    (here s = some n → ¬late → Claims.idles s (.deadlineMiss l i)) ∧
    (AMap.get s.disp.launches l = some launch → here s = some n → late → missAbove s launch 8 i = false →
      (n.missed = 0 → exec (.deadlineMiss l i) s = .next (s.modNode l i (fun x => { x with missApplied := true }))) ∧
      (n.missed = 2 → ∃ w, exec (.deadlineMiss l i) s = .next w ∧ w.chan.dsent = nextSeq s.chan.dsent) ∧
      (n.missed = 1 → ∃ w, exec (.deadlineMiss l i) s = .next w ∧ (here w).map Node.ending = some true ∧
        (here w).map Node.missApplied = some true)) ∧
    (AMap.get s.disp.launches l = none → Claims.idles s (.charterComplete l i)) ∧
    (AMap.get s.disp.launches l = some launch → reportDue s l = true → ∃ w, exec (.charterComplete l 0) s = .next w ∧
      AMap.get w.disp.launches l = some { launch with done := true } ∧ w.chan.dsent = nextSeq s.chan.dsent) ∧
    (AMap.get s.disp.launches l = some launch → i ≠ 0 ∨ reportDue s l = false → here s = some n →
      (mayComplete s l i = false → Claims.idles s (.charterComplete l i)) ∧
      (mayComplete s l i = true → ∃ w, exec (.charterComplete l i) s = .next w ∧ (here w).map Node.complete = some true ∧
        (AMap.getD w.mgmt.areas launch.space Area.reset).ccount =
          ((AMap.getD s.mgmt.areas launch.space Area.reset).ccount + 1) % 2 ^ 32))

/-- R140, R142, R145, R146, R150, R151, R152: what the dispatcher does when it has something to do. The first stage in the
order of rank is placed on the clusters that its minimum placement needs; an instance that is due starts as a new gang; the
sample of a ring counts how often in a row its occupancy lay outside its thresholds; and a meter's update adds the energy of
what was counted and the bytes it is given (log 99), and marks a budget that it finds spent.
Which free clusters are taken is the model's choice (log 31); the calibration is free (log 9). -/
def Claims.LaunchEffects : Prop :=
  ∀ (l i cl rank key : Nat) (n : Node) (g : Stage) (r : Ring) (ends : Nat × Nat)
    (rest : List (Nat × (Nat × Nat ⊕ Nat))) (launch : Launch) (s : State), cl < 512 →
    AMap.get s.disp.launches l = some launch → AMap.get launch.nodes i = some n → n.stage = some g →
    let here (w : State) := w.node l i
    let cores := g.mininst * g.gang
    let needs := (cores + 7) / 8
    (struckLaunch s = none → waitingAll s = (rank, .inl (l, i)) :: rest → n.kind = 3 → budgetAllows s l i needs = true →
      (freeClusters s needs).length = needs → ∃ w x, exec .launchPlace s = .next w ∧ here w = some x ∧ x.placed = true ∧
        ∀ c ∈ freeClusters s needs, (w.cluster c).holder = some (l, i)) ∧
    (dueStart s = some (l, i) → 0 < g.gang → ∃ w x gang, exec .instanceStart s = .next w ∧ here w = some x ∧
      x.started = n.started + 1 ∧ x.running = n.running + 1 ∧ AMap.get w.disp.gangs (s.disp.nextGang + 1) = some gang ∧
      gang.launch = l ∧ gang.node = i ∧ gang.inum = n.started ∧ gang.members.length = g.gang ∧
      ∀ m ∈ gang.members, (w.thread m.1 m.2).status = .ready ∧ (w.thread m.1 m.2).pc = g.entry) ∧
    (s.disp.rings = [(key, r)] → r.holder = some cl → r.mark.isSome = true ∨ (r.above < 2 ∧ r.below < 2) → ringEnds s r.launch (key % 2 ^ 64) = some ends →
      let taken := (r.post + 2 ^ 32 - r.take % 2 ^ 32) % 2 ^ 32
      ∃ w, exec (.governorSample cl) s = .next w ∧ (w.cluster cl).sampleAt = s.time.cycle + 4096 ∧
        w.disp.rings = [(key, { r with above := if r.high < taken then r.above + 1 else 0
                                       below := if taken < r.low then r.below + 1 else 0 })]) ∧
    (ancestors s l i = [(l, i)] → ∀ d, ∃ w x, exec (.meterUpdate l i d) s = .next w ∧ here w = some x ∧
      x.usedDram = n.usedDram + d ∧ x.usedEnergy = n.usedEnergy + Config.energyOf s.free ∧ x.metered = s.time.cycle ∧
      (n.overrun = none → n.dram ≤ n.usedDram + d → x.overrun = some 2) ∧
      (n.overrun = none → n.usedDram + d < n.dram → x.overrun = if n.energy ≤ x.usedEnergy then some 3 else none) ∧
      (∀ o, n.overrun = some o → x.overrun = some o))

/-- R137, R138, R140, R142, R143, R146, R149 to R152, R156, R161, R443, R444: a launch from its packet to its records. Each
of its events completes with its own effect under conditions on the state alone. -/
def Obligations.LaunchLife : Prop := Claims.LaunchSubmission ∧ Claims.LaunchEvents ∧ Claims.LaunchEffects

/-- R141, R434, R438: pre-emption starts only for a reason of the dispatcher and stops every member of the cluster's gangs;
once all has drained it saves their gangs and threads, leaves their slots empty and their cluster free, or drops them when
their work has been aborted; a saved set is restored only where it fits, and its thread then goes on there.
What a pre-emption waits for at barriers, and where a set goes back, are the model's reading (logs 37 and 74). -/
def Obligations.PreemptionEvents : Prop :=
  ∀ (cl reason id gid c k : Nat) (g : Gang) (gs : List (Nat × Gang)) (v : Saved) (x : Core) (s : State), cl < 512 →
    s.mgmt.dieBusy = false →
    let set := preemptSet s cl
    let marks := markPreempt s set reason
    (preempting s cl = false → mayPreempt s cl reason = false → Claims.idles s (.preempt cl reason)) ∧
    (preempting s cl = false → mayPreempt s cl reason = true → reason ≠ 2 → drained marks set = false →
      ∃ w, exec (.preempt cl reason) s = .next w ∧ w.disp.saved = s.disp.saved ∧
        ∀ m ∈ membersOn s set, (w.thread m.1 m.2).pend.preempt = some reason) ∧
    (preempting s cl = true → marked s set = true → drained s set = false → Claims.idles s (.preempt cl reason)) ∧
    (preempting s cl = false → mayPreempt s cl 2 = true → ∃ w, exec (.preempt cl 2) s = .next w ∧
      w.disp.saved = s.disp.saved ∧ ∀ e ∈ w.disp.gangs, e.2.cluster ∉ set) ∧
    (preempting s cl = true → marked s set = true → drained s set = true → gangsOn s set = (gid, g) :: gs →
      (membersOn s set).Nodup → (∀ m ∈ membersOn s set, clusterOf m.1 ∈ set) →
      (∀ a, (s.pipe a).ins = [] ∧ (s.pipe a).res = []) →
      ∃ w u, exec (.preempt cl reason) s = .next w ∧ AMap.get w.disp.saved s.disp.nextSaved = some u ∧
        u.gangs = (gid, g) :: gs ∧ u.launch = g.launch ∧ u.reason = reason ∧ (∀ e ∈ w.disp.gangs, e.2.cluster ∉ set) ∧
        ∀ m ∈ membersOn s set, (w.thread m.1 m.2).status = .unplaced ∧
          (w.thread m.1 m.2).place.gen = (s.thread m.1 m.2).place.gen + 1 ∧
          ∃ y, AMap.get u.cores m.1 = some y ∧ (y.slot m.2).g = (s.thread m.1 m.2).g ∧
            (y.slot m.2).pc = (s.thread m.1 m.2).pc ∧ (y.slot m.2).ctl = (s.thread m.1 m.2).ctl) ∧
    ((∀ e ∈ s.disp.saved, e.2.gangs ≠ []) → s.disp.heldTree = [] →
      (AMap.get s.disp.saved id = none → Claims.idles s (.restore id cl)) ∧
      (AMap.get s.disp.saved id = some v → fits s v cl = false → Claims.idles s (.restore id cl)) ∧
      (s.disp.saved = [(id, v)] → v.gangs = [(gid, g)] → g.members = [(c, k)] → AMap.get v.cores c = some x →
        (v.cores.map Prod.fst).Nodup → (∀ e ∈ v.cores, clusterOf e.1 = clusterOf c) → (x.slot k).ren = [] →
        fits s v cl = true → ∃ w, exec (.restore id cl) s = .next w ∧
          let there := coreAt cl (posOf c)
          w.disp.saved = [] ∧ AMap.get w.disp.gangs gid = some { g with members := [(there, k)], cluster := cl } ∧
          (w.cluster cl).holder = some (g.launch, g.node) ∧ (w.core there).pool = x.pool ∧
          (w.thread there k).g = (x.slot k).g ∧ (w.thread there k).pc = (x.slot k).pc ∧
          (w.thread there k).ctl = (x.slot k).ctl ∧ (w.thread there k).status = (x.slot k).status))

/-- The number of the next message of the host (R134) and its three types; anything else is type 1. -/
def Claims.hostMessage (s : State) (m : Nat) : Prop :=
  s.chan.hqset = true ∧ s.chan.hqread ≠ s.chan.hqtail ∧
  m = ofBytes (Cells.getN s.mem.host (s.chan.hqbase.toNat + 64 * (s.chan.hqread % 2 ^ s.chan.hqlog)) 64)

/-- R132, R134, R135, R143, R158, R159: host messages are taken in sequence, gaps are answered and repeats are dropped; a
replay sends kept messages again, a cancel aborts its launch; the head and base of the device's queue; and ring commands of
outside parties. Each of these events completes under conditions on the state alone. -/
def Obligations.HostChannelEvents : Prop :=
  ∀ (m n sp lid : Nat) (v ring : Word) (r : Ring) (b : List Byte) (launch : Launch) (s : State), s.memWf = true →
    let ty := if m / 2 ^ 72 % 256 ≠ 0 ∨ m / 2 ^ 96 % 2 ^ 32 ≠ 0 ∨ 48 < m / 2 ^ 80 % 2 ^ 16 then 1
      else if m / 2 ^ 64 % 256 = 2 then 2 else if m / 2 ^ 64 % 256 = 3 then 3 else 1
    let q := m % 2 ^ 32
    let due := nextSeq s.chan.hrecv
    let read : Channel := { s.chan with hqread := (s.chan.hqread + 1) % 2 ^ 32 }
    let events : List (Nat × Instr) := [(1, .hostAck), (2, .replayRequest), (3, .cancel)]
    let key := ringKey s.mgmt.rcspace s.mgmt.rcring.toNat
    let span := 2 ^ r.nlog
    let age (a b : Nat) : Nat := (a + 2 ^ 32 - b % 2 ^ 32) % 2 ^ 32
    let made := producers s r.launch s.mgmt.rcring.toNat
    let used := consumers s r.launch s.mgmt.rcring.toNat
    let result (w : State) (x : Nat) : Prop := w.mgmt.rcres = 2 * x
    (s.chan.hqset = false ∨ s.chan.hqread = s.chan.hqtail → ∀ e ∈ events, Claims.idles s e.2) ∧
    (Claims.hostMessage s m → ∀ e ∈ events, e.1 ≠ ty → Claims.idles s e.2) ∧
    (Claims.hostMessage s m → ∀ e ∈ events, e.1 = ty → q ≠ due →
      (q = s.chan.hrecv ∨ precedes q s.chan.hrecv = true → exec e.2 s = .next { s with chan := read }) ∧
      (q ≠ s.chan.hrecv → precedes q s.chan.hrecv = false → ∃ w, exec e.2 s = .next w ∧
        w.chan.dsent = nextSeq s.chan.dsent ∧ w.chan.hrecv = s.chan.hrecv ∧ w.chan.hqread = read.hqread)) ∧
    (Claims.hostMessage s m → ty = 1 → q = due → exec .hostAck s = .next { s with chan := { read with hrecv := q } }) ∧
    (Claims.hostMessage s m → ty = 2 → q = due → precedes s.chan.dsent (m / 2 ^ 128 % 2 ^ 32) = true →
      exec .replayRequest s = .next { s with chan := { read with hrecv := q } }) ∧
    (Claims.hostMessage s m → ty = 2 → q = due → s.chan.dqset = false → m / 2 ^ 128 % 2 ^ 32 = s.chan.dsent →
      s.chan.doldest = s.chan.dsent → s.chan.kept = [(s.chan.dsent, b)] → exec .replayRequest s = .next { s with chan :=
        { read with hrecv := q, pending := s.chan.pending ++ [b.take 4 ++ toBytes 4 q ++ b.drop 8] } }) ∧
    (Claims.hostMessage s m → ty = 3 → q = due → s.disp.launches = [] →
      exec .cancel s = .next { s with chan := { read with hrecv := q } }) ∧
    (Claims.hostMessage s m → ty = 3 → q = due → s.disp.launches = [(lid, launch)] →
      launch.seq = m / 2 ^ 128 % 2 ^ 32 → launch.space = m / 2 ^ 160 % 2 ^ 16 → launch.done = false →
      ∃ w, exec .cancel s = .next w ∧ w.chan.hrecv = q ∧ w.chan.hqread = read.hqread ∧
        (AMap.get w.disp.launches lid).map Launch.aborted = some true) ∧
    (s.chan.pending = [] →
      exec (.dqheadWrite v) s = .next { s with chan := { s.chan with dqhead := v.toNat % 2 ^ 32 } } ∧
      exec (.dqbaseWrite v) s = .next { s with chan := { s.chan with dqbase := v, dqset := true } }) ∧
    (s.chan.pending = [b] → s.chan.dqset = true → age s.chan.dqwritten v.toNat < 2 ^ s.chan.dqlog →
      ∃ w, exec (.dqheadWrite v) s = .next w ∧ w.chan.pending = [] ∧
        w.chan.dqwritten = (s.chan.dqwritten + 1) % 2 ^ 32 ∧ Cells.getN w.mem.host (s.chan.dqbase.toNat +
          64 * (s.chan.dqwritten % 2 ^ s.chan.dqlog)) b.length = b) ∧
    (∃ w, exec (.ringCmdSelect ring sp) s = .next w ∧ w.mgmt.rcring = ring ∧ w.mgmt.rcspace = sp % 2 ^ 16 ∧
      w.disp = s.disp) ∧
    (s.mem.paths = [] → AMap.get s.disp.rings key = none → ∀ e ∈ [Instr.ringCmdPost n, .ringCmdRetire n, .ringCmdClose],
      ∃ w, exec e s = .next w ∧ result w 2 ∧ w.disp = s.disp) ∧
    (s.mem.paths = [] → AMap.get s.disp.rings key = some r → made = [] → used ≠ [] →
      (∃ w, exec .ringCmdClose s = .next w ∧ result w 0 ∧ AMap.get w.disp.rings key = some { r with closed := true }) ∧
      (∃ w, exec (.ringCmdRetire n) s = .next w ∧ result w 2 ∧ w.disp = s.disp) ∧
      (1 ≤ n → n ≤ 32768 → age r.claim r.free + n ≤ span → ∃ w x, exec (.ringCmdPost n) s = .next w ∧ result w 0 ∧
        AMap.get w.disp.rings key = some x ∧ x.claim = (r.claim + n) % 2 ^ 32 ∧ x.post = (r.post + n) % 2 ^ 32 ∧
        x.take = r.take ∧ x.free = r.free) ∧
      (n = 0 ∨ 32768 < n ∨ span < age r.claim r.free + n → ∃ w, exec (.ringCmdPost n) s = .next w ∧ result w 1 ∧
        w.disp = s.disp)) ∧
    (s.mem.paths = [] → AMap.get s.disp.rings key = some r → used = [] → made ≠ [] → 1 ≤ n → n ≤ 32768 →
      n ≤ age r.post r.take → ∃ w x, exec (.ringCmdRetire n) s = .next w ∧ result w 0 ∧
        AMap.get w.disp.rings key = some x ∧ x.take = (r.take + n) % 2 ^ 32 ∧ x.free = (r.free + n) % 2 ^ 32 ∧
        x.claim = r.claim ∧ x.post = r.post)

/-- Nothing runs on a cluster: no gang, no holder, no job, and no ring anywhere. -/
def Claims.unused (s : State) (cl : Nat) : Prop :=
  (∀ e ∈ s.disp.gangs, e.2.cluster ≠ cl) ∧ (s.cluster cl).holder = none ∧ (s.cluster cl).copyJobs = [] ∧
  (s.cluster cl).mxJobs = [] ∧ s.disp.rings = []

/-- The cluster is fenced and replacement is requested, with message 0x86 (R446, R448). -/
def Claims.fences (s : State) (cl : Nat) (i : Instr) : Prop :=
  ∃ w, exec i s = .next w ∧ (w.cluster cl).fenced = true ∧ w.mgmt.health.replace = true ∧
    (s.mgmt.health.replace = false → w.chan.dsent = nextSeq s.chan.dsent)

/-- R445, R447, R448, R446, R431: errors are corrected and counted, or counted and their codeword is poisoned; the second
unexplained one in 2^40 ticks fences the cluster, as the resident kernel may; the limiter's flags; the debugger's
signal and release. -/
def Claims.HealthEvents : Prop :=
  ∀ (site : EccSite) (b : Bool) (c k o i d l x cl code watts withheld : Nat) (which : Fin 3) (s : State),
    c < 4096 → k < 4 → d < 16 → x < 8 → cl < 512 →
    let h := s.mgmt.health
    let t := s.thread c k
    let second : Health := { h with uncorrected := (h.uncorrected + 1) % 2 ^ 64 }
    let counted (q : Health) : State := s.modMgmt (fun g => { g with health := q })
    let puts (e : Instr) (f : State → Prop) : Prop := ∃ w, exec e s = .next w ∧ w.mgmt.health = second ∧ f w
    let alone := (s.cluster (cl ^^^ 1)).fenced = false
    (eccSiteOk site = true → exec (.eccError site false b) s = .next
      (counted { h with corrected := (h.corrected + 1) % 2 ^ 64 })) ∧
    (o < 393216 → puts (.eccError (.pool c o) true true) (fun w => o / 8 ∈ (w.core c).poolPoison ∧
      (w.core c).pool = (s.core c).pool ∧ w.mem = s.mem)) ∧
    (o < 2 ^ 34 → puts (.eccError (.dram d o) true b) (fun w => (d * 2 ^ 34 + o) / 8 ∈ w.mem.poison ∧
      w.mem.dram = s.mem.dram ∧ w.cores = s.cores)) ∧
    puts (.eccError (.near c l x) true true) (fun w => (∀ e ∈ (w.core c).near, e.1 = l → x ∈ e.2.bad) ∧ w.mem = s.mem) ∧
    puts (.eccError (.tlb c i) true true) (fun w => (w.core c).tlb = (s.core c).tlb.eraseIdx i ∧ w.mem = s.mem) ∧
    puts (.eccError (.clusterTlb cl which i) true true) (fun w => w.mem = s.mem ∧
      (w.cluster cl).l2 = (if which = 0 then (s.cluster cl).l2.eraseIdx i else (s.cluster cl).l2) ∧
      (w.cluster cl).itlb = (if which = 1 then (s.cluster cl).itlb.eraseIdx i else (s.cluster cl).itlb) ∧
      (w.cluster cl).etlb = (if which = 2 then (s.cluster cl).etlb.eraseIdx i else (s.cluster cl).etlb)) ∧
    puts (.eccError (.portTlb i) true b) (fun w => w.net.tlb = s.net.tlb.eraseIdx i ∧ w.mem = s.mem) ∧
    exec (.eccError (.unit cl) true true) s = .next (counted second) ∧
    (t.status ≠ .unplaced → exec (.eccError (.queue c k) true true) s = .next (faultInstance (counted second) c k 0xFE)) ∧
    (t.status = .unplaced → exec (.eccError (.queue c k) true true) s = .next (counted second)) ∧
    ((∀ a ∈ (s.cluster cl).errTicks, a + 2 ^ 40 < s.time.tick) → puts (.eccError (.unit cl) true false) (fun w =>
      (w.cluster cl).errTicks = [s.time.tick] ∧ (w.cluster cl).fenced = (s.cluster cl).fenced)) ∧
    (alone → Claims.unused s cl → (s.cluster cl).fenced = false →
      ((∃ a ∈ (s.cluster cl).errTicks, s.time.tick ≤ a + 2 ^ 40) → Claims.fences s cl (.eccError (.unit cl) true false)) ∧
      Claims.fences s cl (.fenceCluster cl)) ∧
    (alone → (s.cluster cl).fenced = true → Claims.idles s (.fenceCluster cl)) ∧
    ((s.cluster (cl ^^^ 1)).fenced = true → (s.cluster cl).fenced = true ∨ Claims.unused s cl →
      ∃ w, exec (.fenceCluster cl) s = .next w ∧ cl / 32 ∈ w.mem.lost) ∧
    (∃ w, exec (.fenceCluster cl) s = .next w ∧ (w.cluster cl).fenced = true) ∧
    (∃ w, exec (.limiterWindow watts withheld b) s = .next w ∧ w.cores = s.cores ∧
      (let on := decide (h.plimit < watts)
       w.mgmt.health = { h with limiting := on, thermal := b, throttled := (h.throttled + if on || b then withheld else 0) % 2 ^ 64 } ∧
       w.chan.dsent = if on = h.limiting ∧ b = h.thermal then s.chan.dsent else nextSeq s.chan.dsent)) ∧
    (∃ w, exec (.dbgsig c k code) s = .next w ∧ w.mem = s.mem ∧ w.thread c k =
      if t.status = .unplaced then t else { t with pend := { t.pend with debug := some (code % 256) } }) ∧
    (t.status ≠ .debugHold → Claims.idles s (.dbgrel c k)) ∧
    (t.status = .debugHold → ∃ w, exec (.dbgrel c k) s = .next w ∧ w.mem = s.mem ∧ (w.thread c k).status = .ready ∧
      (w.thread c k).pc = t.ctl.xpc ∧ (w.thread c k).priv = t.ctl.ppriv ∧ (w.thread c k).ctl = { t.ctl with ie := t.ctl.pie })

/-- Nothing waits in a port, the host link, the storage port or a system core. -/
def Claims.portsIdle (s : State) : Prop :=
  (∀ p, (s.port p).stalled = []) ∧ s.trust.hostReqs = [] ∧ s.trust.coreReqs = [] ∧ s.stor.waiting = []

/-- R449, R452 (Table 4), R455, R454: the phases of a single-die reset in their order, and the key commands. -/
def Claims.DieResetAndKeys : Prop :=
  ∀ (d slot hl key : Nat) (ok : Bool) (bad : List Nat) (s : State), d < 16 →
    let x := s.die d
    let due := x.phase = 2 ∧ x.phaseEnd ≤ s.time.tick
    let vacated := ∀ e ∈ s.disp.gangs, e.2.cluster / 32 ≠ d
    let quiet := x.phase = 4 ∧ dieDrained s d = true
    let n := slot % 4096
    (s.mgmt.dieBusy = true → Claims.idles s (.diereset d)) ∧
    (s.mgmt.dieBusy = false → ∃ w, exec (.diereset d) s = .next w ∧ w.mgmt.dieBusy = true ∧ w.mgmt.dieNum = d ∧
      w.mgmt.health.resetting = true ∧ (w.die d).phase = 2 ∧ (w.die d).phaseEnd = s.time.tick + 100000 ∧
      (s.mgmt.health.resetting = false → w.chan.dsent = nextSeq s.chan.dsent) ∧
      ∀ c k, dieOf c = d → (s.thread c k).status ≠ .unplaced → (w.thread c k).pend.quiesce = some d) ∧
    (due → ∃ w, exec (.quiesceGraceExpiry d) s = .next w ∧ (vacated → (w.die d).phase = 4) ∧ (¬vacated → (w.die d).phase = 3)) ∧
    (¬due → x.phase ≠ 3 → Claims.idles s (.quiesceGraceExpiry d)) ∧
    (¬quiet → Claims.idles s (.quiesceDrainDone d ok bad)) ∧
    (quiet → ∃ w, exec (.quiesceDrainDone d true bad) s = .next w ∧ (w.die d).phase = 5 ∧ (w.die d).running = true ∧
      AMap.get w.trust.meas (d + 1) = some (Config.freeValue s.free) ∧ w.mem.dram = s.mem.dram ∧
      (∀ c, dieOf c = d → (w.core c).tlb = [] ∧ (w.core c).near = [] ∧ (w.core c).pool = [] ∧
        ∀ k, w.thread c k = { Thread.reset with place := { Place.reset with gen := (s.thread c k).place.gen } }) ∧
      (w.die d).treeGens = [] ∧ (w.die d).misses = [] ∧ (w.die d).routines = some s.trust.boots ∧
      (∀ e ∈ w.mem.slice, e.line / 2 ^ 28 ≠ d) ∧
      (∀ e ∈ bad, e / 2 ^ 28 = d → e ∈ s.mem.dirty → ∀ i, i < 8 → e * 8 + i ∈ w.mem.poison)) ∧
    (quiet → ∃ w, exec (.quiesceDrainDone d false bad) s = .next w ∧ d ∈ w.mem.lost) ∧
    (x.phase ≠ 5 → Claims.idles s (.dieResume d)) ∧
    (∃ w, exec (.dieResume d) s = .next w) ∧
    (x.phase = 5 → Claims.portsIdle s → ∃ w, exec (.dieResume d) s = .next w ∧ (w.die d).phase = 0 ∧
      w.mgmt.dieBusy = false ∧ w.mgmt.health.resetting = false ∧
      (s.mgmt.health.resetting = true → w.chan.dsent = nextSeq s.chan.dsent)) ∧
    (∀ e ∈ [Instr.keyInstall slot, .keyRekey slot],
      (n = 0 → exec e s = .next (s.modMgmt (fun g => { g with keyRefused := true }))) ∧
      (n ≠ 0 → ∃ w, exec e s = .next w ∧ w.mgmt.keyRefused = false ∧ w.mem.dram = s.mem.dram ∧
        w.mem.gen n = s.mem.gen n + 1 ∧ (∀ m, m ≠ n → w.mem.gen m = s.mem.gen m) ∧
        (∀ y ∈ w.mem.slice, y ∈ s.mem.slice ∧ y.key % 4096 ≠ n) ∧
        (key % 4096 = n → AMap.get s.mem.keys hl = some (key, s.mem.gen n) → w.mem.line hl key =
          Config.recrypt key (s.mem.gen n) key (s.mem.gen n + 1) hl (ofBytes (Cells.getN s.mem.dram (hl * 64) 64)))))

/-- R102, R251, R431, R445 to R449, R452, R454, R455: errors, fencing, the limiter, the debugger, single-die reset and keys.
Each of these events completes under conditions on the state alone.
What outlives a die reset, and what keys do to lines held, is the model's reading (logs 93 and 94). -/
def Obligations.HealthAndReset : Prop := Claims.HealthEvents ∧ Claims.DieResetAndKeys

/-- The responder sends a message. -/
def Claims.replies (s : State) (i : Instr) (r : List Byte) : Prop :=
  ∃ w, exec i s = .next w ∧ w.trust.responses = s.trust.responses ++ [r] ∧ w.mem = s.mem ∧ w.cores = s.cores

/-- R450, R451, R453: power-on, the order of measurement, updates, and the responder: its order of requests and its
ERROR answers. The layout of the messages is that of DMTF SPDM 1.3 (log 78).
What outlives a power-on is the model's choice (log 92). -/
def Obligations.TrustEvents : Prop :=
  ∀ (ok : Bool) (d space : Nat) (req image : List Byte) (relocs : List Reloc) (charters : List Nat) (s : State), d ≤ 16 →
    let tr := s.trust
    let known (i : Nat) : Prop := (AMap.get tr.meas i).isSome = true
    let turn := tr.running = true ∧ ¬known (d + 1) ∧ (d = 16 ∨ (known 17 ∧ ∀ j, j < d → known (j + 1)))
    let error (n : Nat) : List Byte := [0x13, 0x7F, BitVec.ofNat 8 n, 0]
    let is (code n : Nat) : Prop := (req.getD 1 0).toNat = code ∧ n ≤ req.length
    let signs := (req.getD 2 0).toNat % 2 = 1
    (∃ w, exec (.powerOn ok) s = .next w ∧ w.trust.running = ok ∧ w.trust.failed = !ok ∧
      w.trust.image = tr.nextImage.getD tr.image ∧ w.trust.nextImage = none ∧ w.trust.responses = [] ∧
      w.cores = State.reset.cores ∧ w.disp = State.reset.disp ∧ w.stor = State.reset.stor ∧ w.net = State.reset.net ∧
      w.time = State.reset.time ∧
      ∀ k, k < 4096 → w.mem.gen k = s.mem.gen k + 1) ∧
    (¬turn → Claims.idles s (.dieMeasure d ok)) ∧
    (turn → ∃ w, exec (.dieMeasure d ok) s = .next w ∧
      (d = 16 ∨ ok = true → AMap.get w.trust.meas (d + 1) = some (Config.measured tr.boots d)) ∧
      (d ≠ 16 → ok = true → (w.die d).running = true ∧ (w.die d).routines = some tr.boots) ∧ (d ≠ 16 → ok = false → d ∈ w.mem.lost)) ∧
    (is 0x84 4 → Claims.replies s (.getVersion req) [0x10, 4, 0, 0, 0, 1, 0, 0x13]) ∧
    (is 0xE3 4 → tr.capabilities = true → ∃ r, Claims.replies s (.negotiateAlgorithms req) r ∧ r.take 2 = [0x13, 0x63]) ∧
    (is 0xE1 4 → tr.version = true → ∃ w r, exec (.getCapabilities req) s = .next w ∧
      w.trust.responses = tr.responses ++ [r] ∧ r.take 2 = [0x13, 0x61] ∧ w.trust.capabilities = true) ∧
    (tr.algorithms = true →
      (is 0x81 4 → Claims.replies s (.getDigests req) ([0x13, 1, 1, 1] ++
        toBytes 64 (Config.sha512 (Config.certificate tr.boots)))) ∧
      (is 0x82 8 → (req.getD 2 0).toNat = 0 → ∃ r, Claims.replies s (.getCertificate req) r ∧ r.take 2 = [0x13, 2]) ∧
      (is 0x83 36 → (req.getD 2 0).toNat = 0 → ∃ r p, Claims.replies s (.challenge req) r ∧ r.take 2 = [0x13, 3] ∧
        r = p ++ Config.signature (tr.transcript ++ req ++ p)) ∧
      (is 0xE0 37 → (req.getD 3 0).toNat = 0xFF → tr.meas ≠ [] → signs → ∃ r p,
        Claims.replies s (.getMeasurements req) r ∧ r.take 2 = [0x13, 0x60] ∧
        r = p ++ Config.signature (tr.transcript ++ req ++ p))) ∧
    (¬is 0x84 4 → Claims.replies s (.getVersion req) (error 1)) ∧
    (¬is 0xE1 4 → Claims.replies s (.getCapabilities req) (error 1)) ∧
    (¬is 0xE3 4 → Claims.replies s (.negotiateAlgorithms req) (error 1)) ∧
    (¬is 0x81 4 → Claims.replies s (.getDigests req) (error 1)) ∧
    (is 0xE1 4 → tr.version = false → Claims.replies s (.getCapabilities req) (error 4)) ∧
    (is 0xE3 4 → tr.capabilities = false → Claims.replies s (.negotiateAlgorithms req) (error 4)) ∧
    (tr.algorithms = false → (is 0x81 4 → Claims.replies s (.getDigests req) (error 4)) ∧
      (is 0x82 8 → (req.getD 2 0).toNat = 0 → Claims.replies s (.getCertificate req) (error 4)) ∧
      (is 0x83 36 → (req.getD 2 0).toNat = 0 → Claims.replies s (.challenge req) (error 4)) ∧
      (is 0xE0 37 → signs → Claims.replies s (.getMeasurements req) (error 4))) ∧
    Claims.replies s (.spdmUnsupported req) [0x13, 0x7F, 7, req.getD 1 0] ∧
    exec (.imageUpdate image) s = .next { s with trust := { tr with nextImage := some image } } ∧
    (∃ w, exec (.imageLoad space image relocs charters) s = .next w) ∧
    (∀ tab, sections image = some tab →
      let ss := tab.map Prod.fst
      let given (n : Nat) (t : State) : Prop := exec (.imageLoad space image relocs charters) s =
        .next { t with trust := { t.trust with loaded := t.trust.loaded ++ [(space, n)] } }
      (badHeader image tab = true → given 1 s) ∧
      (badHeader image tab = false → badCounts image ss = true → given 2 s) ∧
      (badHeader image tab = false → badCounts image ss = false → (ofType ss 7).isEmpty = true →
        ∀ t, ss.foldlM (loadSection space image) s = some t →
          let lacks := badFeatures image ss (charters.flatMap (stagesUnder t space 8))
          let errata := (ofType ss 6).any (fun e => decide (e.size ≠ 0))
          (lacks = true → given 3 s) ∧ (lacks = false → errata = true → given 4 s) ∧
          (lacks = false → errata = false → badCharters t space charters = true → given 6 s) ∧
          (lacks = false → errata = false → badCharters t space charters = false → given 0 t)))

/-- A completion entry without its phase (25 Table 10). -/
def Claims.sendEntry (f status : Nat) (r : WorkReq) : Nat :=
  r.num % 2 ^ 32 + status * 2 ^ 32 + 2 ^ 40 + f * 2 ^ 48 + r.entry / 2 ^ 192 % 2 ^ 64 * 2 ^ 64 +
    (r.entry / 2 ^ 32 % 2 ^ 32 - r.left) % 2 ^ 32 * 2 ^ 128

/-- Every outstanding work request of a flow ends with a status; those with signal set get a send completion (R464). -/
def Claims.endsAll (s w : State) (f status : Nat) : Prop :=
  (w.flow f).reqs = [] ∧ (w.flow f).comps = (s.flow f).comps ++
    ((s.flow f).reqs.filter (fun r => r.entry.testBit 9)).map (Claims.sendEntry f status)

/-- R456, R457, R466: what a port does with a frame that arrives, the entries of TXTS, and the link.
The multicast hash, and the link of a disabled port, are the model's reading (logs 80 and 83). -/
def Obligations.PortFrames : Prop :=
  ∀ (p : Nat) (fr : List Byte) (b up fec al : Bool) (s : State), p < 8 →
    let x := s.port p
    let live := x.enable = true ∧ x.up = true
    let got : Instr := .frameReceive p fr true
    let drops (w : State) : Prop := (w.port p).dropped = (x.dropped + 1) % 2 ^ 64 ∧ w.mem = s.mem ∧ (w.port p).sent = x.sent
    let type := (frameBody fr).2.1
    let fits := 60 ≤ fr.length ∧ fr.length ≤ 9212
    let dst := ofBytes ((fr.take 6).reverse)
    let mine := dst = x.pmac ∨ dst = 2 ^ 48 - 1 ∨ (dst / 2 ^ 40 % 2 = 1 ∧ x.pmcast.getLsbD (crc32 (fr.take 6) % 64) = true)
    (¬live → Claims.idles s (.frameReceive p fr b)) ∧
    (live → exec (.frameReceive p fr false) s = .next (s.modPort p (fun y => { y with fcserr := (y.fcserr + 1) % 2 ^ 64 }))) ∧
    (live → ¬fits → ∃ w, exec got s = .next w ∧ drops w) ∧
    (live → fits → type ≠ 0x8808 → ¬mine ∨ (frameBody fr).1 = true → ∃ w, exec got s = .next w ∧ drops w) ∧
    (live → fits → type = 0x8808 → ofBytes (((frameBody fr).2.2.take 2).reverse) ≠ 0x0101 →
      ∃ w, exec got s = .next w ∧ drops w ∧ (w.port p).framesrx = x.framesrx) ∧
    (live → fits → mine → (frameBody fr).1 = false → type ≠ 0x8808 →
      type ≠ 0x88B5 → (type = 0x88F7 → x.pprod = x.pcons) → (type ≠ 0x88F7 → x.rxprod = x.rxcons) →
      ∃ w, exec got s = .next w ∧ drops w ∧ (w.port p).framesrx = (x.framesrx + 1) % 2 ^ 64) ∧
    (live → fits → mine → (frameBody fr).1 = false → type = 0x88B5 → parsePacket s fr = none →
      ∃ w, exec got s = .next w ∧ drops w ∧ (w.port p).framesrx = (x.framesrx + 1) % 2 ^ 64) ∧
    (x.txprod = x.txcons ∨ ¬live → Claims.idles s (.rawSend p)) ∧
    (∃ w, exec (.rawSend p) s = .next w) ∧
    exec (.txtsRead p) s = .next (s.modPort p (fun y => { y with txts := y.txts.tail })) ∧
    exec (.portLinkChange p up fec al) s =
      .next (s.modPort p (fun y => { y with up := up && y.enable, fec := fec, aligned := al }))

/-- R460, R462, R463: a port takes the packets of a path in the order of their psn: it drops a repeat, answers a gap, and
accepts the expected one. -/
def Claims.TransportPackets : Prop :=
  ∀ (p f h : Nat) (fr pay : List Byte) (s : State), p < 8 → parsePacket s fr = some (f, h, pay) →
    let type := h / 2 ^ 8 % 256
    let i := h / 2 ^ 44 % 16
    let psn := h / 2 ^ 96 % 2 ^ 32
    let x := (s.flow f).path i
    let last := h.testBit 16 = true ∧ h.testBit 17 = true
    let counted : List (Nat × Instr) := [(1, .writeI p fr), (2, .readreq p fr), (3, .readresp p fr), (5, .marker p fr)]
    let settled := x.unacked = [] ∧ isStalled s p f i = false
    let dropped (w : State) : Prop := (w.port p).dropped = ((s.port p).dropped + 1) % 2 ^ 64 ∧ w.mem = s.mem ∧
      ((w.flow f).path i).recvPsn = x.recvPsn
    let takes (e : Instr) (g : State → Prop) : Prop := ∃ w, exec e s = .next w ∧
      ((w.flow f).path i).recvPsn = (x.recvPsn + 1) % 2 ^ 32 ∧ w.mem = s.mem ∧ g w
    (∀ e ∈ [(4, Instr.ack p fr), (6, .nack p fr)] ++ counted, type ≠ e.1 → Claims.idles s e.2) ∧
    (∀ e ∈ counted, type = e.1 → ∃ w, exec e.2 s = .next w) ∧
    (∀ e ∈ counted, type = e.1 → settled → psn ≠ x.recvPsn → ∃ w, exec e.2 s = .next w ∧ dropped w ∧
      (precedes x.recvPsn psn = false → ((w.flow f).path i).ackNow = true)) ∧
    (type = 4 → ∃ w, exec (.ack p fr) s = .next w ∧ w.mem = s.mem ∧ ((w.flow f).path i).unacked =
      x.unacked.dropWhile (fun q => q.psn == h / 2 ^ 64 % 2 ^ 32 || precedes q.psn (h / 2 ^ 64 % 2 ^ 32))) ∧
    (type = 6 → ∃ w, exec (.nack p fr) s = .next w) ∧
    (type = 5 → settled → psn = x.recvPsn → takes (.marker p fr) (fun w => h.testBit 17 = true →
      (h / 2 ^ 160 % 2 ^ 32, h / 2 ^ 40 % 16) ∈ (w.flow f).markers)) ∧
    (type = 2 → settled → psn = x.recvPsn → ofBytes pay / 2 ^ 64 % 2 ^ 32 ≠ 0 → takes (.readreq p fr) (fun w =>
      ∃ r : Resp, (w.flow f).resps = (s.flow f).resps ++ [r] ∧ r.msg = h / 2 ^ 160 % 2 ^ 32 ∧ r.addr = h / 2 ^ 192 % 2 ^ 64 ∧
        r.dest = ofBytes pay % 2 ^ 64 ∧ r.length = ofBytes pay / 2 ^ 64 % 2 ^ 32 ∧ r.sent = 0)) ∧
    (type = 1 → settled → psn = x.recvPsn → last → takes (.writeI p fr) (fun w => ∃ y : HeldPkt,
      (w.flow f).held = (s.flow f).held ++ [y] ∧ y.payload = pay ∧ y.addr = h / 2 ^ 192 % 2 ^ 64 ∧
        y.off = h / 2 ^ 128 % 2 ^ 32))

/-- R459, R461, R462, R463, R464, R465: doorbells, work requests, timers, completions and errors of flows. -/
def Claims.TransportEvents : Prop :=
  ∀ (f i : Nat) (v : Word) (s : State), f < 4096 → i < 16 →
    let x := s.flow f
    let p := x.path i
    let expired := p.down = false ∧ p.unacked ≠ [] ∧ p.sentTick + s.net.rto ≤ s.time.tick
    let retries := p.down = true ∧ p.downTick + 1000000000 ≤ s.time.tick
    let path (w : State) := (w.flow f).path i
    let runs := x.inUse = true ∧ x.error = false
    (s.net.flowcount ≤ f → x.inUse = false → Claims.idles s (.doorbell f)) ∧
    (s.net.flowcount ≤ f → x.inUse = true → ∃ w, exec (.doorbell f) s = .next w ∧ (w.flow f).inUse = false ∧
      Claims.endsAll s w f 4 ∧ w.mem = s.mem) ∧
    (∃ w, exec (.doorbell f) s = .next w) ∧
    (¬(runs ∧ x.entry.testBit 105 = true) → Claims.idles s (.flowPoll f)) ∧
    (∃ w, exec (.flowPoll f) s = .next w) ∧
    (¬runs → Claims.idles s (.workRequest f)) ∧
    (x.resps = [] → (∀ r ∈ x.reqs, r.entry / 2 ^ 32 % 2 ^ 32 ≤ r.sent) → x.consumed = x.produced →
      Claims.idles s (.workRequest f)) ∧
    (∃ w, exec (.workRequest f) s = .next w) ∧
    (x.held = [] → Claims.idles s (.releasePerform f)) ∧
    (∃ w, exec (.releasePerform f) s = .next w) ∧
    (¬expired → Claims.idles s (.rtoExpiry f i)) ∧
    (expired → p.timeouts < 15 → ∃ w, exec (.rtoExpiry f i) s = .next w ∧ (path w).timeouts = p.timeouts + 1 ∧
      (path w).unacked = p.unacked ∧ (path w).down = false ∧ (path w).sentTick = s.time.tick ∧ w.mem = s.mem) ∧
    (expired → 15 ≤ p.timeouts → ∃ w, exec (.rtoExpiry f i) s = .next w ∧ (path w).down = true ∧ (path w).unacked = []) ∧
    (¬retries → Claims.idles s (.pathRetry f i)) ∧
    (retries → p.probe = none → ∃ w, exec (.pathRetry f i) s = .next w ∧ (path w).probe = some p.sendPsn ∧
      (path w).sendPsn = (p.sendPsn + 1) % 2 ^ 32 ∧ (path w).down = true ∧ (path w).downTick = s.time.tick ∧ w.mem = s.mem) ∧
    (∃ w, exec (.pathRetry f i) s = .next w) ∧
    (ackDue s p = false → Claims.idles s (.ackTimer f i)) ∧
    (ackDue s p = true → ∃ w, exec (.ackTimer f i) s = .next w ∧ (path w).ackNow = false ∧
      (path w).acked = p.holds.head?.getD p.recvPsn ∧ (path w).unacked = p.unacked ∧ w.mem = s.mem) ∧
    (x.comps = [] → Claims.idles s (.completionEntry f)) ∧
    (∃ w, exec (.completionEntry f) s = .next w) ∧
    (¬runs → Claims.idles s (.flowError f)) ∧
    (runs → ∃ (w : State) (q : SysIrq), exec (.flowError f) s = .next w ∧ (w.flow f).error = true ∧ (w.flow f).resps = [] ∧
      Claims.endsAll s w f 2 ∧ w.mgmt.irqs = s.mgmt.irqs ++ [q] ∧ w.mem = s.mem) ∧
    (s.time.tick < v.toNat → s.time.launchAccepted = false → ∃ w, exec (.timeset v) s = .next w ∧
      w.time.tick = v.toNat ∧ w.mem = s.mem ∧ w.cores = s.cores) ∧
    (v.toNat ≤ s.time.tick ∨ s.time.launchAccepted = true → Claims.idles s (.timeset v))

/-- R459 to R465: packets, doorbells, timers, completions and errors of the module transport.
Conventions that R460 to R465 leave open are the model's (log 77). -/
def Obligations.Transport : Prop := Claims.TransportPackets ∧ Claims.TransportEvents

/-- R467, R468, R469, R470, R244: the drive's requests and interrupts, the windows to the drive, the link, and requests
of the host.
Refused window accesses, the order of the drive's requests and the core of an interrupt are the model's reading (logs 86,
87 and 91). -/
def Obligations.StorageEvents : Prop :=
  ∀ (addr : Word) (len v c off rate width id : Nat) (cfg up flit : Bool) (data : Option (List Byte)) (pasid : Option Nat)
    (s : State), c < 16 → v < 128 →
    let x := s.stor
    let k := addr.toNat / 2 ^ 57
    let invalid := k ≠ 127 ∧ (AMap.getD x.sspace k 0).testBit 16 = false
    let request : Instr := .driveMemoryRequest addr len data
    let refused (status : Nat) : Prop := ∃ w, exec request s = .next w ∧ w.stor.sfaults = (x.sfaults + 1) % 2 ^ 64 ∧
      w.stor.sfault = some (x.sfault.getD addr) ∧ w.stor.waiting = [] ∧ w.mem = s.mem ∧ w.mgmt = s.mgmt ∧
      w.stor.answers = x.answers ++ (if data = none then [(status, [])] else [])
    let inside := x.up = true ∧ off + len ≤ if cfg then 8 * 4096 else 2 ^ 36
    let drive : Instr := .systemCoreDriveAccess c cfg off len data
    let vector := AMap.getD x.svec v 0
    let trains := up = true ∧ x.enable = true ∧ 1 ≤ rate ∧ rate ≤ 6 ∧ width ∈ [1, 2, 4, 8]
    let set (w : State) : Prop := w.mem = s.mem ∧ w.cores = s.cores ∧ w.net = s.net
    (∃ w, exec request s = .next w) ∧
    (x.waiting = [] → invalid → refused 2) ∧
    (x.waiting = [] → k = 127 → data = none → refused 1) ∧
    (x.waiting = [] → s.mem.paths = [] → ∃ w, exec (.driveMsix v) s = .next w ∧ set w ∧
      (vector.testBit 8 = true → ∃ q : SysIrq, w.mgmt.irqs = s.mgmt.irqs ++ [q] ∧ q.core = vector % 16 ∧ q.data = [v]) ∧
      (vector.testBit 8 = false → w.mgmt = s.mgmt)) ∧
    exec .sfaultRead s = .next { s with stor := { x with sfault := none } } ∧
    (inside → ∃ w, exec drive s = .next w ∧ w.stor.toDrive = x.toDrive ++ [(cfg, off, len, data)] ∧ set w ∧
      (data = none → w.trust.coreAnswers = s.trust.coreAnswers ++ [(0, (Config.driveRead s.free).take len)])) ∧
    (¬inside → ∃ w, exec drive s = .next w ∧ w.stor = x ∧ set w ∧
      w.trust.coreAnswers = s.trust.coreAnswers ++ (if data = none then [(2, [])] else [])) ∧
    exec .storageRetrain s = .next (if x.enable then { s with stor := { x with training := true } } else s) ∧
    (∃ w, exec (.storageLinkChange up rate width flit) s = .next w ∧ set w ∧ w.stor.training = false ∧
      (trains → w.stor.up = true ∧ w.stor.rate = rate ∧ w.stor.width = width ∧ w.stor.flit = flit) ∧
      (¬trains → w.stor.up = false ∧ w.stor.rate = 0 ∧ w.stor.width = 0 ∧ w.stor.flit = false)) ∧
    (∃ (w : State) (q : SysIrq), exec (.advancedErrorReporting c) s = .next w ∧ w.mgmt.irqs = s.mgmt.irqs ++ [q] ∧ q.core = c ∧ set w) ∧
    (x.waiting = [] → Claims.idles s (.driveServiceTimeout id)) ∧
    (∀ r rs, x.waiting = r :: rs → r.walk ≠ some id ∨ s.time.tick < r.since + 10000000 →
      Claims.idles s (.driveServiceTimeout id)) ∧
    (∀ r, x.waiting = [r] → r.walk = some id → r.since + 10000000 ≤ s.time.tick → ∃ w,
      exec (.driveServiceTimeout id) s = .next w ∧ w.stor.sfaults = (x.sfaults + 1) % 2 ^ 64 ∧ w.stor.waiting = [] ∧
      AMap.get w.mem.walks id = none) ∧
    (∃ w, exec (.hostMemoryRequest pasid addr len data) s = .next w) ∧
    ((∀ q, pasid = some q → 65536 ≤ q) → ∃ w, exec (.hostMemoryRequest pasid addr len data) s = .next w ∧
      w.trust.hostAnswers = s.trust.hostAnswers ++ [(2, [])] ∧ w.mem = s.mem ∧ w.cores = s.cores)

/-- R5, R160, R238, R444, R446, R458, R469 (their tables): a write of a command register is the command; the other writable
registers take their fields as written, where their tables state no other value, and registers that are read-only or
reserved, and offsets that are not a multiple of 8, take nothing.
Commands that end in one step are the model's reading (log 97). -/
def Obligations.WindowRegisters : Prop :=
  ∀ (off c space pa len : Nat) (v : Word) (data : Option (List Byte)) (s : State), c < 16 →
    let n := v.toNat
    let reg (o : Nat) : Instr := .registerWrite o v
    let act (o : Nat) (e : Instr) : Prop := exec (reg o) s = if n.testBit 31 then exec e s else .next s
    let put (o : Nat) (f : State → Prop) : Prop := ∃ w, exec (reg o) s = .next w ∧ w.mem = s.mem ∧ w.cores = s.cores ∧
      w.trust = s.trust ∧ f w
    let core : Instr := .systemCoreMemoryAccess c space pa len data
    act 0x4C0 (.diereset (n % 16)) ∧
    act 0x580 (.fenceCluster (n % 512)) ∧
    act 0x588 (.dbgsig (n % 4096) (n / 2 ^ 12 % 4) (n / 2 ^ 16 % 256)) ∧
    act 0x590 (.dbgrel (n % 4096) (n / 2 ^ 12 % 4)) ∧
    (n / 2 ^ 16 % 4 = 1 → act 0x5A0 (.keyInstall (n % 4096))) ∧
    (n / 2 ^ 16 % 4 = 2 → act 0x5A0 (.keyRekey (n % 4096))) ∧
    exec (reg 0x1818) s = exec (.doorbell (n % 4096)) s ∧
    exec (reg 0x1888) s = exec (.timeset v) s ∧
    exec (reg 0x18) s = exec (.dqbaseWrite v) s ∧
    exec (reg 0x28) s = exec (.dqheadWrite v) s ∧
    (n % 4 = 1 → exec (reg 0x510) s = exec (.ringCmdPost (n / 2 ^ 16 % 2 ^ 16)) s) ∧
    (n % 4 = 2 → exec (reg 0x510) s = exec (.ringCmdRetire (n / 2 ^ 16 % 2 ^ 16)) s) ∧
    (n % 4 = 3 → exec (reg 0x510) s = exec .ringCmdClose s) ∧
    put 0x300 (fun w => w.mgmt.sptbase.toNat = n / 4096 * 4096) ∧
    put 0x308 (fun w => w.mgmt.sptcount = n % 2 ^ 17) ∧
    put 0x400 (fun w => w.mgmt.csel = n % 2 ^ 16) ∧
    put 0x410 (fun w => (selArea w).clog = if 6 ≤ n % 32 ∧ n % 32 ≤ 16 then n % 32 else 0) ∧
    put 0x460 (fun w => w.mgmt.health.plimit = if 400 ≤ n % 2048 ∧ n % 2048 ≤ 1600 then n % 2048 else 1600) ∧
    put 0x1800 (fun w => w.net.flowbase.toNat = n / 64 * 64) ∧
    put 0x1808 (fun w => w.net.flowcount = n % 2 ^ 13) ∧
    put 0x1810 (fun w => w.net.rto = max 10000 (n % 2 ^ 32)) ∧
    put 0x1880 (fun w => w.time.slew = max (-4294967) (min 4294967 (BitVec.ofNat 32 n).toInt)) ∧
    put 0x10 (fun w => w.chan.hqtail = n % 2 ^ 32) ∧
    (∀ i, i < 16 → put (0x310 + 8 * i) (fun w => AMap.getD w.disp.lwspace i 0 = n % 2 ^ 17)) ∧
    (∀ p, p < 8 → let port (w : State) := w.port p
      put (0x1000 + 256 * p) (fun w => (port w).enable = v.getLsbD 0 ∧ (port w).pfc = n / 256 % 256) ∧
      put (0x1010 + 256 * p) (fun w => (port w).pmac = n % 2 ^ 48) ∧
      put (0x1018 + 256 * p) (fun w => (port w).pmcast = v) ∧
      put (0x1028 + 256 * p) (fun w => (port w).txprod = n / 2 ^ 32 ∧ (port w).txlog = n % 16) ∧
      put (0x1040 + 256 * p) (fun w => (port w).rxprod = n / 2 ^ 32 ∧ (port w).rxlog = n % 16)) ∧
    (∀ k, k < 127 → put (0x2100 + 8 * k) (fun w => AMap.getD w.stor.sspace k 0 = n % 2 ^ 17)) ∧
    (∀ k, k < 128 → put (0x2500 + 8 * k) (fun w => AMap.getD w.stor.svec k 0 = n % 16 + n / 256 % 2 * 256)) ∧
    (off % 8 ≠ 0 ∨ off ∈ [0x30, 0x38, 0x40, 0x418, 0x440, 0x448, 0x450, 0x458, 0x480, 0x4B8, 0x518, 0x1008, 0x1030, 0x1068, 0x1820,
      0x1890, 0x2008, 0x2010, 0x2018] ∨ 0x3000 ≤ off → Claims.idles s (.registerWrite off v)) ∧
    (∃ w, exec core s = .next w) ∧
    (0x00FE000000000000 ≤ pa → pa < 0x00FE000000010000 → data = none → len = 8 → pa % 8 = 0 → ∃ w, exec core s = .next w ∧
      w.trust.coreAnswers = s.trust.coreAnswers ++ [(0, toBytes 8 (regRead s (pa - 0x00FE000000000000)).1)]) ∧
    (2 ^ 38 ≤ pa → pa < 2 ^ 52 → 0 < len → exec core s = .next (if data = none then
      { s with trust := { s.trust with coreAnswers := s.trust.coreAnswers ++ [(1, [])] } } else s))

/-! ### The word, the step and the machine as a whole -/

/-- The function field of an instruction; an event of the module has none. -/
def Claims.header : Instr → Option Hdr
  | .add h .. => some h
  | .sub h .. => some h
  | .mul h .. => some h
  | .mulh h .. => some h
  | .mad h .. => some h
  | .div h .. => some h
  | .rem h .. => some h
  | .and h .. => some h
  | .or h .. => some h
  | .xor h .. => some h
  | .andn h .. => some h
  | .shl h .. => some h
  | .shr h .. => some h
  | .rot h .. => some h
  | .min h .. => some h
  | .max h .. => some h
  | .abs h .. => some h
  | .clz h .. => some h
  | .ctz h .. => some h
  | .pop h .. => some h
  | .bext h .. => some h
  | .bins h .. => some h
  | .extI h .. => some h
  | .mov h .. => some h
  | .li h .. => some h
  | .lih h .. => some h
  | .lpc h .. => some h
  | .sel h .. => some h
  | .cmp h .. => some h
  | .plog h .. => some h
  | .pmov h .. => some h
  | .pget h .. => some h
  | .br h .. => some h
  | .brl h .. => some h
  | .jr h .. => some h
  | .jrl h .. => some h
  | .dbr h .. => some h
  | .ctlRd h .. => some h
  | .ctlWr h .. => some h
  | .ctlSet h .. => some h
  | .ctlClr h .. => some h
  | .trap h .. => some h
  | .eret h .. => some h
  | .sysc h .. => some h
  | .halt h .. => some h
  | .nop h .. => some h
  | .yieldI h .. => some h
  | .ifence h .. => some h
  | .ifenceFill h .. => some h
  | .gangShed h .. => some h
  | .gangJoin h .. => some h
  | .demand h .. => some h
  | .settle h .. => some h
  | .bshare h .. => some h
  | .bmov h .. => some h
  | .grade h .. => some h
  | .sensLd h .. => some h
  | .sensLdReset h .. => some h
  | .ld h .. => some h
  | .st h .. => some h
  | .ldAcq h .. => some h
  | .stRel h .. => some h
  | .ldWf h .. => some h
  | .stWe h .. => some h
  | .tagRd h .. => some h
  | .tagFull h .. => some h
  | .tagEmpty h .. => some h
  | .pref h .. => some h
  | .cfl h .. => some h
  | .cflEvict h .. => some h
  | .cinv h .. => some h
  | .cinvAll h .. => some h
  | .fence h .. => some h
  | .fenceAcq h .. => some h
  | .fenceRel h .. => some h
  | .region h .. => some h
  | .regionForce h .. => some h
  | .regionDrop h .. => some h
  | .ldPair h .. => some h
  | .stPair h .. => some h
  | .launch h .. => some h
  | .doneI h .. => some h
  | .nexttile h .. => some h
  | .ringClaim h .. => some h
  | .ringPost h .. => some h
  | .ringTake h .. => some h
  | .ringFree h .. => some h
  | .ringStat h .. => some h
  | .copy h .. => some h
  | .copyDeal h .. => some h
  | .shutQ h .. => some h
  | .shutQDrop h .. => some h
  | .copyResume h .. => some h
  | .mx h .. => some h
  | .accZero h .. => some h
  | .cnPut h .. => some h
  | .cnGet h .. => some h
  | .cnGetRef h .. => some h
  | .cnRef h .. => some h
  | .cnUnref h .. => some h
  | .cnNode h .. => some h
  | .cnSwap h .. => some h
  | .cnRoot h .. => some h
  | .cnRootRef h .. => some h
  | .cnOut h .. => some h
  | .cnCfg h .. => some h
  | .cnCfgStat h .. => some h
  | .amo h .. => some h
  | .amoCas h .. => some h
  | .red h .. => some h
  | .bupd h .. => some h
  | .bupdR h .. => some h
  | .bcfg h .. => some h
  | .vbupd h .. => some h
  | .barInit h .. => some h
  | .barArr h .. => some h
  | .barWait h .. => some h
  | .barTest h .. => some h
  | .tbar h .. => some h
  | .nred h .. => some h
  | .wait h .. => some h
  | .pause h .. => some h
  | .msgSend h .. => some h
  | .hatchPut h .. => some h
  | .hatchGet h .. => some h
  | .hatchFree h .. => some h
  | .jobPoll h .. => some h
  | .jobPollAcq h .. => some h
  | .jobCancel h .. => some h
  | .vld h .. => some h
  | .vst h .. => some h
  | .vadd h .. => some h
  | .vsub h .. => some h
  | .vmul h .. => some h
  | .vfma h .. => some h
  | .vfms h .. => some h
  | .vnfma h .. => some h
  | .vmin h .. => some h
  | .vmax h .. => some h
  | .vabs h .. => some h
  | .vneg h .. => some h
  | .vcvt h .. => some h
  | .vsum h .. => some h
  | .vdot h .. => some h
  | .vcmp h .. => some h
  | .vsel h .. => some h
  | .vand h .. => some h
  | .vor h .. => some h
  | .vxor h .. => some h
  | .vshl h .. => some h
  | .vshr h .. => some h
  | .vbcast h .. => some h
  | .vext h .. => some h
  | .vins h .. => some h
  | .vpack h .. => some h
  | .vunpack h .. => some h
  | .vperm h .. => some h
  | .vmr h .. => some h
  | .vlog h .. => some h
  | .valog h .. => some h
  | .vexp2 h .. => some h
  | .vlog2 h .. => some h
  | .vrcp h .. => some h
  | .vsqrt h .. => some h
  | .vrsqrt h .. => some h
  | .vpow h .. => some h
  | .vsigm h .. => some h
  | .vtanh h .. => some h
  | .scfg h .. => some h
  | .sbind h .. => some h
  | .sfree h .. => some h
  | .vrpt h .. => some h
  | .vsync h .. => some h
  | .ctxSave h .. => some h
  | .ctxLoad h .. => some h
  | .ctxDrop h .. => some h
  | _ => none

/-- What only handler privilege may run: the handler-only opcodes (04 Table 8) and the registers that Table 6 of 04 marks
with a dash. -/
def Claims.privileged : Instr → Bool
  | .eret .. => true
  | .halt .. => true
  | .cnCfg .. => true
  | .cnCfgStat .. => true
  | .ctxLoad .. => true
  | .ctxDrop .. => true
  | .ctlRd _ _ n => Claims.handlerOnly n
  | .ctlWr _ n _ => Claims.handlerOnly n
  | .ctlSet _ n _ => Claims.handlerOnly n
  | .ctlClr _ n _ => Claims.handlerOnly n
  | _ => false

/-- R70: an instruction whose guard is false only retires: nothing else of the machine changes than what retiring does. A
lockstep follower's branch is R171's. No instruction of the 176 forms ever stops the machine. -/
def Obligations.FalseGuard : Prop :=
  ∀ (i : Instr) (h : Hdr) (s : State), Claims.header i = some h →
    (guardHolds s h = false → s.me.follower = false → s.me.priv = true ∨ Claims.privileged i = false →
      exec i s = .next (retire s (s.me.pc + 12) false)) ∧
    ∃ t, exec i s = .next t

/-- R74 (04 Table 5), R126, R202: g0 and p0 read as 0 and true whatever is written; a b register reads what was written
with bits [13:12] cleared, and b0 reads as exact, 0x8000; other registers of the thread and everything else stay. -/
def Obligations.RegisterFiles : Prop :=
  ∀ (n m : Nat) (v : Word) (x : BitVec 16) (q : Bool) (s : State),
    (s.wrG n v).rdG m = (if m = n ∧ m ≠ 0 then v else s.rdG m) ∧ s.rdG 0 = 0 ∧
    (s.wrP n q).rdP m = (if m = n ∧ m ≠ 0 then q else s.rdP m) ∧ s.rdP 0 = true ∧
    (s.wrB n x).rdB m = (if m = n ∧ m ≠ 0 then x &&& 0xCFFF else s.rdB m) ∧ s.rdB 0 = 0x8000 ∧
    (s.wrG n v).mem = s.mem ∧ (s.wrG n v).me.p = s.me.p ∧ (s.wrG n v).me.b = s.me.b ∧ (s.wrG n v).me.v = s.me.v ∧
    (s.wrG n v).me.ctl = s.me.ctl ∧ (s.wrG n v).me.pc = s.me.pc ∧ (s.wrG n v).disp = s.disp ∧
    (∀ c k, (c, k) ≠ s.cur → (s.wrG n v).thread c k = s.thread c k)

/-- R66-R74: words written out from the tables of 04 decode to the instructions they stand for. -/
def Obligations.DecodeWords : Prop :=
  -- add.i32 g3, g1, 5: opcode 0x01, type 1, A g3, B g1, C immediate 5
  decodeTableWord 96 (0x01 * 2 ^ 88 + 1 * 2 ^ 84 + 3 * 2 ^ 6 * 2 ^ 44 + 1 * 2 ^ 6 * 2 ^ 22 + (2 ^ 20 + 5)) =
    some (.add ⟨0, false, false, false, false, false⟩ .i32 false 3 1 (.imm 5)) ∧
  -- ld.i64 g2, [g4 + 8*3]: opcode 0x40, A g2, B memory with base 4 and offset 3
  decodeTableWord 96 (0x40 * 2 ^ 88 + 2 * 2 ^ 6 * 2 ^ 44 + (3 * 2 ^ 20 + 4 * 2 ^ 14 + 3) * 2 ^ 22) =
    some (.ld ⟨0, false, false, false, false, false⟩ .i64 false 2 ⟨4, 3⟩) ∧
  -- (!p2) nop: opcode 0x2E, inv, pred 2
  decodeTableWord 96 (0x2E * 2 ^ 88 + 1 * 2 ^ 75 + 2 * 2 ^ 72) = some (.nop ⟨2, true, false, false, false, false⟩) ∧
  -- vadd.f32 v1, v2, v3 with rounding code 1
  decodeTableWord 96 (0xB2 * 2 ^ 88 + 4 * 2 ^ 84 + 1 * 2 ^ 78 + (2 ^ 16 + 1 * 2 ^ 6) * 2 ^ 44 + (2 ^ 16 + 2 * 2 ^ 6) * 2 ^ 22 +
      (2 ^ 16 + 3 * 2 ^ 6)) =
    some (.vadd ⟨0, false, false, false, false, false⟩ .f32 .rtz false 1 2 (.v 3)) ∧
  -- an opcode that 04 leaves unassigned, a reserved bit, and a type that `nop` does not accept
  decodeTableWord 96 0 = none ∧ decodeTableWord 96 (0x2E * 2 ^ 88 + 2 ^ 66) = none ∧
  decodeTableWord 96 (0x2E * 2 ^ 88 + 2 ^ 84) = none

/-- R66-R76: decoding the word of a well-formed instruction gives the instruction, with every operand at every value. -/
def Obligations.DecodeEncode : Prop :=
  ∀ (i : Instr) (w : InstrWord), WellFormed i → encode i = some w →
    decode DecodeCtx.full w = .instr i ∧ decodeTableWord 96 w.toNat = some i

/-- R162, R75, R151, R237: when nothing comes before the acting thread's next instruction, a step fetches the 12 bytes at
pc, traps when pc or the sill forbids it or they are poisoned, traps as the checks of R75 say, and else does exactly what
the decoded instruction does; the DRAM traffic of it is charged to the thread's stage, and one cycle passes.
Whose turn it is stands in the state (log 4). -/
def Obligations.StepRunsDecoded : Prop :=
  ∀ (c k : Nat) (rest : List Nat) (s : State), s.agenda = [] → s.turn = false → s.sched = c :: rest →
    chooseSlot s c = some k → (s.core c).pipe.active = false →
    let a := rejoin (seat { s with turn := true } c k) c k
    let t := a.thread c k
    let w := wordOfBytes ((a.core c).bytes t.pc.toNat 12)
    let spoilt := (a.core c).poisoned t.pc.toNat 12
    let there := t.pc.toNat % 4 = 0 ∧ t.pc.toNat + 12 ≤ (a.core c).sill.toNat
    let ctx : DecodeCtx := { lim := { ng := partG (a.core c).part, nv := partV (a.core c).part }
                             mask := t.place.feat.toNat, handler := t.priv }
    let charge (x : State) : State := chargeDram s.mem (slotStage s c k) x
    let goes (o : Host.Outcome State Fault Refusal) : Prop :=
      (∀ x, o = .next x → step s = .next { charge x with time := timeAfter s.time (charge x).time }) ∧
      (∀ e, o = .fault e → step s = .fault e) ∧ (∀ e, o = .refused e → step s = .refused e)
    a.cur = (c, k) ∧ t.pc = (s.thread c k).pc ∧ t.g = (s.thread c k).g ∧ (a.core c).pool = (s.core c).pool ∧ a.mem = s.mem ∧
    (∀ x, dramBytes s.mem x.mem = 0 → charge x = x) ∧
    (canRun a c k = false → goes (.next a)) ∧
    (canRun a c k = true → pendingIrq t = none → t.inStub = false → t.pend.meter = none → t.follower = false →
      (t.pc.toNat % 4 ≠ 0 → goes (.next (takeTrap a c k { cause := 0x04, addr := t.pc, info := 12 } false))) ∧
      (t.pc.toNat % 4 = 0 → ¬there → goes (.next (takeTrap a c k { cause := 0x08, addr := t.pc, info := 0 } false))) ∧
      (there → spoilt = true →
        goes (.next (takeTrap a c k { cause := 0x11, addr := winAddr t.pc.toNat, info := 1 } false))) ∧
      (there → spoilt = false → ∀ i, decode ctx w = .instr i → goes (exec i (forwardWord a c k))) ∧
      (there → spoilt = false → ∀ cause info, decode ctx w = .trap cause info → goes (.next
        (takeTrap (forwardWord a c k) c k { cause := cause, addr := 0, info := BitVec.ofNat 64 info } true))) ∧
      (t.place.gsize ≤ 1 → forwardWord a c k = a))

/-- The count of the reference time base is the number of whole ticks, and the rest stays below one tick (R4, log 10). -/
def Claims.clockInv (s : State) : Prop := s.time.phase < 21 * 2 ^ 32

/-- R390, R4, R6: every step keeps the clock whole, no step but a power-on lets it fall, and each step is one cycle; a
power-on starts it again. -/
def Obligations.ClockAdvances : Prop :=
  ∀ s s' : State, step s = .next s' → (Claims.clockInv s → Claims.clockInv s') ∧
    (powersOn s = false → s.time.tick ≤ s'.time.tick ∧ s'.time.cycle = s.time.cycle + 1) ∧
    (powersOn s = true → s'.time.cycle = 1)

/-- What power-on reset leaves (R6, and the Reset columns of 04, 07, 12, 24 and 25), with the clock's invariant and the
canonical form of every memory.
The registers of slots before a placement, the start of the clock and empty memory are the model's choices (logs 1, 2, 3
and 14). -/
def Obligations.ResetState : Prop :=
  let s := State.reset
  Claims.clockInv s ∧ s.memWf = true ∧ s.time.cycle = 0 ∧ s.mem.dram = [] ∧ s.mem.host = [] ∧
  (∀ c k, (s.thread c k).status = .unplaced ∧ (∀ n, n ≠ 0 → (s.thread c k).rdG n = 0) ∧ (s.thread c k).ctl.xvec = 0 ∧
    (s.thread c k).ctl.ptime = 0 ∧ (s.thread c k).ctl.fflags = 0) ∧
  s.disp.launches = [] ∧ s.mgmt.health.plimit = 1600 ∧ s.mgmt.dieBusy = false ∧ s.net.rto = 100000 ∧
  s.net.flowcount = 0 ∧ s.mgmt.sptcount = 0 ∧ s.chan.hqset = false ∧ s.stor.enable = false ∧
  (∀ p, (s.port p).txlog = 4 ∧ (s.port p).enable = false)
end

