-- ==== Sys2Proof/Laws/Cells.lean ====
section
/-! SUPPORT. Laws of bytes in canonical form: reads after writes, and that every write keeps the form. -/

namespace Sys2Proof.Machine

/-! ### The canonical form -/

theorem Cells.wfFrom_mono {lo lo' : Nat} (h : lo' ≤ lo) : ∀ m, Cells.wfFrom lo m = true → Cells.wfFrom lo' m = true
  | [], _ => rfl
  | (a, b) :: l, hw => by
    simp only [Cells.wfFrom, Bool.and_eq_true, decide_eq_true_eq] at hw ⊢
    exact ⟨⟨by omega, hw.1.2⟩, hw.2⟩

/-- A write keeps the form. -/
theorem Cells.wfFrom_put (m : List Host.Cell) (a : Nat) (b : Byte) (lo : Nat) (h : Cells.wfFrom lo m = true)
    (ha : lo ≤ a) : Cells.wfFrom lo (Cells.put m a b) = true := by
  induction m generalizing lo with
  | nil =>
    simp only [Cells.put]
    split
    · rfl
    · rename_i hb
      simp only [Cells.wfFrom, Bool.and_eq_true, decide_eq_true_eq]
      exact ⟨⟨ha, hb⟩, trivial⟩
  | cons e m ih =>
    obtain ⟨j, x⟩ := e
    simp only [Cells.wfFrom, Bool.and_eq_true, decide_eq_true_eq] at h
    obtain ⟨⟨hj, hx⟩, hm⟩ := h
    simp only [Cells.put]
    split
    · split
      · simp only [Cells.wfFrom, Bool.and_eq_true, decide_eq_true_eq]
        exact ⟨⟨hj, hx⟩, hm⟩
      · rename_i hlt hb
        simp only [Cells.wfFrom, Bool.and_eq_true, decide_eq_true_eq]
        exact ⟨⟨ha, hb⟩, ⟨by omega, hx⟩, hm⟩
    · split
      · rename_i hlt he
        subst he
        split
        · exact Cells.wfFrom_mono (by omega) _ hm
        · rename_i hb
          simp only [Cells.wfFrom, Bool.and_eq_true, decide_eq_true_eq]
          exact ⟨⟨ha, hb⟩, hm⟩
      · rename_i hlt hne
        simp only [Cells.wfFrom, Bool.and_eq_true, decide_eq_true_eq]
        exact ⟨⟨hj, hx⟩, ih _ hm (by omega)⟩

theorem Cells.wf_put (m : List Host.Cell) (a : Nat) (b : Byte) (h : Cells.wf m = true) :
    Cells.wf (Cells.put m a b) = true := Cells.wfFrom_put m a b 0 h (Nat.zero_le a)

theorem Cells.wf_putN (m : List Host.Cell) (a : Nat) (bs : List Byte) (h : Cells.wf m = true) :
    Cells.wf (Cells.putN m a bs) = true := by
  induction bs generalizing m a with
  | nil => exact h
  | cons b bs ih => exact ih _ _ (Cells.wf_put m a b h)

/-! ### Reads after writes -/

theorem Cells.get_of_lt (m : List Host.Cell) (a lo : Nat) (h : Cells.wfFrom lo m = true) (ha : a < lo) :
    Cells.get m a = 0 := by
  cases m with
  | nil => rfl
  | cons e m =>
    obtain ⟨j, x⟩ := e
    simp only [Cells.wfFrom, Bool.and_eq_true, decide_eq_true_eq] at h
    simp only [Cells.get]
    have h1 : j ≠ a := by omega
    have h2 : a < j := by omega
    simp [h1, h2]

theorem Cells.get_put_from (m : List Host.Cell) (a a' : Nat) (b : Byte) (lo : Nat) (h : Cells.wfFrom lo m = true) :
    Cells.get (Cells.put m a b) a' = if a' = a then b else Cells.get m a' := by
  induction m generalizing lo with
  | nil =>
    simp only [Cells.put]
    by_cases hb : b = 0
    · simp [hb, Cells.get]
    · simp only [hb, if_false, Cells.get]
      by_cases he : a' = a
      · simp [he]
      · have : a ≠ a' := fun h => he h.symm
        simp [he, this]
  | cons e m ih =>
    obtain ⟨j, x⟩ := e
    simp only [Cells.wfFrom, Bool.and_eq_true, decide_eq_true_eq] at h
    obtain ⟨⟨hj, hx⟩, hm⟩ := h
    simp only [Cells.put]
    by_cases h1 : a < j
    · simp only [h1, if_true]
      by_cases hb : b = 0
      · simp only [hb, if_true]
        by_cases he : a' = a
        · subst he
          have : j ≠ a' := by omega
          simp [Cells.get, this, h1]
        · simp [he]
      · simp only [hb, if_false, Cells.get]
        by_cases he : a' = a
        · subst he; simp
        · have h2 : a ≠ a' := fun h => he h.symm
          simp only [h2, he, if_false]
          by_cases h3 : a' < a
          · have h4 : j ≠ a' := by omega
            have h5 : a' < j := by omega
            simp [h3, h4, h5]
          · simp [h3]
    · simp only [h1, if_false]
      by_cases h2 : a = j
      · subst h2
        simp only [if_true]
        by_cases hb : b = 0
        · simp only [hb, if_true]
          by_cases he : a' = a
          · subst he
            simp only [if_true]
            exact Cells.get_of_lt m a' _ hm (by omega)
          · have h3 : a ≠ a' := fun h => he h.symm
            simp only [he, if_false, Cells.get, h3]
            by_cases h4 : a' < a
            · simp only [h4, if_true]
              exact Cells.get_of_lt m a' _ hm (by omega)
            · simp [h4]
        · simp only [hb, if_false, Cells.get]
          by_cases he : a' = a
          · subst he; simp
          · have h3 : a ≠ a' := fun h => he h.symm
            simp [he, h3]
      · simp only [h2, if_false, Cells.get, ih _ hm]
        by_cases he : a' = a
        · subst he
          have h3 : j ≠ a' := fun h => h2 h.symm
          have h4 : ¬ a' < j := h1
          simp [h3, h4]
        · simp [he]

/-- A read after a write of one byte. -/
theorem Cells.get_put (m : List Host.Cell) (a a' : Nat) (b : Byte) (h : Cells.wf m = true) :
    Cells.get (Cells.put m a b) a' = if a' = a then b else Cells.get m a' := Cells.get_put_from m a a' b 0 h

/-- A read outside the written bytes gives what it gave. -/
theorem Cells.get_putN_outside (m : List Host.Cell) (a a' : Nat) (bs : List Byte) (h : Cells.wf m = true)
    (ho : a' < a ∨ a + bs.length ≤ a') : Cells.get (Cells.putN m a bs) a' = Cells.get m a' := by
  induction bs generalizing m a with
  | nil => rfl
  | cons b bs ih =>
    simp only [List.length_cons] at ho
    rw [Cells.putN, ih _ _ (Cells.wf_put m a b h) (by omega), Cells.get_put m a a' b h]
    have : a' ≠ a := by omega
    simp [this]

/-- A read of a written byte gives it. -/
theorem Cells.get_putN_inside (m : List Host.Cell) (a i : Nat) (bs : List Byte) (h : Cells.wf m = true)
    (hi : i < bs.length) : Cells.get (Cells.putN m a bs) (a + i) = bs.getD i 0 := by
  induction bs generalizing m a i with
  | nil => simp at hi
  | cons b bs ih =>
    rw [Cells.putN]
    cases i with
    | zero =>
      rw [Cells.get_putN_outside _ _ _ _ (Cells.wf_put m a b h) (by omega), Cells.get_put m a _ b h]
      simp
    | succ i =>
      have := ih (Cells.put m a b) (a + 1) i (Cells.wf_put m a b h) (by simpa using hi)
      rw [show a + (i + 1) = a + 1 + i by omega, this]
      simp

@[simp] theorem Cells.length_getN (m : List Host.Cell) (a n : Nat) : (Cells.getN m a n).length = n := by
  induction n generalizing a with
  | zero => rfl
  | succ n ih => simp [Cells.getN, ih]

theorem Cells.getN_congr (m m' : List Host.Cell) (a n : Nat)
    (h : ∀ x, a ≤ x → x < a + n → Cells.get m x = Cells.get m' x) : Cells.getN m a n = Cells.getN m' a n := by
  induction n generalizing a with
  | zero => rfl
  | succ n ih =>
    rw [Cells.getN, Cells.getN, h a (by omega) (by omega), ih (a + 1) (fun x h1 h2 => h x (by omega) (by omega))]

/-- A read of what was just written. -/
theorem Cells.getN_putN_self (m : List Host.Cell) (a : Nat) (bs : List Byte) (h : Cells.wf m = true) :
    Cells.getN (Cells.putN m a bs) a bs.length = bs := by
  induction bs generalizing m a with
  | nil => rfl
  | cons b bs ih =>
    rw [Cells.putN, List.length_cons, Cells.getN, ih _ _ (Cells.wf_put m a b h),
      Cells.get_putN_outside _ _ _ _ (Cells.wf_put m a b h) (by omega), Cells.get_put m a a b h]
    simp

/-- A read of bytes that the write did not reach. -/
theorem Cells.getN_putN_disjoint (m : List Host.Cell) (a a' n : Nat) (bs : List Byte) (h : Cells.wf m = true)
    (ho : a' + n ≤ a ∨ a + bs.length ≤ a') : Cells.getN (Cells.putN m a bs) a' n = Cells.getN m a' n :=
  Cells.getN_congr _ _ _ _ (fun x h1 h2 => Cells.get_putN_outside m a x bs h (by omega))

/-- Equal reads everywhere make equal memories: the form is canonical. -/
theorem Cells.ext_from (m m' : List Host.Cell) (lo : Nat) (h : Cells.wfFrom lo m = true) (h' : Cells.wfFrom lo m' = true)
    (he : ∀ a, Cells.get m a = Cells.get m' a) : m = m' := by
  induction m generalizing lo m' with
  | nil =>
    cases m' with
    | nil => rfl
    | cons e m' =>
      obtain ⟨j, x⟩ := e
      simp only [Cells.wfFrom, Bool.and_eq_true, decide_eq_true_eq] at h'
      have := he j
      simp [Cells.get] at this
      exact absurd this.symm h'.1.2
  | cons e m ih =>
    obtain ⟨j, x⟩ := e
    simp only [Cells.wfFrom, Bool.and_eq_true, decide_eq_true_eq] at h
    cases m' with
    | nil =>
      have := he j
      simp [Cells.get] at this
      exact absurd this h.1.2
    | cons e' m' =>
      obtain ⟨j', x'⟩ := e'
      simp only [Cells.wfFrom, Bool.and_eq_true, decide_eq_true_eq] at h'
      have hjj : j = j' := by
        rcases Nat.lt_trichotomy j j' with hl | hl | hl
        · have h1 := he j
          have h2 : j' ≠ j := by omega
          simp [Cells.get, h2, hl] at h1
          exact absurd h1 h.1.2
        · exact hl
        · have h1 := he j'
          have h2 : j ≠ j' := by omega
          simp [Cells.get, h2, hl] at h1
          exact absurd h1.symm h'.1.2
      subst hjj
      have hxx : x = x' := by
        have h1 := he j
        simpa [Cells.get] using h1
      subst hxx
      have hm : m = m' := by
        apply ih _ _ h.2 h'.2
        intro a
        have h1 := he a
        simp only [Cells.get] at h1
        by_cases h2 : j = a
        · subst h2
          rw [Cells.get_of_lt m j _ h.2 (by omega), Cells.get_of_lt m' j _ h'.2 (by omega)]
        · by_cases h3 : a < j
          · rw [Cells.get_of_lt m a _ h.2 (by omega), Cells.get_of_lt m' a _ h'.2 (by omega)]
          · simpa [h2, h3] using h1
      rw [hm]

theorem Cells.ext (m m' : List Host.Cell) (h : Cells.wf m = true) (h' : Cells.wf m' = true)
    (he : ∀ a, Cells.get m a = Cells.get m' a) : m = m' := Cells.ext_from m m' 0 h h' he

/-! ### The pool of a core -/

theorem Core.bytes_putBytes_self (x : Core) (o : Nat) (bs : List Byte) (h : Cells.wf x.pool = true) :
    (x.putBytes o bs).bytes o bs.length = bs := Cells.getN_putN_self x.pool o bs h

theorem Core.bytes_putBytes_disjoint (x : Core) (o o' n : Nat) (bs : List Byte) (h : Cells.wf x.pool = true)
    (ho : o' + n ≤ o ∨ o + bs.length ≤ o') : (x.putBytes o bs).bytes o' n = x.bytes o' n :=
  Cells.getN_putN_disjoint x.pool o o' n bs h ho

theorem Core.wf_putBytes (x : Core) (o : Nat) (bs : List Byte) (h : Cells.wf x.pool = true) :
    Cells.wf (x.putBytes o bs).pool = true := Cells.wf_putN x.pool o bs h

end Sys2Proof.Machine
end

