-- ==== Sys2Proof/Laws/Decode.lean ====
section
/-! SUPPORT. Reading back what the encoder writes: the fields of a packed word, and one lemma per operand reader. -/

namespace Sys2Proof

/-! ### The word and its fields -/

theorem unpack_pack (f : Fields) : unpack (pack f) = f := by
  obtain ⟨op, ty, sub, rnd, sat, flag, inv, pred, taken, yields, lastb, lastc, res, a, b, c⟩ := f
  simp only [unpack, pack, Fields.mk.injEq]
  refine ⟨?_, ?_, ?_, ?_, ?_, ?_, ?_, ?_, ?_, ?_, ?_, ?_, ?_, ?_, ?_, ?_⟩
  all_goals first
    | (apply BitVec.eq_of_getLsbD_eq
       intro i hi
       simp only [BitVec.getLsbD_extractLsb', BitVec.getLsbD_append, hi, decide_true, Bool.true_and]
       repeat rw [if_neg (by omega)]
       try rw [if_pos (by omega)]
       congr 1
       all_goals omega)
    | (simp only [BitVec.getLsbD_append]; simp)

/-! ### Values without a fault -/

@[simp] theorem V.ok_ap_ok {α β : Type} (f : α → β) (x : α) : (V.ok f).ap (V.ok x) = V.ok (f x) := rfl
@[simp] theorem V.ok_chk_nil {α : Type} (x : α) : (V.ok x).chk [] = V.ok x := rfl
@[simp] theorem V.ok_map {α β : Type} (f : α → β) (x : α) : (V.ok x).map f = V.ok (f x) := rfl
@[simp] theorem V.apAfter_nil {α β : Type} (f : V (α → β)) (x : V α) : f.apAfter [] x = f.ap x := rfl
@[simp] theorem after_nil (es : List Nat) : after [] es = es := rfl
@[simp] theorem V.ok_errs {α : Type} (x : α) : (V.ok x).errs = [] := rfl
@[simp] theorem V.ok_val {α : Type} (x : α) : (V.ok x).val = some x := rfl
@[simp] theorem V.mk_nil {α : Type} (x : α) : ({ errs := [], val := some x } : V α) = V.ok x := rfl

@[simp] theorem toFin_val {n : Nat} (h : 0 < n) (k : Fin n) : toFin n h k.val = k := by
  simp [toFin, Nat.mod_eq_of_lt k.isLt]

@[simp] theorem lowErr_zero (base : Nat) : lowErr 0 base = [] := rfl

/-- A number below 2^n has no bit of a mask that begins at bit n. -/
theorem and_high {k m n : Nat} (h : k < 2 ^ n) (hm : m % 2 ^ n = 0) : k &&& m = 0 := by
  apply Nat.eq_of_testBit_eq
  intro i
  rw [Nat.testBit_and, Nat.zero_testBit]
  by_cases hi : i < n
  · have e := Nat.testBit_mod_two_pow m n i
    rw [hm, Nat.zero_testBit, decide_eq_true hi, Bool.true_and] at e
    simp [← e]
  · simp [Nat.testBit_lt_two_pow (Nat.lt_of_lt_of_le h (Nat.pow_le_pow_right (by decide) (Nat.le_of_not_lt hi)))]

/-! ### Register operands -/

theorem toNat_encReg {cls idx : Nat} (hc : cls < 16) (hi : idx < 1024) :
    (encReg cls idx).toNat = cls * 65536 + idx * 64 := by
  simp only [encReg, BitVec.toNat_ofNat]; omega

theorem kindOf_encReg {cls idx : Nat} (hc : cls < 16) (hi : idx < 1024) : kindOf (encReg cls idx) = 0 := by
  simp only [kindOf, toNat_encReg hc hi]; omega
theorem classOf_encReg {cls idx : Nat} (hc : cls < 16) (hi : idx < 1024) : classOf (encReg cls idx) = cls := by
  simp only [classOf, toNat_encReg hc hi]; omega
theorem indexOf_encReg {cls idx : Nat} (hc : cls < 16) (hi : idx < 1024) : indexOf (encReg cls idx) = idx := by
  simp only [indexOf, toNat_encReg hc hi]; omega
theorem restOf_encReg {cls idx : Nat} (hc : cls < 16) (hi : idx < 1024) : restOf (encReg cls idx) = 0 := by
  simp only [restOf, toNat_encReg hc hi]; omega

theorem vReg_encReg {cls idx n : Nat} (hc : cls < 16) (hi : idx < 1024) (hn : idx < n) (base : Nat) :
    vReg cls n (encReg cls idx) base = V.ok idx := by
  simp [vReg, kindOf_encReg hc hi, classOf_encReg hc hi, indexOf_encReg hc hi, restOf_encReg hc hi, hn]

@[simp] theorem vG_encG (r : Fin 64) (base : Nat) : vG Lim.full (encG r) base = V.ok r := by
  simp [vG, encG, Lim.full, vReg_encReg (cls := 0) (by omega) (show r.val < 1024 by omega) r.isLt]
@[simp] theorem vV_encV (r : Fin 32) (base : Nat) : vV Lim.full (encV r) base = V.ok r := by
  simp [vV, encV, Lim.full, vReg_encReg (cls := 1) (by omega) (show r.val < 1024 by omega) r.isLt]
@[simp] theorem vP_encP (r : Fin 8) (base : Nat) : vP (encP r) base = V.ok r := by
  simp [vP, encP, vReg_encReg (cls := 2) (by omega) (show r.val < 1024 by omega) r.isLt]
@[simp] theorem vB_encB (r : Fin 8) (base : Nat) : vB (encB r) base = V.ok r := by
  simp [vB, encB, vReg_encReg (cls := 3) (by omega) (show r.val < 1024 by omega) r.isLt]
@[simp] theorem vV4_encV4 (r : Fin 4) (base : Nat) : vV4 (encV4 r) base = V.ok r := by
  simp [vV4, encV4, vReg_encReg (cls := 1) (by omega) (show r.val < 1024 by omega) r.isLt]

@[simp] theorem CtlNum.ofNum_num (k : CtlNum) : CtlNum.ofNum k.num = some k := by cases k <;> rfl
theorem CtlNum.num_lt (k : CtlNum) : k.num < 1024 := by cases k <;> decide

@[simp] theorem vK_encK (k : CtlNum) (base : Nat) : vK (encK k) base = V.ok k := by
  simp [vK, encK, vReg_encReg (cls := 4) (by omega) k.num_lt k.num_lt]

@[simp] theorem kindOf_encG (r : Fin 64) : kindOf (encG r) = 0 := kindOf_encReg (by omega) (by omega)
@[simp] theorem kindOf_encV (r : Fin 32) : kindOf (encV r) = 0 := kindOf_encReg (by omega) (by omega)
@[simp] theorem kindOf_encP (r : Fin 8) : kindOf (encP r) = 0 := kindOf_encReg (by omega) (by omega)
@[simp] theorem kindOf_encB (r : Fin 8) : kindOf (encB r) = 0 := kindOf_encReg (by omega) (by omega)
@[simp] theorem classOf_encG (r : Fin 64) : classOf (encG r) = 0 := classOf_encReg (by omega) (by omega)
@[simp] theorem classOf_encV (r : Fin 32) : classOf (encV r) = 1 := classOf_encReg (by omega) (by omega)
@[simp] theorem classOf_encP (r : Fin 8) : classOf (encP r) = 2 := classOf_encReg (by omega) (by omega)
@[simp] theorem classOf_encB (r : Fin 8) : classOf (encB r) = 3 := classOf_encReg (by omega) (by omega)

/-! ### Immediates -/

theorem toNat_encI (v : BitVec 20) : (encI v).toNat = 1048576 + v.toNat := by
  have h := v.isLt
  simp only [encI, BitVec.toNat_append, Nat.shiftLeft_eq]
  rw [Nat.mul_comm, ← Nat.two_pow_add_eq_or_of_lt h]
  simp

@[simp] theorem kindOf_encI (v : BitVec 20) : kindOf (encI v) = 1 := by
  have h := v.isLt
  simp only [kindOf, toNat_encI]; omega

@[simp] theorem immOf_encI (v : BitVec 20) : immOf (encI v) = v := by
  apply BitVec.eq_of_toNat_eq
  have h := v.isLt
  simp only [immOf, BitVec.extractLsb'_toNat, toNat_encI, Nat.shiftRight_zero]
  omega

@[simp] theorem vI_encI (v : BitVec 20) (base : Nat) : vI (encI v) base = V.ok v := by simp [vI]

@[simp] theorem vGI_encGI (x : GSrc) (base : Nat) : vGI Lim.full (encGI x) base = V.ok x := by
  cases x <;> simp [vGI, encGI, vImmOr]
@[simp] theorem vBI_encBI (x : BSrc) (base : Nat) : vBI (encBI x) base = V.ok x := by
  cases x <;> simp [vBI, encBI, vImmOr]
@[simp] theorem vVG_encVG (x : VGSrc) (base : Nat) : vVG Lim.full (encVG x) base = V.ok x := by
  cases x <;> simp [vVG, encVG, vTwo]
@[simp] theorem vVGI_encVGI (x : VSrc) (base : Nat) : vVGI Lim.full (encVGI x) base = V.ok x := by
  cases x <;> simp [vVGI, encVGI, vImmOr, vTwo]
@[simp] theorem vPGI_encPGI (x : PSrc) (base : Nat) : vPGI Lim.full (encPGI x) base = V.ok x := by
  cases x <;> simp [vPGI, encPGI, vImmOr, vTwo]

@[simp] theorem vPA_encPA (x : Option (Fin 8)) (base : Nat) : vPA (encPA x) base = V.ok x := by
  cases x with
  | none => rfl
  | some r =>
    have h : encP r ≠ 0 := by revert r; decide
    simp only [vPA, encPA, if_neg h, vP_encP, V.ok_map]

@[simp] theorem vIZ_encIZ (x : Option (BitVec 20)) (base : Nat) : vIZ (encIZ x) base = V.ok x := by
  cases x with
  | none => rfl
  | some v =>
    have h : encI v ≠ 0 := fun e => by
      have := congrArg BitVec.toNat e
      rw [toNat_encI] at this; simp at this
    simp only [vIZ, encIZ, if_neg h, vI_encI, V.ok_map]

@[simp] theorem vM_encM (m : Mem) (base : Nat) : vM Lim.full (encM m) base = V.ok m := by
  obtain ⟨r, o⟩ := m
  have ho := o.isLt
  have hr := r.isLt
  have h : (encM ⟨r, o⟩).toNat = 3145728 + r.val * 16384 + o.toNat := by
    simp only [encM, BitVec.toNat_ofNat]; omega
  have hk : kindOf (encM ⟨r, o⟩) = 3 := by simp only [kindOf, h]; omega
  have hb : (encM ⟨r, o⟩).toNat / 16384 % 64 = r.val := by rw [h]; omega
  have hx : (encM ⟨r, o⟩).extractLsb' 0 14 = o := by
    apply BitVec.eq_of_toNat_eq
    simp only [BitVec.extractLsb'_toNat, h, Nat.shiftRight_zero]; omega
  simp [vM, hk, hb, hx, Lim.full, hr]

theorem toNat_encIn {n : Nat} (h : n < 1048576) : (encIn n).toNat = 1048576 + n := by
  simp only [encIn, toNat_encI, BitVec.toNat_ofNat]; omega
@[simp] theorem kindOf_encIn (n : Nat) : kindOf (encIn n) = 1 := kindOf_encI _
@[simp] theorem immOf_encIn (n : Nat) : immOf (encIn n) = BitVec.ofNat 20 n := immOf_encI _

theorem vImmBelow_encIn {n : Nat} (h : 0 < n) (k : Fin n) (hk : k.val < 1048576) (off base : Nat) :
    vImmBelow n h off (encIn k.val) base = V.ok k := by
  have e : k.val % 2 ^ 20 = k.val := Nat.mod_eq_of_lt hk
  simp only [vImmBelow, kindOf_encIn, immOf_encIn, BitVec.toNat_ofNat, e]
  simp [toFin_val h k]

@[simp] theorem vI3_encIn (k : Fin 4) : vI3 (encIn k.val) = V.ok k := vImmBelow_encIn _ k (by omega) _ _
@[simp] theorem vI4_encIn (k : Fin 5) (base : Nat) : vI4 (encIn k.val) base = V.ok k := vImmBelow_encIn _ k (by omega) _ _
@[simp] theorem vCode_encIn (k : Fin 14) : vCode (encIn k.val) = V.ok k := vImmBelow_encIn _ k (by omega) _ _

@[simp] theorem vI1_encI1 (b : Bool) (base : Nat) : vI1 (encI1 b) base = V.ok b := by
  cases b
  · have h := vImmBelow_encIn (n := 2) (by decide) (0 : Fin 2) (by decide) base base
    simp only [vI1, encI1, Bool.toNat_false]; exact congrArg (V.map _) h
  · have h := vImmBelow_encIn (n := 2) (by decide) (1 : Fin 2) (by decide) base base
    simp only [vI1, encI1, Bool.toNat_true]; exact congrArg (V.map _) h

@[simp] theorem vQ1_encI1 (b : Bool) (base : Nat) : vQ1 (encI1 b) base = V.ok b := by
  cases b
  · have h := vImmBelow_encIn (n := 2) (by decide) (0 : Fin 2) (by decide) (base + lowBit ((encIn 0).toNat &&& 0xFFFFE)) base
    simp only [vQ1, encI1, Bool.toNat_false]; exact congrArg (V.map _) h
  · have h := vImmBelow_encIn (n := 2) (by decide) (1 : Fin 2) (by decide) (base + lowBit ((encIn 1).toNat &&& 0xFFFFE)) base
    simp only [vQ1, encI1, Bool.toNat_true]; exact congrArg (V.map _) h

@[simp] theorem vL15_encL15 (n : Fin 15) (base : Nat) : vL15 (encL15 n) base = V.ok n := by
  have hn := n.isLt
  have e : (n.val + 1) % 1048576 = n.val + 1 := Nat.mod_eq_of_lt (by omega)
  have h1 : n.val + 1 ≤ 15 := by omega
  simp [vL15, encL15, e, h1]

@[simp] theorem vBsh_encBsh (x : ShareSel) : vBsh (encBsh x) = V.ok x := by
  obtain ⟨c, o, n⟩ := x
  have hc := c.isLt
  have ho := o.isLt
  have hn := n.isLt
  have e : (c.val + 64 * o.val + 256 * (n.val + 1)) % 2 ^ 20 = c.val + 64 * o.val + 256 * (n.val + 1) :=
    Nat.mod_eq_of_lt (by omega)
  have m : (c.val + 64 * o.val + 256 * (n.val + 1)) &&& 0xFF800 = 0 :=
    and_high (n := 11) (by omega) (by decide)
  have d1 : (c.val + 64 * o.val + 256 * (n.val + 1)) / 256 % 8 = n.val + 1 := by omega
  have d2 : (c.val + 64 * o.val + 256 * (n.val + 1)) % 64 = c.val := by omega
  have d3 : (c.val + 64 * o.val + 256 * (n.val + 1)) / 64 % 4 = o.val := by omega
  have d4 : n.val + 1 ≤ 4 := by omega
  simp only [vBsh, encBsh, kindOf_encIn, immOf_encIn, BitVec.toNat_ofNat, e, m, d1, d2, d3]
  simp [d4]

/-! ### The function field -/

@[simp] theorem vH_mk (h : Hdr) (op ty sub rnd : Nat) (sat flag : Bool) (a b c : BitVec 22) :
    vH (mk h op ty sub rnd sat flag a b c) = V.ok h := by
  obtain ⟨p, i, t, y, l, m⟩ := h
  simp [vH, mk]

/-! ### The other fields and the operands of a packed word -/

section
variable (h : Hdr) (op ty sub rnd : Nat) (sat flag : Bool) (a b c : BitVec 22)
@[simp] theorem mk_a : (mk h op ty sub rnd sat flag a b c).a = a := rfl
@[simp] theorem mk_b : (mk h op ty sub rnd sat flag a b c).b = b := rfl
@[simp] theorem mk_c : (mk h op ty sub rnd sat flag a b c).c = c := rfl
@[simp] theorem mk_sat : (mk h op ty sub rnd sat flag a b c).sat = sat := rfl
@[simp] theorem mk_flag : (mk h op ty sub rnd sat flag a b c).flag = flag := rfl
@[simp] theorem oTy0_mk : oTy0 (mk h op 0 sub rnd sat flag a b c) = [] := rfl
@[simp] theorem oTyIs_mk : oTyIs (mk h op 1 sub rnd sat flag a b c) 1 = [] := rfl
@[simp] theorem oSub0_mk : oSub0 (mk h op ty 0 rnd sat flag a b c) = [] := rfl
@[simp] theorem oRnd0_mk : oRnd0 (mk h op ty sub 0 sat flag a b c) = [] := rfl
@[simp] theorem oSat0_mk : oSat0 (mk h op ty sub rnd false flag a b c) = [] := rfl
@[simp] theorem oFlag0_mk : oFlag0 (mk h op ty sub rnd sat false a b c) = [] := rfl
@[simp] theorem vSat_mk : vSat (mk h op ty sub rnd sat flag a b c) = V.ok sat := rfl
@[simp] theorem vFlag_mk : vFlag (mk h op ty sub rnd sat flag a b c) = V.ok flag := rfl
@[simp] theorem oUnused_zero (base : Nat) : oUnused 0 base = [] := rfl
@[simp] theorem oUnused_zero' (base : Nat) : oUnused 0#22 base = [] := rfl
@[simp] theorem vITy_mk (t : ITy) : vITy (mk h op t.code sub rnd sat flag a b c) = V.ok t := by cases t <;> rfl
@[simp] theorem vPTy_mk (t : PTy) : vPTy (mk h op t.code sub rnd sat flag a b c) = V.ok t := by cases t <;> rfl
@[simp] theorem vATy_mk (t : ATy) : vATy (mk h op t.code sub rnd sat flag a b c) = V.ok t := by cases t <;> rfl
@[simp] theorem vNTy_mk (t : NTy) : vNTy (mk h op t.code sub rnd sat flag a b c) = V.ok t := by cases t <;> rfl
@[simp] theorem vCTy_mk (t : CTy) : vCTy (mk h op t.code sub rnd sat flag a b c) = V.ok t := by
  rcases t with t | _ | _ | v
  · cases t <;> rfl
  · rfl
  · rfl
  · cases v <;> rfl
@[simp] theorem vSub8_mk (n : Fin 8) : vSub8 (mk h op ty n.val rnd sat flag a b c) = V.ok n := by
  simp [vSub8, mk, toFin, Nat.mod_eq_of_lt n.isLt]
@[simp] theorem vSub4_mk (n : Fin 4) : vSub4 (mk h op ty n.val rnd sat flag a b c) = V.ok n := by
  have : n = 0 ∨ n = 1 ∨ n = 2 ∨ n = 3 := by omega
  rcases this with rfl | rfl | rfl | rfl <;> rfl
@[simp] theorem vSubBit_mk (n : Bool) : vSubBit (mk h op ty n.toNat rnd sat flag a b c) = V.ok n := by cases n <;> rfl
@[simp] theorem vCond_mk (n : Cond) : vCond (mk h op ty n.code rnd sat flag a b c) = V.ok n := by cases n <;> rfl
@[simp] theorem vScope_mk (n : Scope) : vScope (mk h op ty n.code rnd sat flag a b c) = V.ok n := by cases n <;> rfl
@[simp] theorem vRnd_mk (r : Rnd) : vRnd (mk h op ty sub r.code sat flag a b c) = V.ok r := by cases r <;> rfl
@[simp] theorem readTy_code (t : VTy) : readTy t.code t.sub = .good t := by
  rcases t with t | _ | _ | ⟨v, p⟩ | _ | p
  · cases t <;> rfl
  · rfl
  · rfl
  · have e : toFin 7 (by decide) p.val = p := toFin_val _ p
    cases v <;> simp [VTy.code, VTy.sub, QVar.code, readTy, e]
  · rfl
  · have e : toFin 8 (by decide) p.val = p := toFin_val _ p
    simp [VTy.code, VTy.sub, readTy, e]
theorem VTy.code_lt (t : VTy) : t.code < 16 := by
  rcases t with t | _ | _ | ⟨v, p⟩ | _ | p
  · cases t <;> decide
  · decide
  · decide
  · cases v <;> simp [VTy.code, QVar.code]
  · decide
  · simp [VTy.code]
theorem VTy.sub_lt (t : VTy) : t.sub < 8 := by
  rcases t with t | _ | _ | ⟨v, p⟩ | _ | p <;> simp [VTy.sub] <;> omega
@[simp] theorem readTy_mk (t : VTy) : readTy (mk h op t.code t.sub rnd sat flag a b c).ty.toNat
    (mk h op t.code t.sub rnd sat flag a b c).sub.toNat = .good t := by
  have h1 : (BitVec.ofNat 4 t.code).toNat = t.code := by simp [Nat.mod_eq_of_lt t.code_lt]
  have h2 : (BitVec.ofNat 3 t.sub).toNat = t.sub := by simp [Nat.mod_eq_of_lt t.sub_lt]
  show readTy (BitVec.ofNat 4 t.code).toNat (BitVec.ofNat 3 t.sub).toNat = _
  rw [h1, h2, readTy_code]
@[simp] theorem vVTy_mk (t : VTy) (ok : VTy → Bool) (hk : ok t = true) : vVTy (mk h op t.code t.sub rnd sat flag a b c) ok = V.ok t := by
  simp only [vVTy, readTy_mk, hk, if_true]
@[simp] theorem intTy_mk_v (t : VTy) : (mk h op t.code sub rnd sat flag a b c).intTy = t.isInt := by
  rcases t with t | _ | _ | ⟨v, p⟩ | _ | p
  · cases t <;> rfl
  · rfl
  · rfl
  · cases v <;> rfl
  · rfl
  · rfl
@[simp] theorem intTy_mk_a (t : ATy) : (mk h op t.code sub rnd sat flag a b c).intTy = t.isInt := by cases t <;> rfl
@[simp] theorem intTy_mk_n (t : NTy) : (mk h op t.code sub rnd sat flag a b c).intTy = t.isInt := by cases t <;> rfl
@[simp] theorem intTy_mk_c (t : CTy) : (mk h op t.code sub rnd sat flag a b c).intTy = t.isInt := by
  rcases t with t | _ | _ | v
  · cases t <;> rfl
  · rfl
  · rfl
  · cases v <;> rfl
@[simp] theorem intTy_mk_i (t : ITy) : (mk h op t.code sub rnd sat flag a b c).intTy = true := by cases t <;> rfl
@[simp] theorem condSigned_mk (n : Cond) : (mk h op ty n.code rnd sat flag a b c).condSigned = n.signed := by cases n <;> rfl
@[simp] theorem minMax_mk (n : AOp) : (mk h op ty n.code rnd sat flag a b c).minMax = n.minMax := by cases n <;> rfl
end
@[simp] theorem vVGIz_reg (x : VSrc) (base : Nat) (i : Bool) (hx : i = true ∨ x.noImm = true) : vVGIz Lim.full (encVGI x) base i = V.ok x := by
  cases i
  · cases x <;> simp [VSrc.noImm] at hx <;> simp [vVGIz, encVGI, vTwo]
  · simp [vVGIz]

theorem toNat_encI_and (v : BitVec 20) {m : Nat} (hm : m < 2 ^ 20) : (encI v).toNat &&& m = v.toNat &&& m := by
  have e : (encI v).toNat % 2 ^ 20 = v.toNat % 2 ^ 20 := by rw [toNat_encI]; omega
  apply Nat.eq_of_testBit_eq
  intro i
  rw [Nat.testBit_and, Nat.testBit_and]
  by_cases hi : i < 20
  · have a := Nat.testBit_mod_two_pow (encI v).toNat 20 i
    have b := Nat.testBit_mod_two_pow v.toNat 20 i
    rw [e] at a
    rw [a, decide_eq_true hi] at b
    simp only [Bool.true_and] at b
    rw [b]
  · rw [Nat.testBit_lt_two_pow (Nat.lt_of_lt_of_le hm (Nat.pow_le_pow_right (by decide) (Nat.le_of_not_lt hi)))]
    simp
theorem vMask_imm {α : Type} {m : Nat} (hm : m < 2 ^ 20) (v : BitVec 20) (base : Nat) (x : α) (h : immClear v m = true) :
    vMask m (encI v) base (V.ok x) = V.ok x := by
  have h' : v.toNat &&& m = 0 := by simpa [immClear] using h
  simp [vMask, toNat_encI_and v hm, h']
theorem vMask_reg {α : Type} (m : Nat) (y : BitVec 22) (base : Nat) (x : V α) (h : kindOf y = 0) : vMask m y base x = x := by
  simp [vMask, h]
@[simp] theorem vImmSpec_enc (c : GSrc) (base : Nat) (h : c.okSpec = true) : vImmSpec (encGI c) base (V.ok c) = V.ok c := by
  cases c with
  | reg r => exact vMask_reg _ _ _ _ (by simp [encGI])
  | imm v => exact vMask_imm (by decide) v _ _ h
@[simp] theorem vImmT16_enc (c : GSrc) (base : Nat) (h : c.okT16 = true) : vImmT16 (encGI c) base (V.ok c) = V.ok c := by
  cases c with
  | reg r => exact vMask_reg _ _ _ _ (by simp [encGI])
  | imm v => exact vMask_imm (by decide) v _ _ h
@[simp] theorem vImmEp_enc (c : GSrc) (base : Nat) (h : c.okEp = true) : vImmEp (encGI c) base (V.ok c) = V.ok c := by
  cases c with
  | reg r => exact vMask_reg _ _ _ _ (by simp [encGI])
  | imm v => exact vMask_imm (by decide) v _ _ h
@[simp] theorem vImmPos_enc (c : GSrc) (base : Nat) (h : c.okPos = true) : vImmPos (encGI c) base (V.ok c) = V.ok c := by
  cases c with
  | reg r => exact vMask_reg _ _ _ _ (by simp [encGI])
  | imm v => exact vMask_imm (by decide) v _ _ h
@[simp] theorem vImmBud_enc (c : BSrc) (base : Nat) (h : c.okBud = true) : vImmBud (encBI c) base (V.ok c) = V.ok c := by
  cases c with
  | reg r => exact vMask_reg _ _ _ _ (by simp [encBI])
  | imm v => exact vMask_imm (by decide) v _ _ h
@[simp] theorem vImmPmov_enc (c : PSrc) (base : Nat) (h : c.okPmov = true) : vImmPmov (encPGI c) base (V.ok c) = V.ok c := by
  cases c with
  | p r => exact vMask_reg _ _ _ _ (by simp [encPGI])
  | g r => exact vMask_reg _ _ _ _ (by simp [encPGI])
  | imm v => exact vMask_imm (by decide) v _ _ h
@[simp] theorem vImmMask_enc (c : GSrc) (base : Nat) (h : c.okMask = true) : vImmMask (encGI c) base (V.ok c) = V.ok c := by
  cases c with
  | reg r => simp [vImmMask, encGI]
  | imm v =>
    have h' : v.toNat &&& 0xFFF00 = 0 ∧ v ≠ 0 := by simpa [GSrc.okMask, immClear] using h
    have e : v.toNat &&& 0xFFFFF = v.toNat := by
      have := Nat.and_two_pow_sub_one_of_lt_two_pow (x := v.toNat) (n := 20) v.isLt
      exact this
    have z : v.toNat ≠ 0 := fun hv => h'.2 (BitVec.eq_of_toNat_eq (by simpa using hv))
    simp [vImmMask, encGI, toNat_encI_and v (show 0xFFF00 < 2 ^ 20 by decide), toNat_encI_and v (show 0xFFFFF < 2 ^ 20 by decide),
      h'.1, e, z]
@[simp] theorem vImmK63_enc (c : GSrc) (base : Nat) (h : c.okK63 = true) : vImmK63 (encGI c) base (V.ok c) = V.ok c := by
  cases c with
  | reg r => simp [vImmK63, encGI]
  | imm v =>
    have h' : v.toNat ≤ 63 := by simpa [GSrc.okK63] using h
    simp [vImmK63, encGI, h']
theorem kindOf_two (v : BitVec 20) : kindOf (2#2 ++ v) = 2 := by
  have h := v.isLt
  have e : (2#2 ++ v).toNat = 2097152 + v.toNat := by
    simp only [BitVec.toNat_append, Nat.shiftLeft_eq]
    rw [show (2#2).toNat * 2 ^ 20 = 2 ^ 20 * 2 from rfl, ← Nat.two_pow_add_eq_or_of_lt h]
  simp only [kindOf, e]; omega
theorem immOf_two (v : BitVec 20) : immOf (2#2 ++ v) = v := by
  unfold immOf; rw [BitVec.extractLsb'_append_eq_of_add_le (by omega)]; simp
@[simp] theorem vWide_enc (h : Hdr) (op ty sub rnd : Nat) (sat flag : Bool) (a : BitVec 22) (w : BitVec 40) :
    vWide (mk h op ty sub rnd sat flag a (encWB w) (encWC w)) = V.ok w := by
  have e : w.extractLsb' 20 20 ++ w.extractLsb' 0 20 = w := by
    apply BitVec.eq_of_getLsbD_eq
    intro i hi
    simp only [BitVec.getLsbD_append, BitVec.getLsbD_extractLsb']
    by_cases h : i < 20
    · simp [h]
    · have h2 : i - 20 < 20 := by omega
      have h3 : 20 + (i - 20) = i := by omega
      simp [h, h2, h3]
  simp [vWide, encWB, encWC, kindOf_two, immOf_two, e]
@[simp] theorem vWideLih_enc (h : Hdr) (op ty sub rnd : Nat) (sat flag : Bool) (a : BitVec 22) (w : BitVec 40) (hw : okLih w = true) :
    vWideLih (mk h op ty sub rnd sat flag a (encWB w) (encWC w)) = V.ok w := by
  have hw' : w.toNat < 2 ^ 24 := by simpa [okLih] using hw
  have e : (encWB w).toNat = 2097152 + w.toNat / 2 ^ 20 := by
    have l : w.toNat / 2 ^ 20 < 2 ^ 20 := by omega
    have x : (w.extractLsb' 20 20).toNat = w.toNat / 2 ^ 20 := by
      simp only [BitVec.extractLsb'_toNat, Nat.shiftRight_eq_div_pow]; omega
    simp only [encWB, BitVec.toNat_append, Nat.shiftLeft_eq, x]
    rw [show (2#2).toNat * 2 ^ 20 = 2 ^ 20 * 2 from rfl, ← Nat.two_pow_add_eq_or_of_lt l]
  have m : (encWB w).toNat &&& 0xFFFF0 = 0 := by
    rw [e]
    have d : ∀ k, k < 16 → (2097152 + k) &&& 0xFFFF0 = 0 := by decide
    exact d _ (by omega)
  simp [vWideLih, m]
@[simp] theorem vITy123_mk (h : Hdr) (op sub rnd : Nat) (sat flag : Bool) (a b c : BitVec 22) (t : ITy) (ht : (t != ITy.i64) = true) :
    vITy123 (mk h op t.code sub rnd sat flag a b c) = V.ok t := by cases t <;> first | rfl | simp at ht
@[simp] theorem vFlagIf_ok (h : Hdr) (op ty sub rnd : Nat) (sat flag ok : Bool) (a b c : BitVec 22) (hk : ok = true ∨ flag = false) :
    vFlagIf (mk h op ty sub rnd sat flag a b c) ok = V.ok flag := by
  cases ok
  · have : flag = false := by simpa using hk
    subst this; rfl
  · rfl

section
variable (h : Hdr) (op ty sub rnd : Nat) (sat flag : Bool) (a b c : BitVec 22)
@[simp] theorem vRndF_v (t : VTy) (r : Rnd) (hr : t.isInt = false ∨ r = .rne) : vRndF (mk h op t.code sub r.code sat flag a b c) = V.ok r := by
  unfold vRndF
  rw [intTy_mk_v, vRnd_mk]
  cases e : t.isInt
  · simp
  · have : r = .rne := by simpa [e] using hr
    subst this; rfl
@[simp] theorem vRndF_a (t : ATy) (r : Rnd) (hr : t.isInt = false ∨ r = .rne) : vRndF (mk h op t.code sub r.code sat flag a b c) = V.ok r := by
  cases t <;> cases r <;> first | rfl | simp [ATy.isInt] at hr
@[simp] theorem vRndF_n (t : NTy) (r : Rnd) (hr : t.isInt = false ∨ r = .rne) : vRndF (mk h op t.code sub r.code sat flag a b c) = V.ok r := by
  cases t <;> cases r <;> first | rfl | simp [NTy.isInt] at hr
@[simp] theorem vSatZ_v (t : VTy) (hr : t.isInt = true ∨ sat = false) : vSatZ (mk h op t.code sub rnd sat flag a b c) = V.ok sat := by
  unfold vSatZ
  rw [intTy_mk_v]
  cases e : t.isInt
  · have : sat = false := by simpa [e] using hr
    subst this; rfl
  · rfl
@[simp] theorem vAOp_a (t : ATy) (n : AOp) (sw : Bool) (hn : t.isInt = true ∨ n.floatOk = true) (hs : sw = true ∨ ¬n = .swap) :
    vAOp (mk h op t.code n.code rnd sat flag a b c) sw = V.ok n := by
  cases t <;> cases n <;> cases sw <;> first | rfl | simp [ATy.isInt, AOp.floatOk] at hn hs
@[simp] theorem vAOp_n (t : NTy) (n : AOp) (sw : Bool) (hn : t.isInt = true ∨ n.floatOk = true) (hs : sw = true ∨ ¬n = .swap) :
    vAOp (mk h op t.code n.code rnd sat flag a b c) sw = V.ok n := by
  cases t <;> cases n <;> cases sw <;> first | rfl | simp [NTy.isInt, AOp.floatOk] at hn hs
@[simp] theorem oPair_mk (x y : Fin 64) (hp : ¬x = y ∨ x = 0) : oPair (mk h op ty sub rnd sat flag (encG x) (encG y) c) = [] := by
  have ix (z : Fin 64) : indexOf (encG z) = z.val := indexOf_encReg (cls := 0) (by omega) (by omega)
  simp only [oPair, mk_a, mk_b, ix]
  rw [if_neg]
  rintro ⟨_, _, e, z⟩
  rcases hp with hp | hp
  · exact hp (Fin.ext e)
  · subst hp; exact z rfl
@[simp] theorem vBmov_mk (m : BmovOp) (hm : m.ok = true) : vBmov Lim.full (mk h op ty sub rnd sat flag m.encA m.encB 0#22) = V.ok m := by
  cases m with
  | bFromG d s => simp [vBmov, BmovOp.encA, BmovOp.encB, vTwo]
  | bFromB d s => simp [vBmov, BmovOp.encA, BmovOp.encB, vTwo]
  | bFromI d v =>
    have := vMask_imm (m := 0xF3000) (by decide) v 22 (BmovOp.bFromI d v) hm
    simp [vBmov, BmovOp.encA, BmovOp.encB, vImmBud, this]
  | gFromB d s => simp [vBmov, BmovOp.encA, BmovOp.encB]
@[simp] theorem vGrade_mk (m : GradeOp) : vGrade Lim.full (mk h op ty sub rnd sat flag m.encA m.encB 0#22) = V.ok m := by
  cases m <;> simp [vGrade, GradeOp.encA, GradeOp.encB, vTwo]
@[simp] theorem vBcast_mk (m : BcastOp) : vBcast Lim.full (mk h op ty sub rnd sat flag a m.encB m.encC) = V.ok m := by
  cases m <;> simp [vBcast, BcastOp.encB, BcastOp.encC]
@[simp] theorem vCondV_mk (t : CTy) (n : Cond) (hn : t.isInt = true ∨ ¬n = .tst) : vCondV (mk h op t.code n.code rnd sat flag a b c) = V.ok n := by
  unfold vCondV
  rw [intTy_mk_c, vCond_mk]
  cases n <;> cases e : t.isInt <;> first | rfl | simp [e] at hn
end
theorem vSrcTy_enc (t : VTy) (hi : Bool) (ok : VTy → Bool) (hk : ok t = true) : vSrcTy (encSrcTy t hi) ok = V.ok t := by
  have h1 := t.code_lt
  have h2 := t.sub_lt
  have h3 : hi.toNat < 2 := by cases hi <;> decide
  have e : (t.code + 16 * t.sub + 128 * hi.toNat) % 2 ^ 20 = t.code + 16 * t.sub + 128 * hi.toNat := Nat.mod_eq_of_lt (by omega)
  have d1 : (t.code + 16 * t.sub + 128 * hi.toNat) % 16 = t.code := by omega
  have d2 : (t.code + 16 * t.sub + 128 * hi.toNat) / 16 % 8 = t.sub := by omega
  simp only [vSrcTy, encSrcTy, kindOf_encIn, immOf_encIn, BitVec.toNat_ofNat, e, d1, d2, readTy_code, hk]
  simp
theorem mask_srcTy (t : VTy) (hi : Bool) (m : Nat) (hm : m < 2 ^ 20) (hz : m % 256 = 0 ∨ (m % 128 = 0 ∧ hi = false)) (base : Nat) (x : VTy) :
    vMask m (encSrcTy t hi) base (V.ok x) = V.ok x := by
  have h1 := t.code_lt
  have h2 := t.sub_lt
  have h3 : hi.toNat < 2 := by cases hi <;> decide
  refine vMask_imm hm _ _ _ ?_
  have e : (t.code + 16 * t.sub + 128 * hi.toNat) % 2 ^ 20 = t.code + 16 * t.sub + 128 * hi.toNat := Nat.mod_eq_of_lt (by omega)
  simp only [immClear, BitVec.toNat_ofNat, e, beq_iff_eq]
  rcases hz with hz | ⟨hz, rfl⟩
  · exact and_high (n := 8) (by omega) hz
  · exact and_high (n := 7) (by simp; omega) hz
@[simp] theorem vSrcCvt_mk (h : Hdr) (op rnd : Nat) (sat flag : Bool) (a b : BitVec 22) (t x : VTy) (hk : okCvt t x = true) :
    vSrcCvt (mk h op t.code t.sub rnd sat flag a b (encSrcTy x false)) = V.ok x := by
  simp only [vSrcCvt, readTy_mk, mk_c, vSrcTy_enc x false (okCvt t) hk]
  exact mask_srcTy x false _ (by decide) (Or.inr ⟨by decide, rfl⟩) _ _
@[simp] theorem vSrcUnp_mk (h : Hdr) (op rnd : Nat) (sat flag : Bool) (a b : BitVec 22) (t x : VTy) (hi : Bool) (hk : okUnp t x = true) :
    vSrcUnp (mk h op t.code t.sub rnd sat flag a b (encSrcTy x hi)) = V.ok x := by
  simp only [vSrcUnp, readTy_mk, mk_c, vSrcTy_enc x hi (okUnp t) hk]
  exact mask_srcTy x hi _ (by decide) (Or.inl (by decide)) _ _
@[simp] theorem vHi_mk (h : Hdr) (op ty sub rnd : Nat) (sat flag : Bool) (a b : BitVec 22) (x : VTy) (hi : Bool) :
    vHi (mk h op ty sub rnd sat flag a b (encSrcTy x hi)) = V.ok hi := by
  have h1 := x.code_lt
  have h2 := x.sub_lt
  have h3 : hi.toNat < 2 := by cases hi <;> decide
  have e : (encSrcTy x hi).toNat = 1048576 + (x.code + 16 * x.sub + 128 * hi.toNat) := toNat_encIn (by omega)
  have g : (encSrcTy x hi).getLsbD 7 = hi := by
    rw [← BitVec.testBit_toNat, e, Nat.testBit_eq_decide_div_mod_eq]
    have : (1048576 + (x.code + 16 * x.sub + 128 * hi.toNat)) / 2 ^ 7 % 2 = hi.toNat := by omega
    rw [this]; cases hi <;> rfl
  simp only [vHi, mk_c, g]

end Sys2Proof
end

