-- ==== Sys2Proof/Laws/Map.lean ====
section
/-! SUPPORT. Laws of the association map: what a read gives after a write or a removal. -/

namespace Sys2Proof

@[simp] theorem AMap.get_nil {α : Type} (k : Nat) : AMap.get ([] : AMap α) k = none := rfl

@[simp] theorem AMap.get_set_self {α : Type} (m : AMap α) (k : Nat) (x : α) : AMap.get (AMap.set m k x) k = some x := by
  induction m with
  | nil => simp [AMap.set, AMap.get]
  | cons e m ih =>
    obtain ⟨j, y⟩ := e
    simp only [AMap.set]
    split
    · simp [AMap.get]
    · split
      · simp [AMap.get]
      · simp [AMap.get, *]

theorem AMap.get_set_of_ne {α : Type} (m : AMap α) {k k' : Nat} (x : α) (h : k' ≠ k) :
    AMap.get (AMap.set m k x) k' = AMap.get m k' := by
  induction m with
  | nil => simp [AMap.set, AMap.get, Ne.symm h]
  | cons e m ih =>
    obtain ⟨j, y⟩ := e
    simp only [AMap.set]
    split
    · rename_i hj
      subst hj
      simp [AMap.get, Ne.symm h]
    · split
      · simp [AMap.get, Ne.symm h]
      · simp only [AMap.get, ih]

theorem AMap.get_set {α : Type} (m : AMap α) (k k' : Nat) (x : α) :
    AMap.get (AMap.set m k x) k' = if k' = k then some x else AMap.get m k' := by
  by_cases h : k' = k
  · subst h; simp
  · simp [h, AMap.get_set_of_ne]

@[simp] theorem AMap.getD_set_self {α : Type} (m : AMap α) (k : Nat) (x d : α) : AMap.getD (AMap.set m k x) k d = x := by
  simp [AMap.getD]

theorem AMap.getD_set_of_ne {α : Type} (m : AMap α) {k k' : Nat} (x d : α) (h : k' ≠ k) :
    AMap.getD (AMap.set m k x) k' d = AMap.getD m k' d := by
  simp [AMap.getD, AMap.get_set_of_ne m x h]

theorem AMap.getD_set {α : Type} (m : AMap α) (k k' : Nat) (x d : α) :
    AMap.getD (AMap.set m k x) k' d = if k' = k then x else AMap.getD m k' d := by
  by_cases h : k' = k
  · subst h; simp
  · simp [h, AMap.getD_set_of_ne]

@[simp] theorem AMap.get_del_self {α : Type} (m : AMap α) (k : Nat) : AMap.get (AMap.del m k) k = none := by
  induction m with
  | nil => rfl
  | cons e m ih =>
    obtain ⟨j, y⟩ := e
    simp only [AMap.del]
    split
    · exact ih
    · simp [AMap.get, *]

theorem AMap.get_del_of_ne {α : Type} (m : AMap α) {k k' : Nat} (h : k' ≠ k) :
    AMap.get (AMap.del m k) k' = AMap.get m k' := by
  induction m with
  | nil => rfl
  | cons e m ih =>
    obtain ⟨j, y⟩ := e
    simp only [AMap.del]
    split
    · rename_i hj
      subst hj
      simp [AMap.get, Ne.symm h, ih]
    · simp [AMap.get, ih]

/-- A write of the value that is read anyway changes no read. -/
theorem AMap.getD_set_getD {α : Type} (m : AMap α) (k k' : Nat) (d : α) :
    AMap.getD (AMap.set m k (AMap.getD m k d)) k' d = AMap.getD m k' d := by
  by_cases h : k' = k
  · subst h; simp
  · simp [AMap.getD_set_of_ne, h]

/-- Two writes at one key: the second stands. -/
@[simp] theorem AMap.set_set {α : Type} (m : AMap α) (k : Nat) (x y : α) :
    AMap.set (AMap.set m k x) k y = AMap.set m k y := by
  induction m with
  | nil => simp [AMap.set]
  | cons e m ih =>
    obtain ⟨j, z⟩ := e
    simp only [AMap.set]
    split
    · simp [AMap.set]
    · split
      · simp [AMap.set]
      · simp [AMap.set, *]

/-! ### Ascending keys -/

/-- Keys strictly rise and are all above `lo`. -/
def AMap.risesFrom {α : Type} : Nat → AMap α → Bool
  | _, [] => true
  | lo, (k, _) :: m => decide (lo ≤ k) && AMap.risesFrom (k + 1) m

theorem AMap.risesFrom_set {α : Type} (m : AMap α) (k : Nat) (x : α) (lo : Nat) (h : AMap.risesFrom lo m = true)
    (hk : lo ≤ k) : AMap.risesFrom lo (AMap.set m k x) = true := by
  induction m generalizing lo with
  | nil => simp [AMap.set, AMap.risesFrom, hk]
  | cons e m ih =>
    obtain ⟨j, y⟩ := e
    simp only [AMap.risesFrom, Bool.and_eq_true, decide_eq_true_eq] at h
    simp only [AMap.set]
    split
    · rename_i hj
      subst hj
      simp [AMap.risesFrom, h]
    · split
      · simp [AMap.risesFrom, hk, h.2]; omega
      · simp only [AMap.risesFrom, Bool.and_eq_true, decide_eq_true_eq]
        exact ⟨h.1, ih _ h.2 (by omega)⟩

end Sys2Proof
end

