-- ==== Sys2Proof/Laws/State.lean ====
section
/-! SUPPORT. Laws of the state: what each update leaves of each field, and reads of cores, threads and registers after
writes. -/

namespace Sys2Proof.Machine

/-! ### setCore -/

@[simp] theorem State.setCore_time (s : State) (c : Nat) (x : Core) : (s.setCore c x).time = s.time := rfl
@[simp] theorem State.setCore_cur (s : State) (c : Nat) (x : Core) : (s.setCore c x).cur = s.cur := rfl
@[simp] theorem State.setCore_sched (s : State) (c : Nat) (x : Core) : (s.setCore c x).sched = s.sched := rfl
@[simp] theorem State.setCore_turn (s : State) (c : Nat) (x : Core) : (s.setCore c x).turn = s.turn := rfl
@[simp] theorem State.setCore_agenda (s : State) (c : Nat) (x : Core) : (s.setCore c x).agenda = s.agenda := rfl
@[simp] theorem State.setCore_free (s : State) (c : Nat) (x : Core) : (s.setCore c x).free = s.free := rfl
@[simp] theorem State.setCore_clusters (s : State) (c : Nat) (x : Core) : (s.setCore c x).clusters = s.clusters := rfl
@[simp] theorem State.setCore_dies (s : State) (c : Nat) (x : Core) : (s.setCore c x).dies = s.dies := rfl
@[simp] theorem State.setCore_mem (s : State) (c : Nat) (x : Core) : (s.setCore c x).mem = s.mem := rfl
@[simp] theorem State.setCore_disp (s : State) (c : Nat) (x : Core) : (s.setCore c x).disp = s.disp := rfl
@[simp] theorem State.setCore_chan (s : State) (c : Nat) (x : Core) : (s.setCore c x).chan = s.chan := rfl
@[simp] theorem State.setCore_mgmt (s : State) (c : Nat) (x : Core) : (s.setCore c x).mgmt = s.mgmt := rfl
@[simp] theorem State.setCore_stores (s : State) (c : Nat) (x : Core) : (s.setCore c x).stores = s.stores := rfl
@[simp] theorem State.setCore_counts (s : State) (c : Nat) (x : Core) : (s.setCore c x).counts = s.counts := rfl
@[simp] theorem State.setCore_net (s : State) (c : Nat) (x : Core) : (s.setCore c x).net = s.net := rfl
@[simp] theorem State.setCore_stor (s : State) (c : Nat) (x : Core) : (s.setCore c x).stor = s.stor := rfl
@[simp] theorem State.setCore_trust (s : State) (c : Nat) (x : Core) : (s.setCore c x).trust = s.trust := rfl

/-! ### modCore -/

@[simp] theorem State.modCore_time (s : State) (c : Nat) (f : Core → Core) : (s.modCore c f).time = s.time := rfl
@[simp] theorem State.modCore_cur (s : State) (c : Nat) (f : Core → Core) : (s.modCore c f).cur = s.cur := rfl
@[simp] theorem State.modCore_sched (s : State) (c : Nat) (f : Core → Core) : (s.modCore c f).sched = s.sched := rfl
@[simp] theorem State.modCore_turn (s : State) (c : Nat) (f : Core → Core) : (s.modCore c f).turn = s.turn := rfl
@[simp] theorem State.modCore_agenda (s : State) (c : Nat) (f : Core → Core) : (s.modCore c f).agenda = s.agenda := rfl
@[simp] theorem State.modCore_free (s : State) (c : Nat) (f : Core → Core) : (s.modCore c f).free = s.free := rfl
@[simp] theorem State.modCore_clusters (s : State) (c : Nat) (f : Core → Core) : (s.modCore c f).clusters = s.clusters := rfl
@[simp] theorem State.modCore_dies (s : State) (c : Nat) (f : Core → Core) : (s.modCore c f).dies = s.dies := rfl
@[simp] theorem State.modCore_mem (s : State) (c : Nat) (f : Core → Core) : (s.modCore c f).mem = s.mem := rfl
@[simp] theorem State.modCore_disp (s : State) (c : Nat) (f : Core → Core) : (s.modCore c f).disp = s.disp := rfl
@[simp] theorem State.modCore_chan (s : State) (c : Nat) (f : Core → Core) : (s.modCore c f).chan = s.chan := rfl
@[simp] theorem State.modCore_mgmt (s : State) (c : Nat) (f : Core → Core) : (s.modCore c f).mgmt = s.mgmt := rfl
@[simp] theorem State.modCore_stores (s : State) (c : Nat) (f : Core → Core) : (s.modCore c f).stores = s.stores := rfl
@[simp] theorem State.modCore_counts (s : State) (c : Nat) (f : Core → Core) : (s.modCore c f).counts = s.counts := rfl
@[simp] theorem State.modCore_net (s : State) (c : Nat) (f : Core → Core) : (s.modCore c f).net = s.net := rfl
@[simp] theorem State.modCore_stor (s : State) (c : Nat) (f : Core → Core) : (s.modCore c f).stor = s.stor := rfl
@[simp] theorem State.modCore_trust (s : State) (c : Nat) (f : Core → Core) : (s.modCore c f).trust = s.trust := rfl

/-! ### setThread -/

@[simp] theorem State.setThread_time (s : State) (c k : Nat) (t : Thread) : (s.setThread c k t).time = s.time := rfl
@[simp] theorem State.setThread_cur (s : State) (c k : Nat) (t : Thread) : (s.setThread c k t).cur = s.cur := rfl
@[simp] theorem State.setThread_sched (s : State) (c k : Nat) (t : Thread) : (s.setThread c k t).sched = s.sched := rfl
@[simp] theorem State.setThread_turn (s : State) (c k : Nat) (t : Thread) : (s.setThread c k t).turn = s.turn := rfl
@[simp] theorem State.setThread_agenda (s : State) (c k : Nat) (t : Thread) : (s.setThread c k t).agenda = s.agenda := rfl
@[simp] theorem State.setThread_free (s : State) (c k : Nat) (t : Thread) : (s.setThread c k t).free = s.free := rfl
@[simp] theorem State.setThread_clusters (s : State) (c k : Nat) (t : Thread) : (s.setThread c k t).clusters = s.clusters := rfl
@[simp] theorem State.setThread_dies (s : State) (c k : Nat) (t : Thread) : (s.setThread c k t).dies = s.dies := rfl
@[simp] theorem State.setThread_mem (s : State) (c k : Nat) (t : Thread) : (s.setThread c k t).mem = s.mem := rfl
@[simp] theorem State.setThread_disp (s : State) (c k : Nat) (t : Thread) : (s.setThread c k t).disp = s.disp := rfl
@[simp] theorem State.setThread_chan (s : State) (c k : Nat) (t : Thread) : (s.setThread c k t).chan = s.chan := rfl
@[simp] theorem State.setThread_mgmt (s : State) (c k : Nat) (t : Thread) : (s.setThread c k t).mgmt = s.mgmt := rfl
@[simp] theorem State.setThread_stores (s : State) (c k : Nat) (t : Thread) : (s.setThread c k t).stores = s.stores := rfl
@[simp] theorem State.setThread_counts (s : State) (c k : Nat) (t : Thread) : (s.setThread c k t).counts = s.counts := rfl
@[simp] theorem State.setThread_net (s : State) (c k : Nat) (t : Thread) : (s.setThread c k t).net = s.net := rfl
@[simp] theorem State.setThread_stor (s : State) (c k : Nat) (t : Thread) : (s.setThread c k t).stor = s.stor := rfl
@[simp] theorem State.setThread_trust (s : State) (c k : Nat) (t : Thread) : (s.setThread c k t).trust = s.trust := rfl

/-! ### modThread -/

@[simp] theorem State.modThread_time (s : State) (c k : Nat) (f : Thread → Thread) : (s.modThread c k f).time = s.time := rfl
@[simp] theorem State.modThread_cur (s : State) (c k : Nat) (f : Thread → Thread) : (s.modThread c k f).cur = s.cur := rfl
@[simp] theorem State.modThread_sched (s : State) (c k : Nat) (f : Thread → Thread) : (s.modThread c k f).sched = s.sched := rfl
@[simp] theorem State.modThread_turn (s : State) (c k : Nat) (f : Thread → Thread) : (s.modThread c k f).turn = s.turn := rfl
@[simp] theorem State.modThread_agenda (s : State) (c k : Nat) (f : Thread → Thread) : (s.modThread c k f).agenda = s.agenda := rfl
@[simp] theorem State.modThread_free (s : State) (c k : Nat) (f : Thread → Thread) : (s.modThread c k f).free = s.free := rfl
@[simp] theorem State.modThread_clusters (s : State) (c k : Nat) (f : Thread → Thread) : (s.modThread c k f).clusters = s.clusters := rfl
@[simp] theorem State.modThread_dies (s : State) (c k : Nat) (f : Thread → Thread) : (s.modThread c k f).dies = s.dies := rfl
@[simp] theorem State.modThread_mem (s : State) (c k : Nat) (f : Thread → Thread) : (s.modThread c k f).mem = s.mem := rfl
@[simp] theorem State.modThread_disp (s : State) (c k : Nat) (f : Thread → Thread) : (s.modThread c k f).disp = s.disp := rfl
@[simp] theorem State.modThread_chan (s : State) (c k : Nat) (f : Thread → Thread) : (s.modThread c k f).chan = s.chan := rfl
@[simp] theorem State.modThread_mgmt (s : State) (c k : Nat) (f : Thread → Thread) : (s.modThread c k f).mgmt = s.mgmt := rfl
@[simp] theorem State.modThread_stores (s : State) (c k : Nat) (f : Thread → Thread) : (s.modThread c k f).stores = s.stores := rfl
@[simp] theorem State.modThread_counts (s : State) (c k : Nat) (f : Thread → Thread) : (s.modThread c k f).counts = s.counts := rfl
@[simp] theorem State.modThread_net (s : State) (c k : Nat) (f : Thread → Thread) : (s.modThread c k f).net = s.net := rfl
@[simp] theorem State.modThread_stor (s : State) (c k : Nat) (f : Thread → Thread) : (s.modThread c k f).stor = s.stor := rfl
@[simp] theorem State.modThread_trust (s : State) (c k : Nat) (f : Thread → Thread) : (s.modThread c k f).trust = s.trust := rfl

/-! ### setMe -/

@[simp] theorem State.setMe_time (s : State) (t : Thread) : (s.setMe t).time = s.time := rfl
@[simp] theorem State.setMe_cur (s : State) (t : Thread) : (s.setMe t).cur = s.cur := rfl
@[simp] theorem State.setMe_sched (s : State) (t : Thread) : (s.setMe t).sched = s.sched := rfl
@[simp] theorem State.setMe_turn (s : State) (t : Thread) : (s.setMe t).turn = s.turn := rfl
@[simp] theorem State.setMe_agenda (s : State) (t : Thread) : (s.setMe t).agenda = s.agenda := rfl
@[simp] theorem State.setMe_free (s : State) (t : Thread) : (s.setMe t).free = s.free := rfl
@[simp] theorem State.setMe_clusters (s : State) (t : Thread) : (s.setMe t).clusters = s.clusters := rfl
@[simp] theorem State.setMe_dies (s : State) (t : Thread) : (s.setMe t).dies = s.dies := rfl
@[simp] theorem State.setMe_mem (s : State) (t : Thread) : (s.setMe t).mem = s.mem := rfl
@[simp] theorem State.setMe_disp (s : State) (t : Thread) : (s.setMe t).disp = s.disp := rfl
@[simp] theorem State.setMe_chan (s : State) (t : Thread) : (s.setMe t).chan = s.chan := rfl
@[simp] theorem State.setMe_mgmt (s : State) (t : Thread) : (s.setMe t).mgmt = s.mgmt := rfl
@[simp] theorem State.setMe_stores (s : State) (t : Thread) : (s.setMe t).stores = s.stores := rfl
@[simp] theorem State.setMe_counts (s : State) (t : Thread) : (s.setMe t).counts = s.counts := rfl
@[simp] theorem State.setMe_net (s : State) (t : Thread) : (s.setMe t).net = s.net := rfl
@[simp] theorem State.setMe_stor (s : State) (t : Thread) : (s.setMe t).stor = s.stor := rfl
@[simp] theorem State.setMe_trust (s : State) (t : Thread) : (s.setMe t).trust = s.trust := rfl

/-! ### modMe -/

@[simp] theorem State.modMe_time (s : State) (f : Thread → Thread) : (s.modMe f).time = s.time := rfl
@[simp] theorem State.modMe_cur (s : State) (f : Thread → Thread) : (s.modMe f).cur = s.cur := rfl
@[simp] theorem State.modMe_sched (s : State) (f : Thread → Thread) : (s.modMe f).sched = s.sched := rfl
@[simp] theorem State.modMe_turn (s : State) (f : Thread → Thread) : (s.modMe f).turn = s.turn := rfl
@[simp] theorem State.modMe_agenda (s : State) (f : Thread → Thread) : (s.modMe f).agenda = s.agenda := rfl
@[simp] theorem State.modMe_free (s : State) (f : Thread → Thread) : (s.modMe f).free = s.free := rfl
@[simp] theorem State.modMe_clusters (s : State) (f : Thread → Thread) : (s.modMe f).clusters = s.clusters := rfl
@[simp] theorem State.modMe_dies (s : State) (f : Thread → Thread) : (s.modMe f).dies = s.dies := rfl
@[simp] theorem State.modMe_mem (s : State) (f : Thread → Thread) : (s.modMe f).mem = s.mem := rfl
@[simp] theorem State.modMe_disp (s : State) (f : Thread → Thread) : (s.modMe f).disp = s.disp := rfl
@[simp] theorem State.modMe_chan (s : State) (f : Thread → Thread) : (s.modMe f).chan = s.chan := rfl
@[simp] theorem State.modMe_mgmt (s : State) (f : Thread → Thread) : (s.modMe f).mgmt = s.mgmt := rfl
@[simp] theorem State.modMe_stores (s : State) (f : Thread → Thread) : (s.modMe f).stores = s.stores := rfl
@[simp] theorem State.modMe_counts (s : State) (f : Thread → Thread) : (s.modMe f).counts = s.counts := rfl
@[simp] theorem State.modMe_net (s : State) (f : Thread → Thread) : (s.modMe f).net = s.net := rfl
@[simp] theorem State.modMe_stor (s : State) (f : Thread → Thread) : (s.modMe f).stor = s.stor := rfl
@[simp] theorem State.modMe_trust (s : State) (f : Thread → Thread) : (s.modMe f).trust = s.trust := rfl

/-! ### wrG -/

@[simp] theorem State.wrG_time (s : State) (r : Nat) (v : Word) : (s.wrG r v).time = s.time := rfl
@[simp] theorem State.wrG_cur (s : State) (r : Nat) (v : Word) : (s.wrG r v).cur = s.cur := rfl
@[simp] theorem State.wrG_sched (s : State) (r : Nat) (v : Word) : (s.wrG r v).sched = s.sched := rfl
@[simp] theorem State.wrG_turn (s : State) (r : Nat) (v : Word) : (s.wrG r v).turn = s.turn := rfl
@[simp] theorem State.wrG_agenda (s : State) (r : Nat) (v : Word) : (s.wrG r v).agenda = s.agenda := rfl
@[simp] theorem State.wrG_free (s : State) (r : Nat) (v : Word) : (s.wrG r v).free = s.free := rfl
@[simp] theorem State.wrG_clusters (s : State) (r : Nat) (v : Word) : (s.wrG r v).clusters = s.clusters := rfl
@[simp] theorem State.wrG_dies (s : State) (r : Nat) (v : Word) : (s.wrG r v).dies = s.dies := rfl
@[simp] theorem State.wrG_mem (s : State) (r : Nat) (v : Word) : (s.wrG r v).mem = s.mem := rfl
@[simp] theorem State.wrG_disp (s : State) (r : Nat) (v : Word) : (s.wrG r v).disp = s.disp := rfl
@[simp] theorem State.wrG_chan (s : State) (r : Nat) (v : Word) : (s.wrG r v).chan = s.chan := rfl
@[simp] theorem State.wrG_mgmt (s : State) (r : Nat) (v : Word) : (s.wrG r v).mgmt = s.mgmt := rfl
@[simp] theorem State.wrG_stores (s : State) (r : Nat) (v : Word) : (s.wrG r v).stores = s.stores := rfl
@[simp] theorem State.wrG_counts (s : State) (r : Nat) (v : Word) : (s.wrG r v).counts = s.counts := rfl
@[simp] theorem State.wrG_net (s : State) (r : Nat) (v : Word) : (s.wrG r v).net = s.net := rfl
@[simp] theorem State.wrG_stor (s : State) (r : Nat) (v : Word) : (s.wrG r v).stor = s.stor := rfl
@[simp] theorem State.wrG_trust (s : State) (r : Nat) (v : Word) : (s.wrG r v).trust = s.trust := rfl

/-! ### wrP -/

@[simp] theorem State.wrP_time (s : State) (r : Nat) (v : Bool) : (s.wrP r v).time = s.time := rfl
@[simp] theorem State.wrP_cur (s : State) (r : Nat) (v : Bool) : (s.wrP r v).cur = s.cur := rfl
@[simp] theorem State.wrP_sched (s : State) (r : Nat) (v : Bool) : (s.wrP r v).sched = s.sched := rfl
@[simp] theorem State.wrP_turn (s : State) (r : Nat) (v : Bool) : (s.wrP r v).turn = s.turn := rfl
@[simp] theorem State.wrP_agenda (s : State) (r : Nat) (v : Bool) : (s.wrP r v).agenda = s.agenda := rfl
@[simp] theorem State.wrP_free (s : State) (r : Nat) (v : Bool) : (s.wrP r v).free = s.free := rfl
@[simp] theorem State.wrP_clusters (s : State) (r : Nat) (v : Bool) : (s.wrP r v).clusters = s.clusters := rfl
@[simp] theorem State.wrP_dies (s : State) (r : Nat) (v : Bool) : (s.wrP r v).dies = s.dies := rfl
@[simp] theorem State.wrP_mem (s : State) (r : Nat) (v : Bool) : (s.wrP r v).mem = s.mem := rfl
@[simp] theorem State.wrP_disp (s : State) (r : Nat) (v : Bool) : (s.wrP r v).disp = s.disp := rfl
@[simp] theorem State.wrP_chan (s : State) (r : Nat) (v : Bool) : (s.wrP r v).chan = s.chan := rfl
@[simp] theorem State.wrP_mgmt (s : State) (r : Nat) (v : Bool) : (s.wrP r v).mgmt = s.mgmt := rfl
@[simp] theorem State.wrP_stores (s : State) (r : Nat) (v : Bool) : (s.wrP r v).stores = s.stores := rfl
@[simp] theorem State.wrP_counts (s : State) (r : Nat) (v : Bool) : (s.wrP r v).counts = s.counts := rfl
@[simp] theorem State.wrP_net (s : State) (r : Nat) (v : Bool) : (s.wrP r v).net = s.net := rfl
@[simp] theorem State.wrP_stor (s : State) (r : Nat) (v : Bool) : (s.wrP r v).stor = s.stor := rfl
@[simp] theorem State.wrP_trust (s : State) (r : Nat) (v : Bool) : (s.wrP r v).trust = s.trust := rfl

/-! ### wrB -/

@[simp] theorem State.wrB_time (s : State) (r : Nat) (v : BitVec 16) : (s.wrB r v).time = s.time := rfl
@[simp] theorem State.wrB_cur (s : State) (r : Nat) (v : BitVec 16) : (s.wrB r v).cur = s.cur := rfl
@[simp] theorem State.wrB_sched (s : State) (r : Nat) (v : BitVec 16) : (s.wrB r v).sched = s.sched := rfl
@[simp] theorem State.wrB_turn (s : State) (r : Nat) (v : BitVec 16) : (s.wrB r v).turn = s.turn := rfl
@[simp] theorem State.wrB_agenda (s : State) (r : Nat) (v : BitVec 16) : (s.wrB r v).agenda = s.agenda := rfl
@[simp] theorem State.wrB_free (s : State) (r : Nat) (v : BitVec 16) : (s.wrB r v).free = s.free := rfl
@[simp] theorem State.wrB_clusters (s : State) (r : Nat) (v : BitVec 16) : (s.wrB r v).clusters = s.clusters := rfl
@[simp] theorem State.wrB_dies (s : State) (r : Nat) (v : BitVec 16) : (s.wrB r v).dies = s.dies := rfl
@[simp] theorem State.wrB_mem (s : State) (r : Nat) (v : BitVec 16) : (s.wrB r v).mem = s.mem := rfl
@[simp] theorem State.wrB_disp (s : State) (r : Nat) (v : BitVec 16) : (s.wrB r v).disp = s.disp := rfl
@[simp] theorem State.wrB_chan (s : State) (r : Nat) (v : BitVec 16) : (s.wrB r v).chan = s.chan := rfl
@[simp] theorem State.wrB_mgmt (s : State) (r : Nat) (v : BitVec 16) : (s.wrB r v).mgmt = s.mgmt := rfl
@[simp] theorem State.wrB_stores (s : State) (r : Nat) (v : BitVec 16) : (s.wrB r v).stores = s.stores := rfl
@[simp] theorem State.wrB_counts (s : State) (r : Nat) (v : BitVec 16) : (s.wrB r v).counts = s.counts := rfl
@[simp] theorem State.wrB_net (s : State) (r : Nat) (v : BitVec 16) : (s.wrB r v).net = s.net := rfl
@[simp] theorem State.wrB_stor (s : State) (r : Nat) (v : BitVec 16) : (s.wrB r v).stor = s.stor := rfl
@[simp] theorem State.wrB_trust (s : State) (r : Nat) (v : BitVec 16) : (s.wrB r v).trust = s.trust := rfl

/-! ### setCluster -/

@[simp] theorem State.setCluster_time (s : State) (i : Nat) (x : Cluster) : (s.setCluster i x).time = s.time := rfl
@[simp] theorem State.setCluster_cur (s : State) (i : Nat) (x : Cluster) : (s.setCluster i x).cur = s.cur := rfl
@[simp] theorem State.setCluster_sched (s : State) (i : Nat) (x : Cluster) : (s.setCluster i x).sched = s.sched := rfl
@[simp] theorem State.setCluster_turn (s : State) (i : Nat) (x : Cluster) : (s.setCluster i x).turn = s.turn := rfl
@[simp] theorem State.setCluster_agenda (s : State) (i : Nat) (x : Cluster) : (s.setCluster i x).agenda = s.agenda := rfl
@[simp] theorem State.setCluster_free (s : State) (i : Nat) (x : Cluster) : (s.setCluster i x).free = s.free := rfl
@[simp] theorem State.setCluster_cores (s : State) (i : Nat) (x : Cluster) : (s.setCluster i x).cores = s.cores := rfl
@[simp] theorem State.setCluster_dies (s : State) (i : Nat) (x : Cluster) : (s.setCluster i x).dies = s.dies := rfl
@[simp] theorem State.setCluster_mem (s : State) (i : Nat) (x : Cluster) : (s.setCluster i x).mem = s.mem := rfl
@[simp] theorem State.setCluster_disp (s : State) (i : Nat) (x : Cluster) : (s.setCluster i x).disp = s.disp := rfl
@[simp] theorem State.setCluster_chan (s : State) (i : Nat) (x : Cluster) : (s.setCluster i x).chan = s.chan := rfl
@[simp] theorem State.setCluster_mgmt (s : State) (i : Nat) (x : Cluster) : (s.setCluster i x).mgmt = s.mgmt := rfl
@[simp] theorem State.setCluster_stores (s : State) (i : Nat) (x : Cluster) : (s.setCluster i x).stores = s.stores := rfl
@[simp] theorem State.setCluster_counts (s : State) (i : Nat) (x : Cluster) : (s.setCluster i x).counts = s.counts := rfl
@[simp] theorem State.setCluster_net (s : State) (i : Nat) (x : Cluster) : (s.setCluster i x).net = s.net := rfl
@[simp] theorem State.setCluster_stor (s : State) (i : Nat) (x : Cluster) : (s.setCluster i x).stor = s.stor := rfl
@[simp] theorem State.setCluster_trust (s : State) (i : Nat) (x : Cluster) : (s.setCluster i x).trust = s.trust := rfl

/-! ### modCluster -/

@[simp] theorem State.modCluster_time (s : State) (i : Nat) (f : Cluster → Cluster) : (s.modCluster i f).time = s.time := rfl
@[simp] theorem State.modCluster_cur (s : State) (i : Nat) (f : Cluster → Cluster) : (s.modCluster i f).cur = s.cur := rfl
@[simp] theorem State.modCluster_sched (s : State) (i : Nat) (f : Cluster → Cluster) : (s.modCluster i f).sched = s.sched := rfl
@[simp] theorem State.modCluster_turn (s : State) (i : Nat) (f : Cluster → Cluster) : (s.modCluster i f).turn = s.turn := rfl
@[simp] theorem State.modCluster_agenda (s : State) (i : Nat) (f : Cluster → Cluster) : (s.modCluster i f).agenda = s.agenda := rfl
@[simp] theorem State.modCluster_free (s : State) (i : Nat) (f : Cluster → Cluster) : (s.modCluster i f).free = s.free := rfl
@[simp] theorem State.modCluster_cores (s : State) (i : Nat) (f : Cluster → Cluster) : (s.modCluster i f).cores = s.cores := rfl
@[simp] theorem State.modCluster_dies (s : State) (i : Nat) (f : Cluster → Cluster) : (s.modCluster i f).dies = s.dies := rfl
@[simp] theorem State.modCluster_mem (s : State) (i : Nat) (f : Cluster → Cluster) : (s.modCluster i f).mem = s.mem := rfl
@[simp] theorem State.modCluster_disp (s : State) (i : Nat) (f : Cluster → Cluster) : (s.modCluster i f).disp = s.disp := rfl
@[simp] theorem State.modCluster_chan (s : State) (i : Nat) (f : Cluster → Cluster) : (s.modCluster i f).chan = s.chan := rfl
@[simp] theorem State.modCluster_mgmt (s : State) (i : Nat) (f : Cluster → Cluster) : (s.modCluster i f).mgmt = s.mgmt := rfl
@[simp] theorem State.modCluster_stores (s : State) (i : Nat) (f : Cluster → Cluster) : (s.modCluster i f).stores = s.stores := rfl
@[simp] theorem State.modCluster_counts (s : State) (i : Nat) (f : Cluster → Cluster) : (s.modCluster i f).counts = s.counts := rfl
@[simp] theorem State.modCluster_net (s : State) (i : Nat) (f : Cluster → Cluster) : (s.modCluster i f).net = s.net := rfl
@[simp] theorem State.modCluster_stor (s : State) (i : Nat) (f : Cluster → Cluster) : (s.modCluster i f).stor = s.stor := rfl
@[simp] theorem State.modCluster_trust (s : State) (i : Nat) (f : Cluster → Cluster) : (s.modCluster i f).trust = s.trust := rfl

/-! ### setDie -/

@[simp] theorem State.setDie_time (s : State) (i : Nat) (x : Die) : (s.setDie i x).time = s.time := rfl
@[simp] theorem State.setDie_cur (s : State) (i : Nat) (x : Die) : (s.setDie i x).cur = s.cur := rfl
@[simp] theorem State.setDie_sched (s : State) (i : Nat) (x : Die) : (s.setDie i x).sched = s.sched := rfl
@[simp] theorem State.setDie_turn (s : State) (i : Nat) (x : Die) : (s.setDie i x).turn = s.turn := rfl
@[simp] theorem State.setDie_agenda (s : State) (i : Nat) (x : Die) : (s.setDie i x).agenda = s.agenda := rfl
@[simp] theorem State.setDie_free (s : State) (i : Nat) (x : Die) : (s.setDie i x).free = s.free := rfl
@[simp] theorem State.setDie_cores (s : State) (i : Nat) (x : Die) : (s.setDie i x).cores = s.cores := rfl
@[simp] theorem State.setDie_clusters (s : State) (i : Nat) (x : Die) : (s.setDie i x).clusters = s.clusters := rfl
@[simp] theorem State.setDie_mem (s : State) (i : Nat) (x : Die) : (s.setDie i x).mem = s.mem := rfl
@[simp] theorem State.setDie_disp (s : State) (i : Nat) (x : Die) : (s.setDie i x).disp = s.disp := rfl
@[simp] theorem State.setDie_chan (s : State) (i : Nat) (x : Die) : (s.setDie i x).chan = s.chan := rfl
@[simp] theorem State.setDie_mgmt (s : State) (i : Nat) (x : Die) : (s.setDie i x).mgmt = s.mgmt := rfl
@[simp] theorem State.setDie_stores (s : State) (i : Nat) (x : Die) : (s.setDie i x).stores = s.stores := rfl
@[simp] theorem State.setDie_counts (s : State) (i : Nat) (x : Die) : (s.setDie i x).counts = s.counts := rfl
@[simp] theorem State.setDie_net (s : State) (i : Nat) (x : Die) : (s.setDie i x).net = s.net := rfl
@[simp] theorem State.setDie_stor (s : State) (i : Nat) (x : Die) : (s.setDie i x).stor = s.stor := rfl
@[simp] theorem State.setDie_trust (s : State) (i : Nat) (x : Die) : (s.setDie i x).trust = s.trust := rfl

/-! ### modDie -/

@[simp] theorem State.modDie_time (s : State) (i : Nat) (f : Die → Die) : (s.modDie i f).time = s.time := rfl
@[simp] theorem State.modDie_cur (s : State) (i : Nat) (f : Die → Die) : (s.modDie i f).cur = s.cur := rfl
@[simp] theorem State.modDie_sched (s : State) (i : Nat) (f : Die → Die) : (s.modDie i f).sched = s.sched := rfl
@[simp] theorem State.modDie_turn (s : State) (i : Nat) (f : Die → Die) : (s.modDie i f).turn = s.turn := rfl
@[simp] theorem State.modDie_agenda (s : State) (i : Nat) (f : Die → Die) : (s.modDie i f).agenda = s.agenda := rfl
@[simp] theorem State.modDie_free (s : State) (i : Nat) (f : Die → Die) : (s.modDie i f).free = s.free := rfl
@[simp] theorem State.modDie_cores (s : State) (i : Nat) (f : Die → Die) : (s.modDie i f).cores = s.cores := rfl
@[simp] theorem State.modDie_clusters (s : State) (i : Nat) (f : Die → Die) : (s.modDie i f).clusters = s.clusters := rfl
@[simp] theorem State.modDie_mem (s : State) (i : Nat) (f : Die → Die) : (s.modDie i f).mem = s.mem := rfl
@[simp] theorem State.modDie_disp (s : State) (i : Nat) (f : Die → Die) : (s.modDie i f).disp = s.disp := rfl
@[simp] theorem State.modDie_chan (s : State) (i : Nat) (f : Die → Die) : (s.modDie i f).chan = s.chan := rfl
@[simp] theorem State.modDie_mgmt (s : State) (i : Nat) (f : Die → Die) : (s.modDie i f).mgmt = s.mgmt := rfl
@[simp] theorem State.modDie_stores (s : State) (i : Nat) (f : Die → Die) : (s.modDie i f).stores = s.stores := rfl
@[simp] theorem State.modDie_counts (s : State) (i : Nat) (f : Die → Die) : (s.modDie i f).counts = s.counts := rfl
@[simp] theorem State.modDie_net (s : State) (i : Nat) (f : Die → Die) : (s.modDie i f).net = s.net := rfl
@[simp] theorem State.modDie_stor (s : State) (i : Nat) (f : Die → Die) : (s.modDie i f).stor = s.stor := rfl
@[simp] theorem State.modDie_trust (s : State) (i : Nat) (f : Die → Die) : (s.modDie i f).trust = s.trust := rfl

/-! ### modMem -/

@[simp] theorem State.modMem_time (s : State) (f : Memory → Memory) : (s.modMem f).time = s.time := rfl
@[simp] theorem State.modMem_cur (s : State) (f : Memory → Memory) : (s.modMem f).cur = s.cur := rfl
@[simp] theorem State.modMem_sched (s : State) (f : Memory → Memory) : (s.modMem f).sched = s.sched := rfl
@[simp] theorem State.modMem_turn (s : State) (f : Memory → Memory) : (s.modMem f).turn = s.turn := rfl
@[simp] theorem State.modMem_agenda (s : State) (f : Memory → Memory) : (s.modMem f).agenda = s.agenda := rfl
@[simp] theorem State.modMem_free (s : State) (f : Memory → Memory) : (s.modMem f).free = s.free := rfl
@[simp] theorem State.modMem_cores (s : State) (f : Memory → Memory) : (s.modMem f).cores = s.cores := rfl
@[simp] theorem State.modMem_clusters (s : State) (f : Memory → Memory) : (s.modMem f).clusters = s.clusters := rfl
@[simp] theorem State.modMem_dies (s : State) (f : Memory → Memory) : (s.modMem f).dies = s.dies := rfl
@[simp] theorem State.modMem_disp (s : State) (f : Memory → Memory) : (s.modMem f).disp = s.disp := rfl
@[simp] theorem State.modMem_chan (s : State) (f : Memory → Memory) : (s.modMem f).chan = s.chan := rfl
@[simp] theorem State.modMem_mgmt (s : State) (f : Memory → Memory) : (s.modMem f).mgmt = s.mgmt := rfl
@[simp] theorem State.modMem_stores (s : State) (f : Memory → Memory) : (s.modMem f).stores = s.stores := rfl
@[simp] theorem State.modMem_counts (s : State) (f : Memory → Memory) : (s.modMem f).counts = s.counts := rfl
@[simp] theorem State.modMem_net (s : State) (f : Memory → Memory) : (s.modMem f).net = s.net := rfl
@[simp] theorem State.modMem_stor (s : State) (f : Memory → Memory) : (s.modMem f).stor = s.stor := rfl
@[simp] theorem State.modMem_trust (s : State) (f : Memory → Memory) : (s.modMem f).trust = s.trust := rfl

/-! ### modDisp -/

@[simp] theorem State.modDisp_time (s : State) (f : Disp → Disp) : (s.modDisp f).time = s.time := rfl
@[simp] theorem State.modDisp_cur (s : State) (f : Disp → Disp) : (s.modDisp f).cur = s.cur := rfl
@[simp] theorem State.modDisp_sched (s : State) (f : Disp → Disp) : (s.modDisp f).sched = s.sched := rfl
@[simp] theorem State.modDisp_turn (s : State) (f : Disp → Disp) : (s.modDisp f).turn = s.turn := rfl
@[simp] theorem State.modDisp_agenda (s : State) (f : Disp → Disp) : (s.modDisp f).agenda = s.agenda := rfl
@[simp] theorem State.modDisp_free (s : State) (f : Disp → Disp) : (s.modDisp f).free = s.free := rfl
@[simp] theorem State.modDisp_cores (s : State) (f : Disp → Disp) : (s.modDisp f).cores = s.cores := rfl
@[simp] theorem State.modDisp_clusters (s : State) (f : Disp → Disp) : (s.modDisp f).clusters = s.clusters := rfl
@[simp] theorem State.modDisp_dies (s : State) (f : Disp → Disp) : (s.modDisp f).dies = s.dies := rfl
@[simp] theorem State.modDisp_mem (s : State) (f : Disp → Disp) : (s.modDisp f).mem = s.mem := rfl
@[simp] theorem State.modDisp_chan (s : State) (f : Disp → Disp) : (s.modDisp f).chan = s.chan := rfl
@[simp] theorem State.modDisp_mgmt (s : State) (f : Disp → Disp) : (s.modDisp f).mgmt = s.mgmt := rfl
@[simp] theorem State.modDisp_stores (s : State) (f : Disp → Disp) : (s.modDisp f).stores = s.stores := rfl
@[simp] theorem State.modDisp_counts (s : State) (f : Disp → Disp) : (s.modDisp f).counts = s.counts := rfl
@[simp] theorem State.modDisp_net (s : State) (f : Disp → Disp) : (s.modDisp f).net = s.net := rfl
@[simp] theorem State.modDisp_stor (s : State) (f : Disp → Disp) : (s.modDisp f).stor = s.stor := rfl
@[simp] theorem State.modDisp_trust (s : State) (f : Disp → Disp) : (s.modDisp f).trust = s.trust := rfl

/-! ### modMgmt -/

@[simp] theorem State.modMgmt_time (s : State) (f : Mgmt → Mgmt) : (s.modMgmt f).time = s.time := rfl
@[simp] theorem State.modMgmt_cur (s : State) (f : Mgmt → Mgmt) : (s.modMgmt f).cur = s.cur := rfl
@[simp] theorem State.modMgmt_sched (s : State) (f : Mgmt → Mgmt) : (s.modMgmt f).sched = s.sched := rfl
@[simp] theorem State.modMgmt_turn (s : State) (f : Mgmt → Mgmt) : (s.modMgmt f).turn = s.turn := rfl
@[simp] theorem State.modMgmt_agenda (s : State) (f : Mgmt → Mgmt) : (s.modMgmt f).agenda = s.agenda := rfl
@[simp] theorem State.modMgmt_free (s : State) (f : Mgmt → Mgmt) : (s.modMgmt f).free = s.free := rfl
@[simp] theorem State.modMgmt_cores (s : State) (f : Mgmt → Mgmt) : (s.modMgmt f).cores = s.cores := rfl
@[simp] theorem State.modMgmt_clusters (s : State) (f : Mgmt → Mgmt) : (s.modMgmt f).clusters = s.clusters := rfl
@[simp] theorem State.modMgmt_dies (s : State) (f : Mgmt → Mgmt) : (s.modMgmt f).dies = s.dies := rfl
@[simp] theorem State.modMgmt_mem (s : State) (f : Mgmt → Mgmt) : (s.modMgmt f).mem = s.mem := rfl
@[simp] theorem State.modMgmt_disp (s : State) (f : Mgmt → Mgmt) : (s.modMgmt f).disp = s.disp := rfl
@[simp] theorem State.modMgmt_chan (s : State) (f : Mgmt → Mgmt) : (s.modMgmt f).chan = s.chan := rfl
@[simp] theorem State.modMgmt_stores (s : State) (f : Mgmt → Mgmt) : (s.modMgmt f).stores = s.stores := rfl
@[simp] theorem State.modMgmt_counts (s : State) (f : Mgmt → Mgmt) : (s.modMgmt f).counts = s.counts := rfl
@[simp] theorem State.modMgmt_net (s : State) (f : Mgmt → Mgmt) : (s.modMgmt f).net = s.net := rfl
@[simp] theorem State.modMgmt_stor (s : State) (f : Mgmt → Mgmt) : (s.modMgmt f).stor = s.stor := rfl
@[simp] theorem State.modMgmt_trust (s : State) (f : Mgmt → Mgmt) : (s.modMgmt f).trust = s.trust := rfl

/-! ### setStore -/

@[simp] theorem State.setStore_time (s : State) (i : Nat) (x : Store) : (s.setStore i x).time = s.time := rfl
@[simp] theorem State.setStore_cur (s : State) (i : Nat) (x : Store) : (s.setStore i x).cur = s.cur := rfl
@[simp] theorem State.setStore_sched (s : State) (i : Nat) (x : Store) : (s.setStore i x).sched = s.sched := rfl
@[simp] theorem State.setStore_turn (s : State) (i : Nat) (x : Store) : (s.setStore i x).turn = s.turn := rfl
@[simp] theorem State.setStore_agenda (s : State) (i : Nat) (x : Store) : (s.setStore i x).agenda = s.agenda := rfl
@[simp] theorem State.setStore_free (s : State) (i : Nat) (x : Store) : (s.setStore i x).free = s.free := rfl
@[simp] theorem State.setStore_cores (s : State) (i : Nat) (x : Store) : (s.setStore i x).cores = s.cores := rfl
@[simp] theorem State.setStore_clusters (s : State) (i : Nat) (x : Store) : (s.setStore i x).clusters = s.clusters := rfl
@[simp] theorem State.setStore_dies (s : State) (i : Nat) (x : Store) : (s.setStore i x).dies = s.dies := rfl
@[simp] theorem State.setStore_mem (s : State) (i : Nat) (x : Store) : (s.setStore i x).mem = s.mem := rfl
@[simp] theorem State.setStore_disp (s : State) (i : Nat) (x : Store) : (s.setStore i x).disp = s.disp := rfl
@[simp] theorem State.setStore_chan (s : State) (i : Nat) (x : Store) : (s.setStore i x).chan = s.chan := rfl
@[simp] theorem State.setStore_mgmt (s : State) (i : Nat) (x : Store) : (s.setStore i x).mgmt = s.mgmt := rfl
@[simp] theorem State.setStore_counts (s : State) (i : Nat) (x : Store) : (s.setStore i x).counts = s.counts := rfl
@[simp] theorem State.setStore_net (s : State) (i : Nat) (x : Store) : (s.setStore i x).net = s.net := rfl
@[simp] theorem State.setStore_stor (s : State) (i : Nat) (x : Store) : (s.setStore i x).stor = s.stor := rfl
@[simp] theorem State.setStore_trust (s : State) (i : Nat) (x : Store) : (s.setStore i x).trust = s.trust := rfl

@[simp] theorem State.modMem_mem (s : State) (f : Memory → Memory) : (s.modMem f).mem = f s.mem := rfl
@[simp] theorem State.modDisp_disp (s : State) (f : Disp → Disp) : (s.modDisp f).disp = f s.disp := rfl
@[simp] theorem State.modMgmt_mgmt (s : State) (f : Mgmt → Mgmt) : (s.modMgmt f).mgmt = f s.mgmt := rfl

/-! ### Slots of a core -/

@[simp] theorem Core.slot_setSlot_self (x : Core) (k : Nat) (t : Thread) : (x.setSlot k t).slot k = t := by
  simp [Core.slot, Core.setSlot]

theorem Core.slot_setSlot_of_ne (x : Core) {k k' : Nat} (t : Thread) (h : k' ≠ k) :
    (x.setSlot k t).slot k' = x.slot k' := by
  simp [Core.slot, Core.setSlot, AMap.getD_set_of_ne _ _ _ h]

/-! ### Cores and threads -/

@[simp] theorem State.core_setCore_self (s : State) (c : Nat) (x : Core) : (s.setCore c x).core c = x := by
  simp [State.core, State.setCore]

theorem State.core_setCore_of_ne (s : State) {c c' : Nat} (x : Core) (h : c' ≠ c) :
    (s.setCore c x).core c' = s.core c' := by
  simp [State.core, State.setCore, AMap.getD_set_of_ne _ _ _ h]

@[simp] theorem State.core_modCore_self (s : State) (c : Nat) (f : Core → Core) : (s.modCore c f).core c = f (s.core c) := by
  simp [State.modCore]

theorem State.core_modCore_of_ne (s : State) {c c' : Nat} (f : Core → Core) (h : c' ≠ c) :
    (s.modCore c f).core c' = s.core c' := State.core_setCore_of_ne s _ h

@[simp] theorem State.thread_setThread_self (s : State) (c k : Nat) (t : Thread) : (s.setThread c k t).thread c k = t := by
  simp [State.thread, State.setThread]

theorem State.thread_setThread_of_ne (s : State) {c k c' k' : Nat} (t : Thread) (h : (c', k') ≠ (c, k)) :
    (s.setThread c k t).thread c' k' = s.thread c' k' := by
  by_cases hc : c' = c
  · subst hc
    have hk : k' ≠ k := fun e => h (by rw [e])
    simp [State.thread, State.setThread, Core.slot_setSlot_of_ne _ _ hk]
  · simp [State.thread, State.setThread, State.core_setCore_of_ne _ _ hc]

@[simp] theorem State.thread_modThread_self (s : State) (c k : Nat) (f : Thread → Thread) :
    (s.modThread c k f).thread c k = f (s.thread c k) := by
  simp [State.modThread]

theorem State.thread_modThread_of_ne (s : State) {c k c' k' : Nat} (f : Thread → Thread) (h : (c', k') ≠ (c, k)) :
    (s.modThread c k f).thread c' k' = s.thread c' k' := State.thread_setThread_of_ne s _ h

@[simp] theorem State.me_setMe (s : State) (t : Thread) : (s.setMe t).me = t := by
  simp [State.me, State.setMe]

@[simp] theorem State.me_modMe (s : State) (f : Thread → Thread) : (s.modMe f).me = f s.me := by
  simp [State.modMe]

theorem State.me_eq (s : State) : s.thread s.cur.1 s.cur.2 = s.me := rfl

/-- A thread update leaves everything of its core but the slots. -/
theorem State.core_modThread_self (s : State) (c k : Nat) (f : Thread → Thread) :
    (s.modThread c k f).core c = (s.core c).setSlot k (f (s.thread c k)) := by
  simp [State.modThread, State.setThread]

theorem State.core_modThread_of_ne (s : State) {c c' : Nat} (k : Nat) (f : Thread → Thread) (h : c' ≠ c) :
    (s.modThread c k f).core c' = s.core c' := State.core_setCore_of_ne s _ h

/-! ### Registers -/

@[simp] theorem Thread.rdG_zero (t : Thread) : t.rdG 0 = 0 := rfl
@[simp] theorem Thread.rdP_zero (t : Thread) : t.rdP 0 = true := rfl
@[simp] theorem Thread.rdB_zero (t : Thread) : t.rdB 0 = 0x8000 := rfl
@[simp] theorem Thread.wrG_zero (t : Thread) (v : Word) : t.wrG 0 v = t := rfl
@[simp] theorem Thread.wrP_zero (t : Thread) (v : Bool) : t.wrP 0 v = t := rfl
@[simp] theorem Thread.wrB_zero (t : Thread) (v : BitVec 16) : t.wrB 0 v = t := rfl

theorem Thread.rdG_wrG_self (t : Thread) {r : Nat} (v : Word) (h : r ≠ 0) : (t.wrG r v).rdG r = v := by
  simp [Thread.rdG, Thread.wrG, h]

theorem Thread.rdG_wrG_of_ne (t : Thread) {r r' : Nat} (v : Word) (h : r' ≠ r) : (t.wrG r v).rdG r' = t.rdG r' := by
  by_cases hr : r = 0
  · subst hr; rfl
  · simp [Thread.rdG, Thread.wrG, hr, AMap.getD_set_of_ne _ _ _ h]

theorem Thread.rdP_wrP_self (t : Thread) {r : Nat} (v : Bool) (h : r ≠ 0) : (t.wrP r v).rdP r = v := by
  simp [Thread.rdP, Thread.wrP, h]

theorem Thread.rdP_wrP_of_ne (t : Thread) {r r' : Nat} (v : Bool) (h : r' ≠ r) : (t.wrP r v).rdP r' = t.rdP r' := by
  by_cases hr : r = 0
  · subst hr; rfl
  · simp [Thread.rdP, Thread.wrP, hr, AMap.getD_set_of_ne _ _ _ h]

theorem Thread.rdB_wrB_self (t : Thread) {r : Nat} (v : BitVec 16) (h : r ≠ 0) : (t.wrB r v).rdB r = budgetMask v := by
  simp [Thread.rdB, Thread.wrB, h]

theorem Thread.rdB_wrB_of_ne (t : Thread) {r r' : Nat} (v : BitVec 16) (h : r' ≠ r) : (t.wrB r v).rdB r' = t.rdB r' := by
  by_cases hr : r = 0
  · subst hr; rfl
  · simp [Thread.rdB, Thread.wrB, hr, AMap.getD_set_of_ne _ _ _ h]

@[simp] theorem Thread.rdV_wrV_self (t : Thread) (r : Nat) (v : VVal) : (t.wrV r v).rdV r = v := by
  simp [Thread.rdV, Thread.wrV]

theorem Thread.rdV_wrV_of_ne (t : Thread) {r r' : Nat} (v : VVal) (h : r' ≠ r) : (t.wrV r v).rdV r' = t.rdV r' := by
  simp [Thread.rdV, Thread.wrV, AMap.getD_set_of_ne _ _ _ h]

/-! ### What a register write leaves of a thread -/

@[simp] theorem Thread.wrG_v (t : Thread) (r : Nat) (v : Word) : (t.wrG r v).v = t.v := by
  unfold Thread.wrG; split <;> rfl
@[simp] theorem Thread.wrG_p (t : Thread) (r : Nat) (v : Word) : (t.wrG r v).p = t.p := by
  unfold Thread.wrG; split <;> rfl
@[simp] theorem Thread.wrG_b (t : Thread) (r : Nat) (v : Word) : (t.wrG r v).b = t.b := by
  unfold Thread.wrG; split <;> rfl
@[simp] theorem Thread.wrG_pc (t : Thread) (r : Nat) (v : Word) : (t.wrG r v).pc = t.pc := by
  unfold Thread.wrG; split <;> rfl
@[simp] theorem Thread.wrG_priv (t : Thread) (r : Nat) (v : Word) : (t.wrG r v).priv = t.priv := by
  unfold Thread.wrG; split <;> rfl
@[simp] theorem Thread.wrG_ctl (t : Thread) (r : Nat) (v : Word) : (t.wrG r v).ctl = t.ctl := by
  unfold Thread.wrG; split <;> rfl
@[simp] theorem Thread.wrG_tol (t : Thread) (r : Nat) (v : Word) : (t.wrG r v).tol = t.tol := by
  unfold Thread.wrG; split <;> rfl
@[simp] theorem Thread.wrG_place (t : Thread) (r : Nat) (v : Word) : (t.wrG r v).place = t.place := by
  unfold Thread.wrG; split <;> rfl
@[simp] theorem Thread.wrG_rgn (t : Thread) (r : Nat) (v : Word) : (t.wrG r v).rgn = t.rgn := by
  unfold Thread.wrG; split <;> rfl
@[simp] theorem Thread.wrG_wq (t : Thread) (r : Nat) (v : Word) : (t.wrG r v).wq = t.wq := by
  unfold Thread.wrG; split <;> rfl
@[simp] theorem Thread.wrG_dests (t : Thread) (r : Nat) (v : Word) : (t.wrG r v).dests = t.dests := by
  unfold Thread.wrG; split <;> rfl
@[simp] theorem Thread.wrG_rel (t : Thread) (r : Nat) (v : Word) : (t.wrG r v).rel = t.rel := by
  unfold Thread.wrG; split <;> rfl
@[simp] theorem Thread.wrG_gens (t : Thread) (r : Nat) (v : Word) : (t.wrG r v).gens = t.gens := by
  unfold Thread.wrG; split <;> rfl
@[simp] theorem Thread.wrG_streams (t : Thread) (r : Nat) (v : Word) : (t.wrG r v).streams = t.streams := by
  unfold Thread.wrG; split <;> rfl
@[simp] theorem Thread.wrG_rpt (t : Thread) (r : Nat) (v : Word) : (t.wrG r v).rpt = t.rpt := by
  unfold Thread.wrG; split <;> rfl
@[simp] theorem Thread.wrG_ppoison (t : Thread) (r : Nat) (v : Word) : (t.wrG r v).ppoison = t.ppoison := by
  unfold Thread.wrG; split <;> rfl
@[simp] theorem Thread.wrG_answer (t : Thread) (r : Nat) (v : Word) : (t.wrG r v).answer = t.answer := by
  unfold Thread.wrG; split <;> rfl
@[simp] theorem Thread.wrG_status (t : Thread) (r : Nat) (v : Word) : (t.wrG r v).status = t.status := by
  unfold Thread.wrG; split <;> rfl
@[simp] theorem Thread.wrG_inStub (t : Thread) (r : Nat) (v : Word) : (t.wrG r v).inStub = t.inStub := by
  unfold Thread.wrG; split <;> rfl
@[simp] theorem Thread.wrG_fresh (t : Thread) (r : Nat) (v : Word) : (t.wrG r v).fresh = t.fresh := by
  unfold Thread.wrG; split <;> rfl
@[simp] theorem Thread.wrG_msgCount (t : Thread) (r : Nat) (v : Word) : (t.wrG r v).msgCount = t.msgCount := by
  unfold Thread.wrG; split <;> rfl
@[simp] theorem Thread.wrG_pend (t : Thread) (r : Nat) (v : Word) : (t.wrG r v).pend = t.pend := by
  unfold Thread.wrG; split <;> rfl
@[simp] theorem Thread.wrG_jobs (t : Thread) (r : Nat) (v : Word) : (t.wrG r v).jobs = t.jobs := by
  unfold Thread.wrG; split <;> rfl
@[simp] theorem Thread.wrG_ren (t : Thread) (r : Nat) (v : Word) : (t.wrG r v).ren = t.ren := by
  unfold Thread.wrG; split <;> rfl
@[simp] theorem Thread.wrG_tilesOut (t : Thread) (r : Nat) (v : Word) : (t.wrG r v).tilesOut = t.tilesOut := by
  unfold Thread.wrG; split <;> rfl
@[simp] theorem Thread.wrG_tilesAns (t : Thread) (r : Nat) (v : Word) : (t.wrG r v).tilesAns = t.tilesAns := by
  unfold Thread.wrG; split <;> rfl
@[simp] theorem Thread.wrG_fwd (t : Thread) (r : Nat) (v : Word) : (t.wrG r v).fwd = t.fwd := by
  unfold Thread.wrG; split <;> rfl
@[simp] theorem Thread.wrG_hold (t : Thread) (r : Nat) (v : Word) : (t.wrG r v).hold = t.hold := by
  unfold Thread.wrG; split <;> rfl
@[simp] theorem Thread.wrG_solo (t : Thread) (r : Nat) (v : Word) : (t.wrG r v).solo = t.solo := by
  unfold Thread.wrG; split <;> rfl
@[simp] theorem Thread.wrG_fwdSent (t : Thread) (r : Nat) (v : Word) : (t.wrG r v).fwdSent = t.fwdSent := by
  unfold Thread.wrG; split <;> rfl
@[simp] theorem Thread.wrG_declined (t : Thread) (r : Nat) (v : Word) : (t.wrG r v).declined = t.declined := by
  unfold Thread.wrG; split <;> rfl
@[simp] theorem Thread.wrG_cn (t : Thread) (r : Nat) (v : Word) : (t.wrG r v).cn = t.cn := by
  unfold Thread.wrG; split <;> rfl
@[simp] theorem Thread.wrG_launchRes (t : Thread) (r : Nat) (v : Word) : (t.wrG r v).launchRes = t.launchRes := by
  unfold Thread.wrG; split <;> rfl
@[simp] theorem Thread.wrG_fatalRet (t : Thread) (r : Nat) (v : Word) : (t.wrG r v).fatalRet = t.fatalRet := by
  unfold Thread.wrG; split <;> rfl
@[simp] theorem Thread.wrP_g (t : Thread) (r : Nat) (v : Bool) : (t.wrP r v).g = t.g := by
  unfold Thread.wrP; split <;> rfl
@[simp] theorem Thread.wrP_v (t : Thread) (r : Nat) (v : Bool) : (t.wrP r v).v = t.v := by
  unfold Thread.wrP; split <;> rfl
@[simp] theorem Thread.wrP_b (t : Thread) (r : Nat) (v : Bool) : (t.wrP r v).b = t.b := by
  unfold Thread.wrP; split <;> rfl
@[simp] theorem Thread.wrP_pc (t : Thread) (r : Nat) (v : Bool) : (t.wrP r v).pc = t.pc := by
  unfold Thread.wrP; split <;> rfl
@[simp] theorem Thread.wrP_priv (t : Thread) (r : Nat) (v : Bool) : (t.wrP r v).priv = t.priv := by
  unfold Thread.wrP; split <;> rfl
@[simp] theorem Thread.wrP_ctl (t : Thread) (r : Nat) (v : Bool) : (t.wrP r v).ctl = t.ctl := by
  unfold Thread.wrP; split <;> rfl
@[simp] theorem Thread.wrP_tol (t : Thread) (r : Nat) (v : Bool) : (t.wrP r v).tol = t.tol := by
  unfold Thread.wrP; split <;> rfl
@[simp] theorem Thread.wrP_place (t : Thread) (r : Nat) (v : Bool) : (t.wrP r v).place = t.place := by
  unfold Thread.wrP; split <;> rfl
@[simp] theorem Thread.wrP_rgn (t : Thread) (r : Nat) (v : Bool) : (t.wrP r v).rgn = t.rgn := by
  unfold Thread.wrP; split <;> rfl
@[simp] theorem Thread.wrP_wq (t : Thread) (r : Nat) (v : Bool) : (t.wrP r v).wq = t.wq := by
  unfold Thread.wrP; split <;> rfl
@[simp] theorem Thread.wrP_dests (t : Thread) (r : Nat) (v : Bool) : (t.wrP r v).dests = t.dests := by
  unfold Thread.wrP; split <;> rfl
@[simp] theorem Thread.wrP_rel (t : Thread) (r : Nat) (v : Bool) : (t.wrP r v).rel = t.rel := by
  unfold Thread.wrP; split <;> rfl
@[simp] theorem Thread.wrP_gens (t : Thread) (r : Nat) (v : Bool) : (t.wrP r v).gens = t.gens := by
  unfold Thread.wrP; split <;> rfl
@[simp] theorem Thread.wrP_streams (t : Thread) (r : Nat) (v : Bool) : (t.wrP r v).streams = t.streams := by
  unfold Thread.wrP; split <;> rfl
@[simp] theorem Thread.wrP_rpt (t : Thread) (r : Nat) (v : Bool) : (t.wrP r v).rpt = t.rpt := by
  unfold Thread.wrP; split <;> rfl
@[simp] theorem Thread.wrP_ppoison (t : Thread) (r : Nat) (v : Bool) : (t.wrP r v).ppoison = t.ppoison := by
  unfold Thread.wrP; split <;> rfl
@[simp] theorem Thread.wrP_answer (t : Thread) (r : Nat) (v : Bool) : (t.wrP r v).answer = t.answer := by
  unfold Thread.wrP; split <;> rfl
@[simp] theorem Thread.wrP_status (t : Thread) (r : Nat) (v : Bool) : (t.wrP r v).status = t.status := by
  unfold Thread.wrP; split <;> rfl
@[simp] theorem Thread.wrP_inStub (t : Thread) (r : Nat) (v : Bool) : (t.wrP r v).inStub = t.inStub := by
  unfold Thread.wrP; split <;> rfl
@[simp] theorem Thread.wrP_fresh (t : Thread) (r : Nat) (v : Bool) : (t.wrP r v).fresh = t.fresh := by
  unfold Thread.wrP; split <;> rfl
@[simp] theorem Thread.wrP_msgCount (t : Thread) (r : Nat) (v : Bool) : (t.wrP r v).msgCount = t.msgCount := by
  unfold Thread.wrP; split <;> rfl
@[simp] theorem Thread.wrP_pend (t : Thread) (r : Nat) (v : Bool) : (t.wrP r v).pend = t.pend := by
  unfold Thread.wrP; split <;> rfl
@[simp] theorem Thread.wrP_jobs (t : Thread) (r : Nat) (v : Bool) : (t.wrP r v).jobs = t.jobs := by
  unfold Thread.wrP; split <;> rfl
@[simp] theorem Thread.wrP_ren (t : Thread) (r : Nat) (v : Bool) : (t.wrP r v).ren = t.ren := by
  unfold Thread.wrP; split <;> rfl
@[simp] theorem Thread.wrP_tilesOut (t : Thread) (r : Nat) (v : Bool) : (t.wrP r v).tilesOut = t.tilesOut := by
  unfold Thread.wrP; split <;> rfl
@[simp] theorem Thread.wrP_tilesAns (t : Thread) (r : Nat) (v : Bool) : (t.wrP r v).tilesAns = t.tilesAns := by
  unfold Thread.wrP; split <;> rfl
@[simp] theorem Thread.wrP_fwd (t : Thread) (r : Nat) (v : Bool) : (t.wrP r v).fwd = t.fwd := by
  unfold Thread.wrP; split <;> rfl
@[simp] theorem Thread.wrP_hold (t : Thread) (r : Nat) (v : Bool) : (t.wrP r v).hold = t.hold := by
  unfold Thread.wrP; split <;> rfl
@[simp] theorem Thread.wrP_solo (t : Thread) (r : Nat) (v : Bool) : (t.wrP r v).solo = t.solo := by
  unfold Thread.wrP; split <;> rfl
@[simp] theorem Thread.wrP_fwdSent (t : Thread) (r : Nat) (v : Bool) : (t.wrP r v).fwdSent = t.fwdSent := by
  unfold Thread.wrP; split <;> rfl
@[simp] theorem Thread.wrP_declined (t : Thread) (r : Nat) (v : Bool) : (t.wrP r v).declined = t.declined := by
  unfold Thread.wrP; split <;> rfl
@[simp] theorem Thread.wrP_cn (t : Thread) (r : Nat) (v : Bool) : (t.wrP r v).cn = t.cn := by
  unfold Thread.wrP; split <;> rfl
@[simp] theorem Thread.wrP_launchRes (t : Thread) (r : Nat) (v : Bool) : (t.wrP r v).launchRes = t.launchRes := by
  unfold Thread.wrP; split <;> rfl
@[simp] theorem Thread.wrP_fatalRet (t : Thread) (r : Nat) (v : Bool) : (t.wrP r v).fatalRet = t.fatalRet := by
  unfold Thread.wrP; split <;> rfl
@[simp] theorem Thread.wrB_g (t : Thread) (r : Nat) (v : BitVec 16) : (t.wrB r v).g = t.g := by
  unfold Thread.wrB; split <;> rfl
@[simp] theorem Thread.wrB_v (t : Thread) (r : Nat) (v : BitVec 16) : (t.wrB r v).v = t.v := by
  unfold Thread.wrB; split <;> rfl
@[simp] theorem Thread.wrB_p (t : Thread) (r : Nat) (v : BitVec 16) : (t.wrB r v).p = t.p := by
  unfold Thread.wrB; split <;> rfl
@[simp] theorem Thread.wrB_pc (t : Thread) (r : Nat) (v : BitVec 16) : (t.wrB r v).pc = t.pc := by
  unfold Thread.wrB; split <;> rfl
@[simp] theorem Thread.wrB_priv (t : Thread) (r : Nat) (v : BitVec 16) : (t.wrB r v).priv = t.priv := by
  unfold Thread.wrB; split <;> rfl
@[simp] theorem Thread.wrB_ctl (t : Thread) (r : Nat) (v : BitVec 16) : (t.wrB r v).ctl = t.ctl := by
  unfold Thread.wrB; split <;> rfl
@[simp] theorem Thread.wrB_tol (t : Thread) (r : Nat) (v : BitVec 16) : (t.wrB r v).tol = t.tol := by
  unfold Thread.wrB; split <;> rfl
@[simp] theorem Thread.wrB_place (t : Thread) (r : Nat) (v : BitVec 16) : (t.wrB r v).place = t.place := by
  unfold Thread.wrB; split <;> rfl
@[simp] theorem Thread.wrB_rgn (t : Thread) (r : Nat) (v : BitVec 16) : (t.wrB r v).rgn = t.rgn := by
  unfold Thread.wrB; split <;> rfl
@[simp] theorem Thread.wrB_wq (t : Thread) (r : Nat) (v : BitVec 16) : (t.wrB r v).wq = t.wq := by
  unfold Thread.wrB; split <;> rfl
@[simp] theorem Thread.wrB_dests (t : Thread) (r : Nat) (v : BitVec 16) : (t.wrB r v).dests = t.dests := by
  unfold Thread.wrB; split <;> rfl
@[simp] theorem Thread.wrB_rel (t : Thread) (r : Nat) (v : BitVec 16) : (t.wrB r v).rel = t.rel := by
  unfold Thread.wrB; split <;> rfl
@[simp] theorem Thread.wrB_gens (t : Thread) (r : Nat) (v : BitVec 16) : (t.wrB r v).gens = t.gens := by
  unfold Thread.wrB; split <;> rfl
@[simp] theorem Thread.wrB_streams (t : Thread) (r : Nat) (v : BitVec 16) : (t.wrB r v).streams = t.streams := by
  unfold Thread.wrB; split <;> rfl
@[simp] theorem Thread.wrB_rpt (t : Thread) (r : Nat) (v : BitVec 16) : (t.wrB r v).rpt = t.rpt := by
  unfold Thread.wrB; split <;> rfl
@[simp] theorem Thread.wrB_ppoison (t : Thread) (r : Nat) (v : BitVec 16) : (t.wrB r v).ppoison = t.ppoison := by
  unfold Thread.wrB; split <;> rfl
@[simp] theorem Thread.wrB_answer (t : Thread) (r : Nat) (v : BitVec 16) : (t.wrB r v).answer = t.answer := by
  unfold Thread.wrB; split <;> rfl
@[simp] theorem Thread.wrB_status (t : Thread) (r : Nat) (v : BitVec 16) : (t.wrB r v).status = t.status := by
  unfold Thread.wrB; split <;> rfl
@[simp] theorem Thread.wrB_inStub (t : Thread) (r : Nat) (v : BitVec 16) : (t.wrB r v).inStub = t.inStub := by
  unfold Thread.wrB; split <;> rfl
@[simp] theorem Thread.wrB_fresh (t : Thread) (r : Nat) (v : BitVec 16) : (t.wrB r v).fresh = t.fresh := by
  unfold Thread.wrB; split <;> rfl
@[simp] theorem Thread.wrB_msgCount (t : Thread) (r : Nat) (v : BitVec 16) : (t.wrB r v).msgCount = t.msgCount := by
  unfold Thread.wrB; split <;> rfl
@[simp] theorem Thread.wrB_pend (t : Thread) (r : Nat) (v : BitVec 16) : (t.wrB r v).pend = t.pend := by
  unfold Thread.wrB; split <;> rfl
@[simp] theorem Thread.wrB_jobs (t : Thread) (r : Nat) (v : BitVec 16) : (t.wrB r v).jobs = t.jobs := by
  unfold Thread.wrB; split <;> rfl
@[simp] theorem Thread.wrB_ren (t : Thread) (r : Nat) (v : BitVec 16) : (t.wrB r v).ren = t.ren := by
  unfold Thread.wrB; split <;> rfl
@[simp] theorem Thread.wrB_tilesOut (t : Thread) (r : Nat) (v : BitVec 16) : (t.wrB r v).tilesOut = t.tilesOut := by
  unfold Thread.wrB; split <;> rfl
@[simp] theorem Thread.wrB_tilesAns (t : Thread) (r : Nat) (v : BitVec 16) : (t.wrB r v).tilesAns = t.tilesAns := by
  unfold Thread.wrB; split <;> rfl
@[simp] theorem Thread.wrB_fwd (t : Thread) (r : Nat) (v : BitVec 16) : (t.wrB r v).fwd = t.fwd := by
  unfold Thread.wrB; split <;> rfl
@[simp] theorem Thread.wrB_hold (t : Thread) (r : Nat) (v : BitVec 16) : (t.wrB r v).hold = t.hold := by
  unfold Thread.wrB; split <;> rfl
@[simp] theorem Thread.wrB_solo (t : Thread) (r : Nat) (v : BitVec 16) : (t.wrB r v).solo = t.solo := by
  unfold Thread.wrB; split <;> rfl
@[simp] theorem Thread.wrB_fwdSent (t : Thread) (r : Nat) (v : BitVec 16) : (t.wrB r v).fwdSent = t.fwdSent := by
  unfold Thread.wrB; split <;> rfl
@[simp] theorem Thread.wrB_declined (t : Thread) (r : Nat) (v : BitVec 16) : (t.wrB r v).declined = t.declined := by
  unfold Thread.wrB; split <;> rfl
@[simp] theorem Thread.wrB_cn (t : Thread) (r : Nat) (v : BitVec 16) : (t.wrB r v).cn = t.cn := by
  unfold Thread.wrB; split <;> rfl
@[simp] theorem Thread.wrB_launchRes (t : Thread) (r : Nat) (v : BitVec 16) : (t.wrB r v).launchRes = t.launchRes := by
  unfold Thread.wrB; split <;> rfl
@[simp] theorem Thread.wrB_fatalRet (t : Thread) (r : Nat) (v : BitVec 16) : (t.wrB r v).fatalRet = t.fatalRet := by
  unfold Thread.wrB; split <;> rfl

@[simp] theorem Thread.wrV_g (t : Thread) (r : Nat) (v : VVal) : (t.wrV r v).g = t.g := rfl
@[simp] theorem Thread.wrV_p (t : Thread) (r : Nat) (v : VVal) : (t.wrV r v).p = t.p := rfl
@[simp] theorem Thread.wrV_b (t : Thread) (r : Nat) (v : VVal) : (t.wrV r v).b = t.b := rfl
@[simp] theorem Thread.wrV_pc (t : Thread) (r : Nat) (v : VVal) : (t.wrV r v).pc = t.pc := rfl
@[simp] theorem Thread.wrV_priv (t : Thread) (r : Nat) (v : VVal) : (t.wrV r v).priv = t.priv := rfl
@[simp] theorem Thread.wrV_ctl (t : Thread) (r : Nat) (v : VVal) : (t.wrV r v).ctl = t.ctl := rfl
@[simp] theorem Thread.wrV_tol (t : Thread) (r : Nat) (v : VVal) : (t.wrV r v).tol = t.tol := rfl
@[simp] theorem Thread.wrV_place (t : Thread) (r : Nat) (v : VVal) : (t.wrV r v).place = t.place := rfl
@[simp] theorem Thread.wrV_rgn (t : Thread) (r : Nat) (v : VVal) : (t.wrV r v).rgn = t.rgn := rfl
@[simp] theorem Thread.wrV_wq (t : Thread) (r : Nat) (v : VVal) : (t.wrV r v).wq = t.wq := rfl
@[simp] theorem Thread.wrV_dests (t : Thread) (r : Nat) (v : VVal) : (t.wrV r v).dests = t.dests := rfl
@[simp] theorem Thread.wrV_rel (t : Thread) (r : Nat) (v : VVal) : (t.wrV r v).rel = t.rel := rfl
@[simp] theorem Thread.wrV_gens (t : Thread) (r : Nat) (v : VVal) : (t.wrV r v).gens = t.gens := rfl
@[simp] theorem Thread.wrV_streams (t : Thread) (r : Nat) (v : VVal) : (t.wrV r v).streams = t.streams := rfl
@[simp] theorem Thread.wrV_rpt (t : Thread) (r : Nat) (v : VVal) : (t.wrV r v).rpt = t.rpt := rfl
@[simp] theorem Thread.wrV_ppoison (t : Thread) (r : Nat) (v : VVal) : (t.wrV r v).ppoison = t.ppoison := rfl
@[simp] theorem Thread.wrV_answer (t : Thread) (r : Nat) (v : VVal) : (t.wrV r v).answer = t.answer := rfl
@[simp] theorem Thread.wrV_status (t : Thread) (r : Nat) (v : VVal) : (t.wrV r v).status = t.status := rfl
@[simp] theorem Thread.wrV_inStub (t : Thread) (r : Nat) (v : VVal) : (t.wrV r v).inStub = t.inStub := rfl
@[simp] theorem Thread.wrV_fresh (t : Thread) (r : Nat) (v : VVal) : (t.wrV r v).fresh = t.fresh := rfl
@[simp] theorem Thread.wrV_msgCount (t : Thread) (r : Nat) (v : VVal) : (t.wrV r v).msgCount = t.msgCount := rfl
@[simp] theorem Thread.wrV_pend (t : Thread) (r : Nat) (v : VVal) : (t.wrV r v).pend = t.pend := rfl
@[simp] theorem Thread.wrV_jobs (t : Thread) (r : Nat) (v : VVal) : (t.wrV r v).jobs = t.jobs := rfl
@[simp] theorem Thread.wrV_ren (t : Thread) (r : Nat) (v : VVal) : (t.wrV r v).ren = t.ren := rfl
@[simp] theorem Thread.wrV_tilesOut (t : Thread) (r : Nat) (v : VVal) : (t.wrV r v).tilesOut = t.tilesOut := rfl
@[simp] theorem Thread.wrV_tilesAns (t : Thread) (r : Nat) (v : VVal) : (t.wrV r v).tilesAns = t.tilesAns := rfl
@[simp] theorem Thread.wrV_fwd (t : Thread) (r : Nat) (v : VVal) : (t.wrV r v).fwd = t.fwd := rfl
@[simp] theorem Thread.wrV_hold (t : Thread) (r : Nat) (v : VVal) : (t.wrV r v).hold = t.hold := rfl
@[simp] theorem Thread.wrV_solo (t : Thread) (r : Nat) (v : VVal) : (t.wrV r v).solo = t.solo := rfl
@[simp] theorem Thread.wrV_fwdSent (t : Thread) (r : Nat) (v : VVal) : (t.wrV r v).fwdSent = t.fwdSent := rfl
@[simp] theorem Thread.wrV_declined (t : Thread) (r : Nat) (v : VVal) : (t.wrV r v).declined = t.declined := rfl
@[simp] theorem Thread.wrV_cn (t : Thread) (r : Nat) (v : VVal) : (t.wrV r v).cn = t.cn := rfl
@[simp] theorem Thread.wrV_launchRes (t : Thread) (r : Nat) (v : VVal) : (t.wrV r v).launchRes = t.launchRes := rfl
@[simp] theorem Thread.wrV_fatalRet (t : Thread) (r : Nat) (v : VVal) : (t.wrV r v).fatalRet = t.fatalRet := rfl
@[simp] theorem Thread.wrG_vwait (t : Thread) (r : Nat) (v : Word) : (t.wrG r v).vwait = t.vwait := by
  unfold Thread.wrG; split <;> rfl
@[simp] theorem Thread.wrP_vwait (t : Thread) (r : Nat) (v : Bool) : (t.wrP r v).vwait = t.vwait := by
  unfold Thread.wrP; split <;> rfl
@[simp] theorem Thread.wrB_vwait (t : Thread) (r : Nat) (v : BitVec 16) : (t.wrB r v).vwait = t.vwait := by
  unfold Thread.wrB; split <;> rfl
@[simp] theorem Thread.wrV_vwait (t : Thread) (r : Nat) (v : VVal) : (t.wrV r v).vwait = t.vwait := rfl

end Sys2Proof.Machine
end

