-- ==== Sys2Proof/Laws/Devices.lean ====
section
/-! SUPPORT. Laws of the state's outer parts: what an update of the channel, the ports, the flows, the drive, the trust die
or a charter leaves of each field. -/

namespace Sys2Proof.Machine

/-! ### modChan -/

@[simp] theorem State.modChan_time (s : State) (f : Channel → Channel) : (s.modChan f).time = s.time := rfl
@[simp] theorem State.modChan_cur (s : State) (f : Channel → Channel) : (s.modChan f).cur = s.cur := rfl
@[simp] theorem State.modChan_sched (s : State) (f : Channel → Channel) : (s.modChan f).sched = s.sched := rfl
@[simp] theorem State.modChan_turn (s : State) (f : Channel → Channel) : (s.modChan f).turn = s.turn := rfl
@[simp] theorem State.modChan_agenda (s : State) (f : Channel → Channel) : (s.modChan f).agenda = s.agenda := rfl
@[simp] theorem State.modChan_free (s : State) (f : Channel → Channel) : (s.modChan f).free = s.free := rfl
@[simp] theorem State.modChan_cores (s : State) (f : Channel → Channel) : (s.modChan f).cores = s.cores := rfl
@[simp] theorem State.modChan_clusters (s : State) (f : Channel → Channel) : (s.modChan f).clusters = s.clusters := rfl
@[simp] theorem State.modChan_dies (s : State) (f : Channel → Channel) : (s.modChan f).dies = s.dies := rfl
@[simp] theorem State.modChan_mem (s : State) (f : Channel → Channel) : (s.modChan f).mem = s.mem := rfl
@[simp] theorem State.modChan_disp (s : State) (f : Channel → Channel) : (s.modChan f).disp = s.disp := rfl
@[simp] theorem State.modChan_mgmt (s : State) (f : Channel → Channel) : (s.modChan f).mgmt = s.mgmt := rfl
@[simp] theorem State.modChan_stores (s : State) (f : Channel → Channel) : (s.modChan f).stores = s.stores := rfl
@[simp] theorem State.modChan_counts (s : State) (f : Channel → Channel) : (s.modChan f).counts = s.counts := rfl
@[simp] theorem State.modChan_net (s : State) (f : Channel → Channel) : (s.modChan f).net = s.net := rfl
@[simp] theorem State.modChan_stor (s : State) (f : Channel → Channel) : (s.modChan f).stor = s.stor := rfl
@[simp] theorem State.modChan_trust (s : State) (f : Channel → Channel) : (s.modChan f).trust = s.trust := rfl
@[simp] theorem State.modChan_chan (s : State) (f : Channel → Channel) : (s.modChan f).chan = f s.chan := rfl

/-! ### modStor -/

@[simp] theorem State.modStor_time (s : State) (f : Stor → Stor) : (s.modStor f).time = s.time := rfl
@[simp] theorem State.modStor_cur (s : State) (f : Stor → Stor) : (s.modStor f).cur = s.cur := rfl
@[simp] theorem State.modStor_sched (s : State) (f : Stor → Stor) : (s.modStor f).sched = s.sched := rfl
@[simp] theorem State.modStor_turn (s : State) (f : Stor → Stor) : (s.modStor f).turn = s.turn := rfl
@[simp] theorem State.modStor_agenda (s : State) (f : Stor → Stor) : (s.modStor f).agenda = s.agenda := rfl
@[simp] theorem State.modStor_free (s : State) (f : Stor → Stor) : (s.modStor f).free = s.free := rfl
@[simp] theorem State.modStor_cores (s : State) (f : Stor → Stor) : (s.modStor f).cores = s.cores := rfl
@[simp] theorem State.modStor_clusters (s : State) (f : Stor → Stor) : (s.modStor f).clusters = s.clusters := rfl
@[simp] theorem State.modStor_dies (s : State) (f : Stor → Stor) : (s.modStor f).dies = s.dies := rfl
@[simp] theorem State.modStor_mem (s : State) (f : Stor → Stor) : (s.modStor f).mem = s.mem := rfl
@[simp] theorem State.modStor_disp (s : State) (f : Stor → Stor) : (s.modStor f).disp = s.disp := rfl
@[simp] theorem State.modStor_chan (s : State) (f : Stor → Stor) : (s.modStor f).chan = s.chan := rfl
@[simp] theorem State.modStor_mgmt (s : State) (f : Stor → Stor) : (s.modStor f).mgmt = s.mgmt := rfl
@[simp] theorem State.modStor_stores (s : State) (f : Stor → Stor) : (s.modStor f).stores = s.stores := rfl
@[simp] theorem State.modStor_counts (s : State) (f : Stor → Stor) : (s.modStor f).counts = s.counts := rfl
@[simp] theorem State.modStor_net (s : State) (f : Stor → Stor) : (s.modStor f).net = s.net := rfl
@[simp] theorem State.modStor_trust (s : State) (f : Stor → Stor) : (s.modStor f).trust = s.trust := rfl
@[simp] theorem State.modStor_stor (s : State) (f : Stor → Stor) : (s.modStor f).stor = f s.stor := rfl

/-! ### modTrust -/

@[simp] theorem State.modTrust_time (s : State) (f : Trust → Trust) : (s.modTrust f).time = s.time := rfl
@[simp] theorem State.modTrust_cur (s : State) (f : Trust → Trust) : (s.modTrust f).cur = s.cur := rfl
@[simp] theorem State.modTrust_sched (s : State) (f : Trust → Trust) : (s.modTrust f).sched = s.sched := rfl
@[simp] theorem State.modTrust_turn (s : State) (f : Trust → Trust) : (s.modTrust f).turn = s.turn := rfl
@[simp] theorem State.modTrust_agenda (s : State) (f : Trust → Trust) : (s.modTrust f).agenda = s.agenda := rfl
@[simp] theorem State.modTrust_free (s : State) (f : Trust → Trust) : (s.modTrust f).free = s.free := rfl
@[simp] theorem State.modTrust_cores (s : State) (f : Trust → Trust) : (s.modTrust f).cores = s.cores := rfl
@[simp] theorem State.modTrust_clusters (s : State) (f : Trust → Trust) : (s.modTrust f).clusters = s.clusters := rfl
@[simp] theorem State.modTrust_dies (s : State) (f : Trust → Trust) : (s.modTrust f).dies = s.dies := rfl
@[simp] theorem State.modTrust_mem (s : State) (f : Trust → Trust) : (s.modTrust f).mem = s.mem := rfl
@[simp] theorem State.modTrust_disp (s : State) (f : Trust → Trust) : (s.modTrust f).disp = s.disp := rfl
@[simp] theorem State.modTrust_chan (s : State) (f : Trust → Trust) : (s.modTrust f).chan = s.chan := rfl
@[simp] theorem State.modTrust_mgmt (s : State) (f : Trust → Trust) : (s.modTrust f).mgmt = s.mgmt := rfl
@[simp] theorem State.modTrust_stores (s : State) (f : Trust → Trust) : (s.modTrust f).stores = s.stores := rfl
@[simp] theorem State.modTrust_counts (s : State) (f : Trust → Trust) : (s.modTrust f).counts = s.counts := rfl
@[simp] theorem State.modTrust_net (s : State) (f : Trust → Trust) : (s.modTrust f).net = s.net := rfl
@[simp] theorem State.modTrust_stor (s : State) (f : Trust → Trust) : (s.modTrust f).stor = s.stor := rfl
@[simp] theorem State.modTrust_trust (s : State) (f : Trust → Trust) : (s.modTrust f).trust = f s.trust := rfl

/-! ### modPort -/

@[simp] theorem State.modPort_time (s : State) (p : Nat) (f : Port → Port) : (s.modPort p f).time = s.time := rfl
@[simp] theorem State.modPort_cur (s : State) (p : Nat) (f : Port → Port) : (s.modPort p f).cur = s.cur := rfl
@[simp] theorem State.modPort_sched (s : State) (p : Nat) (f : Port → Port) : (s.modPort p f).sched = s.sched := rfl
@[simp] theorem State.modPort_turn (s : State) (p : Nat) (f : Port → Port) : (s.modPort p f).turn = s.turn := rfl
@[simp] theorem State.modPort_agenda (s : State) (p : Nat) (f : Port → Port) : (s.modPort p f).agenda = s.agenda := rfl
@[simp] theorem State.modPort_free (s : State) (p : Nat) (f : Port → Port) : (s.modPort p f).free = s.free := rfl
@[simp] theorem State.modPort_cores (s : State) (p : Nat) (f : Port → Port) : (s.modPort p f).cores = s.cores := rfl
@[simp] theorem State.modPort_clusters (s : State) (p : Nat) (f : Port → Port) : (s.modPort p f).clusters = s.clusters := rfl
@[simp] theorem State.modPort_dies (s : State) (p : Nat) (f : Port → Port) : (s.modPort p f).dies = s.dies := rfl
@[simp] theorem State.modPort_mem (s : State) (p : Nat) (f : Port → Port) : (s.modPort p f).mem = s.mem := rfl
@[simp] theorem State.modPort_disp (s : State) (p : Nat) (f : Port → Port) : (s.modPort p f).disp = s.disp := rfl
@[simp] theorem State.modPort_chan (s : State) (p : Nat) (f : Port → Port) : (s.modPort p f).chan = s.chan := rfl
@[simp] theorem State.modPort_mgmt (s : State) (p : Nat) (f : Port → Port) : (s.modPort p f).mgmt = s.mgmt := rfl
@[simp] theorem State.modPort_stores (s : State) (p : Nat) (f : Port → Port) : (s.modPort p f).stores = s.stores := rfl
@[simp] theorem State.modPort_counts (s : State) (p : Nat) (f : Port → Port) : (s.modPort p f).counts = s.counts := rfl
@[simp] theorem State.modPort_stor (s : State) (p : Nat) (f : Port → Port) : (s.modPort p f).stor = s.stor := rfl
@[simp] theorem State.modPort_trust (s : State) (p : Nat) (f : Port → Port) : (s.modPort p f).trust = s.trust := rfl

/-! ### setFlow -/

@[simp] theorem State.setFlow_time (s : State) (i : Nat) (x : Flow) : (s.setFlow i x).time = s.time := rfl
@[simp] theorem State.setFlow_cur (s : State) (i : Nat) (x : Flow) : (s.setFlow i x).cur = s.cur := rfl
@[simp] theorem State.setFlow_sched (s : State) (i : Nat) (x : Flow) : (s.setFlow i x).sched = s.sched := rfl
@[simp] theorem State.setFlow_turn (s : State) (i : Nat) (x : Flow) : (s.setFlow i x).turn = s.turn := rfl
@[simp] theorem State.setFlow_agenda (s : State) (i : Nat) (x : Flow) : (s.setFlow i x).agenda = s.agenda := rfl
@[simp] theorem State.setFlow_free (s : State) (i : Nat) (x : Flow) : (s.setFlow i x).free = s.free := rfl
@[simp] theorem State.setFlow_cores (s : State) (i : Nat) (x : Flow) : (s.setFlow i x).cores = s.cores := rfl
@[simp] theorem State.setFlow_clusters (s : State) (i : Nat) (x : Flow) : (s.setFlow i x).clusters = s.clusters := rfl
@[simp] theorem State.setFlow_dies (s : State) (i : Nat) (x : Flow) : (s.setFlow i x).dies = s.dies := rfl
@[simp] theorem State.setFlow_mem (s : State) (i : Nat) (x : Flow) : (s.setFlow i x).mem = s.mem := rfl
@[simp] theorem State.setFlow_disp (s : State) (i : Nat) (x : Flow) : (s.setFlow i x).disp = s.disp := rfl
@[simp] theorem State.setFlow_chan (s : State) (i : Nat) (x : Flow) : (s.setFlow i x).chan = s.chan := rfl
@[simp] theorem State.setFlow_mgmt (s : State) (i : Nat) (x : Flow) : (s.setFlow i x).mgmt = s.mgmt := rfl
@[simp] theorem State.setFlow_stores (s : State) (i : Nat) (x : Flow) : (s.setFlow i x).stores = s.stores := rfl
@[simp] theorem State.setFlow_counts (s : State) (i : Nat) (x : Flow) : (s.setFlow i x).counts = s.counts := rfl
@[simp] theorem State.setFlow_stor (s : State) (i : Nat) (x : Flow) : (s.setFlow i x).stor = s.stor := rfl
@[simp] theorem State.setFlow_trust (s : State) (i : Nat) (x : Flow) : (s.setFlow i x).trust = s.trust := rfl

/-! ### modFlow -/

@[simp] theorem State.modFlow_time (s : State) (i : Nat) (f : Flow → Flow) : (s.modFlow i f).time = s.time := rfl
@[simp] theorem State.modFlow_cur (s : State) (i : Nat) (f : Flow → Flow) : (s.modFlow i f).cur = s.cur := rfl
@[simp] theorem State.modFlow_sched (s : State) (i : Nat) (f : Flow → Flow) : (s.modFlow i f).sched = s.sched := rfl
@[simp] theorem State.modFlow_turn (s : State) (i : Nat) (f : Flow → Flow) : (s.modFlow i f).turn = s.turn := rfl
@[simp] theorem State.modFlow_agenda (s : State) (i : Nat) (f : Flow → Flow) : (s.modFlow i f).agenda = s.agenda := rfl
@[simp] theorem State.modFlow_free (s : State) (i : Nat) (f : Flow → Flow) : (s.modFlow i f).free = s.free := rfl
@[simp] theorem State.modFlow_cores (s : State) (i : Nat) (f : Flow → Flow) : (s.modFlow i f).cores = s.cores := rfl
@[simp] theorem State.modFlow_clusters (s : State) (i : Nat) (f : Flow → Flow) : (s.modFlow i f).clusters = s.clusters := rfl
@[simp] theorem State.modFlow_dies (s : State) (i : Nat) (f : Flow → Flow) : (s.modFlow i f).dies = s.dies := rfl
@[simp] theorem State.modFlow_mem (s : State) (i : Nat) (f : Flow → Flow) : (s.modFlow i f).mem = s.mem := rfl
@[simp] theorem State.modFlow_disp (s : State) (i : Nat) (f : Flow → Flow) : (s.modFlow i f).disp = s.disp := rfl
@[simp] theorem State.modFlow_chan (s : State) (i : Nat) (f : Flow → Flow) : (s.modFlow i f).chan = s.chan := rfl
@[simp] theorem State.modFlow_mgmt (s : State) (i : Nat) (f : Flow → Flow) : (s.modFlow i f).mgmt = s.mgmt := rfl
@[simp] theorem State.modFlow_stores (s : State) (i : Nat) (f : Flow → Flow) : (s.modFlow i f).stores = s.stores := rfl
@[simp] theorem State.modFlow_counts (s : State) (i : Nat) (f : Flow → Flow) : (s.modFlow i f).counts = s.counts := rfl
@[simp] theorem State.modFlow_stor (s : State) (i : Nat) (f : Flow → Flow) : (s.modFlow i f).stor = s.stor := rfl
@[simp] theorem State.modFlow_trust (s : State) (i : Nat) (f : Flow → Flow) : (s.modFlow i f).trust = s.trust := rfl

/-! ### Ports and flows -/

@[simp] theorem State.port_modPort_self (s : State) (p : Nat) (f : Port → Port) : (s.modPort p f).port p = f (s.port p) := by
  simp [State.port, State.modPort]

theorem State.port_modPort_of_ne (s : State) {p q : Nat} (f : Port → Port) (h : q ≠ p) : (s.modPort p f).port q = s.port q := by
  simp [State.port, State.modPort, AMap.getD_set_of_ne _ _ _ h]

@[simp] theorem State.flow_setFlow_self (s : State) (i : Nat) (x : Flow) : (s.setFlow i x).flow i = x := by
  simp [State.flow, State.setFlow]

theorem State.flow_setFlow_of_ne (s : State) {i j : Nat} (x : Flow) (h : j ≠ i) : (s.setFlow i x).flow j = s.flow j := by
  simp [State.flow, State.setFlow, AMap.getD_set_of_ne _ _ _ h]

/-! ### modNode -/

@[simp] theorem State.modNode_time (s : State) (l i : Nat) (f : Node → Node) : (s.modNode l i f).time = s.time := by
  unfold State.modNode; split <;> (try split) <;> rfl
@[simp] theorem State.modNode_cur (s : State) (l i : Nat) (f : Node → Node) : (s.modNode l i f).cur = s.cur := by
  unfold State.modNode; split <;> (try split) <;> rfl
@[simp] theorem State.modNode_sched (s : State) (l i : Nat) (f : Node → Node) : (s.modNode l i f).sched = s.sched := by
  unfold State.modNode; split <;> (try split) <;> rfl
@[simp] theorem State.modNode_turn (s : State) (l i : Nat) (f : Node → Node) : (s.modNode l i f).turn = s.turn := by
  unfold State.modNode; split <;> (try split) <;> rfl
@[simp] theorem State.modNode_agenda (s : State) (l i : Nat) (f : Node → Node) : (s.modNode l i f).agenda = s.agenda := by
  unfold State.modNode; split <;> (try split) <;> rfl
@[simp] theorem State.modNode_free (s : State) (l i : Nat) (f : Node → Node) : (s.modNode l i f).free = s.free := by
  unfold State.modNode; split <;> (try split) <;> rfl
@[simp] theorem State.modNode_cores (s : State) (l i : Nat) (f : Node → Node) : (s.modNode l i f).cores = s.cores := by
  unfold State.modNode; split <;> (try split) <;> rfl
@[simp] theorem State.modNode_clusters (s : State) (l i : Nat) (f : Node → Node) : (s.modNode l i f).clusters = s.clusters := by
  unfold State.modNode; split <;> (try split) <;> rfl
@[simp] theorem State.modNode_dies (s : State) (l i : Nat) (f : Node → Node) : (s.modNode l i f).dies = s.dies := by
  unfold State.modNode; split <;> (try split) <;> rfl
@[simp] theorem State.modNode_mem (s : State) (l i : Nat) (f : Node → Node) : (s.modNode l i f).mem = s.mem := by
  unfold State.modNode; split <;> (try split) <;> rfl
@[simp] theorem State.modNode_chan (s : State) (l i : Nat) (f : Node → Node) : (s.modNode l i f).chan = s.chan := by
  unfold State.modNode; split <;> (try split) <;> rfl
@[simp] theorem State.modNode_mgmt (s : State) (l i : Nat) (f : Node → Node) : (s.modNode l i f).mgmt = s.mgmt := by
  unfold State.modNode; split <;> (try split) <;> rfl
@[simp] theorem State.modNode_stores (s : State) (l i : Nat) (f : Node → Node) : (s.modNode l i f).stores = s.stores := by
  unfold State.modNode; split <;> (try split) <;> rfl
@[simp] theorem State.modNode_counts (s : State) (l i : Nat) (f : Node → Node) : (s.modNode l i f).counts = s.counts := by
  unfold State.modNode; split <;> (try split) <;> rfl
@[simp] theorem State.modNode_net (s : State) (l i : Nat) (f : Node → Node) : (s.modNode l i f).net = s.net := by
  unfold State.modNode; split <;> (try split) <;> rfl
@[simp] theorem State.modNode_stor (s : State) (l i : Nat) (f : Node → Node) : (s.modNode l i f).stor = s.stor := by
  unfold State.modNode; split <;> (try split) <;> rfl
@[simp] theorem State.modNode_trust (s : State) (l i : Nat) (f : Node → Node) : (s.modNode l i f).trust = s.trust := by
  unfold State.modNode; split <;> (try split) <;> rfl

end Sys2Proof.Machine
end

