-- ==== Sys2Proof/Laws/Ops.lean ====
section
/-! SUPPORT. Laws of the end of an instruction, of traps and of returns: what each shared operation can do. -/

namespace Sys2Proof.Machine

/-! ### Folds -/

theorem foldl_inv {α β : Type} (P : β → Prop) (f : β → α → β) (l : List α)
    (h : ∀ s a, a ∈ l → P s → P (f s a)) (s : β) (hs : P s) : P (l.foldl f s) := by
  induction l generalizing s with
  | nil => exact hs
  | cons a l ih => exact ih (fun s b hb => h s b (List.mem_cons_of_mem a hb)) _ (h s a (List.mem_cons_self ..) hs)

/-! ### Core updates -/

/-- An update of a core that keeps its slots leaves every thread. -/
theorem State.thread_modCore (s : State) (c c' k : Nat) (f : Core → Core) (h : ∀ x, (f x).slots = x.slots) :
    (s.modCore c f).thread c' k = s.thread c' k := by
  by_cases hc : c' = c
  · subst hc
    simp [State.thread, Core.slot, h]
  · simp [State.thread, State.core_modCore_of_ne _ _ hc]

/-! ### A leader's forwarded words -/

/-- Only cores change. -/
theorem patchForward_eq (s : State) (t : Thread) (self : Nat × Nat) (at' pc : Word) (res : Option Word) :
    ∃ cs, patchForward s t self at' pc res = { s with cores := cs } := by
  unfold patchForward
  split
  · refine foldl_inv (fun s' => ∃ cs, s' = { s with cores := cs }) _ _ ?_ s ⟨_, rfl⟩
    rintro s' m - ⟨cs, rfl⟩
    exact ⟨_, rfl⟩
  · exact ⟨_, rfl⟩

/-- The acting member's own record stays. -/
theorem patchForward_thread_self (s : State) (t : Thread) (self : Nat × Nat) (at' pc : Word) (res : Option Word) :
    (patchForward s t self at' pc res).thread self.1 self.2 = s.thread self.1 self.2 := by
  unfold patchForward
  split
  · refine foldl_inv (fun s' : State => s'.thread self.1 self.2 = s.thread self.1 self.2) _ _ ?_ s rfl
    intro s' m hm h
    have hne : m ≠ self := by simpa using (List.mem_filter.mp hm).2
    rw [State.thread_modThread_of_ne _ _ (fun e => hne e.symm), h]
  · rfl

/-- Another thread changes in its forwarded words only. -/
theorem patchForward_thread (s : State) (t : Thread) (self : Nat × Nat) (at' pc : Word) (res : Option Word) (c k : Nat) :
    ∃ fw, (patchForward s t self at' pc res).thread c k = { s.thread c k with fwd := fw } := by
  unfold patchForward
  split
  · refine foldl_inv (fun s' : State => ∃ fw, s'.thread c k = { s.thread c k with fwd := fw }) _ _ ?_ s ⟨_, rfl⟩
    rintro s' m - ⟨fw, h⟩
    by_cases hm : (c, k) = (m.1, m.2)
    · obtain ⟨rfl, rfl⟩ := Prod.mk.inj hm
      rw [State.thread_modThread_self]
      exact ⟨_, by rw [h]⟩
    · exact ⟨fw, by rw [State.thread_modThread_of_ne _ _ hm, h]⟩
  · exact ⟨_, rfl⟩

/-- Of a core only the threads' records change. -/
theorem patchForward_core (s : State) (t : Thread) (self : Nat × Nat) (at' pc : Word) (res : Option Word) (c : Nat) :
    ∃ sl, (patchForward s t self at' pc res).core c = { s.core c with slots := sl } := by
  unfold patchForward
  split
  · refine foldl_inv (fun s' : State => ∃ sl, s'.core c = { s.core c with slots := sl }) _ _ ?_ s ⟨_, rfl⟩
    rintro s' m - ⟨sl, h⟩
    by_cases hc : c = m.1
    · subst hc
      rw [State.core_modThread_self, h]
      exact ⟨_, rfl⟩
    · exact ⟨sl, by rw [State.core_modThread_of_ne _ _ _ hc, h]⟩
  · exact ⟨_, rfl⟩

/-! ### Retiring -/

/-- A retirement changes cores only. -/
theorem retireWith_eq (s : State) (pc : Word) (y : Bool) (res : Option Word) :
    ∃ cs, retireWith s pc y res = { s with cores := cs } := by
  obtain ⟨cs, h⟩ := patchForward_eq s s.me s.cur s.me.pc pc res
  unfold retireWith
  rw [h]
  split <;> exact ⟨_, rfl⟩

@[simp] theorem retireWith_time (s : State) (pc : Word) (y : Bool) (res : Option Word) : (retireWith s pc y res).time = s.time := by
  obtain ⟨cs, h⟩ := retireWith_eq s pc y res; rw [h]
@[simp] theorem retire_time (s : State) (pc : Word) (y : Bool) : (retire s pc y).time = s.time := retireWith_time s pc y none
@[simp] theorem retireWith_cur (s : State) (pc : Word) (y : Bool) (res : Option Word) : (retireWith s pc y res).cur = s.cur := by
  obtain ⟨cs, h⟩ := retireWith_eq s pc y res; rw [h]
@[simp] theorem retire_cur (s : State) (pc : Word) (y : Bool) : (retire s pc y).cur = s.cur := retireWith_cur s pc y none
@[simp] theorem retireWith_sched (s : State) (pc : Word) (y : Bool) (res : Option Word) : (retireWith s pc y res).sched = s.sched := by
  obtain ⟨cs, h⟩ := retireWith_eq s pc y res; rw [h]
@[simp] theorem retire_sched (s : State) (pc : Word) (y : Bool) : (retire s pc y).sched = s.sched := retireWith_sched s pc y none
@[simp] theorem retireWith_turn (s : State) (pc : Word) (y : Bool) (res : Option Word) : (retireWith s pc y res).turn = s.turn := by
  obtain ⟨cs, h⟩ := retireWith_eq s pc y res; rw [h]
@[simp] theorem retire_turn (s : State) (pc : Word) (y : Bool) : (retire s pc y).turn = s.turn := retireWith_turn s pc y none
@[simp] theorem retireWith_agenda (s : State) (pc : Word) (y : Bool) (res : Option Word) : (retireWith s pc y res).agenda = s.agenda := by
  obtain ⟨cs, h⟩ := retireWith_eq s pc y res; rw [h]
@[simp] theorem retire_agenda (s : State) (pc : Word) (y : Bool) : (retire s pc y).agenda = s.agenda := retireWith_agenda s pc y none
@[simp] theorem retireWith_free (s : State) (pc : Word) (y : Bool) (res : Option Word) : (retireWith s pc y res).free = s.free := by
  obtain ⟨cs, h⟩ := retireWith_eq s pc y res; rw [h]
@[simp] theorem retire_free (s : State) (pc : Word) (y : Bool) : (retire s pc y).free = s.free := retireWith_free s pc y none
@[simp] theorem retireWith_clusters (s : State) (pc : Word) (y : Bool) (res : Option Word) : (retireWith s pc y res).clusters = s.clusters := by
  obtain ⟨cs, h⟩ := retireWith_eq s pc y res; rw [h]
@[simp] theorem retire_clusters (s : State) (pc : Word) (y : Bool) : (retire s pc y).clusters = s.clusters := retireWith_clusters s pc y none
@[simp] theorem retireWith_dies (s : State) (pc : Word) (y : Bool) (res : Option Word) : (retireWith s pc y res).dies = s.dies := by
  obtain ⟨cs, h⟩ := retireWith_eq s pc y res; rw [h]
@[simp] theorem retire_dies (s : State) (pc : Word) (y : Bool) : (retire s pc y).dies = s.dies := retireWith_dies s pc y none
@[simp] theorem retireWith_mem (s : State) (pc : Word) (y : Bool) (res : Option Word) : (retireWith s pc y res).mem = s.mem := by
  obtain ⟨cs, h⟩ := retireWith_eq s pc y res; rw [h]
@[simp] theorem retire_mem (s : State) (pc : Word) (y : Bool) : (retire s pc y).mem = s.mem := retireWith_mem s pc y none
@[simp] theorem retireWith_disp (s : State) (pc : Word) (y : Bool) (res : Option Word) : (retireWith s pc y res).disp = s.disp := by
  obtain ⟨cs, h⟩ := retireWith_eq s pc y res; rw [h]
@[simp] theorem retire_disp (s : State) (pc : Word) (y : Bool) : (retire s pc y).disp = s.disp := retireWith_disp s pc y none
@[simp] theorem retireWith_chan (s : State) (pc : Word) (y : Bool) (res : Option Word) : (retireWith s pc y res).chan = s.chan := by
  obtain ⟨cs, h⟩ := retireWith_eq s pc y res; rw [h]
@[simp] theorem retire_chan (s : State) (pc : Word) (y : Bool) : (retire s pc y).chan = s.chan := retireWith_chan s pc y none
@[simp] theorem retireWith_mgmt (s : State) (pc : Word) (y : Bool) (res : Option Word) : (retireWith s pc y res).mgmt = s.mgmt := by
  obtain ⟨cs, h⟩ := retireWith_eq s pc y res; rw [h]
@[simp] theorem retire_mgmt (s : State) (pc : Word) (y : Bool) : (retire s pc y).mgmt = s.mgmt := retireWith_mgmt s pc y none
@[simp] theorem retireWith_stores (s : State) (pc : Word) (y : Bool) (res : Option Word) : (retireWith s pc y res).stores = s.stores := by
  obtain ⟨cs, h⟩ := retireWith_eq s pc y res; rw [h]
@[simp] theorem retire_stores (s : State) (pc : Word) (y : Bool) : (retire s pc y).stores = s.stores := retireWith_stores s pc y none
@[simp] theorem retireWith_counts (s : State) (pc : Word) (y : Bool) (res : Option Word) : (retireWith s pc y res).counts = s.counts := by
  obtain ⟨cs, h⟩ := retireWith_eq s pc y res; rw [h]
@[simp] theorem retire_counts (s : State) (pc : Word) (y : Bool) : (retire s pc y).counts = s.counts := retireWith_counts s pc y none
@[simp] theorem retireWith_net (s : State) (pc : Word) (y : Bool) (res : Option Word) : (retireWith s pc y res).net = s.net := by
  obtain ⟨cs, h⟩ := retireWith_eq s pc y res; rw [h]
@[simp] theorem retire_net (s : State) (pc : Word) (y : Bool) : (retire s pc y).net = s.net := retireWith_net s pc y none
@[simp] theorem retireWith_stor (s : State) (pc : Word) (y : Bool) (res : Option Word) : (retireWith s pc y res).stor = s.stor := by
  obtain ⟨cs, h⟩ := retireWith_eq s pc y res; rw [h]
@[simp] theorem retire_stor (s : State) (pc : Word) (y : Bool) : (retire s pc y).stor = s.stor := retireWith_stor s pc y none
@[simp] theorem retireWith_trust (s : State) (pc : Word) (y : Bool) (res : Option Word) : (retireWith s pc y res).trust = s.trust := by
  obtain ⟨cs, h⟩ := retireWith_eq s pc y res; rw [h]
@[simp] theorem retire_trust (s : State) (pc : Word) (y : Bool) : (retire s pc y).trust = s.trust := retireWith_trust s pc y none

/-- The acting thread after a retirement. -/
theorem retireWith_me (s : State) (pc : Word) (y : Bool) (res : Option Word) :
    (retireWith s pc y res).me = s.me.retire pc := by
  have hc : (patchForward s s.me s.cur s.me.pc pc res).cur = s.cur := by
    obtain ⟨cs, h⟩ := patchForward_eq s s.me s.cur s.me.pc pc res; rw [h]
  have h : (patchForward s s.me s.cur s.me.pc pc res).me = s.me := by
    rw [State.me, hc]; exact patchForward_thread_self s s.me s.cur s.me.pc pc res
  unfold retireWith
  simp only []
  split
  · rw [State.me, State.modCore_cur, State.thread_modCore _ _ _ _ _ (by intro x; rfl), State.me_eq, State.me_modMe, h]
  · rw [State.me_modMe, h]

@[simp] theorem retire_me (s : State) (pc : Word) (y : Bool) : (retire s pc y).me = s.me.retire pc :=
  retireWith_me s pc y none

/-- Another thread changes in its forwarded words only. -/
theorem retireWith_thread (s : State) (pc : Word) (y : Bool) (res : Option Word) {c k : Nat} (h : (c, k) ≠ s.cur) :
    ∃ fw, (retireWith s pc y res).thread c k = { s.thread c k with fwd := fw } := by
  obtain ⟨fw, hf⟩ := patchForward_thread s s.me s.cur s.me.pc pc res c k
  have hc : (patchForward s s.me s.cur s.me.pc pc res).cur = s.cur := by
    obtain ⟨cs, h⟩ := patchForward_eq s s.me s.cur s.me.pc pc res; rw [h]
  refine ⟨fw, ?_⟩
  unfold retireWith
  simp only []
  have h1 : ((patchForward s s.me s.cur s.me.pc pc res).modMe (fun t => t.retire pc)).thread c k =
      (patchForward s s.me s.cur s.me.pc pc res).thread c k :=
    State.thread_setThread_of_ne _ _ (by rw [hc]; exact h)
  split
  · rw [State.thread_modCore _ _ _ _ _ (by intro x; rfl), h1, hf]
  · rw [h1, hf]

/-- A core keeps everything but its slots and who stands in its pipe. -/
theorem retireWith_core (s : State) (pc : Word) (y : Bool) (res : Option Word) (c : Nat) :
    ∃ sl ip, (retireWith s pc y res).core c = { s.core c with slots := sl, inPipe := ip } := by
  obtain ⟨sl, hs⟩ := patchForward_core s s.me s.cur s.me.pc pc res c
  have h1 : ∃ sl, ((patchForward s s.me s.cur s.me.pc pc res).modMe (fun t => t.retire pc)).core c = { s.core c with slots := sl } := by
    by_cases hc : c = (patchForward s s.me s.cur s.me.pc pc res).cur.1
    · subst hc
      exact ⟨_, by rw [State.modMe, State.setMe, State.setThread, State.core_setCore_self, Core.setSlot, hs]⟩
    · refine ⟨sl, ?_⟩
      rw [State.modMe, State.setMe, State.setThread, State.core_setCore_of_ne _ _ hc, hs]
  obtain ⟨sl', h1⟩ := h1
  unfold retireWith
  simp only []
  split
  · by_cases hc : c = ((patchForward s s.me s.cur s.me.pc pc res).modMe (fun t => t.retire pc)).cur.1
    · subst hc
      rw [State.core_modCore_self, h1]
      exact ⟨_, _, rfl⟩
    · rw [State.core_modCore_of_ne _ _ hc, h1]
      exact ⟨_, _, rfl⟩
  · rw [h1]
    exact ⟨_, _, rfl⟩

/-- No retirement writes a pool byte. -/
@[simp] theorem retireWith_pool (s : State) (pc : Word) (y : Bool) (res : Option Word) (c : Nat) :
    ((retireWith s pc y res).core c).pool = (s.core c).pool := by
  obtain ⟨sl, ip, h⟩ := retireWith_core s pc y res c; rw [h]

@[simp] theorem retire_pool (s : State) (pc : Word) (y : Bool) (c : Nat) :
    ((retire s pc y).core c).pool = (s.core c).pool := retireWith_pool s pc y none c

/-! ### Registers of a retired thread -/

@[simp] theorem Thread.retire_pc (t : Thread) (pc : Word) : (t.retire pc).pc = pc := rfl
@[simp] theorem Thread.retire_rdG (t : Thread) (pc : Word) (r : Nat) : (t.retire pc).rdG r = t.rdG r := rfl
@[simp] theorem Thread.retire_rdP (t : Thread) (pc : Word) (r : Nat) : (t.retire pc).rdP r = t.rdP r := rfl
@[simp] theorem Thread.retire_rdB (t : Thread) (pc : Word) (r : Nat) : (t.retire pc).rdB r = t.rdB r := rfl
@[simp] theorem Thread.retire_rdV (t : Thread) (pc : Word) (r : Nat) : (t.retire pc).rdV r = t.rdV r := rfl
@[simp] theorem Thread.retire_priv (t : Thread) (pc : Word) : (t.retire pc).priv = t.priv := rfl
@[simp] theorem Thread.retire_ctl (t : Thread) (pc : Word) : (t.retire pc).ctl = t.ctl := rfl
@[simp] theorem Thread.retire_tol (t : Thread) (pc : Word) : (t.retire pc).tol = t.tol := rfl
@[simp] theorem Thread.retire_place (t : Thread) (pc : Word) : (t.retire pc).place = t.place := rfl
@[simp] theorem Thread.retire_rgn (t : Thread) (pc : Word) : (t.retire pc).rgn = t.rgn := rfl
@[simp] theorem Thread.retire_g (t : Thread) (pc : Word) : (t.retire pc).g = t.g := rfl
@[simp] theorem Thread.retire_v (t : Thread) (pc : Word) : (t.retire pc).v = t.v := rfl
@[simp] theorem Thread.retire_p (t : Thread) (pc : Word) : (t.retire pc).p = t.p := rfl
@[simp] theorem Thread.retire_b (t : Thread) (pc : Word) : (t.retire pc).b = t.b := rfl
@[simp] theorem Thread.retire_wq (t : Thread) (pc : Word) : (t.retire pc).wq = t.wq := rfl
@[simp] theorem Thread.retire_dests (t : Thread) (pc : Word) : (t.retire pc).dests = t.dests := rfl
@[simp] theorem Thread.retire_rel (t : Thread) (pc : Word) : (t.retire pc).rel = t.rel := rfl
@[simp] theorem Thread.retire_gens (t : Thread) (pc : Word) : (t.retire pc).gens = t.gens := rfl
@[simp] theorem Thread.retire_streams (t : Thread) (pc : Word) : (t.retire pc).streams = t.streams := rfl
@[simp] theorem Thread.retire_rpt (t : Thread) (pc : Word) : (t.retire pc).rpt = t.rpt := rfl
@[simp] theorem Thread.retire_ppoison (t : Thread) (pc : Word) : (t.retire pc).ppoison = t.ppoison := rfl
@[simp] theorem Thread.retire_inStub (t : Thread) (pc : Word) : (t.retire pc).inStub = t.inStub := rfl
@[simp] theorem Thread.retire_msgCount (t : Thread) (pc : Word) : (t.retire pc).msgCount = t.msgCount := rfl
@[simp] theorem Thread.retire_pend (t : Thread) (pc : Word) : (t.retire pc).pend = t.pend := rfl
@[simp] theorem Thread.retire_jobs (t : Thread) (pc : Word) : (t.retire pc).jobs = t.jobs := rfl
@[simp] theorem Thread.retire_ren (t : Thread) (pc : Word) : (t.retire pc).ren = t.ren := rfl
@[simp] theorem Thread.retire_tilesOut (t : Thread) (pc : Word) : (t.retire pc).tilesOut = t.tilesOut := rfl
@[simp] theorem Thread.retire_tilesAns (t : Thread) (pc : Word) : (t.retire pc).tilesAns = t.tilesAns := rfl
@[simp] theorem Thread.retire_hold (t : Thread) (pc : Word) : (t.retire pc).hold = t.hold := rfl
@[simp] theorem Thread.retire_solo (t : Thread) (pc : Word) : (t.retire pc).solo = t.solo := rfl
@[simp] theorem Thread.retire_cn (t : Thread) (pc : Word) : (t.retire pc).cn = t.cn := rfl
@[simp] theorem Thread.retire_launchRes (t : Thread) (pc : Word) : (t.retire pc).launchRes = t.launchRes := rfl
@[simp] theorem Thread.retire_fatalRet (t : Thread) (pc : Word) : (t.retire pc).fatalRet = t.fatalRet := rfl
@[simp] theorem Thread.retire_fresh (t : Thread) (pc : Word) : (t.retire pc).fresh = false := rfl
@[simp] theorem Thread.retire_answer (t : Thread) (pc : Word) : (t.retire pc).answer = none := rfl
@[simp] theorem Thread.retire_status (t : Thread) (pc : Word) : (t.retire pc).status = .ready := rfl

/-! ### The guard -/

theorem finish_ok {h : Hdr} {e : State → Eff} {s s' : State} (hg : guardHolds s h = true) (he : e s = .ok s') :
    finish h e s = retire s' (s.me.pc + 12) h.yields := by
  simp [finish, hg, he]

theorem finish_jump {h : Hdr} {e : State → Eff} {s s' : State} {pc : Word} (hg : guardHolds s h = true)
    (he : e s = .jump s' pc) : finish h e s = retire s' pc h.yields := by
  simp [finish, hg, he]

theorem finish_trap {h : Hdr} {e : State → Eff} {s s' : State} {t : TrapInfo} (hg : guardHolds s h = true)
    (he : e s = .trap s' t) : finish h e s = takeTrap s' s.cur.1 s.cur.2 t true := by
  simp [finish, hg, he]

theorem finish_false {h : Hdr} (e : State → Eff) {s : State} (hg : guardHolds s h = false) :
    finish h e s = retire s (s.me.pc + 12) false := by
  simp [finish, hg]

/-! ### Entering a handler (R427) -/

theorem enterHandler_thread (s : State) (c k : Nat) (t : TrapInfo) (epc : Word) :
    (enterHandler s c k t epc).thread c k =
      { s.thread c k with
        ctl := { (s.thread c k).ctl with
          xpc := epc, xcause := BitVec.ofNat 8 t.cause, xaddr := t.addr, xinfo := t.info
          ppriv := (s.thread c k).priv, pie := (s.thread c k).ctl.ie, ie := false }
        priv := true
        pc := if (s.thread c k).ctl.xvec = 0 then 0 else (s.thread c k).ctl.xvec
        inStub := decide ((s.thread c k).ctl.xvec = 0)
        fresh := true
        answer := none
        status := .ready } := by
  simp [enterHandler]

/-- A gang of one never leaves lockstep. -/
theorem leaveLockstep_of_alone (s : State) (c k : Nat) (f : Bool) (h : (s.thread c k).lockstep = false) :
    leaveLockstep s c k f = s := by
  simp [leaveLockstep, h]

/-- A trap of a thread that is not in lockstep and whose handler has begun. -/
theorem takeTrap_alone (s : State) (c k : Nat) (t : TrapInfo) (f : Bool) (hf : (s.thread c k).fresh = false)
    (hl : (s.thread c k).lockstep = false) (hc : t.cause ≠ 0x0D) (hp : t.cause ≠ 0x11) :
    takeTrap s c k t f = enterHandler s c k t (s.thread c k).pc := by
  simp [takeTrap, hf, hc, hp, leaveLockstep_of_alone _ _ _ _ hl]

theorem takeTrap_fresh (s : State) (c k : Nat) (t : TrapInfo) (f : Bool) (hf : (s.thread c k).fresh = true) :
    takeTrap s c k t f = doubleTrap s c k t := by
  simp [takeTrap, hf]

/-! ### The banks of a pool -/

/-- What the other banks and the parity row rebuild is the codeword of the bank (R234). -/
theorem Core.rebuilt_eq (x : Core) (r b : Nat) : x.rebuilt r b = x.codeword r b := by
  have h : b % 4 = 0 ∨ b % 4 = 1 ∨ b % 4 = 2 ∨ b % 4 = 3 := by omega
  have e : 4 * bankGroup b + b % 4 = b := by unfold bankGroup; omega
  unfold Core.rebuilt Core.parity
  generalize bankGroup b = g at e
  obtain h | h | h | h := h <;> rw [h] at e ⊢ <;> subst e <;> simp [List.filter] <;> ext i <;>
    simp only [BitVec.getElem_xor] <;> cases (x.codeword r (4 * g))[i] <;> cases (x.codeword r (4 * g + 1))[i] <;>
    cases (x.codeword r (4 * g + 2))[i] <;> cases (x.codeword r (4 * g + 3))[i] <;> rfl

end Sys2Proof.Machine
end

