-- ==== Sys2Proof/Laws/Integer.lean ====
section
/-! SUPPORT. Laws of operand reading and of integer results: the model's numbers as bit vectors. -/

namespace Sys2Proof

theorem ITy.width_pos (t : ITy) : 0 < t.width := by cases t <;> decide
theorem ITy.width_le (t : ITy) : t.width ≤ 64 := by cases t <;> decide

end Sys2Proof

namespace Sys2Proof.Machine

/-! ### Sign extension -/

theorem sextI_eq (x n : Nat) : sextI x n = (BitVec.ofNat n x).toInt := by
  simp [sextI, BitVec.toInt]

theorem sOp_eq (t : ITy) (x : Word) : sOp t x = (x.setWidth t.width).toInt := by
  rw [sOp, sextI_eq]
  exact congrArg BitVec.toInt (BitVec.eq_of_toNat_eq (by simp))

theorem uOp_eq (t : ITy) (x : Word) : uOp t x = ((x.setWidth t.width).toNat : Int) := by
  rw [uOp, BitVec.toNat_setWidth]

/-- The low w bits of an exact integer survive the narrowing to 64 bits. -/
theorem ofInt_narrow (w : Nat) (x : Int) (h : w ≤ 64) : BitVec.ofNat w (x % 2 ^ 64).toNat = BitVec.ofInt w x := by
  apply BitVec.eq_of_toNat_eq
  rw [BitVec.toNat_ofNat, BitVec.toNat_ofInt]
  have hd : (2 : Int) ^ w ∣ 2 ^ 64 := pow_dvd_pow 2 h
  have h0 : 0 ≤ x % 2 ^ 64 := Int.emod_nonneg _ (by decide)
  have hp : (0 : Int) < 2 ^ w := by positivity
  zify
  rw [Int.toNat_of_nonneg h0, Int.toNat_of_nonneg (Int.emod_nonneg _ hp.ne')]
  exact Int.emod_emod_of_dvd _ hd

/-- A result is written as its low w bits, sign-extended (R197). -/
theorem destW_eq (t : ITy) (x : Int) : destW t x = (BitVec.ofInt t.width x).signExtend 64 := by
  rw [destW, sextI_eq, ofInt_narrow _ _ t.width_le]
  rfl

theorem destW_natCast (t : ITy) (n : Nat) : destW t (n : Int) = (BitVec.ofNat t.width n).signExtend 64 := by
  rw [destW_eq, BitVec.ofInt_natCast]

end Sys2Proof.Machine
end

