-- ==== Sys2Proof/Laws/Memory.lean ====
section
/-! SUPPORT. Laws of memory operations: each keeps the canonical form of every memory, and what a line reads after a write. -/

namespace Sys2Proof.Machine

/-! ### Module memory -/

theorem Memory.wf_iff (m : Memory) : m.wf = true ↔ Cells.wf m.dram = true ∧ Cells.wf m.host = true := by
  simp [Memory.wf]

theorem Memory.retag_host (m : Memory) (hl slot : Nat) : (m.retag hl slot).host = m.host := by
  unfold Memory.retag
  split
  · rfl
  · split <;> rfl

theorem Memory.wf_retag (m : Memory) (hl slot : Nat) (h : m.wf = true) : (m.retag hl slot).wf = true := by
  rw [Memory.wf_iff] at h ⊢
  refine ⟨?_, by rw [Memory.retag_host]; exact h.2⟩
  unfold Memory.retag
  split
  · exact h.1
  · split
    · exact h.1
    · generalize toBytes 64 _ = bs
      exact Cells.wf_putN m.dram _ bs h.1

theorem Memory.wf_write (m : Memory) (hl slot off : Nat) (bs : List Byte) (h : m.wf = true) :
    (m.write hl slot off bs).wf = true := by
  have hr := (Memory.wf_iff _).mp (Memory.wf_retag m hl slot h)
  simp only [Memory.wf_iff, Memory.write]
  generalize m.retag hl slot = m1 at hr
  exact ⟨Cells.wf_putN m1.dram _ bs hr.1, hr.2⟩

theorem Memory.wf_writeMask (m : Memory) (hl slot : Nat) (bs : AMap Byte) (h : m.wf = true) :
    (m.writeMask hl slot bs).wf = true := by
  have h1 := foldl_inv (fun m : Memory => m.wf = true) (fun (m : Memory) (e : Nat × Byte) => m.write hl slot e.1 [e.2]) bs
    (fun m e _ hm => Memory.wf_write m hl slot e.1 [e.2] hm) m h
  rw [Memory.wf_iff] at h1 ⊢
  exact h1

theorem Memory.wf_physWrite (m : Memory) (slot pa : Nat) (bs : List Byte) (h : m.wf = true) :
    (m.physWrite slot pa bs).wf = true :=
  foldl_inv (fun q : Memory × Nat => q.1.wf = true) _ bs (fun _ _ _ hq => Memory.wf_write _ _ _ _ _ hq) (m, pa) h

theorem wf_setAD (m : Memory) (w : Walk) (kind : WalkKind) (h : m.wf = true) : (setAD m w kind).wf = true := by
  have h1 : ∀ d, (if w.attrs ||| (0x40 + d) = w.attrs then m
      else m.physWrite 0 w.leaf (toBytes 8 (w.attrs ||| (0x40 + d)))).wf = true := by
    intro d
    split
    · exact h
    · exact Memory.wf_physWrite _ _ _ _ h
  unfold setAD
  cases kind <;> exact h1 _

theorem Memory.wf_putHost (m : Memory) (a : Nat) (bs : List Byte) (h : m.wf = true) :
    Memory.wf { m with host := Cells.putN m.host a bs } = true := by
  rw [Memory.wf_iff] at h ⊢
  exact ⟨h.1, Cells.wf_putN _ _ _ h.2⟩

theorem Memory.wf_send (m : Memory) (key : Nat) (p : Packet) (h : m.wf = true) : (m.send key p).wf = true := h

theorem Memory.wf_commit (m : Memory) (hl : Nat) (ws : List Nat) (w : Nat) (h : m.wf = true) :
    (m.commit hl ws w).2.wf = true := h

/-! ### Pools -/

theorem Core.wf_putNum (x : Core) (o n v : Nat) (h : Cells.wf x.pool = true) : Cells.wf (x.putNum o n v).pool = true :=
  Core.wf_putBytes x o _ h

theorem Core.wf_putMask (x : Core) (bs : AMap Byte) (h : Cells.wf x.pool = true) : Cells.wf (x.putMask bs).pool = true :=
  foldl_inv (fun x : Core => Cells.wf x.pool = true)
    (fun (x : Core) (e : Nat × Byte) => { x with pool := Cells.put x.pool e.1 e.2 }) bs
    (fun x e _ hx => Cells.wf_put x.pool e.1 e.2 hx) x h

@[simp] theorem Core.setTag_pool (x : Core) (o : Nat) (f : Bool) : (x.setTag o f).pool = x.pool := by
  unfold Core.setTag; split <;> rfl

/-! ### States -/

theorem State.memWf_iff (s : State) :
    s.memWf = true ↔ s.mem.wf = true ∧ ∀ e ∈ s.cores, Cells.wf e.2.pool = true := by
  simp [State.memWf]

theorem AMap.mem_set {α : Type} {m : AMap α} {k : Nat} {x : α} {e : Nat × α} (h : e ∈ AMap.set m k x) :
    e = (k, x) ∨ e ∈ m := by
  induction m with
  | nil => exact .inl (List.mem_singleton.mp h)
  | cons q m ih =>
    obtain ⟨j, y⟩ := q
    simp only [AMap.set] at h
    split at h
    · exact (List.mem_cons.mp h).imp_right (List.mem_cons_of_mem _)
    · split at h
      · exact List.mem_cons.mp h
      · rcases List.mem_cons.mp h with rfl | h
        · exact .inr (List.mem_cons_self ..)
        · exact (ih h).imp_right (List.mem_cons_of_mem _)

theorem AMap.mem_of_get {α : Type} (m : AMap α) (k : Nat) (x : α) (h : AMap.get m k = some x) : (k, x) ∈ m := by
  induction m with
  | nil => cases h
  | cons q m ih =>
    obtain ⟨j, y⟩ := q
    simp only [AMap.get] at h
    split at h
    · rename_i hj
      cases h
      exact hj ▸ List.mem_cons_self ..
    · exact List.mem_cons_of_mem _ (ih h)

/-- Every core's pool, listed or not, is in canonical form. -/
theorem State.wf_pool {s : State} (h : s.memWf = true) (c : Nat) : Cells.wf (s.core c).pool = true := by
  unfold State.core AMap.getD
  split
  · rename_i x hx
    exact ((State.memWf_iff s).mp h).2 _ (AMap.mem_of_get _ _ _ hx)
  · rfl

theorem State.memWf_setCore (s : State) (c : Nat) (x : Core) (h : s.memWf = true) (hx : Cells.wf x.pool = true) :
    (s.setCore c x).memWf = true := by
  rw [State.memWf_iff] at h ⊢
  refine ⟨h.1, fun e he => ?_⟩
  rcases AMap.mem_set he with rfl | he
  · exact hx
  · exact h.2 e he

/-- A core update that keeps the form of its pool keeps that of every memory. -/
theorem State.memWf_modCore (s : State) (c : Nat) (f : Core → Core) (h : s.memWf = true)
    (hf : ∀ x, Cells.wf x.pool = true → Cells.wf (f x).pool = true) : (s.modCore c f).memWf = true :=
  State.memWf_setCore s c _ h (hf _ (State.wf_pool h c))

theorem State.memWf_setThread (s : State) (c k : Nat) (t : Thread) (h : s.memWf = true) : (s.setThread c k t).memWf = true :=
  State.memWf_setCore s c _ h (State.wf_pool (s := s) h c)

theorem State.memWf_modThread (s : State) (c k : Nat) (f : Thread → Thread) (h : s.memWf = true) :
    (s.modThread c k f).memWf = true := State.memWf_setThread s c k _ h

theorem State.memWf_modMe (s : State) (f : Thread → Thread) (h : s.memWf = true) : (s.modMe f).memWf = true :=
  State.memWf_setThread s _ _ _ h

theorem State.memWf_modMem (s : State) (f : Memory → Memory) (h : s.memWf = true)
    (hf : s.mem.wf = true → (f s.mem).wf = true) : (s.modMem f).memWf = true := by
  rw [State.memWf_iff] at h ⊢
  exact ⟨hf h.1, h.2⟩

theorem memWf_setTagsWake_putBytes (s : State) (c o : Nat) (bs : List Byte) (h : s.memWf = true) :
    (s.modCore c (fun x => x.putBytes o bs)).memWf = true :=
  State.memWf_modCore s c _ h (fun x hx => Core.wf_putBytes x o bs hx)

/-- Reset lists no byte. -/
theorem State.reset_memWf : State.reset.memWf = true := by decide

/-! ### The operations of chapter 19 -/

theorem memWf_drainLine (s : State) (c k hl : Nat) (e : HeldLine) (h : s.memWf = true) : (drainLine s c k hl e).memWf = true := by
  unfold drainLine
  refine State.memWf_modThread _ _ _ _ (State.memWf_modCore _ _ _ ?_ ?_)
  · exact State.memWf_modMem _ _ h (fun hm => hm)
  · intro x hx
    unfold nearMerge
    split
    · exact hx
    · split <;> exact hx

theorem memWf_drainRegion (s : State) (c k : Nat) (h : s.memWf = true) : (drainRegion s c k).memWf = true :=
  State.memWf_modThread _ _ _ _
    (foldl_inv (fun s : State => s.memWf = true) _ _ (fun s e _ hs => memWf_drainLine s c k e.1 e.2 hs) s h)

theorem memWf_closeRegion (s : State) (c k : Nat) (h : s.memWf = true) : (closeRegion s c k).2.memWf = true := by
  unfold closeRegion
  split
  · exact h
  · split
    · exact State.memWf_modThread _ _ _ _ h
    · exact memWf_drainRegion _ _ _ h

theorem memWf_outsideWrite (s : State) (w : Nat) (tr : Trans) (bs : List Byte) (h : s.memWf = true) :
    (outsideWrite s w tr bs).memWf = true := by
  unfold outsideWrite
  split
  · exact State.memWf_modMem _ _ h (fun hm => Memory.wf_putHost _ _ _ hm)
  · dsimp only
    refine State.memWf_modMem _ _ h (fun hm => Memory.wf_send _ _ _ ?_)
    split <;> exact hm

theorem memWf_dispatchWrite (s : State) (c k : Nat) (q : QWrite) (h : s.memWf = true) : (dispatchWrite s c k q).memWf = true := by
  unfold dispatchWrite
  split
  · split
    · exact State.memWf_modMem _ _ h (fun hm => Memory.wf_putHost _ _ _ hm)
    · exact h
  · dsimp only
    refine State.memWf_modThread _ _ _ _ ?_
    have h1 : ∀ v : Option Nat × Memory, v.2.wf = true → ∀ key p, (s.modMem (fun _ => v.2.send key p)).memWf = true :=
      fun v hv key p => State.memWf_modMem _ _ h (fun _ => hv)
    have hm : s.mem.wf = true := ((State.memWf_iff s).mp h).1
    split
    · refine State.memWf_modCore _ _ _ (h1 _ ?_ _ _) ?_
      · split <;> exact hm
      · intro x hx
        unfold nearMerge
        split
        · exact hx
        · split <;> exact hx
    · refine State.memWf_modCore _ _ _ (h1 _ ?_ _ _) (fun x hx => hx)
      split <;> exact hm

theorem memWf_dispatchOldest (s : State) (c k : Nat) (h : s.memWf = true) : (dispatchOldest s c k).memWf = true := by
  unfold dispatchOldest
  split
  · exact h
  · exact memWf_dispatchWrite _ _ _ _ (State.memWf_modThread _ _ _ _ h)

theorem memWf_flushChan (n : Nat) (s : State) (h : s.memWf = true) : (flushChan n s).memWf = true := by
  induction n generalizing s with
  | zero => exact h
  | succ n ih =>
    unfold flushChan
    split
    · exact h
    · dsimp only
      split
      · exact h
      · refine ih _ ?_
        rw [State.memWf_iff] at h ⊢
        exact ⟨Memory.wf_putHost _ _ _ h.1, h.2⟩

theorem memWf_barrierArrive (s : State) (c off a : Nat) (h : s.memWf = true) : (barrierArrive s c off a).memWf = true := by
  have hw : ∀ s : State, s.memWf = true → ∀ line, (wakeBarrier s c line).memWf = true := by
    intro s hs line
    rw [State.memWf_iff] at hs ⊢
    refine ⟨hs.1, fun e he => ?_⟩
    obtain ⟨e', he', rfl⟩ := List.mem_map.mp he
    exact hs.2 e' he'
  unfold barrierArrive
  dsimp only
  split
  · exact h
  · have h1 : ∀ bs, (s.modCore c (fun x => { x with pool := Cells.putN x.pool off bs })).memWf = true :=
      fun bs => State.memWf_modCore _ _ _ h (fun x hx => Cells.wf_putN _ _ _ hx)
    split <;> split <;> first | exact h | exact h1 _ | exact hw _ h _ | exact hw _ (h1 _) _

/-! ### Reading a line back (M1, M6) -/

/-- The bytes of a DRAM line outside a write under its own key slot stay. -/
theorem Memory.write_dram (m : Memory) (hl slot off : Nat) (bs : List Byte) :
    (m.write hl slot off bs).dram = Cells.putN (m.retag hl slot).dram (hl * 64 + off) bs := rfl

/-- After a write the line is held under the writer's slot and generation. -/
theorem Memory.write_keys (m : Memory) (hl slot off : Nat) (bs : List Byte) :
    AMap.get (m.write hl slot off bs).keys hl = some (slot, m.gen slot) := by
  show AMap.get (m.retag hl slot).keys hl = _
  unfold Memory.retag
  split
  · simp
  · split
    · rename_i g he hs
      rw [he, hs.1, hs.2]
    · simp

end Sys2Proof.Machine
end

