-- ==== Sys2Proof/Laws/PerInstr.lean ====
section
/-! SUPPORT. The lemmas that the host gathers over every constructor of `Instr`: the decoder reads back the fields that the
encoder writes for a well-formed instruction (04). -/

namespace Sys2Proof.Laws.RoundTrip

set_option linter.unusedSimpArgs false
set_option Elab.async false

/-- R66-R76: an instruction that is well-formed and has a word is what the decoder reads from its fields, with no fault. -/
def Statement (i : Instr) : Prop := i.wf = true → ∀ f, toFields i = some f → ofFields Lim.full f = some (V.ok i)

theorem add : ∀ h t sa a b c, Statement (.add h t sa a b c) := by
  intro h t sa a b c hw f hf
  cases hf
  simp only [Instr.wf, Bool.and_eq_true, Bool.or_eq_true] at hw
  show some (dec_add Lim.full _) = _
  simp_all [dec_add]
theorem sub : ∀ h t sa a b c, Statement (.sub h t sa a b c) := by
  intro h t sa a b c hw f hf
  cases hf
  simp only [Instr.wf, Bool.and_eq_true, Bool.or_eq_true] at hw
  show some (dec_sub Lim.full _) = _
  simp_all [dec_sub]
theorem mul : ∀ h t sa a b c, Statement (.mul h t sa a b c) := by
  intro h t sa a b c hw f hf
  cases hf
  simp only [Instr.wf, Bool.and_eq_true, Bool.or_eq_true] at hw
  show some (dec_mul Lim.full _) = _
  simp_all [dec_mul]
theorem mulh : ∀ h t u a b c, Statement (.mulh h t u a b c) := by
  intro h t u a b c hw f hf
  cases hf
  simp only [Instr.wf, Bool.and_eq_true, Bool.or_eq_true] at hw
  show some (dec_mulh Lim.full _) = _
  simp_all [dec_mulh]
theorem mad : ∀ h t sa a b c, Statement (.mad h t sa a b c) := by
  intro h t sa a b c hw f hf
  cases hf
  simp only [Instr.wf, Bool.and_eq_true, Bool.or_eq_true] at hw
  show some (dec_mad Lim.full _) = _
  simp_all [dec_mad]
theorem div : ∀ h t u a b c, Statement (.div h t u a b c) := by
  intro h t u a b c hw f hf
  cases hf
  simp only [Instr.wf, Bool.and_eq_true, Bool.or_eq_true] at hw
  show some (dec_div Lim.full _) = _
  simp_all [dec_div]
theorem rem : ∀ h t u a b c, Statement (.rem h t u a b c) := by
  intro h t u a b c hw f hf
  cases hf
  simp only [Instr.wf, Bool.and_eq_true, Bool.or_eq_true] at hw
  show some (dec_rem Lim.full _) = _
  simp_all [dec_rem]
theorem and : ∀ h t a b c, Statement (.and h t a b c) := by
  intro h t a b c hw f hf
  cases hf
  simp only [Instr.wf, Bool.and_eq_true, Bool.or_eq_true] at hw
  show some (dec_and Lim.full _) = _
  simp_all [dec_and]
theorem or : ∀ h t a b c, Statement (.or h t a b c) := by
  intro h t a b c hw f hf
  cases hf
  simp only [Instr.wf, Bool.and_eq_true, Bool.or_eq_true] at hw
  show some (dec_or Lim.full _) = _
  simp_all [dec_or]
theorem xor : ∀ h t a b c, Statement (.xor h t a b c) := by
  intro h t a b c hw f hf
  cases hf
  simp only [Instr.wf, Bool.and_eq_true, Bool.or_eq_true] at hw
  show some (dec_xor Lim.full _) = _
  simp_all [dec_xor]
theorem andn : ∀ h t a b c, Statement (.andn h t a b c) := by
  intro h t a b c hw f hf
  cases hf
  simp only [Instr.wf, Bool.and_eq_true, Bool.or_eq_true] at hw
  show some (dec_andn Lim.full _) = _
  simp_all [dec_andn]
theorem shl : ∀ h t sa a b c, Statement (.shl h t sa a b c) := by
  intro h t sa a b c hw f hf
  cases hf
  simp only [Instr.wf, Bool.and_eq_true, Bool.or_eq_true] at hw
  show some (dec_shl Lim.full _) = _
  simp_all [dec_shl]
theorem shr : ∀ h t u a b c, Statement (.shr h t u a b c) := by
  intro h t u a b c hw f hf
  cases hf
  simp only [Instr.wf, Bool.and_eq_true, Bool.or_eq_true] at hw
  show some (dec_shr Lim.full _) = _
  simp_all [dec_shr]
theorem rot : ∀ h t a b c, Statement (.rot h t a b c) := by
  intro h t a b c hw f hf
  cases hf
  simp only [Instr.wf, Bool.and_eq_true, Bool.or_eq_true] at hw
  show some (dec_rot Lim.full _) = _
  simp_all [dec_rot]
theorem min : ∀ h t u a b c, Statement (.min h t u a b c) := by
  intro h t u a b c hw f hf
  cases hf
  simp only [Instr.wf, Bool.and_eq_true, Bool.or_eq_true] at hw
  show some (dec_min Lim.full _) = _
  simp_all [dec_min]
theorem max : ∀ h t u a b c, Statement (.max h t u a b c) := by
  intro h t u a b c hw f hf
  cases hf
  simp only [Instr.wf, Bool.and_eq_true, Bool.or_eq_true] at hw
  show some (dec_max Lim.full _) = _
  simp_all [dec_max]
theorem abs : ∀ h t sa a b, Statement (.abs h t sa a b) := by
  intro h t sa a b hw f hf
  cases hf
  simp only [Instr.wf, Bool.and_eq_true, Bool.or_eq_true] at hw
  show some (dec_abs Lim.full _) = _
  simp_all [dec_abs]
theorem clz : ∀ h t a b, Statement (.clz h t a b) := by
  intro h t a b hw f hf
  cases hf
  simp only [Instr.wf, Bool.and_eq_true, Bool.or_eq_true] at hw
  show some (dec_clz Lim.full _) = _
  simp_all [dec_clz]
theorem ctz : ∀ h t a b, Statement (.ctz h t a b) := by
  intro h t a b hw f hf
  cases hf
  simp only [Instr.wf, Bool.and_eq_true, Bool.or_eq_true] at hw
  show some (dec_ctz Lim.full _) = _
  simp_all [dec_ctz]
theorem pop : ∀ h t a b, Statement (.pop h t a b) := by
  intro h t a b hw f hf
  cases hf
  simp only [Instr.wf, Bool.and_eq_true, Bool.or_eq_true] at hw
  show some (dec_pop Lim.full _) = _
  simp_all [dec_pop]
theorem bext : ∀ h u a b c, Statement (.bext h u a b c) := by
  intro h u a b c hw f hf
  cases hf
  simp only [Instr.wf, Bool.and_eq_true, Bool.or_eq_true] at hw
  show some (dec_bext Lim.full _) = _
  simp_all [dec_bext]
theorem bins : ∀ h a b c, Statement (.bins h a b c) := by
  intro h a b c hw f hf
  cases hf
  simp only [Instr.wf, Bool.and_eq_true, Bool.or_eq_true] at hw
  show some (dec_bins Lim.full _) = _
  simp_all [dec_bins]
theorem extI : ∀ h t u a b, Statement (.extI h t u a b) := by
  intro h t u a b hw f hf
  cases hf
  simp only [Instr.wf, Bool.and_eq_true, Bool.or_eq_true] at hw
  show some (dec_extI Lim.full _) = _
  simp_all [dec_extI]
theorem mov : ∀ h a b, Statement (.mov h a b) := by
  intro h a b hw f hf
  cases hf
  simp only [Instr.wf, Bool.and_eq_true, Bool.or_eq_true] at hw
  show some (dec_mov Lim.full _) = _
  simp_all [dec_mov]
theorem li : ∀ h a w, Statement (.li h a w) := by
  intro h a w hw f hf
  cases hf
  simp only [Instr.wf, Bool.and_eq_true, Bool.or_eq_true] at hw
  show some (dec_li Lim.full _) = _
  simp_all [dec_li]
theorem lih : ∀ h a w, Statement (.lih h a w) := by
  intro h a w hw f hf
  cases hf
  simp only [Instr.wf, Bool.and_eq_true, Bool.or_eq_true] at hw
  show some (dec_lih Lim.full _) = _
  simp_all [dec_lih]
theorem lpc : ∀ h a c, Statement (.lpc h a c) := by
  intro h a c hw f hf
  cases hf
  simp only [Instr.wf, Bool.and_eq_true, Bool.or_eq_true] at hw
  show some (dec_lpc Lim.full _) = _
  simp_all [dec_lpc]
theorem sel : ∀ h n u a b c, Statement (.sel h n u a b c) := by
  intro h n u a b c hw f hf
  cases hf
  simp only [Instr.wf, Bool.and_eq_true, Bool.or_eq_true] at hw
  show some (dec_sel Lim.full _) = _
  simp_all [dec_sel]
theorem cmp : ∀ h t n u a b c, Statement (.cmp h t n u a b c) := by
  intro h t n u a b c hw f hf
  cases hf
  simp only [Instr.wf, Bool.and_eq_true, Bool.or_eq_true] at hw
  show some (dec_cmp Lim.full _) = _
  simp_all [dec_cmp]
theorem plog : ∀ h n a b c, Statement (.plog h n a b c) := by
  intro h n a b c hw f hf
  cases hf
  simp only [Instr.wf, Bool.and_eq_true, Bool.or_eq_true] at hw
  show some (dec_plog Lim.full _) = _
  simp_all [dec_plog]
theorem pmov : ∀ h u a b, Statement (.pmov h u a b) := by
  intro h u a b hw f hf
  cases hf
  simp only [Instr.wf, Bool.and_eq_true, Bool.or_eq_true] at hw
  show some (dec_pmov Lim.full _) = _
  simp_all [dec_pmov]
theorem pget : ∀ h a b, Statement (.pget h a b) := by
  intro h a b hw f hf
  cases hf
  simp only [Instr.wf, Bool.and_eq_true, Bool.or_eq_true] at hw
  show some (dec_pget Lim.full _) = _
  simp_all [dec_pget]
theorem br : ∀ h u a c, Statement (.br h u a c) := by
  intro h u a c hw f hf
  cases hf
  simp only [Instr.wf, Bool.and_eq_true, Bool.or_eq_true] at hw
  show some (dec_br Lim.full _) = _
  simp_all [dec_br]
theorem brl : ∀ h u a c, Statement (.brl h u a c) := by
  intro h u a c hw f hf
  cases hf
  simp only [Instr.wf, Bool.and_eq_true, Bool.or_eq_true] at hw
  show some (dec_brl Lim.full _) = _
  simp_all [dec_brl]
theorem jr : ∀ h u a b c, Statement (.jr h u a b c) := by
  intro h u a b c hw f hf
  cases hf
  simp only [Instr.wf, Bool.and_eq_true, Bool.or_eq_true] at hw
  show some (dec_jr Lim.full _) = _
  simp_all [dec_jr]
theorem jrl : ∀ h u a b c, Statement (.jrl h u a b c) := by
  intro h u a b c hw f hf
  cases hf
  simp only [Instr.wf, Bool.and_eq_true, Bool.or_eq_true] at hw
  show some (dec_jrl Lim.full _) = _
  simp_all [dec_jrl]
theorem dbr : ∀ h a c, Statement (.dbr h a c) := by
  intro h a c hw f hf
  cases hf
  simp only [Instr.wf, Bool.and_eq_true, Bool.or_eq_true] at hw
  show some (dec_dbr Lim.full _) = _
  simp_all [dec_dbr]
theorem ctlRd : ∀ h a b, Statement (.ctlRd h a b) := by
  intro h a b hw f hf
  cases hf
  simp only [Instr.wf, Bool.and_eq_true, Bool.or_eq_true] at hw
  show some (dec_ctlRd Lim.full _) = _
  simp_all [dec_ctlRd]
theorem ctlWr : ∀ h a b, Statement (.ctlWr h a b) := by
  intro h a b hw f hf
  cases hf
  simp only [Instr.wf, Bool.and_eq_true, Bool.or_eq_true] at hw
  show some (dec_ctlWr Lim.full _) = _
  simp_all [dec_ctlWr]
theorem ctlSet : ∀ h a b, Statement (.ctlSet h a b) := by
  intro h a b hw f hf
  cases hf
  simp only [Instr.wf, Bool.and_eq_true, Bool.or_eq_true] at hw
  show some (dec_ctlSet Lim.full _) = _
  simp_all [dec_ctlSet]
theorem ctlClr : ∀ h a b, Statement (.ctlClr h a b) := by
  intro h a b hw f hf
  cases hf
  simp only [Instr.wf, Bool.and_eq_true, Bool.or_eq_true] at hw
  show some (dec_ctlClr Lim.full _) = _
  simp_all [dec_ctlClr]
theorem trap : ∀ h c, Statement (.trap h c) := by
  intro h c hw f hf
  cases hf
  simp only [Instr.wf, Bool.and_eq_true, Bool.or_eq_true] at hw
  show some (dec_trap Lim.full _) = _
  simp_all [dec_trap]
theorem eret : ∀ h, Statement (.eret h) := by
  intro h hw f hf
  cases hf
  simp only [Instr.wf, Bool.and_eq_true, Bool.or_eq_true] at hw
  show some (dec_eret Lim.full _) = _
  simp_all [dec_eret]
theorem sysc : ∀ h c, Statement (.sysc h c) := by
  intro h c hw f hf
  cases hf
  simp only [Instr.wf, Bool.and_eq_true, Bool.or_eq_true] at hw
  show some (dec_sysc Lim.full _) = _
  simp_all [dec_sysc]
theorem halt : ∀ h, Statement (.halt h) := by
  intro h hw f hf
  cases hf
  simp only [Instr.wf, Bool.and_eq_true, Bool.or_eq_true] at hw
  show some (dec_halt Lim.full _) = _
  simp_all [dec_halt]
theorem nop : ∀ h, Statement (.nop h) := by
  intro h hw f hf
  cases hf
  simp only [Instr.wf, Bool.and_eq_true, Bool.or_eq_true] at hw
  show some (dec_nop Lim.full _) = _
  simp_all [dec_nop]
theorem yieldI : ∀ h, Statement (.yieldI h) := by
  intro h hw f hf
  cases hf
  simp only [Instr.wf, Bool.and_eq_true, Bool.or_eq_true] at hw
  show some (dec_yieldI Lim.full _) = _
  simp_all [dec_yieldI]
theorem ifence : ∀ h, Statement (.ifence h) := by
  intro h hw f hf
  cases hf
  simp only [Instr.wf, Bool.and_eq_true, Bool.or_eq_true] at hw
  show some (dec_ifence Lim.full _) = _
  simp_all [dec_ifence]
theorem ifenceFill : ∀ h a b c, Statement (.ifenceFill h a b c) := by
  intro h a b c hw f hf
  cases hf
  simp only [Instr.wf, Bool.and_eq_true, Bool.or_eq_true] at hw
  show some (dec_ifenceFill Lim.full _) = _
  simp_all [dec_ifenceFill]
theorem gangShed : ∀ h, Statement (.gangShed h) := by
  intro h hw f hf
  cases hf
  simp only [Instr.wf, Bool.and_eq_true, Bool.or_eq_true] at hw
  show some (dec_gangShed Lim.full _) = _
  simp_all [dec_gangShed]
theorem gangJoin : ∀ h, Statement (.gangJoin h) := by
  intro h hw f hf
  cases hf
  simp only [Instr.wf, Bool.and_eq_true, Bool.or_eq_true] at hw
  show some (dec_gangJoin Lim.full _) = _
  simp_all [dec_gangJoin]
theorem demand : ∀ h a b, Statement (.demand h a b) := by
  intro h a b hw f hf
  cases hf
  simp only [Instr.wf, Bool.and_eq_true, Bool.or_eq_true] at hw
  show some (dec_demand Lim.full _) = _
  simp_all [dec_demand]
theorem settle : ∀ h, Statement (.settle h) := by
  intro h hw f hf
  cases hf
  simp only [Instr.wf, Bool.and_eq_true, Bool.or_eq_true] at hw
  show some (dec_settle Lim.full _) = _
  simp_all [dec_settle]
theorem bshare : ∀ h a b c, Statement (.bshare h a b c) := by
  intro h a b c hw f hf
  cases hf
  simp only [Instr.wf, Bool.and_eq_true, Bool.or_eq_true] at hw
  show some (dec_bshare Lim.full _) = _
  simp_all [dec_bshare]
theorem bmov : ∀ h m, Statement (.bmov h m) := by
  intro h m hw f hf
  cases hf
  simp only [Instr.wf, Bool.and_eq_true, Bool.or_eq_true] at hw
  show some (dec_bmov Lim.full _) = _
  simp_all [dec_bmov]
theorem grade : ∀ h m, Statement (.grade h m) := by
  intro h m hw f hf
  cases hf
  simp only [Instr.wf, Bool.and_eq_true, Bool.or_eq_true] at hw
  show some (dec_grade Lim.full _) = _
  simp_all [dec_grade]
theorem sensLd : ∀ h a b, Statement (.sensLd h a b) := by
  intro h a b hw f hf
  cases hf
  simp only [Instr.wf, Bool.and_eq_true, Bool.or_eq_true] at hw
  show some (dec_sensLd Lim.full _) = _
  simp_all [dec_sensLd]
theorem sensLdReset : ∀ h a, Statement (.sensLdReset h a) := by
  intro h a hw f hf
  cases hf
  simp only [Instr.wf, Bool.and_eq_true, Bool.or_eq_true] at hw
  show some (dec_sensLdReset Lim.full _) = _
  simp_all [dec_sensLdReset]
theorem ld : ∀ h t u a b, Statement (.ld h t u a b) := by
  intro h t u a b hw f hf
  cases hf
  simp only [Instr.wf, Bool.and_eq_true, Bool.or_eq_true] at hw
  show some (dec_ld Lim.full _) = _
  simp_all [dec_ld]
theorem st : ∀ h t a b, Statement (.st h t a b) := by
  intro h t a b hw f hf
  cases hf
  simp only [Instr.wf, Bool.and_eq_true, Bool.or_eq_true] at hw
  show some (dec_st Lim.full _) = _
  simp_all [dec_st]
theorem ldAcq : ∀ h t n u a b, Statement (.ldAcq h t n u a b) := by
  intro h t n u a b hw f hf
  cases hf
  simp only [Instr.wf, Bool.and_eq_true, Bool.or_eq_true] at hw
  show some (dec_ldAcq Lim.full _) = _
  simp_all [dec_ldAcq]
theorem stRel : ∀ h t n a b, Statement (.stRel h t n a b) := by
  intro h t n a b hw f hf
  cases hf
  simp only [Instr.wf, Bool.and_eq_true, Bool.or_eq_true] at hw
  show some (dec_stRel Lim.full _) = _
  simp_all [dec_stRel]
theorem ldWf : ∀ h t n u a b, Statement (.ldWf h t n u a b) := by
  intro h t n u a b hw f hf
  cases hf
  simp only [Instr.wf, Bool.and_eq_true, Bool.or_eq_true] at hw
  show some (dec_ldWf Lim.full _) = _
  simp_all [dec_ldWf]
theorem stWe : ∀ h t a b, Statement (.stWe h t a b) := by
  intro h t a b hw f hf
  cases hf
  simp only [Instr.wf, Bool.and_eq_true, Bool.or_eq_true] at hw
  show some (dec_stWe Lim.full _) = _
  simp_all [dec_stWe]
theorem tagRd : ∀ h a b, Statement (.tagRd h a b) := by
  intro h a b hw f hf
  cases hf
  simp only [Instr.wf, Bool.and_eq_true, Bool.or_eq_true] at hw
  show some (dec_tagRd Lim.full _) = _
  simp_all [dec_tagRd]
theorem tagFull : ∀ h a b, Statement (.tagFull h a b) := by
  intro h a b hw f hf
  cases hf
  simp only [Instr.wf, Bool.and_eq_true, Bool.or_eq_true] at hw
  show some (dec_tagFull Lim.full _) = _
  simp_all [dec_tagFull]
theorem tagEmpty : ∀ h a b, Statement (.tagEmpty h a b) := by
  intro h a b hw f hf
  cases hf
  simp only [Instr.wf, Bool.and_eq_true, Bool.or_eq_true] at hw
  show some (dec_tagEmpty Lim.full _) = _
  simp_all [dec_tagEmpty]
theorem pref : ∀ h a, Statement (.pref h a) := by
  intro h a hw f hf
  cases hf
  simp only [Instr.wf, Bool.and_eq_true, Bool.or_eq_true] at hw
  show some (dec_pref Lim.full _) = _
  simp_all [dec_pref]
theorem cfl : ∀ h a, Statement (.cfl h a) := by
  intro h a hw f hf
  cases hf
  simp only [Instr.wf, Bool.and_eq_true, Bool.or_eq_true] at hw
  show some (dec_cfl Lim.full _) = _
  simp_all [dec_cfl]
theorem cflEvict : ∀ h a, Statement (.cflEvict h a) := by
  intro h a hw f hf
  cases hf
  simp only [Instr.wf, Bool.and_eq_true, Bool.or_eq_true] at hw
  show some (dec_cflEvict Lim.full _) = _
  simp_all [dec_cflEvict]
theorem cinv : ∀ h a, Statement (.cinv h a) := by
  intro h a hw f hf
  cases hf
  simp only [Instr.wf, Bool.and_eq_true, Bool.or_eq_true] at hw
  show some (dec_cinv Lim.full _) = _
  simp_all [dec_cinv]
theorem cinvAll : ∀ h, Statement (.cinvAll h) := by
  intro h hw f hf
  cases hf
  simp only [Instr.wf, Bool.and_eq_true, Bool.or_eq_true] at hw
  show some (dec_cinvAll Lim.full _) = _
  simp_all [dec_cinvAll]
theorem fence : ∀ h n, Statement (.fence h n) := by
  intro h n hw f hf
  cases hf
  simp only [Instr.wf, Bool.and_eq_true, Bool.or_eq_true] at hw
  show some (pickFence _ _ _ _) = _
  simp [pickFence, dec_fence]
theorem fenceAcq : ∀ h n, Statement (.fenceAcq h n) := by
  intro h n hw f hf
  cases hf
  simp only [Instr.wf, Bool.and_eq_true, Bool.or_eq_true] at hw
  show some (pickFence _ _ _ _) = _
  simp [pickFence, dec_fenceAcq]
theorem fenceRel : ∀ h n, Statement (.fenceRel h n) := by
  intro h n hw f hf
  cases hf
  simp only [Instr.wf, Bool.and_eq_true, Bool.or_eq_true] at hw
  show some (pickFence _ _ _ _) = _
  simp [pickFence, dec_fenceRel]
theorem region : ∀ h, Statement (.region h) := by
  intro h hw f hf
  cases hf
  simp only [Instr.wf, Bool.and_eq_true, Bool.or_eq_true] at hw
  show some (dec_region Lim.full _) = _
  simp_all [dec_region]
theorem regionForce : ∀ h, Statement (.regionForce h) := by
  intro h hw f hf
  cases hf
  simp only [Instr.wf, Bool.and_eq_true, Bool.or_eq_true] at hw
  show some (dec_regionForce Lim.full _) = _
  simp_all [dec_regionForce]
theorem regionDrop : ∀ h, Statement (.regionDrop h) := by
  intro h hw f hf
  cases hf
  simp only [Instr.wf, Bool.and_eq_true, Bool.or_eq_true] at hw
  show some (dec_regionDrop Lim.full _) = _
  simp_all [dec_regionDrop]
theorem ldPair : ∀ h t u a b c, Statement (.ldPair h t u a b c) := by
  intro h t u a b c hw f hf
  cases hf
  simp only [Instr.wf, Bool.and_eq_true, Bool.or_eq_true] at hw
  show some (dec_ldPair Lim.full _) = _
  simp_all [dec_ldPair]
theorem stPair : ∀ h t a b c, Statement (.stPair h t a b c) := by
  intro h t a b c hw f hf
  cases hf
  simp only [Instr.wf, Bool.and_eq_true, Bool.or_eq_true] at hw
  show some (dec_stPair Lim.full _) = _
  simp_all [dec_stPair]
theorem launch : ∀ h a b, Statement (.launch h a b) := by
  intro h a b hw f hf
  cases hf
  simp only [Instr.wf, Bool.and_eq_true, Bool.or_eq_true] at hw
  show some (dec_launch Lim.full _) = _
  simp_all [dec_launch]
theorem doneI : ∀ h, Statement (.doneI h) := by
  intro h hw f hf
  cases hf
  simp only [Instr.wf, Bool.and_eq_true, Bool.or_eq_true] at hw
  show some (dec_doneI Lim.full _) = _
  simp_all [dec_doneI]
theorem nexttile : ∀ h a, Statement (.nexttile h a) := by
  intro h a hw f hf
  cases hf
  simp only [Instr.wf, Bool.and_eq_true, Bool.or_eq_true] at hw
  show some (dec_nexttile Lim.full _) = _
  simp_all [dec_nexttile]
theorem ringClaim : ∀ h u a b, Statement (.ringClaim h u a b) := by
  intro h u a b hw f hf
  cases hf
  simp only [Instr.wf, Bool.and_eq_true, Bool.or_eq_true] at hw
  show some (dec_ringClaim Lim.full _) = _
  simp_all [dec_ringClaim]
theorem ringPost : ∀ h a b, Statement (.ringPost h a b) := by
  intro h a b hw f hf
  cases hf
  simp only [Instr.wf, Bool.and_eq_true, Bool.or_eq_true] at hw
  show some (dec_ringPost Lim.full _) = _
  simp_all [dec_ringPost]
theorem ringTake : ∀ h u a b, Statement (.ringTake h u a b) := by
  intro h u a b hw f hf
  cases hf
  simp only [Instr.wf, Bool.and_eq_true, Bool.or_eq_true] at hw
  show some (dec_ringTake Lim.full _) = _
  simp_all [dec_ringTake]
theorem ringFree : ∀ h a b, Statement (.ringFree h a b) := by
  intro h a b hw f hf
  cases hf
  simp only [Instr.wf, Bool.and_eq_true, Bool.or_eq_true] at hw
  show some (dec_ringFree Lim.full _) = _
  simp_all [dec_ringFree]
theorem ringStat : ∀ h a b, Statement (.ringStat h a b) := by
  intro h a b hw f hf
  cases hf
  simp only [Instr.wf, Bool.and_eq_true, Bool.or_eq_true] at hw
  show some (dec_ringStat Lim.full _) = _
  simp_all [dec_ringStat]
theorem copy : ∀ h a b, Statement (.copy h a b) := by
  intro h a b hw f hf
  cases hf
  simp only [Instr.wf, Bool.and_eq_true, Bool.or_eq_true] at hw
  show some (dec_copy Lim.full _) = _
  simp_all [dec_copy]
theorem copyDeal : ∀ h a b c, Statement (.copyDeal h a b c) := by
  intro h a b c hw f hf
  cases hf
  simp only [Instr.wf, Bool.and_eq_true, Bool.or_eq_true] at hw
  show some (dec_copyDeal Lim.full _) = _
  simp_all [dec_copyDeal]
theorem shutQ : ∀ h a b, Statement (.shutQ h a b) := by
  intro h a b hw f hf
  cases hf
  simp only [Instr.wf, Bool.and_eq_true, Bool.or_eq_true] at hw
  show some (dec_shutQ Lim.full _) = _
  simp_all [dec_shutQ]
theorem shutQDrop : ∀ h a b, Statement (.shutQDrop h a b) := by
  intro h a b hw f hf
  cases hf
  simp only [Instr.wf, Bool.and_eq_true, Bool.or_eq_true] at hw
  show some (dec_shutQDrop Lim.full _) = _
  simp_all [dec_shutQDrop]
theorem copyResume : ∀ h a b c, Statement (.copyResume h a b c) := by
  intro h a b c hw f hf
  cases hf
  simp only [Instr.wf, Bool.and_eq_true, Bool.or_eq_true] at hw
  show some (dec_copyResume Lim.full _) = _
  simp_all [dec_copyResume]
theorem mx : ∀ h a b, Statement (.mx h a b) := by
  intro h a b hw f hf
  cases hf
  simp only [Instr.wf, Bool.and_eq_true, Bool.or_eq_true] at hw
  show some (dec_mx Lim.full _) = _
  simp_all [dec_mx]
theorem accZero : ∀ h a b c, Statement (.accZero h a b c) := by
  intro h a b c hw f hf
  cases hf
  simp only [Instr.wf, Bool.and_eq_true, Bool.or_eq_true] at hw
  show some (dec_accZero Lim.full _) = _
  simp_all [dec_accZero]
theorem cnPut : ∀ h a b c, Statement (.cnPut h a b c) := by
  intro h a b c hw f hf
  cases hf
  simp only [Instr.wf, Bool.and_eq_true, Bool.or_eq_true] at hw
  show some (dec_cnPut Lim.full _) = _
  simp_all [dec_cnPut]
theorem cnGet : ∀ h a b, Statement (.cnGet h a b) := by
  intro h a b hw f hf
  cases hf
  simp only [Instr.wf, Bool.and_eq_true, Bool.or_eq_true] at hw
  show some (dec_cnGet Lim.full _) = _
  simp_all [dec_cnGet]
theorem cnGetRef : ∀ h a b, Statement (.cnGetRef h a b) := by
  intro h a b hw f hf
  cases hf
  simp only [Instr.wf, Bool.and_eq_true, Bool.or_eq_true] at hw
  show some (dec_cnGetRef Lim.full _) = _
  simp_all [dec_cnGetRef]
theorem cnRef : ∀ h a b, Statement (.cnRef h a b) := by
  intro h a b hw f hf
  cases hf
  simp only [Instr.wf, Bool.and_eq_true, Bool.or_eq_true] at hw
  show some (dec_cnRef Lim.full _) = _
  simp_all [dec_cnRef]
theorem cnUnref : ∀ h a b, Statement (.cnUnref h a b) := by
  intro h a b hw f hf
  cases hf
  simp only [Instr.wf, Bool.and_eq_true, Bool.or_eq_true] at hw
  show some (dec_cnUnref Lim.full _) = _
  simp_all [dec_cnUnref]
theorem cnNode : ∀ h a b c, Statement (.cnNode h a b c) := by
  intro h a b c hw f hf
  cases hf
  simp only [Instr.wf, Bool.and_eq_true, Bool.or_eq_true] at hw
  show some (dec_cnNode Lim.full _) = _
  simp_all [dec_cnNode]
theorem cnSwap : ∀ h a b c, Statement (.cnSwap h a b c) := by
  intro h a b c hw f hf
  cases hf
  simp only [Instr.wf, Bool.and_eq_true, Bool.or_eq_true] at hw
  show some (dec_cnSwap Lim.full _) = _
  simp_all [dec_cnSwap]
theorem cnRoot : ∀ h a b c, Statement (.cnRoot h a b c) := by
  intro h a b c hw f hf
  cases hf
  simp only [Instr.wf, Bool.and_eq_true, Bool.or_eq_true] at hw
  show some (dec_cnRoot Lim.full _) = _
  simp_all [dec_cnRoot]
theorem cnRootRef : ∀ h a b c, Statement (.cnRootRef h a b c) := by
  intro h a b c hw f hf
  cases hf
  simp only [Instr.wf, Bool.and_eq_true, Bool.or_eq_true] at hw
  show some (dec_cnRootRef Lim.full _) = _
  simp_all [dec_cnRootRef]
theorem cnOut : ∀ h a b c, Statement (.cnOut h a b c) := by
  intro h a b c hw f hf
  cases hf
  simp only [Instr.wf, Bool.and_eq_true, Bool.or_eq_true] at hw
  show some (dec_cnOut Lim.full _) = _
  simp_all [dec_cnOut]
theorem cnCfg : ∀ h a b, Statement (.cnCfg h a b) := by
  intro h a b hw f hf
  cases hf
  simp only [Instr.wf, Bool.and_eq_true, Bool.or_eq_true] at hw
  show some (dec_cnCfg Lim.full _) = _
  simp_all [dec_cnCfg]
theorem cnCfgStat : ∀ h a b, Statement (.cnCfgStat h a b) := by
  intro h a b hw f hf
  cases hf
  simp only [Instr.wf, Bool.and_eq_true, Bool.or_eq_true] at hw
  show some (dec_cnCfgStat Lim.full _) = _
  simp_all [dec_cnCfgStat]
theorem amo : ∀ h t n r u a b c, Statement (.amo h t n r u a b c) := by
  intro h t n r u a b c hw f hf
  cases hf
  simp only [Instr.wf, Bool.and_eq_true, Bool.or_eq_true] at hw
  show some (dec_amo Lim.full _) = _
  simp_all [dec_amo]
theorem amoCas : ∀ h t a b c, Statement (.amoCas h t a b c) := by
  intro h t a b c hw f hf
  cases hf
  simp only [Instr.wf, Bool.and_eq_true, Bool.or_eq_true] at hw
  show some (dec_amoCas Lim.full _) = _
  simp_all [dec_amoCas]
theorem red : ∀ h t n r u a b c, Statement (.red h t n r u a b c) := by
  intro h t n r u a b c hw f hf
  cases hf
  simp only [Instr.wf, Bool.and_eq_true, Bool.or_eq_true] at hw
  show some (dec_red Lim.full _) = _
  simp_all [dec_red]
theorem bupd : ∀ h n u a b, Statement (.bupd h n u a b) := by
  intro h n u a b hw f hf
  cases hf
  simp only [Instr.wf, Bool.and_eq_true, Bool.or_eq_true] at hw
  show some (dec_bupd Lim.full _) = _
  simp_all [dec_bupd]
theorem bupdR : ∀ h n u a b c, Statement (.bupdR h n u a b c) := by
  intro h n u a b c hw f hf
  cases hf
  simp only [Instr.wf, Bool.and_eq_true, Bool.or_eq_true] at hw
  show some (dec_bupdR Lim.full _) = _
  simp_all [dec_bupdR]
theorem bcfg : ∀ h a b c, Statement (.bcfg h a b c) := by
  intro h a b c hw f hf
  cases hf
  simp only [Instr.wf, Bool.and_eq_true, Bool.or_eq_true] at hw
  show some (dec_bcfg Lim.full _) = _
  simp_all [dec_bcfg]
theorem vbupd : ∀ h n u a b c, Statement (.vbupd h n u a b c) := by
  intro h n u a b c hw f hf
  cases hf
  simp only [Instr.wf, Bool.and_eq_true, Bool.or_eq_true] at hw
  show some (dec_vbupd Lim.full _) = _
  simp_all [dec_vbupd]
theorem barInit : ∀ h a b, Statement (.barInit h a b) := by
  intro h a b hw f hf
  cases hf
  simp only [Instr.wf, Bool.and_eq_true, Bool.or_eq_true] at hw
  show some (dec_barInit Lim.full _) = _
  simp_all [dec_barInit]
theorem barArr : ∀ h a b c, Statement (.barArr h a b c) := by
  intro h a b c hw f hf
  cases hf
  simp only [Instr.wf, Bool.and_eq_true, Bool.or_eq_true] at hw
  show some (dec_barArr Lim.full _) = _
  simp_all [dec_barArr]
theorem barWait : ∀ h a b, Statement (.barWait h a b) := by
  intro h a b hw f hf
  cases hf
  simp only [Instr.wf, Bool.and_eq_true, Bool.or_eq_true] at hw
  show some (dec_barWait Lim.full _) = _
  simp_all [dec_barWait]
theorem barTest : ∀ h a b, Statement (.barTest h a b) := by
  intro h a b hw f hf
  cases hf
  simp only [Instr.wf, Bool.and_eq_true, Bool.or_eq_true] at hw
  show some (dec_barTest Lim.full _) = _
  simp_all [dec_barTest]
theorem tbar : ∀ h a c, Statement (.tbar h a c) := by
  intro h a c hw f hf
  cases hf
  simp only [Instr.wf, Bool.and_eq_true, Bool.or_eq_true] at hw
  show some (dec_tbar Lim.full _) = _
  simp_all [dec_tbar]
theorem nred : ∀ h t n r u a b c, Statement (.nred h t n r u a b c) := by
  intro h t n r u a b c hw f hf
  cases hf
  simp only [Instr.wf, Bool.and_eq_true, Bool.or_eq_true] at hw
  show some (dec_nred Lim.full _) = _
  simp_all [dec_nred]
theorem wait : ∀ h a b c, Statement (.wait h a b c) := by
  intro h a b c hw f hf
  cases hf
  simp only [Instr.wf, Bool.and_eq_true, Bool.or_eq_true] at hw
  show some (dec_wait Lim.full _) = _
  simp_all [dec_wait]
theorem pause : ∀ h a, Statement (.pause h a) := by
  intro h a hw f hf
  cases hf
  simp only [Instr.wf, Bool.and_eq_true, Bool.or_eq_true] at hw
  show some (dec_pause Lim.full _) = _
  simp_all [dec_pause]
theorem msgSend : ∀ h a b c, Statement (.msgSend h a b c) := by
  intro h a b c hw f hf
  cases hf
  simp only [Instr.wf, Bool.and_eq_true, Bool.or_eq_true] at hw
  show some (dec_msgSend Lim.full _) = _
  simp_all [dec_msgSend]
theorem hatchPut : ∀ h b, Statement (.hatchPut h b) := by
  intro h b hw f hf
  cases hf
  simp only [Instr.wf, Bool.and_eq_true, Bool.or_eq_true] at hw
  show some (dec_hatchPut Lim.full _) = _
  simp_all [dec_hatchPut]
theorem hatchGet : ∀ h a, Statement (.hatchGet h a) := by
  intro h a hw f hf
  cases hf
  simp only [Instr.wf, Bool.and_eq_true, Bool.or_eq_true] at hw
  show some (dec_hatchGet Lim.full _) = _
  simp_all [dec_hatchGet]
theorem hatchFree : ∀ h a, Statement (.hatchFree h a) := by
  intro h a hw f hf
  cases hf
  simp only [Instr.wf, Bool.and_eq_true, Bool.or_eq_true] at hw
  show some (dec_hatchFree Lim.full _) = _
  simp_all [dec_hatchFree]
theorem jobPoll : ∀ h a b c, Statement (.jobPoll h a b c) := by
  intro h a b c hw f hf
  cases hf
  simp only [Instr.wf, Bool.and_eq_true, Bool.or_eq_true] at hw
  show some (dec_jobPoll Lim.full _) = _
  simp_all [dec_jobPoll]
theorem jobPollAcq : ∀ h a b c, Statement (.jobPollAcq h a b c) := by
  intro h a b c hw f hf
  cases hf
  simp only [Instr.wf, Bool.and_eq_true, Bool.or_eq_true] at hw
  show some (dec_jobPollAcq Lim.full _) = _
  simp_all [dec_jobPollAcq]
theorem jobCancel : ∀ h a b c, Statement (.jobCancel h a b c) := by
  intro h a b c hw f hf
  cases hf
  simp only [Instr.wf, Bool.and_eq_true, Bool.or_eq_true] at hw
  show some (dec_jobCancel Lim.full _) = _
  simp_all [dec_jobCancel]
theorem vld : ∀ h a b c, Statement (.vld h a b c) := by
  intro h a b c hw f hf
  cases hf
  simp only [Instr.wf, Bool.and_eq_true, Bool.or_eq_true] at hw
  show some (dec_vld Lim.full _) = _
  simp_all [dec_vld]
theorem vst : ∀ h a b, Statement (.vst h a b) := by
  intro h a b hw f hf
  cases hf
  simp only [Instr.wf, Bool.and_eq_true, Bool.or_eq_true] at hw
  show some (dec_vst Lim.full _) = _
  simp_all [dec_vst]
theorem vadd : ∀ h t r sa a b c, Statement (.vadd h t r sa a b c) := by
  intro h t r sa a b c hw f hf
  cases hf
  simp only [Instr.wf, Bool.and_eq_true, Bool.or_eq_true] at hw
  show some (dec_vadd Lim.full _) = _
  simp_all [dec_vadd]
theorem vsub : ∀ h t r sa a b c, Statement (.vsub h t r sa a b c) := by
  intro h t r sa a b c hw f hf
  cases hf
  simp only [Instr.wf, Bool.and_eq_true, Bool.or_eq_true] at hw
  show some (dec_vsub Lim.full _) = _
  simp_all [dec_vsub]
theorem vmul : ∀ h t r sa a b c, Statement (.vmul h t r sa a b c) := by
  intro h t r sa a b c hw f hf
  cases hf
  simp only [Instr.wf, Bool.and_eq_true, Bool.or_eq_true] at hw
  show some (dec_vmul Lim.full _) = _
  simp_all [dec_vmul]
theorem vfma : ∀ h t r sa a b c, Statement (.vfma h t r sa a b c) := by
  intro h t r sa a b c hw f hf
  cases hf
  simp only [Instr.wf, Bool.and_eq_true, Bool.or_eq_true] at hw
  show some (dec_vfma Lim.full _) = _
  simp_all [dec_vfma]
theorem vfms : ∀ h t r sa a b c, Statement (.vfms h t r sa a b c) := by
  intro h t r sa a b c hw f hf
  cases hf
  simp only [Instr.wf, Bool.and_eq_true, Bool.or_eq_true] at hw
  show some (dec_vfms Lim.full _) = _
  simp_all [dec_vfms]
theorem vnfma : ∀ h t r sa a b c, Statement (.vnfma h t r sa a b c) := by
  intro h t r sa a b c hw f hf
  cases hf
  simp only [Instr.wf, Bool.and_eq_true, Bool.or_eq_true] at hw
  show some (dec_vnfma Lim.full _) = _
  simp_all [dec_vnfma]
theorem vmin : ∀ h t u a b c, Statement (.vmin h t u a b c) := by
  intro h t u a b c hw f hf
  cases hf
  simp only [Instr.wf, Bool.and_eq_true, Bool.or_eq_true] at hw
  show some (dec_vmin Lim.full _) = _
  simp_all [dec_vmin]
theorem vmax : ∀ h t u a b c, Statement (.vmax h t u a b c) := by
  intro h t u a b c hw f hf
  cases hf
  simp only [Instr.wf, Bool.and_eq_true, Bool.or_eq_true] at hw
  show some (dec_vmax Lim.full _) = _
  simp_all [dec_vmax]
theorem vabs : ∀ h t sa a b, Statement (.vabs h t sa a b) := by
  intro h t sa a b hw f hf
  cases hf
  simp only [Instr.wf, Bool.and_eq_true, Bool.or_eq_true] at hw
  show some (dec_vabs Lim.full _) = _
  simp_all [dec_vabs]
theorem vneg : ∀ h t sa a b, Statement (.vneg h t sa a b) := by
  intro h t sa a b hw f hf
  cases hf
  simp only [Instr.wf, Bool.and_eq_true, Bool.or_eq_true] at hw
  show some (dec_vneg Lim.full _) = _
  simp_all [dec_vneg]
theorem vcvt : ∀ h t r sa a b c, Statement (.vcvt h t r sa a b c) := by
  intro h t r sa a b c hw f hf
  cases hf
  simp only [Instr.wf, Bool.and_eq_true, Bool.or_eq_true] at hw
  show some (dec_vcvt Lim.full _) = _
  simp_all [dec_vcvt]
theorem vsum : ∀ h t r sa a b, Statement (.vsum h t r sa a b) := by
  intro h t r sa a b hw f hf
  cases hf
  simp only [Instr.wf, Bool.and_eq_true, Bool.or_eq_true] at hw
  show some (dec_vsum Lim.full _) = _
  simp_all [dec_vsum]
theorem vdot : ∀ h t r sa a b c, Statement (.vdot h t r sa a b c) := by
  intro h t r sa a b c hw f hf
  cases hf
  simp only [Instr.wf, Bool.and_eq_true, Bool.or_eq_true] at hw
  show some (dec_vdot Lim.full _) = _
  simp_all [dec_vdot]
theorem vcmp : ∀ h t n u a b c, Statement (.vcmp h t n u a b c) := by
  intro h t n u a b c hw f hf
  cases hf
  simp only [Instr.wf, Bool.and_eq_true, Bool.or_eq_true] at hw
  show some (dec_vcmp Lim.full _) = _
  simp_all [dec_vcmp]
theorem vsel : ∀ h t a b c, Statement (.vsel h t a b c) := by
  intro h t a b c hw f hf
  cases hf
  simp only [Instr.wf, Bool.and_eq_true, Bool.or_eq_true] at hw
  show some (dec_vsel Lim.full _) = _
  simp_all [dec_vsel]
theorem vand : ∀ h a b c, Statement (.vand h a b c) := by
  intro h a b c hw f hf
  cases hf
  simp only [Instr.wf, Bool.and_eq_true, Bool.or_eq_true] at hw
  show some (dec_vand Lim.full _) = _
  simp_all [dec_vand]
theorem vor : ∀ h a b c, Statement (.vor h a b c) := by
  intro h a b c hw f hf
  cases hf
  simp only [Instr.wf, Bool.and_eq_true, Bool.or_eq_true] at hw
  show some (dec_vor Lim.full _) = _
  simp_all [dec_vor]
theorem vxor : ∀ h a b c, Statement (.vxor h a b c) := by
  intro h a b c hw f hf
  cases hf
  simp only [Instr.wf, Bool.and_eq_true, Bool.or_eq_true] at hw
  show some (dec_vxor Lim.full _) = _
  simp_all [dec_vxor]
theorem vshl : ∀ h t sa a b c, Statement (.vshl h t sa a b c) := by
  intro h t sa a b c hw f hf
  cases hf
  simp only [Instr.wf, Bool.and_eq_true, Bool.or_eq_true] at hw
  show some (dec_vshl Lim.full _) = _
  simp_all [dec_vshl]
theorem vshr : ∀ h t u a b c, Statement (.vshr h t u a b c) := by
  intro h t u a b c hw f hf
  cases hf
  simp only [Instr.wf, Bool.and_eq_true, Bool.or_eq_true] at hw
  show some (dec_vshr Lim.full _) = _
  simp_all [dec_vshr]
theorem vbcast : ∀ h t a m, Statement (.vbcast h t a m) := by
  intro h t a m hw f hf
  cases hf
  simp only [Instr.wf, Bool.and_eq_true, Bool.or_eq_true] at hw
  show some (dec_vbcast Lim.full _) = _
  simp_all [dec_vbcast]
theorem vext : ∀ h t u a b c, Statement (.vext h t u a b c) := by
  intro h t u a b c hw f hf
  cases hf
  simp only [Instr.wf, Bool.and_eq_true, Bool.or_eq_true] at hw
  show some (dec_vext Lim.full _) = _
  simp_all [dec_vext]
theorem vins : ∀ h t a b c, Statement (.vins h t a b c) := by
  intro h t a b c hw f hf
  cases hf
  simp only [Instr.wf, Bool.and_eq_true, Bool.or_eq_true] at hw
  show some (dec_vins Lim.full _) = _
  simp_all [dec_vins]
theorem vpack : ∀ h t r sa a b c, Statement (.vpack h t r sa a b c) := by
  intro h t r sa a b c hw f hf
  cases hf
  simp only [Instr.wf, Bool.and_eq_true, Bool.or_eq_true] at hw
  show some (dec_vpack Lim.full _) = _
  simp_all [dec_vpack]
theorem vunpack : ∀ h t a b c hi, Statement (.vunpack h t a b c hi) := by
  intro h t a b c hi hw f hf
  cases hf
  simp only [Instr.wf, Bool.and_eq_true, Bool.or_eq_true] at hw
  show some (dec_vunpack Lim.full _) = _
  simp_all [dec_vunpack]
theorem vperm : ∀ h t a b c, Statement (.vperm h t a b c) := by
  intro h t a b c hw f hf
  cases hf
  simp only [Instr.wf, Bool.and_eq_true, Bool.or_eq_true] at hw
  show some (dec_vperm Lim.full _) = _
  simp_all [dec_vperm]
theorem vmr : ∀ h t r sa a b c, Statement (.vmr h t r sa a b c) := by
  intro h t r sa a b c hw f hf
  cases hf
  simp only [Instr.wf, Bool.and_eq_true, Bool.or_eq_true] at hw
  show some (dec_vmr Lim.full _) = _
  simp_all [dec_vmr]
theorem vlog : ∀ h t r sa a b, Statement (.vlog h t r sa a b) := by
  intro h t r sa a b hw f hf
  cases hf
  simp only [Instr.wf, Bool.and_eq_true, Bool.or_eq_true] at hw
  show some (dec_vlog Lim.full _) = _
  simp_all [dec_vlog]
theorem valog : ∀ h t r sa a b, Statement (.valog h t r sa a b) := by
  intro h t r sa a b hw f hf
  cases hf
  simp only [Instr.wf, Bool.and_eq_true, Bool.or_eq_true] at hw
  show some (dec_valog Lim.full _) = _
  simp_all [dec_valog]
theorem vexp2 : ∀ h t r sa a b, Statement (.vexp2 h t r sa a b) := by
  intro h t r sa a b hw f hf
  cases hf
  simp only [Instr.wf, Bool.and_eq_true, Bool.or_eq_true] at hw
  show some (dec_vexp2 Lim.full _) = _
  simp_all [dec_vexp2]
theorem vlog2 : ∀ h t r sa a b, Statement (.vlog2 h t r sa a b) := by
  intro h t r sa a b hw f hf
  cases hf
  simp only [Instr.wf, Bool.and_eq_true, Bool.or_eq_true] at hw
  show some (dec_vlog2 Lim.full _) = _
  simp_all [dec_vlog2]
theorem vrcp : ∀ h t r sa a b, Statement (.vrcp h t r sa a b) := by
  intro h t r sa a b hw f hf
  cases hf
  simp only [Instr.wf, Bool.and_eq_true, Bool.or_eq_true] at hw
  show some (dec_vrcp Lim.full _) = _
  simp_all [dec_vrcp]
theorem vsqrt : ∀ h t r sa a b, Statement (.vsqrt h t r sa a b) := by
  intro h t r sa a b hw f hf
  cases hf
  simp only [Instr.wf, Bool.and_eq_true, Bool.or_eq_true] at hw
  show some (dec_vsqrt Lim.full _) = _
  simp_all [dec_vsqrt]
theorem vrsqrt : ∀ h t r sa a b, Statement (.vrsqrt h t r sa a b) := by
  intro h t r sa a b hw f hf
  cases hf
  simp only [Instr.wf, Bool.and_eq_true, Bool.or_eq_true] at hw
  show some (dec_vrsqrt Lim.full _) = _
  simp_all [dec_vrsqrt]
theorem vpow : ∀ h t r sa a b c, Statement (.vpow h t r sa a b c) := by
  intro h t r sa a b c hw f hf
  cases hf
  simp only [Instr.wf, Bool.and_eq_true, Bool.or_eq_true] at hw
  show some (dec_vpow Lim.full _) = _
  simp_all [dec_vpow]
theorem vsigm : ∀ h t r sa a b, Statement (.vsigm h t r sa a b) := by
  intro h t r sa a b hw f hf
  cases hf
  simp only [Instr.wf, Bool.and_eq_true, Bool.or_eq_true] at hw
  show some (dec_vsigm Lim.full _) = _
  simp_all [dec_vsigm]
theorem vtanh : ∀ h t r sa a b, Statement (.vtanh h t r sa a b) := by
  intro h t r sa a b hw f hf
  cases hf
  simp only [Instr.wf, Bool.and_eq_true, Bool.or_eq_true] at hw
  show some (dec_vtanh Lim.full _) = _
  simp_all [dec_vtanh]
theorem scfg : ∀ h a b, Statement (.scfg h a b) := by
  intro h a b hw f hf
  cases hf
  simp only [Instr.wf, Bool.and_eq_true, Bool.or_eq_true] at hw
  show some (dec_scfg Lim.full _) = _
  simp_all [dec_scfg]
theorem sbind : ∀ h a, Statement (.sbind h a) := by
  intro h a hw f hf
  cases hf
  simp only [Instr.wf, Bool.and_eq_true, Bool.or_eq_true] at hw
  show some (dec_sbind Lim.full _) = _
  simp_all [dec_sbind]
theorem sfree : ∀ h a, Statement (.sfree h a) := by
  intro h a hw f hf
  cases hf
  simp only [Instr.wf, Bool.and_eq_true, Bool.or_eq_true] at hw
  show some (dec_sfree Lim.full _) = _
  simp_all [dec_sfree]
theorem vrpt : ∀ h a b, Statement (.vrpt h a b) := by
  intro h a b hw f hf
  cases hf
  simp only [Instr.wf, Bool.and_eq_true, Bool.or_eq_true] at hw
  show some (dec_vrpt Lim.full _) = _
  simp_all [dec_vrpt]
theorem vsync : ∀ h, Statement (.vsync h) := by
  intro h hw f hf
  cases hf
  simp only [Instr.wf, Bool.and_eq_true, Bool.or_eq_true] at hw
  show some (dec_vsync Lim.full _) = _
  simp_all [dec_vsync]
theorem ctxSave : ∀ h a b, Statement (.ctxSave h a b) := by
  intro h a b hw f hf
  cases hf
  simp only [Instr.wf, Bool.and_eq_true, Bool.or_eq_true] at hw
  show some (dec_ctxSave Lim.full _) = _
  simp_all [dec_ctxSave]
theorem ctxLoad : ∀ h a, Statement (.ctxLoad h a) := by
  intro h a hw f hf
  cases hf
  simp only [Instr.wf, Bool.and_eq_true, Bool.or_eq_true] at hw
  show some (dec_ctxLoad Lim.full _) = _
  simp_all [dec_ctxLoad]
theorem ctxDrop : ∀ h a, Statement (.ctxDrop h a) := by
  intro h a hw f hf
  cases hf
  simp only [Instr.wf, Bool.and_eq_true, Bool.or_eq_true] at hw
  show some (dec_ctxDrop Lim.full _) = _
  simp_all [dec_ctxDrop]
theorem pipeCycle : ∀ x0, Statement (.pipeCycle x0) :=
  fun _ _ _ hf => nomatch hf
theorem pipeTimeSlice : ∀ x0, Statement (.pipeTimeSlice x0) :=
  fun _ _ _ hf => nomatch hf
theorem parkedAnswer : ∀ x0 x1, Statement (.parkedAnswer x0 x1) :=
  fun _ _ _ _ hf => nomatch hf
theorem tagWake : ∀ x0 x1, Statement (.tagWake x0 x1) :=
  fun _ _ _ _ hf => nomatch hf
theorem peerTaggedRequest : ∀ x0, Statement (.peerTaggedRequest x0) :=
  fun _ _ _ hf => nomatch hf
theorem pauseExpiry : ∀ x0 x1, Statement (.pauseExpiry x0 x1) :=
  fun _ _ _ _ hf => nomatch hf
theorem sleepExpiry : ∀ x0 x1, Statement (.sleepExpiry x0 x1) :=
  fun _ _ _ _ hf => nomatch hf
theorem waitTimeout : ∀ x0 x1, Statement (.waitTimeout x0 x1) :=
  fun _ _ _ _ hf => nomatch hf
theorem timerInterrupt : ∀ x0 x1, Statement (.timerInterrupt x0 x1) :=
  fun _ _ _ _ hf => nomatch hf
theorem sidingIssue : ∀ x0, Statement (.sidingIssue x0) :=
  fun _ _ _ hf => nomatch hf
theorem tlbWalk : ∀ x0 x1 x2 x3, Statement (.tlbWalk x0 x1 x2 x3) :=
  fun _ _ _ _ _ _ hf => nomatch hf
theorem walkServiceRelease : ∀ x0, Statement (.walkServiceRelease x0) :=
  fun _ _ _ hf => nomatch hf
theorem walkServiceDecline : ∀ x0, Statement (.walkServiceDecline x0) :=
  fun _ _ _ hf => nomatch hf
theorem shootdownPage : ∀ x0 x1 x2 x3, Statement (.shootdownPage x0 x1 x2 x3) :=
  fun _ _ _ _ _ _ hf => nomatch hf
theorem shootdownRange : ∀ x0 x1 x2 x3 x4, Statement (.shootdownRange x0 x1 x2 x3 x4) :=
  fun _ _ _ _ _ _ _ hf => nomatch hf
theorem shootdownSpace : ∀ x0 x1 x2, Statement (.shootdownSpace x0 x1 x2) :=
  fun _ _ _ _ _ hf => nomatch hf
theorem shootdownAll : ∀ x0 x1, Statement (.shootdownAll x0 x1) :=
  fun _ _ _ _ hf => nomatch hf
theorem shootdownComplete : ∀ x0, Statement (.shootdownComplete x0) :=
  fun _ _ _ hf => nomatch hf
theorem wqDispatch : ∀ x0, Statement (.wqDispatch x0) :=
  fun _ _ _ hf => nomatch hf
theorem pathPerform : ∀ x0 x1 x2, Statement (.pathPerform x0 x1 x2) :=
  fun _ _ _ _ _ hf => nomatch hf
theorem nearCacheFillEvict : ∀ x0 x1 x2 x3, Statement (.nearCacheFillEvict x0 x1 x2 x3) :=
  fun _ _ _ _ _ _ hf => nomatch hf
theorem releaseWaitEnd : ∀ x0 x1, Statement (.releaseWaitEnd x0 x1) :=
  fun _ _ _ _ hf => nomatch hf
theorem copyJobUnit : ∀ x0, Statement (.copyJobUnit x0) :=
  fun _ _ _ hf => nomatch hf
theorem copyJobFinal : ∀ x0 x1, Statement (.copyJobFinal x0 x1) :=
  fun _ _ _ _ hf => nomatch hf
theorem matrixTile : ∀ x0, Statement (.matrixTile x0) :=
  fun _ _ _ hf => nomatch hf
theorem matrixJobFinal : ∀ x0 x1, Statement (.matrixJobFinal x0 x1) :=
  fun _ _ _ _ hf => nomatch hf
theorem matrixShadowReplay : ∀ x0 x1, Statement (.matrixShadowReplay x0 x1) :=
  fun _ _ _ _ hf => nomatch hf
theorem accZeroJob : ∀ x0 x1, Statement (.accZeroJob x0 x1) :=
  fun _ _ _ _ hf => nomatch hf
theorem cnOutJob : ∀ x0 x1, Statement (.cnOutJob x0 x1) :=
  fun _ _ _ _ hf => nomatch hf
theorem contentHomeRequest : ∀ x0 x1, Statement (.contentHomeRequest x0 x1) :=
  fun _ _ _ _ hf => nomatch hf
theorem contentCountMessage : ∀ x0 x1, Statement (.contentCountMessage x0 x1) :=
  fun _ _ _ _ hf => nomatch hf
theorem reclaim : ∀ x0 x1, Statement (.reclaim x0 x1) :=
  fun _ _ _ _ hf => nomatch hf
theorem bankUpdateApply : ∀ x0, Statement (.bankUpdateApply x0) :=
  fun _ _ _ hf => nomatch hf
theorem barrierArrival : ∀ x0 x1 x2, Statement (.barrierArrival x0 x1 x2) :=
  fun _ _ _ _ _ hf => nomatch hf
theorem treeEpisodeComplete : ∀ x0 x1, Statement (.treeEpisodeComplete x0 x1) :=
  fun _ _ _ _ hf => nomatch hf
theorem msgDeliver : ∀ x0, Statement (.msgDeliver x0) :=
  fun _ _ _ hf => nomatch hf
theorem nexttileAnswer : Statement (.nexttileAnswer) :=
  fun _ _ hf => nomatch hf
theorem launchLatch : ∀ x0 x1 x2, Statement (.launchLatch x0 x1 x2) :=
  fun _ _ _ _ _ hf => nomatch hf
theorem launchAccept : Statement (.launchAccept) :=
  fun _ _ hf => nomatch hf
theorem launchPlace : Statement (.launchPlace) :=
  fun _ _ hf => nomatch hf
theorem instanceStart : Statement (.instanceStart) :=
  fun _ _ hf => nomatch hf
theorem governorSample : ∀ x0, Statement (.governorSample x0) :=
  fun _ _ _ hf => nomatch hf
theorem meterUpdate : ∀ x0 x1 x2, Statement (.meterUpdate x0 x1 x2) :=
  fun _ _ _ _ _ hf => nomatch hf
theorem deadlineMiss : ∀ x0 x1, Statement (.deadlineMiss x0 x1) :=
  fun _ _ _ _ hf => nomatch hf
theorem preempt : ∀ x0 x1, Statement (.preempt x0 x1) :=
  fun _ _ _ _ hf => nomatch hf
theorem restore : ∀ x0 x1, Statement (.restore x0 x1) :=
  fun _ _ _ _ hf => nomatch hf
theorem charterComplete : ∀ x0 x1, Statement (.charterComplete x0 x1) :=
  fun _ _ _ _ hf => nomatch hf
theorem hostAck : Statement (.hostAck) :=
  fun _ _ hf => nomatch hf
theorem replayRequest : Statement (.replayRequest) :=
  fun _ _ hf => nomatch hf
theorem cancel : Statement (.cancel) :=
  fun _ _ hf => nomatch hf
theorem dqheadWrite : ∀ x0, Statement (.dqheadWrite x0) :=
  fun _ _ _ hf => nomatch hf
theorem ringCmdPost : ∀ x0, Statement (.ringCmdPost x0) :=
  fun _ _ _ hf => nomatch hf
theorem ringCmdRetire : ∀ x0, Statement (.ringCmdRetire x0) :=
  fun _ _ _ hf => nomatch hf
theorem ringCmdClose : Statement (.ringCmdClose) :=
  fun _ _ hf => nomatch hf
theorem ringCmdSelect : ∀ x0 x1, Statement (.ringCmdSelect x0 x1) :=
  fun _ _ _ _ hf => nomatch hf
theorem fenceCluster : ∀ x0, Statement (.fenceCluster x0) :=
  fun _ _ _ hf => nomatch hf
theorem dbgsig : ∀ x0 x1 x2, Statement (.dbgsig x0 x1 x2) :=
  fun _ _ _ _ _ hf => nomatch hf
theorem dbgrel : ∀ x0 x1, Statement (.dbgrel x0 x1) :=
  fun _ _ _ _ hf => nomatch hf
theorem keyInstall : ∀ x0, Statement (.keyInstall x0) :=
  fun _ _ _ hf => nomatch hf
theorem keyRekey : ∀ x0, Statement (.keyRekey x0) :=
  fun _ _ _ hf => nomatch hf
theorem diereset : ∀ x0, Statement (.diereset x0) :=
  fun _ _ _ hf => nomatch hf
theorem quiesceGraceExpiry : ∀ x0, Statement (.quiesceGraceExpiry x0) :=
  fun _ _ _ hf => nomatch hf
theorem quiesceDrainDone : ∀ x0 x1 x2, Statement (.quiesceDrainDone x0 x1 x2) :=
  fun _ _ _ _ _ hf => nomatch hf
theorem dieResume : ∀ x0, Statement (.dieResume x0) :=
  fun _ _ _ hf => nomatch hf
theorem eccError : ∀ x0 x1 x2, Statement (.eccError x0 x1 x2) :=
  fun _ _ _ _ _ hf => nomatch hf
theorem limiterWindow : ∀ x0 x1 x2, Statement (.limiterWindow x0 x1 x2) :=
  fun _ _ _ _ _ hf => nomatch hf
theorem powerOn : ∀ x0, Statement (.powerOn x0) :=
  fun _ _ _ hf => nomatch hf
theorem dieMeasure : ∀ x0 x1, Statement (.dieMeasure x0 x1) :=
  fun _ _ _ _ hf => nomatch hf
theorem getVersion : ∀ x0, Statement (.getVersion x0) :=
  fun _ _ _ hf => nomatch hf
theorem getCapabilities : ∀ x0, Statement (.getCapabilities x0) :=
  fun _ _ _ hf => nomatch hf
theorem negotiateAlgorithms : ∀ x0, Statement (.negotiateAlgorithms x0) :=
  fun _ _ _ hf => nomatch hf
theorem getDigests : ∀ x0, Statement (.getDigests x0) :=
  fun _ _ _ hf => nomatch hf
theorem getCertificate : ∀ x0, Statement (.getCertificate x0) :=
  fun _ _ _ hf => nomatch hf
theorem challenge : ∀ x0, Statement (.challenge x0) :=
  fun _ _ _ hf => nomatch hf
theorem getMeasurements : ∀ x0, Statement (.getMeasurements x0) :=
  fun _ _ _ hf => nomatch hf
theorem spdmUnsupported : ∀ x0, Statement (.spdmUnsupported x0) :=
  fun _ _ _ hf => nomatch hf
theorem imageLoad : ∀ x0 x1 x2 x3, Statement (.imageLoad x0 x1 x2 x3) :=
  fun _ _ _ _ _ _ hf => nomatch hf
theorem hostMemoryRequest : ∀ x0 x1 x2 x3, Statement (.hostMemoryRequest x0 x1 x2 x3) :=
  fun _ _ _ _ _ _ hf => nomatch hf
theorem frameReceive : ∀ x0 x1 x2, Statement (.frameReceive x0 x1 x2) :=
  fun _ _ _ _ _ hf => nomatch hf
theorem rawSend : ∀ x0, Statement (.rawSend x0) :=
  fun _ _ _ hf => nomatch hf
theorem txtsRead : ∀ x0, Statement (.txtsRead x0) :=
  fun _ _ _ hf => nomatch hf
theorem doorbell : ∀ x0, Statement (.doorbell x0) :=
  fun _ _ _ hf => nomatch hf
theorem flowPoll : ∀ x0, Statement (.flowPoll x0) :=
  fun _ _ _ hf => nomatch hf
theorem workRequest : ∀ x0, Statement (.workRequest x0) :=
  fun _ _ _ hf => nomatch hf
theorem writeI : ∀ x0 x1, Statement (.writeI x0 x1) :=
  fun _ _ _ _ hf => nomatch hf
theorem readreq : ∀ x0 x1, Statement (.readreq x0 x1) :=
  fun _ _ _ _ hf => nomatch hf
theorem readresp : ∀ x0 x1, Statement (.readresp x0 x1) :=
  fun _ _ _ _ hf => nomatch hf
theorem ack : ∀ x0 x1, Statement (.ack x0 x1) :=
  fun _ _ _ _ hf => nomatch hf
theorem marker : ∀ x0 x1, Statement (.marker x0 x1) :=
  fun _ _ _ _ hf => nomatch hf
theorem nack : ∀ x0 x1, Statement (.nack x0 x1) :=
  fun _ _ _ _ hf => nomatch hf
theorem releasePerform : ∀ x0, Statement (.releasePerform x0) :=
  fun _ _ _ hf => nomatch hf
theorem rtoExpiry : ∀ x0 x1, Statement (.rtoExpiry x0 x1) :=
  fun _ _ _ _ hf => nomatch hf
theorem pathRetry : ∀ x0 x1, Statement (.pathRetry x0 x1) :=
  fun _ _ _ _ hf => nomatch hf
theorem ackTimer : ∀ x0 x1, Statement (.ackTimer x0 x1) :=
  fun _ _ _ _ hf => nomatch hf
theorem completionEntry : ∀ x0, Statement (.completionEntry x0) :=
  fun _ _ _ hf => nomatch hf
theorem flowError : ∀ x0, Statement (.flowError x0) :=
  fun _ _ _ hf => nomatch hf
theorem storageRetrain : Statement (.storageRetrain) :=
  fun _ _ hf => nomatch hf
theorem driveMemoryRequest : ∀ x0 x1 x2, Statement (.driveMemoryRequest x0 x1 x2) :=
  fun _ _ _ _ _ hf => nomatch hf
theorem driveMsix : ∀ x0, Statement (.driveMsix x0) :=
  fun _ _ _ hf => nomatch hf
theorem sfaultRead : Statement (.sfaultRead) :=
  fun _ _ hf => nomatch hf
theorem systemCoreDriveAccess : ∀ x0 x1 x2 x3 x4, Statement (.systemCoreDriveAccess x0 x1 x2 x3 x4) :=
  fun _ _ _ _ _ _ _ hf => nomatch hf
theorem registerWrite : ∀ x0 x1, Statement (.registerWrite x0 x1) :=
  fun _ _ _ _ hf => nomatch hf
theorem portLinkChange : ∀ x0 x1 x2 x3, Statement (.portLinkChange x0 x1 x2 x3) :=
  fun _ _ _ _ _ _ hf => nomatch hf
theorem storageLinkChange : ∀ x0 x1 x2 x3, Statement (.storageLinkChange x0 x1 x2 x3) :=
  fun _ _ _ _ _ _ hf => nomatch hf
theorem advancedErrorReporting : ∀ x0, Statement (.advancedErrorReporting x0) :=
  fun _ _ _ hf => nomatch hf
theorem driveServiceTimeout : ∀ x0, Statement (.driveServiceTimeout x0) :=
  fun _ _ _ hf => nomatch hf
theorem refusedRequestRetry : ∀ x0 x1, Statement (.refusedRequestRetry x0 x1) :=
  fun _ _ _ _ hf => nomatch hf
theorem imageUpdate : ∀ x0, Statement (.imageUpdate x0) :=
  fun _ _ _ hf => nomatch hf
theorem timeset : ∀ x0, Statement (.timeset x0) :=
  fun _ _ _ hf => nomatch hf
theorem dqbaseWrite : ∀ x0, Statement (.dqbaseWrite x0) :=
  fun _ _ _ hf => nomatch hf
theorem systemCoreMemoryAccess : ∀ x0 x1 x2 x3 x4, Statement (.systemCoreMemoryAccess x0 x1 x2 x3 x4) :=
  fun _ _ _ _ _ _ _ hf => nomatch hf

end Sys2Proof.Laws.RoundTrip
end

