-- ==== Sys2Proof/Tests/Slice0.lean ====
section
/-! SUPPORT. Tests: ill-formed terms that WellFormed refuses, words of the spec's encodings that decode to what they stand
for, one-step checks against the spec's worked values, and for every statement with hypotheses a state that meets them. -/

namespace Sys2Proof.Tests

open Machine

set_option Elab.async false
set_option maxRecDepth 8000

/-! ### Words: opcode, function bits [87:76], and operands, as 04 Tables 1 and 4 lay them out -/

def h0 : Hdr := ⟨0, false, false, false, false, false⟩
def word (op fn a b c : Nat) : Nat := op * 2 ^ 88 + fn * 2 ^ 76 + a * 2 ^ 44 + b * 2 ^ 22 + c
def rg (n : Nat) : Nat := 64 * n
def rv (n : Nat) : Nat := 0x10000 + 64 * n
def rp (n : Nat) : Nat := 0x20000 + 64 * n
def rb (n : Nat) : Nat := 0x30000 + 64 * n
def rk (n : Nat) : Nat := 0x40000 + 64 * n
def im (n : Nat) : Nat := 0x100000 + n
def mm (base off : Nat) : Nat := 0x300000 + base * 0x4000 + off

/-- Every word of a list decodes to the instruction beside it. -/
def reads (l : List (Nat × Instr)) : Bool := l.all (fun e => decide (decodeTableWord 96 e.1 = some e.2))

/-- Words the spec prints in full, beside the statements it prints them for (03, 04, 06, 07, 08, 10, 13, 14, 16, 17, 18, 20, 24). -/
theorem test_decode_printed_scalar : reads [
    (0x01100A2000140000701FFFFD,
      .add ⟨2, true, false, false, true, false⟩ .i32 false 5 7 (.imm (-3))),
    (0x4010000000100C9001800000, .ld h0 .i32 false 4 ⟨9, 6⟩),
    (0x1900000000100A0000200001, .li h0 4 (BitVec.ofInt 40 (-0x7FFFFFFFFF))),
    (0x1A0000000010080000200002, .lih h0 4 2),
    (0x1D041000200C000040000140, .cmp h0 .i64 .lt true 3 4 (.reg 5)),
    (0x2500008000100000001FFFFF, .dbr ⟨0, false, true, false, false, false⟩ 4 (-1)),
    (0x051000000010000050000180, .mad h0 .i32 false 4 5 (.reg 6)),
    (0x1600000000340000501001E8, .bins h0 13 5 (.imm 0x1E8)),
    (0x2A0000000000000000100000, .trap h0 (some 0)), (0x2B0000000000000000000000, .eret h0),
    (0x2C0000000000000000100000, .sysc h0 (some 0)), (0x2D0000000000000000000000, .halt h0),
    (0x2E0000000000000000000000, .nop h0), (0x2F0000000000000000000000, .yieldI h0),
    (0x300000000000000000000000, .ifence h0), (0x300010000010000050100600, .ifenceFill h0 4 5 (.imm 0x600)),
    (0x310000000000000000000000, .gangShed h0), (0x320000000000000000000000, .gangJoin h0),
    (0x38000001010000C050000000, .demand h0 (.imm 0x1000) (.reg 5)), (0x390000000000000000000000, .settle h0)] = true := by
  decide

theorem test_decode_printed_memory : reads [
    (0x411000030400600040000000, .st h0 .i32 ⟨1, 6⟩ (.reg 4)),
    (0x4214100000100C9000800000, .ldAcq h0 .i32 .die true 4 ⟨9, 2⟩),
    (0x4410000000140CA020400000, .ldWf h0 .i32 false false 5 ⟨10, 0x81⟩),
    (0x4A0600000000000000100002, .fenceRel h0 .mod), (0x4B0200000000000000000000, .regionForce h0),
    (0x610000000000000000000000, .doneI h0), (0x620000010020000000000000, .nexttile h0 (.imm 0x200)),
    (0x70000000001C0CC000000000, .copy h0 7 ⟨12, 0⟩), (0x71000000001C0CC00010000F, .copyDeal h0 7 ⟨12, 0⟩ (.imm 0x0F)),
    (0x720000000014000060000000, .shutQ h0 5 6), (0x720010000014000060000000, .shutQDrop h0 5 6),
    (0x78000000001C0CC000000000, .mx h0 7 ⟨12, 0⟩), (0x790000000020040000900001, .accZero h0 8 (.imm 2) (.imm 1)),
    (0x7C00000000100C9000000280, .cnPut h0 4 ⟨9, 0⟩ 10), (0x8100000000100C90000002C0, .cnSwap h0 4 ⟨9, 0⟩ 11),
    (0x8200100000140C9000000280, .cnRootRef h0 5 ⟨9, 0⟩ 10), (0x8A4200031000000050000180,
      .red h0 .f32 .add .rne false ⟨4, 0⟩ (.reg 5) 6),
    (0x96000001000C800000000000, .pause h0 (.imm 200)), (0x9000000000100CA000100001, .barArr h0 4 ⟨10, 0⟩ (.imm 1)),
    (0x910000031800040001400000, .barWait h0 ⟨6, 0⟩ (.imm 5)),
    (0x9402000108140000F0100070, .nred h0 .i64 .add .rne false (.imm 0x8140) 15 (.imm 0x70)),
    (0xB55000001010004050010180, .vfma h0 .bf16 .rne false 4 5 (.v 6)), (0xDA0000010006440000C00000, .vrpt h0 (.imm 100) 2),
    (0xDB0000000000000000000000, .vsync h0), (0xD80000001008000000000000, .sbind h0 2),
    (0xF000000000100C9000000000, .ctxSave h0 4 ⟨9, 0⟩), (0xF10000032400000000000000, .ctxLoad h0 ⟨9, 0⟩),
    (0xF20000000010000000000000, .ctxDrop h0 4)] = true := by decide

/-- 10 Table 1. -/
theorem test_decode_integer : reads [
    (word 0x02 0x302 (rg 1) (rg 2) (im 0xFFFFF), .sub h0 .i8 true 1 2 (.imm (-1))),
    (word 0x03 0x200 (rg 1) (rg 2) (rg 3), .mul h0 .i16 false 1 2 (.reg 3)),
    (word 0x04 0x101 (rg 1) (rg 2) (rg 3), .mulh h0 .i32 true 1 2 (.reg 3)),
    (word 0x06 0x000 (rg 1) (rg 2) (rg 3), .div h0 .i64 false 1 2 (.reg 3)),
    (word 0x07 0x101 (rg 1) (rg 2) (rg 3), .rem h0 .i32 true 1 2 (.reg 3)),
    (word 0x08 0x000 (rg 1) (rg 2) (rg 3), .and h0 .i64 1 2 (.reg 3)),
    (word 0x09 0x000 (rg 1) (rg 2) (rg 3), .or h0 .i64 1 2 (.reg 3)),
    (word 0x0A 0x300 (rg 1) (rg 2) (rg 3), .xor h0 .i8 1 2 (.reg 3)),
    (word 0x0B 0x000 (rg 1) (rg 2) (rg 63), .andn h0 .i64 1 2 (.reg 63)),
    (word 0x0C 0x102 (rg 1) (rg 2) (im 4), .shl h0 .i32 true 1 2 (.imm 4)),
    (word 0x0D 0x001 (rg 1) (rg 2) (im 4), .shr h0 .i64 true 1 2 (.imm 4)),
    (word 0x0E 0x200 (rg 1) (rg 2) (rg 3), .rot h0 .i16 1 2 (.reg 3)),
    (word 0x0F 0x001 (rg 1) (rg 2) (rg 3), .min h0 .i64 true 1 2 (.reg 3)),
    (word 0x10 0x000 (rg 1) (rg 2) (rg 3), .max h0 .i64 false 1 2 (.reg 3)),
    (word 0x11 0x002 (rg 1) (rg 2) 0, .abs h0 .i64 true 1 2), (word 0x12 0x100 (rg 1) (rg 2) 0, .clz h0 .i32 1 2),
    (word 0x13 0x000 (rg 1) (rg 2) 0, .ctz h0 .i64 1 2), (word 0x14 0x300 (rg 1) (rg 2) 0, .pop h0 .i8 1 2),
    (word 0x15 0x001 (rg 1) (rg 2) (im 0x1E8), .bext h0 true 1 2 (.imm 0x1E8)),
    (word 0x17 0x101 (rg 1) (rg 2) 0, .extI h0 .i32 true 1 2), (word 0x18 0x000 (rg 1) (im 7) 0, .mov h0 1 (.imm 7)),
    (word 0x1B 0x000 (rg 1) 0 (im 24), .lpc h0 1 24),
    (word 0x1C 0x061 (rg 1) (rg 2) (rg 3), .sel h0 3 true 1 2 (.reg 3)),
    (word 0x1E 0x0E0 (rp 1) (rp 2) (rp 3), .plog h0 7 1 2 3), (word 0x1F 0x001 (rp 1) (rg 2) 0, .pmov h0 true 1 (.g 2)),
    (word 0x1F 0x000 (rp 1) (rp 2) 0, .pmov h0 false 1 (.p 2)), (word 0x1F 0x000 (rp 1) (im 1) 0, .pmov h0 false 1 (.imm 1)),
    (word 0x20 0x000 (rg 1) (rp 2) 0, .pget h0 1 2)] = true := by decide

/-- 10 Tables 7, 8 and 10, and 06. -/
theorem test_decode_control : reads [
    (word 0x21 0x001 (rp 2) 0 (im 5), .br h0 true (some 2) 5), (word 0x22 0x000 0 0 (im 5), .brl h0 false none 5),
    (word 0x23 0x000 0 (rg 2) (rg 0), .jr h0 false none 2 (.reg 0)),
    (word 0x24 0x001 (rp 1) (rg 2) (im 12), .jrl h0 true (some 1) 2 (.imm 12)),
    (word 0x26 0x000 (rg 1) (rk 0x20) 0, .ctlRd h0 1 .clock), (word 0x27 0x000 (rk 0x10) (rg 1) 0, .ctlWr h0 .xpc (.reg 1)),
    (word 0x28 0x000 (rk 0x31) (im 32) 0, .ctlSet h0 .fflags (.imm 32)),
    (word 0x29 0x000 (rk 0x70) (rg 1) 0, .ctlClr h0 .deadmsg (.reg 1)),
    (word 0x2A 0x000 0 0 0, .trap h0 none), (word 0x2C 0x000 0 0 (im 2), .sysc h0 (some 2)),
    (word 0x3A 0x000 (rb 1) (rb 2) (im 0x2C5), .bshare h0 1 2 ⟨5, 3, 1⟩),
    (word 0x3B 0x000 (rb 1) (rg 2) 0, .bmov h0 (.bFromG 1 2)), (word 0x3B 0x000 (rb 1) (rb 2) 0, .bmov h0 (.bFromB 1 2)),
    (word 0x3B 0x000 (rb 1) (im 0x8000) 0, .bmov h0 (.bFromI 1 0x8000)),
    (word 0x3B 0x000 (rg 1) (rb 2) 0, .bmov h0 (.gFromB 1 2)),
    (word 0x3C 0x000 (rg 1) (rv 2) 0, .grade h0 (.gFromV 1 2)), (word 0x3C 0x000 (rb 1) (rv 2) 0, .grade h0 (.bFromV 1 2)),
    (word 0x3C 0x000 (rv 31) (rg 2) 0, .grade h0 (.vFromG 31 2)),
    (word 0x3D 0x000 (im 63) (mm 2 1) 0, .sensLd h0 (.imm 63) ⟨2, 1⟩),
    (word 0x3D 0x001 (rg 1) 0 0, .sensLdReset h0 (.reg 1))] = true := by decide

/-- 13 Table 1. -/
theorem test_decode_scalar_memory : reads [
    (word 0x40 0x301 (rg 1) (mm 2 0x3FFF) 0, .ld h0 .i8 true 1 ⟨2, -1⟩),
    (word 0x43 0x080 (mm 2 1) (im 5) 0, .stRel h0 .i64 .sys ⟨2, 1⟩ (.imm 5)),
    (word 0x44 0x021 (rg 1) (mm 2 1) 0, .ldWf h0 .i64 true true 1 ⟨2, 1⟩),
    (word 0x45 0x100 (mm 2 1) (rg 3) 0, .stWe h0 .i32 ⟨2, 1⟩ (.reg 3)), (word 0x46 0x000 (rg 1) (mm 2 1) 0, .tagRd h0 1 ⟨2, 1⟩),
    (word 0x46 0x020 (mm 2 1) (im 3) 0, .tagFull h0 ⟨2, 1⟩ (.imm 3)),
    (word 0x46 0x040 (mm 2 1) (rg 3) 0, .tagEmpty h0 ⟨2, 1⟩ (.reg 3)), (word 0x47 0x000 (mm 2 1) 0 0, .pref h0 ⟨2, 1⟩),
    (word 0x48 0x000 (mm 2 1) 0 0, .cfl h0 ⟨2, 1⟩), (word 0x48 0x020 (mm 2 1) 0 0, .cflEvict h0 ⟨2, 1⟩),
    (word 0x49 0x000 (mm 2 1) 0 0, .cinv h0 ⟨2, 1⟩), (word 0x49 0x020 0 0 0, .cinvAll h0),
    (word 0x4A 0x000 0 0 (im 3), .fence h0 .core), (word 0x4A 0x020 0 0 (im 1), .fenceAcq h0 .clu),
    (word 0x4B 0x000 0 0 0, .region h0), (word 0x4B 0x040 0 0 0, .regionDrop h0),
    (word 0x4C 0x101 (rg 1) (rg 2) (mm 3 0), .ldPair h0 .i32 true 1 2 ⟨3, 0⟩),
    (word 0x4D 0x000 (mm 3 0) (rg 1) (rg 2), .stPair h0 .i64 ⟨3, 0⟩ 1 2)] = true := by decide

/-- 07, 14 and 18 Table 5. -/
theorem test_decode_work : reads [
    (word 0x60 0 (rg 1) (mm 2 1) 0, .launch h0 1 ⟨2, 1⟩), (word 0x63 1 (rg 1) (im 1) 0, .ringClaim h0 true 1 true),
    (word 0x64 0 (rg 1) (rg 2) 0, .ringPost h0 1 2), (word 0x65 0 (rg 1) (im 0) 0, .ringTake h0 false 1 false),
    (word 0x66 0 (rg 1) (rg 2) 0, .ringFree h0 1 2), (word 0x67 0 (rg 1) (im 1) 0, .ringStat h0 1 true),
    (word 0x73 0 (rg 1) (mm 2 1) (rg 3), .copyResume h0 1 ⟨2, 1⟩ 3), (word 0x7D 0 (rg 1) (mm 2 1) 0, .cnGet h0 1 ⟨2, 1⟩),
    (word 0x7D 1 (rg 1) (mm 2 1) 0, .cnGetRef h0 1 ⟨2, 1⟩), (word 0x7E 0 (rg 1) (mm 2 1) 0, .cnRef h0 1 ⟨2, 1⟩),
    (word 0x7F 0 (rg 1) (mm 2 1) 0, .cnUnref h0 1 ⟨2, 1⟩), (word 0x80 0 (rg 1) (mm 2 1) (rg 3), .cnNode h0 1 ⟨2, 1⟩ 3),
    (word 0x82 0 (rg 1) (mm 2 1) (rg 3), .cnRoot h0 1 ⟨2, 1⟩ 3), (word 0x83 0 (rg 1) (mm 2 1) (rg 3), .cnOut h0 1 ⟨2, 1⟩ 3),
    (word 0x84 0 (rg 1) (mm 2 1) 0, .cnCfg h0 1 ⟨2, 1⟩), (word 0x84 1 (rg 1) (im 4) 0, .cnCfgStat h0 1 4)] = true := by decide

/-- 20 Table 1. -/
theorem test_decode_sync : reads [
    (word 0x88 0x4AC (rg 1) (mm 2 1) (rg 3), .amo h0 .f32 .min .rdn false 1 ⟨2, 1⟩ (.reg 3)),
    (word 0x88 0x0C1 (rg 1) (mm 2 1) (im 3), .amo h0 .i64 .max .rne true 1 ⟨2, 1⟩ (.imm 3)),
    (word 0x89 0x100 (rg 1) (mm 2 1) (rg 3), .amoCas h0 .i32 1 ⟨2, 1⟩ 3),
    (word 0x8B 0x141 (mm 2 1) (rg 3) 0, .bupd h0 2 true ⟨2, 1⟩ (.reg 3)),
    (word 0x8C 0x120 (rg 1) (mm 2 1) (im 3), .bupdR h0 1 false 1 ⟨2, 1⟩ (.imm 3)),
    (word 0x8D 0 (im 3) (rg 1) (im 13), .bcfg h0 3 1 13), (word 0x8E 0x160 (mm 2 1) (rv 1) (rv 2), .vbupd h0 3 false ⟨2, 1⟩ 1 2),
    (word 0x8F 0 (mm 2 1) (im 4) 0, .barInit h0 ⟨2, 1⟩ (.imm 4)), (word 0x92 0 (rg 1) (mm 2 1) 0, .barTest h0 1 ⟨2, 1⟩),
    (word 0x93 0 (rg 1) 0 (im 0x13), .tbar h0 (.reg 1) (.imm 0x13)),
    (word 0x95 0 (rg 1) (mm 2 1) (rg 3), .wait h0 1 ⟨2, 1⟩ 3), (word 0x97 0 (rg 1) (rg 2) (im 3), .msgSend h0 1 2 (.imm 3)),
    (word 0x98 0 0 (rg 1) 0, .hatchPut h0 (.reg 1)), (word 0x99 0 (rg 1) 0 0, .hatchGet h0 1),
    (word 0x9A 0 (rg 1) 0 0, .hatchFree h0 1), (word 0x9B 0 (rg 1) (rg 2) (im 1), .jobPoll h0 1 (.reg 2) true),
    (word 0x9B 1 (rg 1) (rg 2) (im 0), .jobPollAcq h0 1 (.reg 2) false),
    (word 0x9C 0 (rg 1) (im 2) (im 1), .jobCancel h0 1 (.imm 2) true)] = true := by decide

/-- 16 Table 4. -/
theorem test_decode_vector : reads [
    (word 0xB0 0 (rv 1) (mm 2 1) (rg 3), .vld h0 1 ⟨2, 1⟩ (.reg 3)), (word 0xB1 0 (mm 2 1) (rv 1) 0, .vst h0 ⟨2, 1⟩ 1),
    (word 0xB2 0x102 (rv 1) (rv 2) (im 3), .vadd h0 (.int .i32) .rne true 1 2 (.imm 3)),
    (word 0xB3 0xCA0 (rv 5) (rv 4) (rg 6), .vsub h0 (.x 5) .rne false 5 4 (.g 6)),
    (word 0xB4 0x664 (rv 1) (rv 2) (rv 3), .vmul h0 (.q .sf 2) .rtz false 1 2 (.v 3)),
    (word 0xB6 0x416 (rv 1) (rv 2) (rg 3), .vfms h0 .f32 .sr true 1 2 (.g 3)),
    (word 0xB7 0x518 (rv 1) (rv 2) (rv 3), .vnfma h0 .bf16 .dyn false 1 2 (.v 3)),
    (word 0xB8 0x101 (rv 1) (rv 2) (rv 3), .vmin h0 (.int .i32) true 1 2 (.v 3)),
    (word 0xB9 0x400 (rv 1) (rv 2) (rv 3), .vmax h0 .f32 false 1 2 (.v 3)),
    (word 0xBA 0x002 (rv 1) (rv 2) 0, .vabs h0 (.int .i64) true 1 2), (word 0xBB 0x7E0 (rv 1) (rv 2) 0, .vneg h0 (.q .se 6) false 1 2),
    (word 0xBC 0x404 (rv 1) (rv 2) (im 1), .vcvt h0 .f32 .rtz false 1 2 (.int .i32)),
    (word 0xBD 0x400 (rv 1) (rv 2) 0, .vsum h0 .f32 .rne false 1 2), (word 0xBE 0x500 (rv 1) (rv 2) (rv 3), .vdot h0 .bf16 .rne false 1 2 (.v 3)),
    (word 0xBF 0x8A0 (rv 1) (rv 2) (rv 3), .vcmp h0 (.q .uf) .ge false 1 2 (.v 3)),
    (word 0xC0 0x100 (rv 1) (rv 2) (rg 3), .vsel h0 .i32 1 2 (.g 3)), (word 0xC1 0 (rv 1) (rv 2) (rv 3), .vand h0 1 2 (.v 3)),
    (word 0xC2 0 (rv 1) (rv 2) (rv 3), .vor h0 1 2 (.v 3)), (word 0xC3 0 (rv 1) (rv 2) (rg 3), .vxor h0 1 2 (.g 3)),
    (word 0xC4 0x202 (rv 1) (rv 2) (im 3), .vshl h0 .i16 true 1 2 (.imm 3)),
    (word 0xC5 0x301 (rv 1) (rv 2) (rg 3), .vshr h0 .i8 true 1 2 (.g 3)),
    (word 0xC6 0x400 (rv 1) (rg 2) 0, .vbcast h0 .f32 1 (.fromG 2)), (word 0xC6 0xA00 (rv 1) (rv 2) (im 63), .vbcast h0 .i4 1 (.fromV 2 (.imm 63))),
    (word 0xC7 0x501 (rg 1) (rv 2) (im 3), .vext h0 .bf16 true 1 2 (.imm 3)),
    (word 0xC8 0x000 (rv 1) (rg 2) (rg 3), .vins h0 (.int .i64) 1 2 (.reg 3)),
    (word 0xC9 0xA00 (rv 1) (rv 2) (rv 3), .vpack h0 .i4 .rne false 1 2 3),
    (word 0xCA 0x500 (rv 1) (rv 2) (im 0xE6), .vunpack h0 .bf16 1 2 (.q .sf 5) true),
    (word 0xCB 0x300 (rv 1) (rv 2) (rv 3), .vperm h0 .i8 1 2 3), (word 0xCC 0x400 (rv 1) (rv 2) (rv 3), .vmr h0 .f32 .rne false 1 2 3)] =
    true := by decide

/-- 16 Table 4, the logarithmic path and streams. -/
theorem test_decode_path : reads [
    (word 0xCD 0x400 (rv 1) (rv 2) 0, .vlog h0 .f32 .rne false 1 2), (word 0xCE 0x500 (rv 1) (rv 2) 0, .valog h0 .bf16 .rne false 1 2),
    (word 0xCF 0x680 (rv 1) (rv 2) 0, .vexp2 h0 (.q .sf 3) .rne false 1 2), (word 0xD0 0xCE2 (rv 1) (rv 2) 0, .vlog2 h0 (.x 7) .rne true 1 2),
    (word 0xD1 0x400 (rv 1) (rv 2) 0, .vrcp h0 .f32 .rne false 1 2), (word 0xD2 0x404 (rv 1) (rv 2) 0, .vsqrt h0 .f32 .rtz false 1 2),
    (word 0xD3 0x400 (rv 1) (rv 2) 0, .vrsqrt h0 .f32 .rne false 1 2), (word 0xD4 0x400 (rv 1) (rv 2) (rg 3), .vpow h0 .f32 .rne false 1 2 (.g 3)),
    (word 0xD5 0x400 (rv 1) (rv 2) 0, .vsigm h0 .f32 .rne false 1 2), (word 0xD6 0x400 (rv 1) (rv 2) 0, .vtanh h0 .f32 .rne false 1 2),
    (word 0xD7 0 (rv 3) (mm 2 1) 0, .scfg h0 3 ⟨2, 1⟩), (word 0xD9 0 (rv 0) 0 0, .sfree h0 0)] = true := by decide

/-- R75: the four checks in their order, and R76's worked case: bit 67 set in the `ld` of 04. -/
theorem test_decode_checks :
    decode DecodeCtx.full (BitVec.ofNat 96 (word 0xA0 0 0 0 0)) = .trap 0x01 0xA0 ∧
    decode DecodeCtx.full (BitVec.ofNat 96 (0x4010000000100C9001800000 + 2 ^ 67)) = .trap 0x02 67 ∧
    decode { DecodeCtx.full with mask := 1 } (BitVec.ofNat 96 0x4010000000100C9001800000) = .trap 0x15 3 ∧
    decode { DecodeCtx.full with handler := false } (BitVec.ofNat 96 0x2B0000000000000000000000) = .trap 0x03 0x2B := by decide

/-! ### One ill-formed term for each check of WellFormed, with the rule that forbids it -/

/-- Integer, predicate and tolerance forms (R205, R201, R207, R210, R212, R126, R129, R131). -/
theorem test_wf_scalar : [Instr.bext h0 false 1 2 (.imm 0x1000), .bins h0 1 2 (.imm 0x80000), .extI h0 .i64 false 1 2,
    .lih h0 1 (2 ^ 24), .cmp h0 .i32 .eq true 1 2 (.reg 3), .cmp h0 .i32 .tst true 1 2 (.reg 3), .pmov h0 false 1 (.imm 2),
    .demand h0 (.reg 1) (.imm 0x1000), .bmov h0 (.bFromI 1 0x10000), .sensLd h0 (.imm 64) ⟨1, 0⟩, .sensLdReset h0 (.imm 64)].all
    (fun i => !i.wf) = true := by decide

/-- Memory, copy, atomic and tree forms (R278, R256, R306, R392, R406). -/
theorem test_wf_memory : [Instr.tagFull h0 ⟨1, 0⟩ (.imm 0x10000), .tagEmpty h0 ⟨1, 0⟩ (.imm 0x10000),
    .ldPair h0 .i64 false 5 5 ⟨1, 0⟩, .copyDeal h0 1 ⟨2, 0⟩ (.imm 0), .copyDeal h0 1 ⟨2, 0⟩ (.imm 0x100),
    .amo h0 .f32 .and .rne false 1 ⟨2, 0⟩ (.reg 3), .amo h0 .i64 .add .rtz false 1 ⟨2, 0⟩ (.reg 3),
    .amo h0 .i64 .add .rne true 1 ⟨2, 0⟩ (.reg 3), .red h0 .i64 .swap .rne false ⟨2, 0⟩ (.reg 3) 0,
    .red h0 .f32 .xor .rne false ⟨2, 0⟩ (.reg 3) 0, .red h0 .i32 .min .rup false ⟨2, 0⟩ (.reg 3) 0,
    .red h0 .i32 .or .rne true ⟨2, 0⟩ (.reg 3) 0, .nred h0 .i64 .swap .rne false (.reg 1) 2 (.reg 3),
    .nred h0 .bf16 .or .rne false (.reg 1) 2 (.reg 3), .nred h0 .i64 .add .rna false (.reg 1) 2 (.reg 3),
    .nred h0 .i64 .add .rne true (.reg 1) 2 (.reg 3), .nred h0 .i64 .add .rne false (.reg 1) 2 (.imm 0x4000),
    .tbar h0 (.reg 1) (.imm 0x4000)].all (fun i => !i.wf) = true := by decide

/-- Vector forms (R324, R328, R329). -/
theorem test_wf_vector : [Instr.vadd h0 .i4 .rne false 1 2 (.v 3), .vadd h0 (.int .i8) .rtz false 1 2 (.v 3),
    .vadd h0 .f32 .rne false 1 2 (.imm 1), .vsub h0 .f32 .rne false 1 2 (.imm 1), .vsub h0 .i4 .rne false 1 2 (.v 3),
    .vsub h0 (.int .i8) .rup false 1 2 (.v 3), .vmul h0 .f32 .rne false 1 2 (.imm 1), .vmul h0 .i4 .rne false 1 2 (.v 3),
    .vmul h0 (.int .i8) .rup false 1 2 (.v 3), .vfma h0 (.int .i32) .rne false 1 2 (.v 3), .vfms h0 .i4 .rne false 1 2 (.v 3),
    .vnfma h0 (.int .i64) .rne false 1 2 (.v 3), .vmin h0 .f32 true 1 2 (.v 3), .vmin h0 .i4 false 1 2 (.v 3),
    .vmin h0 .f32 false 1 2 (.imm 1), .vmax h0 .bf16 true 1 2 (.v 3), .vmax h0 .i4 false 1 2 (.v 3), .vmax h0 .f32 false 1 2 (.imm 1),
    .vabs h0 .f32 true 1 2, .vabs h0 .i4 false 1 2, .vneg h0 .f32 true 1 2, .vneg h0 (.q .uf 2) false 1 2,
    .vneg h0 (.q .ue 2) false 1 2, .vcvt h0 .f32 .rne false 1 2 (.int .i64), .vcvt h0 .f32 .rne false 1 2 (.x 1),
    .vcvt h0 .i4 .rne false 1 2 .i4, .vsum h0 .i4 .rne false 1 2, .vsum h0 (.int .i32) .rtz false 1 2,
    .vdot h0 .i4 .rne false 1 2 (.v 3), .vdot h0 (.int .i32) .rtz false 1 2 (.v 3), .vcmp h0 .f32 .tst false 1 2 (.v 3),
    .vcmp h0 .f32 .lt true 1 2 (.v 3), .vcmp h0 (.int .i32) .eq true 1 2 (.v 3), .vcmp h0 .f32 .lt false 1 2 (.imm 1),
    .vbcast h0 (.x 1) 1 (.fromG 2), .vext h0 (.x 1) false 1 2 (.reg 3), .vins h0 (.x 1) 1 2 (.reg 3),
    .vpack h0 (.int .i64) .rne false 1 2 3, .vpack h0 .f32 .rne false 1 2 3, .vpack h0 (.int .i8) .rtz false 1 2 3,
    .vunpack h0 .f32 1 2 (.int .i16) false, .vunpack h0 .i4 1 2 .i4 false, .vmr h0 .i4 .rne false 1 2 3,
    .vmr h0 (.int .i32) .rtz false 1 2 3, .vlog h0 (.q .uf 2) .rne false 1 2, .valog h0 (.int .i32) .rne false 1 2,
    .vexp2 h0 .i4 .rne false 1 2, .vlog2 h0 (.q .ue 2) .rne false 1 2, .vrcp h0 (.int .i8) .rne false 1 2,
    .vsqrt h0 .i4 .rne false 1 2, .vrsqrt h0 (.q .uf 0) .rne false 1 2, .vpow h0 (.int .i16) .rne false 1 2 (.v 3),
    .vsigm h0 .i4 .rne false 1 2, .vtanh h0 (.int .i64) .rne false 1 2, .vrpt h0 (.imm (-1)) 0].all (fun i => !i.wf) = true := by
  decide

/-! ### States that meet the hypotheses of the statements: one theorem per statement, each clause at a boundary -/

/-- One placed thread on core 0, slot 0. -/
def one (t : Thread) : State := { State.reset with cores := [(0, { Core.reset with slots := [(0, t)] })] }
def user : Thread := { Thread.reset with status := .ready, place := { Place.reset with feat := 0xFFFF } }
def hand : Thread := { user with priv := true }
def opened (t : Thread) : Thread := { t with tol := { t.tol with isOpen := true } }
/-- The address of an offset of the own pool, and a thread that holds it in g9. -/
def own (o : Nat) : Word := BitVec.ofNat 64 (0xFE * 2 ^ 56 + o)
def atG9 (t : Thread) (a : Word) : Thread := { t with g := [(9, a)] }
def m9 : Mem := ⟨9, 0⟩
def core0 (s : State) (f : Core → Core) : State := s.modCore 0 f
/-- A page of 4 KiB at virtual and physical address 0, readable and writable. -/
def page (attrs : Nat) : Tlb := { space := 0, ispace := false, vbase := 0, pbase := 0, size := 4096, attrs := attrs, keyslot := 0 }
def tr0 (attrs : Nat) : Trans := { pa := 0, attrs := attrs, keyslot := 0 }
def mapped (t : Thread) (attrs : Nat) : State := core0 (one t) (fun c => { c with tlb := [page attrs] })

theorem test_witness_IntegerWrapOrSaturate : guardHolds (one user) h0 = true ∧ Claims.clamps .i8 true 128 = true ∧
    Claims.clamps .i8 true 127 = false ∧ Claims.clamps .i64 true (-2 ^ 63 - 1) = true := by decide

theorem test_witness_IntegerResults : guardHolds (one user) h0 = true ∧ guardHolds (one user) { h0 with pred := 1, inv := true } = true ∧
    Claims.val .i8 false 0x80 = -2 ^ 7 ∧ Claims.val .i8 false 0xFF = -1 ∧ Claims.val .i8 true 0 = 0 := by decide

theorem test_witness_MovesAndPredicates : guardHolds (one user) h0 = true ∧ (one user).rdP 0 = true ∧ (one user).rdP 7 = false := by
  decide

theorem test_witness_BranchesAndJumps : guardHolds (one user) h0 = true ∧ (one user).me.follower = false ∧
    Claims.taken (one user) false none = true ∧ Claims.taken (one user) false (some 7) = false := by decide

/-- A lockstep follower whose leader goes on at n. -/
def follower (n : Word) : Thread :=
  { user with place := { user.place with gsize := 2, gpos := 1 }, fwd := [{ pc := 0, word := 0, next := some n, result := some 5 }] }

theorem test_witness_FollowerDivergence : ∀ n ∈ [(12 : Word), 24], guardHolds (one (follower n)) h0 = true ∧
    (one (follower n)).me.follower = true ∧ (∃ e, (one (follower n)).me.fwd = e :: [] ∧ e.next = some n) := by
  intro n hn
  simp only [List.mem_cons, List.not_mem_nil, or_false] at hn
  rcases hn with rfl | rfl <;> exact ⟨by decide, by decide, _, rfl, rfl⟩

theorem test_witness_ControlRegisters : guardHolds (one hand) h0 = true ∧ (one hand).me.priv = true ∧
    (∀ n, Claims.ctlReady (one hand) n) ∧ (one user).me.priv = false ∧ Claims.handlerOnly .xscratch = true ∧
    Claims.ctlReady (one user) .frm ∧ Claims.sidingReg .frm = true ∧ Claims.ctlReady (one user) .deadmsg ∧
    Claims.sidingReg .deadmsg = false := by
  refine ⟨by decide, by decide, fun n => ?_, by decide, by decide, ⟨by decide, by decide⟩, by decide, ⟨by decide, by decide⟩, by decide⟩
  exact ⟨fun _ => by decide, fun _ => by decide⟩

/-- A handler that a budget trap entered. -/
def fatal : Thread := { hand with fatalRet := true, ctl := { hand.ctl with xcause := 0x12 } }

theorem test_witness_SystemInstructions : (one user).me.priv = false ∧ guardHolds (one user) h0 = true ∧
    (one (opened hand)).me.priv = true ∧ (one (opened hand)).me.tol.isOpen = true ∧ (one hand).me.tol.isOpen = false ∧
    (one fatal).me.fatalRet = true ∧ (one fatal).me.ctl.xcause = 0x12 ∧ (one hand).me.ctl.xcause ≠ 0x12 := by decide

theorem test_witness_TrapEntry : ((one user).thread 0 0).fresh = false ∧ ((one { user with ctl := { user.ctl with xvec := 4 } }).thread 0 0).fresh = false := by
  decide

theorem test_witness_InterruptEntry : (((one (opened user)).thread 0 0).tol.isOpen && !((one (opened user)).thread 0 0).priv) = true := by
  decide

/-- The first handler instruction has not retired. -/
def entered : Thread := { hand with fresh := true }
def gang0 (ms : List (Nat × Nat)) : Gang :=
  { launch := 0, node := 0, cluster := 0, members := ms, inum := 0, startTick := 0, marked := none, token := false, started := true,
    fatal := none }
def inGang (t : Thread) (ms : List (Nat × Nat)) : State :=
  { one t with disp := { Disp.reset with gangs := [(0, gang0 ms)] } }

theorem test_witness_DoubleTrap : ((one entered).thread 0 0).fresh = true ∧ gangMembers (one entered) 0 = [] ∧
    ((inGang entered [(0, 0)]).thread 0 0).fresh = true ∧ (0, 0) ∈ gangMembers (inGang entered [(0, 0)]) 0 := by decide

theorem test_witness_OwnPoolLoads : ∀ t ∈ [user, hand], let s := one (atG9 t (own 385016))
    guardHolds s h0 = true ∧ 385016 % 8 = 0 ∧ Claims.poolReadable s (memAddr s m9 8) 385016 8 ∧
    (let s := one (atG9 t (own 385008)); 385008 % 16 = 0 ∧ Claims.poolReadable s (memAddr s m9 8) 385008 16) := by
  unfold Claims.poolReadable Claims.poolOpen; decide

theorem test_witness_OwnPoolStores : let s := one (atG9 user (own 0))
    guardHolds s h0 = true ∧ s.memWf = true ∧ Claims.lineRoom s 0 ∧ Claims.poolOpen s (memAddr s m9 8) 0 8 ∧
    Claims.poolOpen s (memAddr s m9 8) 0 16 ∧ Claims.lineRoom (one (opened (atG9 user (own 0x3000)))) 0x3000 := by
  unfold Claims.lineRoom Claims.poolOpen; decide

theorem test_witness_PoolAccessTraps :
    (let s := one (atG9 user (own 1)); guardHolds s h0 = true ∧ (memAddr s m9 2).toNat % 2 ≠ 0 ∧ (memAddr s m9 4).toNat % 4 ≠ 0) ∧
    (let s := one (atG9 user (own 8)); (memAddr s m9 8).toNat % 16 ≠ 0 ∧ (memAddr s m9 8).toNat % 64 ≠ 0) ∧
    (let s := one (atG9 user (own 385020)); guardHolds s h0 = true ∧ memAddr s m9 4 = own 385020 ∧ 385020 % 4 = 0 ∧
      385020 + 4 ≤ poolLimit s.myCore.part) ∧
    (let s := one (atG9 user (own 385024)); memAddr s m9 4 = own 385024 ∧ 385024 % 4 = 0 ∧ poolLimit s.myCore.part < 385024 + 4) ∧
    (let s := core0 (one (atG9 user (own 0x2FFC))) (fun c => { c with sill := 0x3000 })
     memAddr s m9 4 = own 0x2FFC ∧ 0x2FFC + 4 ≤ poolLimit s.myCore.part ∧ s.me.priv = false ∧ 0x2FFC < s.myCore.sill.toNat) := by
  decide

/-- A near copy of line 0. -/
def near0 : NearLine := { key := 0, bytes := List.replicate 64 7, fv := 3, bad := [] }

theorem test_witness_GlobalLoads : ∀ attrs ∈ [0xD7, 0xD7 + 2 ^ 56],
    let s := core0 (mapped (atG9 user 56) attrs) (fun c => { c with near := [(0, near0)] })
    let tr := { tr0 attrs with pa := 56 }
    guardHolds s h0 = true ∧ (memAddr s m9 8).toNat % 8 = 0 ∧ Claims.globalOpen s (memAddr s m9 8) 8 .read tr ∧
    dieHeld s (lineDie tr.line) = false ∧ redPending s 0 0 tr.line tr.off 8 = false ∧ answerFor s (memAddr s m9 8) 0 = none ∧
    (∀ i, i < 8 → ownByte s 0 0 tr.line (tr.off + i) = none) ∧ AMap.get s.myCore.near (nearIdx tr.key tr.line) = some near0 ∧
    near0.key = tr.key ∧ nearPoison near0 (baseWords s 0 0 tr.line tr.off 8) = false ∧ tr.off + 8 ≤ near0.bytes.length ∧
    tr.checked = decide (attrs ≠ 0xD7) ∧ tr.content = false ∧ AMap.get s.me.rgn.reads tr.line = none := by
  intro attrs h
  simp only [List.mem_cons, List.not_mem_nil, or_false] at h
  rcases h with rfl | rfl <;>
    exact ⟨by decide, by decide, ⟨⟨by decide, by decide, by unfold Claims.noneGone; decide, _, rfl, by decide⟩, by decide, by decide, by decide, by decide⟩, by decide, by decide,
      by decide, by decide, by decide, by decide, by decide, by decide, by decide, by decide, by decide⟩

theorem test_witness_GlobalStores : ∀ attrs ∈ [0xD7, 0xD7 + 2 ^ 56], let s := mapped (atG9 user 0) attrs
    guardHolds s h0 = true ∧ (memAddr s m9 8).toNat % 8 = 0 ∧ Claims.globalOpen s (memAddr s m9 8) 8 .write (tr0 attrs) ∧
    (tr0 attrs).checked = decide (attrs ≠ 0xD7) ∧ s.me.priv = false ∧ s.me.rgn.held.length < 64 ∧ s.me.wq.length < 32 := by
  intro attrs h
  simp only [List.mem_cons, List.not_mem_nil, or_false] at h
  rcases h with rfl | rfl <;>
    exact ⟨by decide, by decide, ⟨⟨by decide, by decide, by unfold Claims.noneGone; decide, _, rfl, by decide⟩, by decide, by decide, by decide, by decide⟩, by decide, by decide,
      by decide, by decide⟩

/-- A thread with a held line, and one whose read set conflicts. -/
def holds1 : Thread := { user with rgn := { Region.empty with held := [(0, { pa := 0, va := 0, key := 0, bytes := [(0, 1)], shaded := [], gone := false })] } }
def reads1 : Thread := { user with rgn := { Region.empty with reads := [(0, { pa := 0, va := 0, rv := 0, mask := 1 })] } }
def moved : Memory := { Memory.reset with lines := [(0, { commit := 1, performed := 1, cw := [(0, 1)], w := [(0, 9)] })] }

theorem test_witness_Regions : Claims.boundaryPasses (one holds1) ∧ tolDefers (one holds1) = false ∧ guardHolds (one holds1) h0 = true ∧
    tolDefers (one (opened user)) = true ∧ drainHeld (one holds1) 0 0 = false ∧ (closeRegion (one holds1) 0 0).1 = none ∧
    ((closeRegion { one reads1 with mem := moved } 0 0).1).isSome = true := by
  unfold Claims.boundaryPasses Claims.closes Claims.noneGone; decide

/-- An acknowledged write on its way, and a release whose markers are all gathered. -/
def stored1 : Thread := { user with wq := [{ host := false, line := 0, off := 0, checked := false, key := 0, op := .store [1] }] }
def gathers (t : Thread) : State :=
  { one { t with rel := some { pc := 0, scope := .mod, sent := true, need := 1 }, dests := [0] } with
    mem := { Memory.reset with gathered := [(0, 1)] } }

theorem free_user (sc : Scope) : Claims.releaseFree (one user) sc := ⟨by decide, by decide, fun _ => by decide⟩

theorem closes_of {s : State} (h : (sidingIdle s s.cur.1 s.cur.2 && !drainHeld s s.cur.1 s.cur.2 &&
    s.me.rgn.held.all (fun e => !e.2.gone) && (closeRegion s s.cur.1 s.cur.2).1.isNone) = true) : Claims.closes s := by
  simp only [Bool.and_eq_true, Bool.not_eq_true', List.all_eq_true, Option.isNone_iff_eq_none] at h
  exact ⟨h.1.1.1, h.1.1.2, fun e he => h.1.2 e he, h.2⟩

theorem free_gathers : Claims.releaseFree (gathers user) .mod := ⟨by decide, by decide, by decide, fun _ => by decide⟩

theorem test_witness_AcquireAndRelease : Claims.releaseFree (gathers user) .mod ∧
    Claims.releaseFree (one (atG9 user (own 0x3000))) .sys ∧ let s := one (atG9 user (own 0x3000))
    guardHolds s h0 = true ∧ Claims.poolReadable s (memAddr s m9 8) 0x3000 8 ∧ Claims.boundaryPasses s ∧ s.memWf = true ∧
    Claims.lineRoom s 0x3000 ∧ ackedPending (one stored1) 0 0 = true ∧ Claims.boundaryPasses (one stored1) ∧
    tolDefers (one stored1) = false := by
  refine ⟨free_gathers, ⟨by decide, by decide, fun _ => by decide⟩, ?_⟩
  unfold Claims.poolReadable Claims.poolOpen Claims.boundaryPasses Claims.closes Claims.noneGone Claims.lineRoom; decide

theorem test_witness_Fences : Claims.releaseFree (one user) .mod ∧ guardHolds (one user) h0 = true ∧ Claims.boundaryPasses (one user) ∧
    Claims.boundaryPasses (one (opened user)) ∧ tolDefers (one (opened user)) = true ∧ ackedPending (one stored1) 0 0 = true := by
  refine ⟨free_user _, ?_⟩
  unfold Claims.boundaryPasses Claims.closes Claims.noneGone; decide

/-- Own scratchpad with empty tags on the word at 0x3000. -/
def emptied (t : Thread) : State := core0 (one t) (fun c => { c with emptyTags := [0xC00] })

theorem test_witness_Tags : ∀ s ∈ [one (atG9 user (own 0x3000)), emptied (atG9 user (own 0x3000))],
    guardHolds s h0 = true ∧ s.memWf = true ∧ Claims.lineRoom s 0x3000 ∧ inScratch s.myCore.part 0x3000 4 = true ∧
    inScratch s.myCore.part 0x3000 64 = true ∧ answerFor s (own 0x3000) 4 = none ∧ answerFor s (own 0x3000) 5 = none ∧
    Claims.poolReadable s (memAddr s m9 4) 0x3000 4 ∧ Claims.poolOpen s (memAddr s m9 8) 0x3000 64 ∧
    s.myCore.allFull 0x3000 4 = !s.myCore.allEmpty 0x3000 4 ∧ tolRead s 0 0x3000 64 = false := by
  unfold Claims.poolReadable Claims.poolOpen Claims.lineRoom; decide

theorem test_witness_LineMaintenance : guardHolds (one user) h0 = true ∧ decodeAddr (own 0) ≠ .global ∧ wfld (own 0) 56 8 = 0xFE ∧
    Claims.tlbHit (mapped user 0xD7) 0 .read (tr0 0xD7) ∧ (tr0 0xD7).host = false ∧ dieHeld (mapped user 0xD7) (lineDie (tr0 0xD7).line) = false ∧
    answerFor (mapped user 0xD7) 0 3 = none ∧ (mapped user 0xD7).mem.dirty.contains (tr0 0xD7).line = false ∧
    (let s := core0 (one user) (fun c => { c with tlb := [{ page 0xD7 with pbase := 2 ^ 52 }] })
     Claims.tlbHit s 0 .read { tr0 0xD7 with pa := 2 ^ 52 } ∧ ({ tr0 0xD7 with pa := 2 ^ 52 } : Trans).host = true) := by
  refine ⟨by decide, by decide, by decide, ⟨by decide, by decide, by unfold Claims.noneGone; decide, _, rfl, by decide⟩, by decide, by decide, by decide, by decide,
    ⟨by decide, by decide, by unfold Claims.noneGone; decide, _, rfl, by decide⟩, by decide⟩

/-- A gang of a leader in slot 0 and a follower in slot 1 of core 0, with one of them acting. -/
def lead : Thread := { hand with place := { user.place with gsize := 2 } }
def tail (shed : Bool) : Thread := { user with place := { user.place with gsize := 2, gpos := 1, shed := shed } }
def two (l f : Thread) (k : Nat) : State :=
  { State.reset with cur := (0, k), cores := [(0, { Core.reset with slots := [(0, l), (1, f)] })],
                     disp := { Disp.reset with gangs := [(0, gang0 [(0, 0), (0, 1)])] } }
def joinAt (t : Thread) (pc : Word) : Thread := { t with status := .parked .gangJoin, pc := pc }

theorem test_witness_FillAndGangs :
    (let s := { core0 (one { user with g := [(4, 0x2000)] }) (fun c => { c with sill := 0x3000 }) with
       clusters := [(0, { Cluster.reset with itlb := [{ page 0xDF with ispace := true, size := 2 ^ 21 }] })] }
     guardHolds s h0 = true ∧ s.memWf = true ∧ (s.rdG 4).toNat = 0x2000 ∧ 0x2000 + 4096 ≤ s.myCore.sill.toNat ∧
     poolShut s.myCore 0x2000 4096 = false ∧ Claims.instrHit s (0 + 4 * 0) (tr0 0xDF)) ∧
    (∀ k ∈ [0, 1], ∀ b, 1 < (two lead (tail b) k).me.place.gsize ∧
      gangMembers (two lead (tail b) k) 0 = (0, 0) :: [(0, 1)] ∧ (two lead (tail b) k).cur ∈ [(0, 0), (0, 1)] ∧
      ((two lead (tail b) k).thread 0 0).place.gpos = 0 ∧ (two lead (tail b) k).me.place.gpos = k ∧
      ((two lead (tail b) k).thread 0 1).place.shed = b ∧ (two lead (tail b) k).me.tol.isOpen = false) ∧
    ¬Claims.joined (two lead (tail true) 0) 0 (0, 1) ∧ Claims.joined (two lead (joinAt (tail true) 0) 0) 0 (0, 1) ∧
    Claims.joined (two (joinAt lead 0) (tail true) 1) 0 (0, 0) ∧ ((two lead (tail true) 1).thread 0 0).status ≠ .parked .gangJoin ∧
    ((two (joinAt lead 12) (tail true) 1).thread 0 0).status = .parked .gangJoin ∧ ((two (joinAt lead 12) (tail true) 1).thread 0 0).pc ≠ 0 := by
  refine ⟨⟨by decide, by decide, by decide, by decide, by decide, by decide, _, rfl, by decide⟩, by decide, ?_, ?_, ?_, by decide, by decide, by decide⟩ <;>
    unfold Claims.joined <;> decide

theorem test_witness_BudgetsAndSensitivities : let s := one (atG9 user (own 0x3000))
    guardHolds s h0 = true ∧ 0x3000 % 8 = 0 ∧ Claims.poolReadable s (memAddr s m9 8) 0x3000 8 := by
  unfold Claims.poolReadable Claims.poolOpen; decide

/-- A demand tree of one leaf of class 9 with target b3, at scratchpad offset 0x3000, and an open region that names it. -/
def leaf (t : Thread) : State := core0 (one t) (fun c => { c with pool := [(0x3000, 9), (0x3006, 3)] })
def demanded (short : Bool) : Thread :=
  { user with tol := { user.tol with isOpen := true, tree := 0x3000, root := 32, short := short, deficit := 4, treplays := 2 } }

theorem test_witness_TolerantRegions : guardHolds (leaf user) h0 = true ∧
    ((one (demanded false)).me.tol.isOpen = true ∧ (one { demanded false with pc := 12 }).me.pc ≠ (one { demanded false with pc := 12 }).me.tol.tentry) ∧
    (closeRegion (leaf user) 0 0).1 = none ∧ drainHeld (leaf user) 0 0 = false ∧
    (∃ ts, shareFrom (leaf user) (leaf user).me (leaf user).myCore 0x3000 false 256 0 [(0, 32)] [] [] = .done' ts) ∧
    (leaf user).myCore.num 0x3000 8 = 9 + 3 * 2 ^ 48 ∧ 0x3000 + 8 ≤ poolLimit (leaf user).myCore.part ∧
    poolLimit (leaf user).myCore.part < 385024 + 8 ∧
    sidingIdle (leaf (demanded true)) 0 0 = true ∧ ((leaf (demanded true)).me.tol.short && !(leaf (demanded true)).me.tol.exactpass) = true ∧
    (∃ ts, shareFrom (leaf (demanded true)) (leaf (demanded true)).me (leaf (demanded true)).myCore 0x3000 true 256 0
      [(0, Claims.adjust (32 ||| 0x4000) 4)] [] [] = .done' ts) ∧
    sidingIdle (core0 (leaf (demanded true)) (fun c => { c with seq := [⟨0, .vsync h0, 0, 0, 0, 0, [], false, false⟩] })) 0 0 = false ∧
    (closeRegion (leaf (demanded false)) 0 0).1 = none ∧ (leaf (demanded false)).me.tol.deferred = 0 ∧
    ((closeRegion { one (opened reads1) with mem := moved } 0 0).1).isSome = true := by
  refine ⟨by decide, by decide, by decide, by decide, ⟨_, rfl⟩, by decide, by decide, by decide, by decide, by decide, ⟨_, rfl⟩, by decide, by decide,
    by decide, by decide⟩

/-- A stage charter whose rings lie at addresses 64 and 128, its launch, and a ring of 16 slots of 64 bytes. -/
def stage0 (rings : Bool) (tiles : Bool) : Node :=
  { addr := 0, kind := 3, parent := none, children := [], tag := 0, deadline := 100, missed := 0, policy := 0, energy := 100, dram := 100,
    pool := 1, cores := 1,
    stage := some { entry := 0x2000, gang := 1, mininst := 1, maxinst := 1, part := 0x13F, feat := 0xFFFF,
                    inring := if rings then 64 else 0, outring := if rings then 128 else 0, tiles := 0, pimage := 0 }
    tile := if tiles then some { addr := 0, dims := 1, order := 0, xext := 4, yext := 1, zext := 1, issued := 0, next := 4, back := [2], cells := [] } else none
    usedCores := 0, usedDram := 0, usedEnergy := 0, firstStart := 0, placed := true, started := 1, running := 1, complete := false,
    ending := false, missApplied := false, status := 0, code := 0, health := false, retried := false, again := false, overrun := none,
    dlCount := 0, dlRing := 0, metered := 0 }
def launch0 (n : Node) : Launch :=
  { space := 0, seq := 1, args := 0, start := 0, deps := [], strict := false, nodes := [(0, n)], parent := none, clusters := [0], done := false,
    aborted := false, record := 0 }
def ring0 (claim post take free : Nat) (st : AMap Nat) : Ring :=
  { space := 0, launch := 0, slots := 0x4000, size := 0, states := 0x8000, nlog := 4, low := 2, high := 14, claim := claim, post := post,
    take := take, free := free, st := st, holder := some 0, above := 0, below := 0, mark := none, closed := false, start := 0, cells := [] }
def staged (t : Thread) (n : Node) (r : Ring) : State :=
  { one t with disp := { Disp.reset with launches := [(0, launch0 n)], gangs := [(0, gang0 [(0, 0)])], rings := [(64, r), (128, r)] } }

theorem test_witness_LaunchesAndTiles :
    (let s := one (atG9 user (own 0x3000)); guardHolds s h0 = true ∧ s.me.follower = false ∧ Claims.poolReadable s (memAddr s m9 8) 0x3000 64 ∧
      sidingIdle s 0 0 = true ∧ Claims.closes s ∧ s.me.launchRes = none ∧
      (one { user with launchRes := some (0, none) }).me.launchRes = some (0, none) ∧
      (one { user with launchRes := some (0, some 0x01000102) }).me.launchRes = some (0, some 0x01000102) ∧
      findConflict (one (opened user)) 0 0 = none) ∧
    (let s := staged user (stage0 false false) (ring0 0 0 0 0 []); AMap.get s.disp.gangs 0 = some (gang0 [(0, 0)]) ∧
      AMap.get s.disp.launches 0 = some (launch0 (stage0 false false)) ∧ s.node 0 0 = some (stage0 false false) ∧
      isFed (stage0 false false) = false ∧ jobsFinal s (0, 0) = true ∧ Claims.closes s) ∧
    Claims.releaseFree (one user) .mod ∧ inScratch (one user).myCore.part 385016 8 = true ∧ inScratch (one user).myCore.part 0x2FF8 8 = false ∧
    (one { user with tilesOut := [0, 8, 16, 24] }).me.tilesOut.length = 4 ∧ (0, 0) ∈ gangMembers (inGang user [(0, 0)]) 0 := by
  refine ⟨?_, ?_, free_user _, by decide, by decide, by decide, by decide⟩ <;>
    unfold Claims.closes Claims.noneGone <;> try unfold Claims.poolReadable Claims.poolOpen
  all_goals decide

theorem test_witness_RingInstructions :
    (let s := staged user (stage0 true false) (ring0 16 3 3 0 [(3, 1), (2, 3)])
     guardHolds s h0 = true ∧ s.me.tol.isOpen = false ∧ s.me.follower = false ∧ myRing s false = some (64, ring0 16 3 3 0 [(3, 1), (2, 3)]) ∧
     myRing s true = some (128, ring0 16 3 3 0 [(3, 1), (2, 3)]) ∧ Claims.closes s ∧ producerDone s (ring0 16 3 3 0 []) 64 = false) ∧
    producerDone (staged user { stage0 true false with complete := true } (ring0 5 5 5 5 [])) (ring0 5 5 5 5 []) 128 = true ∧
    myRing (staged user (stage0 false false) (ring0 0 0 0 0 [])) true = none ∧ Claims.releaseFree (one user) .mod ∧
    (∃ e, (one (follower 12)).me.fwd = e :: [] ∧ e.next = some 12 ∧ e.result = some 5) := by
  refine ⟨?_, by decide, by decide, free_user _, _, rfl, rfl, rfl⟩
  unfold Claims.closes Claims.noneGone; decide

/-- The bytes of a number at a pool offset, in canonical form. -/
def cells (o n v : Nat) : List Host.Cell := Cells.putN [] o (toBytes n v)
def at3000 (t : Thread) (n v : Nat) : State := core0 (one (atG9 t (own 0x3000))) (fun c => { c with pool := cells 0x3000 n v })
/-- The layout record of 15 with T = 0, after its refusal is mended; as first built its budget holds 0x9000. -/
def record15 : Nat :=
  0x00000000000003C0000500040001000000280017001400070000000100270020000F000000000000C000000000008000007F7F00530850500000000000000000FE000000000031000000000000000000
def ended (st : Nat) : CopyJob :=
  { (newCopy (one user) 0 record15 0) with id := 0, status := st, shutters := [(0, 2)] }
def jobs1 (j : CopyJob) : State := { one user with clusters := [(0, { Cluster.reset with copyNext := 1, copyJobs := [(0, j)] })] }

theorem test_witness_CopyInstructions :
    (let s := at3000 user 96 record15
     guardHolds s h0 = true ∧ Claims.poolReadable s (memAddr s m9 8) 0x3000 96 ∧ s.me.tol.isOpen = false ∧ Claims.closes s ∧
     s.myCore.num 0x3000 96 = record15 ∧ layoutOffs record15 false = [] ∧ nestedRecord record15 = false ∧ badBases record15 = none ∧
     checkRanges s (poolRanges (copyHull s 0 record15 0 (copyFmt record15) false 0) ++
       poolRanges (copyHull s 0 record15 0 (copyFmt record15) true 0)) = none ∧
     record15 / 2 ^ 128 % 2 ^ 64 = 0 ∧ pendingJobs s 0 1 < 32 ∧
     shuttersFree s (wantShutters s record15 0 (copyHull s 0 record15 0 (copyFmt record15) true 0)) = true) ∧
    Claims.releaseFree (one user) .clu ∧ (layoutOffs (record15 + 0x1000 * 2 ^ 256) false).min? = some 0x10C ∧
    AMap.get ((one user).cluster 0).copyJobs 0 = none ∧ restoredShutters (one user) 0 0 0 = [] ∧
    (∀ st ∈ [0, 1, 2, 3, 4], AMap.get ((jobs1 (ended st)).cluster 0).copyJobs 0 = some (ended st) ∧ (ended st).status = st) := by
  refine ⟨?_, free_user _, by decide, by decide, by decide, ?_⟩
  · unfold Claims.closes Claims.noneGone Claims.poolReadable Claims.poolOpen; decide
  · decide

/-- The job record of 17, under its partition word. -/
def job17 : Nat :=
  0x27F7F800080000046F0F05050000000000000008000000080FE00000000013000FE00000000012000
def at17 (v : Nat) : State :=
  core0 (one (atG9 user (own 0x13000))) (fun c => { c with part := 0x80481015, pool := cells 0x13000 64 v })

theorem test_witness_MatrixSubmissions :
    (let s := at17 job17
     guardHolds s h0 = true ∧ s.me.tol.isOpen = false ∧ Claims.poolReadable s (memAddr s m9 8) 0x13000 64 ∧ Claims.closes s ∧
     s.myCore.num 0x13000 64 = job17 ∧ mxOffs s 0 s.myCore.part job17 = [] ∧ isNested (mxStored job17 false) = false ∧ mxSparse job17 = 0 ∧
     mxBadBase job17 = none ∧
     checkRanges s (poolRanges (mxHull s 0 job17 false) ++ poolRanges (mxHull s 0 job17 true)) = none ∧ job17 / 0x1000000000000000000000000000000000000000000000000000000000000000000000000000000000000000000000000 % 2 ^ 64 = 0 ∧
     pendingJobs s 0 0 < 16 ∧ (freeShutter s.myCore).isSome = true ∧ 0 < openCount s.myCore ∧ partAcc s.myCore.part = 8) ∧
    ((mxOffs (at17 job17) 0 0x80481015 (job17 + 0x2000000000000000000000000000000000000000000000000000000000000000000000000000000000)).min?).isSome = true ∧ Claims.releaseFree (one user) .clu := by
  refine ⟨?_, by decide, free_user _⟩
  unfold Claims.closes Claims.noneGone Claims.poolReadable Claims.poolOpen; decide

theorem test_witness_AtomicsAndReductions :
    (let s := mapped (atG9 user 56) 0xD7; let tr := { tr0 0xD7 with pa := 56 }
     guardHolds s h0 = true ∧ s.memWf = true ∧ Claims.atomicOpen s (memAddr s m9 8) 8 tr ∧ Claims.tlbHit s (memAddr s m9 8) .write tr ∧
     AMap.get s.me.rgn.held tr.line = none ∧ s.me.wq.length < 32) ∧
    (let s := one (atG9 { user with g := [(8, own 0x3008)] } (own 0x3000)); (memAddr s m9 8).toNat / 2 ^ 56 = 0xFE) ∧
    (let s := mapped { user with g := [(8, own 0x3008)] } 0xD7; s.rdG 8 ≠ 0 ∧ (s.rdG 8).toNat % 8 = 0 ∧ tagTarget s (s.rdG 8) 8 = .inr (0, 0x3008)) ∧
    (AMap.get (mapped holds1 0xD7).me.rgn.held (tr0 0xD7).line).isSome = true ∧ Claims.closes (mapped holds1 0xD7) ∧
    ((closeRegion (mapped holds1 0xD7) 0 0).2.me.wq.length < 32) := by
  have hit : Claims.tlbHit (mapped (atG9 user 56) 0xD7) 56 .write { tr0 0xD7 with pa := 56 } := ⟨by decide, by decide, by unfold Claims.noneGone; decide, _, rfl, by decide⟩
  refine ⟨⟨by decide, by decide, ⟨by decide, by decide, closes_of (by decide), ⟨by decide, by decide, fun _ => by decide⟩, hit, by decide,
    by decide, by decide, by decide, by decide, fun i _ => rfl⟩, hit, by decide, by decide⟩, by decide, by decide, by decide, closes_of (by decide), by decide⟩

/-- A state of one core with nothing in its update queue has nothing in any. -/
theorem bank_one (t : Thread) : ∀ c, ((one t).core c).bank = [] := by
  intro c
  simp only [one, State.core, AMap.getD, AMap.get]
  by_cases h : 0 = c <;> simp [h, Core.reset]

theorem test_witness_BankUpdates : let s := one (atG9 { user with g := [(8, own 0x3000 + 0x0001030000000000)] } (own 385020))
    guardHolds s h0 = true ∧ s.me.tol.isOpen = false ∧ s.memWf = true ∧ (∀ c, (s.core c).bank = []) ∧ 385020 % 4 = 0 ∧
    inScratch s.myCore.part 385020 4 = true ∧ Claims.poolOpen s (memAddr s m9 4) 385020 4 ∧ s.myCore.poisoned 385020 4 = false ∧
    decodeAddr (own 0x3000) = .own 0x3000 ∧ decodeAddr (own 0x3000 + 0x0001030000000000) = .peer 3 0x3000 := by
  refine ⟨by decide, by decide, by decide, bank_one _, by decide, by decide, ?_, by decide, by decide, by decide⟩
  unfold Claims.poolOpen; decide

/-- A die whose episode of root 0 and group 0 fills with one arrival. -/
def episode0 (red : Option (NTy × AOp × Bool × Nat)) (n : Nat) : Episode :=
  { launch := 0, group := 0, n := n, red := red, arrivals := [{ core := 0, slot := 0, off := 0x3000, val := 7 }] }
def tree0 (red : Option (NTy × AOp × Bool × Nat)) (n : Nat) : State :=
  { one user with dies := [(0, { Die.reset with episodes := [(0, episode0 red n)] })] }

theorem test_witness_Barriers :
    (let s := at3000 user 8 (4 + 1 * 2 ^ 16 + 5 * 2 ^ 48)
     guardHolds s h0 = true ∧ s.memWf = true ∧ 0x3000 % 8 = 0 ∧ inScratch s.myCore.part 0x3000 8 = true ∧
     Claims.poolReadable s (memAddr s m9 8) 0x3000 8 ∧ Claims.lineRoom s 0x3000 ∧ s.me.tol.isOpen = false ∧ Claims.closes s ∧
     s.myCore.num 0x3000 8 / 2 ^ 48 = 5 ∧ s.myCore.poisoned 0x3000 8 = false) ∧
    Claims.arrival (4 + 1 * 2 ^ 16 + 5 * 2 ^ 48) 1 = 4 + 4 * 2 ^ 16 + 6 * 2 ^ 48 ∧ Claims.releaseFree (one user) .clu ∧ Claims.releaseFree (one user) .die ∧
    treeBusy ((one user).die 0) 0 0 0 = false ∧ treeBusy ((tree0 none 2).die 0) 0 0 0 = true ∧ AMap.get ((one user).die 0).episodes 0 = none := by
  refine ⟨?_, by decide, free_user _, free_user _, by decide, by decide, by decide⟩
  unfold Claims.poolReadable Claims.poolOpen Claims.lineRoom Claims.closes Claims.noneGone; decide

/-- A wait block: a held message condition, then conditions of kind 0. -/
def waits (t : Thread) (x : Nat) : State := at3000 { t with msgCount := 1 } 32 x
def mxjob (st : Nat) : MatrixJob :=
  { id := 0, core := 0, slot := 0, space := 0, keyslot := 0, launch := 0, node := 0, deadline := 0, record := 0, recAddr := 0, rnd := 0,
    zero := some (0, 1), first := 0, tiles := 1, done := 0, afmt := 0, bfmt := 0, seed := 0, opA := [], opB := [], converted := false,
    flags := 0, grade := 0x8000, need := 0, status := st, code := 0, ended := none, cancel := false, walk := none, shadowed := false,
    sensA := 0, sensB := 0 }
def jobs2 (j : MatrixJob) : State := { one user with clusters := [(0, { Cluster.reset with mxNext := 1, mxJobs := [(0, j)] })] }

theorem test_witness_WaitsMessagesJobs :
    (∀ x ∈ [6, 8, 16, 3 + 2 ^ 8, 0], let s := waits user x
      guardHolds s h0 = true ∧ 0x3000 % 32 = 0 ∧ inScratch s.myCore.part 0x3000 32 = true ∧ Claims.poolReadable s (memAddr s m9 8) 0x3000 32) ∧
    Claims.badCondition 0x13F 8 = some 0 ∧ Claims.badCondition 0x13F 16 = some 4 ∧ Claims.badCondition 0x13F (3 + 2 ^ 8) = some 8 ∧
    Claims.badCondition 0x13F 6 = none ∧ Claims.conditionHolds (waits user 6) 6 = true ∧ condStop (waits user 6) 6 = none ∧
    Claims.conditionHolds (waits user 0) 0 = false ∧ (one { user with g := [(3, 0)] }).rdG 3 = 0 ∧ (one user).time.tick < ((5 : Word)).toNat ∧
    Claims.closes (one user) ∧ Claims.releaseFree (one user) .mod ∧ (one (opened user)).me.tol.isOpen = true ∧
    (∀ n ∈ [0, 7, 8], let s := core0 (one user) (fun c => { c with lanes := [(0, List.replicate n 1), (4, List.replicate n 2)] })
      (AMap.getD (s.core 0).lanes 0 []).length = n ∧ (AMap.getD (s.core 0).lanes 4 []).length = n) ∧
    AMap.get (one user).me.ren (2 ^ 32) = none ∧
    (∀ st ∈ [0, 1, 4], (0 < (1 + 2 ^ 32 - 0) % 2 ^ 32) ∧ AMap.get ((jobs1 (ended st)).cluster 0).copyJobs 0 = some (ended st) ∧
      (ended st).launch = (jobs1 (ended st)).me.place.launch ∧ (ended st).node = (jobs1 (ended st)).me.place.node ∧
      AMap.get ((jobs2 (mxjob st)).cluster 0).mxJobs 0 = some (mxjob st) ∧ (mxjob st).launch = (jobs2 (mxjob st)).me.place.launch) := by
  refine ⟨?_, by decide, by decide, by decide, by decide, by decide, by decide, by decide, by decide, by decide, closes_of (by decide),
    free_user _, by decide, by decide, by decide, by decide⟩
  unfold Claims.poolReadable Claims.poolOpen; decide

/-- A content store: 16 buckets for each home from address 0, 512 slots, on. -/
def store0 : Store := { cfg := 512 * 2 ^ 128 + 4 * 2 ^ 160 + 2 ^ 167 + 0x100000 * 2 ^ 64, bootSlot := 0, collides := 0, reclaim := [], used := [] }
def withStore (s : State) : State :=
  { s with stores := [(0, store0)], clusters := [(1, { Cluster.reset with l2 := [{ page (0xD7 + 2 ^ 55) with size := 2 ^ 30 }] })] }
def asked (kind : CnKind) (ans : Bool) (st : Nat) : CnReq :=
  { pc := 0, kind := kind, space := 0, name := 1, data := 0, area := 0xFE00000000003000, answered := ans, status := st, slotIdx := 2, kite := 5 }

/-- A node line with one child, of name 1. -/
def node1 : Nat := 0xC0 + 0x100 + 2 ^ 128

/-- A request that does not end in a walk reaches its home. -/
theorem reach_of {s : State} {k : CnKind} {n d : Nat} {a : Word}
    (h : (match homeRequest s.cur.1 s.cur.2 (mkReq s k n d a) s with
      | .error (.walk _ _ _) => true
      | _ => false) = false) : Claims.reaches s k n d a := by
  intro va w st e; rw [e] at h; cases h

/-- A node with an unknown child is refused whatever its name. -/
theorem install_missing {sp n : Nat} {st : Store} {line : List Byte} {s s1 : State} {live : List (Option Found)}
    (h : (nodeKids (ofBytes line)).mapM (fun k => findLive sp st k) s = .ok (live, s1)) (hl : live.any Option.isNone = true) :
    install sp st n line true s = .ok ((4, 0, 0), s1) := by
  simp only [install, bind, StateT.bind, Except.bind, if_true, h, hl]
  rfl

def nodeState : State := withStore (at3000 { user with g := [(8, own 0x3100)] } 64 node1)

theorem reach_node (n : Nat) : Claims.reaches nodeState .node n node1 (own 0x3100) := by
  have h : ∃ live s1, (nodeKids (ofBytes (toBytes 64 node1))).mapM (fun k => findLive 0 store0 k) nodeState = .ok (live, s1) ∧
      live.any Option.isNone = true := by
    have d : (match (nodeKids (ofBytes (toBytes 64 node1))).mapM (fun k => findLive 0 store0 k) nodeState with
      | .ok r => r.1.any Option.isNone
      | _ => false) = true := by decide
    cases e : (nodeKids (ofBytes (toBytes 64 node1))).mapM (fun k => findLive 0 store0 k) nodeState with
    | error x => rw [e] at d; cases d
    | ok r => rw [e] at d; exact ⟨r.1, r.2, rfl, d⟩
  obtain ⟨live, s1, h, hl⟩ := h
  intro va k st e
  have g : homeRequest 0 0 (mkReq nodeState .node n node1 (own 0x3100)) nodeState = .ok ((4, 0, 0), s1) := install_missing h hl
  rw [show nodeState.cur.1 = 0 from rfl, show nodeState.cur.2 = 0 from rfl, g] at e
  cases e

theorem test_witness_ContentInstructions :
    (let s := withStore (at3000 user 16 1)
     guardHolds s h0 = true ∧ Claims.cnFresh s ∧ s.me.tol.isOpen = false ∧ Claims.poolReadable s (memAddr s m9 16) 0x3000 16 ∧
     s.memWf = true ∧ Claims.lineRoom s 0x3000 ∧ (storeOf s 0).isSome = true ∧ s.myCore.num 0x3000 16 / 2 ^ 96 = 0 ∧
     Claims.reaches s .get 1 0 (memAddr s m9 16) ∧ Claims.reaches s .dec 1 0 (memAddr s m9 16)) ∧
    storeOf (one user) 0 = none ∧ (at3000 user 16 (2 ^ 96)).myCore.num 0x3000 16 / 2 ^ 96 ≠ 0 ∧
    (∀ ans, ∀ st ∈ [0, 4, 6, 16], (one { user with cn := some (asked .swap ans st) }).me.cn = some (asked .swap ans st) ∧
      (asked .swap ans st).pc = (one { user with cn := some (asked .swap ans st) }).me.pc) ∧
    (let s := nodeState
     Claims.poolReadable s (memAddr s m9 64) 0x3000 64 ∧ s.myCore.num 0x3000 64 = node1 ∧
     Claims.poolOpen (one { user with g := [(8, own 0x3100)] }) ((one { user with g := [(8, own 0x3100)] }).rdG 8) 0x3100 16 ∧
     ∀ n, Claims.reaches s .node n node1 (own 0x3100)) ∧
    node1 % 256 = 0xC0 ∧ ¬Claims.malformedNode node1 ∧ Claims.malformedNode 0xC0 := by
  refine ⟨⟨by decide, (fun r h => by cases h), by decide, ?_, by decide, ?_, by decide, by decide, reach_of (by decide), reach_of (by decide)⟩,
    by decide, by decide, by decide, ⟨?_, by decide, ?_, fun n => reach_node n⟩, by decide, ?_, ?_⟩
  · unfold Claims.poolReadable Claims.poolOpen; decide
  · unfold Claims.lineRoom; decide
  · unfold Claims.poolReadable Claims.poolOpen; decide
  · unfold Claims.poolOpen; decide
  · unfold Claims.malformedNode; decide
  · unfold Claims.malformedNode; decide

/-- The record of `cn.cfg` that installs `store0`. -/
theorem test_witness_ContentOutAndConfiguration :
    (let s := core0 (withStore (at3000 { user with g := [(8, own 0x3010)] } 32 (1 + 2 * 2 ^ 192))) (fun c => { c with tlb := [page 0xD7] })
     guardHolds s h0 = true ∧ Claims.closes s ∧ s.me.tol.isOpen = false ∧ sidingIdle s 0 0 = true ∧
     Claims.poolReadable s (memAddr s m9 16) 0x3000 16 ∧ s.myCore.num 0x3000 16 / 2 ^ 96 = 0 ∧ s.myCore.num 0x3010 16 = 2 * 2 ^ 64 ∧
     storeOf s 0 = some store0 ∧ pendingJobs s 0 1 < 32 ∧ 0 < openCount s.myCore) ∧
    Claims.tlbHit (mapped user 0xD7) 0 .write (tr0 0xD7) ∧ Claims.releaseFree (one user) .clu ∧
    (let s := at3000 hand 64 store0.cfg
     s.me.priv = true ∧ s.me.tol.isOpen = false ∧ Claims.poolReadable s (memAddr s m9 64) 0x3000 64 ∧ s.myCore.num 0x3000 64 = store0.cfg ∧
     store0.cfg / 2 ^ 168 = 0 ∧ store0.cfg.testBit 165 = false ∧ (store0.cfg / 2 ^ 160 % 2 ^ 5 = 4) ∧ store0.cfg / 2 ^ 128 % 2 ^ 32 = 512 ∧
     storeOf s 0 = none) ∧
    (2 ^ 168 : Nat) / 2 ^ 168 ≠ 0 ∧ (512 * 2 ^ 128 + 3 * 2 ^ 160) / 2 ^ 160 % 2 ^ 5 < 4 := by
  refine ⟨?_, ⟨by decide, by decide, by unfold Claims.noneGone; decide, _, rfl, by decide⟩, free_user _, ?_, by decide, by decide⟩
  · unfold Claims.closes Claims.noneGone Claims.poolReadable Claims.poolOpen; decide
  · unfold Claims.poolReadable Claims.poolOpen; decide

/-- Bytes beyond the last listed one are zeros. -/
theorem getN_above (l : List Host.Cell) : ∀ (n o : Nat), (∀ c ∈ l, c.1 < o) → ofBytes (Cells.getN l o n) = 0
  | 0, _, _ => rfl
  | n + 1, o, h => by
    have g : ∀ l : List Host.Cell, (∀ c ∈ l, c.1 < o) → Cells.get l o = 0 := by
      intro l
      induction l with
      | nil => intro _; rfl
      | cons c l ih =>
        intro hc
        have h1 := hc c (by simp)
        simp only [Cells.get]
        rw [if_neg (by omega), if_neg (by omega)]
        exact ih (fun d hd => hc d (by simp [hd]))
    have r := getN_above l n (o + 1) (fun c hc => by have := h c hc; omega)
    simp only [Cells.getN, ofBytes] at r ⊢
    rw [g l h, r]; rfl

theorem getN_succ (l : List Host.Cell) (o n : Nat) : Cells.getN l o (n + 1) = Cells.get l o :: Cells.getN l (o + 1) n := rfl

theorem bytes_cons (b : Byte) (l : List Byte) : ofBytes (b :: l) = b.toNat + 256 * ofBytes l := rfl

theorem getN_add (l : List Host.Cell) : ∀ (m n o : Nat),
    ofBytes (Cells.getN l o (m + n)) = ofBytes (Cells.getN l o m) + 256 ^ m * ofBytes (Cells.getN l (o + m) n)
  | 0, n, o => by
    rw [Nat.zero_add]
    show _ = 0 + 256 ^ 0 * _
    rw [Nat.pow_zero, Nat.one_mul, Nat.zero_add]; rfl
  | m + 1, n, o => by
    rw [show m + 1 + n = (m + n) + 1 by omega, getN_succ, getN_succ, bytes_cons, bytes_cons, getN_add l m n (o + 1), Nat.mul_add,
      ← Nat.mul_assoc, ← Nat.pow_succ', show o + 1 + m = o + (m + 1) by omega, Nat.add_assoc]

/-- A context image whose fields are zero but for the partition word and the generators, each 1. -/
def gens : Nat := 0x00010001000100010001000100010001000100010001000100010001000100010001000100010001000100010001000100010001000100010001000100010001
def imageNum : Nat := 0x13F + 256 ^ 1152 * gens
def image0 (t : Thread) : State :=
  core0 (one (atG9 t (own 0x3000))) (fun c => { c with pool := (0x3000, 0x3F) :: (0x3001, 1) :: (List.range 32).map (fun i => (0x3480 + 2 * i, 1)) })

set_option exponentiation.threshold 20000 in
set_option maxRecDepth 100000 in
theorem image0_num (t : Thread) : (image0 t).myCore.num 0x3000 16384 = imageNum := by
  have e : (image0 t).myCore.pool = (0x3000, 0x3F) :: (0x3001, 1) :: (List.range 32).map (fun i => (0x3480 + 2 * i, 1)) := rfl
  unfold Core.num Core.bytes
  rw [e, show 16384 = 1152 + (64 + 15168) from rfl, getN_add, getN_add, getN_above _ 15168 _ (by decide)]
  decide +kernel

set_option exponentiation.threshold 20000 in
set_option maxRecDepth 100000 in
theorem test_witness_ContextInstructions :
    (∀ t ∈ [user, hand], let s := image0 t
     guardHolds s h0 = true ∧ s.memWf = true ∧ memAddr s m9 8 = own 0x3000 ∧ 0x3000 % 64 = 0 ∧ poolShut s.myCore 0x3000 16384 = false ∧
     windowCheck s (own 0x3000) 16384 true = none ∧ windowCheck s (own 0x3000) 16384 false = none ∧
     inScratch s.myCore.part 0x3000 16384 = true ∧ sidingIdle s 0 0 = true ∧ s.me.ppoison = none ∧ jobsDone s = true ∧ s.me.rel = none ∧
     ackedPending s 0 0 = false ∧ s.myCore.poisoned 0x3000 16384 = false) ∧
    jobsDone { jobs1 (ended 0) with cores := [(0, { Core.reset with slots := [(0, { user with jobs := [(1, 0)] })] })] } = false ∧
    (one hand).me.priv = true ∧ (image0 hand).myCore.num 0x3000 16384 = imageNum ∧ imageFaults (image0 hand) 0 0 imageNum = [] ∧
    fld imageNum 280 6 = 0 ∧ ((imageFaults (image0 hand) 0 0 (imageNum + 2 ^ 144)).min?).isSome = true := by
  refine ⟨by decide, by decide, by decide, image0_num _, by decide +kernel, by decide +kernel, by decide +kernel⟩

/-- A siding with n entries of slot 0, and one with nothing in it. -/
def queued (n : Nat) (t : Thread) : State := core0 (one t) (fun c => { c with seq := List.replicate n ⟨0, .vsync h0, 0, 0, 0, 0, [], false, false⟩ })

theorem test_witness_VectorHandOff : guardHolds (queued 15 user) h0 = true ∧ (queued 15 user).me.ppoison = none ∧ (queued 15 user).myCore.seq ≠ [] ∧
    (queued 15 user).myCore.seq.length < 16 ∧ 16 ≤ (queued 16 user).myCore.seq.length ∧
    (one { user with ppoison := some (0x11, 0x3000) }).me.ppoison = some (0x11, 0x3000) := by decide

theorem free_siding (g : AMap Word) (v : AMap VVal) : Claims.sidingFree (one { user with g := g, v := v }) := ⟨rfl, rfl, rfl, fun _ => rfl⟩

theorem test_witness_VectorResults : guardHolds (one user) h0 = true ∧ Claims.sidingFree (one user) ∧ vIsInt .f32 = false ∧ vIsInt (.q .ue 6) = false ∧
    vIsInt (cmpTy .bf16) = false ∧ VTy.f32 ≠ .i4 ∧ vIsX .f32 = false ∧
    logSpecial .sqrt (decodeFloat .f32 0xBF800000) plusZero ≠ none := by
  exact ⟨by decide, free_siding [] [], by decide, by decide, by decide, by decide, by decide, by decide⟩

/-- A stream of the scratchpad from 0x3000: pop or push, tagged or not, at its first place. -/
def str0 (bits : Nat) (bound : Bool) : Stream :=
  { desc := 0x3000 + 32 * 2 ^ 32 + bits * 2 ^ 224, configured := true, bound := bound, i0 := 0, i1 := 0, i2 := 0, i3 := 0, last := none }
def streaming (bits : Nat) (bound : Bool) : State := one { user with streams := [(0, str0 bits bound)] }

theorem test_witness_VectorMemory :
    (let s := one (atG9 user (own 0x3000))
     guardHolds s h0 = true ∧ Claims.sidingOpen s ∧ Claims.poolReadable s (memAddr s m9 32) 0x3000 32 ∧ Claims.lineRoom s 0x3000 ∧ s.memWf = true ∧
     boundStream s.me 5 = none ∧ AMap.get s.me.streams 0 = none) ∧
    (own 0x3004).toNat % 32 ≠ 0 ∧ Claims.refusal 0x13F (0x3000 + 32 * 2 ^ 32) = none ∧ Claims.refusal 0x13F (0x3000 + 2 ^ 226) = some 2 ∧
    Claims.refusal 0x13F 0x2FFC = some 1 ∧ Claims.refusal 0x13F (385024 - 32) = none ∧ Claims.refusal 0x13F (385024 - 28) = some 1 ∧
    (∀ b, AMap.get (streaming 0 b).me.streams 0 = some (str0 0 b) ∧ (str0 0 b).bound = b ∧ (str0 0 b).configured = true) ∧
    (∀ bits ∈ [0, 1, 2, 3], let s := streaming bits true
      guardHolds s h0 = true ∧ Claims.sidingOpen s ∧ AMap.get s.me.streams 0 = some (str0 bits true) ∧ boundStream s.me 5 = none ∧
      poolShut s.myCore (str0 bits true).off 32 = false ∧ (str0 bits true).off = 0x3000 ∧ (str0 bits true).desc.testBit 224 = bits.testBit 0 ∧
      (str0 bits true).desc.testBit 225 = bits.testBit 1 ∧ s.myCore.allFull 0x3000 32 = true ∧ s.myCore.poisoned 0x3000 32 = false) ∧
    (core0 (streaming 3 true) (fun c => { c with emptyTags := (List.range 8).map (fun i => 0xC00 + i) })).myCore.allEmpty 0x3000 32 = true := by
  unfold Claims.sidingOpen Claims.poolReadable Claims.poolOpen Claims.lineRoom
  decide

/-- Eight lanes that select eight words. -/
def lanes8 : Lanes := 0x0000000700000006000000050000000400000003000000020000000100000000

theorem test_witness_VectorReadsAndUpdates :
    (let s := one { user with g := [(9, own 0x3000)], v := [(2, { bits := lanes8, grade := 0x8000 })] }
     guardHolds s h0 = true ∧ Claims.sidingFree s ∧ sidingIdle s 0 0 = true ∧ s.me.tol.isOpen = false ∧ s.memWf = true ∧
     (∀ q, (s.core q).bank = []) ∧ memAddr s m9 4 = own 0x3000 ∧ inScratch s.myCore.part 0x3000 4 = true ∧
     ∀ i, i < 8 → memAddr s m9 4 + BitVec.ofInt 64 (4 * Claims.int 32 (Claims.vl s 32 2 i)) = own (0x3000 + 4 * i) ∧
       inScratch s.myCore.part (0x3000 + 4 * i) 4 = true ∧ s.myCore.poisoned (0x3000 + 4 * i) 4 = false ∧
       poolShut s.myCore (0x3000 + 4 * i) 4 = false) ∧
    sidingIdle (queued 1 user) 0 0 = false ∧ (queued 1 user).me.ppoison = none ∧
    (one { user with ppoison := some (0x11, 0x3000) }).me.ppoison = some (0x11, 0x3000) := by
  refine ⟨⟨by decide, free_siding _ _, by decide, by decide, by decide, bank_one _, by decide, by decide, by decide⟩, by decide, by decide, by decide⟩

def stat (st : Status) : Thread := { user with status := st }
def waits1 (kind : Nat) : Thread :=
  { stat (.parked .access) with answer := some { pc := 0, addr := own (2 ^ 48 + 2 ^ 40 + 0x3000), len := 4, kind := kind, ready := false, bytes := [],
                                                 rv := 0, mask := 0, poison := 0 } }
def pk (n : Nat) : IPacket :=
  { slot := 0, seq := n, pc := 0, word := 0, instr := none, guard := none, srcs := [], old := [], dests := [], results := [], cause := none,
    park := none, busy := 0, executed := true, stopped := false, completed := true, effect := false, next := 12, reads := [], flags := 0, once := none, forwarded := false }
def body0 : SeqEntry := { slot := 0, instr := .vbcast h0 (.int .i64) 1 (.fromG 2), pc := 12, s0 := 7, s1 := 0, s2 := 0, bytes := [], priv := false, void := false }
def rpt0 (m : Nat) : SeqEntry := { slot := 0, instr := .vrpt h0 (.reg 3) 1, pc := 0, s0 := BitVec.ofNat 64 m, s1 := 1, s2 := 0, bytes := [], priv := false, void := false }

/-- Core 1 holds a tagged read of slot 0 of core 0 at 0x3000. -/
def heldTag (full : Bool) : State :=
  { one (waits1 4) with cores := [(0, { Core.reset with slots := [(0, waits1 4)] }),
      (1, { Core.reset with emptyTags := if full then [] else [0xC00], pool := [(0x3000, 9)],
                            tagReqs := [{ core := 0, slot := 0, pc := 0, off := 0x3000, words := 1, keep := false, store := none }] })] }

theorem test_witness_ThreadAndPipeEvents :
    (∀ n ∈ [0, 5], (((one (stat (.paused n))).thread 0 0).status = .paused n) ∧ ((one (stat (.sleeping n))).thread 0 0).status = .sleeping n ∧
      ((one (stat (.parked (.retry n)))).thread 0 0).status = .parked (.retry n)) ∧ State.reset.time.cycle = 0 ∧
    ((one (stat (.parked .cond))).thread 0 0).status = .parked .cond ∧ ((one user).thread 0 0).status = .ready ∧
    (∀ n : Word, ((one { user with ctl := { user.ctl with ptime := n } }).thread 0 0).ctl.ptime = n) ∧
    (core0 (one user) (fun c => { c with inPipe := some 1, heldCycles := 65536 })).myCore.inPipe = some 1 ∧
    canRun (one user) 0 0 = true ∧
    decodeAddr (own (2 ^ 48 + 2 ^ 40 + 0x3000)) = .peer 1 0x3000 ∧ peerCore (heldTag true) 0 1 = 1 ∧
    (∀ k, ((one (waits1 k)).thread 0 0).answer.map Answer.kind = some k) ∧
    (∀ f, ((heldTag f).core 1).allFull 0x3000 4 = f ∧ poolShut ((heldTag f).core 1) 0x3000 4 = false ∧ ((heldTag f).core 1).poisoned 0x3000 4 = false) ∧
    (let s := core0 (one user) (fun c => { c with pipe := { c.pipe with ins := [(6, pk 0)] } })
     s.myCore.inPipe = none ∧ s.myCore.pipe.foot = [] ∧ s.myCore.pipe.res = [] ∧ s.myCore.pipe.ins = [(6, pk 0)]) ∧
    (let s := core0 (one user) (fun c => { c with pipe := { c.pipe with res := [(1, ⟨0, 0, ⟨0, 1⟩, 5, none⟩)], active := true, fetchAt := 1 } })
     s.myCore.pipe.ins = [] ∧ s.myCore.pipe.active = true ∧ s.time.cycle < s.myCore.pipe.fetchAt) ∧
    (∀ q ∈ [0, 1, 2, 2 ^ 32 - 1], (core0 (one user) (fun c => { c with seq := [rpt0 q, body0] })).myCore.seq = [rpt0 q, body0] ∧
      boundStream ((one user).thread 0 0) 1 = none) := by
  refine ⟨by decide, by decide, by decide, by decide, fun n => rfl, by decide, by decide, by decide, by decide, fun k => rfl, by decide, by decide,
    by decide, by decide⟩

def q0 (host checked : Bool) : QWrite :=
  { host := host, line := if host then 0x100 else 3, off := 8, checked := checked, key := 0, op := .store [1, 2] }
def pk0 (v : Option Nat) (op : PacketOp) : Packet := { writer := 0, line := 3, version := v, key := 0, op := op }
def path0 (p : Packet) : State := { one user with mem := { Memory.reset with paths := [(0, [p])] } }

theorem test_witness_WritesAndCaches :
    (∀ h c, ((one { user with wq := [q0 h c] }).thread 0 0).wq = [q0 h c] ∧ (q0 h c).op = .store [1, 2] ∧ (one user).memWf = true) ∧
    (∀ v ∈ [none, some 1, some 2], (path0 (pk0 v (.write (byteMap 8 [1, 2])))).mem.path (pathKey 0 0 0) = [pk0 v (.write (byteMap 8 [1, 2]))] ∧
      (path0 (pk0 v .marker)).mem.path (pathKey 0 0 0) = [pk0 v .marker] ∧ (path0 (pk0 v .marker)).memWf = true) ∧
    ((path0 (pk0 none .marker)).mem.hline 3).performed = 0 ∧ (State.reset.die 0).phase < 4 ∧
    (∀ b ∈ [[], [BankOp.update 0x3000 5 0 true], [BankOp.config 0 3]],
      (core0 (one user) (fun c => { c with bank := b })).myCore.bank = b ∧ (one user).myCore.poisoned 0x3000 4 = false) ∧
    (core0 (one user) (fun c => { c with poolPoison := [0x600] })).myCore.poisoned 0x3000 8 = true := by
  decide

def msg0 (o : Nat) (space : Nat) : Msg :=
  { core := 0, slot := 0, fromCore := 0, fromSlot := 0, space := space, launch := 0, node := 0, gen := 0, target := BitVec.ofNat 64 (o * 2 ^ 20),
    payload := 7, waiting := false }

theorem test_witness_TreesAndMessages :
    (∀ n ∈ [1, 2], AMap.get ((tree0 none n).die 0).episodes 0 = some (episode0 none n) ∧ (tree0 none n).disp.saved = []) ∧
    (∀ u, AMap.get ((tree0 (some (.i32, .add, u, 0)) 1).die 0).episodes 0 = some (episode0 (some (.i32, .add, u, 0)) 1)) ∧
    rootOf (tree0 none 1) ((tree0 none 1).thread 0 0).place.launch = 0 ∧ ((tree0 none 1).thread 0 0).status ≠ .unplaced ∧
    (tree0 none 1).memWf = true ∧
    (∀ e ∈ [[], [0xC00, 0xC01]], ∀ sp ∈ [0, 1], (core0 (one user) (fun c => { c with emptyTags := e, msgs := [msg0 0x3000 sp] })).memWf = true) ∧
    (core0 (one user) (fun c => { c with emptyTags := [0xC00, 0xC01] })).myCore.allEmpty 0x3000 8 = true ∧
    (one user).myCore.allEmpty 0x3000 8 = false ∧ (msg0 0x3000 0).target.toNat % 16 = 0 ∧ (msg0 0x3000 0).target.toNat / 2 ^ 18 % 4 = 0 ∧
    (msg0 0x3000 0).target.toNat / 2 ^ 44 = 0 ∧ (msg0 0x3000 0).target.toNat / 2 ^ 20 % 2 ^ 24 = 0x3000 ∧
    ((one user).thread 0 0).place.gen.toNat = 0 ∧ inScratch (one user).myCore.part 0x3000 8 = true := by decide

def shoot0 (busy : Bool) : State := { one user with mgmt := { Mgmt.reset with shoot := [(0, { ShootSet.reset with busy := busy })] } }

theorem no_held (s : State) (h : s.cores = (one user).cores) : ∀ c k, (s.thread c k).rgn.held = [] := by
  intro c k
  simp only [State.thread, State.core, h, one, AMap.getD, AMap.get]
  by_cases h0 : 0 = c
  · subst h0
    by_cases h1 : 0 = k
    · subst h1; rfl
    · simp only [if_true, Core.slot, AMap.getD, AMap.get, if_neg h1]; rfl
  · simp only [if_neg h0]; rfl

def walking (p : Park) : State :=
  { one (stat (.parked p)) with mem := { Memory.reset with walks := [(0, { issuer := 0, space := 0, va := 64, kind := .read, status := 1 })] } }

/-- One level of a page table of space 0: a 2^48-byte page of DRAM at va 0. -/
def table0 (w : Nat) : State :=
  { one user with mem := { Memory.reset with dram := cells 0 8 w }, mgmt := { Mgmt.reset with sptcount := 1 } }

theorem test_witness_ShootdownsAndWalks :
    (∀ b, (AMap.getD (shoot0 b).mgmt.shoot 0 ShootSet.reset).busy = b) ∧ (∀ b c k, ((shoot0 b).thread c k).rgn.held = []) ∧
    shotQuiet (shoot0 true) = true ∧ shotQuiet { path0 (pk0 none (.write [])) with mgmt := (shoot0 true).mgmt } = false ∧
    canonical 0 = true ∧ canonical (2 ^ 56) = false ∧ (mapped user 0xD7).myCore.tlb.any (fun e => e.serves 0 false .compute .read 0) = true ∧
    (walkSpace (one user) 0 false .compute .read 0).1.status ≠ 0 ∧ AMap.get (one user).mem.walks 0 = none ∧
    (∀ p ∈ [.walk 0, .access], (AMap.get (walking p).mem.walks 0).isSome = true ∧ ((walking p).thread 0 0).status = .parked p) := by
  refine ⟨by decide, fun b => no_held _ rfl, by decide, by decide, by decide, by decide, by decide, by decide, by decide, by decide⟩

/-- A copy job that runs, or has got `e` as its end; and a matrix job likewise. -/
def runJob (cancel : Bool) (e : Option (Nat × Nat)) : CopyJob := { ended 0 with cancel := cancel, ended := e, total := 8, record := 0x80000000, deal := false }
def runMx (z cancel : Bool) (e : Option (Nat × Nat)) (w : Option Nat) : MatrixJob :=
  { mxjob 0 with zero := if z then some (0, 1) else none, converted := true, cancel := cancel, ended := e, walk := w }
def cnJob (e : Option (Nat × Nat)) : CopyJob := { runJob false e with out := some (0xFE00000000003000, 4) }

theorem test_witness_JobEvents :
    (∀ cancel, ∀ e ∈ [none, some (1, 0), some (2, 3), some (4, 0)], let j := runJob cancel e
      AMap.get ((jobs1 j).cluster 0).copyJobs j.id = some j ∧ enginePending (jobs1 j) 0 1 = false ∧ j.status = 0 ∧ j.root = none ∧
      j.record / 2 ^ 128 % 2 ^ 64 = 0 ∧ ((jobs1 j).thread j.core j.slot).status ≠ .unplaced ∧
      ((jobs1 j).thread j.core j.slot).place.gen = j.gen) ∧
    copyOrder (jobs1 (runJob true none)) 0 = [runJob true none] ∧ copyOrder (jobs1 (runJob false none)) 0 = [runJob false none] ∧
    copyOrder (one user) 0 = [] ∧ (runJob false none).next < (runJob false none).total ∧ (runJob false none).walk = none ∧
    (cnJob none).out.isSome = true ∧ AMap.get ((jobs1 (cnJob none)).cluster 0).copyJobs 0 = some (cnJob none) ∧
    enginePending { path0 { pk0 none .marker with writer := 32769 } with clusters := [] } 0 1 = true ∧
    (∀ z cancel, ∀ e ∈ [none, some (1, 0), some (3, 0)], ∀ w ∈ [none, some 5], let j := runMx z cancel e w
      AMap.get ((jobs2 j).cluster 0).mxJobs j.id = some j ∧ (jobs2 j).memWf = true ∧ j.record / 2 ^ 384 % 2 ^ 64 = 0 ∧ mxAfterq j.record = 0 ∧
      (jobs2 j).myCore.poisoned (accStart (jobs2 j).myCore.part) 4096 = false ∧ AMap.get (jobs2 j).mem.walks 5 = none) ∧
    (∀ z cancel, mxOrder (jobs2 (runMx z cancel none none)) 0 = [runMx z cancel none none] ∧ tileShut (jobs2 (runMx z cancel none none)) 0 (runMx z cancel none none) 0 = false) := by
  unfold Core.poisoned
  decide

/-- A record that moves `n` 32-bit integers from 0x3000 to 0x4000 of the own pool, and its job at the unit of element `nx`. -/
def recMv (n : Nat) : Nat :=
  (0xFE * 2 ^ 56 + 0x3000) + (0xFE * 2 ^ 56 + 0x4000) * 2 ^ 64 + 0x63 * 2 ^ 192 + 0x63 * 2 ^ 200 + 2 * 2 ^ 208 + 2 * 2 ^ 210 + 1 * 2 ^ 216 +
    127 * 2 ^ 232 + 127 * 2 ^ 240 + (n - 1) * 2 ^ 368 + (n - 1) * 2 ^ 400 + 1 * 2 ^ 416
def jobMv (n nx : Nat) : CopyJob := { newCopy (one user) 0 (recMv n) 0 with total := n, next := nx }
def stMv (n nx : Nat) : State :=
  { jobs1 (jobMv n nx) with cores := [(0, { Core.reset with slots := [(0, user)], pool := cells 0x3000 4 0x01020304 })] }

theorem test_witness_MovesUnit : ∀ nx ∈ [0, 15], let s := stMv 20 nx; let j := jobMv 20 nx
    let field (lo len : Nat) : Nat := j.record / 2 ^ lo % 2 ^ len
    s.memWf = true ∧ field 208 2 = 2 ∧ field 210 2 = 2 ∧ field 216 3 = 1 ∧ field 192 8 = 0x63 ∧ j.fmt = 0x63 ∧ field 232 8 = 127 ∧
    field 240 8 = 127 ∧ field 222 2 = 0 ∧ field 219 1 = 0 ∧ field 384 16 = 0 ∧ field 416 32 = 1 ∧ j.total ≤ field 368 16 + 1 ∧
    j.total ≤ field 400 16 + 1 ∧ j.mask = 0 ∧ j.next < j.total ∧ windowAt s j.core (BitVec.ofNat 64 (field 0 64)) = some (0, 0x3000) ∧
    windowAt s j.core (BitVec.ofNat 64 (field 64 64)) = some (0, 0x4000) ∧ (s.core 0).poisoned (0x3000 + 4 * nx) 60 = false ∧
    enginePending s 0 1 = false ∧ (s.cluster 0).copyJobs = [(j.id, j)] ∧ j.status = 0 ∧ j.ended = none ∧ j.cancel = false ∧ j.walk = none ∧
    j.out = none := by
  unfold Core.poisoned
  decide

theorem no_shutters (n nx : Nat) : ∀ c, ∀ e ∈ ((stMv n nx).core c).shutters, e.2.queue = 1 ∧ e.2.id = (jobMv n nx).id := by
  intro c
  simp only [stMv, State.core, AMap.getD, AMap.get]
  by_cases h : 0 = c
  · simp [h, Core.reset]
  · simp [h, Core.reset]

/-- The name 1 in its bucket at 1024, live (1) or reclaiming (2), with its count and slot 2; the cluster of its home
reaches it. -/
def named (state count : Nat) (s : State) : State :=
  { s with
    mem := s.mem.physWrite 0 1024 (toBytes 64 ((state + count * 2 ^ 8 + 2 * 2 ^ 32 + 2 ^ 64) * 2 ^ 32))
    stores := [(0, { store0 with reclaim := [(1, [1])], used := [(2, 1)] })]
    clusters := [(1, { Cluster.reset with l2 := [{ page (0xD7 + 2 ^ 55) with size := 2 ^ 30 }] })] }
def atPa (attrs pa : Nat) : Trans := { pa := pa, attrs := attrs, keyslot := 0 }
def inStore (pa : Nat) : Trans := atPa (0xD7 + 2 ^ 55) pa

theorem test_witness_ContentEffects :
    (∀ e ∈ [(1, 2), (1, 0xFFFFFF), (2, 0)], ∀ up, let s := { named e.1 e.2 (one { user with cn := some (asked .get false 0) }) with
                                                       counts := [(1, [⟨0, 1, up⟩])] }
      ∃ st b x, Claims.directory s 0 1 st (inStore 1024) b 0 x ∧ Claims.directoryWritable s 0 1 st (inStore 1024) ∧ x % 4 = e.1 ∧
        x / 4 % 2 = 0 ∧ x / 2 ^ 8 % 2 ^ 24 = e.2 ∧ AMap.getD st.reclaim 1 [] = 1 :: [] ∧ AMap.getD s.counts 1 [] = ⟨0, 1, up⟩ :: [] ∧
        s.memWf = true ∧ (s.thread 0 0).cn = some (asked .get false 0)) := by
  intro e he up
  simp only [List.mem_cons, List.not_mem_nil, or_false] at he
  rcases he with rfl | rfl | rfl <;> cases up <;>
    exact ⟨_, _, _, ⟨by decide, rfl, by decide, rfl, by decide, fun k h => absurd h (by omega),
      ⟨by decide, by decide, by decide, _, rfl, by decide⟩, by decide, rfl⟩,
      ⟨⟨by decide, by decide, by decide, _, rfl, by decide⟩, by decide⟩, by decide, by decide, by decide, by decide, by decide, by decide, by decide⟩

/-- A copy-out of the leaf of name 1 to 0x200000. -/
def leafJob : CopyJob := { cnJob none with out := some (0x200000, 4), record := 1, root := some 1 }
def leafOut : State :=
  let s := named 1 1 (one user)
  { s with
    mem := s.mem.physWrite 0 0x100080 [0x63]
    clusters := [(0, { Cluster.reset with copyNext := 1, copyJobs := [(0, leafJob)], l2 := [{ page 0xD7 with size := 2 ^ 30 }] })] ++ s.clusters }

theorem test_witness_MovesLeaf : ∃ st b x line, let s := leafOut; let j := leafJob
    (s.cluster 0).copyJobs = [(j.id, j)] ∧ j.status = 0 ∧ j.ended = none ∧ j.cancel = false ∧ j.walk = none ∧ enginePending s 0 1 = false ∧
    j.out = some (0x200000, 4) ∧ j.root = some j.record ∧ j.next < 4 ∧ (s.core j.core).shutters = [] ∧
    Claims.directory s j.space j.record st (inStore 1024) b 0 x ∧ x % 4 = 1 ∧
    Claims.reachable s (j.record % 512) j.space .content .read (st.sbase + 64 * (x / 2 ^ 32 % 2 ^ 32)) (inStore 0x100080) ∧
    s.mem.poisoned ((inStore 0x100080).line * 64) 64 = false ∧ line = s.mem.line (inStore 0x100080).line (inStore 0x100080).key % 2 ^ 512 ∧
    line % 2 ^ 8 ≠ 0xC0 ∧ lineCount line = some 15 ∧ j.start < 15 ∧
    Claims.reachable s 0 j.space .engine .write (0x200000 + 64 * j.next) (atPa 0xD7 0x200000) := by
  refine ⟨_, _, _, _, by decide, by decide, by decide, by decide, by decide, by decide, by decide, by decide, by decide, by decide,
    ⟨by decide, rfl, by decide, rfl, by decide, fun k h => absurd h (by omega), ⟨by decide, by decide, by decide, _, rfl, by decide⟩, by decide, rfl⟩,
    by decide, ⟨by decide, by decide, by decide, _, rfl, by decide⟩, by decide, rfl, by decide, by decide, by decide,
    ⟨by decide, by decide, by decide, _, rfl, by decide⟩⟩

def counting (ms : List CountMsg) : State := { one user with counts := [(0, ms)] }
def reclaiming (ns : List Nat) : State := { one user with stores := [(0, { store0 with reclaim := [(0, ns)] })] }

theorem test_witness_ContentEvents :
    (∀ ans, ((one { user with cn := some (asked .get ans 0) }).thread 0 0).cn = some (asked .get ans 0) ∧ (asked .get ans 0).answered = ans) ∧
    (∀ ms ∈ [[], [⟨0, 1, true⟩]], AMap.getD (counting ms).counts (0 * 512 + 0) [] = ms) ∧ storeOf (one user) 0 = none ∧
    (∀ ns ∈ [[], [1], [1, 2]], (storeOf (reclaiming ns) 0).map (fun st => AMap.getD st.reclaim 0 []) = some ns) := by decide

/-- A space with a page of 2^48 bytes at address 0, and in it a charter of one stage with one thread. -/
def space0 (m : Memory) : Memory :=
  (m.physWrite 0 0 (toBytes 32 (1 + 0x1000 * 2 ^ 64))).physWrite 0 0x1000 (toBytes 8 0xD7)
def charter0 (m : Memory) : Memory :=
  ((m.physWrite 0 0x2000 [3, 2]).physWrite 0 0x2080 (toBytes 16 (0x2000 + 2 ^ 64 + 2 ^ 80 + 2 ^ 96))).physWrite 0 0x2090
    (toBytes 16 (0x13F + 0xFFFF * 2 ^ 64))
def packet0 (seq : Nat) : Nat := 0x2000 + 100 * 2 ^ 64 + seq * 2 ^ 192
def launchable (pkt : Nat) : State :=
  { State.reset with
    mem := charter0 (space0 Memory.reset)
    mgmt := { Mgmt.reset with sptcount := 1, areas := [(0, { Area.reset with clog := 6 })] }
    disp := { Disp.reset with submits := [{ slot := some 0, thread := none, space := 0, packet := pkt }] } }

def checked (s : State) (pkt : Nat) : Option Nat :=
  match checkLaunch { s with disp := { s.disp with submits := [] } } 0 pkt none with
  | .ok a => some a.launch.nodes.length
  | .error _ => none

/-- A launch whose stage waits for its clusters. -/
def waiting0 : State :=
  { State.reset with
    mem := space0 Memory.reset, mgmt := (launchable 0).mgmt, dies := [(0, { Die.reset with running := true })]
    disp := { Disp.reset with launches := [(0, { launch0 { stage0 false false with placed := false, started := 0, running := 0, pool := 2 ^ 23, cores := 8 } with clusters := [] })] } }

def lateAt (miss : Nat) : State :=
  { staged user { stage0 false false with missed := miss } (ring0 0 0 0 0 []) with time := { Time.reset with tick := 101 } }
def endedNode (c : Bool) : State := staged user { stage0 false false with running := 0, ending := true, complete := c } (ring0 0 0 0 0 [])
def reporting : State := { endedNode true with disp := { (endedNode true).disp with reports := [0] } }
def asksTile : State := { staged user (stage0 false true) (ring0 0 0 0 0 []) with disp := { (staged user (stage0 false true) (ring0 0 0 0 0 [])).disp with queries := [(0, 0, 0x3000)] } }

theorem test_witness_LaunchLife :
    (∀ sp ∈ [0, 2 ^ 16], ∀ b, let s := { one user with disp := { Disp.reset with lwspace := [(0, sp)], window := [(0, { WinSlot.reset with pending := b })] } }
      (AMap.getD s.disp.lwspace 0 0).testBit 16 = decide (sp ≠ 0) ∧ (AMap.getD s.disp.window 0 WinSlot.reset).pending = b) ∧
    (launchable (packet0 1)).disp.submits.map Submit.packet = [packet0 1] ∧ checked (launchable (packet0 1)) (packet0 1) = some 1 ∧
    checked (launchable (packet0 0)) (packet0 0) = none ∧
    struckLaunch (one user) = none ∧ (duePlace (one user)).isSome = false ∧ dueStart (one user) = none ∧
    struckLaunch waiting0 = none ∧ (duePlace waiting0).isSome = true ∧ ((duePlace waiting0).map dueStart) = some (some (0, 0)) ∧
    gangMembers asksTile (asksTile.thread 0 0).place.gang = [(0, 0)] ∧ (asksTile.node 0 0).isSome = true ∧ ancestors asksTile 0 0 = [(0, 0)] ∧
    (∀ m ∈ [0, 1, 2], missAbove (lateAt m) (launch0 (stage0 false false)) 8 0 = false ∧ (lateAt m).time.tick = 101 ∧
      ((lateAt m).node 0 0).map (fun n => (n.deadline, n.complete, n.missApplied, n.missed)) = some (100, false, false, m)) ∧
    mayComplete (endedNode false) 0 0 = true ∧ mayComplete (staged user (stage0 false false) (ring0 0 0 0 0 [])) 0 0 = false ∧
    reportDue reporting 0 = true ∧ (AMap.get reporting.disp.launches 0).isSome = true ∧ reportDue (endedNode false) 0 = false := by decide

/-- The same, placed; one ring that a stage feeds and reads, with `post` slots taken in; a charter with some use. -/
def placed0 : State :=
  match exec .launchPlace waiting0 with
  | .next s => s
  | _ => State.reset
def sampled (post : Nat) (mark : Option Nat) : State :=
  let s := staged user { stage0 false false with stage := (stage0 true false).stage.map (fun g => { g with outring := 64 }) } (ring0 0 0 0 0 [])
  { s with disp := { s.disp with rings := [(64, { ring0 post post 0 0 [] with mark := mark, above := 1, below := 1 })] } }
def metering (dram : Nat) (o : Option Nat) : State := staged user { stage0 false false with usedDram := dram, overrun := o } (ring0 0 0 0 0 [])
def strict0 : State :=
  { waiting0 with disp := { waiting0.disp with
      launches := waiting0.disp.launches.map (fun e => (e.1, { e.2 with strict := true, deps := [1] })), outcomes := [(0, [(1, some true)])] } }

theorem test_witness_LaunchEffects :
    (struckLaunch waiting0 = none ∧ (waitingAll waiting0).map Prod.snd = [.inl (0, 0)] ∧
      (waiting0.node 0 0).map (fun n => (n.kind, n.stage.map (fun g => g.mininst * g.gang))) = some (3, some 1) ∧
      budgetAllows waiting0 0 0 1 = true ∧ freeClusters waiting0 1 = [0]) ∧ struckLaunch strict0 = some 0 ∧
    (dueStart placed0 = some (0, 0) ∧ (placed0.node 0 0).isSome = true) ∧
    (∀ post ∈ [1, 2, 14, 15], ∀ m ∈ [none, some 0], let r := { ring0 post post 0 0 [] with mark := m, above := 1, below := 1 }
      (sampled post m).disp.rings = [(64, r)] ∧ r.holder = some 0 ∧ (r.mark.isSome = true ∨ (r.above < 2 ∧ r.below < 2)) ∧
      ringEnds (sampled post m) r.launch (64 % 2 ^ 64) = some (0, 0)) ∧
    (∀ d ∈ [0, 99, 100], ∀ o ∈ [none, some 2], ancestors (metering d o) 0 0 = [(0, 0)] ∧
      ((metering d o).node 0 0).map (fun n => (n.dram, n.usedDram, n.overrun)) = some (100, d, o)) := by
  refine ⟨by decide, by decide, by decide, by decide, by decide⟩

/-- Cluster 0 holds one gang of one thread of a launch. -/
def held0 (t : Thread) (ph : Nat) : State :=
  { staged t { stage0 false false with pool := 2 ^ 23, cores := 8 } (ring0 0 0 0 0 []) with
    dies := [(0, { Die.reset with running := true, phase := ph })], clusters := [(0, { Cluster.reset with holder := some (0, 0) })] }
def marks0 (t : Thread) : Thread := { t with pend := { Pending.none with preempt := some 3 } }
/-- The set of cluster 0 once it is saved, in a module that has nothing else. -/
def saved0 : State :=
  { saveClusters (held0 (marks0 user) 0) [0] 3 with clusters := [] }

/-- The launch of the gang has been aborted. -/
def aborted0 : State :=
  let s := held0 user 0
  { s with disp := { s.disp with launches := s.disp.launches.map (fun e =>
      (e.1, { e.2 with aborted := true, nodes := e.2.nodes.map (fun n => (n.1, { n.2 with ending := true })) })) } }

theorem test_witness_PreemptionEvents :
    (one user).mgmt.dieBusy = false ∧ preempting (one user) 0 = false ∧ mayPreempt (one user) 0 1 = false ∧
    preempting (held0 stored1 2) 0 = false ∧ mayPreempt (held0 stored1 2) 0 3 = true ∧
    drained (markPreempt (held0 stored1 2) (preemptSet (held0 stored1 2) 0) 3) (preemptSet (held0 stored1 2) 0) = false ∧
    (∀ t ∈ [marks0 stored1, marks0 user], preempting (held0 t 2) 0 = true ∧ marked (held0 t 2) (preemptSet (held0 t 2) 0) = true) ∧
    drained (held0 (marks0 stored1) 2) (preemptSet (held0 (marks0 stored1) 2) 0) = false ∧
    drained (held0 (marks0 user) 2) (preemptSet (held0 (marks0 user) 2) 0) = true ∧
    (saved0.disp.saved.all (fun e => !e.2.gangs.isEmpty) && decide (saved0.disp.saved.length = 1)) = true ∧ saved0.disp.heldTree = [] ∧
    AMap.get saved0.disp.saved 9 = none ∧ ((AMap.get saved0.disp.saved 0).map (fun v => fits saved0 v 33)) = some false ∧
    (restoreTo saved0 0 0).isSome = true ∧ (preempting aborted0 0 = false ∧ mayPreempt aborted0 0 2 = true) ∧
    (let s := held0 (marks0 user) 2
     (gangsOn s (preemptSet s 0)).map Prod.fst = [0] ∧ membersOn s (preemptSet s 0) = [(0, 0)] ∧ clusterOf 0 ∈ preemptSet s 0 ∧
     (s.pipe 0).ins = [] ∧ (s.pipe 0).res = []) ∧
    (∀ cl ∈ [0, 1], ∃ v, saved0.disp.saved = [(0, v)] ∧ v.gangs.map (fun e => (e.1, e.2.members)) = [(0, [(0, 0)])] ∧
      (AMap.get v.cores 0).map (fun x => (x.slot 0).ren) = some [] ∧ (v.cores.map Prod.fst).Nodup ∧
      (∀ e ∈ v.cores, clusterOf e.1 = clusterOf 0) ∧ fits saved0 v cl = true) := by
  refine ⟨by decide, by decide, by decide, by decide, by decide, by decide, by decide, by decide, by decide, by decide, by decide, by decide, by decide,
    by decide, by decide, by decide, ?_⟩
  intro cl h
  simp only [List.mem_cons, List.not_mem_nil, or_false] at h
  rcases h with rfl | rfl <;> exact ⟨_, rfl, by decide⟩

/-- A host queue of one message. -/
def hostQ (ty q ref recv sent : Nat) : State :=
  { one user with
    mem := { Memory.reset with host := cells 0 64 (q + ty * 2 ^ 64 + ref * 2 ^ 128) }
    chan := { Channel.reset with hqset := true, hqtail := 1, hrecv := recv, dsent := sent } }
def chan0 (pend : List (List Byte)) : State := { one user with chan := { Channel.reset with pending := pend, dqset := true } }
def ringCmds (inr outr : Bool) (claim post take free : Nat) : State :=
  { one user with
    mgmt := { Mgmt.reset with rcring := 64 }
    disp := { Disp.reset with
      launches := [(0, launch0 { stage0 false false with stage := (stage0 false false).stage.map (fun g =>
        { g with inring := if inr then 64 else 0, outring := if outr then 64 else 0 }) })]
      rings := [(64, ring0 claim post take free [])] } }

/-- A replay of the one message kept, and a cancel of a launch. -/
def replays : State := { hostQ 2 1 4 0 4 with chan := { (hostQ 2 1 4 0 4).chan with doldest := 4, kept := [(4, List.replicate 64 9)] } }
def cancels : State := { hostQ 3 1 1 0 0 with disp := { Disp.reset with launches := [(7, launch0 (stage0 false false))] } }

theorem test_witness_HostChannelEvents :
    (one user).memWf = true ∧ (one user).chan.hqset = false ∧
    (∀ ty ∈ [1, 2, 3], Claims.hostMessage (hostQ ty 1 0 0 0) (1 + ty * 2 ^ 64) ∧ (hostQ ty 1 0 0 0).memWf = true) ∧
    Claims.hostMessage (hostQ 1 3 0 0 0) (3 + 2 ^ 64) ∧ precedes 3 0 = false ∧ nextSeq 0 = 1 ∧ Claims.hostMessage (hostQ 1 1 0 5 0) (1 + 2 ^ 64) ∧
    precedes 1 5 = true ∧ Claims.hostMessage (hostQ 2 1 7 0 0) (1 + 2 * 2 ^ 64 + 7 * 2 ^ 128) ∧ precedes 0 7 = true ∧
    (hostQ 3 1 0 0 0).disp.launches = [] ∧ (∀ b ∈ [[], [[(1 : Byte)]]], (chan0 b).chan.pending = b) ∧
    (one user).mem.paths = [] ∧ AMap.get (one user).disp.rings (ringKey 0 64) = none ∧
    (let s := ringCmds true false 0 0 0 0
     AMap.get s.disp.rings (ringKey s.mgmt.rcspace s.mgmt.rcring.toNat) = some (ring0 0 0 0 0 []) ∧ producers s 0 64 = [] ∧ consumers s 0 64 ≠ []) ∧
    (let s := ringCmds false true 3 3 0 0
     AMap.get s.disp.rings (ringKey s.mgmt.rcspace s.mgmt.rcring.toNat) = some (ring0 3 3 0 0 []) ∧ consumers s 0 64 = [] ∧ producers s 0 64 ≠ []) ∧
    (Claims.hostMessage replays (1 + 2 * 2 ^ 64 + 4 * 2 ^ 128) ∧ precedes replays.chan.dsent 4 = false ∧ replays.chan.dqset = false ∧
      replays.chan.dsent = 4 ∧ replays.chan.doldest = 4 ∧ replays.chan.kept = [(4, List.replicate 64 9)]) ∧
    (Claims.hostMessage cancels (1 + 3 * 2 ^ 64 + 2 ^ 128) ∧ cancels.disp.launches = [(7, launch0 (stage0 false false))] ∧
      (launch0 (stage0 false false)).seq = 1 ∧ (launch0 (stage0 false false)).space = 0 ∧ (launch0 (stage0 false false)).done = false) := by
  unfold Claims.hostMessage
  decide

def fencedAt (cls : List Nat) (ticks : List Nat) : State :=
  { one user with clusters := cls.map (fun c => (c, { Cluster.reset with fenced := true })) ++ [(8, { Cluster.reset with errTicks := ticks })] }
def dieAt (ph endsAt : Nat) (busy : Bool) : State :=
  { one user with dies := [(0, { Die.reset with phase := ph, phaseEnd := endsAt })], mgmt := { Mgmt.reset with dieBusy := busy } }

theorem no_waits (s : State) (n : s.net = Net.reset) (t : s.trust = Trust.reset) (x : s.stor = Stor.reset) : Claims.portsIdle s := by
  unfold Claims.portsIdle
  rw [t, x]
  exact ⟨fun p => by simp only [State.port, n]; rfl, rfl, rfl, rfl⟩

theorem test_witness_HealthAndReset :
    eccSiteOk (.pool 4095 0x5FFFF) = true ∧ ((one user).thread 0 0).status ≠ .unplaced ∧ ((one user).thread 0 3).status = .unplaced ∧
    (∀ c ∈ [1, 511], (fencedAt [c ^^^ 1] []).disp.gangs = [] ∧ ((fencedAt [c ^^^ 1] []).cluster (c ^^^ 1)).fenced = true ∧
      Claims.unused (fencedAt [] [0]) c ∧ ((fencedAt [] []).cluster (c ^^^ 1)).fenced = false ∧ ((fencedAt [] []).cluster c).fenced = false) ∧
    ((fencedAt [] [0]).cluster 8).errTicks = [0] ∧ ((fencedAt [9] []).cluster 9).fenced = true ∧
    ((one (stat .debugHold)).thread 0 0).status = .debugHold ∧ (∀ b, (dieAt 2 0 b).mgmt.dieBusy = b) ∧
    ((dieAt 2 0 true).die 0).phaseEnd ≤ (dieAt 2 0 true).time.tick ∧ ((dieAt 2 5 true).time.tick < ((dieAt 2 5 true).die 0).phaseEnd) ∧
    (∀ e ∈ (dieAt 2 0 true).disp.gangs, e.2.cluster / 32 ≠ 0) ∧ (∃ e ∈ (held0 user 2).disp.gangs, e.2.cluster / 32 = 0) ∧
    dieDrained (dieAt 4 0 true) 0 = true ∧ ((dieAt 4 0 true).die 0).phase = 4 ∧ ((dieAt 5 0 true).die 0).phase = 5 ∧
    Claims.portsIdle (dieAt 5 0 true) ∧ AMap.get { Memory.reset with keys := [(3, (1, 0))] }.keys 3 = some (1, Memory.reset.gen 1) := by
  refine ⟨by decide, by decide, by decide, ?_, by decide, by decide, by decide, by decide, by decide, by decide, by decide, by decide, by decide,
    by decide, by decide, no_waits _ rfl rfl rfl, by decide⟩
  unfold Claims.unused
  decide

/-- A responder that has heard n of GET_VERSION, GET_CAPABILITIES and NEGOTIATE_ALGORITHMS. -/
def heard (n : Nat) (meas : AMap Nat) : State :=
  { State.reset with trust := { Trust.reset with running := true, version := decide (0 < n), capabilities := decide (1 < n),
                                                 algorithms := decide (2 < n), meas := meas } }
def request (code p1 p2 len : Nat) : List Byte := [0x13, BitVec.ofNat 8 code, BitVec.ofNat 8 p1, BitVec.ofNat 8 p2] ++ List.replicate (len - 4) 0

theorem test_witness_TrustEvents :
    (heard 0 []).trust.running = true ∧ AMap.get (heard 0 []).trust.meas 17 = none ∧ (AMap.get (heard 0 [(17, 5)]).trust.meas 17).isSome = true ∧
    (∀ i < 4, (heard i []).trust.version = decide (0 < i) ∧ (heard i []).trust.capabilities = decide (1 < i) ∧ (heard i []).trust.algorithms = decide (2 < i)) ∧
    (∀ e ∈ [(0x84, 0, 0, 4), (0xE3, 0, 0, 4), (0xE1, 0, 0, 4), (0x81, 0, 0, 4), (0x82, 0, 0, 8), (0x83, 0, 0, 36), (0xE0, 1, 0xFF, 37)],
      let r := request e.1 e.2.1 e.2.2.1 e.2.2.2
      (r.getD 1 0).toNat = e.1 ∧ (r.getD 2 0).toNat = e.2.1 ∧ (r.getD 3 0).toNat = e.2.2.1 ∧ e.2.2.2 ≤ r.length) ∧
    (heard 3 [(17, 5)]).trust.meas ≠ [] ∧ (∃ tab, sections (List.replicate 64 0) = some tab ∧ badHeader (List.replicate 64 0) tab = true) := by
  refine ⟨by decide, by decide, by decide, by decide, by decide, by decide, ?_⟩
  cases e : sections (List.replicate 64 0) with
  | none => exact absurd e (by decide)
  | some tab => exact ⟨tab, rfl, by cases e; decide⟩

def linked (e u : Bool) : State := { State.reset with net := { Net.reset with ports := [(0, { Port.reset with enable := e, up := u })] } }
/-- A frame to every station of an EtherType, with a payload of n bytes. -/
def frame (hi lo : Byte) (pay : List Byte) : List Byte := List.replicate 6 0xFF ++ List.replicate 6 0 ++ [hi, lo] ++ pay
def zeros (n : Nat) : List Byte := List.replicate n 0

theorem test_witness_PortFrames :
    ((linked true true).port 0).enable = true ∧ ((linked true true).port 0).up = true ∧ ((linked true false).port 0).up = false ∧
    (∀ t ∈ [0x8808, 0x88B5, 0x88F7, 0x0800], let fr := frame (BitVec.ofNat 8 (t / 256)) (BitVec.ofNat 8 t) (zeros 46)
      fr.length = 60 ∧ (frameBody fr).1 = false ∧ (frameBody fr).2.1 = t ∧ ofBytes ((fr.take 6).reverse) = 2 ^ 48 - 1 ∧
      parsePacket (linked true true) fr = none) ∧ (zeros 60).length = 60 ∧ ofBytes (((zeros 60).take 6).reverse) ≠ 2 ^ 48 - 1 ∧
    ofBytes ((zeros 60).take 6).reverse = ((linked true true).port 0).pmac ∧ (frameBody (frame 0x81 0 [0, 0, 0x81, 0])).1 = true ∧
    ((linked true true).port 0).txprod = ((linked true true).port 0).txcons ∧ ((linked true true).port 0).rxprod = ((linked true true).port 0).rxcons := by
  decide

/-- An image of sections with a type, an offset and a size, then bytes from offset 256. -/
def ulx (ss : List (Nat × Nat × Nat)) (rest : List Byte) : List Byte :=
  toBytes 64 (0x0001000232584C55 + ss.length * 2 ^ 64 + 64 * 2 ^ 128) ++
    (ss.flatMap (fun e => toBytes 32 (e.1 + e.2.1 * 2 ^ 64 + e.2.2 * 2 ^ 128)) ++ zeros (192 - 32 * ss.length)) ++ rest
/-- What its checks find: header, counts, feature masks and errata. -/
def judged (im : List Byte) (s : State) (roots : List Nat) : Bool × Bool × Option (Bool × Bool × Bool) :=
  match sections im with
  | none => (true, true, none)
  | some tab =>
    let ss := tab.map Prod.fst
    (badHeader im tab, badCounts im ss, (ss.foldlM (loadSection 0 im) s).map (fun t =>
      (badFeatures im ss (roots.flatMap (stagesUnder t 0 8)), (ofType ss 6).any (fun e => decide (e.size ≠ 0)), badCharters t 0 roots)))
def needed : List (Nat × Nat × Nat) := [(1, 0, 0), (2, 0, 0), (4, 0, 0), (5, 0, 0)]
/-- A pool image of the kernel of section 1, at 0x2000, of the one word `vsync`. -/
def pimage0 : List Byte := toBytes 16 (12 + 0x2000 * 2 ^ 32 + 2 ^ 64) ++ toBytes 12 (0xDB * 2 ^ 88)
def bare : State := { launchable 0 with disp := Disp.reset }

theorem test_witness_ImageStatuses : judged (ulx needed []) bare [] = (false, false, some (false, false, false)) ∧
    judged (ulx [] []) bare [] = (false, true, some (false, false, false)) ∧
    judged (ulx (needed ++ [(6, 0, 2)]) []) bare [] = (false, false, some (false, true, false)) ∧
    judged (ulx needed []) bare [0x40] = (false, false, some (false, false, true)) ∧
    judged (ulx (needed ++ [(8, 256, 28)]) pimage0) bare [0x2000] = (false, false, some (true, false, false)) := by
  refine ⟨by decide, by decide, by decide, by decide, by decide⟩

/-- A flow in use; its packets of a type, without payload but for `pay`. -/
def flowing (f : Flow → Flow) : State :=
  { linked true true with net := { (linked true true).net with flows := [(0, f { Flow.reset with inUse := true })] } }
def packetOf (type psn bits : Nat) (pay : List Byte) : List Byte :=
  frame 0x88 0xB5 (toBytes 32 (1 + type * 2 ^ 8 + bits * 2 ^ 16 + pay.length * 2 ^ 48 + psn * 2 ^ 96) ++ pay ++ zeros (16 - pay.length))
def onPath (p : Path) : State := flowing (fun x => { x with paths := [(0, p)] })
def sent0 : TPacket := { psn := 0, header := 0, payload := [], req := none }

theorem test_witness_Transport :
    (∀ e ∈ [(1, 0, 3, [7]), (2, 0, 3, toBytes 16 (2 ^ 64)), (3, 1, 1, [7]), (4, 0, 0, []), (5, 0, 2, []), (6, 0, 0, []), (5, 2 ^ 32 - 1, 0, [])],
      ((parsePacket (flowing id) (packetOf e.1 e.2.1 e.2.2.1 e.2.2.2)).map (fun q => (q.1, q.2.1 / 2 ^ 8 % 256, q.2.1 / 2 ^ 96 % 2 ^ 32, q.2.2))) =
        some (0, e.1, e.2.1, e.2.2.2)) ∧
    ((flowing id).flow 0).path 0 = Path.reset ∧ isStalled (flowing id) 0 0 0 = false ∧ precedes 0 (2 ^ 32 - 1) = false ∧
    (∀ b, ({ State.reset with net := { Net.reset with flows := [(0, { Flow.reset with inUse := b })] } } : State).net.flowcount ≤ 0 ∧
      (({ State.reset with net := { Net.reset with flows := [(0, { Flow.reset with inUse := b })] } } : State).flow 0).inUse = b) ∧
    (∀ n ∈ [0, 14, 15], let p := { Path.reset with unacked := [sent0], timeouts := n }
      let s := { onPath p with net := { (onPath p).net with rto := 0 } }
      (s.flow 0).path 0 = p ∧ ((s.flow 0).path 0).sentTick + s.net.rto ≤ s.time.tick) ∧
    (let p := { Path.reset with down := true }
     let s := { onPath p with time := { Time.reset with tick := 1000000000 } }
     ((s.flow 0).path 0).down = true ∧ ((s.flow 0).path 0).downTick + 1000000000 ≤ s.time.tick ∧ ((s.flow 0).path 0).probe = none) ∧
    ackDue (onPath { Path.reset with ackNow := true }) { Path.reset with ackNow := true } = true ∧ ackDue (onPath Path.reset) Path.reset = false ∧
    ((flowing id).flow 0).error = false ∧ ((flowing id).flow 0).entry.testBit 105 = false ∧ ((flowing id).flow 0).resps = [] ∧
    ((flowing id).flow 0).comps = [] ∧ (flowing id).time.tick < (1 : Word).toNat ∧ (flowing id).time.launchAccepted = false := by decide

def driven (up : Bool) (ws : List PortReq) : State :=
  { State.reset with time := { Time.reset with tick := 10000000 }, stor := { Stor.reset with up := up, enable := true, waiting := ws } }
def portReq0 (w : Option Nat) : PortReq := { addr := 0, len := 4, data := none, space := 0, walk := w, since := 0 }

theorem test_witness_StorageEvents :
    (State.reset.stor.waiting = []) ∧ ((2 ^ 57 * 126 : Word)).toNat / 2 ^ 57 = 126 ∧ (AMap.getD State.reset.stor.sspace 126 0).testBit 16 = false ∧
    ((2 ^ 57 * 127 : Word)).toNat / 2 ^ 57 = 127 ∧ State.reset.mem.paths = [] ∧
    (∀ b, (AMap.getD ({ Stor.reset with svec := [(0, if b then 256 else 0)] } : Stor).svec 0 0).testBit 8 = b) ∧
    (driven true []).stor.up = true ∧ (driven false []).stor.up = false ∧ (2 ^ 36 - 4) + 4 ≤ 2 ^ 36 ∧ (32764 + 4 ≤ 8 * 4096) ∧
    (driven true []).stor.enable = true ∧ (driven true [portReq0 (some 3)]).stor.waiting = [portReq0 (some 3)] ∧ (portReq0 none).walk ≠ some 3 ∧
    (portReq0 (some 3)).since + 10000000 ≤ (driven true [portReq0 (some 3)]).time.tick ∧ (∀ q, (none : Option Nat) = some q → 65536 ≤ q) := by
  refine ⟨by decide, by decide, by decide, by decide, by decide, by decide, by decide, by decide, by decide, by decide, by decide, by decide, by decide,
    by decide, fun q h => by cases h⟩

theorem test_witness_WindowRegisters : ((0x10000 : Word)).toNat / 2 ^ 16 % 4 = 1 ∧ ((0x20000 : Word)).toNat / 2 ^ 16 % 4 = 2 ∧ ((3 : Word)).toNat % 4 = 3 ∧
    ((2 ^ 31 : Word)).toNat.testBit 31 = true := by decide

def notNow : Hdr := ⟨1, false, false, false, false, false⟩

theorem test_witness_FalseGuard : Claims.header (.nop notNow) = some notNow ∧ guardHolds (one user) notNow = false ∧ (one user).me.follower = false ∧
    Claims.privileged (.nop notNow) = false ∧ Claims.header (.eret notNow) = some notNow ∧ (one hand).me.priv = true := by decide

theorem test_witness_DecodeEncode : WellFormed (.nop h0) ∧ (encode (.nop h0)).isSome = true ∧
    WellFormed (.add h0 .i32 true 3 1 (.imm 0xFFFFF)) ∧ (encode (.add h0 .i32 true 3 1 (.imm 0xFFFFF))).isSome = true := by decide

/-- Core 0 is next; its pool holds the words w at 0x2000, and its code ends at 0x2018. -/
def runs (w : Nat) (pc : Word) : State :=
  { core0 (one { user with pc := pc }) (fun c => { c with sill := 0x2018, pool := cells 0x2000 12 w, part := 0x13F }) with sched := [0], turn := false }

def quiet (s : State) : Bool :=
  let t := (rejoin (seat { s with turn := true } 0 0) 0 0).thread 0 0
  s.agenda.isEmpty && !s.turn && s.sched == [0] && chooseSlot s 0 == some 0 && !s.myCore.pipe.active && (pendingIrq t).isNone && !t.inStub &&
    t.pend.meter.isNone && !t.follower && decide (t.place.gsize ≤ 1)

/-- A follower that comes back to the hold point of its leader has nothing to run yet. -/
def comesBack : State :=
  let s := two { lead with priv := false, hold := some 0x2000 } { tail false with solo := true, pc := 0x2000 } 1
  { s with sched := [0], turn := false }
def spoilt : State := core0 (runs (0x2E * 2 ^ 88) 0x2000) (fun c => { c with poolPoison := [0x401] })

theorem test_witness_StepRunsDecoded : (comesBack.agenda = [] ∧ comesBack.turn = false ∧ comesBack.sched = [0] ∧
      chooseSlot comesBack 0 = some 1 ∧ (comesBack.core 0).pipe.active = false ∧
      canRun (rejoin (seat { comesBack with turn := true } 0 1) 0 1) 0 1 = false) ∧
    quiet spoilt = true ∧ (spoilt.core 0).poisoned 0x2000 12 = true ∧ (spoilt.core 0).sill = 0x2018 ∧ quiet (runs 0 0x2000) = true ∧ quiet (runs (0x2E * 2 ^ 88) 0x2000) = true ∧
    quiet (runs 0 0x2001) = true ∧ quiet (runs 0 0x2010) = true ∧
    (match decode DecodeCtx.full (BitVec.ofNat 96 (0x2E * 2 ^ 88)) with
      | .instr (.nop h) => decide (h = h0)
      | _ => false) = true ∧
    (match decode DecodeCtx.full 0 with
      | .trap c _ => decide (c = 1)
      | _ => false) = true := by
  decide

theorem test_witness_ClockAdvances : Claims.clockInv State.reset ∧ powersOn { State.reset with agenda := [.powerOn true] } = true ∧
    powersOn (runs 0 0x2000) = false ∧ (match step (runs (0x2E * 2 ^ 88) 0x2000) with
    | .next s => decide (s.time.cycle = 1)
    | _ => false) = true := by
  unfold Claims.clockInv
  decide

theorem test_witness_RegisterFiles : (0, 1) ≠ (one user).cur ∧ (4095, 3) ≠ (one user).cur := by decide

/-! ### One step each: values that the spec works out or tabulates -/

def gets (o : Host.Outcome State Fault Refusal) (f : State → Bool) : Bool :=
  match o with
  | .next s => f s
  | _ => false
/-- A thread with given g registers. -/
def regs (l : AMap Word) : State := one { user with g := l }
def g5is (i : Instr) (l : AMap Word) (v : Word) : Bool := gets (exec i (regs l)) (fun s => s.me.rdG 5 == v && s.me.pc == 12)

-- 10, R202's example: g6 = 0x7FFFFFFF and 1.
theorem test_add_wraps : g5is (.add h0 .i32 false 5 6 (.imm 1)) [(6, 0x7FFFFFFF)] 0xFFFFFFFF80000000 = true := by decide
theorem test_add_saturates : gets (exec (.add h0 .i32 true 5 6 (.imm 1)) (regs [(6, 0x7FFFFFFF)]))
    (fun s => s.me.rdG 5 == 0x7FFFFFFF && s.me.ctl.fflags == 0x20) = true := by decide
-- R202: mad reads A before it writes it; abs of the least number; a shift count is taken modulo w.
theorem test_mad : g5is (.mad h0 .i32 false 5 6 (.imm 0xFFFFF)) [(5, 7), (6, 3)] 20 = true := by decide
theorem test_abs_least : g5is (.abs h0 .i8 false 5 6) [(6, 0x80)] 0xFFFFFFFFFFFFFF80 = true := by decide
theorem test_shl_count : g5is (.shl h0 .i32 false 5 6 (.imm 40)) [(6, 1)] 256 = true := by decide
-- 10 Table 2.
theorem test_div_by_zero : g5is (.div h0 .i32 false 5 6 (.reg 7)) [(6, 7), (7, 0)] 0xFFFFFFFFFFFFFFFF = true := by decide
theorem test_div_negative : g5is (.div h0 .i32 false 5 6 (.reg 7)) [(6, 0xFFFFFFFFFFFFFFF9), (7, 2)] 0xFFFFFFFFFFFFFFFD = true := by decide
theorem test_rem_unsigned : g5is (.rem h0 .i32 true 5 6 (.reg 7)) [(6, 0xFFFFFFFF80000000), (7, 0xFFFFFFFFFFFFFFFF)] 0xFFFFFFFF80000000 = true := by
  decide
theorem test_rem_negative : g5is (.rem h0 .i32 false 5 6 (.reg 7)) [(6, 0xFFFFFFFFFFFFFFF9), (7, 2)] 0xFFFFFFFFFFFFFFFF = true := by decide
-- R204: a rotation by w - k goes toward the low end; clz of 0 is w.
theorem test_rot : g5is (.rot h0 .i8 5 6 (.imm 7)) [(6, 0x03)] 0xFFFFFFFFFFFFFF81 = true := by decide
theorem test_clz_zero : g5is (.clz h0 .i16 5 6) [(6, 0xFFFF0000)] 16 = true := by decide
-- R205: bits above 63 read as zero (spec 0xFFC: position 60, 64 bits); R206.
theorem test_bext_top : g5is (.bext h0 true 5 6 (.imm 0xFFC)) [(6, 0xA000000000000000)] 10 = true := by decide
theorem test_ext_clears : g5is (.extI h0 .i32 true 5 6) [(6, 0xFFFFFFFF80000000)] 0x80000000 = true := by decide
-- R208's example: x = 0x180_0000_0001.
theorem test_li_negative : g5is (.li h0 5 0x8000000001) [] 0xFFFFFF8000000001 = true := by decide
theorem test_lih_adds : g5is (.lih h0 5 2) [(5, 0xFFFFFF8000000001)] 0x18000000001 = true := by decide
-- R212's example: the unsigned comparison of -1 and 1 is false, the signed one true.
theorem test_cmp_unsigned : gets (exec (.cmp h0 .i64 .lt true 3 4 (.reg 5)) (regs [(4, 0xFFFFFFFFFFFFFFFF), (5, 1)])) (fun s => !s.me.rdP 3) = true := by
  decide
theorem test_cmp_signed : gets (exec (.cmp h0 .i64 .lt false 3 4 (.reg 5)) (regs [(4, 0xFFFFFFFFFFFFFFFF), (5, 1)])) (fun s => s.me.rdP 3) = true := by
  decide
theorem test_pmov_complements : gets (exec (.pmov h0 true 4 (.p 4)) (one user)) (fun s => s.me.rdP 4) = true := by decide
-- R270's example: g9 + 16, lower bytes to A and upper bytes to B.
theorem test_ld_pair : gets (exec (.ldPair h0 .i64 false 4 5 ⟨9, 2⟩) (core0 (one (atG9 user (own 0x13000))) (fun c =>
    { c with pool := cells 0x13010 16 (0x1122334455667788 + 0x99AABBCCDDEEFF00 * 2 ^ 64) })))
    (fun s => s.me.rdG 4 == 0x1122334455667788 && s.me.rdG 5 == 0x99AABBCCDDEEFF00) = true := by decide
-- R258: an access that is not aligned traps with cause 0x04 and its size.
theorem test_misaligned_load : gets (exec (.ld h0 .i64 false 5 m9) (one (atG9 user (own 0x3004))))
    (fun s => s.me.ctl.xcause == 4 && s.me.ctl.xaddr == own 0x3004 && s.me.ctl.xinfo == 8) = true := by decide
-- 16, a reduction: iteration 1 adds 1 + 2 + ... + 8 to 0 and gives 36.0.
theorem test_vdot_tree : gets (exec (.sidingIssue 0) (core0 (one { user with v := [(0, ⟨joinLanes 32 (List.replicate 8 0x3F800000), 0x8000⟩),
      (1, ⟨joinLanes 32 [0x3F800000, 0x40000000, 0x40400000, 0x40800000, 0x40A00000, 0x40C00000, 0x40E00000, 0x41000000], 0x8000⟩), (4, ⟨0, 0x8000⟩)] })
    (fun c => { c with seq := [{ slot := 0, instr := .vdot h0 .f32 .rne false 4 0 (.v 1), pc := 0, s0 := 0, s1 := 0, s2 := 0, bytes := [], priv := false, void := false }] })))
    (fun s => (s.me.rdV 4).bits.toNat % 2 ^ 32 == 0x42100000) = true := by decide +kernel
-- R223, R427: a system call saves its own pc, its cause and its number; R430: the return takes the pc back.
theorem test_sysc : gets (exec (.sysc h0 (some 9)) (one { user with pc := 0x2010, ctl := { user.ctl with xvec := 0x4000 } }))
    (fun s => s.me.pc == 0x4000 && s.me.priv && s.me.ctl.xpc == 0x2010 && s.me.ctl.xcause == 0x13 && s.me.ctl.xinfo == 9) = true := by decide
theorem test_eret : gets (exec (.eret h0) (one { hand with ctl := { hand.ctl with xpc := 0x2040, ppriv := false } }))
    (fun s => s.me.pc == 0x2040 && !s.me.priv) = true := by decide
-- R218: a register of the handler stops a user write with cause 0x03.
theorem test_ctl_user : gets (exec (.ctlWr h0 .xvec (.imm 4)) (one user)) (fun s => s.me.ctl.xcause == 3) = true := by decide

end Sys2Proof.Tests
end

/-! PROOFS. The clock (R4, R390) and power-on (R6): what a step does to the reference time, and what reset leaves. -/

namespace Sys2Proof.Machine

open Sys2Proof

/-! ### One cycle of the clock (R4, R390) -/

theorem tickUnit_pos : 0 < tickUnit := by decide

@[simp] theorem Time.advance_cycle (t : Time) : t.advance.cycle = t.cycle + 1 := rfl

/-- Whole ticks leave `phase` for the count, so the rest stays below one tick. -/
theorem Time.advance_phase_lt (t : Time) : t.advance.phase < tickUnit := Nat.mod_lt _ tickUnit_pos

@[simp] theorem timeAfter_cycle (old new : Time) : (timeAfter old new).cycle = old.cycle + 1 := rfl

theorem tick_le_timeAfter (old new : Time) : old.tick ≤ (timeAfter old new).tick :=
  (Nat.le_max_left old.tick new.tick).trans (Nat.le_add_right ..)

theorem timeAfter_phase_lt (old new : Time) : (timeAfter old new).phase < tickUnit := Time.advance_phase_lt _

/-! ### Charging a step's traffic leaves the clock (R151) -/

theorem foldl_time {α : Type} {f : State → α → State} (h : ∀ s x, (f s x).time = s.time) (l : List α) (s : State) :
    (l.foldl f s).time = s.time :=
  foldl_inv (fun t : State => t.time = s.time) f l (fun t x _ ht => (h t x).trans ht) s rfl

@[simp] theorem markMeter_time (s : State) (lid i m : Nat) : (markMeter s lid i m).time = s.time := by
  refine foldl_time (fun t e => ?_) s.disp.gangs s
  split
  · exact foldl_time (fun u q => State.modThread_time u q.1 q.2 _) e.2.members t
  · rfl

@[simp] theorem addMeters_time (dram energy : Nat) (s : State) (p : Nat × Nat) :
    (addMeters dram energy s p).time = s.time := by
  unfold addMeters
  dsimp only
  split
  · simp
  · split <;> simp

@[simp] theorem addAll_time (s : State) (lid i dram energy : Nat) : (addAll s lid i dram energy).time = s.time :=
  foldl_time (addMeters_time dram energy) (ancestors s lid i) s

@[simp] theorem chargeDram_time (old : Memory) (who : Option (Nat × Nat)) (s : State) :
    (chargeDram old who s).time = s.time := by
  unfold chargeDram
  split <;> simp

/-! ### What a step does to the clock -/

/-- A step ends with its act, after which one cycle passes; a power-on's clock goes on from where the act set it. -/
theorem step_next {s s' : State} (h : step s = .next s') :
    ∃ a, act s = .next a ∧ s'.time = if powersOn s then a.time.advance else timeAfter s.time a.time := by
  unfold step at h
  cases ha : act s with
  | next a =>
    rw [ha] at h
    cases h
    refine ⟨a, rfl, ?_⟩
    split <;> rfl
  | fault r => rw [ha] at h; cases h
  | refused r => rw [ha] at h; cases h

theorem powersOn_iff (s : State) : powersOn s = true ↔ ∃ ok rest, s.agenda = .powerOn ok :: rest := by
  unfold powersOn
  split
  next ok rest h => simp [h]
  next h => simpa using h

/-- The act of a power-on sets the clock back to its reset value (R6; CLOCK in 25 Table 6). -/
theorem act_time_of_powersOn {s a : State} (hp : powersOn s = true) (h : act s = .next a) : a.time = Time.reset := by
  obtain ⟨ok, rest, hagenda⟩ := (powersOn_iff s).mp hp
  unfold act at h
  rw [hagenda] at h
  cases h
  exact chargeDram_time ..

/-- Settles O59: every step ends in `Time.advance`, which keeps the rest below one tick and never lowers the count;
`timeAfter` starts it from the greater of the old and the set count, and a power-on from the reset clock. -/
theorem clockAdvances : Obligations.ClockAdvances := by
  intro s s' h
  obtain ⟨a, hact, htime⟩ := step_next h
  refine ⟨fun _ => ?_, fun hp => ?_, fun hp => ?_⟩
  · show s'.time.phase < tickUnit
    rw [htime]
    split
    · exact Time.advance_phase_lt _
    · exact timeAfter_phase_lt _ _
  · rw [hp] at htime
    simp only [Bool.false_eq_true, if_false] at htime
    rw [htime]
    exact ⟨tick_le_timeAfter _ _, timeAfter_cycle _ _⟩
  · rw [hp, if_pos rfl, act_time_of_powersOn hp hact] at htime
    rw [htime]
    rfl

/-! ### The reset state (R6) -/

theorem State.thread_reset (c k : Nat) : State.reset.thread c k = Thread.reset := rfl
theorem State.port_reset (p : Nat) : State.reset.port p = Port.reset := rfl

theorem Thread.rdG_reset (n : Nat) : Thread.reset.rdG n = 0 := by
  unfold Thread.rdG
  split <;> rfl

/-- Settles O60: no part of the module is listed at reset, so every thread and port reads as its reset record. -/
theorem resetState : Obligations.ResetState := by
  have hthread : ∀ c k, (State.reset.thread c k).status = .unplaced ∧ (∀ n, n ≠ 0 → (State.reset.thread c k).rdG n = 0) ∧
      (State.reset.thread c k).ctl.xvec = 0 ∧ (State.reset.thread c k).ctl.ptime = 0 ∧
      (State.reset.thread c k).ctl.fflags = 0 := by
    intro c k
    rw [State.thread_reset]
    exact ⟨rfl, fun n _ => Thread.rdG_reset n, rfl, rfl, rfl⟩
  have hport : ∀ p, (State.reset.port p).txlog = 4 ∧ (State.reset.port p).enable = false := by
    intro p
    rw [State.port_reset]
    exact ⟨rfl, rfl⟩
  exact ⟨tickUnit_pos, rfl, rfl, rfl, rfl, hthread, rfl, rfl, rfl, rfl, rfl, rfl, rfl, rfl, hport⟩

end Sys2Proof.Machine

/-! PROOFS. The management window (R160, 25 Tables 1 to 11): which part of it an offset belongs to, what a write of each
register does, and the accesses of the system cores that reach it. -/

namespace Sys2Proof.Machine

open Sys2Proof

/-! ### Fields of a written word -/

theorem wfld_low (v : Word) (len : Nat) : wfld v 0 len = v.toNat % 2 ^ len := by
  simp [wfld, fld]

/-- The low 32 bits of a word as TIMESLEW reads them: as a signed number (R80). -/
theorem sextI_eq_toInt (n : Nat) : sextI n 32 = (BitVec.ofNat 32 n).toInt := by
  simp [sextI, BitVec.toInt]

/-- A register that keeps the upper bits of a word keeps a number that still fits. -/
theorem toNat_aligned (v : Word) (d : Nat) : (BitVec.ofNat 64 (v.toNat / d * d)).toNat = v.toNat / d * d := by
  rw [BitVec.toNat_ofNat]
  exact Nat.mod_eq_of_lt ((Nat.div_mul_le_self _ _).trans_lt v.isLt)

theorem flagAt_getLsbD (v : Word) (i : Nat) : flagAt (v.getLsbD i) i = v.toNat / 2 ^ i % 2 * 2 ^ i := by
  have h : v.getLsbD i = decide (v.toNat / 2 ^ i % 2 = 1) := by
    rw [← BitVec.testBit_toNat, Nat.testBit_eq_decide_div_mod_eq]
  rw [flagAt, h]
  rcases Nat.mod_two_eq_zero_or_one (v.toNat / 2 ^ i) with e | e <;> simp [e]

/-! ### The parts of the window (R160) -/

section Parts
variable (s : State) (v : Word) {off : Nat}

theorem regWrite_misaligned (h : off % 8 ≠ 0) : regWrite s off v = s := if_pos h

theorem regWrite_beyond (h : 0x3000 ≤ off) : regWrite s off v = s := by
  by_cases h8 : off % 8 = 0
  · unfold regWrite
    repeat rw [if_neg (by omega)]
  · exact regWrite_misaligned s v h8

theorem regWrite_core (h8 : off % 8 = 0) (h : 0x300 ≤ off ∧ off < 0x600) : regWrite s off v = coreRegWrite s off v := by
  unfold regWrite
  rw [if_neg (by omega), if_neg (by omega), if_neg (by omega), if_pos h]

theorem regWrite_stor (h8 : off % 8 = 0) (h : 0x2000 ≤ off ∧ off < 0x3000) : regWrite s off v = storRegWrite s off v := by
  unfold regWrite
  repeat rw [if_neg (by omega)]
  rw [if_pos h]

/-- Each port has 256 bytes of the window. -/
theorem regWrite_port {p reg : Nat} (hp : p < 8) (h8 : reg % 8 = 0) (hreg : reg < 0x100) :
    regWrite s (0x1000 + 256 * p + reg) v = portRegWrite s p reg v := by
  have hn : (0x1000 + 256 * p + reg - 0x1000) / 0x100 = p := by omega
  have hr : (0x1000 + 256 * p + reg) % 0x100 = reg := by omega
  unfold regWrite
  repeat rw [if_neg (by omega)]
  rw [if_pos (by omega), hn, hr]

end Parts

/-! ### Rows of registers: LWSPACE (07 Table 8), SSPACE and SVEC (25 Table 11) -/

theorem coreRegWrite_lwspace (s : State) (v : Word) {i : Nat} (hi : i < 16) : coreRegWrite s (0x310 + 8 * i) v =
    s.modDisp (fun d => { d with lwspace := AMap.set d.lwspace i (wfld v 0 17) }) := by
  have hn : (0x310 + 8 * i - 0x310) / 8 = i := by omega
  unfold coreRegWrite
  split
  case h_17 => rw [if_pos (by omega), hn]
  all_goals omega

theorem storRegWrite_sspace (s : State) (v : Word) {k : Nat} (hk : k < 127) : storRegWrite s (0x2100 + 8 * k) v =
    s.modStor (fun x => { x with sspace := AMap.set x.sspace k (wfld v 0 17) }) := by
  have hn : (0x2100 + 8 * k - 0x2100) / 8 = k := by omega
  unfold storRegWrite
  split
  · omega
  · rw [if_pos (by omega), hn]

theorem storRegWrite_svec (s : State) (v : Word) {k : Nat} (hk : k < 128) : storRegWrite s (0x2500 + 8 * k) v =
    s.modStor (fun x => { x with svec := AMap.set x.svec k (wfld v 0 4 + flagAt (v.getLsbD 8) 8) }) := by
  have hn : (0x2500 + 8 * k - 0x2500) / 8 = k := by omega
  unfold storRegWrite
  split
  · omega
  · rw [if_neg (by omega), if_pos (by omega), hn]

/-! ### Commands -/

theorem exec_registerWrite (off : Nat) (v : Word) (s : State) :
    exec (.registerWrite off v) s = .next (regWrite s off v) := rfl

theorem onUnit_of_true {ok : Bool} (s : State) (h : ok = true) : onUnit ok s = .next s := if_pos h

/-- A write of the register is the command where bit 31 is set, and nothing else (07 Table 8). -/
def Commands (s : State) (v : Word) (off : Nat) (e : Instr) : Prop :=
  exec (.registerWrite off v) s = if v.toNat.testBit 31 then exec e s else .next s

theorem Commands.of_regWrite {s t : State} {v : Word} {off : Nat} {e : Instr}
    (hw : regWrite s off v = if v.getLsbD 31 then t else s) (he : exec e s = .next t) : Commands s v off e := by
  unfold Commands
  rw [exec_registerWrite, hw, he, BitVec.testBit_toNat]
  split <;> rfl

/-- DIERESET, FENCE, DBGSIG and DBGREL name a unit that exists, since their fields have no other values. -/
theorem commandRegisters_command (s : State) (v : Word) :
    Commands s v 0x4C0 (.diereset (v.toNat % 16)) ∧
    Commands s v 0x580 (.fenceCluster (v.toNat % 512)) ∧
    Commands s v 0x588 (.dbgsig (v.toNat % 4096) (v.toNat / 2 ^ 12 % 4) (v.toNat / 2 ^ 16 % 256)) ∧
    Commands s v 0x590 (.dbgrel (v.toNat % 4096) (v.toNat / 2 ^ 12 % 4)) := by
  have hdie : isDie (v.toNat % 16) = true := decide_eq_true (Nat.mod_lt _ (by decide))
  have hcluster : isCluster (v.toNat % 512) = true := decide_eq_true (Nat.mod_lt _ (by decide))
  have hslot : isSlot (v.toNat % 4096) (v.toNat / 2 ^ 12 % 4) = true :=
    Bool.and_eq_true_iff.mpr ⟨decide_eq_true (Nat.mod_lt _ (by decide)), decide_eq_true (Nat.mod_lt _ (by decide))⟩
  refine ⟨.of_regWrite (t := startReset s (v.toNat % 16)) ?_ (onUnit_of_true _ hdie),
    .of_regWrite (t := fence s (v.toNat % 512)) ?_ (onUnit_of_true _ hcluster),
    .of_regWrite (t := debugSignal s (v.toNat % 4096) (v.toNat / 2 ^ 12 % 4) (v.toNat / 2 ^ 16 % 256)) ?_ (onUnit_of_true _ hslot),
    .of_regWrite (t := debugRelease s (v.toNat % 4096) (v.toNat / 2 ^ 12 % 4)) ?_ (onUnit_of_true _ hslot)⟩ <;>
  · rw [regWrite_core s v (by decide) (by decide)]
    simp [coreRegWrite, wfld, fld]

/-- KEYCMD: operation 1 installs a key and operation 2 rekeys a slot (07 Table 8). -/
theorem keyRegister_command (s : State) (v : Word) :
    (v.toNat / 2 ^ 16 % 4 = 1 → Commands s v 0x5A0 (.keyInstall (v.toNat % 4096))) ∧
    (v.toNat / 2 ^ 16 % 4 = 2 → Commands s v 0x5A0 (.keyRekey (v.toNat % 4096))) := by
  have hw : regWrite s 0x5A0 v = if v.getLsbD 31 then keyCommand s (v.toNat % 4096) (v.toNat / 2 ^ 16 % 4) else s := by
    rw [regWrite_core s v (by decide) (by decide)]
    simp [coreRegWrite, wfld, fld]
  constructor <;> intro hop <;> rw [hop] at hw
  · exact .of_regWrite hw rfl
  · exact .of_regWrite hw rfl

/-- RCCMD: the low two bits are the operation (R159). -/
theorem ringRegister_command (s : State) (v : Word) :
    (v.toNat % 4 = 1 → exec (.registerWrite 0x510 v) s = exec (.ringCmdPost (v.toNat / 2 ^ 16 % 2 ^ 16)) s) ∧
    (v.toNat % 4 = 2 → exec (.registerWrite 0x510 v) s = exec (.ringCmdRetire (v.toNat / 2 ^ 16 % 2 ^ 16)) s) ∧
    (v.toNat % 4 = 3 → exec (.registerWrite 0x510 v) s = exec .ringCmdClose s) := by
  have hw : exec (.registerWrite 0x510 v) s = .next (ringCommand s v) := rfl
  have hop : wfld v 0 2 = v.toNat % 4 := wfld_low v 2
  refine ⟨fun h => ?_, fun h => ?_, fun h => ?_⟩ <;> rw [hw, ringCommand, hop, h] <;> rfl

/-- DOORBELL takes the number of a flow that exists. -/
theorem exec_write_doorbell (s : State) (v : Word) :
    exec (.registerWrite 0x1818 v) s = exec (.doorbell (v.toNat % 4096)) s := by
  have hflow : isFlow (v.toNat % 4096) = true := decide_eq_true (Nat.mod_lt _ (by decide))
  calc exec (.registerWrite 0x1818 v) s
      = .next (doorbell s (wfld v 0 12)) := rfl
    _ = .next (doorbell s (v.toNat % 4096)) := by rw [show wfld v 0 12 = v.toNat % 4096 from wfld_low v 12]
    _ = exec (.doorbell (v.toNat % 4096)) s := (onUnit_of_true _ hflow).symm

theorem exec_write_timeset (s : State) (v : Word) : exec (.registerWrite 0x1888 v) s = exec (.timeset v) s := rfl
theorem exec_write_dqbase (s : State) (v : Word) : exec (.registerWrite 0x18 v) s = exec (.dqbaseWrite v) s := rfl
theorem exec_write_dqhead (s : State) (v : Word) : exec (.registerWrite 0x28 v) s = exec (.dqheadWrite v) s := rfl

/-! ### Registers that take their fields -/

/-- A write of a register that leaves memory, the cores and the trust die. -/
def Puts (s : State) (v : Word) (off : Nat) (P : State → Prop) : Prop :=
  ∃ w, exec (.registerWrite off v) s = .next w ∧ w.mem = s.mem ∧ w.cores = s.cores ∧ w.trust = s.trust ∧ P w

theorem Puts.of_regWrite {s w : State} {v : Word} {off : Nat} {P : State → Prop} (hw : regWrite s off v = w)
    (hm : w.mem = s.mem) (hc : w.cores = s.cores) (ht : w.trust = s.trust) (hP : P w) : Puts s v off P :=
  ⟨w, congrArg Host.Outcome.next hw, hm, hc, ht, hP⟩

theorem selArea_modArea (s : State) (f : Area → Area) : selArea (modArea s f) = f (selArea s) := by
  simp [selArea, modArea]

/-- SPTBASE, SPTCOUNT, CSEL, CLOG and PLIMIT (R238, R444, R446). -/
theorem mgmtRegisters_put (s : State) (v : Word) :
    Puts s v 0x300 (fun w => w.mgmt.sptbase.toNat = v.toNat / 4096 * 4096) ∧
    Puts s v 0x308 (fun w => w.mgmt.sptcount = v.toNat % 2 ^ 17) ∧
    Puts s v 0x400 (fun w => w.mgmt.csel = v.toNat % 2 ^ 16) ∧
    Puts s v 0x410 (fun w => (selArea w).clog = if 6 ≤ v.toNat % 32 ∧ v.toNat % 32 ≤ 16 then v.toNat % 32 else 0) ∧
    Puts s v 0x460 (fun w => w.mgmt.health.plimit =
      if 400 ≤ v.toNat % 2048 ∧ v.toNat % 2048 ≤ 1600 then v.toNat % 2048 else 1600) := by
  have hclog : regWrite s 0x410 v =
      modArea s (fun a => { a with clog := if 6 ≤ wfld v 0 5 ∧ wfld v 0 5 ≤ 16 then wfld v 0 5 else 0 }) := rfl
  refine ⟨.of_regWrite rfl rfl rfl rfl (toNat_aligned v 4096), .of_regWrite rfl rfl rfl rfl (wfld_low v 17),
    .of_regWrite rfl rfl rfl rfl (wfld_low v 16), .of_regWrite hclog rfl rfl rfl ?_, .of_regWrite rfl rfl rfl rfl ?_⟩
  · simp [selArea_modArea, wfld_low]
  · show (if 400 ≤ wfld v 0 11 ∧ wfld v 0 11 ≤ 1600 then wfld v 0 11 else 1600) = _
    simp [wfld_low]

/-- FLOWBASE, FLOWCOUNT, RTO and TIMESLEW (25 Table 6). -/
theorem timeRegisters_put (s : State) (v : Word) :
    Puts s v 0x1800 (fun w => w.net.flowbase.toNat = v.toNat / 64 * 64) ∧
    Puts s v 0x1808 (fun w => w.net.flowcount = v.toNat % 2 ^ 13) ∧
    Puts s v 0x1810 (fun w => w.net.rto = max 10000 (v.toNat % 2 ^ 32)) ∧
    Puts s v 0x1880 (fun w => w.time.slew = max (-4294967) (min 4294967 (BitVec.ofNat 32 v.toNat).toInt)) :=
  ⟨.of_regWrite rfl rfl rfl rfl (toNat_aligned v 64), .of_regWrite rfl rfl rfl rfl (wfld_low v 13),
    .of_regWrite rfl rfl rfl rfl (congrArg (max 10000) (wfld_low v 32)),
    .of_regWrite rfl rfl rfl rfl (congrArg (fun x => max (-4294967) (min 4294967 x)) (sextI_eq_toInt v.toNat))⟩

theorem puts_hqtail (s : State) (v : Word) : Puts s v 0x10 (fun w => w.chan.hqtail = v.toNat % 2 ^ 32) :=
  .of_regWrite rfl rfl rfl rfl (wfld_low v 32)

theorem puts_lwspace (s : State) (v : Word) {i : Nat} (hi : i < 16) :
    Puts s v (0x310 + 8 * i) (fun w => AMap.getD w.disp.lwspace i 0 = v.toNat % 2 ^ 17) := by
  refine .of_regWrite ((regWrite_core s v (by omega) (by omega)).trans (coreRegWrite_lwspace s v hi)) rfl rfl rfl ?_
  simp [wfld_low]

/-- The registers of a port that take what is written (R458). -/
theorem portRegisters_put (s : State) (v : Word) {p : Nat} (hp : p < 8) :
    Puts s v (0x1000 + 256 * p) (fun w => (w.port p).enable = v.getLsbD 0 ∧ (w.port p).pfc = v.toNat / 256 % 256) ∧
    Puts s v (0x1010 + 256 * p) (fun w => (w.port p).pmac = v.toNat % 2 ^ 48) ∧
    Puts s v (0x1018 + 256 * p) (fun w => (w.port p).pmcast = v) ∧
    Puts s v (0x1028 + 256 * p) (fun w => (w.port p).txprod = v.toNat / 2 ^ 32 ∧ (w.port p).txlog = v.toNat % 16) ∧
    Puts s v (0x1040 + 256 * p) (fun w => (w.port p).rxprod = v.toNat / 2 ^ 32 ∧ (w.port p).rxlog = v.toNat % 16) := by
  have hput : ∀ {reg P}, reg < 0x100 → reg % 8 = 0 → (portRegWrite s p reg v).mem = s.mem →
      (portRegWrite s p reg v).cores = s.cores → (portRegWrite s p reg v).trust = s.trust → P (portRegWrite s p reg v) →
      Puts s v (0x1000 + reg + 256 * p) P := by
    intro reg P hreg h8 hm hc ht hP
    rw [Nat.add_right_comm]
    exact .of_regWrite (regWrite_port s v hp h8 hreg) hm hc ht hP
  have hpfc : wfld v 8 8 = v.toNat / 256 % 256 := rfl
  have hupper : wfld v 32 32 = v.toNat / 2 ^ 32 := Nat.mod_eq_of_lt (by have := v.isLt; omega)
  refine ⟨hput (reg := 0) (by decide) rfl rfl rfl rfl ?_, hput (reg := 0x10) (by decide) rfl rfl rfl rfl ?_,
    hput (reg := 0x18) (by decide) rfl rfl rfl rfl ?_, hput (reg := 0x28) (by decide) rfl rfl rfl rfl ?_,
    hput (reg := 0x40) (by decide) rfl rfl rfl rfl ?_⟩ <;>
  simp [portRegWrite, wfld_low, hpfc, hupper]

/-- SSPACE: the space of each slot of the drive's addresses (R469). -/
theorem puts_sspace (s : State) (v : Word) {k : Nat} (hk : k < 127) :
    Puts s v (0x2100 + 8 * k) (fun w => AMap.getD w.stor.sspace k 0 = v.toNat % 2 ^ 17) := by
  refine .of_regWrite ((regWrite_stor s v (by omega) (by omega)).trans (storRegWrite_sspace s v hk)) rfl rfl rfl ?_
  simp [wfld_low]

/-- SVEC: the system core that a vector of the drive interrupts (R469). -/
theorem puts_svec (s : State) (v : Word) {k : Nat} (hk : k < 128) :
    Puts s v (0x2500 + 8 * k) (fun w => AMap.getD w.stor.svec k 0 = v.toNat % 16 + v.toNat / 256 % 2 * 256) := by
  refine .of_regWrite ((regWrite_stor s v (by omega) (by omega)).trans (storRegWrite_svec s v hk)) rfl rfl rfl ?_
  simp only [State.modStor_stor, AMap.getD_set_self, wfld_low, flagAt_getLsbD, Nat.reducePow]

/-! ### Registers that take nothing -/

/-- Registers of 07 Tables 1 and 8 and 25 Tables 1 to 11 that are read-only or reserved. -/
def readOnlyRegisters : List Nat :=
  [0x30, 0x38, 0x40, 0x418, 0x440, 0x448, 0x450, 0x458, 0x480, 0x4B8, 0x518, 0x1008, 0x1030, 0x1068, 0x1820, 0x1890,
    0x2008, 0x2010, 0x2018]

theorem regWrite_readOnly (s : State) (v : Word) {off : Nat} (h : off ∈ readOnlyRegisters) : regWrite s off v = s := by
  fin_cases h <;> rfl

theorem idles_of_takesNothing (s : State) (v : Word) {off : Nat}
    (h : off % 8 ≠ 0 ∨ off ∈ readOnlyRegisters ∨ 0x3000 ≤ off) : Claims.idles s (.registerWrite off v) := by
  have hw : regWrite s off v = s := by
    rcases h with h | h | h
    · exact regWrite_misaligned s v h
    · exact regWrite_readOnly s v h
    · exact regWrite_beyond s v h
  exact congrArg _ hw

/-! ### Accesses of the system cores (R238) -/

theorem exec_systemCoreMemoryAccess {c : Nat} (hc : c < 16) (space pa len : Nat) (data : Option (List Byte)) (s : State) :
    exec (.systemCoreMemoryAccess c space pa len data) s = .next (coreAccess s c space pa len data) :=
  onUnit_of_true _ (decide_eq_true hc)

/-- Module DRAM lies below 2^38 and host memory from 2^52 to 2^53. -/
theorem sysMem_eq_false {pa len : Nat} (h : 2 ^ 38 < pa + len) (h' : pa < 2 ^ 52 ∨ 2 ^ 53 < pa + len) : sysMem pa len = false := by
  simp only [sysMem, Bool.or_eq_false_iff, Bool.and_eq_false_iff, decide_eq_false_iff_not]
  omega

/-- A read of the window may use up a port's time stamp or the drive's fault record, nothing of the trust die. -/
theorem regRead_trust (s : State) (off : Nat) : (regRead s off).2.trust = s.trust := by
  have hport : ∀ p reg, (portRegRead s p reg).2.trust = s.trust := by
    intro p reg
    unfold portRegRead
    split <;> rfl
  have hstor : (storRegRead s off).2.trust = s.trust := by
    unfold storRegRead
    split
    iterate 4 · rfl
    · split
      · rfl
      · split <;> rfl
  unfold regRead
  iterate 4 (split; · rfl)
  split
  · exact hport _ _
  · split
    · rfl
    · split
      · exact hstor
      · rfl

/-- An aligned doubleword read in the management window is answered with the register (R160). -/
theorem coreAccess_window_read (s : State) (c space : Nat) {pa : Nat} (hlo : 0x00FE000000000000 ≤ pa)
    (hhi : pa < 0x00FE000000010000) (h8 : pa % 8 = 0) :
    coreAccess s c space pa 8 none =
      answerCore (regRead s (pa - 0x00FE000000000000)).2 0 (toBytes 8 (regRead s (pa - 0x00FE000000000000)).1) := by
  unfold coreAccess
  dsimp only
  rw [sysMem_eq_false (by omega) (by omega), if_neg (by decide), if_pos (by omega)]
  simp [h8]

/-- Addresses between the module's DRAM and host memory are nothing's: a read is answered with an error. -/
theorem coreAccess_unmapped (s : State) (c space : Nat) {pa len : Nat} (data : Option (List Byte)) (hlo : 2 ^ 38 ≤ pa)
    (hhi : pa < 2 ^ 52) (hlen : 0 < len) :
    coreAccess s c space pa len data = if data = none then answerCore s 1 [] else s := by
  unfold coreAccess
  dsimp only
  rw [sysMem_eq_false (by omega) (by omega), if_neg (by decide)]
  repeat rw [if_neg (by omega)]
  cases data <;> rfl

/-- Settles O53, register by register: each write is the part of the window that the offset names, and each part's
table gives the command or the field. -/
theorem windowRegisters : Obligations.WindowRegisters := by
  intro off c space pa len v data s hc
  have hcore := exec_systemCoreMemoryAccess hc space pa len data s
  obtain ⟨hdie, hfence, hsig, hrel⟩ := commandRegisters_command s v
  obtain ⟨hinstall, hrekey⟩ := keyRegister_command s v
  obtain ⟨hpost, hretire, hclose⟩ := ringRegister_command s v
  obtain ⟨hsptbase, hsptcount, hcsel, hclog, hplimit⟩ := mgmtRegisters_put s v
  obtain ⟨hflowbase, hflowcount, hrto, hslew⟩ := timeRegisters_put s v
  refine ⟨hdie, hfence, hsig, hrel, hinstall, hrekey, exec_write_doorbell s v, exec_write_timeset s v, exec_write_dqbase s v,
    exec_write_dqhead s v, hpost, hretire, hclose, hsptbase, hsptcount, hcsel, hclog, hplimit, hflowbase, hflowcount, hrto,
    hslew, puts_hqtail s v, fun i hi => puts_lwspace s v hi, fun p hp => portRegisters_put s v hp, fun k hk => puts_sspace s v hk,
    fun k hk => puts_svec s v hk, idles_of_takesNothing s v, ⟨_, hcore⟩, ?_, ?_⟩
  · rintro hlo hhi rfl rfl h8
    refine ⟨_, hcore, ?_⟩
    rw [coreAccess_window_read s c space hlo hhi h8, answerCore, regRead_trust]
  · intro hlo hhi hlen
    rw [hcore, coreAccess_unmapped s c space data hlo hhi hlen]
    rfl

end Sys2Proof.Machine

/-! PROOFS. Closing a region and waiting as a release (R255, R266, R272): what lets the acting thread pass both at once,
and what they leave of it. -/

namespace Sys2Proof.Machine

open Sys2Proof

/-! ### What the acting thread keeps -/

/-- Of the acting thread's record only the bookkeeping of its writes may differ: region, marked dies, pending release. -/
def KeepsThread (s t : State) : Prop :=
  t.cur = s.cur ∧ ∃ rgn dests rel, t.me = { s.me with rgn := rgn, dests := dests, rel := rel }

theorem KeepsThread.refl (s : State) : KeepsThread s s := ⟨rfl, _, _, _, rfl⟩

theorem KeepsThread.trans {s t u : State} (h : KeepsThread s t) (h' : KeepsThread t u) : KeepsThread s u := by
  obtain ⟨hcur, _, _, _, hme⟩ := h
  obtain ⟨hcur', rgn, dests, rel, hme'⟩ := h'
  exact ⟨hcur'.trans hcur, rgn, dests, rel, by rw [hme', hme]⟩

theorem KeepsThread.of_me_eq {s t : State} (hcur : t.cur = s.cur) (hme : t.me = s.me) : KeepsThread s t :=
  ⟨hcur, _, _, _, hme⟩

theorem keepsThread_dropRegion (s : State) : KeepsThread s (s.modMe Thread.dropRegion) :=
  ⟨rfl, _, _, _, State.me_modMe ..⟩

theorem keepsThread_setRel (s : State) (r : Option Release) : KeepsThread s (s.modMe (fun t => { t with rel := r })) :=
  ⟨rfl, _, _, _, State.me_modMe ..⟩

/-! ### Closing (R266) -/

theorem withSiding_of_idle {s : State} (h : sidingIdle s s.cur.1 s.cur.2 = true) (k : Eff) : withSiding s k = k := if_pos h

/-- No line of a removed page walks again. -/
theorem withGone_of_noneGone {s : State} (h : Claims.noneGone s) (n : Nat) (k : State → Eff) : withGone n s k = k s := by
  cases n with
  | zero => rfl
  | succ n =>
    have hfind : s.me.rgn.held.find? (fun e => e.2.gone) = none :=
      List.find?_eq_none.mpr fun e he => by simp [h e he]
    rw [withGone, hfind]

theorem closeRegion_of_none {s : State} {c k : Nat} (h : (closeRegion s c k).1 = none) :
    closeRegion s c k = (none, drainRegion s c k) := by
  unfold closeRegion at h ⊢
  split
  next x hx => rw [hx] at h; cases h
  next hc =>
    split
    next x hx => rw [hc] at h; simp only [hx] at h; cases h
    next => rfl

theorem withClose_of_closes {s : State} (h : Claims.closes s) (k : State → Eff) :
    withClose s k = k (drainRegion s s.cur.1 s.cur.2) := by
  obtain ⟨hidle, hheld, hgone, hclose⟩ := h
  unfold withClose
  rw [withSiding_of_idle hidle, hheld, if_neg (by decide), withGone_of_noneGone hgone, closeRegion_of_none hclose]

theorem drainRegion_of_held_nil {s : State} (h : s.me.rgn.held = []) :
    drainRegion s s.cur.1 s.cur.2 = s.modMe Thread.dropRegion := by
  rw [drainRegion, State.me_eq, h]
  rfl

theorem sidingIdle_modMe (s : State) {f : Thread → Thread} (hf : ∀ t, (f t).rpt = t.rpt) :
    sidingIdle (s.modMe f) s.cur.1 s.cur.2 = sidingIdle s s.cur.1 s.cur.2 := by
  have hseq : ((s.modMe f).core s.cur.1).seq = (s.core s.cur.1).seq := by
    rw [show s.modMe f = s.modThread s.cur.1 s.cur.2 f from rfl, State.core_modThread_self]
    rfl
  have hrpt : ((s.modMe f).thread s.cur.1 s.cur.2).rpt = (s.thread s.cur.1 s.cur.2).rpt :=
    (congrArg Thread.rpt (State.me_modMe s f)).trans (hf s.me)
  unfold sidingIdle
  rw [hseq, hrpt]

/-! ### Acknowledged writes on their way (R257) -/

/-- No write of a writer is in a path queue. -/
def NoWriteInPaths (w : Nat) (m : Memory) : Prop :=
  ∀ e ∈ m.paths, ∀ p ∈ e.2, p.writer = w → ∀ bs, p.op ≠ .write bs

theorem ackedPending_eq_false_iff (s : State) (c k : Nat) : ackedPending s c k = false ↔
    (∀ q ∈ (s.thread c k).wq, ∀ bs, q.op ≠ .store bs) ∧ NoWriteInPaths (writerOf c k) s.mem := by
  unfold ackedPending NoWriteInPaths
  rw [Bool.or_eq_false_iff, List.any_eq_false, List.any_eq_false]
  refine and_congr (forall₂_congr fun q _ => ?_) (forall₂_congr fun e _ => ?_)
  · cases q.op <;> simp
  · rw [List.any_eq_true]
    push Not
    refine forall₂_congr fun p _ => ?_
    cases p.op <;> simp

theorem ackedPending_modMe (s : State) {f : Thread → Thread} (hf : ∀ t, (f t).wq = t.wq) :
    ackedPending (s.modMe f) s.cur.1 s.cur.2 = ackedPending s s.cur.1 s.cur.2 := by
  have hwq : ((s.modMe f).thread s.cur.1 s.cur.2).wq = (s.thread s.cur.1 s.cur.2).wq :=
    (congrArg Thread.wq (State.me_modMe s f)).trans (hf s.me)
  unfold ackedPending
  rw [hwq]
  rfl

/-- A marker is no write. -/
theorem NoWriteInPaths.send {w : Nat} {m : Memory} (h : NoWriteInPaths w m) (key : Nat) {p : Packet}
    (hp : ∀ bs, p.op ≠ .write bs) : NoWriteInPaths w (m.send key p) := by
  intro e he q hq hw
  rcases AMap.mem_set he with rfl | he
  · rcases List.mem_append.mp hq with hq | hq
    · cases hget : AMap.get m.paths key with
      | none => simp [Memory.path, AMap.getD, hget] at hq
      | some ps =>
        rw [Memory.path, AMap.getD, hget] at hq
        exact h _ (AMap.mem_of_get _ _ _ hget) q hq hw
    · rw [List.mem_singleton.mp hq]
      exact hp
  · exact h e he q hq hw

theorem sendMarkers_me (s : State) (r : Release) : (sendMarkers s s.cur.1 s.cur.2 r).me =
    { s.me with dests := [], rel := some { r with sent := true, need := (markerPaths (dieOf s.cur.1) s.me.dests).length } } :=
  State.thread_modThread_self ..

theorem keepsThread_sendMarkers (s : State) (r : Release) : KeepsThread s (sendMarkers s s.cur.1 s.cur.2 r) :=
  ⟨rfl, _, _, _, sendMarkers_me s r⟩

theorem ackedPending_sendMarkers {s : State} (r : Release) (h : ackedPending s s.cur.1 s.cur.2 = false) :
    ackedPending (sendMarkers s s.cur.1 s.cur.2 r) s.cur.1 s.cur.2 = false := by
  obtain ⟨hwq, hpaths⟩ := (ackedPending_eq_false_iff ..).mp h
  refine (ackedPending_eq_false_iff ..).mpr ⟨?_, ?_⟩
  · exact (congrArg Thread.wq (sendMarkers_me s r)).symm ▸ hwq
  · exact foldl_inv (NoWriteInPaths _) _ (markerPaths (dieOf s.cur.1) s.me.dests)
      (fun m key _ hm => hm.send key (fun bs => PacketOp.noConfusion)) s.mem hpaths

/-! ### The wait of a release (R272) -/

/-- The release that an execution goes on with, or begins. -/
def releaseAt (s : State) (sc : Scope) : Release :=
  match s.me.rel with
  | some r => if r.pc = s.me.pc then r else { pc := s.me.pc, scope := sc, sent := false, need := 0 }
  | none => { pc := s.me.pc, scope := sc, sent := false, need := 0 }

/-- The wait has begun: at a wide scope, with no write queued, the markers are sent. -/
def releaseBegun (s : State) (sc : Scope) : State :=
  let s1 := s.modMe (fun t => { t with rel := some (releaseAt s sc) })
  if scopeWide sc && !(releaseAt s sc).sent && s1.me.wq.isEmpty then sendMarkers s1 s.cur.1 s.cur.2 (releaseAt s sc) else s1

theorem withRelease_of_done {s : State} {sc : Scope} {r : Release} (hidle : sidingIdle s s.cur.1 s.cur.2 = true)
    (hrel : (releaseBegun s sc).me.rel = some r) (hdone : releaseDone (releaseBegun s sc) s.cur.1 s.cur.2 r = true)
    (k : State → Eff) : withRelease s sc k = k ((releaseBegun s sc).modMe (fun t => { t with rel := none })) := by
  unfold withRelease
  rw [withSiding_of_idle hidle]
  change (match (releaseBegun s sc).me.rel with
    | some r2 => if releaseDone (releaseBegun s sc) s.cur.1 s.cur.2 r2 then k ((releaseBegun s sc).modMe _) else _
    | none => _) = _
  rw [hrel]
  exact if_pos hdone

theorem releaseBegun_disp (s : State) (sc : Scope) : (releaseBegun s sc).disp = s.disp := by
  unfold releaseBegun
  dsimp only
  split <;> rfl

theorem keepsThread_releaseBegun (s : State) (sc : Scope) : KeepsThread s (releaseBegun s sc) := by
  unfold releaseBegun
  dsimp only
  split
  · exact (keepsThread_setRel s _).trans (keepsThread_sendMarkers (s.modMe fun t => { t with rel := some (releaseAt s sc) }) _)
  · exact keepsThread_setRel s _

theorem ackedPending_releaseBegun {s : State} (sc : Scope) (h : ackedPending s s.cur.1 s.cur.2 = false) :
    ackedPending (releaseBegun s sc) s.cur.1 s.cur.2 = false := by
  have hset : ackedPending (s.modMe fun t => { t with rel := some (releaseAt s sc) }) s.cur.1 s.cur.2 = false :=
    (ackedPending_modMe s (f := fun t => { t with rel := some (releaseAt s sc) }) fun _ => rfl).trans h
  unfold releaseBegun
  dsimp only
  split
  · exact ackedPending_sendMarkers _ hset
  · exact hset

theorem scopeWide_iff (sc : Scope) : scopeWide sc = true ↔ sc = .mod ∨ sc = .sys := by cases sc <;> simp [scopeWide]

/-- Where a release that is free is a wide one, its markers have been gathered, or there is nothing to mark. -/
theorem releaseAt_of_releaseFree {s : State} {sc : Scope} (h : Claims.releaseFree s sc)
    (hwide : scopeWide (releaseAt s sc).scope = true) :
    ((releaseAt s sc).sent = true ∧ (releaseAt s sc).need ≤ AMap.getD s.mem.gathered (writerOf s.cur.1 s.cur.2) 0) ∨
      (scopeWide sc = true ∧ (releaseAt s sc).sent = false ∧ s.me.wq = [] ∧ s.me.dests = []) := by
  obtain ⟨-, -, hrel⟩ := h
  unfold releaseAt at hwide ⊢
  cases hr : s.me.rel with
  | none =>
    rw [hr] at hrel hwide
    obtain ⟨hwq, hdests⟩ := hrel ((scopeWide_iff sc).mp hwide)
    exact .inr ⟨hwide, rfl, hwq, hdests⟩
  | some r =>
    rw [hr] at hrel hwide
    obtain ⟨hpc, hsent⟩ := hrel
    simp only [hpc, if_true] at hwide ⊢
    exact .inl (hsent ((scopeWide_iff _).mp hwide))

theorem releaseDone_releaseBegun {s : State} {sc : Scope} (h : Claims.releaseFree s sc) :
    ∃ r, (releaseBegun s sc).me.rel = some r ∧ releaseDone (releaseBegun s sc) s.cur.1 s.cur.2 r = true := by
  have hacked := ackedPending_releaseBegun sc h.2.1
  have hwide := releaseAt_of_releaseFree h
  suffices hr : ∃ r, (releaseBegun s sc).me.rel = some r ∧ (scopeWide r.scope = true → r.sent = true ∧
      r.need ≤ AMap.getD (releaseBegun s sc).mem.gathered (writerOf s.cur.1 s.cur.2) 0) by
    obtain ⟨r, hrel, hdone⟩ := hr
    refine ⟨r, hrel, ?_⟩
    unfold releaseDone
    rw [hacked]
    cases hs : scopeWide r.scope with
    | false => rfl
    | true => simp [hdone hs]
  unfold releaseBegun
  dsimp only
  split
  next hsend =>
    refine ⟨_, congrArg Thread.rel (sendMarkers_me ..), fun hs => ⟨rfl, ?_⟩⟩
    rcases hwide hs with ⟨hsent, -⟩ | ⟨-, -, -, hdests⟩
    · simp [hsent] at hsend
    · simp [hdests, markerPaths]
  next hsend =>
    refine ⟨_, congrArg Thread.rel (State.me_modMe ..), fun hs => ?_⟩
    rcases hwide hs with hsent | ⟨hsc, hsent, hwq, -⟩
    · exact hsent
    · exact absurd (by simp [hsc, hsent, hwq]) hsend

/-- A release that is free passes at once. -/
theorem withRelease_of_releaseFree {s : State} {sc : Scope} (hidle : sidingIdle s s.cur.1 s.cur.2 = true)
    (h : Claims.releaseFree s sc) :
    ∃ t, KeepsThread s t ∧ t.disp = s.disp ∧ ∀ k, withRelease s sc k = k t := by
  obtain ⟨r, hrel, hdone⟩ := releaseDone_releaseBegun h
  exact ⟨_, (keepsThread_releaseBegun s sc).trans (keepsThread_setRel _ _), releaseBegun_disp s sc,
    withRelease_of_done hidle hrel hdone⟩

theorem releaseFree_dropRegion {s : State} {sc : Scope} (h : Claims.releaseFree s sc) :
    Claims.releaseFree (s.modMe Thread.dropRegion) sc := by
  obtain ⟨-, hacked, hrel⟩ := h
  unfold Claims.releaseFree
  rw [State.me_modMe]
  exact ⟨rfl, (ackedPending_modMe s (f := Thread.dropRegion) fun _ => rfl).trans hacked, hrel⟩

/-- A close and the release after it pass at once where both are free (R266, R272). -/
theorem closeRelease_of_closes {s : State} {sc : Scope} (hclose : Claims.closes s) (hfree : Claims.releaseFree s sc) :
    ∃ t, KeepsThread s t ∧ t.disp = s.disp ∧ ∀ k, closeRelease s sc k = k t := by
  have hdrain : ∀ k, closeRelease s sc k = withRelease (s.modMe Thread.dropRegion) sc k := fun k =>
    (withClose_of_closes hclose _).trans (by rw [drainRegion_of_held_nil hfree.1])
  have hidle : sidingIdle (s.modMe Thread.dropRegion) s.cur.1 s.cur.2 = true :=
    (sidingIdle_modMe s (f := Thread.dropRegion) fun _ => rfl).trans hclose.1
  obtain ⟨t, hkeeps, hdisp, hpass⟩ := withRelease_of_releaseFree hidle (releaseFree_dropRegion hfree)
  exact ⟨t, (keepsThread_dropRegion s).trans hkeeps, hdisp, fun k => (hdrain k).trans (hpass k)⟩

end Sys2Proof.Machine

/-! PROOFS. The ring instructions (R157, Table 6): what each of them answers, and the counters and states it moves. -/

namespace Sys2Proof.Machine

open Sys2Proof

/-! ### Instructions that act once per gang (07) -/

theorem notTolerant_of_closed {s : State} (h : s.me.tol.isOpen = false) (k : Eff) : notTolerant s k = k := by
  rw [notTolerant, h]
  rfl

theorem oncePerGang_of_not_follower {s : State} (h : s.me.follower = false) (d : Fin 64) (act : State → Eff) :
    oncePerGang d act s = act s := by
  rw [oncePerGang, h]
  rfl

/-- A lockstep follower takes the result that its leader's word carries. -/
theorem oncePerGang_of_forwarded {s : State} {e : Forward} {rest : List Forward} {next : Word} {v : Word}
    (hf : s.me.follower = true) (hfwd : s.me.fwd = e :: rest) (hnext : e.next = some next) (hres : e.result = some v)
    (d : Fin 64) (act : State → Eff) : oncePerGang d act s = .ok (s.wrG d.val v) := by
  simp only [oncePerGang, hf, hfwd, hnext, hres, if_true]

theorem run_ok {h : Hdr} {e : State → Eff} {s t : State} (hg : guardHolds s h = true) (he : e s = .ok t) :
    run h e s = Claims.retired h s t := congrArg Host.Outcome.next (finish_ok hg he)

theorem run_park {h : Hdr} {e : State → Eff} {s t : State} {p : Park} (hg : guardHolds s h = true)
    (he : e s = .park t p) : run h e s = .next (parkMe t p) := by
  simp [run, finish, hg, he]

theorem run_once {h : Hdr} {e : State → Eff} {s t : State} {v : Word} (hg : guardHolds s h = true)
    (he : e s = .once t v) : run h e s = .next (retireWith t (s.me.pc + 12) h.yields (some v)) := by
  simp [run, finish, hg, he]

theorem Thread.rdG_wrG (t : Thread) (a : Nat) (v : Word) (r : Nat) :
    (t.wrG a v).rdG r = if r = a ∧ r ≠ 0 then v else t.rdG r := by
  by_cases h0 : r = 0
  · simp [h0]
  · by_cases ha : r = a
    · subst ha
      simp [Thread.rdG_wrG_self t v h0, h0]
    · simp [Thread.rdG_wrG_of_ne t v ha, ha]

theorem myCore_near_retireWith_wrG (t : State) (a : Nat) (v pc : Word) (y : Bool) (res : Option Word) :
    (retireWith (t.wrG a v) pc y res).myCore.near = t.myCore.near := by
  obtain ⟨_, _, hcore⟩ := retireWith_core (t.wrG a v) pc y res t.cur.1
  have hwrG : ((t.wrG a v).core t.cur.1).near = (t.core t.cur.1).near := by
    rw [show t.wrG a v = t.modThread t.cur.1 t.cur.2 (fun x => x.wrG a v) from rfl, State.core_modThread_self]
    rfl
  calc (retireWith (t.wrG a v) pc y res).myCore.near
      = ((retireWith (t.wrG a v) pc y res).core t.cur.1).near := by rw [State.myCore, retireWith_cur, State.wrG_cur]
    _ = t.myCore.near := by rw [hcore]; exact hwrG

/-- The result of a gang's instruction goes to its register, and the thread's other registers stay. -/
theorem run_gangResult {h : Hdr} {e : State → Eff} {s t : State} {a : Fin 64} {v : Word} (hg : guardHolds s h = true)
    (he : e s = gangResult t a v) (hk : KeepsThread s t) :
    ∃ w, run h e s = .next w ∧ Claims.gives s w a v ∧ w.disp = t.disp ∧ w.myCore.near = t.myCore.near := by
  obtain ⟨hcur, rgn, dests, rel, hme⟩ := hk
  refine ⟨_, run_once hg he, ?_, retireWith_disp .., myCore_near_retireWith_wrG ..⟩
  have hw : (retireWith (t.wrG a.val v) (s.me.pc + 12) h.yields (some v)).me = (t.me.wrG a.val v).retire (s.me.pc + 12) := by
    rw [retireWith_me, State.wrG, State.me_modMe]
  unfold Claims.gives
  rw [hw]
  refine ⟨hcur ▸ retireWith_cur .., rfl, fun r => ?_, ?_, ?_, ?_, ?_, ?_⟩
  · rw [Thread.retire_rdG, Thread.rdG_wrG, hme]
    rfl
  all_goals simp [hme]

/-! ### Counts and slots of a ring (R36) -/

/-- The count that is k steps on from count i. -/
def countFrom (i k : Nat) : Nat := if k = 0 then i else (i + k) % 2 ^ 32

theorem countFrom_succ (i k : Nat) : countFrom ((i + 1) % 2 ^ 32) k = countFrom i (k + 1) := by
  unfold countFrom
  cases k with
  | zero => rfl
  | succ k =>
    rw [if_neg (by omega), if_neg (by omega)]
    omega

/-- A count advances while the slots are in the wanted state, not past the limit and not beyond its fuel. -/
theorem advanceOver_stops (r : Ring) (want limit fuel i : Nat) :
    ∃ k, k ≤ fuel ∧ advanceOver r want limit fuel i = countFrom i k ∧
      (∀ x, x < k → countFrom i x ≠ limit ∧ AMap.getD r.st (countFrom i x % ringSlots r) 0 = want) ∧
      (k = fuel ∨ countFrom i k = limit ∨ AMap.getD r.st (countFrom i k % ringSlots r) 0 ≠ want) := by
  induction fuel generalizing i with
  | zero => exact ⟨0, Nat.le_refl 0, rfl, fun x hx => absurd hx (Nat.not_lt_zero x), .inl rfl⟩
  | succ fuel ih =>
    rw [advanceOver]
    by_cases hlimit : i = limit
    · exact ⟨0, Nat.zero_le _, if_pos hlimit, fun x hx => absurd hx (Nat.not_lt_zero x), .inr (.inl hlimit)⟩
    rw [if_neg hlimit]
    by_cases hwant : AMap.getD r.st (i % ringSlots r) 0 = want
    · obtain ⟨k, hle, heq, hbefore, hstop⟩ := ih ((i + 1) % 2 ^ 32)
      simp only [countFrom_succ] at heq hbefore hstop
      refine ⟨k + 1, Nat.succ_le_succ hle, by rw [if_pos hwant, heq], fun x hx => ?_, hstop.imp_left (congrArg _)⟩
      cases x with
      | zero => exact ⟨hlimit, hwant⟩
      | succ x => exact hbefore x (Nat.lt_of_succ_lt_succ hx)
    · exact ⟨0, Nat.zero_le _, if_neg hwant, fun x hx => absurd hx (Nat.not_lt_zero x), .inr (.inr hwant)⟩

theorem slotOf_eq_none {r : Ring} {x : Word} (h : ∀ i, i < ringSlots r → x ≠ slotAddr r i) : slotOf r x = none := by
  refine if_neg fun ⟨hmod, hlt⟩ => h _ hlt ?_
  have hoff : (x - r.slots).toNat / 2 ^ (r.size + 6) * 2 ^ (r.size + 6) = (x - r.slots).toNat :=
    Nat.div_mul_cancel (Nat.dvd_of_mod_eq_zero hmod)
  rw [slotAddr, hoff, BitVec.ofNat_toNat, BitVec.setWidth_eq]
  rw [BitVec.add_comm, BitVec.sub_add_cancel]

theorem slotOf_slotAddr {r : Ring} {j : Nat} (hj : j < ringSlots r) (hfits : j * 2 ^ (r.size + 6) < 2 ^ 64) :
    slotOf r (slotAddr r j) = some j := by
  have hoff : (slotAddr r j - r.slots).toNat = j * 2 ^ (r.size + 6) := by
    rw [slotAddr, BitVec.add_comm, BitVec.add_sub_cancel, BitVec.toNat_ofNat, Nat.mod_eq_of_lt hfits]
  have hdiv : j * 2 ^ (r.size + 6) / 2 ^ (r.size + 6) = j := Nat.mul_div_cancel j (Nat.two_pow_pos _)
  simp only [slotOf, hoff, hdiv]
  exact if_pos ⟨Nat.mul_mod_left j _, hj⟩

/-! ### The rings of a stage -/

theorem myRing_congr {s t : State} (hk : KeepsThread s t) (hd : t.disp = s.disp) (out : Bool) :
    myRing t out = myRing s out := by
  obtain ⟨-, rgn, dests, rel, hme⟩ := hk
  unfold myRing stageNode State.node
  rw [hme, hd]

theorem keepsThread_setRing (s : State) (key : Nat) (r : Ring) : KeepsThread s (setRing s key r) :=
  KeepsThread.of_me_eq rfl rfl

/-- The selected ring is the stage's own on the side of the instruction. -/
theorem sideRing_of_side {s : State} {sel side : Bool} {key : Nat} {r : Ring} (h : myRing s sel = some (key, r))
    (hs : ∃ q, myRing s side = some q ∧ q.1 = key) : sideRing s sel side = some (key, r) := by
  obtain ⟨q, hq, hkey⟩ := hs
  simp [sideRing, h, hq, hkey]

theorem sideRing_of_not_side {s : State} {sel side : Bool} {key : Nat} {r : Ring} (h : myRing s sel = some (key, r))
    (hs : ¬ ∃ q, myRing s side = some q ∧ q.1 = key) : sideRing s sel side = none := by
  cases hq : myRing s side with
  | none => simp [sideRing, h, hq]
  | some q => simpa [sideRing, h, hq] using fun hkey : key = q.1 => hs ⟨q, hq, hkey.symm⟩

theorem sideRing_of_none {s : State} {sel side : Bool} (h : myRing s sel = none) : sideRing s sel side = none := by
  simp [sideRing, h]

/-- The members of a gang drop their near-cache lines; the dispatcher and every thread stay. -/
theorem gangAcquire_spec (s : State) :
    (gangAcquire s).cur = s.cur ∧ (gangAcquire s).disp = s.disp ∧ (gangAcquire s).me = s.me ∧ (gangAcquire s).myCore.near = [] := by
  have hclear : ∀ (t : State) (c : Nat), (nearClear t c).me = t.me :=
    fun t c => State.thread_modCore t c _ _ _ fun _ => rfl
  have hnear : ∀ (t : State) (c : Nat), (t.myCore.near = [] ∨ c = t.cur.1) → (nearClear t c).myCore.near = [] := by
    intro t c h
    by_cases hc : t.cur.1 = c
    · subst hc
      exact congrArg Core.near (State.core_modCore_self ..)
    · exact (congrArg Core.near (State.core_modCore_of_ne t _ hc)).trans (h.resolve_right (Ne.symm hc))
  refine foldl_inv (fun t : State => t.cur = s.cur ∧ t.disp = s.disp ∧ t.me = s.me ∧ t.myCore.near = [])
    (fun t m => nearClear t m.1) (gangMembers s s.me.place.gang) ?_ (nearClear s s.cur.1)
    ⟨rfl, rfl, hclear s _, hnear s _ (.inr rfl)⟩
  rintro t m - ⟨hcur, hdisp, hme, hn⟩
  exact ⟨hcur, hdisp, (hclear t _).trans hme, hnear t _ (.inl hn)⟩

/-! ### What each ring instruction comes to (R157, Table 6) -/

section Effects
variable {s : State} (u : Bool) (a b : Fin 64) {out : Bool} {key : Nat} {r : Ring}

section Leads
variable (htol : s.me.tol.isOpen = false) (hf : s.me.follower = false)
include htol hf

theorem effRingClaim_of_none (h : sideRing s out true = none) : effRingClaim u a out s = gangResult s a (-3) := by
  rw [effRingClaim, notTolerant_of_closed htol, oncePerGang_of_not_follower hf, h]
  rfl

theorem effRingClaim_of_full (h : sideRing s out true = some (key, r)) (hfull : idx32 r.claim r.free = ringSlots r) :
    effRingClaim u a out s = if u then gangResult s a (-1) else .park s .ring := by
  rw [effRingClaim, notTolerant_of_closed htol, oncePerGang_of_not_follower hf, h]
  exact if_pos hfull

theorem effRingClaim_of_room (h : sideRing s out true = some (key, r)) (hroom : idx32 r.claim r.free ≠ ringSlots r) :
    effRingClaim u a out s = gangResult (setRing s key (ringClaimed r).2) a (ringClaimed r).1 := by
  rw [effRingClaim, notTolerant_of_closed htol, oncePerGang_of_not_follower hf, h]
  exact if_neg hroom

theorem effRingTake_of_none (h : sideRing s out false = none) : effRingTake u a out s = gangResult s a (-3) := by
  rw [effRingTake, notTolerant_of_closed htol, oncePerGang_of_not_follower hf, h]
  rfl

theorem effRingTake_of_done (h : sideRing s out false = some (key, r)) (hempty : r.post = r.take)
    (hdone : producerDone s r (key % 2 ^ 64) = true) : effRingTake u a out s = gangResult s a (-2) := by
  rw [effRingTake, notTolerant_of_closed htol, oncePerGang_of_not_follower hf, h]
  exact (if_pos hempty).trans (if_pos hdone)

theorem effRingTake_of_empty (h : sideRing s out false = some (key, r)) (hempty : r.post = r.take)
    (hdone : producerDone s r (key % 2 ^ 64) = false) :
    effRingTake u a out s = if u then gangResult s a (-1) else .park s .ring := by
  rw [effRingTake, notTolerant_of_closed htol, oncePerGang_of_not_follower hf, h]
  exact (if_pos hempty).trans (if_neg (by rw [hdone]; decide))

theorem effRingTake_of_posted (h : sideRing s out false = some (key, r)) (hposted : r.post ≠ r.take) :
    effRingTake u a out s = gangResult (gangAcquire (setRing s key (ringTaken r).2)) a (ringTaken r).1 := by
  rw [effRingTake, notTolerant_of_closed htol, oncePerGang_of_not_follower hf, h]
  exact if_neg hposted

theorem effRingFree_of_none (h : myRing s false = none) : effRingFree a b s = gangResult s a 1 := by
  rw [effRingFree, notTolerant_of_closed htol, oncePerGang_of_not_follower hf, h]

theorem effRingFree_of_no_slot (h : myRing s false = some (key, r)) (hslot : slotOf r (s.rdG b.val) = none) :
    effRingFree a b s = gangResult s a 1 := by
  rw [effRingFree, notTolerant_of_closed htol, oncePerGang_of_not_follower hf, h]
  simp only [hslot]

theorem effRingFree_of_slot {j : Nat} (h : myRing s false = some (key, r)) (hslot : slotOf r (s.rdG b.val) = some j) :
    effRingFree a b s =
      if AMap.getD r.st j 0 = 3 then gangResult (setRing s key (ringFreed r j)) a 0 else gangResult s a 1 := by
  rw [effRingFree, notTolerant_of_closed htol, oncePerGang_of_not_follower hf, h]
  simp only [hslot]

theorem effRingPost_of_none (hclose : Claims.closes s) (hfree : Claims.releaseFree s .mod) (h : myRing s true = none) :
    ∃ t, KeepsThread s t ∧ t.disp = s.disp ∧ effRingPost a b s = gangResult t a 1 := by
  obtain ⟨t, hk, hd, hpass⟩ := closeRelease_of_closes hclose hfree
  refine ⟨t, hk, hd, ?_⟩
  rw [effRingPost, notTolerant_of_closed htol, oncePerGang_of_not_follower hf, hpass, myRing_congr hk hd, h]

theorem effRingPost_of_no_slot (hclose : Claims.closes s) (hfree : Claims.releaseFree s .mod)
    (h : myRing s true = some (key, r)) (hslot : slotOf r (s.rdG b.val) = none) :
    ∃ t, KeepsThread s t ∧ t.disp = s.disp ∧ effRingPost a b s = gangResult t a 1 := by
  obtain ⟨t, hk, hd, hpass⟩ := closeRelease_of_closes hclose hfree
  refine ⟨t, hk, hd, ?_⟩
  rw [effRingPost, notTolerant_of_closed htol, oncePerGang_of_not_follower hf, hpass, myRing_congr hk hd, h]
  simp only [hslot]

theorem effRingPost_of_slot {j : Nat} (hclose : Claims.closes s) (hfree : Claims.releaseFree s .mod)
    (h : myRing s true = some (key, r)) (hslot : slotOf r (s.rdG b.val) = some j) :
    ∃ t, KeepsThread s t ∧ t.disp = s.disp ∧ effRingPost a b s =
      if AMap.getD r.st j 0 = 1 then gangResult (setRing t key (ringPosted r j)) a 0 else gangResult t a 1 := by
  obtain ⟨t, hk, hd, hpass⟩ := closeRelease_of_closes hclose hfree
  refine ⟨t, hk, hd, ?_⟩
  rw [effRingPost, notTolerant_of_closed htol, oncePerGang_of_not_follower hf, hpass, myRing_congr hk hd, h]
  simp only [hslot]

end Leads

theorem effRingStat_of_none (hf : s.me.follower = false) (h : myRing s out = none) :
    effRingStat a out s = gangResult s a (-3) := by
  rw [effRingStat, oncePerGang_of_not_follower hf, h]
  rfl

theorem effRingStat_of_some (hf : s.me.follower = false) (h : myRing s out = some (key, r)) : effRingStat a out s =
    gangResult s a (BitVec.ofNat 64 (idx32 r.claim r.free * 2 ^ 32 + idx32 r.post r.take)) := by
  rw [effRingStat, oncePerGang_of_not_follower hf, h]

end Effects

/-! ### Answers and moves -/

/-- The instruction retires with a result, and every ring stays. -/
def Answers (s : State) (a : Fin 64) (i : Instr) (v : Word) : Prop :=
  ∃ w, exec i s = .next w ∧ Claims.gives s w a v ∧ w.disp.rings = s.disp.rings

/-- The instruction retires with a result, and of the rings only the one under a key changes. -/
def MovesRing (s : State) (a : Fin 64) (key : Nat) (i : Instr) (v : Word) (p : Ring → State → Prop) : Prop :=
  ∃ w r', exec i s = .next w ∧ Claims.gives s w a v ∧ AMap.get w.disp.rings key = some r' ∧ p r' w ∧
    ∀ k, k ≠ key → AMap.get w.disp.rings k = AMap.get s.disp.rings k

section Outcomes
variable {h : Hdr} {e : State → Eff} {i : Instr} {s t : State} {a : Fin 64} {v : Word}

theorem Answers.of_gangResult (hi : exec i s = run h e s) (hg : guardHolds s h = true) (he : e s = gangResult t a v)
    (hk : KeepsThread s t) (hd : t.disp = s.disp) : Answers s a i v := by
  obtain ⟨w, hrun, hgives, hdisp, -⟩ := run_gangResult hg he hk
  exact ⟨w, hi.trans hrun, hgives, by rw [hdisp, hd]⟩

theorem Answers.of_same (hi : exec i s = run h e s) (hg : guardHolds s h = true) (he : e s = gangResult s a v) :
    Answers s a i v := .of_gangResult hi hg he (.refl s) rfl

theorem MovesRing.of_gangResult {key : Nat} {r' : Ring} {p : Ring → State → Prop} (hi : exec i s = run h e s)
    (hg : guardHolds s h = true) (he : e s = gangResult t a v) (hk : KeepsThread s t)
    (hd : t.disp.rings = AMap.set s.disp.rings key r') (hp : ∀ w : State, w.myCore.near = t.myCore.near → p r' w) :
    MovesRing s a key i v p := by
  obtain ⟨w, hrun, hgives, hdisp, hnear⟩ := run_gangResult hg he hk
  refine ⟨w, r', hi.trans hrun, hgives, ?_, hp w hnear, fun k hne => ?_⟩ <;> rw [hdisp, hd]
  · exact AMap.get_set_self ..
  · exact AMap.get_set_of_ne _ _ hne

end Outcomes

/-! ### The instructions by the ring that they find -/

section Instructions
variable {h : Hdr} {s : State} {out : Bool} {key : Nat} {r : Ring} (u : Bool) (a b : Fin 64)
  (hg : guardHolds s h = true) (htol : s.me.tol.isOpen = false) (hf : s.me.follower = false)
include hg htol hf

theorem ringClaim_room (hs : sideRing s out true = some (key, r)) (hroom : idx32 r.claim r.free ≠ ringSlots r) :
    MovesRing s a key (.ringClaim h u a out) (slotAddr r (r.claim % ringSlots r)) (fun r' _ => r' =
      { r with st := AMap.set r.st (r.claim % ringSlots r) 1, claim := (r.claim + 1) % 2 ^ 32 }) :=
  .of_gangResult rfl hg (effRingClaim_of_room u a htol hf hs hroom) (keepsThread_setRing s key _) rfl fun _ _ => rfl

theorem ringTake_posted (hs : sideRing s out false = some (key, r)) (hposted : r.post ≠ r.take) :
    MovesRing s a key (.ringTake h u a out) (slotAddr r (r.take % ringSlots r)) (fun r' w => r' =
      { r with st := AMap.set r.st (r.take % ringSlots r) 3, take := (r.take + 1) % 2 ^ 32 } ∧ w.myCore.near = []) := by
  obtain ⟨hcur, hdisp, hme, hnear⟩ := gangAcquire_spec (setRing s key (ringTaken r).2)
  exact .of_gangResult rfl hg (effRingTake_of_posted u a htol hf hs hposted) (.of_me_eq hcur hme)
    (congrArg Disp.rings hdisp) fun _ hw => ⟨rfl, hw.trans hnear⟩

/-- A freed slot is empty, and the free count follows over the empty slots as far as the take count. -/
theorem ringFree_slot {j : Nat} (hs : myRing s false = some (key, r)) (hslot : slotOf r (s.rdG b.val) = some j) :
    (AMap.getD r.st j 0 ≠ 3 → Answers s a (.ringFree h a b) 1) ∧
    (AMap.getD r.st j 0 = 3 → MovesRing s a key (.ringFree h a b) 0 (fun r' _ => ∃ p,
      r' = { r with st := AMap.set r.st j 0, free := p } ∧
      Claims.advances (ringSlots r) (AMap.set r.st j 0) 0 r.take r.free p)) := by
  have heff := effRingFree_of_slot a b htol hf hs hslot
  refine ⟨fun hst => .of_same rfl hg (heff.trans (if_neg hst)), fun hst => ?_⟩
  exact .of_gangResult rfl hg (heff.trans (if_pos hst)) (keepsThread_setRing s key _) rfl
    fun _ _ => ⟨_, rfl, advanceOver_stops { r with st := AMap.set r.st j 0 } 0 r.take (ringSlots r) r.free⟩

/-- A posted slot is full, and the post count follows over the full slots as far as the claim count. -/
theorem ringPost_slot {j : Nat} (hclose : Claims.closes s) (hfree : Claims.releaseFree s .mod)
    (hs : myRing s true = some (key, r)) (hslot : slotOf r (s.rdG b.val) = some j) :
    (AMap.getD r.st j 0 ≠ 1 → Answers s a (.ringPost h a b) 1) ∧
    (AMap.getD r.st j 0 = 1 → MovesRing s a key (.ringPost h a b) 0 (fun r' _ => ∃ p,
      r' = { r with st := AMap.set r.st j 2, post := p } ∧
      Claims.advances (ringSlots r) (AMap.set r.st j 2) 2 r.claim r.post p)) := by
  obtain ⟨t, hk, hd, heff⟩ := effRingPost_of_slot a b htol hf hclose hfree hs hslot
  refine ⟨fun hst => .of_gangResult rfl hg (heff.trans (if_neg hst)) hk hd, fun hst => ?_⟩
  exact .of_gangResult rfl hg (heff.trans (if_pos hst)) (hk.trans (keepsThread_setRing t key _))
    (congrArg (fun d : Disp => AMap.set d.rings key (ringPosted r j)) hd)
    fun _ _ => ⟨_, rfl, advanceOver_stops { r with st := AMap.set r.st j 2 } 2 r.claim (ringSlots r) r.post⟩

theorem ringPost_answers_one (hclose : Claims.closes s) (hfree : Claims.releaseFree s .mod)
    (hs : myRing s true = none ∨ ∃ key r, myRing s true = some (key, r) ∧ slotOf r (s.rdG b.val) = none) :
    Answers s a (.ringPost h a b) 1 := by
  obtain hnone | ⟨key, r, hsome, hslot⟩ := hs
  · obtain ⟨t, hk, hd, heff⟩ := effRingPost_of_none a b htol hf hclose hfree hnone
    exact .of_gangResult rfl hg heff hk hd
  · obtain ⟨t, hk, hd, heff⟩ := effRingPost_of_no_slot a b htol hf hclose hfree hsome hslot
    exact .of_gangResult rfl hg heff hk hd

end Instructions

/-- Each ring instruction of a lockstep follower writes the result that its leader's word carries. -/
theorem ring_forwarded {h : Hdr} {s : State} {e : Forward} {rest : List Forward} {next v : Word}
    (hg : guardHolds s h = true) (htol : s.me.tol.isOpen = false) (hf : s.me.follower = true)
    (hfwd : s.me.fwd = e :: rest) (hnext : e.next = some next) (hres : e.result = some v) (u out : Bool) (a b : Fin 64) :
    exec (.ringClaim h u a out) s = Claims.retired h s (s.wrG a.val v) ∧
    exec (.ringTake h u a out) s = Claims.retired h s (s.wrG a.val v) ∧
    exec (.ringStat h a out) s = Claims.retired h s (s.wrG a.val v) ∧
    exec (.ringPost h a b) s = Claims.retired h s (s.wrG a.val v) ∧
    exec (.ringFree h a b) s = Claims.retired h s (s.wrG a.val v) := by
  have htakes : ∀ act, oncePerGang a act s = .ok (s.wrG a.val v) := oncePerGang_of_forwarded hf hfwd hnext hres a
  have hclosed : ∀ act, notTolerant s (oncePerGang a act s) = .ok (s.wrG a.val v) :=
    fun act => (notTolerant_of_closed htol _).trans (htakes act)
  exact ⟨run_ok (e := effRingClaim u a out) hg (hclosed _), run_ok (e := effRingTake u a out) hg (hclosed _),
    run_ok (e := effRingStat a out) hg (htakes _), run_ok (e := effRingPost a b) hg (hclosed _),
    run_ok (e := effRingFree a b) hg (hclosed _)⟩

/-- Settles O25: a leading thread's instruction is decided by the ring that it finds on its side and by the slot that its
address names; a lockstep follower takes its leader's result. -/
theorem ringInstructions : Obligations.RingInstructions := by
  intro h u out a b s key r j hg htol
  refine ⟨fun hf => ⟨fun hnone => ?_, fun hnone => ?_, fun hnone hclose hfree => ?_, fun hsome => ?_, fun hsome => ?_,
    fun hsome hclose hfree => ?_⟩, ?_⟩
  · exact ⟨Answers.of_same rfl hg (effRingClaim_of_none u a htol hf (sideRing_of_none hnone)),
      Answers.of_same rfl hg (effRingTake_of_none u a htol hf (sideRing_of_none hnone)),
      Answers.of_same rfl hg (effRingStat_of_none a hf hnone)⟩
  · exact Answers.of_same rfl hg (effRingFree_of_none a b htol hf hnone)
  · exact ringPost_answers_one a b hg htol hf hclose hfree (.inl hnone)
  · refine ⟨fun hside => ?_, fun hside => ?_, fun hside hfull => ⟨?_, ?_⟩, fun hside hroom => ?_,
      fun hside hempty hdone => ?_, fun hside hempty hdone => ⟨?_, ?_⟩, fun hside hposted => ?_, ?_⟩
    · exact Answers.of_same rfl hg (effRingClaim_of_none u a htol hf (sideRing_of_not_side hsome hside))
    · exact Answers.of_same rfl hg (effRingTake_of_none u a htol hf (sideRing_of_not_side hsome hside))
    · exact Answers.of_same rfl hg (effRingClaim_of_full true a htol hf (sideRing_of_side hsome hside) hfull)
    · exact run_park hg (effRingClaim_of_full false a htol hf (sideRing_of_side hsome hside) hfull)
    · exact ringClaim_room u a hg htol hf (sideRing_of_side hsome hside) hroom
    · exact Answers.of_same rfl hg (effRingTake_of_done u a htol hf (sideRing_of_side hsome hside) hempty hdone)
    · exact Answers.of_same rfl hg (effRingTake_of_empty true a htol hf (sideRing_of_side hsome hside) hempty hdone)
    · exact run_park hg (effRingTake_of_empty false a htol hf (sideRing_of_side hsome hside) hempty hdone)
    · exact ringTake_posted u a hg htol hf (sideRing_of_side hsome hside) hposted
    · exact Answers.of_same rfl hg (effRingStat_of_some a hf hsome)
  · refine ⟨fun hother => ?_, fun hj hfits haddr => ?_⟩
    · exact Answers.of_same rfl hg (effRingFree_of_no_slot a b htol hf hsome (slotOf_eq_none hother))
    · exact ringFree_slot a b hg htol hf hsome (haddr.symm ▸ slotOf_slotAddr hj hfits)
  · refine ⟨fun hother => ?_, fun hj hfits haddr => ?_⟩
    · exact ringPost_answers_one a b hg htol hf hclose hfree (.inr ⟨key, r, hsome, slotOf_eq_none hother⟩)
    · exact ringPost_slot a b hg htol hf hclose hfree hsome (haddr.symm ▸ slotOf_slotAddr hj hfits)
  · intro e rest next v hf hfwd hnext hres
    exact ring_forwarded hg htol hf hfwd hnext hres u out a b

end Sys2Proof.Machine

/-! PROOFS. The instruction word (04): the decoder reads back what the encoder writes, for every form at every operand
(R66-R76), and the words that the tables write out. -/

namespace Sys2Proof

open Laws

/-! ### The fields of every form (R66-R76) -/

/-- The lemmas of the single forms, gathered; an event has no fields. -/
theorem ofFields_toFields (i : Instr) : RoundTrip.Statement i := by
  cases i with
  | add => apply RoundTrip.add | sub => apply RoundTrip.sub | mul => apply RoundTrip.mul | mulh => apply RoundTrip.mulh
  | mad => apply RoundTrip.mad | div => apply RoundTrip.div | rem => apply RoundTrip.rem | and => apply RoundTrip.and
  | or => apply RoundTrip.or | xor => apply RoundTrip.xor | andn => apply RoundTrip.andn | shl => apply RoundTrip.shl
  | shr => apply RoundTrip.shr | rot => apply RoundTrip.rot | min => apply RoundTrip.min | max => apply RoundTrip.max
  | abs => apply RoundTrip.abs | clz => apply RoundTrip.clz | ctz => apply RoundTrip.ctz | pop => apply RoundTrip.pop
  | bext => apply RoundTrip.bext | bins => apply RoundTrip.bins | extI => apply RoundTrip.extI
  | mov => apply RoundTrip.mov | li => apply RoundTrip.li | lih => apply RoundTrip.lih | lpc => apply RoundTrip.lpc
  | sel => apply RoundTrip.sel | cmp => apply RoundTrip.cmp | plog => apply RoundTrip.plog
  | pmov => apply RoundTrip.pmov | pget => apply RoundTrip.pget | br => apply RoundTrip.br | brl => apply RoundTrip.brl
  | jr => apply RoundTrip.jr | jrl => apply RoundTrip.jrl | dbr => apply RoundTrip.dbr | ctlRd => apply RoundTrip.ctlRd
  | ctlWr => apply RoundTrip.ctlWr | ctlSet => apply RoundTrip.ctlSet | ctlClr => apply RoundTrip.ctlClr
  | trap => apply RoundTrip.trap | eret => apply RoundTrip.eret | sysc => apply RoundTrip.sysc
  | halt => apply RoundTrip.halt | nop => apply RoundTrip.nop | yieldI => apply RoundTrip.yieldI
  | ifence => apply RoundTrip.ifence | ifenceFill => apply RoundTrip.ifenceFill | gangShed => apply RoundTrip.gangShed
  | gangJoin => apply RoundTrip.gangJoin | demand => apply RoundTrip.demand | settle => apply RoundTrip.settle
  | bshare => apply RoundTrip.bshare | bmov => apply RoundTrip.bmov | grade => apply RoundTrip.grade
  | sensLd => apply RoundTrip.sensLd | sensLdReset => apply RoundTrip.sensLdReset | ld => apply RoundTrip.ld
  | st => apply RoundTrip.st | ldAcq => apply RoundTrip.ldAcq | stRel => apply RoundTrip.stRel
  | ldWf => apply RoundTrip.ldWf | stWe => apply RoundTrip.stWe | tagRd => apply RoundTrip.tagRd
  | tagFull => apply RoundTrip.tagFull | tagEmpty => apply RoundTrip.tagEmpty | pref => apply RoundTrip.pref
  | cfl => apply RoundTrip.cfl | cflEvict => apply RoundTrip.cflEvict | cinv => apply RoundTrip.cinv
  | cinvAll => apply RoundTrip.cinvAll | fence => apply RoundTrip.fence | fenceAcq => apply RoundTrip.fenceAcq
  | fenceRel => apply RoundTrip.fenceRel | region => apply RoundTrip.region | regionForce => apply RoundTrip.regionForce
  | regionDrop => apply RoundTrip.regionDrop | ldPair => apply RoundTrip.ldPair | stPair => apply RoundTrip.stPair
  | launch => apply RoundTrip.launch | doneI => apply RoundTrip.doneI | nexttile => apply RoundTrip.nexttile
  | ringClaim => apply RoundTrip.ringClaim | ringPost => apply RoundTrip.ringPost | ringTake => apply RoundTrip.ringTake
  | ringFree => apply RoundTrip.ringFree | ringStat => apply RoundTrip.ringStat | copy => apply RoundTrip.copy
  | copyDeal => apply RoundTrip.copyDeal | shutQ => apply RoundTrip.shutQ | shutQDrop => apply RoundTrip.shutQDrop
  | copyResume => apply RoundTrip.copyResume | mx => apply RoundTrip.mx | accZero => apply RoundTrip.accZero
  | cnPut => apply RoundTrip.cnPut | cnGet => apply RoundTrip.cnGet | cnGetRef => apply RoundTrip.cnGetRef
  | cnRef => apply RoundTrip.cnRef | cnUnref => apply RoundTrip.cnUnref | cnNode => apply RoundTrip.cnNode
  | cnSwap => apply RoundTrip.cnSwap | cnRoot => apply RoundTrip.cnRoot | cnRootRef => apply RoundTrip.cnRootRef
  | cnOut => apply RoundTrip.cnOut | cnCfg => apply RoundTrip.cnCfg | cnCfgStat => apply RoundTrip.cnCfgStat
  | amo => apply RoundTrip.amo | amoCas => apply RoundTrip.amoCas | red => apply RoundTrip.red
  | bupd => apply RoundTrip.bupd | bupdR => apply RoundTrip.bupdR | bcfg => apply RoundTrip.bcfg
  | vbupd => apply RoundTrip.vbupd | barInit => apply RoundTrip.barInit | barArr => apply RoundTrip.barArr
  | barWait => apply RoundTrip.barWait | barTest => apply RoundTrip.barTest | tbar => apply RoundTrip.tbar
  | nred => apply RoundTrip.nred | wait => apply RoundTrip.wait | pause => apply RoundTrip.pause
  | msgSend => apply RoundTrip.msgSend | hatchPut => apply RoundTrip.hatchPut | hatchGet => apply RoundTrip.hatchGet
  | hatchFree => apply RoundTrip.hatchFree | jobPoll => apply RoundTrip.jobPoll
  | jobPollAcq => apply RoundTrip.jobPollAcq | jobCancel => apply RoundTrip.jobCancel | vld => apply RoundTrip.vld
  | vst => apply RoundTrip.vst | vadd => apply RoundTrip.vadd | vsub => apply RoundTrip.vsub
  | vmul => apply RoundTrip.vmul | vfma => apply RoundTrip.vfma | vfms => apply RoundTrip.vfms
  | vnfma => apply RoundTrip.vnfma | vmin => apply RoundTrip.vmin | vmax => apply RoundTrip.vmax
  | vabs => apply RoundTrip.vabs | vneg => apply RoundTrip.vneg | vcvt => apply RoundTrip.vcvt
  | vsum => apply RoundTrip.vsum | vdot => apply RoundTrip.vdot | vcmp => apply RoundTrip.vcmp
  | vsel => apply RoundTrip.vsel | vand => apply RoundTrip.vand | vor => apply RoundTrip.vor
  | vxor => apply RoundTrip.vxor | vshl => apply RoundTrip.vshl | vshr => apply RoundTrip.vshr
  | vbcast => apply RoundTrip.vbcast | vext => apply RoundTrip.vext | vins => apply RoundTrip.vins
  | vpack => apply RoundTrip.vpack | vunpack => apply RoundTrip.vunpack | vperm => apply RoundTrip.vperm
  | vmr => apply RoundTrip.vmr | vlog => apply RoundTrip.vlog | valog => apply RoundTrip.valog
  | vexp2 => apply RoundTrip.vexp2 | vlog2 => apply RoundTrip.vlog2 | vrcp => apply RoundTrip.vrcp
  | vsqrt => apply RoundTrip.vsqrt | vrsqrt => apply RoundTrip.vrsqrt | vpow => apply RoundTrip.vpow
  | vsigm => apply RoundTrip.vsigm | vtanh => apply RoundTrip.vtanh | scfg => apply RoundTrip.scfg
  | sbind => apply RoundTrip.sbind | sfree => apply RoundTrip.sfree | vrpt => apply RoundTrip.vrpt
  | vsync => apply RoundTrip.vsync | ctxSave => apply RoundTrip.ctxSave | ctxLoad => apply RoundTrip.ctxLoad
  | ctxDrop => apply RoundTrip.ctxDrop
  | _ => exact fun _ _ hf => nomatch hf

/-! ### The checks of R75 in the full context -/

theorem featureOf_lt (op : Nat) : featureOf op < 16 := by
  unfold featureOf
  iterate 13 refine iteInduction (motive := (· < 16)) (fun _ => by decide) fun _ => ?_
  decide

/-- A mask with every feature bit lacks none that a word needs (04 Table 8). -/
theorem missing_full (op ty : Nat) : missing DecodeCtx.full.mask op ty = none := by
  have hbit : ∀ b < 16, DecodeCtx.full.mask.testBit b = true := by decide
  have hfilter : ∀ l : List Nat, (∀ b ∈ l, b < 16) → l.filter (fun b => !DecodeCtx.full.mask.testBit b) = [] := by
    intro l hl
    refine List.filter_eq_nil_iff.mpr fun b hb => ?_
    rw [hbit b (hl b hb)]
    decide
  have hneed : ∀ b ∈ [featureOf op] ++ (if ty = 12 then [2] else []) ++ (if ty = 11 then [14] else []), b < 16 := by
    have := featureOf_lt op
    split_ifs <;> simp [this]
  exact congrArg List.min? (hfilter _ hneed)

/-- In the full context a word is refused only for itself: fields that read without a fault are the instruction. -/
theorem decodeFields_full {f : Fields} {i : Instr} (h : ofFields Lim.full f = some (V.ok i)) :
    decodeFields DecodeCtx.full f = .instr i := by
  have hlim : DecodeCtx.full.lim = Lim.full := rfl
  have hhandler : DecodeCtx.full.handler = true := rfl
  simp only [decodeFields, hlim, hhandler, h, missing_full, V.ok_errs, V.ok_val, List.min?_nil, Bool.not_true,
    Bool.and_false, Bool.false_eq_true, if_false]
  cases ctlOf i <;> rfl

/-! ### A word as twelve bytes (R66) -/

/-- The bytes of a word from byte o on, put together again: the number's digits to base 256. -/
theorem foldr_bytes (w : InstrWord) (o n : Nat) :
    ((List.range' o n).map (fun i => w.extractLsb' (8 * i) 8)).foldr (fun b n => b.toNat + 256 * n) 0 =
      w.toNat / 256 ^ o % 256 ^ n := by
  induction n generalizing o with
  | zero => simp [Nat.mod_one]
  | succ n ih =>
    have hbyte : (w.extractLsb' (8 * o) 8).toNat = w.toNat / 256 ^ o % 256 := by
      rw [BitVec.extractLsb'_toNat, Nat.shiftRight_eq_div_pow, Nat.pow_mul]
    rw [List.range'_succ, List.map_cons, List.foldr_cons, ih, hbyte, Nat.pow_succ, ← Nat.div_div_eq_div_mul,
      Nat.pow_succ' (n := n), Nat.mod_mul]

theorem wordOfBytes_bytesOfWord (w : InstrWord) : wordOfBytes (bytesOfWord w) = w := by
  have hw : w.toNat % 256 ^ 12 = w.toNat := Nat.mod_eq_of_lt w.isLt
  rw [wordOfBytes, bytesOfWord, List.range_eq_range', foldr_bytes, Nat.pow_zero, Nat.div_one, hw, BitVec.ofNat_toNat,
    BitVec.setWidth_eq]

theorem length_bytesOfWord (w : InstrWord) : (bytesOfWord w).length = 12 := by simp [bytesOfWord]

theorem decodeTableWord_toNat (w : InstrWord) :
    decodeTableWord 96 w.toNat = match decode DecodeCtx.full w with
      | .instr i => some i
      | .trap .. => none := by
  have hw : BitVec.ofNat 96 (w.toNat % 2 ^ 96) = w := by rw [Nat.mod_eq_of_lt w.isLt]; simp
  have htake : (bytesOfWord w).take 12 = bytesOfWord w := List.take_of_length_le (length_bytesOfWord w).le
  rw [decodeTableWord, hw, decodeBytes, if_neg (by rw [length_bytesOfWord]; decide), htake, wordOfBytes_bytesOfWord]
  cases decode DecodeCtx.full w <;> rfl

/-! ### Decoding an encoded instruction -/

theorem decode_encode {i : Instr} {w : InstrWord} (hwf : WellFormed i) (h : encode i = some w) :
    decode DecodeCtx.full w = .instr i := by
  obtain ⟨f, hf, rfl⟩ := Option.map_eq_some_iff.mp h
  rw [decode, unpack_pack]
  exact decodeFields_full (ofFields_toFields i hwf f hf)

theorem decodeTableWord_of_encode {i : Instr} {w : InstrWord} (hwf : WellFormed i) (h : encode i = some w) :
    decodeTableWord 96 w.toNat = some i := by
  rw [decodeTableWord_toNat, decode_encode hwf h]

/-- Settles O57: the fields of a packed word are the fields (`unpack_pack`), each form's fields read back without a
fault, and the full context refuses nothing else. -/
theorem decodeEncode : Obligations.DecodeEncode :=
  fun _ _ hwf h => ⟨decode_encode hwf h, decodeTableWord_of_encode hwf h⟩

/-! ### Words written out from the tables (04) -/

/-- A word of the tables is given by its number. -/
theorem decodeTableWord_of_number {i : Instr} {n : Nat} (hn : n < 2 ^ 96) (hwf : WellFormed i)
    (h : encode i = some (BitVec.ofNat 96 n)) : decodeTableWord 96 n = some i := by
  have ht := decodeTableWord_of_encode hwf h
  rwa [BitVec.toNat_ofNat, Nat.mod_eq_of_lt hn] at ht

/-- Settles O56: four of the words are the encodings of their instructions; the other three are refused for the opcode, a
reserved bit and the type. -/
theorem decodeWords : Obligations.DecodeWords := by
  refine ⟨?add, ?ld, ?nop, ?vadd, ?opcode, ?reserved, ?type⟩
  case add => exact decodeTableWord_of_number (by decide) (by decide) (by decide)
  case ld => exact decodeTableWord_of_number (by decide) (by decide) (by decide)
  case nop => exact decodeTableWord_of_number (by decide) (by decide) (by decide)
  case vadd => exact decodeTableWord_of_number (by decide) (by decide) (by decide)
  case opcode => decide
  case reserved => decide
  case type => decide

end Sys2Proof

/-! PROOFS. The guard of an instruction (R70): which operation runs each form, and what it does under a false guard. -/

namespace Sys2Proof.Machine

open Sys2Proof

/-! ### Running under a guard (R70) -/

/-- An outcome under the guard of h: the machine goes on, and a false guard only retires, where `may` allows the
instruction and no leader resolves its branch. -/
def Guarded (h : Hdr) (s : State) (may : Prop) (o : Host.Outcome State Fault Refusal) : Prop :=
  (guardHolds s h = false → s.me.follower = false → may → o = .next (retire s (s.me.pc + 12) false)) ∧
    ∃ t, o = .next t

section Guards
variable {h : Hdr} {s : State} {may : Prop} (e : State → Eff)

theorem run_false (hg : guardHolds s h = false) : run h e s = .next (retire s (s.me.pc + 12) false) :=
  congrArg _ (finish_false e hg)

theorem Guarded.run : Guarded h s may (run h e s) := ⟨fun hg _ _ => run_false e hg, _, rfl⟩

/-- A guard of p0 holds. -/
theorem guardHolds_p0 (h : Hdr) (s : State) (y : Bool) :
    guardHolds s { h with pred := 0, inv := false, yields := y } = true := rfl

/-- A branch under a false guard goes on at the next instruction, as one that is not taken (R200). -/
theorem runBranch_false (hg : guardHolds s h = false) (hf : s.me.follower = false) :
    runBranch h e s = .next (retire s (s.me.pc + 12) false) := by
  have hr : resolve s s (s.me.pc + 12) = .jump s (s.me.pc + 12) := by simp [resolve, hf]
  rw [runBranch, hg, if_neg Bool.false_ne_true]
  exact congrArg _ (finish_jump (guardHolds_p0 h s false) hr)

theorem Guarded.runBranch : Guarded h s may (runBranch h e s) := by
  refine ⟨fun hg hf _ => runBranch_false e hg hf, ?_⟩
  unfold Machine.runBranch
  split <;> exact ⟨_, rfl⟩

/-- A control register is checked before the guard (R75, R217). -/
theorem Guarded.runCtl (op : Nat) {n : CtlNum} (hmay : may → s.me.priv = true ∨ n.hidden = false) :
    Guarded h s may (runCtl op n h e s) := by
  constructor
  · intro hg _ hm
    have hopen : (n.hidden && !s.me.priv) = false := by rcases hmay hm with h1 | h1 <;> simp [h1]
    rw [Machine.runCtl, hopen, if_neg Bool.false_ne_true, run_false e hg]
  · unfold Machine.runCtl
    split <;> exact ⟨_, rfl⟩

/-- A handler-only instruction is checked before the guard (R75, R83). -/
theorem Guarded.runHandler (op : Nat) (hmay : may → s.me.priv = true) : Guarded h s may (runHandler op h e s) := by
  constructor
  · intro hg _ hm
    rw [Machine.runHandler, hmay hm, if_pos rfl, run_false e hg]
  · unfold Machine.runHandler
    split <;> exact ⟨_, rfl⟩

/-- Under a false guard `pause` does not sleep. -/
theorem Guarded.pause (a : GSrc) : Guarded h s may (execPause h a s) := by
  refine ⟨fun hg _ _ => ?_, _, rfl⟩
  have hfin : finish { h with yields := true } effPause s = retire s (s.me.pc + 12) false := finish_false effPause hg
  simp [execPause, hfin, hg]

end Guards

/-! ### Every form (R70) -/

theorem hidden_eq_handlerOnly (n : CtlNum) : n.hidden = Claims.handlerOnly n := by cases n <;> rfl

/-- Branches, accesses of control registers, handler-only instructions and `pause` have their own operations; every other
form is one `run`, and an event has no function field. -/
theorem exec_guarded {i : Instr} {h : Hdr} (s : State) (hh : Claims.header i = some h) :
    Guarded h s (s.me.priv = true ∨ Claims.privileged i = false) (exec i s) := by
  have hctl : ∀ n, s.me.priv = true ∨ Claims.handlerOnly n = false → s.me.priv = true ∨ n.hidden = false :=
    fun n h => by rwa [hidden_eq_handlerOnly]
  have hpriv : s.me.priv = true ∨ true = false → s.me.priv = true := fun h => h.resolve_right (by decide)
  cases i with
  | br | brl | jr | jrl | dbr => cases hh; exact .runBranch _
  | ctlRd | ctlWr | ctlSet | ctlClr => cases hh; exact .runCtl _ _ (hctl _)
  | eret | halt | cnCfg | cnCfgStat | ctxLoad | ctxDrop => cases hh; exact .runHandler _ _ hpriv
  | pause => cases hh; exact .pause _
  | yieldI => cases hh; exact (Guarded.run effYieldI : Guarded { h with yields := true } s _ _)
  | _ => cases hh <;> exact .run _

/-- Settles O54: each form runs under its guard by one of five operations, and each of them retires when the guard is
false and always answers a next state. -/
theorem falseGuard : Obligations.FalseGuard := fun _ _ s hh => exec_guarded s hh

end Sys2Proof.Machine

/-! PROOFS. The register files of a thread (R74, R126, R202): reads after writes, and what a write leaves. -/

namespace Sys2Proof.Machine

open Sys2Proof

theorem Thread.rdP_wrP (t : Thread) (n : Nat) (q : Bool) (m : Nat) :
    (t.wrP n q).rdP m = if m = n ∧ m ≠ 0 then q else t.rdP m := by
  by_cases h0 : m = 0
  · simp [h0]
  · by_cases hn : m = n
    · subst hn
      simp [t.rdP_wrP_self q h0, h0]
    · simp [t.rdP_wrP_of_ne q hn, hn]

theorem Thread.rdB_wrB (t : Thread) (n : Nat) (x : BitVec 16) (m : Nat) :
    (t.wrB n x).rdB m = if m = n ∧ m ≠ 0 then budgetMask x else t.rdB m := by
  by_cases h0 : m = 0
  · simp [h0]
  · by_cases hn : m = n
    · subst hn
      simp [t.rdB_wrB_self x h0, h0]
    · simp [t.rdB_wrB_of_ne x hn, hn]

@[simp] theorem State.me_wrG (s : State) (n : Nat) (v : Word) : (s.wrG n v).me = s.me.wrG n v := s.me_modMe _
@[simp] theorem State.me_wrP (s : State) (n : Nat) (q : Bool) : (s.wrP n q).me = s.me.wrP n q := s.me_modMe _
@[simp] theorem State.me_wrB (s : State) (n : Nat) (x : BitVec 16) : (s.wrB n x).me = s.me.wrB n x := s.me_modMe _

theorem State.rdG_wrG (s : State) (n m : Nat) (v : Word) :
    (s.wrG n v).rdG m = if m = n ∧ m ≠ 0 then v else s.rdG m := by
  rw [State.rdG, State.me_wrG, Thread.rdG_wrG, State.rdG]

theorem State.rdP_wrP (s : State) (n m : Nat) (q : Bool) :
    (s.wrP n q).rdP m = if m = n ∧ m ≠ 0 then q else s.rdP m := by
  rw [State.rdP, State.me_wrP, Thread.rdP_wrP, State.rdP]

theorem State.rdB_wrB (s : State) (n m : Nat) (x : BitVec 16) :
    (s.wrB n x).rdB m = if m = n ∧ m ≠ 0 then budgetMask x else s.rdB m := by
  rw [State.rdB, State.me_wrB, Thread.rdB_wrB, State.rdB]

/-- Settles O55: the files are the acting thread's own, so reads and the frame are those of its record, and no other
thread's record is written. -/
theorem registerFiles : Obligations.RegisterFiles := by
  intro n m v x q s
  refine ⟨s.rdG_wrG n m v, rfl, s.rdP_wrP n m q, rfl, s.rdB_wrB n m x, rfl, rfl, ?_, ?_, ?_, ?_, ?_, rfl,
    fun c k h => s.thread_setThread_of_ne _ h⟩
  all_goals rw [State.me_wrG]; simp

end Sys2Proof.Machine

/-! PROOFS. One step of the acting thread (R75, R151, R162, R237): what being seated and going back to lockstep leave of
it, and that the step is the act of its next word. -/

namespace Sys2Proof.Machine

open Sys2Proof

/-! ### Going back to lockstep (R170) -/

/-- Beside how a gang holds its members, the threads, the pools, module memory and whose turn it is stay. -/
structure GangOnly (s t : State) : Prop where
  cur : t.cur = s.cur
  mem : t.mem = s.mem
  pool : ∀ c, (t.core c).pool = (s.core c).pool
  thread : ∀ c k, ∃ solo hold, t.thread c k = { s.thread c k with solo := solo, hold := hold }

theorem GangOnly.refl (s : State) : GangOnly s s := ⟨rfl, rfl, fun _ => rfl, fun _ _ => ⟨_, _, rfl⟩⟩

theorem GangOnly.trans {s t u : State} (h : GangOnly s t) (h' : GangOnly t u) : GangOnly s u := by
  refine ⟨h'.cur.trans h.cur, h'.mem.trans h.mem, fun c => (h'.pool c).trans (h.pool c), fun c k => ?_⟩
  obtain ⟨_, _, e⟩ := h.thread c k
  obtain ⟨solo, hold, e'⟩ := h'.thread c k
  exact ⟨solo, hold, by rw [e', e]⟩

/-- A thread update leaves everything of every core but slots. -/
theorem core_modThread (s : State) (c k : Nat) (f : Thread → Thread) (c' : Nat) :
    ∃ sl, (s.modThread c k f).core c' = { s.core c' with slots := sl } := by
  by_cases h : c' = c
  · subst h
    exact ⟨_, State.core_modThread_self ..⟩
  · exact ⟨_, State.core_modThread_of_ne _ _ _ h⟩

theorem pool_modThread (s : State) (c k c' : Nat) (f : Thread → Thread) :
    ((s.modThread c k f).core c').pool = (s.core c').pool := by
  obtain ⟨_, h⟩ := core_modThread s c k f c'
  rw [h]

theorem GangOnly.modThread (s : State) (c k : Nat) {f : Thread → Thread}
    (hf : ∀ t, ∃ solo hold, f t = { t with solo := solo, hold := hold }) : GangOnly s (s.modThread c k f) := by
  refine ⟨rfl, rfl, fun c' => pool_modThread s c k c' f, fun c' k' => ?_⟩
  by_cases h : (c', k') = (c, k)
  · obtain ⟨rfl, rfl⟩ := Prod.mk.inj h
    rw [State.thread_modThread_self]
    exact hf _
  · rw [State.thread_modThread_of_ne _ _ h]
    exact ⟨_, _, rfl⟩

theorem gangOnly_rejoin (s : State) (c k : Nat) : GangOnly s (rejoin s c k) := by
  have hsolo : ∀ s c k, GangOnly s (s.modThread c k (fun t => { t with solo := false })) :=
    fun s c k => .modThread s c k fun _ => ⟨_, _, rfl⟩
  have hhold : ∀ s c k, GangOnly s (s.modThread c k (fun t => { t with hold := none })) :=
    fun s c k => .modThread s c k fun _ => ⟨_, _, rfl⟩
  unfold rejoin
  dsimp only
  split
  · split
    · split
      · split
        · exact hsolo ..
        · exact (hsolo ..).trans (hhold ..)
      · exact .refl s
    · exact hsolo ..
  · split
    · exact hhold ..
    · exact .refl s

/-! ### Being seated (R195) -/

theorem seat_pool (s : State) (c k : Nat) : ((seat s c k).core c).pool = (s.core c).pool := by
  unfold seat
  rw [pool_modThread, State.core_setCore_self]

/-- The seated thread counts a cycle. -/
theorem seat_thread (s : State) (c k : Nat) : (seat s c k).thread c k =
    { s.thread c k with ctl := { (s.thread c k).ctl with cycles := (s.thread c k).ctl.cycles + 1 } } := by
  unfold seat
  rw [State.thread_modThread_self, State.thread, State.core_setCore_self]
  rfl

/-! ### The word of the acting thread (R162) -/

section Word
variable {s : State} {c k : Nat}

/-! What R162 and R237 forbid, in their order -/

theorem fetchTrap_misaligned {pc : Word} (h : pc.toNat % 4 ≠ 0) :
    fetchTrap s c pc = some { cause := 0x04, addr := pc, info := 12 } := if_pos h

theorem fetchTrap_beyond {pc : Word} (h4 : pc.toNat % 4 = 0) (h : (s.core c).sill.toNat < pc.toNat + 12) :
    fetchTrap s c pc = some { cause := 0x08, addr := pc, info := 0 } := by
  rw [fetchTrap, if_neg (not_not.mpr h4), if_pos h]

theorem fetchTrap_poisoned {pc : Word} (h4 : pc.toNat % 4 = 0) (h : pc.toNat + 12 ≤ (s.core c).sill.toNat)
    (hp : (s.core c).poisoned pc.toNat 12 = true) :
    fetchTrap s c pc = some { cause := 0x11, addr := winAddr pc.toNat, info := 1 } := by
  rw [fetchTrap, if_neg (not_not.mpr h4), if_neg (not_lt.mpr h), if_pos hp]

theorem fetchTrap_none {pc : Word} (h4 : pc.toNat % 4 = 0) (h : pc.toNat + 12 ≤ (s.core c).sill.toNat)
    (hp : (s.core c).poisoned pc.toNat 12 = false) : fetchTrap s c pc = none := by
  rw [fetchTrap, if_neg (not_not.mpr h4), if_neg (not_lt.mpr h), hp, if_neg Bool.false_ne_true]

/-- Nothing comes before the word at pc, and the thread fetches it itself: no interrupt is pending, the thread is not in
the resident stub, no meter has reached its budget, and no leader forwards the word. -/
structure WordNext (t : Thread) : Prop where
  irq : pendingIrq t = none
  stub : t.inStub = false
  meter : t.pend.meter = none
  own : t.follower = false

theorem threadStep_word (h : WordNext (s.thread c k)) : threadStep s c k = threadStep.runWord s c k := by
  unfold threadStep
  dsimp only
  rw [h.irq]
  dsimp only
  rw [h.stub, if_neg Bool.false_ne_true]

theorem crownTrap_none (h : WordNext (s.thread c k)) :
    (if effectUnderWay (s.thread c k) then none else crownTrap (s.thread c k)) = none := by
  simp [crownTrap, h.meter]

theorem threadStep_fetchTrap (h : WordNext (s.thread c k)) {e : TrapInfo}
    (he : fetchTrap s c (s.thread c k).pc = some e) : threadStep s c k = .next (takeTrap s c k e false) := by
  have hd : fetchDecode s c k = .inr e := by
    simp only [fetchDecode, h.own, Bool.false_eq_true, if_false, he]
  rw [threadStep_word h, threadStep.runWord, crownTrap_none h, hd]

/-- The word that the thread's pool holds at its pc. -/
def wordAtPc (s : State) (c k : Nat) : InstrWord := wordOfBytes ((s.core c).bytes (s.thread c k).pc.toNat 12)

theorem fetchDecode_fetched (h : WordNext (s.thread c k)) (he : fetchTrap s c (s.thread c k).pc = none) :
    fetchDecode s c k = .inl (decode (decodeCtx s c k) (wordAtPc s c k)) := by
  simp only [fetchDecode, fetchWord, wordAtPc, h.own, Bool.false_eq_true, if_false, he]

theorem threadStep_instr (h : WordNext (s.thread c k)) (he : fetchTrap s c (s.thread c k).pc = none) {i : Instr}
    (hd : decode (decodeCtx s c k) (wordAtPc s c k) = .instr i) :
    threadStep s c k = exec i (forwardWord s c k) := by
  rw [threadStep_word h, threadStep.runWord, crownTrap_none h, fetchDecode_fetched h he, hd]

theorem threadStep_decodeTrap (h : WordNext (s.thread c k)) (he : fetchTrap s c (s.thread c k).pc = none)
    {cause info : Nat} (hd : decode (decodeCtx s c k) (wordAtPc s c k) = .trap cause info) :
    threadStep s c k =
      .next (takeTrap (forwardWord s c k) c k { cause := cause, addr := 0, info := BitVec.ofNat 64 info } true) := by
  rw [threadStep_word h, threadStep.runWord, crownTrap_none h, fetchDecode_fetched h he, hd]

theorem seatedStep_runs (h : canRun s c k = true) : seatedStep s c k = threadStep s c k := if_pos h

/-- A gang may leave the seated thread nothing to run yet. -/
theorem seatedStep_waits (h : canRun s c k = false) : seatedStep s c k = .next s := by
  rw [seatedStep, h, if_neg Bool.false_ne_true]

/-- A thread alone passes its word to nobody (R169). -/
theorem forwardWord_alone (h : (s.thread c k).place.gsize ≤ 1) : forwardWord s c k = s := by
  have hl : (s.thread c k).lockstep = false := by simp [Thread.lockstep, Nat.not_lt.mpr h]
  simp [forwardWord, forwardOnce, hl]

end Word

/-! ### The step of the thread whose turn it is (R151, R381) -/

theorem chargeDram_of_noTraffic {old : Memory} {x : State} (who : Option (Nat × Nat)) (h : dramBytes old x.mem = 0) :
    chargeDram old who x = x := by
  unfold chargeDram
  rw [h]
  cases who <;> rfl

/-- The state of the acting thread when its step begins: it is seated, and back in lockstep where its gang allows. -/
def begins (s : State) (c k : Nat) : State := rejoin (seat { s with turn := true } c k) c k

theorem gangOnly_begins (s : State) (c k : Nat) : GangOnly (seat { s with turn := true } c k) (begins s c k) :=
  gangOnly_rejoin _ c k

theorem begins_pool (s : State) (c k : Nat) : ((begins s c k).core c).pool = (s.core c).pool :=
  ((gangOnly_begins s c k).pool c).trans (seat_pool _ c k)

theorem begins_registers (s : State) (c k : Nat) : ((begins s c k).thread c k).pc = (s.thread c k).pc ∧
    ((begins s c k).thread c k).g = (s.thread c k).g := by
  obtain ⟨_, _, ht⟩ := (gangOnly_begins s c k).thread c k
  rw [ht, seat_thread]
  exact ⟨rfl, rfl⟩

/-- A step that comes to an outcome, its traffic charged to a stage and one cycle passed. -/
def StepGives (s : State) (who : Option (Nat × Nat)) (o : Host.Outcome State Fault Refusal) : Prop :=
  (∀ x, o = .next x → step s = .next { chargeDram s.mem who x with
    time := timeAfter s.time (chargeDram s.mem who x).time }) ∧
  (∀ e, o = .fault e → step s = .fault e) ∧ (∀ e, o = .refused e → step s = .refused e)

section Acting
variable {s : State} {c k : Nat} {rest : List Nat} (hagenda : s.agenda = []) (hturn : s.turn = false)
  (hsched : s.sched = c :: rest) (hchoose : chooseSlot s c = some k) (hpipe : (s.core c).pipe.active = false)
include hagenda hturn hsched hchoose hpipe

theorem act_of_acting : act s = charged s (slotStage s c k) (seatedStep (begins s c k) c k) := by
  have hacting : acting s = some (c, k) := by simp [acting, hsched, hchoose]
  simp only [act, begins, hagenda, hturn, Bool.false_eq_true, if_false, hacting, hpipe]

theorem step_of_acting {o : Host.Outcome State Fault Refusal} (ho : seatedStep (begins s c k) c k = o) :
    StepGives s (slotStage s c k) o := by
  have hpower : powersOn s = false := by simp [powersOn, hagenda]
  have hact := act_of_acting hagenda hturn hsched hchoose hpipe
  rw [ho] at hact
  refine ⟨?_, ?_, ?_⟩ <;> rintro x rfl <;> simp [step, timed, hact, charged, hpower, passTime]

end Acting

/-- Settles O58: the acting thread is seated and goes back to lockstep, which leaves its registers, the pool and memory;
then its step is its fetch, its decode and the act of the instruction, in that order. -/
theorem stepRunsDecoded : Obligations.StepRunsDecoded := by
  intro c k rest s hagenda hturn hsched hchoose hpipe
  have hgang := gangOnly_begins s c k
  obtain ⟨hpc, hg⟩ := begins_registers s c k
  have hgives {o} (ho : seatedStep (begins s c k) c k = o) : StepGives s (slotStage s c k) o :=
    step_of_acting hagenda hturn hsched hchoose hpipe ho
  refine ⟨hgang.cur, hpc, hg, begins_pool s c k, hgang.mem, fun x => chargeDram_of_noTraffic _,
    fun hrun => hgives (seatedStep_waits hrun), ?_⟩
  intro hrun hirq hstub hmeter hown
  have hword : WordNext ((begins s c k).thread c k) := ⟨hirq, hstub, hmeter, hown⟩
  have hgoes {o} (ho : threadStep (begins s c k) c k = o) : StepGives s (slotStage s c k) o :=
    hgives ((seatedStep_runs hrun).trans ho)
  refine ⟨fun h4 => ?misaligned, fun h4 hnot => ?beyond, fun ⟨h4, hsill⟩ hspoilt => ?poisoned,
    fun ⟨h4, hsill⟩ hspoilt i hd => ?instr, fun ⟨h4, hsill⟩ hspoilt cause info hd => ?trap, forwardWord_alone⟩
  case misaligned => exact hgoes (threadStep_fetchTrap hword (fetchTrap_misaligned h4))
  case beyond =>
    have hsill := not_le.mp fun hle => hnot ⟨h4, hle⟩
    exact hgoes (threadStep_fetchTrap hword (fetchTrap_beyond h4 hsill))
  case poisoned => exact hgoes (threadStep_fetchTrap hword (fetchTrap_poisoned h4 hsill hspoilt))
  case instr => exact hgoes (threadStep_instr hword (fetchTrap_none h4 hsill hspoilt) hd)
  case trap => exact hgoes (threadStep_decodeTrap hword (fetchTrap_none h4 hsill hspoilt) hd)

end Sys2Proof.Machine

/-! PROOFS. Control registers (R78, R217-R221; 04 Table 6, 10 Table 9): what a read sees of an update of the state, what a
write stores, and the four instructions at both privileges. -/

namespace Sys2Proof.Machine

open Sys2Proof

/-! ### Bits of a written word -/

theorem and_lowBits_toNat (v : Word) (i : Nat) (hi : i ≤ 64) :
    (v &&& BitVec.ofNat 64 (2 ^ i - 1)).toNat = v.toNat % 2 ^ i := by
  have h : 2 ^ i ≤ 2 ^ 64 := Nat.pow_le_pow_right (by decide) hi
  have hp : 0 < 2 ^ i := Nat.two_pow_pos i
  rw [BitVec.toNat_and, BitVec.toNat_ofNat, Nat.mod_eq_of_lt (by omega), Nat.and_two_pow_sub_one_eq_mod]

/-- A field of the low n bits keeps them. -/
theorem setWidth_setWidth_eq_and (v : Word) (n : Nat) (hn : n ≤ 64) :
    (v.setWidth n).setWidth 64 = v &&& BitVec.ofNat 64 (2 ^ n - 1) := by
  apply BitVec.eq_of_toNat_eq
  have h : v.toNat % 2 ^ n < 2 ^ 64 := (Nat.mod_le _ _).trans_lt v.isLt
  rw [and_lowBits_toNat v n hn, BitVec.toNat_setWidth, BitVec.toNat_setWidth, Nat.mod_eq_of_lt h]

/-- A word without its low two bits is the word rounded down to a multiple of 4. -/
theorem alignDown_toNat (v : Word) : (v &&& ~~~3).toNat = v.toNat - v.toNat % 4 := by
  have hor : (v &&& ~~~3) ||| (v &&& 3) = v := by
    rw [← BitVec.and_or_distrib_left, show ~~~3 ||| 3 = BitVec.allOnes 64 from rfl, BitVec.and_allOnes]
  have hand : (v &&& ~~~3) &&& (v &&& 3) = 0#64 := by
    rw [BitVec.and_assoc, ← BitVec.and_assoc (~~~3), BitVec.and_comm (~~~3) v, BitVec.and_assoc,
      show ~~~3 &&& 3 = 0#64 from rfl, BitVec.and_zero, BitVec.and_zero]
  have hlow : (v &&& 3).toNat = v.toNat % 4 := and_lowBits_toNat v 2 (by decide)
  have hsum := BitVec.add_eq_or_of_and_eq_zero _ _ hand
  rw [hor] at hsum
  have := congrArg BitVec.toNat hsum
  rw [BitVec.toNat_add_of_and_eq_zero hand, hlow] at this
  omega

/-! ### xstat (R426) -/

/-- The seven bits of xstat: imsg, itimer, the pending message and timer, ie, pie and ppriv. -/
def xstatWord (imsg itimer msg timer ie pie ppriv : Bool) : Word :=
  BitVec.ofNat 64 (flagAt imsg 9 + flagAt itimer 8 + flagAt msg 5 + flagAt timer 4 + flagAt ie 2 + flagAt pie 1 +
    flagAt ppriv 0)

theorem xstatVal_eq (t : Thread) : BitVec.ofNat 64 (xstatVal t) =
    xstatWord t.ctl.imsg t.ctl.itimer t.pend.msg t.pend.timer t.ctl.ie t.ctl.pie t.ctl.ppriv := rfl

/-- The bits that a write of xstat takes, and the bits that it leaves. -/
theorem xstatWord_join : ∀ imsg itimer msg timer ie pie ppriv : Bool, xstatWord imsg itimer msg timer ie pie ppriv =
    xstatWord imsg itimer false false ie pie ppriv ||| xstatWord false false msg timer false false false := by decide

theorem xstatWord_pending : ∀ imsg itimer msg timer ie pie ppriv : Bool,
    xstatWord imsg itimer msg timer ie pie ppriv &&& 0x30 = xstatWord false false msg timer false false false := by decide

theorem xstatWord_noTimer : ∀ imsg itimer msg timer ie pie ppriv : Bool,
    xstatWord imsg itimer msg timer ie pie ppriv &&& ~~~0x10 = xstatWord imsg itimer msg false ie pie ppriv := by decide

theorem and_xstatBits (v : Word) : v &&& 0x307 =
    xstatWord (v.getLsbD 9) (v.getLsbD 8) false false (v.getLsbD 2) (v.getLsbD 1) (v.getLsbD 0) := by
  have hmask : (0x307 : Word) = .twoPow 64 9 ||| .twoPow 64 8 ||| .twoPow 64 2 ||| .twoPow 64 1 ||| .twoPow 64 0 := by decide
  have hbits : ∀ b9 b8 b2 b1 b0 : Bool,
      (if b9 then BitVec.twoPow 64 9 else 0#64) ||| (if b8 then .twoPow 64 8 else 0#64) |||
      (if b2 then .twoPow 64 2 else 0#64) ||| (if b1 then .twoPow 64 1 else 0#64) ||| (if b0 then .twoPow 64 0 else 0#64) =
      xstatWord b9 b8 false false b2 b1 b0 := by decide
  simp only [hmask, BitVec.and_or_distrib_left, BitVec.and_twoPow]
  exact hbits _ _ _ _ _

/-! ### What a read sees of an update -/

/-- The registers that stand in a thread's control file, xstat with its pending bits. -/
def fileRead (t : Thread) : CtlNum → Option Word
  | .xpc => some t.ctl.xpc
  | .xcause => some (t.ctl.xcause.setWidth 64)
  | .xaddr => some t.ctl.xaddr
  | .xinfo => some t.ctl.xinfo
  | .xvec => some t.ctl.xvec
  | .xstat => some (BitVec.ofNat 64 (xstatVal t))
  | .xscratch => some t.ctl.xscratch
  | .ptime => some t.ctl.ptime
  | .cycles => some t.ctl.cycles
  | .frm => some (t.ctl.frm.setWidth 64)
  | .fflags => some (t.ctl.fflags.setWidth 64)
  | .srseed => some t.ctl.srseed
  | .rsplits => some t.ctl.rsplits
  | _ => none

theorem ctlRead_eq_fileRead (s : State) (c k : Nat) (m : CtlNum) :
    ctlRead s c k m = (fileRead (s.thread c k) m).getD (ctlRead s c k m) := by
  cases m <;> rfl

section Reads
variable (s : State) (c k : Nat)

/-- An update of the thread that leaves its pc, its placement, its region and its tolerance shows in its control file
only. -/
theorem ctlRead_modThread {f : Thread → Thread} (m : CtlNum)
    (hpc : ∀ t, (f t).pc = t.pc := by exact fun _ => rfl) (hplace : ∀ t, (f t).place = t.place := by exact fun _ => rfl)
    (hrgn : ∀ t, (f t).rgn = t.rgn := by exact fun _ => rfl) (htol : ∀ t, (f t).tol = t.tol := by exact fun _ => rfl) :
    ctlRead (s.modThread c k f) c k m = (fileRead (f (s.thread c k)) m).getD (ctlRead s c k m) := by
  have hcore : ∀ {α : Type} (p : Core → α), (∀ x sl, p { x with slots := sl } = p x) → ∀ c',
      p ((s.modThread c k f).core c') = p (s.core c') := by
    intro α p hp c'
    obtain ⟨sl, h⟩ := core_modThread s c k f c'
    rw [h, hp]
  have hpart := hcore Core.part (fun _ _ => rfl) c
  have hsill := hcore Core.sill (fun _ _ => rfl) c
  have hhold := hcore Core.hold (fun _ _ => rfl) c
  have hlowered := hcore Core.lowered (fun _ _ => rfl) (partnerOf c)
  have hlanes := hcore Core.lanes (fun _ _ => rfl) (laneCore c)
  cases m <;> simp [ctlRead, fileRead, hpc, hplace, hrgn, htol, hpart, hsill, gangVal, blindVal, hhold, transomVal, laneOf,
    hlanes, hlowered, stageNode, State.node]

/-- An update of the core's sill and hold shows in sill and blind only. -/
theorem ctlRead_modCore {f : Core → Core} (m : CtlNum)
    (hslots : ∀ x, (f x).slots = x.slots := by exact fun _ => rfl)
    (hpart : ∀ x, (f x).part = x.part := by exact fun _ => rfl)
    (hlowered : ∀ x, (f x).lowered = x.lowered := by exact fun _ => rfl)
    (hlanes : ∀ x, (f x).lanes = x.lanes := by exact fun _ => rfl) :
    ctlRead (s.modCore c f) c k m =
      if m = .sill then (f (s.core c)).sill
      else if m = .blind then BitVec.ofNat 64 (flagAt (upperDie c && (f (s.core c)).hold) 8 + flagAt (upperDie c) 0)
      else ctlRead s c k m := by
  have hthread : (s.modCore c f).thread c k = s.thread c k := State.thread_modCore s c c k f hslots
  have hcore : ∀ {α : Type} (p : Core → α), (∀ x, p (f x) = p x) →
      ∀ c', p ((s.modCore c f).core c') = p (s.core c') := by
    intro α p hp c'
    by_cases h : c' = c
    · subst h
      rw [State.core_modCore_self, hp]
    · rw [State.core_modCore_of_ne _ _ h]
  have hpartner := hcore Core.lowered hlowered (partnerOf c)
  have hlower := hcore Core.lanes hlanes (laneCore c)
  cases m <;> simp [ctlRead, hthread, hpart, blindVal, transomVal, laneOf, hlower, hpartner, stageNode, State.node]

theorem thread_modNode (l i : Nat) (f : Node → Node) (c' k' : Nat) : (s.modNode l i f).thread c' k' = s.thread c' k' := by
  rw [State.thread, State.core, State.modNode_cores]
  rfl

theorem core_modNode (l i : Nat) (f : Node → Node) (c' : Nat) : (s.modNode l i f).core c' = s.core c' := by
  rw [State.core, State.modNode_cores]
  rfl

theorem node_modNode_self (l i : Nat) (f : Node → Node) : (s.modNode l i f).node l i = (s.node l i).map f := by
  cases hl : AMap.get s.disp.launches l with
  | none => simp [State.modNode, State.node, hl]
  | some x =>
    cases hn : AMap.get x.nodes i with
    | none => simp [State.modNode, State.node, hl, hn]
    | some y => simp [State.modNode, State.node, hl, hn]

/-- The update of the charter of the thread's stage. -/
def modStage (f : Node → Node) : State := s.modNode (s.thread c k).place.launch (s.thread c k).place.node f

theorem stageNode_modStage (f : Node → Node) :
    stageNode (modStage s c k f) (s.thread c k) = (stageNode s (s.thread c k)).map f := node_modNode_self ..

/-- An update of the charter that leaves its meter of energy shows in deadmsg only. -/
theorem ctlRead_modStage_of_ne {f : Node → Node} {m : CtlNum} (henergy : ∀ n, (f n).usedEnergy = n.usedEnergy)
    (hm : m ≠ .deadmsg) : ctlRead (modStage s c k f) c k m = ctlRead s c k m := by
  have hnode := stageNode_modStage s c k f
  have hthread : (modStage s c k f).thread c k = s.thread c k := thread_modNode ..
  have hcore : ∀ c', (modStage s c k f).core c' = s.core c' := core_modNode s _ _ f
  have htime : (modStage s c k f).time = s.time := State.modNode_time ..
  cases m with
  | deadmsg => exact absurd rfl hm
  | energy =>
    simp only [ctlRead, hthread, hnode]
    cases stageNode s (s.thread c k) with
    | none => rfl
    | some n => simp [henergy]
  | _ => simp [ctlRead, hthread, hcore, htime, blindVal, transomVal, laneOf]

theorem ctlRead_modStage_deadmsg (f : Node → Node) : ctlRead (modStage s c k f) c k .deadmsg =
    ((stageNode s (s.thread c k)).map (fun n => BitVec.ofNat 64 (f n).dlCount)).getD 0 := by
  have hthread : (modStage s c k f).thread c k = s.thread c k := thread_modNode ..
  simp only [ctlRead, hthread, stageNode_modStage]
  cases stageNode s (s.thread c k) <;> rfl

end Reads

/-! ### What a write stores (R219, Table 9) -/

/-- After an update register n shows w, and every other register what it showed. -/
def Shows (s s' : State) (n : CtlNum) (w : Word) : Prop :=
  ∀ m, ctlRead s' s.cur.1 s.cur.2 m = if m = n then w else ctlRead s s.cur.1 s.cur.2 m

section Stores
variable (s : State) (v : Word)

theorem Shows.refl (n : CtlNum) : Shows s s n (ctlRead s s.cur.1 s.cur.2 n) := by
  intro m
  split
  · next h => rw [h]
  · rfl

/-- An update of the control file that shows in register n only. -/
theorem Shows.of_fileRead {f : Thread → Thread} {n : CtlNum} {w : Word} (hsame : fileRead (f s.me) n = some w)
    (hother : ∀ m, m = n ∨ fileRead (f s.me) m = fileRead s.me m := by intro m; cases m <;> simp [fileRead, xstatVal])
    (hpc : ∀ t, (f t).pc = t.pc := by exact fun _ => rfl) (hplace : ∀ t, (f t).place = t.place := by exact fun _ => rfl)
    (hrgn : ∀ t, (f t).rgn = t.rgn := by exact fun _ => rfl) (htol : ∀ t, (f t).tol = t.tol := by exact fun _ => rfl) :
    Shows s (s.modThread s.cur.1 s.cur.2 f) n w := by
  intro m
  rw [ctlRead_modThread s _ _ m hpc hplace hrgn htol, State.me_eq]
  split
  · next h => rw [h, hsame]; rfl
  · next h => rw [(hother m).resolve_left h]; exact (ctlRead_eq_fileRead s _ _ m).symm

theorem shows_xcause : Shows s (ctlWriteHandler s s.cur.1 s.cur.2 .xcause v) .xcause (v &&& 0xFF) :=
  .of_fileRead s (congrArg some (setWidth_setWidth_eq_and v 8 (by decide)))

theorem shows_fflags : Shows s (ctlWriteHandler s s.cur.1 s.cur.2 .fflags v) .fflags (v &&& 0x3F) :=
  .of_fileRead s (congrArg some (setWidth_setWidth_eq_and v 6 (by decide)))

theorem shows_xstat : Shows s (ctlWriteHandler s s.cur.1 s.cur.2 .xstat v) .xstat
    ((v &&& 0x307) ||| (ctlRead s s.cur.1 s.cur.2 .xstat &&& 0x30)) := by
  refine .of_fileRead s (congrArg some ?_)
  rw [ctlRead, xstatVal_eq, xstatVal_eq, xstatWord_pending, and_xstatBits, xstatWord_join]
  rfl

theorem wrFrm_eq (x : Ctl) : ∃ r, x.wrFrm v = { x with frm := r } := by
  unfold Ctl.wrFrm
  split
  · exact ⟨_, rfl⟩
  · exact ⟨x.frm, rfl⟩

/-- 6 and 7 leave frm unchanged (R78). -/
theorem wrFrm_read (x : Ctl) : (x.wrFrm v).frm.setWidth 64 =
    if (v &&& 7) = 6 ∨ (v &&& 7) = 7 then x.frm.setWidth 64 else v &&& 7 := by
  have hlow : (v &&& 7).toNat = v.toNat % 8 := and_lowBits_toNat v 3 (by decide)
  have h6 : (v &&& 7) = 6 ↔ v.toNat % 8 = 6 := by rw [← BitVec.toNat_inj, hlow]; rfl
  have h7 : (v &&& 7) = 7 ↔ v.toNat % 8 = 7 := by rw [← BitVec.toNat_inj, hlow]; rfl
  unfold Ctl.wrFrm
  by_cases h : v.toNat % 8 < 6
  · rw [if_pos h, if_neg (by rw [h6, h7]; omega)]
    exact setWidth_setWidth_eq_and v 3 (by decide)
  · rw [if_neg h, if_pos (by rw [h6, h7]; omega)]

theorem shows_frm : Shows s (ctlWriteHandler s s.cur.1 s.cur.2 .frm v) .frm
    (if (v &&& 7) = 6 ∨ (v &&& 7) = 7 then ctlRead s s.cur.1 s.cur.2 .frm else v &&& 7) := by
  refine .of_fileRead s (f := fun t => { t with ctl := t.ctl.wrFrm v }) (congrArg some (wrFrm_read v _)) fun m => ?_
  obtain ⟨r, hr⟩ := wrFrm_eq v s.me.ctl
  rw [hr]
  cases m <;> simp [fileRead, xstatVal]

/-- A write of ptime withdraws a pending timer interrupt, which xstat shows. -/
theorem ctlRead_write_ptime (m : CtlNum) : ctlRead (ctlWriteHandler s s.cur.1 s.cur.2 .ptime v) s.cur.1 s.cur.2 m =
    if m = .ptime then v
    else if m = .xstat then ctlRead s s.cur.1 s.cur.2 m &&& ~~~0x10
    else ctlRead s s.cur.1 s.cur.2 m := by
  refine (ctlRead_modThread s _ _ m).trans ?_
  cases m with
  | xstat => exact (xstatWord_noTimer ..).symm
  | _ => rfl

theorem ofNat_sillWrite (w : Word) : BitVec.ofNat 64 (sillWrite w v.toNat) =
    if (v &&& ~~~3).toNat < 0x2000 then 0x2000
    else if 0x2000 + 4096 * partCode w < (v &&& ~~~3).toNat then BitVec.ofNat 64 (0x2000 + 4096 * partCode w)
    else v &&& ~~~3 := by
  have hx := alignDown_toNat v
  unfold sillWrite codeEnd
  dsimp only
  rw [← hx]
  split
  · rfl
  · split
    · rfl
    · exact BitVec.ofNat_toNat .. |>.trans (BitVec.setWidth_eq _)

theorem shows_sill : Shows s (ctlWriteHandler s s.cur.1 s.cur.2 .sill v) .sill
    (Claims.stored s .sill (ctlRead s s.cur.1 s.cur.2 .sill) v) := by
  intro m
  refine (ctlRead_modCore s _ _ m).trans ?_
  split
  · exact ofNat_sillWrite v _
  · split
    · next h => rw [h]; rfl
    · rfl

/-- Only an upper core has a blind to hold (R416). -/
theorem shows_blind : Shows s (ctlWriteHandler s s.cur.1 s.cur.2 .blind v) .blind
    (Claims.stored s .blind (ctlRead s s.cur.1 s.cur.2 .blind) v) := by
  intro m
  refine (ctlRead_modCore s _ _ m).trans ?_
  cases m with
  | sill => rfl
  | blind =>
    have hbits : BitVec.ofNat 64 (flagAt (v.getLsbD 8) 8 + flagAt true 0) = (v &&& 0x100) ||| 1 := by
      rw [show v &&& 0x100 = if v.getLsbD 8 then BitVec.twoPow 64 8 else 0#64 from BitVec.and_twoPow v 8]
      cases v.getLsbD 8 <;> rfl
    cases hu : upperDie s.cur.1 with
    | false => simp [Claims.stored, ctlRead, blindVal, hu]
    | true => simpa [Claims.stored, hu] using hbits
  | _ => rfl

theorem shows_deadmsg : Shows s (ctlWriteHandler s s.cur.1 s.cur.2 .deadmsg v) .deadmsg
    (Claims.stored s .deadmsg (ctlRead s s.cur.1 s.cur.2 .deadmsg) v) := by
  intro m
  by_cases hm : m = .deadmsg
  · subst hm
    rw [if_pos rfl]
    refine (ctlRead_modStage_deadmsg s _ _ _).trans ?_
    simp only [Claims.stored, ctlRead, State.me_eq]
    cases stageNode s s.me <;> simp
  · rw [if_neg hm]
    exact ctlRead_modStage_of_ne s _ _ (fun _ => rfl) hm

/-- What Table 9 says of every register but ptime, which xstat shows too. -/
theorem shows_stored {n : CtlNum} (hn : n ≠ .ptime) : Shows s (ctlWriteHandler s s.cur.1 s.cur.2 n v) n
    (Claims.stored s n (ctlRead s s.cur.1 s.cur.2 n) v) := by
  cases n with
  | ptime => exact absurd rfl hn
  | xpc | xaddr | xinfo | xvec | xscratch | rsplits | srseed => exact .of_fileRead s rfl
  | xcause => exact shows_xcause s v
  | fflags => exact shows_fflags s v
  | xstat => exact shows_xstat s v
  | frm => exact shows_frm s v
  | sill => exact shows_sill s v
  | blind => exact shows_blind s v
  | deadmsg => exact shows_deadmsg s v
  | _ => exact .refl s _

end Stores

/-! ### The instructions at both privileges (R217-R219) -/

theorem ctlWaits_eq_sidingReg (n : CtlNum) : ctlWaits n = Claims.sidingReg n := by cases n <;> rfl
theorem ctlUserRW_eq_sidingReg (n : CtlNum) : ctlUserRW n = Claims.sidingReg n := by cases n <;> rfl

section Instructions
variable {h : Hdr} {s : State} {n : CtlNum}

theorem ctlGate_ready (hready : Claims.ctlReady s n) (e : Eff) : ctlGate n s e = e := by
  obtain ⟨_, hidle⟩ := hready
  rw [ctlGate, ctlWaits_eq_sidingReg]
  cases hn : Claims.sidingReg n
  · rfl
  · rw [hidle hn]; rfl

theorem runCtl_denied (op : Nat) (e : State → Eff) (hpriv : s.me.priv = false) (hn : Claims.handlerOnly n = true) :
    runCtl op n h e s = .next (takeTrap s s.cur.1 s.cur.2
      { cause := 3, addr := 0, info := BitVec.ofNat 64 (op + 256 * n.num) } true) := by
  rw [runCtl, hidden_eq_handlerOnly, hn, hpriv]
  rfl

/-- An access that is permitted and need not wait does what it does. -/
theorem runCtl_ready {op : Nat} {e : State → Eff} {t : State} (hg : guardHolds s h = true) (hready : Claims.ctlReady s n)
    (he : e s = ctlGate n s (.ok t)) : runCtl op n h e s = Claims.retired h s t := by
  have hopen : (n.hidden && !s.me.priv) = false := by
    obtain ⟨hpriv, _⟩ := hready
    rw [hidden_eq_handlerOnly]
    cases hn : Claims.handlerOnly n
    · rfl
    · rw [hpriv hn]; rfl
  rw [runCtl, hopen, if_neg Bool.false_ne_true]
  exact run_ok hg (he.trans (ctlGate_ready hready _))

theorem ctlWrite_permitted (v : Word) (hw : s.me.priv = true ∨ Claims.sidingReg n = true) :
    ctlWrite s n v = ctlWriteHandler s s.cur.1 s.cur.2 n v := by
  rw [ctlWrite, ctlUserRW_eq_sidingReg, if_pos (by simpa using hw)]

theorem ctlWrite_ignored (v : Word) (hpriv : s.me.priv = false) (hn : Claims.sidingReg n = false) : ctlWrite s n v = s := by
  rw [ctlWrite, ctlUserRW_eq_sidingReg, hpriv, hn]
  rfl

/-- A permitted write stores what Table 9 says. -/
theorem writes_of_permitted {o : Host.Outcome State Fault Refusal} {v : Word}
    (hw : s.me.priv = true ∨ Claims.sidingReg n = true) (ho : o = Claims.retired h s (ctlWrite s n v)) :
    Claims.writes h s n v o := by
  refine ⟨_, ho, fun m => ?_⟩
  rw [ctlWrite_permitted v hw]
  by_cases hn : n = .ptime
  · subst hn
    simpa [Claims.stored] using ctlRead_write_ptime s v m
  · simpa [hn] using shows_stored s v hn m

end Instructions

theorem controlRegistersAtHandlerPrivilege : Claims.ControlRegistersAtHandlerPrivilege := by
  intro h a n c s hg hpriv hready
  exact ⟨runCtl_ready hg hready rfl, writes_of_permitted (.inl hpriv) (runCtl_ready hg hready rfl),
    writes_of_permitted (.inl hpriv) (runCtl_ready hg hready rfl),
    writes_of_permitted (.inl hpriv) (runCtl_ready hg hready rfl)⟩

theorem controlRegistersAtUserPrivilege : Claims.ControlRegistersAtUserPrivilege := by
  intro h a n c s hpriv
  dsimp only
  split
  · next hn =>
    refine ⟨?_, ?_, ?_, ?_⟩ <;> exact runCtl_denied _ _ hpriv hn
  · intro hg hready
    refine ⟨runCtl_ready hg hready rfl, fun hn => ⟨?_, ?_, ?_⟩, fun hn => ⟨?_, ?_, ?_⟩⟩
    iterate 3 exact writes_of_permitted (.inr hn) (runCtl_ready hg hready rfl)
    all_goals exact (runCtl_ready hg hready rfl).trans (congrArg _ (ctlWrite_ignored _ hpriv hn))

/-- Settles O6: a permitted write stores in its register what Table 9 says, and every other register reads as before,
but for the timer's pending bit in xstat. -/
theorem controlRegisters : Obligations.ControlRegisters :=
  ⟨controlRegistersAtHandlerPrivilege, controlRegistersAtUserPrivilege⟩

end Sys2Proof.Machine

/-! PROOFS. Key commands (R242, R454, R455): the generations that they raise, and the frame that O48 states for them. -/

namespace Sys2Proof.Machine

open Sys2Proof

/-! ### Generations of key slots (R242, R455) -/

/-- A line's key names its slot in its low 12 bits and the die above them (R242); the generation is the slot's. -/
theorem gen_eq_of_slot_eq (m : Memory) {k k' : Nat} (h : k % 4096 = k' % 4096) : m.gen k = m.gen k' := by
  rw [Memory.gen, Memory.gen, h]

/-- A key command that is not refused raises the generation of its slot, under every key of that slot, and no other. -/
theorem gen_keyCommand (s : State) {slot op : Nat} (hslot : slot % 4096 ≠ 0) (hop : op = 1 ∨ op = 2) (key : Nat) :
    (keyCommand s slot op).mem.gen key = s.mem.gen key + if key % 4096 = slot % 4096 then 1 else 0 := by
  have hgo : ¬(slot % 4096 = 0 ∨ (op ≠ 1 ∧ op ≠ 2)) := by omega
  have hgen : (keyCommand s slot op).mem.gen key =
      AMap.getD (AMap.set s.mem.keyGen (slot % 4096) (s.mem.gen (slot % 4096) + 1)) (key % 4096) 0 := by
    rw [keyCommand, if_neg hgo]
    rfl
  rw [hgen, AMap.getD_set]
  split
  · next hsame => rw [gen_eq_of_slot_eq s.mem (hsame.trans (Nat.mod_mod slot 4096).symm)]
  · rfl

/-! ### The frame that O48 states -/

/-- Refutes O48: its last clause says that a key command on slot n keeps the generation under every number other than n.
The number n + 4096 is a key of slot n on die 1, whose generation rises with the slot's (`gen_keyCommand`). At reset,
installing a key in slot 1 takes the generation under 4097 from 0 to 1; the clause asks for 0. -/
theorem not_healthAndReset : ¬ Obligations.HealthAndReset := by
  rintro ⟨-, hreset⟩
  obtain ⟨-, -, -, -, -, -, -, -, -, -, hkeys⟩ := hreset 0 1 0 0 true [] State.reset (by decide)
  obtain ⟨-, hinstalls⟩ := hkeys (.keyInstall 1) (by simp)
  obtain ⟨w, hw, -, -, -, hkeeps, -⟩ := hinstalls (by decide)
  have hnext : w = keyCommand State.reset 1 1 := (Host.Outcome.next.inj hw).symm
  have hrises : w.mem.gen 4097 = 1 := by rw [hnext, gen_keyCommand _ (by decide) (.inl rfl)]; rfl
  have hkept : w.mem.gen 4097 = 0 := hkeeps 4097 (by decide)
  omega

end Sys2Proof.Machine

/-! PROOFS. Accesses of the own pool (R230, R231, R258), and what an instruction that goes on or traps leaves of the
acting thread. -/

namespace Sys2Proof.Machine

open Sys2Proof

/-! ### Addresses of the own pool (R230, R231) -/

section OwnPool
variable {s : State} {o n : Nat}

theorem toNat_winAddr (ho : o < 2 ^ 40) : (winAddr o).toNat = 0xFE * 2 ^ 56 + o := by
  rw [winAddr, BitVec.toNat_ofNat]
  omega

theorem decodeAddr_winAddr (ho : o < 2 ^ 40) : decodeAddr (winAddr o) = .own o := by
  simp only [decodeAddr, wfld, fld, toNat_winAddr ho]
  rw [if_pos (by omega), if_pos (by omega), if_pos (by omega)]
  congr 1
  omega

theorem windowAt_winAddr (s : State) (c : Nat) (ho : o < 2 ^ 40) : windowAt s c (winAddr o) = some (c, o) := by
  rw [windowAt, decodeAddr_winAddr ho]

theorem aligned_of_dvd {a : Word} (h : a.toNat % n = 0) (k : Eff) : aligned s a n k = k := if_pos h

theorem poolCheck_eq_none {tc : Nat} {priv : Bool} (a : Word) (hlim : o + n ≤ poolLimit (s.core tc).part)
    (hsill : priv = false → (s.core tc).sill.toNat ≤ o) : poolCheck s tc priv a o n = none := by
  rw [poolCheck, if_neg (by omega), if_neg]
  cases priv with
  | true => simp
  | false => simpa using hsill rfl

theorem windowCheck_winAddr (write : Bool) (ho : o < 2 ^ 40) :
    windowCheck s (winAddr o) n write = poolCheck s s.cur.1 s.me.priv (winAddr o) o n := by
  simp only [windowCheck, poolTarget, decodeAddr_winAddr ho]
  cases poolCheck s s.cur.1 s.me.priv (winAddr o) o n <;> rfl

/-- A read of the own pool that nothing stands in the way of takes its bytes (R258). -/
theorem readAny_of_poolReadable {a : Word} (h : Claims.poolReadable s a o n) (issuer : Nat) (home rec' : Bool)
    (k : State → List Byte → Eff) : readAny s a n issuer home rec' k = k s (s.myCore.bytes o n) := by
  obtain ⟨⟨ha, ho, hlim, hsill, hshut, hvst⟩, hpoison, htol⟩ := h
  replace ha : a = winAddr o := ha
  have hcheck : windowCheck s a n false = none := by
    rw [ha, windowCheck_winAddr false ho]
    exact poolCheck_eq_none _ hlim hsill
  have hread : poolRead s a s.cur.1 o n k = k s (s.myCore.bytes o n) := by
    simp [poolRead, ← State.myCore.eq_def, hshut, hvst, htol, hpoison]
  rw [readAny, hcheck]
  simp only [ha, decodeAddr_winAddr ho]
  rw [← ha, hread]

end OwnPool

/-! ### Going on, and trapping -/

theorem run_trap {h : Hdr} {e : State → Eff} {s t : State} {x : TrapInfo} (hg : guardHolds s h = true)
    (he : e s = .trap t x) : run h e s = .next (takeTrap t s.cur.1 s.cur.2 x true) := congrArg Host.Outcome.next (finish_trap hg he)

theorem run_failAt {h : Hdr} {e : State → Eff} {s : State} {cause info : Nat} {a : Word} (hg : guardHolds s h = true)
    (he : e s = .failAt s cause a info) : run h e s = Claims.raises s cause a info := run_trap hg he

theorem run_wait {h : Hdr} {e : State → Eff} {s t : State} (hg : guardHolds s h = true) (he : e s = .wait t) :
    run h e s = .next t := by
  simp [run, finish, hg, he]

theorem run_jump {h : Hdr} {e : State → Eff} {s t : State} {pc : Word} (hg : guardHolds s h = true)
    (he : e s = .jump t pc) : run h e s = .next (retire t pc h.yields) := congrArg Host.Outcome.next (finish_jump hg he)

theorem pool_modMe (s : State) (f : Thread → Thread) (c : Nat) : ((s.modMe f).core c).pool = (s.core c).pool :=
  pool_modThread s s.cur.1 s.cur.2 c f

/-- The acting thread's registers, control registers, privilege and place stay. -/
structure KeepsRegisters (s t : State) : Prop where
  cur : t.cur = s.cur
  g : t.me.g = s.me.g
  p : t.me.p = s.me.p
  b : t.me.b = s.me.b
  v : t.me.v = s.me.v
  ctl : t.me.ctl = s.me.ctl
  priv : t.me.priv = s.me.priv
  place : t.me.place = s.me.place

theorem KeepsRegisters.refl (s : State) : KeepsRegisters s s := ⟨rfl, rfl, rfl, rfl, rfl, rfl, rfl, rfl⟩

theorem KeepsRegisters.trans {s t u : State} (h : KeepsRegisters s t) (h' : KeepsRegisters t u) : KeepsRegisters s u :=
  ⟨h'.cur.trans h.cur, h'.g.trans h.g, h'.p.trans h.p, h'.b.trans h.b, h'.v.trans h.v, h'.ctl.trans h.ctl,
    h'.priv.trans h.priv, h'.place.trans h.place⟩

/-- Where the registers stay, the retirement of the instruction moves pc alone. -/
theorem KeepsRegisters.onlyPc {s t : State} (h : KeepsRegisters s t) (y : Bool) :
    Claims.onlyPc s (retire t (s.me.pc + 12) y) := by
  obtain ⟨hcur, hg, hp, hb, hv, hctl, hpriv, hplace⟩ := h
  simp [Claims.onlyPc, *]

end Sys2Proof.Machine

/-! PROOFS. Budgets and sensitivities (R109-R111, R128, R129, R131): the share arithmetic as bit vectors, and the rows of
the sensitivity table. -/

namespace Sys2Proof.Machine

open Sys2Proof

/-! ### Shares (R110) -/

theorem lOf_eq_log2x16 (n : Fin 4) : lOf (n.val + 1) = Claims.log2x16 (n.val + 1) := by decide +revert

/-- The tightened bit stands beside the twelve bits of B, or beside the exact bit. -/
theorem tightened_or (keep : Bool) {x : Nat} (hx : x < 0x4000 ∨ x = 0x8000) :
    (if keep then 0x4000#16 else 0) ||| BitVec.ofNat 16 x = BitVec.ofNat 16 ((if keep then 0x4000 else 0) + x) := by
  cases keep with
  | false => simp
  | true =>
    refine BitVec.eq_of_toNat_eq ?_
    rcases hx with hx | rfl
    · have hor : 0x4000 ||| x = 0x4000 + x := (Nat.shiftLeft_add_eq_or_of_lt (i := 14) hx 1).symm
      simpa [Nat.mod_eq_of_lt (by omega : x < 65536), Nat.mod_eq_of_lt (by omega : 16384 + x < 65536)] using hor
    · rfl

theorem and_tightened (b : BitVec 16) : b &&& 0x4000 = if b.getLsbD 14 then 0x4000 else 0 := BitVec.and_twoPow b 14

theorem adj_eq_adjust (b : BitVec 16) (d : Int) : adj b d = Claims.adjust b d := by
  have hB : ((b.extractLsb' 0 12).toNat : Int) = (b.toNat % 4096 : Nat) := by simp
  simp only [adj, Claims.adjust, hB, and_tightened]
  generalize ((b.toNat % 4096 : Nat) : Int) + d = x
  generalize b.getLsbD 14 = keep
  by_cases hexact : (b.getLsbD 15 || decide (4095 < x)) = true
  · have hL : (if b.getLsbD 15 then (0x8000 : BitVec 16) ||| (if keep then 0x4000 else 0)
        else if 4095 < x then 0x8000 ||| (if keep then 0x4000 else 0)
        else (if keep then 0x4000 else 0) ||| BitVec.ofNat 16 (max 0 x).toNat) =
        (if keep then 0x4000#16 else 0) ||| BitVec.ofNat 16 0x8000 := by
      rw [BitVec.or_comm (if keep then _ else _) (BitVec.ofNat 16 0x8000)]
      rcases Bool.or_eq_true_iff.mp hexact with hbit | hx
      · exact if_pos hbit
      · rw [if_pos (of_decide_eq_true hx), ite_self]
        rfl
    rw [hL, tightened_or _ (.inr rfl), if_pos hexact]
  · obtain ⟨hbit, hx⟩ : b.getLsbD 15 = false ∧ ¬4095 < x := by simpa using hexact
    rw [if_neg hexact, if_neg (Bool.eq_false_iff.mp hbit), if_neg hx, show (max 0 x).toNat = x.toNat by omega]
    exact tightened_or keep (.inl (by omega))

/-! ### The sensitivity table (R111, R131) -/

theorem sensReset_eq_table2 (k : Nat) {j : Nat} (hj : j < 3) : sensReset k j = Claims.table2 k j := by
  have hj : j = 0 ∨ j = 1 ∨ j = 2 := by omega
  unfold sensReset Claims.table2
  rcases hj with rfl | rfl | rfl <;> grind

theorem sensOf_of_lt (t : Thread) (k : Nat) {j : Nat} (hj : j < 3) :
    t.sensOf k j = AMap.getD t.tol.sens (3 * k + j) (sensReset k j) := if_neg (by omega)

/-- A row of the table has the three entries from 3k on. -/
theorem getD_setRow (m : AMap Int) (k : Nat) (f : Nat → Int) (c : Nat) {j : Nat} (hj : j < 3) (d : Int) :
    AMap.getD ((List.range 3).foldl (fun m j => AMap.set m (3 * k + j) (f j)) m) (3 * c + j) d =
      if c = k then f j else AMap.getD m (3 * c + j) d := by
  have hrange : List.range 3 = [0, 1, 2] := rfl
  simp only [hrange, List.foldl, AMap.getD_set]
  by_cases hc : c = k
  · subst hc
    have hj : j = 0 ∨ j = 1 ∨ j = 2 := by omega
    rcases hj with rfl | rfl | rfl <;> simp
  · rw [if_neg hc]
    repeat rw [if_neg (by omega)]

theorem keepsRegisters_setSens (s : State) (k : Nat) (f : Nat → Int) : KeepsRegisters s (setSens s k f) := by
  have hme : (setSens s k f).me = _ := s.me_modMe _
  constructor
  · rfl
  all_goals rw [hme]

theorem sensOf_setSens (s : State) (k : Nat) (f : Nat → Int) (c : Nat) {j : Nat} (hj : j < 3) :
    (setSens s k f).me.sensOf c j = if c = k then f j else s.me.sensOf c j := by
  rw [sensOf_of_lt _ _ hj, sensOf_of_lt _ _ hj, setSens, State.me_modMe]
  exact getD_setRow _ _ _ _ hj _

theorem Thread.retire_sensOf (t : Thread) (pc : Word) (c j : Nat) : (t.retire pc).sensOf c j = t.sensOf c j := rfl

theorem classOp_eq (s : State) (a : GSrc) : classOp s a = (readGSrc s a).toNat % 64 := wfld_low _ 6

/-- An instruction that sets a row retires with that row set (R131). -/
theorem run_setSens {h : Hdr} {e : State → Eff} {s : State} {k : Nat} {f : Nat → Int} (hg : guardHolds s h = true)
    (he : e s = .ok (setSens s k f)) : ∃ w, run h e s = .next w ∧ Claims.onlyPc s w ∧
      ∀ c j, c < 64 → j < 3 → w.me.sensOf c j = if c = k then f j else s.me.sensOf c j := by
  refine ⟨_, run_ok hg he, (keepsRegisters_setSens s k f).onlyPc _, fun c j _ hj => ?_⟩
  rw [retire_me, Thread.retire_sensOf, sensOf_setSens s k f c hj]

/-! ### The instructions (R128, R129, R131) -/

theorem exec_bshare (h : Hdr) (d e : Fin 8) (sel : ShareSel) {s : State} (hg : guardHolds s h = true) :
    exec (.bshare h d e sel) s = Claims.retired h s (s.wrB d.val (Claims.adjust (s.rdB e.val)
      (Claims.log2x16 (sel.n1.val + 1) +
        if sel.opnd.val = 3 then 0 else s.me.sensOf sel.cls.val sel.opnd.val))) := by
  have hS : s.me.sensOf sel.cls.val sel.opnd.val =
      if sel.opnd.val = 3 then 0 else s.me.sensOf sel.cls.val sel.opnd.val := by
    split
    · exact if_pos (by omega)
    · rfl
  rw [← hS, ← lOf_eq_log2x16, ← adj_eq_adjust]
  exact run_ok hg rfl

theorem effSensLd_eq (k : GSrc) (m : Mem) {s : State} {o : Nat} (ho : o % 8 = 0)
    (hread : Claims.poolReadable s (memAddr s m 8) o 8) : effSensLd k m s = .ok (setSens s ((readGSrc s k).toNat % 64)
      (fun j => (BitVec.ofNat 12 (s.myCore.num o 8 / 2 ^ (16 * j))).toInt)) := by
  have haddr : (memAddr s m 8).toNat % 8 = 0 := by
    obtain ⟨⟨ha, hlt, _⟩, _⟩ := hread
    rw [show memAddr s m 8 = winAddr o from ha, toNat_winAddr hlt]
    omega
  have hrow : (fun j => sextI (fld (ofBytes (s.myCore.bytes o 8)) (16 * j) 12) 12) =
      fun j => (BitVec.ofNat 12 (s.myCore.num o 8 / 2 ^ (16 * j))).toInt := by
    funext j
    rw [sextI_eq, fld]
    exact congrArg BitVec.toInt (BitVec.eq_of_toNat_eq (by simp [Core.num]))
  rw [effSensLd, aligned_of_dvd haddr, readAny_of_poolReadable hread, classOp_eq, hrow]

/-- Settles O22: the model's share arithmetic is that of R110 on 16-bit words, and a row of the table is three entries
of its map, which the loaded fields or those of Table 2 replace. -/
theorem budgetsAndSensitivities : Obligations.BudgetsAndSensitivities := by
  intro h d e sel a i k m s o hg
  refine ⟨exec_bshare h d e sel hg, run_ok hg rfl, run_ok hg rfl, run_ok hg rfl, run_ok hg rfl,
    fun c j _ hj => (sensOf_of_lt _ c hj).trans (sensReset_eq_table2 c hj), ?_, fun ho hread => run_setSens hg (effSensLd_eq k m ho hread)⟩
  obtain ⟨w, hw, honly, hrow⟩ := run_setSens (e := effSensLdReset k) hg rfl
  rw [classOp_eq] at hrow
  refine ⟨w, hw, honly, fun c j hc hj => ?_⟩
  rw [hrow c j hc hj, sensReset_eq_table2 _ hj]

end Sys2Proof.Machine

/-! PROOFS. What a drained region leaves of the acting thread and of the pools (R266), and a close that meets a conflict. -/

namespace Sys2Proof.Machine

open Sys2Proof

theorem KeepsThread.keepsRegisters {s t : State} (h : KeepsThread s t) : KeepsRegisters s t := by
  obtain ⟨hcur, rgn, dests, rel, hme⟩ := h
  constructor
  · exact hcur
  all_goals rw [hme]

theorem KeepsThread.tol {s t : State} (h : KeepsThread s t) : t.me.tol = s.me.tol := by
  obtain ⟨-, _, _, _, hme⟩ := h
  rw [hme]

/-! ### A drained region (R266) -/

/-- The near cache takes the bytes of a written line, and nothing else of the core changes. -/
theorem nearMerge_eq (x : Core) (hl key : Nat) (bs : AMap Byte) : ∃ near, nearMerge x hl key bs = { x with near := near } := by
  unfold nearMerge
  split
  · exact ⟨_, rfl⟩
  · split <;> exact ⟨_, rfl⟩

theorem nearMerge_slots (x : Core) (hl key : Nat) (bs : AMap Byte) : (nearMerge x hl key bs).slots = x.slots := by
  obtain ⟨near, h⟩ := nearMerge_eq x hl key bs
  rw [h]

theorem nearMerge_pool (x : Core) (hl key : Nat) (bs : AMap Byte) : (nearMerge x hl key bs).pool = x.pool := by
  obtain ⟨near, h⟩ := nearMerge_eq x hl key bs
  rw [h]

theorem drainLine_thread (s : State) (c k hl : Nat) (e : HeldLine) :
    (drainLine s c k hl e).thread c k = { s.thread c k with dests := insertNat (lineDie hl) (s.thread c k).dests } := by
  rw [drainLine, State.thread_modThread_self, State.thread_modCore _ _ _ _ _ fun x => nearMerge_slots ..]
  rfl

theorem keepsThread_drainLine (s : State) (hl : Nat) (e : HeldLine) : KeepsThread s (drainLine s s.cur.1 s.cur.2 hl e) :=
  ⟨rfl, _, _, _, drainLine_thread s s.cur.1 s.cur.2 hl e⟩

theorem pool_drainLine (s : State) (c k hl : Nat) (e : HeldLine) (c' : Nat) :
    ((drainLine s c k hl e).core c').pool = (s.core c').pool := by
  rw [drainLine, pool_modThread]
  by_cases hc : c' = c
  · subst hc
    rw [State.core_modCore_self, nearMerge_pool]
    rfl
  · rw [State.core_modCore_of_ne _ _ hc]
    rfl

/-- The held lines of a region sent home, before the region is emptied. -/
def drainLines (s : State) (c k : Nat) (ls : List (Nat × HeldLine)) : State :=
  ls.foldl (fun s e => drainLine s c k e.1 e.2) s

theorem keepsThread_drainLines (s : State) (ls : List (Nat × HeldLine)) : KeepsThread s (drainLines s s.cur.1 s.cur.2 ls) := by
  refine foldl_inv (KeepsThread s) _ ls (fun t e _ ht => ?_) s (.refl s)
  rw [← ht.1]
  exact ht.trans (keepsThread_drainLine t e.1 e.2)

theorem drainRegion_eq (s : State) (c k : Nat) : drainRegion s c k =
    (drainLines s c k (sortBy (fun e => e.2.pa) (s.thread c k).rgn.held)).modThread c k Thread.dropRegion := rfl

theorem pool_drainRegion (s : State) (c k c' : Nat) : ((drainRegion s c k).core c').pool = (s.core c').pool := by
  rw [drainRegion_eq, pool_modThread]
  exact foldl_inv (fun t : State => (t.core c').pool = (s.core c').pool) _ _
    (fun t e _ ht => (pool_drainLine t c k e.1 e.2 c').trans ht) s rfl

/-- The acting thread's record after its region has drained: the region is new and empty, but for the conflict. -/
theorem drainRegion_me (s : State) : ∃ t, KeepsThread s t ∧ (drainRegion s s.cur.1 s.cur.2).cur = s.cur ∧
    (drainRegion s s.cur.1 s.cur.2).me = t.me.dropRegion := by
  have hkeeps := keepsThread_drainLines s (sortBy (fun e => e.2.pa) s.me.rgn.held)
  refine ⟨_, hkeeps, hkeeps.1, ?_⟩
  calc (drainRegion s s.cur.1 s.cur.2).me = (drainRegion s s.cur.1 s.cur.2).thread s.cur.1 s.cur.2 := by
        rw [State.me, show (drainRegion s s.cur.1 s.cur.2).cur = s.cur from hkeeps.1]
    _ = _ := State.thread_modThread_self ..
    _ = _ := congrArg Thread.dropRegion (by rw [State.me, hkeeps.1]; rfl)

theorem keepsThread_drainRegion (s : State) : KeepsThread s (drainRegion s s.cur.1 s.cur.2) := by
  obtain ⟨t, ⟨_, rgn, dests, rel, ht⟩, hcur, hme⟩ := drainRegion_me s
  exact ⟨hcur, _, dests, rel, by rw [hme, ht]; rfl⟩

theorem drainRegion_empty (s : State) :
    (drainRegion s s.cur.1 s.cur.2).me.rgn.held = [] ∧ (drainRegion s s.cur.1 s.cur.2).me.rgn.reads = [] := by
  obtain ⟨_, _, _, hme⟩ := drainRegion_me s
  rw [hme]
  exact ⟨rfl, rfl⟩

/-- A close that meets a conflict traps with it (R266). -/
theorem withClose_of_conflict {s : State} {e : TrapInfo} (hidle : sidingIdle s s.cur.1 s.cur.2 = true)
    (hheld : drainHeld s s.cur.1 s.cur.2 = false) (hgone : Claims.noneGone s)
    (he : (closeRegion s s.cur.1 s.cur.2).1 = some e) (k : State → Eff) :
    withClose s k = .trap (closeRegion s s.cur.1 s.cur.2).2 e := by
  rw [withClose, withSiding_of_idle hidle, hheld, if_neg (by decide), withGone_of_noneGone hgone]
  generalize closeRegion s s.cur.1 s.cur.2 = r at he ⊢
  obtain ⟨x, t⟩ := r
  cases he
  rfl

end Sys2Proof.Machine

/-! PROOFS. Tolerant regions (R113, R122-R124, R126, R127): what a share walk comes to and what its targets leave, and the
outcomes of `demand` and `settle`. -/

namespace Sys2Proof.Machine

open Sys2Proof

/-! ### The walk (R113, R114)

The compiler's equations of `shareFrom` do not pass the kernel: to compare them it would run the check of a node on a
number that it does not know. So the lemmas of one node go by the step that the recursion repeats, with the check left
abstract. -/

section Walk
variable {s : State} {t : Thread} {x : Core} {off n i : Nat} {ex : Bool} {bud : AMap (BitVec 16)} {named : List Nat}
  {acc : List Target}

theorem shareFrom_eq_brecOn (n : Nat) :
    shareFrom s t x off ex n = Nat.brecOn n (shareFrom._f s t x off ex) := by
  delta shareFrom
  rfl

theorem brecOn_succ {motive : Nat → Type} (f : ∀ n, Nat.below (motive := motive) n → motive n) (n : Nat) :
    Nat.brecOn (n + 1) f = f (n + 1) (Nat.brecOn.go n f) := rfl

theorem shareFrom_succ (s : State) (t : Thread) (x : Core) (off : Nat) (ex : Bool) (n : Nat) :
    ∃ below, shareFrom s t x off ex (n + 1) = shareFrom._f s t x off ex (n + 1) below ∧
      below.1 = shareFrom s t x off ex n :=
  ⟨_, (shareFrom_eq_brecOn _).trans (brecOn_succ _ n), (shareFrom_eq_brecOn n).symm⟩

/-- A node that is not reached is not read. -/
theorem shareFrom_of_unreached (h : AMap.get bud i = none) :
    shareFrom s t x off ex (n + 1) i bud named acc = shareFrom s t x off ex n (i + 1) bud named acc := by
  obtain ⟨below, hstep, hnext⟩ := shareFrom_succ s t x off ex n
  rw [hstep, ← hnext]
  delta shareFrom._f
  generalize nodeErrs = errs
  simp only [h]

/-- A node beyond the partition traps (R114). -/
theorem shareFrom_of_beyond {b : BitVec 16} (h : AMap.get bud i = some b) (hlim : poolLimit x.part < off + 8 * i + 8) :
    shareFrom s t x off ex (n + 1) i bud named acc = .trapped (windowTrap (winAddr (off + 8 * i))) := by
  obtain ⟨below, hstep, -⟩ := shareFrom_succ s t x off ex n
  rw [hstep]
  delta shareFrom._f
  generalize nodeErrs = errs
  simp only [h, if_pos hlim]

/-- A leaf that names a budget register gives it the node's own budget. -/
theorem shareFrom_of_leaf {b : BitVec 16} {nd : Nat} (h : AMap.get bud i = some b) (hlim : off + 8 * i + 8 ≤ poolLimit x.part)
    (hshut : poolShut x (off + 8 * i) 8 = false) (hpoison : x.poisoned (off + 8 * i) 8 = false)
    (hnum : x.num (off + 8 * i) 8 = nd) (hkind : nd.testBit 63 = false) (hcount : fld nd 10 2 = 0)
    (herrs : nodeErrs nd i named = []) : shareFrom s t x off ex (n + 1) i bud named acc =
      shareFrom s t x off ex n (i + 1) bud named
        ({ slot := false, idx := fld nd 48 15 % 8, val := if ex then 0xC000 else adj b 0 } :: acc) := by
  obtain ⟨below, hstep, hnext⟩ := shareFrom_succ s t x off ex n
  rw [hstep, ← hnext]
  delta shareFrom._f
  generalize nodeErrs = errs at herrs ⊢
  have hL : lOf (0 + 1) = 0 := rfl
  simp only [h, if_neg (not_lt.mpr hlim), hshut, hpoison, hnum, hkind, hcount, herrs, hL, zero_add, Bool.false_eq_true,
    false_and, if_false, List.min?_nil, List.range_zero, List.map_nil, List.foldl_nil, List.nil_append]

/-- The walk ends where no further node is reached. -/
theorem shareFrom_of_rest_unreached (n : Nat) (h : ∀ j, i ≤ j → AMap.get bud j = none) :
    shareFrom s t x off ex n i bud named acc = .done' acc.reverse := by
  induction n generalizing i with
  | zero => rfl
  | succ n ih =>
    rw [shareFrom_of_unreached (h i le_rfl)]
    exact ih fun j hj => h j (by omega)

/-- A leaf whose reserved bits and child fields are zero, and whose target is a register, passes the check (R114). -/
theorem nodeErrs_of_leaf {nd : Nat} (hcount : fld nd 10 2 = 0) (hlow : fld nd 6 4 = 0) (hhigh : fld nd 36 12 = 0)
    (htarget : fld nd 51 12 = 0) (hchild : ∀ j, j < 3 → fld nd (12 + 8 * j) 8 = 0) : nodeErrs nd i named = [] := by
  have hzero : lowSet 0 = [] := rfl
  have hbeyond : ((List.range 3).filter (fun j => decide (0 ≤ j))).flatMap
      (fun j => lowSet (fld nd (12 + 8 * j) 8 * 2 ^ (12 + 8 * j))) = [] := by
    refine List.flatMap_eq_nil_iff.mpr fun j hj => ?_
    rw [hchild j (List.mem_range.mp (List.mem_of_mem_filter hj)), Nat.zero_mul, hzero]
  unfold nodeErrs
  simp only [hcount, hlow, hhigh, htarget, hbeyond, Nat.zero_mul, ite_self, hzero, List.range_zero, List.filterMap_nil,
    List.append_nil, add_zero]

/-- A leaf of class `cls` whose target is budget register `tgt` (Table 3). -/
def leafNode (cls tgt : Nat) : Nat := cls + tgt * 2 ^ 48

section Leaf
variable {cls tgt : Nat}

/-- Between the class and the target a leaf is zero. -/
theorem fld_leafNode_of_between (hcls : cls < 64) {lo len : Nat} (hlo : 6 ≤ lo) (hhi : lo + len ≤ 48) :
    fld (leafNode cls tgt) lo len = 0 := by
  have hshift : (cls + tgt * 2 ^ 48) / 2 ^ lo = tgt * 2 ^ (48 - lo) := by
    rw [show (2 : Nat) ^ 48 = 2 ^ (48 - lo) * 2 ^ lo by rw [← pow_add]; congr 1; omega, ← mul_assoc,
      Nat.add_mul_div_right _ _ (by positivity), Nat.div_eq_of_lt, zero_add]
    exact hcls.trans_le (Nat.pow_le_pow_right (by decide) hlo : 2 ^ 6 ≤ 2 ^ lo)
  rw [fld, leafNode, hshift, show 48 - lo = len + (48 - lo - len) by omega, pow_add]
  exact Nat.mod_eq_zero_of_dvd ⟨tgt * 2 ^ (48 - lo - len), by ring⟩

theorem fld_leafNode_above (hcls : cls < 64) (htgt : tgt < 8) (len : Nat) : fld (leafNode cls tgt) 51 len = 0 := by
  rw [fld, leafNode, Nat.div_eq_of_lt (by omega), Nat.zero_mod]

theorem fld_leafNode_target (hcls : cls < 64) (htgt : tgt < 8) : fld (leafNode cls tgt) 48 15 = tgt := by
  rw [fld, leafNode]
  omega

theorem testBit_leafNode (hcls : cls < 64) (htgt : tgt < 8) : (leafNode cls tgt).testBit 63 = false :=
  Nat.testBit_lt_two_pow (by rw [leafNode]; omega)

/-- The root is a leaf: its target takes the root's budget. -/
theorem shareFrom_leafNode (hcls : cls < 64) (htgt : tgt < 8) {root : BitVec 16} (hlim : off + 8 ≤ poolLimit x.part)
    (hshut : poolShut x off 8 = false) (hpoison : x.poisoned off 8 = false) (hnum : x.num off 8 = leafNode cls tgt) :
    shareFrom s t x off ex 256 0 [(0, root)] [] [] =
      .done' [{ slot := false, idx := tgt, val := if ex then 0xC000 else adj root 0 }] := by
  have hcount : fld (leafNode cls tgt) 10 2 = 0 := fld_leafNode_of_between hcls (by decide) (by decide)
  have herrs : nodeErrs (leafNode cls tgt) 0 [] = [] :=
    nodeErrs_of_leaf hcount (fld_leafNode_of_between hcls (by decide) (by decide))
      (fld_leafNode_of_between hcls (by decide) (by decide)) (fld_leafNode_above hcls htgt 12)
      fun j hj => fld_leafNode_of_between hcls (by omega) (by omega)
  have htarget := fld_leafNode_target hcls htgt
  have hkind := testBit_leafNode hcls htgt
  have hrest : ∀ j, 1 ≤ j → AMap.get [(0, root)] j = none := fun j hj => by simp [AMap.get, show 0 ≠ j by omega]
  generalize leafNode cls tgt = nd at *
  rw [shareFrom_of_leaf (n := 255) (i := 0) rfl hlim hshut hpoison hnum hkind hcount herrs,
    shareFrom_of_rest_unreached _ hrest, htarget, Nat.mod_eq_of_lt htgt, List.reverse_singleton]

end Leaf

end Walk

/-! ### The targets of a walk (R113) -/

/-- The budget registers that a walk's targets name take their values, in order. -/
def Thread.takeShares (t : Thread) (ts : List Target) : Thread :=
  ts.foldl (fun t g => if g.slot then t else t.wrB g.idx g.val) t

theorem Thread.takeShares_eq (t : Thread) (ts : List Target) : ∃ b, t.takeShares ts = { t with b := b } := by
  refine foldl_inv (fun u : Thread => ∃ b, u = { t with b := b }) _ ts ?_ t ⟨_, rfl⟩
  rintro _ g - ⟨b, rfl⟩
  split
  · exact ⟨_, rfl⟩
  · unfold Thread.wrB
    split <;> exact ⟨_, rfl⟩

/-- The last target of a register stands in it. -/
theorem Thread.rdB_takeShares (t : Thread) (ts : List Target) {r : Nat} (hr : r ≠ 0) : (t.takeShares ts).rdB r =
    match ts.reverse.find? (fun g => !g.slot && g.idx == r) with
    | some g => budgetMask g.val
    | none => t.rdB r := by
  induction ts using List.reverseRecOn with
  | nil => rfl
  | append_singleton ts g ih =>
    have hlast : t.takeShares (ts ++ [g]) =
        if g.slot then t.takeShares ts else (t.takeShares ts).wrB g.idx g.val := by
      simp [Thread.takeShares]
    rw [hlast, List.reverse_append, List.reverse_singleton, List.singleton_append, List.find?_cons]
    by_cases hg : (!g.slot && g.idx == r) = true
    · obtain ⟨hslot, hidx⟩ : g.slot = false ∧ g.idx = r := by simpa using hg
      simp [hslot, hidx, Thread.rdB_wrB, hr]
    · simp only [hg]
      rw [← ih]
      split
      · rfl
      · next hslot =>
        have hidx : r ≠ g.idx := fun h => hg (by simp [hslot, h])
        rw [Thread.rdB_wrB, if_neg (by simp [hidx])]

theorem rdB_takeShares_budgetAfter (s : State) (t : Thread) (ht : t.b = s.me.b) (ts : List Target) (r : Nat) :
    (t.takeShares ts).rdB r = Claims.budgetAfter s ts r := by
  unfold Claims.budgetAfter
  split
  · next hr => rw [hr, Thread.rdB_zero]
  · next hr =>
    rw [Thread.rdB_takeShares t ts hr, show t.rdB r = s.me.rdB r by rw [Thread.rdB, Thread.rdB, ht]]
    rfl

/-- Writing the targets changes of the acting thread its budget registers only, and of the rest its core's pool. -/
theorem applyTargets_me (s : State) (off : Nat) (ts : List Target) : (applyTargets s off ts).cur = s.cur ∧
    (applyTargets s off ts).mem = s.mem ∧ (applyTargets s off ts).me = s.me.takeShares ts := by
  induction ts generalizing s with
  | nil => exact ⟨rfl, rfl, rfl⟩
  | cons g ts ih =>
    obtain ⟨hcur, hmem, hme⟩ := ih (if g.slot then s.modCore s.cur.1 fun x => x.putNum (off + 2 * g.idx) 2 (budgetMask g.val).toNat
      else s.wrB g.idx g.val)
    refine ⟨hcur.trans ?_, hmem.trans ?_, hme.trans (congrArg (Thread.takeShares · ts) ?_)⟩
    · split <;> rfl
    · split <;> rfl
    · dsimp only
      split
      · exact State.thread_modCore s s.cur.1 s.cur.1 s.cur.2 _ fun _ => rfl
      · exact State.me_wrB ..

theorem pool_applyTargets (s : State) (off : Nat) {ts : List Target} (h : ∀ g ∈ ts, g.slot = false) (c : Nat) :
    ((applyTargets s off ts).core c).pool = (s.core c).pool := by
  refine foldl_inv (fun t : State => (t.core c).pool = (s.core c).pool) _ ts (fun t g hg ht => ?_) s rfl
  rw [h g hg, if_neg (by decide)]
  exact (pool_modMe t (fun x => x.wrB g.idx g.val) c).trans ht

theorem withShares_done {s : State} {off : Nat} {root : BitVec 16} {ex : Bool} {ts : List Target}
    (h : shareFrom s s.me s.myCore off ex 256 0 [(0, root)] [] [] = .done' ts) (k : State → Eff) :
    withShares s off root ex k = k (applyTargets s off ts) := by
  rw [withShares, h]

/-! ### demand (R126) -/

section Demand
variable {a : GSrc} {b : BSrc} {s : State}

theorem effDemand_of_other_pc (hopen : s.me.tol.isOpen = true) (hpc : s.me.pc ≠ s.me.tol.tentry) :
    effDemand a b s = .failAt s 0x0D 0 4 := if_pos ⟨hopen, hpc⟩

theorem effDemand_of_misaligned (hpc : s.me.tol.isOpen = true → s.me.pc = s.me.tol.tentry)
    (h : (readGSrc s a).toNat % 8 ≠ 0) : effDemand a b s = .failAt s 0x04 (readGSrc s a) 8 := by
  rw [effDemand, if_neg fun hand => hand.2 (hpc hand.1)]
  exact if_neg h

/-- The tightening that an opening goes on with: a restart keeps it. -/
def Tol.kept (o : Tol) : Nat := if o.isOpen then o.tight else 0

/-- The tolerant region that `demand` opens in place of `o`, with a root and a tree. -/
def Thread.openTol (t : Thread) (o : Tol) (root : BitVec 16) (tree : BitVec 19) (pc : Word) : Thread :=
  { t with tol := { t.tol with
      root := root, tree := tree, tight := o.kept, deficit := 0, short := false, exactpass := o.isOpen && o.exactpass
      isOpen := true, tentry := pc, treplays := if o.isOpen then o.treplays else 0, deferred := 0 } }

theorem or_tightened (r : BitVec 16) (n : Nat) :
    r ||| (if n ≠ 0 then 0x4000 else 0) = if n ≠ 0 then r ||| 0x4000 else r := by
  split <;> simp

/-- Where the memory region closes and the walk ends, the targets are written and the tolerant region is open. -/
theorem effDemand_of_done (hpc : s.me.tol.isOpen = true → s.me.pc = s.me.tol.tentry) (h8 : (readGSrc s a).toNat % 8 = 0)
    (hclose : Claims.closes s) {ts : List Target}
    (hwalk : shareFrom (drainRegion s s.cur.1 s.cur.2) (drainRegion s s.cur.1 s.cur.2).me
      (drainRegion s s.cur.1 s.cur.2).myCore (readGSrc s a).toNat (s.me.tol.isOpen && s.me.tol.exactpass) 256 0
      [(0, Claims.adjust (if s.me.tol.kept ≠ 0 then (readBSrc s b &&& 0xBFFF) ||| 0x4000 else readBSrc s b &&& 0xBFFF)
        s.me.tol.kept)] [] [] = .done' ts) :
    effDemand a b s = .ok ((applyTargets (drainRegion s s.cur.1 s.cur.2) (readGSrc s a).toNat ts).modMe fun t =>
      t.openTol s.me.tol (readBSrc s b &&& 0xBFFF) ((readGSrc s a).setWidth 19) s.me.pc) := by
  rw [effDemand, if_neg fun hand => hand.2 (hpc hand.1)]
  dsimp only
  rw [aligned_of_dvd h8, withClose_of_closes hclose, (keepsThread_drainRegion s).tol, or_tightened, adj_eq_adjust]
  exact withShares_done hwalk _

end Demand

theorem demand_of_done {h : Hdr} {a : GSrc} {b : BSrc} {s : State} (hg : guardHolds s h = true)
    (hpc : s.me.tol.isOpen = true → s.me.pc = s.me.tol.tentry) (h8 : (readGSrc s a).toNat % 8 = 0)
    (hclose : Claims.closes s) {ts : List Target}
    (hwalk : shareFrom (drainRegion s s.cur.1 s.cur.2) (drainRegion s s.cur.1 s.cur.2).me
      (drainRegion s s.cur.1 s.cur.2).myCore (readGSrc s a).toNat (s.me.tol.isOpen && s.me.tol.exactpass) 256 0
      [(0, Claims.adjust (if s.me.tol.kept ≠ 0 then (readBSrc s b &&& 0xBFFF) ||| 0x4000 else readBSrc s b &&& 0xBFFF)
        s.me.tol.kept)] [] [] = .done' ts) :
    ∃ w, exec (.demand h a b) s = .next w ∧ w.cur = s.cur ∧ w.me.pc = s.me.pc + 12 ∧ w.me.g = s.me.g ∧
      w.me.rgn.held = [] ∧ w.me.rgn.reads = [] ∧
      w.me.tol = (s.me.openTol s.me.tol (readBSrc s b &&& 0xBFFF) ((readGSrc s a).setWidth 19) s.me.pc).tol ∧
      (∀ k, w.me.rdB k = Claims.budgetAfter s ts k) ∧
      ((∀ g ∈ ts, g.slot = false) → ∀ c, (w.core c).pool = (s.core c).pool) := by
  have hkeeps := keepsThread_drainRegion s
  obtain ⟨hheld, hreads⟩ := drainRegion_empty s
  have hpool := pool_drainRegion s s.cur.1 s.cur.2
  obtain ⟨hcur, -, hme⟩ := applyTargets_me (drainRegion s s.cur.1 s.cur.2) (readGSrc s a).toNat ts
  have hslots := fun hts => pool_applyTargets (drainRegion s s.cur.1 s.cur.2) (readGSrc s a).toNat (ts := ts) hts
  refine ⟨_, run_ok hg (effDemand_of_done hpc h8 hclose hwalk), ?_⟩
  generalize drainRegion s s.cur.1 s.cur.2 = d at *
  have hregs := hkeeps.keepsRegisters
  have hbudgets := rdB_takeShares_budgetAfter s d.me hregs.b ts
  obtain ⟨_, hb⟩ := d.me.takeShares_eq ts
  rw [hb] at hme hbudgets
  rw [retire_me, State.me_modMe, hme]
  refine ⟨(retire_cur ..).trans (hcur.trans hregs.cur), rfl, hregs.g, hheld, hreads, ?_, hbudgets, fun hts c => ?_⟩
  · rw [Thread.retire_tol, Thread.openTol, Thread.openTol, hkeeps.tol]
  · rw [retire_pool, pool_modMe, hslots hts c, hpool c]

theorem demandOpens : Claims.DemandOpens := by
  intro h a b s hg t r o tight ex root s1 walk again opened
  refine ⟨fun hother => ?_, fun hpc h8 => run_failAt hg (effDemand_of_misaligned hpc h8), fun hpc h8 hclose ts hwalk => ?_,
    fun cls tgt hcls htgt hlim hshut hpoison hnum => ?_, fun hlim => ⟨_, shareFrom_of_beyond (n := 255) (i := 0) rfl hlim, rfl⟩⟩
  · obtain ⟨hopen, hpc⟩ := Classical.not_imp.mp hother
    exact run_failAt hg (effDemand_of_other_pc hopen hpc)
  · have hs1 : s1 = drainRegion s s.cur.1 s.cur.2 := congrArg Prod.snd (closeRegion_of_none hclose.2.2.2)
    have hdone : shareFrom s1 s1.me s1.myCore t.toNat ex 256 0 [(0, root)] [] [] = .done' ts := hwalk
    rw [hs1] at hdone
    exact demand_of_done hg hpc h8 hclose hdone
  · rw [← adj_eq_adjust]
    exact shareFrom_leafNode hcls htgt hlim hshut hpoison hnum

/-! ### settle (R123, R124, R127) -/

section Settle
variable {s : State}

theorem effSettle_of_closed (hopen : s.me.tol.isOpen = false) : effSettle s = .failAt s 0x0D 0 5 := if_pos hopen

theorem effSettle_of_open (hopen : s.me.tol.isOpen = true) : effSettle s =
    if sidingIdle s s.cur.1 s.cur.2 = false then .wait s
    else if s.me.tol.short && !s.me.tol.exactpass then replay s else settleClose s := if_neg (by simp [hopen])

/-- The next pass of a region: the last one is dropped, and the region goes on tightened (R123). -/
def Thread.replayTol (t : Thread) (o : Tol) : Thread :=
  { t.dropRegion with tol := { t.tol with
      treplays := o.treplays + 1, tight := min (o.tight + o.deficit) 4095, exactpass := o.treplays + 1 == 3, short := false
      deficit := 0, deferred := 0 } }

theorem replay_of_done {ts : List Target} (hwalk : shareFrom s s.me s.myCore s.me.tol.tree.toNat (s.me.tol.treplays + 1 == 3)
      256 0 [(0, Claims.adjust (s.me.tol.root ||| 0x4000) (min (s.me.tol.tight + s.me.tol.deficit) 4095 : Nat))] [] [] =
      .done' ts) :
    replay s = .jump ((applyTargets s s.me.tol.tree.toNat ts).modMe fun t => t.replayTol s.me.tol) (s.me.tol.tentry + 12) := by
  rw [replay]
  dsimp only
  rw [adj_eq_adjust]
  exact withShares_done hwalk _

theorem settle_of_short {h : Hdr} (hg : guardHolds s h = true) (hopen : s.me.tol.isOpen = true)
    (hidle : sidingIdle s s.cur.1 s.cur.2 = true) (hshort : (s.me.tol.short && !s.me.tol.exactpass) = true)
    {ts : List Target} (hwalk : shareFrom s s.me s.myCore s.me.tol.tree.toNat (s.me.tol.treplays + 1 == 3)
      256 0 [(0, Claims.adjust (s.me.tol.root ||| 0x4000) (min (s.me.tol.tight + s.me.tol.deficit) 4095 : Nat))] [] [] =
      .done' ts) :
    ∃ w, exec (.settle h) s = .next w ∧ w.cur = s.cur ∧ w.me.pc = s.me.tol.tentry + 12 ∧ w.me.g = s.me.g ∧
      w.me.rgn = { held := [], reads := [], written := [], conflict := s.me.rgn.conflict } ∧ w.mem = s.mem ∧
      w.me.tol = (s.me.replayTol s.me.tol).tol ∧ (∀ k, w.me.rdB k = Claims.budgetAfter s ts k) := by
  have hsettle : effSettle s = replay s := by
    rw [effSettle_of_open hopen, hidle, hshort]
    rfl
  obtain ⟨hcur, hmem, hme⟩ := applyTargets_me s s.me.tol.tree.toNat ts
  have hbudgets := rdB_takeShares_budgetAfter s s.me rfl ts
  obtain ⟨_, hb⟩ := s.me.takeShares_eq ts
  rw [hb] at hme hbudgets
  refine ⟨_, run_jump hg (hsettle.trans (replay_of_done hwalk)), ?_⟩
  rw [retire_me, State.me_modMe, hme]
  exact ⟨(retire_cur ..).trans hcur, rfl, rfl, rfl, (retire_mem ..).trans hmem, rfl, hbudgets⟩

/-- The tolerant region is closed. -/
def Thread.closeTol (t : Thread) : Thread := { t with tol := { t.tol with isOpen := false, deferred := 0 } }

theorem settleClose_of_closes (hclose : Claims.closes s) (hdeferred : s.me.tol.deferred = 0) :
    settleClose s = .ok ((drainRegion s s.cur.1 s.cur.2).modMe Thread.closeTol) := by
  rw [settleClose, withClose_of_closes hclose]
  exact if_pos (by rw [(keepsThread_drainRegion s).tol, hdeferred])

theorem settle_of_closes {h : Hdr} (hg : guardHolds s h = true) (hsettle : effSettle s = settleClose s)
    (hclose : Claims.closes s) (hdeferred : s.me.tol.deferred = 0) :
    ∃ w, exec (.settle h) s = .next w ∧ Claims.onlyPc s w ∧ w.me.rgn.held = [] ∧ w.me.rgn.reads = [] ∧
      w.me.tol = s.me.closeTol.tol := by
  have hkeeps := keepsThread_drainRegion s
  obtain ⟨hheld, hreads⟩ := drainRegion_empty s
  refine ⟨_, run_ok hg (hsettle.trans (settleClose_of_closes hclose hdeferred)), ?_⟩
  generalize drainRegion s s.cur.1 s.cur.2 = d at *
  have hcloses : KeepsRegisters d (d.modMe Thread.closeTol) := by
    constructor
    · rfl
    all_goals rw [State.me_modMe]; rfl
  refine ⟨(hkeeps.keepsRegisters.trans hcloses).onlyPc _, ?_⟩
  rw [retire_me, State.me_modMe]
  exact ⟨hheld, hreads, by rw [Thread.retire_tol, Thread.closeTol, Thread.closeTol, hkeeps.tol]⟩

end Settle

theorem settleReplaysOrCloses : Claims.SettleReplaysOrCloses := by
  intro h s hg o idle short tight ex walk replayed
  refine ⟨fun hopen => run_failAt hg (effSettle_of_closed hopen), fun hopen hidle => run_wait hg ?_,
    fun hopen hidle hshort ts hwalk => settle_of_short hg hopen hidle hshort hwalk, fun hopen hidle hshort hheld hgone => ?_⟩
  · rw [effSettle_of_open hopen]
    exact if_pos hidle
  · have hsettle : effSettle s = settleClose s := by
      rw [effSettle_of_open hopen, show sidingIdle s s.cur.1 s.cur.2 = true from hidle,
        show (s.me.tol.short && !s.me.tol.exactpass) = false from hshort]
      rfl
    refine ⟨fun hnone hdeferred => settle_of_closes hg hsettle ⟨hidle, hheld, hgone, hnone⟩ hdeferred, fun e he => ?_⟩
    exact run_trap hg (hsettle.trans (withClose_of_conflict hidle hheld hgone he _))

/-- Settles O23: a walk writes its budgets in order, so each register keeps its last target's; the close before it leaves
the thread an empty region, and `settle` replays, closes or traps by the state of the pass and of the memory region. -/
theorem tolerantRegions : Obligations.TolerantRegions := ⟨demandOpens, settleReplaysOrCloses⟩

end Sys2Proof.Machine

/-! PROOFS. Reads of the vector siding (R130, R196, R330, R335): the packet actions, the hand-off of an instruction that
waits for a value, and what it comes to in each state of the queue. -/

namespace Sys2Proof.Machine

open Sys2Proof

/-! ### Cores and threads with one field replaced -/

/-- The core with `l` as its siding queue. -/
def Core.withSeq (x : Core) (l : List SeqEntry) : Core := { x with seq := l }

/-- The thread with `v` as what it waits for. -/
def Thread.withWait (t : Thread) (v : Option (Word × Option Word)) : Thread := { t with vwait := v }

theorem Core.setSlot_setSlot (x : Core) (k : Nat) (t u : Thread) : (x.setSlot k t).setSlot k u = x.setSlot k u := by
  rw [Core.setSlot, Core.setSlot, Core.setSlot, AMap.set_set]

theorem Core.setSlot_withSeq (x : Core) (k : Nat) (t : Thread) (l : List SeqEntry) :
    (x.withSeq l).setSlot k t = (x.setSlot k t).withSeq l := rfl

theorem Core.slot_withSeq (x : Core) (k : Nat) (l : List SeqEntry) : (x.withSeq l).slot k = x.slot k := rfl

theorem Core.emptyTags_withSeq (x : Core) (l : List SeqEntry) : (x.withSeq l).emptyTags = x.emptyTags := rfl

theorem Core.pool_withSeq (x : Core) (l : List SeqEntry) : (x.withSeq l).pool = x.pool := rfl

theorem Core.num_withSeq (x : Core) (l : List SeqEntry) (o n : Nat) : (x.withSeq l).num o n = x.num o n := rfl

theorem Core.withSeq_withSeq (x : Core) (l l' : List SeqEntry) : (x.withSeq l).withSeq l' = x.withSeq l' := rfl

theorem Core.setSlot_withSeq_of_seq {x : Core} {k : Nat} {t : Thread} {l : List SeqEntry} (h : x.seq = l) :
    (x.setSlot k t).withSeq l = x.setSlot k t := by
  rw [← h]
  rfl

theorem Thread.withWait_withWait (t : Thread) (v w : Option (Word × Option Word)) :
    (t.withWait v).withWait w = t.withWait w := rfl

/-! ### Actions of a packet -/

section Packets
variable {s s' : State} {c k : Nat}

theorem Pk.bind_of_some {α β : Type} {x : Pk α} {a : α} (h : x s = some (a, s')) (f : α → Pk β) : (x >>= f) s = f a s' := by
  simp [bind, StateT.bind, h]

/-- A register that no stream is bound to reads as it stands. -/
theorem pkRead_of_unbound {r : Nat} (h : boundStream (s.thread c k) r = none) (bad : Lanes) :
    pkRead c k r bad s = some ((s.thread c k).rdV r, s) := by
  rw [pkRead, Pk.bind_of_some (a := s.thread c k) (s' := s) rfl, h]
  rfl

end Packets

/-! ### Lanes (R311) -/

theorem vWidth_pos (t : VTy) : 0 < 256 / vWidth t := by
  cases t with
  | int t => cases t <;> decide
  | _ => simp [vWidth]

theorem getD_lanesOf {n i : Nat} (hi : i < 256 / n) (x : Lanes) : (lanesOf n x).getD i 0 = Claims.lane n x i := by
  simp [lanesOf, hi, Claims.lane, fld, Nat.shiftRight_eq_div_pow]

/-! ### The queue behind an instruction that waits (R196, R322) -/

theorem length_closeBodies (k : Nat) (l : List SeqEntry) : (closeBodies k l).length = l.length := by
  induction l with
  | nil => rfl
  | cons e l ih => rw [closeBodies, List.length_cons, List.length_cons, ih]

theorem slots_closeBodies (k : Nat) (l : List SeqEntry) : (closeBodies k l).map SeqEntry.slot = l.map SeqEntry.slot := by
  induction l with
  | nil => rfl
  | cons e l ih =>
    rw [closeBodies, List.map_cons, List.map_cons, ih]
    split <;> rfl

/-- Bodies of other slots stay open. -/
theorem closeBodies_of_idle {k : Nat} {l : List SeqEntry} (h : l.all (fun e => e.slot != k) = true) : closeBodies k l = l := by
  induction l with
  | nil => rfl
  | cons e l ih =>
    obtain ⟨hslot, hl⟩ := Bool.and_eq_true_iff.mp h
    have hne : (e.slot == k) = false := by simpa using hslot
    rw [closeBodies, ih hl, hne]
    rfl

theorem all_slot_ne_iff (k : Nat) (l : List SeqEntry) :
    l.all (fun e => e.slot != k) = (l.map SeqEntry.slot).all (fun j => j != k) := by
  rw [List.all_map]
  rfl

/-- The state in which an instruction that reads the siding is handed off: the bodies of its slot are ended. -/
def bodiesClosed (s : State) : State := s.modCore s.cur.1 fun x => { x with seq := closeBodies s.cur.2 x.seq }

theorem bodiesClosed_me (s : State) : (bodiesClosed s).me = s.me := State.thread_modCore _ _ _ _ _ fun _ => rfl

theorem bodiesClosed_seq (s : State) : (bodiesClosed s).myCore.seq = closeBodies s.cur.2 s.myCore.seq :=
  congrArg Core.seq (State.core_modCore_self ..)

theorem sidingIdle_bodiesClosed (s : State) :
    sidingIdle (bodiesClosed s) s.cur.1 s.cur.2 = sidingIdle s s.cur.1 s.cur.2 := by
  have hseq := bodiesClosed_seq s
  have hme := bodiesClosed_me s
  rw [State.myCore] at hseq
  rw [State.me] at hme
  change ((bodiesClosed s).core s.cur.1).seq = _ at hseq
  change (bodiesClosed s).thread s.cur.1 s.cur.2 = _ at hme
  rw [sidingIdle, sidingIdle, hseq, hme, all_slot_ne_iff, slots_closeBodies, ← all_slot_ne_iff]
  rfl

theorem deferredTrap_of_none {s : State} (h : s.me.ppoison = none) (e : Eff) : deferredTrap s e = e := by
  rw [deferredTrap, h]

theorem deferredTrap_of_some {s : State} {f : Nat × Word} (h : s.me.ppoison = some f) (e : Eff) :
    deferredTrap s e = .trap (s.modMe fun t => { t with ppoison := none }) (deferredInfo f) := by
  rw [deferredTrap, h]

theorem deferredInfo_poison (a : Word) : deferredInfo (0x11, a) = { cause := 0x11, addr := a, info := 1 } := by
  simp [deferredInfo]

/-! ### vsync (R335) -/

section Vsync
variable {s : State}

theorem effVsync_of_busy (h : sidingIdle s s.cur.1 s.cur.2 = false) : effVsync s = .wait (bodiesClosed s) :=
  if_neg (by rw [Bool.not_eq_true]; exact (sidingIdle_bodiesClosed s).trans h)

theorem effVsync_of_idle (h : sidingIdle s s.cur.1 s.cur.2 = true) :
    effVsync s = deferredTrap (bodiesClosed s) (.ok (bodiesClosed s)) :=
  if_pos ((sidingIdle_bodiesClosed s).trans h)

theorem bodiesClosed_of_idle (h : sidingIdle s s.cur.1 s.cur.2 = true) : bodiesClosed s = Claims.same s := by
  have hseq : closeBodies s.cur.2 (s.core s.cur.1).seq = (s.core s.cur.1).seq :=
    closeBodies_of_idle (Bool.and_eq_true_iff.mp h).1
  rw [bodiesClosed, Claims.same, State.modCore, State.modCore, hseq]

theorem vsync_idle {h : Hdr} (hg : guardHolds s h = true) (hidle : sidingIdle s s.cur.1 s.cur.2 = true)
    (hpoison : s.me.ppoison = none) : exec (.vsync h) s = Claims.retired h s (Claims.same s) := by
  rw [← bodiesClosed_of_idle hidle]
  refine run_ok hg ((effVsync_of_idle hidle).trans (deferredTrap_of_none ?_ _))
  rw [bodiesClosed_me, hpoison]

theorem vsync_busy {h : Hdr} (hg : guardHolds s h = true) (hbusy : sidingIdle s s.cur.1 s.cur.2 = false) :
    ∃ z, exec (.vsync h) s = .next z ∧ z.me = s.me ∧ z.cur = s.cur :=
  ⟨_, run_wait hg (effVsync_of_busy hbusy), bodiesClosed_me s, rfl⟩

theorem vsync_poisoned {h : Hdr} {a : Word} (hg : guardHolds s h = true)
    (hidle : sidingIdle s s.cur.1 s.cur.2 = true) (hpoison : s.me.ppoison = some (0x11, a)) :
    ∃ z, exec (.vsync h) s = .next (takeTrap z s.cur.1 s.cur.2 { cause := 0x11, addr := a, info := 1 } true) ∧
      z.me.ppoison = none ∧ z.me.g = s.me.g := by
  have htrap := (effVsync_of_idle hidle).trans (deferredTrap_of_some (by rw [bodiesClosed_me, hpoison]) _)
  rw [deferredInfo_poison] at htrap
  exact ⟨_, run_trap hg htrap, by rw [State.me_modMe], by rw [State.me_modMe, bodiesClosed_me]⟩

end Vsync

/-! ### Instructions that wait for a value (R196) -/

/-- The value that the thread waited for is taken. -/
def calmed (s : State) : State := s.modMe (·.withWait none)

/-- The thread waits for the value of the instruction at its pc. -/
def awaiting (s : State) : State := s.modMe fun t => t.withWait (some (t.pc, none))

section VecRead
variable {s : State} {i : Instr} {s0 : Word} {k : State → Word → Eff}

/-- Pending poison traps in the place of a read that has not begun (R321). -/
theorem vecRead_of_poison {f : Nat × Word} (hnew : s.me.vwait.map Prod.fst ≠ some s.me.pc) (hpoison : s.me.ppoison = some f) :
    vecRead s i s0 k = .trap (s.modMe fun t => { t with ppoison := none }) (deferredInfo f) := by
  rw [vecRead, if_neg hnew, deferredTrap_of_some hpoison]

theorem vecRead_of_begins (hnew : s.me.vwait.map Prod.fst ≠ some s.me.pc) (hpoison : s.me.ppoison = none) :
    vecRead s i s0 k = seqRoom (bodiesClosed s) (awaitValue (enqueue (awaiting (bodiesClosed s)) i s0 0 0 []) k) := by
  rw [vecRead, if_neg hnew, deferredTrap_of_none hpoison]
  rfl

theorem vecRead_of_full (hnew : s.me.vwait.map Prod.fst ≠ some s.me.pc) (hpoison : s.me.ppoison = none)
    (hfull : 16 ≤ s.myCore.seq.length) : vecRead s i s0 k = .wait (bodiesClosed s) := by
  rw [vecRead_of_begins hnew hpoison]
  exact if_pos (by rw [bodiesClosed_seq, length_closeBodies]; exact hfull)

theorem vecRead_of_again {v : Option Word} (hwait : s.me.vwait = some (s.me.pc, v)) : vecRead s i s0 k = awaitValue s k :=
  if_pos (by rw [hwait]; rfl)

theorem awaitValue_of_none {pc : Word} (hwait : s.me.vwait = some (pc, none)) : awaitValue s k = .wait s := by
  rw [awaitValue, hwait]

theorem awaitValue_of_some {pc v : Word} (hwait : s.me.vwait = some (pc, some v)) : awaitValue s k = k (calmed s) v := by
  rw [awaitValue, hwait]
  rfl

theorem seqRoom_of_lt {e : Eff} (h : s.myCore.seq.length < 16) : seqRoom s e = e := if_neg (by omega)

/-- The queue with the entry of a read behind what stood there. -/
def withEntry (s : State) (e : SeqEntry) : State := s.modCore s.cur.1 fun x => { x with seq := x.seq ++ [e] }

theorem enqueue_of_nonempty {s1 s2 : Word} {bs : List Byte} (h : s.myCore.seq ≠ []) :
    enqueue s i s0 s1 s2 bs = withEntry s (Claims.entry s i s0 s1 s2 bs) :=
  if_neg (by simp [h])

/-- Alone in the queue an entry's packet issues at once. -/
theorem enqueue_of_empty {s1 s2 : Word} {bs : List Byte} (h : s.myCore.seq = [])
    (hrep : isRepeat (Claims.entry s i s0 s1 s2 bs) = false) :
    enqueue s i s0 s1 s2 bs = (sidingStep (withEntry s (Claims.entry s i s0 s1 s2 bs)) s.cur.1).getD
      (withEntry s (Claims.entry s i s0 s1 s2 bs)) := by
  have hrep' : isRepeat (Claims.entry s i s0 s1 s2 bs) = false := hrep
  refine if_pos ?_
  rw [h, Claims.entry] at *
  rw [hrep']
  rfl

/-! ### A value delivered at once -/

theorem State.setCore_setCore (s : State) (c : Nat) (x y : Core) : (s.setCore c x).setCore c y = s.setCore c y := by
  simp [State.setCore]

theorem State.modCore_modCore (s : State) (c : Nat) (f g : Core → Core) :
    (s.modCore c f).modCore c g = s.modCore c fun x => g (f x) := by
  rw [State.modCore, State.core_modCore_self, State.modCore, State.setCore_setCore]
  rfl

theorem State.modMe_eq_modCore (s : State) (f : Thread → Thread) :
    s.modMe f = s.modCore s.cur.1 fun x => x.setSlot s.cur.2 (f (x.slot s.cur.2)) := rfl

theorem State.myCore_modCore (s : State) (f : Core → Core) : (s.modCore s.cur.1 f).myCore = f s.myCore :=
  State.core_modCore_self s s.cur.1 f

theorem State.modMe_modMe (s : State) (f g : Thread → Thread) : (s.modMe f).modMe g = s.modMe fun t => g (f t) := by
  rw [State.modMe_eq_modCore, State.modMe_eq_modCore, State.modCore_cur, State.modCore_modCore, State.modMe_eq_modCore]
  refine congrArg (s.setCore s.cur.1) ?_
  simp only [Core.slot_setSlot_self, Core.setSlot_setSlot]

/-- The state that an empty queue hands to a read whose packet has delivered `w` at once. -/
def deliveredNow (s : State) (e : SeqEntry) (w : Word) : State :=
  setSeq ((withEntry (awaiting (bodiesClosed s)) e).modThread s.cur.1 s.cur.2 (·.withWait (some (e.pc, some w)))) s.cur.1 []

/-- With an empty queue only the thread's wait is new. -/
theorem deliveredNow_eq {s : State} (h : s.myCore.seq = []) (e : SeqEntry) (w : Word) :
    deliveredNow s e w = s.modMe (·.withWait (some (e.pc, some w))) := by
  change ((((s.modCore s.cur.1 fun x => x.withSeq (closeBodies s.cur.2 x.seq)).modCore s.cur.1
    fun x => x.setSlot s.cur.2 ((x.slot s.cur.2).withWait (some ((x.slot s.cur.2).pc, none)))).modCore s.cur.1
    fun x => x.withSeq (x.seq ++ [e])).modCore s.cur.1
    fun x => x.setSlot s.cur.2 ((x.slot s.cur.2).withWait (some (e.pc, some w)))).modCore s.cur.1
    (fun x => x.withSeq []) = _
  rw [State.modCore_modCore, State.modCore_modCore, State.modCore_modCore, State.modCore_modCore]
  refine congrArg (s.setCore s.cur.1) ?_
  simp only [Core.setSlot_withSeq, Core.slot_withSeq, Core.slot_setSlot_self, Core.setSlot_setSlot, Core.withSeq_withSeq,
    Thread.withWait_withWait]
  exact Core.setSlot_withSeq_of_seq h

theorem deliveredNow_me {s : State} (h : s.myCore.seq = []) (e : SeqEntry) (w : Word) :
    (deliveredNow s e w).me = s.me.withWait (some (e.pc, some w)) := by
  rw [deliveredNow_eq h, State.me_modMe]

/-- Taking the value leaves the thread waiting for nothing, and nothing else has changed. -/
theorem calmed_deliveredNow {s : State} (h : s.myCore.seq = []) (e : SeqEntry) (w : Word) :
    calmed (deliveredNow s e w) = calmed s := by
  rw [deliveredNow_eq h, calmed, State.modMe_modMe]
  rfl

/-! ### The packet of a read that finds the queue empty -/

theorem valueAwaited_of_slot {x : Core} {k : Nat} (h : (x.slot k).vwait.isSome = true) : valueAwaited x = true := by
  rw [Core.slot, AMap.getD] at h
  cases hk : AMap.get x.slots k with
  | none => rw [hk] at h; cases h
  | some t =>
    rw [hk] at h
    exact List.any_eq_true.mpr ⟨(k, t), AMap.mem_of_get _ _ _ hk, h⟩

/-- A lone entry that no pre-emption holds back issues its packet and leaves the queue. -/
theorem sidingStep_of_single {s s1 : State} {c : Nat} {e : SeqEntry} (hseq : (s.core c).seq = [e])
    (hgo : (s.thread c e.slot).pend.preempt = none ∨ valueAwaited (s.core c) = true) (hrep : isRepeat e = false) (hpacket : packet c e.slot e s = some ((), s1)) :
    sidingStep s c = some (setSeq s1 c []) := by
  have hheld : ((s.thread c e.slot).pend.preempt.isSome && !valueAwaited (s.core c)) = false := by
    obtain hgo | hgo := hgo
    · rw [hgo]; rfl
    · rw [hgo, Bool.not_true, Bool.and_false]
  rw [sidingStep, hseq]
  simp only [hheld, hrep, hpacket, Bool.false_eq_true, if_false]

/-- The state in which the packet of a read issues at once. -/
def issuing (s : State) (e : SeqEntry) : State := withEntry (awaiting (bodiesClosed s)) e

theorem awaiting_bodiesClosed_me (s : State) :
    (awaiting (bodiesClosed s)).me = s.me.withWait (some (s.me.pc, none)) := by
  rw [awaiting, State.me_modMe, bodiesClosed_me]

theorem issuing_me (s : State) (e : SeqEntry) : (issuing s e).me = s.me.withWait (some (s.me.pc, none)) :=
  (State.thread_modCore (awaiting (bodiesClosed s)) _ _ _ (fun x => { x with seq := x.seq ++ [e] }) fun _ => rfl).trans
    (awaiting_bodiesClosed_me s)

theorem awaiting_bodiesClosed_seq (s : State) :
    (awaiting (bodiesClosed s)).myCore.seq = closeBodies s.cur.2 s.myCore.seq := by
  rw [← bodiesClosed_seq, awaiting, State.modMe_eq_modCore, State.myCore_modCore, Core.setSlot]

theorem issuing_seq (s : State) (e : SeqEntry) :
    (issuing s e).myCore.seq = closeBodies s.cur.2 s.myCore.seq ++ [e] := by
  rw [← awaiting_bodiesClosed_seq, issuing, withEntry, State.myCore_modCore]

theorem entry_awaiting (s : State) (i : Instr) (s0 : Word) :
    Claims.entry (awaiting (bodiesClosed s)) i s0 0 0 [] = Claims.entry s i s0 0 0 [] := by
  rw [Claims.entry, Claims.entry, awaiting_bodiesClosed_me]
  rfl

theorem vecRead_of_delivered {s : State} {i : Instr} {s0 w : Word} {k : State → Word → Eff}
    (hnew : s.me.vwait.map Prod.fst ≠ some s.me.pc) (hpoison : s.me.ppoison = none) (hempty : s.myCore.seq = [])
    (hrep : isRepeat (Claims.entry s i s0 0 0 []) = false)
    (hpacket : packet s.cur.1 s.cur.2 (Claims.entry s i s0 0 0 []) (issuing s (Claims.entry s i s0 0 0 [])) =
      some ((), (issuing s (Claims.entry s i s0 0 0 [])).modThread s.cur.1 s.cur.2 (·.withWait (some (s.me.pc, some w))))) :
    vecRead s i s0 k = k (calmed s) w := by
  have hseq : (awaiting (bodiesClosed s)).myCore.seq = [] := by rw [awaiting_bodiesClosed_seq, hempty, closeBodies]
  have hstep : sidingStep (issuing s (Claims.entry s i s0 0 0 [])) s.cur.1 =
      some (deliveredNow s (Claims.entry s i s0 0 0 []) w) := by
    refine sidingStep_of_single ?_ ?_ hrep hpacket
    · exact (issuing_seq ..).trans (by rw [hempty]; rfl)
    · refine Or.inr (valueAwaited_of_slot (k := s.cur.2) ?_)
      change (issuing s (Claims.entry s i s0 0 0 [])).me.vwait.isSome = true
      rw [issuing_me]
      rfl
  rw [vecRead_of_begins hnew hpoison, seqRoom_of_lt (by rw [bodiesClosed_seq, length_closeBodies, hempty]; decide),
    enqueue_of_empty hseq (by rw [entry_awaiting]; exact hrep), entry_awaiting]
  change awaitValue ((sidingStep (issuing s _) s.cur.1).getD _) k = _
  rw [hstep, Option.getD_some, awaitValue_of_some (by rw [deliveredNow_me hempty]; rfl), calmed_deliveredNow hempty]

end VecRead

end Sys2Proof.Machine
/-! PROOFS. The instructions that read the siding: `vext`, and `grade` into a g or a b register (R130, R330). -/

namespace Sys2Proof.Machine

open Sys2Proof

/-! ### What their packets deliver -/

section Delivery
variable {s : State} {e : SeqEntry} {b : Nat}

theorem issuing_thread (s : State) (e : SeqEntry) :
    (issuing s e).thread s.cur.1 s.cur.2 = s.me.withWait (some (s.me.pc, none)) := issuing_me s e

/-- The state after the packet of a read has delivered `w`. -/
def delivering (s : State) (e : SeqEntry) (w : Word) : State :=
  (issuing s e).modThread s.cur.1 s.cur.2 (·.withWait (some (s.me.pc, some w)))

theorem pkRead_issuing (hfree : boundStream s.me b = none) (bad : Lanes) :
    pkRead s.cur.1 s.cur.2 b bad (issuing s e) = some (s.me.rdV b, issuing s e) := by
  have hthread := issuing_thread s e
  rw [pkRead_of_unbound (by rw [hthread]; exact hfree), hthread]
  rfl

theorem pkGradeRead_issuing (hfree : boundStream s.me b = none) :
    pkGradeRead s.cur.1 s.cur.2 s.me.pc b (issuing s e) =
      some ((), delivering s e ((s.me.rdV b).grade.setWidth 64)) := by
  rw [pkGradeRead, Pk.bind_of_some (pkRead_issuing hfree 0)]
  rfl

/-- A lane as `vext` writes it (R330). -/
def extLane (t : VTy) (u : Bool) (s : State) (b : Fin 32) (i : Word) : Word :=
  let lane := Claims.vl s (vWidth t) b (i.toNat % (256 / vWidth t))
  if u then BitVec.ofNat 64 lane else (BitVec.ofNat (vWidth t) lane).signExtend 64

theorem sextW_eq_signExtend (x n : Nat) : sextW x n = (BitVec.ofNat n x).signExtend 64 := by
  rw [sextW, wordOf, sextI_eq]
  rfl

theorem pkExt_issuing {t : VTy} {u : Bool} {b : Fin 32} {i : Word} (hfree : boundStream s.me b.val = none) :
    pkExt s.cur.1 s.cur.2 s.me.pc t u b.val i (issuing s e) = some ((), delivering s e (extLane t u s b i)) := by
  rw [pkExt, Pk.bind_of_some (pkRead_issuing hfree _), getD_lanesOf (Nat.mod_lt _ (vWidth_pos t)), sextW_eq_signExtend]
  rfl

end Delivery

/-! ### A read in each state of the queue (R196, R321) -/

section Reads
variable {h : Hdr} {s : State} {i : Instr} {s0 : Word} {k : State → Word → Eff} {e : State → Eff}
  (hg : guardHolds s h = true) (hexec : exec i s = run h e s) (hread : e s = vecRead s i s0 k)

include hg hexec hread

theorem read_queued (hnew : s.me.vwait.map Prod.fst ≠ some s.me.pc) (hpoison : s.me.ppoison = none)
    (hne : s.myCore.seq ≠ []) (hroom : s.myCore.seq.length < 16) :
    ∃ z, exec i s = .next z ∧ z.cur = s.cur ∧ z.me = { s.me with vwait := some (s.me.pc, none) } ∧
      z.myCore.seq.length = s.myCore.seq.length + 1 ∧
      z.myCore.seq.getLast? = some (Claims.entry s i s0 0 0 []) := by
  have hlen : (bodiesClosed s).myCore.seq.length = s.myCore.seq.length := by rw [bodiesClosed_seq, length_closeBodies]
  have hne' : (awaiting (bodiesClosed s)).myCore.seq ≠ [] := by
    rw [awaiting_bodiesClosed_seq, ← List.length_pos_iff, length_closeBodies]
    exact List.length_pos_iff.mpr hne
  have hwait : e s = .wait (issuing s (Claims.entry s i s0 0 0 [])) := by
    rw [hread, vecRead_of_begins hnew hpoison, seqRoom_of_lt (by rw [hlen]; exact hroom), enqueue_of_nonempty hne',
      entry_awaiting]
    exact awaitValue_of_none (congrArg Thread.vwait (issuing_me ..))
  refine ⟨_, hexec.trans (run_wait hg hwait), rfl, issuing_me .., ?_, ?_⟩
  · rw [issuing_seq, List.length_append, length_closeBodies]
    rfl
  · rw [issuing_seq, List.getLast?_concat]

theorem read_full (hnew : s.me.vwait.map Prod.fst ≠ some s.me.pc) (hpoison : s.me.ppoison = none)
    (hfull : 16 ≤ s.myCore.seq.length) : ∃ z, exec i s = .next z ∧ z.me = s.me ∧ z.cur = s.cur :=
  ⟨_, hexec.trans (run_wait hg (hread.trans (vecRead_of_full hnew hpoison hfull))), bodiesClosed_me s, rfl⟩

theorem read_waiting (hwait : s.me.vwait = some (s.me.pc, none)) : exec i s = .next s :=
  hexec.trans (run_wait hg (hread.trans ((vecRead_of_again hwait).trans (awaitValue_of_none hwait))))

theorem read_delivered {v : Word} {z : State} (hwait : s.me.vwait = some (s.me.pc, some v)) (hk : k (calmed s) v = .ok z) :
    exec i s = Claims.retired h s z :=
  hexec.trans (run_ok hg (hread.trans ((vecRead_of_again hwait).trans ((awaitValue_of_some hwait).trans hk))))

theorem read_poisoned {a : Word} (hnew : s.me.vwait.map Prod.fst ≠ some s.me.pc)
    (hpoison : s.me.ppoison = some (0x11, a)) :
    ∃ z, exec i s = .next (takeTrap z s.cur.1 s.cur.2 { cause := 0x11, addr := a, info := 1 } true) ∧
      z.me.ppoison = none ∧ z.me.g = s.me.g := by
  have htrap := hread.trans (vecRead_of_poison hnew hpoison)
  rw [deferredInfo_poison] at htrap
  exact ⟨_, hexec.trans (run_trap hg htrap), by rw [State.me_modMe], by rw [State.me_modMe]⟩

theorem read_at_once {w : Word} {z : State} (hnew : s.me.vwait.map Prod.fst ≠ some s.me.pc) (hpoison : s.me.ppoison = none)
    (hempty : s.myCore.seq = []) (hrep : isRepeat (Claims.entry s i s0 0 0 []) = false)
    (hpacket : packet s.cur.1 s.cur.2 (Claims.entry s i s0 0 0 []) (issuing s (Claims.entry s i s0 0 0 [])) =
      some ((), delivering s (Claims.entry s i s0 0 0 []) w)) (hk : k (calmed s) w = .ok z) :
    exec i s = Claims.retired h s z :=
  hexec.trans (run_ok hg (hread.trans ((vecRead_of_delivered hnew hpoison hempty hrep hpacket).trans hk)))

end Reads

/-! ### The three instructions -/

/-- The instructions that read the siding, each with the value it holds from its hand-off. -/
def sidingReads (h : Hdr) (t : VTy) (u : Bool) (d : Fin 64) (e : Fin 8) (b : Fin 32) (x : GSrc) (s : State) :
    List (Instr × Word) :=
  [(.vext h t u d b x, readGSrc s x), (.grade h (.gFromV d b), 0), (.grade h (.bFromV e b), 0)]

theorem exec_sidingRead {h : Hdr} {t : VTy} {u : Bool} {d : Fin 64} {e : Fin 8} {b : Fin 32} {x : GSrc} {s : State}
    {i : Instr × Word} (hi : i ∈ sidingReads h t u d e b x s) :
    ∃ (eff : State → Eff) (k : State → Word → Eff), exec i.1 s = run h eff s ∧ eff s = vecRead s i.1 i.2 k := by
  simp only [sidingReads, List.mem_cons, List.not_mem_nil, or_false] at hi
  obtain rfl | rfl | rfl := hi
  · exact ⟨effVext h t u d b x, _, rfl, rfl⟩
  · exact ⟨effGrade h (.gFromV d b), _, rfl, rfl⟩
  · exact ⟨effGrade h (.bFromV e b), _, rfl, rfl⟩

section Instances
variable {h : Hdr} {t : VTy} {u : Bool} {d : Fin 64} {e : Fin 8} {b : Fin 32} {x : GSrc} {s : State}
  (hg : guardHolds s h = true)

include hg

theorem reads_delivered {v : Word} (hwait : s.me.vwait = some (s.me.pc, some v)) :
    exec (.vext h t u d b x) s = Claims.retired h s ((calmed s).wrG d.val v) ∧
      exec (.grade h (.gFromV d b)) s = Claims.retired h s ((calmed s).wrG d.val v) ∧
      exec (.grade h (.bFromV e b)) s = Claims.retired h s ((calmed s).wrB e.val (v.setWidth 16)) :=
  ⟨read_delivered (e := effVext h t u d b x) hg rfl rfl hwait rfl,
    read_delivered (e := effGrade h (.gFromV d b)) hg rfl rfl hwait rfl,
    read_delivered (e := effGrade h (.bFromV e b)) hg rfl rfl hwait rfl⟩

theorem reads_at_once (hnew : s.me.vwait.map Prod.fst ≠ some s.me.pc) (hpoison : s.me.ppoison = none)
    (hempty : s.myCore.seq = []) (hfree : boundStream s.me b.val = none) :
    exec (.vext h t u d b x) s = Claims.retired h s ((calmed s).wrG d.val (extLane t u s b (readGSrc s x))) ∧
      exec (.grade h (.gFromV d b)) s = Claims.retired h s ((calmed s).wrG d.val ((s.me.rdV b.val).grade.setWidth 64)) ∧
      exec (.grade h (.bFromV e b)) s = Claims.retired h s ((calmed s).wrB e.val (s.me.rdV b.val).grade) := by
  have hgrade : ((s.me.rdV b.val).grade.setWidth 64).setWidth 16 = (s.me.rdV b.val).grade :=
    BitVec.setWidth_setWidth_of_le _ (by decide)
  refine ⟨read_at_once (e := effVext h t u d b x) hg rfl rfl hnew hpoison hempty rfl (pkExt_issuing hfree) rfl,
    read_at_once (e := effGrade h (.gFromV d b)) hg rfl rfl hnew hpoison hempty rfl (pkGradeRead_issuing hfree) rfl,
    read_at_once (e := effGrade h (.bFromV e b)) hg rfl rfl hnew hpoison hempty rfl (pkGradeRead_issuing hfree) ?_⟩
  rw [hgrade]

end Instances

end Sys2Proof.Machine
/-! PROOFS. `vbupd` on words of the own scratchpad (R401): what one accepted update changes, what eight of them leave in
the pool, and the packet that issues at once. -/

namespace Sys2Proof.Machine

open Sys2Proof

/-! ### Numbers as bytes (R2) -/

theorem length_toBytes (n x : Nat) : (toBytes n x).length = n := by
  induction n generalizing x with
  | zero => rfl
  | succ n ih => rw [toBytes, List.length_cons, ih]

theorem ofBytes_toBytes (n x : Nat) : ofBytes (toBytes n x) = x % 2 ^ (8 * n) := by
  induction n generalizing x with
  | zero => rw [toBytes, ofBytes, Nat.mul_zero, pow_zero, Nat.mod_one]
  | succ n ih =>
    have hpow : 2 ^ (8 * (n + 1)) = 256 * 2 ^ (8 * n) := by
      rw [Nat.mul_succ, pow_add]
      exact Nat.mul_comm ..
    rw [toBytes, ofBytes, ih, BitVec.toNat_ofNat, hpow, Nat.mod_mul]

/-! ### What an update leaves alone -/

theorem AMap.get_map {α : Type} (m : AMap α) (f : α → α) (k : Nat) :
    AMap.get (m.map fun e => (e.1, f e.2)) k = (AMap.get m k).map f := by
  induction m with
  | nil => rfl
  | cons e m ih =>
    rw [List.map_cons, AMap.get, AMap.get, ih]
    split <;> rfl

theorem AMap.getD_map {α : Type} (m : AMap α) {f : α → α} {d : α} (hd : f d = d) (k : Nat) :
    AMap.getD (m.map fun e => (e.1, f e.2)) k d = f (AMap.getD m k d) := by
  rw [AMap.getD, AMap.get_map, AMap.getD]
  cases AMap.get m k with
  | none => exact hd.symm
  | some x => rfl

/-- Of core `c` an update changes bytes, tags (none for an untagged one) and the status of threads that a tag wakes. -/
structure UpdateFrame (c : Nat) (tag : Bool) (s t : State) : Prop where
  cur : t.cur = s.cur
  mem : t.mem = s.mem
  me : ∃ st, t.me = { s.me with status := st }
  core : ∃ pool tags slots, t.core c = { s.core c with pool := pool, emptyTags := tags, slots := slots }
  tags : tag = false → (t.core c).emptyTags = (s.core c).emptyTags

namespace UpdateFrame
variable {c : Nat} {tag : Bool} {s t u : State}

theorem refl (c : Nat) (tag : Bool) (s : State) : UpdateFrame c tag s s :=
  ⟨rfl, rfl, ⟨_, rfl⟩, ⟨_, _, _, rfl⟩, fun _ => rfl⟩

theorem trans (h : UpdateFrame c tag s t) (h' : UpdateFrame c tag t u) : UpdateFrame c tag s u := by
  obtain ⟨st, hst⟩ := h.me
  obtain ⟨st', hst'⟩ := h'.me
  obtain ⟨p, e, sl, hcore⟩ := h.core
  obtain ⟨p', e', sl', hcore'⟩ := h'.core
  exact ⟨h'.cur.trans h.cur, h'.mem.trans h.mem, ⟨st', by rw [hst', hst]⟩, ⟨p', e', sl', by rw [hcore', hcore]⟩,
    fun ht => (h'.tags ht).trans (h.tags ht)⟩

theorem keepsRegisters (h : UpdateFrame c tag s t) : KeepsRegisters s t := by
  obtain ⟨st, hst⟩ := h.me
  exact ⟨h.cur, by rw [hst], by rw [hst], by rw [hst], by rw [hst], by rw [hst], by rw [hst], by rw [hst]⟩

theorem putPool (s : State) (c : Nat) (tag : Bool) (f : Core → List Host.Cell) :
    UpdateFrame c tag s (s.modCore c fun x => { x with pool := f x }) :=
  ⟨rfl, rfl, ⟨_, State.thread_modCore _ _ _ _ _ fun _ => rfl⟩, ⟨_, _, _, State.core_modCore_self ..⟩,
    fun _ => by rw [State.core_modCore_self]⟩

end UpdateFrame

/-! ### Tags and their waiters (R276) -/

theorem Core.setTags_eq (x : Core) (o n : Nat) (full : Bool) :
    x.setTags o n full = { x with emptyTags := (x.setTags o n full).emptyTags } := by
  rw [Core.setTags, foldUp]
  refine foldl_inv (fun y : Core => y = { x with emptyTags := y.emptyTags }) _ _ (fun y i _ hy => ?_) x rfl
  rw [hy, Core.setTag]
  split <;> rfl

theorem frame_setTags (s : State) (c o n : Nat) (full : Bool) :
    UpdateFrame c true s (s.modCore c fun x => x.setTags o n full) := by
  refine ⟨rfl, rfl, ⟨_, State.thread_modCore _ _ _ _ _ fun x => ?_⟩,
    ⟨(s.core c).pool, ((s.core c).setTags o n full).emptyTags, (s.core c).slots, ?_⟩, nofun⟩
  · rw [Core.setTags_eq]
  · rw [State.core_modCore_self]
    exact Core.setTags_eq ..

/-- What a change of a tag of the line leaves of a thread. -/
def wokenByTag (c line : Nat) (t : Thread) : Thread :=
  if t.status = .parked (.tag c line) then { t with status := .ready } else t

theorem wokenByTag_eq (c line : Nat) (t : Thread) : ∃ st, wokenByTag c line t = { t with status := st } := by
  rw [wokenByTag]
  split
  · exact ⟨_, rfl⟩
  · exact ⟨_, rfl⟩

theorem thread_wakeTag_self (s : State) (c line k : Nat) :
    (wakeTag s c line).thread c k = wokenByTag c line (s.thread c k) := by
  rw [State.thread, wakeTag, State.core_modCore_self]
  exact AMap.getD_map (s.core c).slots (f := wokenByTag c line) (d := Thread.reset) rfl k

theorem thread_wakeTag (s : State) (c line c' k : Nat) :
    ∃ st, (wakeTag s c line).thread c' k = { s.thread c' k with status := st } := by
  by_cases hc : c' = c
  · rw [hc, thread_wakeTag_self]
    exact wokenByTag_eq ..
  · exact ⟨_, congrArg (Core.slot · k) (State.core_modCore_of_ne s _ hc)⟩

theorem frame_wakeTag (s : State) (c line : Nat) : UpdateFrame c true s (wakeTag s c line) :=
  ⟨rfl, rfl, thread_wakeTag .., ⟨_, _, _, State.core_modCore_self ..⟩, nofun⟩

theorem pool_wakeTag (s : State) (c line : Nat) : ((wakeTag s c line).core c).pool = (s.core c).pool := by
  rw [wakeTag, State.core_modCore_self]

theorem frame_setTagsWake (s : State) (c o n : Nat) (full : Bool) : UpdateFrame c true s (setTagsWake s c o n full) := by
  have h := (frame_setTags s c o n full).trans (frame_wakeTag _ c (o / 64 * 64))
  rw [setTagsWake]
  split
  · exact h
  · exact h.trans (frame_wakeTag ..)

theorem pool_setTagsWake (s : State) (c o n : Nat) (full : Bool) :
    ((setTagsWake s c o n full).core c).pool = (s.core c).pool := by
  have h : ((s.modCore c fun x => x.setTags o n full).core c).pool = (s.core c).pool := by
    rw [State.core_modCore_self, Core.setTags_eq]
  rw [setTagsWake]
  split
  · rw [pool_wakeTag, h]
  · rw [pool_wakeTag, pool_wakeTag, h]

/-! ### One update (R399) -/

/-- The word at `o` takes an update: it stands in the scratchpad, unpoisoned and before no shutter. -/
structure Updatable (x : Core) (o : Nat) : Prop where
  lt : o < 2 ^ 40
  aligned : o % 4 = 0
  scratch : inScratch x.part o 4 = true
  sound : x.poisoned o 4 = false
  openShutters : poolShut x o 4 = false

section Update
variable {s : State} {c o : Nat}

theorem Updatable.of_frame {tag : Bool} {t : State} (hf : UpdateFrame c tag s t) (h : Updatable (s.core c) o) :
    Updatable (t.core c) o := by
  obtain ⟨p, e, sl, hcore⟩ := hf.core
  rw [hcore]
  exact ⟨h.lt, h.aligned, h.scratch, h.sound, h.openShutters⟩

/-- The word that an update leaves. -/
def updated (x : Core) (o v fn : Nat) : Nat := bankFn (AMap.getD x.fns fn 0) (x.num o 4) (v % 2 ^ 32)

/-- The state with that word in the pool. -/
def withUpdate (s : State) (c o v fn : Nat) : State :=
  s.modCore c fun x => { x with pool := Cells.putN x.pool o (toBytes 4 (updated x o v fn)) }

theorem frame_withUpdate (s : State) (c o v fn : Nat) (tag : Bool) : UpdateFrame c tag s (withUpdate s c o v fn) :=
  UpdateFrame.putPool ..

theorem pool_withUpdate (s : State) (c o v fn : Nat) :
    ((withUpdate s c o v fn).core c).pool = Cells.putN (s.core c).pool o (toBytes 4 (updated (s.core c) o v fn)) := by
  rw [withUpdate, State.core_modCore_self]

theorem applyUpdate_of_updatable (h : Updatable (s.core c) o) (v fn : Nat) (tag : Bool) :
    applyUpdate s c o v fn tag =
      if tag then setTagsWake (withUpdate s c o v fn) c o 4 true else withUpdate s c o v fn := by
  rw [applyUpdate]
  simp only [h.sound]
  rfl

theorem frame_applyUpdate (h : Updatable (s.core c) o) (v fn : Nat) (tag : Bool) :
    UpdateFrame c tag s (applyUpdate s c o v fn tag) := by
  rw [applyUpdate_of_updatable h]
  cases tag with
  | false => exact frame_withUpdate ..
  | true => exact (frame_withUpdate ..).trans (frame_setTagsWake ..)

theorem pool_applyUpdate (h : Updatable (s.core c) o) (v fn : Nat) (tag : Bool) :
    ((applyUpdate s c o v fn tag).core c).pool =
      Cells.putN (s.core c).pool o (toBytes 4 (updated (s.core c) o v fn)) := by
  rw [applyUpdate_of_updatable h]
  cases tag with
  | false => exact pool_withUpdate ..
  | true => exact (pool_setTagsWake ..).trans (pool_withUpdate ..)

theorem num_applyUpdate (h : Updatable (s.core c) o) (hwf : Cells.wf (s.core c).pool = true) (v fn : Nat) (tag : Bool) :
    ((applyUpdate s c o v fn tag).core c).num o 4 = updated (s.core c) o v fn % 2 ^ 32 := by
  have hread := Cells.getN_putN_self (s.core c).pool o (toBytes 4 (updated (s.core c) o v fn)) hwf
  rw [length_toBytes] at hread
  rw [Core.num, Core.bytes, pool_applyUpdate h, hread, ofBytes_toBytes]

theorem bankAll_of_nil (h : (s.core c).bank = []) : bankAll s c = s := by
  rw [bankAll, h]
  rfl

/-- A lane for the own pool applies at once (R401). -/
theorem pkUpdate_own (h : Updatable (s.core c) o) (hbank : (s.core c).bank = []) (k v fn : Nat) (tag : Bool) :
    pkUpdate c k (winAddr o) v fn tag s = some ((), applyUpdate s c o v fn tag) := by
  have halign : (winAddr o).toNat % 4 = 0 := by
    have := h.aligned
    rw [toNat_winAddr h.lt]
    omega
  rw [pkUpdate, Pk.bind_of_some (a := s) (s' := s) rfl]
  simp only [windowAt_winAddr s c h.lt, halign, h.scratch, h.openShutters]
  simp [pkMod, bankAll_of_nil hbank]

end Update

/-! ### Eight updates -/

section Updates
variable {s : State} {c fn : Nat} {tag : Bool} {off v : Nat → Nat} {l : List Nat}

/-- The updates of the lanes in `l`, in order. -/
def applyUpdates (s : State) (c : Nat) (off v : Nat → Nat) (fn : Nat) (tag : Bool) (l : List Nat) : State :=
  l.foldl (fun t i => applyUpdate t c (off i) (v i) fn tag) s

theorem Updatable.rest {a : Nat} (h : ∀ i ∈ a :: l, Updatable (s.core c) (off i)) :
    ∀ i ∈ l, Updatable ((applyUpdate s c (off a) (v a) fn tag).core c) (off i) := fun i hi =>
  (h i (List.mem_cons_of_mem a hi)).of_frame (frame_applyUpdate (h a List.mem_cons_self) ..)

theorem frame_applyUpdates (h : ∀ i ∈ l, Updatable (s.core c) (off i)) :
    UpdateFrame c tag s (applyUpdates s c off v fn tag l) := by
  induction l generalizing s with
  | nil => exact UpdateFrame.refl ..
  | cons a l ih => exact (frame_applyUpdate (h a List.mem_cons_self) ..).trans (ih (Updatable.rest h))

theorem wf_pool_applyUpdate {o w : Nat} (h : Updatable (s.core c) o) (hwf : Cells.wf (s.core c).pool = true) :
    Cells.wf ((applyUpdate s c o w fn tag).core c).pool = true := by
  rw [pool_applyUpdate h]
  exact Cells.wf_putN _ _ _ hwf

theorem get_applyUpdate_outside {o w y : Nat} (h : Updatable (s.core c) o) (hwf : Cells.wf (s.core c).pool = true)
    (hy : y < o ∨ o + 4 ≤ y) :
    Cells.get ((applyUpdate s c o w fn tag).core c).pool y = Cells.get (s.core c).pool y := by
  rw [pool_applyUpdate h]
  exact Cells.get_putN_outside _ _ _ _ hwf (by rw [length_toBytes]; exact hy)

theorem get_applyUpdates_outside {y : Nat} (h : ∀ i ∈ l, Updatable (s.core c) (off i))
    (hwf : Cells.wf (s.core c).pool = true) (hy : ∀ i ∈ l, y < off i ∨ off i + 4 ≤ y) :
    Cells.get ((applyUpdates s c off v fn tag l).core c).pool y = Cells.get (s.core c).pool y := by
  induction l generalizing s with
  | nil => rfl
  | cons a l ih =>
    have ha := h a List.mem_cons_self
    exact (ih (Updatable.rest h) (wf_pool_applyUpdate ha hwf) fun i hi => hy i (List.mem_cons_of_mem a hi)).trans
      (get_applyUpdate_outside ha hwf (hy a List.mem_cons_self))

/-- A word that no lane names stays. -/
theorem num_applyUpdates_of_ne {o : Nat} (h : ∀ i ∈ l, Updatable (s.core c) (off i))
    (hwf : Cells.wf (s.core c).pool = true) (ho : o % 4 = 0) (hne : ∀ i ∈ l, off i ≠ o) :
    ((applyUpdates s c off v fn tag l).core c).num o 4 = (s.core c).num o 4 := by
  refine congrArg ofBytes (Cells.getN_congr _ _ _ _ fun x hlo hhi => get_applyUpdates_outside h hwf fun i hi => ?_)
  have hi4 := (h i hi).aligned
  have hne := hne i hi
  omega

/-- A word that one lane names takes that lane's update. -/
theorem num_applyUpdates {i : Nat} (h : ∀ j ∈ l, Updatable (s.core c) (off j)) (hwf : Cells.wf (s.core c).pool = true)
    (hnodup : l.Nodup) (hi : i ∈ l) (hne : ∀ j ∈ l, j ≠ i → off j ≠ off i) :
    ((applyUpdates s c off v fn tag l).core c).num (off i) 4 = updated (s.core c) (off i) (v i) fn % 2 ^ 32 := by
  induction l generalizing s with
  | nil => cases hi
  | cons a l ih =>
    obtain ⟨hal, hl⟩ := List.nodup_cons.mp hnodup
    have ha := h a List.mem_cons_self
    have hrest : ∀ j ∈ l, Updatable ((applyUpdate s c (off a) (v a) fn tag).core c) (off j) := Updatable.rest h
    have hwf' := wf_pool_applyUpdate (w := v a) (fn := fn) (tag := tag) ha hwf
    change ((applyUpdates (applyUpdate s c (off a) (v a) fn tag) c off v fn tag l).core c).num (off i) 4 = _
    by_cases hia : i = a
    · subst hia
      rw [num_applyUpdates_of_ne hrest hwf' ha.aligned, num_applyUpdate ha hwf]
      exact fun j hj => hne j (List.mem_cons_of_mem i hj) fun hji => hal (hji ▸ hj)
    · have hil : i ∈ l := (List.mem_cons.mp hi).resolve_left hia
      have hnum := num_applyUpdates_of_ne (v := v) (fn := fn) (tag := tag) (l := [a]) (o := off i)
        (fun j hj => h j (by rw [List.mem_singleton.mp hj]; exact List.mem_cons_self)) hwf (h i hi).aligned
        (fun j hj => by rw [List.mem_singleton.mp hj]; exact hne a List.mem_cons_self (Ne.symm hia))
      obtain ⟨p, e, sl, hcore⟩ := (frame_applyUpdate ha (v a) fn tag).core
      have hsame : updated ((applyUpdate s c (off a) (v a) fn tag).core c) (off i) (v i) fn =
          updated (s.core c) (off i) (v i) fn := by
        rw [updated, show ((applyUpdate s c (off a) (v a) fn tag).core c).num (off i) 4 = _ from hnum, hcore, updated]
      rw [ih hrest hwf' hl hil fun j hj => hne j (List.mem_cons_of_mem a hj), hsame]

end Updates

/-! ### The packet (R330, R401) -/

section Packet
variable {s : State} {c k : Nat}

/-- A fold of reads, each of a register that no stream is bound to, gives the registers' values and changes nothing. -/
theorem foldlM_reads {f : AMap VVal → Nat → Pk (AMap VVal)} {g : Nat → VVal}
    (hold : ∀ m r v, AMap.get m r = some v → f m r s = some (m, s)) {rs : List Nat}
    (hread : ∀ m, ∀ r ∈ rs, AMap.get m r = none → f m r s = some (AMap.set m r (g r), s)) (m : AMap VVal)
    (hm : ∀ r v, AMap.get m r = some v → v = g r) :
    ∃ q, rs.foldlM f m s = some (q, s) ∧ (∀ r v, AMap.get q r = some v → v = g r) ∧
      (∀ r, (r ∈ rs ∨ (AMap.get m r).isSome = true) → (AMap.get q r).isSome = true) := by
  induction rs generalizing m with
  | nil => exact ⟨m, rfl, hm, fun r hr => hr.resolve_left List.not_mem_nil⟩
  | cons a rs ih =>
    have hrest : ∀ m, ∀ r ∈ rs, AMap.get m r = none → f m r s = some (AMap.set m r (g r), s) :=
      fun m r hr => hread m r (List.mem_cons_of_mem a hr)
    rw [List.foldlM_cons]
    cases hget : AMap.get m a with
    | some v =>
      obtain ⟨q, hq, htrue, hall⟩ := ih hrest m hm
      refine ⟨q, (Pk.bind_of_some (hold m a v hget) _).trans hq, htrue, fun r hr => hall r ?_⟩
      obtain hr | hr := hr
      · obtain rfl | hr := List.mem_cons.mp hr
        · exact Or.inr (by rw [hget]; rfl)
        · exact Or.inl hr
      · exact Or.inr hr
    | none =>
      have hset : ∀ r, AMap.get (AMap.set m a (g a)) r = if r = a then some (g a) else AMap.get m r :=
        fun r => AMap.get_set m a r (g a)
      obtain ⟨q, hq, htrue, hall⟩ := ih hrest (AMap.set m a (g a)) fun r v hv => by
        rw [hset] at hv
        split at hv
        next hra => rw [hra]; exact (Option.some.inj hv).symm
        next => exact hm r v hv
      refine ⟨q, (Pk.bind_of_some (hread m a List.mem_cons_self hget) _).trans hq, htrue, fun r hr => hall r ?_⟩
      by_cases hra : r = a
      · exact Or.inr (by rw [hset, if_pos hra]; rfl)
      · rw [hset, if_neg hra]
        exact hr.imp_left fun hr => (List.mem_cons.mp hr).resolve_left hra

/-- Registers that no stream is bound to read as they stand. -/
theorem pkReads_of_unbound {rs : List Nat} (hfree : ∀ r ∈ rs, boundStream (s.thread c k) r = none) (bad : Lanes) :
    ∃ q, pkReads c k bad rs s = some (q, s) ∧ ∀ r ∈ rs, AMap.getD q r VVal.zero = (s.thread c k).rdV r := by
  obtain ⟨q, hq, htrue, hall⟩ := foldlM_reads (s := s) (rs := rs) (g := (s.thread c k).rdV)
    (f := fun (m : AMap VVal) r => do
      match AMap.get m r with
      | some _ => pure m
      | none => do
        let v ← pkRead c k r bad
        pure (AMap.set m r v)) (fun m r v hv => by simp only [hv]; rfl)
    (fun m r hr hnone => by
      simp only [hnone]
      exact Pk.bind_of_some (pkRead_of_unbound (hfree r hr) bad) _) [] nofun
  refine ⟨q, hq, fun r hr => ?_⟩
  obtain ⟨v, hv⟩ := Option.isSome_iff_exists.mp (hall r (Or.inl hr))
  rw [AMap.getD, hv, htrue r v hv]

theorem opndV_at {q : AMap VVal} {r i : Nat} {x : VVal} (hq : AMap.getD q r VVal.zero = x) (hi : i < 8) :
    (opndV 32 q r).at i = Claims.lane 32 x.bits i := by
  rw [opndV, hq]
  exact getD_lanesOf hi x.bits

theorem mapM_pkUpdate {fn : Nat} {tag : Bool} {off v : Nat → Nat} {l : List Nat} {f : Nat → Pk Unit}
    (h : ∀ i ∈ l, Updatable (s.core c) (off i)) (hbank : (s.core c).bank = [])
    (hf : ∀ i ∈ l, f i = pkUpdate c k (winAddr (off i)) (v i) fn tag) :
    ∃ us, l.mapM f s = some (us, applyUpdates s c off v fn tag l) := by
  induction l generalizing s with
  | nil => exact ⟨[], rfl⟩
  | cons a l ih =>
    have ha := h a List.mem_cons_self
    obtain ⟨_, _, _, hcore⟩ := (frame_applyUpdate ha (v a) fn tag).core
    obtain ⟨us, hus⟩ := ih (Updatable.rest h) (by rw [hcore, hbank]) fun i hi => hf i (List.mem_cons_of_mem a hi)
    refine ⟨() :: us, ?_⟩
    rw [List.mapM_cons, hf a List.mem_cons_self, Pk.bind_of_some (pkUpdate_own ha hbank k (v a) fn tag),
      Pk.bind_of_some hus]
    rfl

theorem pkBupd_own {m : Word} {b y : Fin 32} {fn : Nat} {tag : Bool} {off : Nat → Nat}
    (hfree : ∀ r, boundStream (s.thread c k) r = none) (hbank : (s.core c).bank = [])
    (h : ∀ i, i < 8 → Updatable (s.core c) (off i))
    (haddr : ∀ i, i < 8 → m + BitVec.ofInt 64 (4 * Claims.int 32 (Claims.lane 32 ((s.thread c k).rdV b.val).bits i)) =
      winAddr (off i)) :
    pkBupd c k m b.val y.val fn tag s =
      some ((), applyUpdates s c off (Claims.lane 32 ((s.thread c k).rdV y.val).bits) fn tag (List.range 8)) := by
  obtain ⟨q, hq, hval⟩ := pkReads_of_unbound (c := c) (k := k) (rs := [b.val, y.val]) (fun r _ => hfree r) 0
  have hb := hval b.val List.mem_cons_self
  have hy := hval y.val (List.mem_cons_of_mem _ List.mem_cons_self)
  obtain ⟨us, hus⟩ := mapM_pkUpdate (k := k) (fn := fn) (tag := tag) (l := List.range 8)
    (v := Claims.lane 32 ((s.thread c k).rdV y.val).bits)
    (f := fun i => pkUpdate c k (m + wordOf (4 * sextI ((opndV 32 q b.val).at i) 32)) ((opndV 32 q y.val).at i) fn tag)
    (fun i hi => h i (List.mem_range.mp hi)) hbank (fun i hi => by
      have hi8 := List.mem_range.mp hi
      rw [opndV_at hb hi8, opndV_at hy hi8, sextI_eq, ← haddr i hi8]
      rfl)
  rw [pkBupd, Pk.bind_of_some hq, Pk.bind_of_some hus]
  rfl

end Packet

/-! ### The instruction (R401) -/

section Vbupd
variable {s : State} {hd : Hdr} {n : Fin 4} {u : Bool} {m : Mem} {b c : Fin 32} {o : Nat} {off : Nat → Nat}

theorem checkPool_own (ho : o < 2 ^ 40) (hscratch : inScratch s.myCore.part o 4 = true)
    (hlim : o + 4 ≤ poolLimit s.myCore.part) (hsill : s.me.priv = false → s.myCore.sill.toNat ≤ o) (k : Eff) :
    checkPool s (winAddr o) 4 k = k := by
  have hscratch' : inScratch (s.core s.cur.1).part o 4 = true := hscratch
  have htarget : tagTarget s (winAddr o) 4 = .inr (s.cur.1, o) := by
    rw [tagTarget, windowAt_winAddr s s.cur.1 ho]
    simp only [hscratch', poolCheck_eq_none (winAddr o) hlim hsill, if_true]
  rw [checkPool, htarget]

/-- Past its checks `vbupd` hands off, and alone in the queue its packet has issued. -/
theorem effVbupd_own (hsiding : Claims.sidingFree s) (htol : s.me.tol.isOpen = false)
    (haddr : memAddr s m 4 = winAddr o) (ho : o < 2 ^ 40) (halign : o % 4 = 0)
    (hscratch : inScratch s.myCore.part o 4 = true) (hlim : o + 4 ≤ poolLimit s.myCore.part)
    (hsill : s.me.priv = false → s.myCore.sill.toNat ≤ o) :
    effVbupd hd n u m b c s = .ok (enqueue s (.vbupd hd n u m b c) (winAddr o) 0 0 []) := by
  obtain ⟨hpoison, hseq, -, -⟩ := hsiding
  have hdvd : (winAddr o).toNat % 4 = 0 := by
    rw [toNat_winAddr ho]
    omega
  rw [effVbupd, haddr, deferredTrap_of_none hpoison, notTolerant_of_closed htol, aligned_of_dvd hdvd,
    checkPool_own ho hscratch hlim hsill, seqRoom_of_lt (by rw [hseq]; decide), handOff]

theorem Updatable.withSeq {x : Core} {o : Nat} (h : Updatable x o) (l : List SeqEntry) : Updatable (x.withSeq l) o :=
  ⟨h.lt, h.aligned, h.scratch, h.sound, h.openShutters⟩

theorem keepsRegisters_modSeq (s : State) (c : Nat) (f : List SeqEntry → List SeqEntry) :
    KeepsRegisters s (s.modCore c fun x => x.withSeq (f x.seq)) := by
  have hme : (s.modCore c fun x => x.withSeq (f x.seq)).me = s.me := State.thread_modCore _ _ _ _ _ fun _ => rfl
  exact ⟨rfl, by rw [hme], by rw [hme], by rw [hme], by rw [hme], by rw [hme], by rw [hme], by rw [hme]⟩

/-- The state after the packet of a `vbupd` that found the queue empty. -/
def bupdated (s : State) (e : SeqEntry) (off v : Nat → Nat) (fn : Nat) (tag : Bool) : State :=
  setSeq (applyUpdates (withEntry s e) s.cur.1 off v fn tag (List.range 8)) s.cur.1 []

section Bupdated
variable {e : SeqEntry} {v : Nat → Nat} {fn : Nat} {tag : Bool}

theorem core_withEntry (s : State) (e : SeqEntry) :
    (withEntry s e).core s.cur.1 = (s.core s.cur.1).withSeq ((s.core s.cur.1).seq ++ [e]) := State.core_modCore_self ..

theorem core_bupdated (s : State) (e : SeqEntry) (off v : Nat → Nat) (fn : Nat) (tag : Bool) :
    (bupdated s e off v fn tag).core s.cur.1 =
      ((applyUpdates (withEntry s e) s.cur.1 off v fn tag (List.range 8)).core s.cur.1).withSeq [] :=
  State.core_modCore_self ..

/-- The words that the lanes name take updates. -/
abbrev AllUpdatable (s : State) (off : Nat → Nat) : Prop := ∀ i, i < 8 → Updatable s.myCore (off i)

theorem AllUpdatable.withEntry (h : AllUpdatable s off) (e : SeqEntry) :
    ∀ i ∈ List.range 8, Updatable ((withEntry s e).core s.cur.1) (off i) := fun i hi => by
  rw [core_withEntry]
  exact (h i (List.mem_range.mp hi)).withSeq _

theorem frame_bupdated (h : AllUpdatable s off) (e : SeqEntry) (v : Nat → Nat) (fn : Nat) (tag : Bool) :
    UpdateFrame s.cur.1 tag (withEntry s e) (applyUpdates (withEntry s e) s.cur.1 off v fn tag (List.range 8)) :=
  frame_applyUpdates (h.withEntry e)

theorem keepsRegisters_bupdated (h : AllUpdatable s off) : KeepsRegisters s (bupdated s e off v fn tag) :=
  ((keepsRegisters_modSeq s s.cur.1 (· ++ [e])).trans (frame_bupdated h e v fn tag).keepsRegisters).trans
    (keepsRegisters_modSeq _ s.cur.1 fun _ => [])

theorem mem_bupdated (h : AllUpdatable s off) : (bupdated s e off v fn tag).mem = s.mem := (frame_bupdated h e v fn tag).mem

theorem emptyTags_bupdated (h : AllUpdatable s off) :
    ((bupdated s e off v fn false).core s.cur.1).emptyTags = s.myCore.emptyTags := by
  rw [core_bupdated, Core.emptyTags_withSeq, (frame_bupdated h e v fn false).tags rfl, core_withEntry,
    Core.emptyTags_withSeq]
  rfl

theorem wf_pool_withEntry (hwf : s.memWf = true) (e : SeqEntry) :
    Cells.wf ((withEntry s e).core s.cur.1).pool = true := by
  rw [core_withEntry]
  exact State.wf_pool hwf s.cur.1

theorem get_bupdated {y : Nat} (h : AllUpdatable s off) (hwf : s.memWf = true)
    (hy : ∀ i, i < 8 → y < off i ∨ off i + 4 ≤ y) :
    Cells.get ((bupdated s e off v fn tag).core s.cur.1).pool y = Cells.get s.myCore.pool y := by
  have hwf' := wf_pool_withEntry hwf e
  rw [core_bupdated, Core.pool_withSeq,
    get_applyUpdates_outside (h.withEntry e) hwf' fun i hi => hy i (List.mem_range.mp hi), core_withEntry, Core.pool_withSeq]
  rfl

theorem num_bupdated {i : Nat} (h : AllUpdatable s off) (hwf : s.memWf = true) (hi : i < 8)
    (hne : ∀ j, j < 8 → j ≠ i → off j ≠ off i) :
    ((bupdated s e off v fn tag).core s.cur.1).num (off i) 4 = updated s.myCore (off i) (v i) fn % 2 ^ 32 := by
  have hwf' := wf_pool_withEntry hwf e
  rw [core_bupdated, Core.num_withSeq, num_applyUpdates (h.withEntry e) hwf' List.nodup_range (List.mem_range.mpr hi)
    fun j hj => hne j (List.mem_range.mp hj), core_withEntry]
  rfl

end Bupdated

theorem enqueue_vbupd (hsiding : Claims.sidingFree s) (hbank : (s.core s.cur.1).bank = []) (h : AllUpdatable s off)
    {a : Word} (haddr : ∀ i, i < 8 → a + BitVec.ofInt 64 (4 * Claims.int 32 (Claims.vl s 32 b i)) = winAddr (off i)) :
    enqueue s (.vbupd hd n u m b c) a 0 0 [] =
      bupdated s (Claims.entry s (.vbupd hd n u m b c) a 0 0 []) off (Claims.vl s 32 c) n.val u := by
  obtain ⟨-, hseq, hpreempt, hfree⟩ := hsiding
  have hthread : (withEntry s (Claims.entry s (.vbupd hd n u m b c) a 0 0 [])).thread s.cur.1 s.cur.2 = s.me :=
    State.thread_modCore _ _ _ _ _ fun _ => rfl
  have hpacket := pkBupd_own (s := withEntry s (Claims.entry s (.vbupd hd n u m b c) a 0 0 [])) (c := s.cur.1)
    (k := s.cur.2) (m := a) (b := b) (y := c) (fn := n.val) (tag := u) (off := off) (by rw [hthread]; exact hfree)
    (by rw [core_withEntry]; exact hbank) (fun i hi => h.withEntry _ i (List.mem_range.mpr hi))
    (by rw [hthread]; exact haddr)
  rw [hthread] at hpacket
  have hsingle : ((withEntry s (Claims.entry s (.vbupd hd n u m b c) a 0 0 [])).core s.cur.1).seq =
      [Claims.entry s (.vbupd hd n u m b c) a 0 0 []] := by
    rw [core_withEntry]
    exact congrArg (· ++ [Claims.entry s (.vbupd hd n u m b c) a 0 0 []]) hseq
  rw [enqueue_of_empty hseq rfl, sidingStep_of_single hsingle (Or.inl (by
    change ((withEntry s _).thread s.cur.1 s.cur.2).pend.preempt = none
    rw [hthread, hpreempt])) rfl hpacket]
  rfl

end Vbupd

end Sys2Proof.Machine
/-! PROOFS. O38: the instructions that read the siding, and `vbupd` on words of the own scratchpad. -/

namespace Sys2Proof.Machine

open Sys2Proof

theorem num_retire (s : State) (pc : Word) (y : Bool) (c o n : Nat) :
    ((retire s pc y).core c).num o n = (s.core c).num o n := by
  rw [Core.num, Core.bytes, retire_pool]
  rfl

theorem emptyTags_retire (s : State) (pc : Word) (y : Bool) (c : Nat) :
    ((retire s pc y).core c).emptyTags = (s.core c).emptyTags := by
  obtain ⟨_, _, hcore⟩ := retireWith_core s pc y none c
  rw [show (retire s pc y).core c = _ from hcore]

/-- What `vbupd` leaves where its eight words stand in the own scratchpad (R401, log 65). -/
theorem vbupd_own {s : State} {h : Hdr} {n : Fin 4} {u : Bool} {m : Mem} {b c : Fin 32} {o : Nat} {off : Nat → Nat}
    (hg : guardHolds s h = true) (hsiding : Claims.sidingFree s) (htol : s.me.tol.isOpen = false) (hwf : s.memWf = true)
    (hbank : ∀ q, (s.core q).bank = []) (haddr : memAddr s m 4 = winAddr o) (ho : o < 2 ^ 40) (halign : o % 4 = 0)
    (hscratch : inScratch s.myCore.part o 4 = true) (hlim : o + 4 ≤ poolLimit s.myCore.part)
    (hsill : s.me.priv = false → s.myCore.sill.toNat ≤ o) (hwords : AllUpdatable s off)
    (hoff : ∀ i, i < 8 → winAddr o + BitVec.ofInt 64 (4 * Claims.int 32 (Claims.vl s 32 b i)) = winAddr (off i)) :
    ∃ z, exec (.vbupd h n u m b c) s = .next z ∧ Claims.onlyPc s z ∧ Claims.sameMem s z ∧
      (∀ i, i < 8 → (∀ j, j < 8 → j ≠ i → off j ≠ off i) → z.myCore.num (off i) 4 =
        bankFn (AMap.getD s.myCore.fns n.val 0) (s.myCore.num (off i) 4) (Claims.vl s 32 c i) % 2 ^ 32) ∧
      (∀ y, (∀ i, i < 8 → y < off i ∨ off i + 4 ≤ y) → Cells.get z.myCore.pool y = Cells.get s.myCore.pool y) ∧
      (u = false → z.myCore.emptyTags = s.myCore.emptyTags) := by
  have heff := effVbupd_own (hd := h) (n := n) (u := u) (b := b) (c := c) hsiding htol haddr ho halign hscratch hlim hsill
  rw [enqueue_vbupd hsiding (hbank _) hwords hoff] at heff
  have hkeep := keepsRegisters_bupdated (e := Claims.entry s (.vbupd h n u m b c) (winAddr o) 0 0 [])
    (v := Claims.vl s 32 c) (fn := n.val) (tag := u) hwords
  have hcur := hkeep.cur
  refine ⟨_, run_ok hg heff, hkeep.onlyPc _, ?_, fun i hi hne => ?_, fun y hy => ?_, fun hu => ?_⟩
  · rw [Claims.sameMem, retire_mem, mem_bupdated hwords]
    exact ⟨rfl, rfl, rfl, rfl⟩
  · have hlane : Claims.vl s 32 c i % 2 ^ 32 = Claims.vl s 32 c i := Nat.mod_eq_of_lt (BitVec.isLt _)
    rw [State.myCore, retire_cur, hcur, num_retire, num_bupdated hwords hwf hi hne, updated, hlane]
  · rw [State.myCore, retire_cur, hcur, retire_pool, get_bupdated hwords hwf hy]
  · subst hu
    rw [State.myCore, retire_cur, hcur, emptyTags_retire, emptyTags_bupdated hwords]

/-- Settles O38: what each read does in each state of the queue, `vsync` once its older work is done or not, the trap of
pending poison, and the eight updates of `vbupd` applied in lane order. -/
theorem vectorReadsAndUpdates : Obligations.VectorReadsAndUpdates := by
  intro h t u d e b c x n m s o hg
  refine ⟨fun hbegins hempty hfree => ?_, fun hbegins hne hroom i hi => ?_, fun hbegins hfull i hi => ?_,
    fun hwait i hi => ?_, fun v hwait => reads_delivered hg hwait, vsync_idle hg, vsync_busy hg, fun a hpoison => ⟨?_, ?_⟩,
    fun hsiding htol hwf hbank haddr ho halign hscratch hlim hsill off hwords => ?_⟩
  · exact reads_at_once hg hbegins.1 hbegins.2 hempty hfree
  · obtain ⟨_, _, hexec, hread⟩ := exec_sidingRead hi
    exact read_queued hg hexec hread hbegins.1 hbegins.2 hne hroom
  · obtain ⟨_, _, hexec, hread⟩ := exec_sidingRead hi
    exact read_full hg hexec hread hbegins.1 hbegins.2 hfull
  · obtain ⟨_, _, hexec, hread⟩ := exec_sidingRead hi
    exact read_waiting hg hexec hread hwait
  · exact fun hidle => vsync_poisoned hg hidle hpoison
  · intro hnew i hi
    obtain ⟨_, _, hexec, hread⟩ := exec_sidingRead hi
    exact read_poisoned hg hexec hread hnew hpoison
  · refine vbupd_own hg hsiding htol hwf hbank haddr ho halign hscratch hlim hsill (fun i hi => ?_) fun i hi => ?_
    · obtain ⟨-, hlt, hal, hsc, hsound, hshut⟩ := hwords i hi
      exact ⟨hlt, hal, hsc, hsound, hshut⟩
    · exact (congrArg (· + _) haddr.symm).trans (hwords i hi).1

end Sys2Proof.Machine

/-! PROOFS. Restoring a saved set (R438): the cluster on which its cores come to stand, and the target that O46 states. -/

namespace Sys2Proof.Machine

open Sys2Proof

/-! ### Where a saved core goes (log 74) -/

/-- The default of `minD` takes part in the minimum, so with the default 0 it is 0 for every list. -/
theorem minD_zero (l : List Nat) : minD 0 l = 0 := by
  induction l with
  | nil => rfl
  | cons x xs ih => rw [minD, ih, Nat.min_zero]

/-- A saved core stays in the target only where it came from cluster 0; from any other it goes to the target's partner. -/
theorem targetCore_eq (v : Saved) (cl c : Nat) :
    targetCore v cl c = coreAt (if clusterOf c = 0 then cl else partnerCluster cl) (posOf c) := by
  rw [targetCore, minD_zero]

/-! ### The target that O46 states -/

/-- A gang of one, saved from slot 0 of core 4, which stands in cluster 1. -/
def strayGang : Gang :=
  { launch := 0, node := 0, cluster := 1, members := [(4, 0)], inum := 0, startTick := 0, marked := none, token := false,
    started := true, fatal := none }

def straySet : Saved :=
  { launch := 0, gangs := [(1, strayGang)], cores := [(4, Core.reset)], depth := 0, reason := 1 }

/-- That set alone is saved, and die 0 runs with every cluster free. -/
def strayState : State :=
  { State.reset with disp := { Disp.reset with saved := [(0, straySet)] }, dies := [(0, { Die.reset with running := true })] }

/-- The set fits on cluster 2, and restoring it there places its gang where its core goes. -/
theorem restoreTo_strayState : fits strayState straySet 2 = true ∧
    ((restoreTo (dropEmpty strayState) 0 2).getD (dropEmpty strayState)).disp.gangs =
      [(1, { strayGang with members := [(targetCore straySet 2 4, 0)], cluster := clusterOf (targetCore straySet 2 4) })] := by
  decide

/-- Refutes O46: its last clause says that a set which fits on a cluster is restored on that cluster. Cores saved from any
cluster but 0 go to its partner (`targetCore_eq`): a gang saved from core 4 of cluster 1 and restored on cluster 2 comes to
stand on core 264 of cluster 34; the clause asks for core 8 of cluster 2. -/
theorem not_preemptionEvents : ¬ Obligations.PreemptionEvents := by
  intro h
  obtain ⟨hfits, hgangs⟩ := restoreTo_strayState
  obtain ⟨-, -, -, -, -, hrestore⟩ := h 2 0 0 1 4 0 strayGang [] straySet Core.reset strayState (by decide) rfl
  obtain ⟨-, -, hsole⟩ := hrestore (by decide) rfl
  obtain ⟨w, hw, -, hgang, -⟩ := hsole rfl rfl rfl rfl (by decide) (by decide) rfl hfits
  have hnext : w = (restoreTo (dropEmpty strayState) 0 2).getD (dropEmpty strayState) := (Host.Outcome.next.inj hw).symm
  rw [hnext, hgangs] at hgang
  have hcluster : clusterOf (targetCore straySet 2 4) = 2 := congrArg Gang.cluster (Option.some.inj hgang)
  rw [targetCore_eq] at hcluster
  exact absurd hcluster (by decide)

end Sys2Proof.Machine

/-! PROOFS. The host channel (R132-R135, R143): what a message sent, a message taken and an aborted tree leave of the state. -/

namespace Sys2Proof.Machine

open Sys2Proof

/-! ### Sending (R132, R133) -/

theorem flushAll_of_nil {s : State} (h : s.chan.pending = []) : flushAll s = s := by rw [flushAll, h]; rfl

/-- Without a queue of the host's nothing is written (R132). -/
theorem flushAll_of_no_queue {s : State} (h : s.chan.dqset = false) : flushAll s = s := by
  unfold flushAll
  cases hp : s.chan.pending with
  | nil => rfl
  | cons b bs =>
    simp only [List.length_cons, flushChan, hp]
    exact if_pos (.inl h)

/-- One held message goes into the next entry of a queue that has room (R132). -/
theorem flushAll_of_room {s : State} {b : List Byte} (hp : s.chan.pending = [b]) (hset : s.chan.dqset = true)
    (hroom : (s.chan.dqwritten + 2 ^ 32 - s.chan.dqhead % 2 ^ 32) % 2 ^ 32 < 2 ^ s.chan.dqlog) :
    flushAll s = { s with
      chan := { s.chan with pending := [], dqwritten := (s.chan.dqwritten + 1) % 2 ^ 32 }
      mem := { s.mem with
        host := Cells.putN s.mem.host (s.chan.dqbase.toNat + 64 * (s.chan.dqwritten % 2 ^ s.chan.dqlog)) b } } := by
  simp only [flushAll, flushChan, hp, List.length_cons, List.length_nil]
  exact if_neg (by simpa [hset] using hroom)

/-- A flush moves messages from the channel to host memory. -/
theorem flushChan_eq (n : Nat) (s : State) : ∃ p w m, flushChan n s =
    { s with chan := { s.chan with pending := p, dqwritten := w }, mem := { s.mem with host := m } } := by
  induction n generalizing s with
  | zero => exact ⟨_, _, _, rfl⟩
  | succ n ih =>
    rw [flushChan]
    split
    · exact ⟨_, _, _, rfl⟩
    · dsimp only
      split
      · exact ⟨_, _, _, rfl⟩
      · obtain ⟨p, w, m, h⟩ := ih _
        exact ⟨p, w, m, h⟩

/-- A message takes the next number; what has been received stays. -/
theorem sendMsg_eq (s : State) (typ n body : Nat) : ∃ ch m, sendMsg s typ n body = { s with chan := ch, mem := m } ∧
    ch.dsent = nextSeq s.chan.dsent ∧ ch.hrecv = s.chan.hrecv ∧ ch.hqread = s.chan.hqread := by
  obtain ⟨p, w, m, h⟩ := flushChan_eq _ _
  exact ⟨_, _, h, rfl, rfl, rfl⟩

/-! ### Taking the host's messages (R134) -/

theorem fld_zero (n len : Nat) : fld n 0 len = n % 2 ^ len := by rw [fld, pow_zero, Nat.div_one]

/-- The type of a message as R134 states it. -/
def typeOf (m : Nat) : Nat :=
  if m / 2 ^ 72 % 256 ≠ 0 ∨ m / 2 ^ 96 % 2 ^ 32 ≠ 0 ∨ 48 < m / 2 ^ 80 % 2 ^ 16 then 1
  else if m / 2 ^ 64 % 256 = 2 then 2 else if m / 2 ^ 64 % 256 = 3 then 3 else 1

theorem hostType_eq (m : Nat) : hostType m = typeOf m := by
  have hfld : fld m 64 8 = m / 2 ^ 64 % 256 := rfl
  show (if _ then _ else _) = (if _ then _ else _)
  refine ite_congr rfl (fun _ => rfl) fun _ => ?_
  rw [hfld]
  by_cases h2 : m / 2 ^ 64 % 256 = 2
  · rw [if_pos (.inl h2), if_pos h2, h2]
  · by_cases h3 : m / 2 ^ 64 % 256 = 3
    · rw [if_pos (.inr h3), if_neg h2, if_pos h3, h3]
    · rw [if_neg (not_or.mpr ⟨h2, h3⟩), if_neg h2, if_neg h3]

/-- The events that take host messages, each with the type it is for. -/
def hostEvents : List (Nat × Instr) := [(1, .hostAck), (2, .replayRequest), (3, .cancel)]

theorem exec_hostEvents {e : Nat × Instr} (he : e ∈ hostEvents) (s : State) :
    ∃ act, exec e.2 s = .next (hostEvent s e.1 act) := by
  simp only [hostEvents, List.mem_cons, List.not_mem_nil, or_false] at he
  obtain rfl | rfl | rfl := he <;> exact ⟨_, rfl⟩

section Taking
variable {s : State} {m typ : Nat} {act : Nat → State → State}

theorem hostNext_of_empty (h : s.chan.hqset = false ∨ s.chan.hqread = s.chan.hqtail) : hostNext s = none := by
  rw [hostNext, if_neg]
  rcases h with h | h <;> simp [h]

theorem hostNext_of_hostMessage (h : Claims.hostMessage s m) : hostNext s = some m := by
  obtain ⟨hset, hne, hm⟩ := h
  rw [hostNext, if_pos (by simp [hset, hne]), ← hm]

theorem hostEvent_of_none (h : hostNext s = none) : hostEvent s typ act = s := by rw [hostEvent, h]

theorem hostEvent_of_other (hm : Claims.hostMessage s m) (h : typ ≠ typeOf m) : hostEvent s typ act = s := by
  rw [hostEvent, hostNext_of_hostMessage hm]
  exact if_neg (by rw [hostType_eq]; exact Ne.symm h)

theorem hostEvent_of_type (hm : Claims.hostMessage s m) (h : typeOf m = typ) :
    hostEvent s typ act = hostTake s m (act m) := by
  rw [hostEvent, hostNext_of_hostMessage hm]
  exact if_pos ((hostType_eq m).trans h)

/-- The next message of the host has been read. -/
def hostRead (s : State) : State := { s with chan := { s.chan with hqread := (s.chan.hqread + 1) % 2 ^ 32 } }

/-- It has been accepted under its number. -/
def hostGot (s : State) (q : Nat) : State := { hostRead s with chan := { (hostRead s).chan with hrecv := q } }

theorem hostEvent_accepted (hm : Claims.hostMessage s m) (ht : typeOf m = typ) (hq : m % 2 ^ 32 = nextSeq s.chan.hrecv) :
    hostEvent s typ act = act m (hostGot s (m % 2 ^ 32)) := by
  rw [hostEvent_of_type hm ht, hostTake, fld_zero]
  exact if_pos hq

theorem hostEvent_repeated (hm : Claims.hostMessage s m) (ht : typeOf m = typ) (hq : m % 2 ^ 32 ≠ nextSeq s.chan.hrecv)
    (hold : m % 2 ^ 32 = s.chan.hrecv ∨ precedes (m % 2 ^ 32) s.chan.hrecv = true) :
    hostEvent s typ act = hostRead s := by
  rw [hostEvent_of_type hm ht, hostTake, fld_zero]
  exact (if_neg hq).trans (if_pos hold)

theorem hostEvent_gap (hm : Claims.hostMessage s m) (ht : typeOf m = typ) (hq : m % 2 ^ 32 ≠ nextSeq s.chan.hrecv)
    (hne : m % 2 ^ 32 ≠ s.chan.hrecv) (hnew : precedes (m % 2 ^ 32) s.chan.hrecv = false) :
    hostEvent s typ act = sendMsg (hostRead s) 0x85 4 (nextSeq s.chan.hrecv) := by
  rw [hostEvent_of_type hm ht, hostTake, fld_zero]
  exact (if_neg hq).trans (if_neg (not_or.mpr ⟨hne, ne_true_of_eq_false hnew⟩))

end Taking

/-! ### Replays (R135) -/

theorem precedes_self (n : Nat) : precedes n n = false := by
  have hd : (n + 2 ^ 32 - n % 2 ^ 32) % 2 ^ 32 = 0 := by omega
  simp only [precedes, hd]
  rfl

theorem replayFrom_of_future {s : State} {n : Nat} (h : precedes s.chan.dsent n = true) : replayFrom s n = s := by
  rw [replayFrom]
  exact if_pos h

/-- A replay of the last message, the only one kept, holds it again under the number received last. -/
theorem replayFrom_last {s : State} {n : Nat} {b : List Byte} (hsent : s.chan.dsent = n)
    (hold : s.chan.doldest = n) (hkept : s.chan.kept = [(n, b)]) (hset : s.chan.dqset = false) :
    replayFrom s n = { s with chan := { s.chan with
      pending := s.chan.pending ++ [b.take 4 ++ toBytes 4 s.chan.hrecv ++ b.drop 8] } } := by
  simp only [replayFrom, hsent, hold, hkept, precedes_self, Bool.false_eq_true, if_false]
  rw [flushAll_of_no_queue (by exact hset)]
  simp

/-! ### Aborted trees (R143) -/

theorem openDead_eq (s : State) (c k : Nat) : ∃ cs cl, openDead s c k = { s with cores := cs, clusters := cl } := by
  have hopen : ∀ (ps : List (Nat × Nat)) (t : State), ∃ cs, ps.foldl (fun t p =>
      t.modCore p.1 (fun x => { x with shutters := AMap.del x.shutters p.2 })) t = { t with cores := cs } := fun ps t =>
    foldl_inv (fun u : State => ∃ cs, u = { t with cores := cs }) _ ps (by rintro _ p - ⟨cs, rfl⟩; exact ⟨_, rfl⟩) t ⟨_, rfl⟩
  unfold openDead
  dsimp only
  obtain ⟨cs, h⟩ := hopen _ _
  rw [h]
  exact ⟨_, _, rfl⟩

theorem stopSlot_eq (s : State) (c k : Nat) : ∃ cs cl, stopSlot s c k = { s with cores := cs, clusters := cl } := by
  obtain ⟨cs, cl, h⟩ := openDead_eq s c k
  rw [stopSlot, h]
  exact ⟨_, _, rfl⟩

theorem stopGang_eq (s : State) (gid : Nat) : ∃ cs cl rs qs sb, stopGang s gid =
    { s with cores := cs, clusters := cl, disp := { s.disp with
      gangs := AMap.del s.disp.gangs gid, rings := rs, queries := qs, submits := sb } } := by
  obtain ⟨cs, cl, h⟩ : ∃ cs cl, (gangMembers s gid).foldl (fun s m => stopSlot s m.1 m.2) s =
      { s with cores := cs, clusters := cl } := by
    refine foldl_inv (fun t : State => ∃ cs cl, t = { s with cores := cs, clusters := cl }) _ _ ?_ s ⟨_, _, rfl⟩
    rintro _ m - ⟨cs, cl, rfl⟩
    obtain ⟨cs', cl', h⟩ := stopSlot_eq { s with cores := cs, clusters := cl } m.1 m.2
    exact ⟨cs', cl', h⟩
  rw [stopGang, h]
  exact ⟨_, _, _, _, _, rfl⟩

/-- Stopping some gangs leaves the launches, the saved sets and the channel. -/
theorem stopGangs_eq (gs : List (Nat × Gang)) (s : State) : ∃ cs cl rs qs sb m, gs.foldl (fun s e => stopGang s e.1) s =
    { s with cores := cs, clusters := cl, disp := { s.disp with gangs := m, rings := rs, queries := qs, submits := sb } } := by
  refine foldl_inv (fun t : State => ∃ cs cl rs qs sb m, t = { s with cores := cs, clusters := cl, disp := { s.disp with
    gangs := m, rings := rs, queries := qs, submits := sb } }) _ gs ?_ s ⟨_, _, _, _, _, _, rfl⟩
  rintro t e - ⟨cs, cl, rs, qs, sb, m, ht⟩
  obtain ⟨cs', cl', rs', qs', sb', h⟩ := stopGang_eq t e.1
  exact ⟨_, _, _, _, _, _, by rw [h, ht]⟩

/-- A stopped charter leaves the launches and the channel as they are. -/
theorem stopNode_eq (s : State) (lid i : Nat) : ∃ cs cl rs qs sb gs sv, stopNode s lid i =
    { s with cores := cs, clusters := cl, disp := { s.disp with
      gangs := gs, rings := rs, queries := qs, submits := sb, saved := sv } } := by
  obtain ⟨cs, cl, rs, qs, sb, gs, h⟩ := stopGangs_eq ((dropSaved s lid i).disp.gangs.filter
    (fun e => decide (e.2.launch = lid) && decide (e.2.node = i))) (dropSaved s lid i)
  rw [stopNode, h]
  exact ⟨_, _, _, _, _, _, _, rfl⟩

/-- An update of a charter keeps each launch's flags. -/
theorem aborted_modNode (s : State) (l i : Nat) (f : Node → Node) (lid : Nat) :
    (AMap.get (s.modNode l i f).disp.launches lid).map Launch.aborted = (AMap.get s.disp.launches lid).map Launch.aborted := by
  cases hl : AMap.get s.disp.launches l with
  | none => simp [State.modNode, hl]
  | some x =>
    cases hn : AMap.get x.nodes i with
    | none => simp [State.modNode, hl, hn]
    | some y =>
      simp only [State.modNode, hl, hn, State.modDisp_disp, AMap.get_set]
      split
      · next h => rw [h, hl]; rfl
      · rfl

/-- Ending a subtree sends nothing and keeps each launch's flags. -/
theorem endSubtree_keeps (s : State) (lid i status code : Nat) :
    (endSubtree s lid i status code).chan = s.chan ∧ ∀ l, (AMap.get (endSubtree s lid i status code).disp.launches l).map
      Launch.aborted = (AMap.get s.disp.launches l).map Launch.aborted := by
  refine foldl_inv (fun t : State => t.chan = s.chan ∧ ∀ l, (AMap.get t.disp.launches l).map Launch.aborted =
    (AMap.get s.disp.launches l).map Launch.aborted) _ _ ?_ s ⟨rfl, fun _ => rfl⟩
  rintro t p - ⟨hchan, hab⟩
  obtain ⟨cs, cl, rs, qs, sb, gs, sv, h⟩ := stopNode_eq t p.1 p.2
  refine ⟨by rw [State.modNode_chan, h]; exact hchan, fun l => ?_⟩
  rw [aborted_modNode, h]
  exact hab l

theorem cancelLaunch_of_nil {s : State} (h : s.disp.launches = []) (seq sp : Nat) : cancelLaunch s seq sp = s := by
  rw [cancelLaunch, h]
  rfl

/-- A cancel aborts the launch that it names and leaves the channel (R143). -/
theorem cancelLaunch_named {s : State} {lid : Nat} {x : Launch} (h : s.disp.launches = [(lid, x)]) (hdone : x.done = false) :
    (cancelLaunch s x.seq x.space).chan = s.chan ∧
      (AMap.get (cancelLaunch s x.seq x.space).disp.launches lid).map Launch.aborted = some true := by
  have hfind : s.disp.launches.find? (fun e => decide (e.2.seq = x.seq) && decide (e.2.space = x.space) && !e.2.done) =
      some (lid, x) := by
    rw [h]
    simp [hdone]
  rw [cancelLaunch, hfind]
  obtain ⟨hchan, hab⟩ := endSubtree_keeps
    { s with disp := { s.disp with launches := AMap.set s.disp.launches lid { x with aborted := true } } } lid 0 1 0
  refine ⟨hchan, (hab lid).trans ?_⟩
  simp

end Sys2Proof.Machine

/-! PROOFS. Ring commands of outside parties (R158, R159), and what an access of an agent outside the cores leaves. -/

namespace Sys2Proof.Machine

open Sys2Proof

/-! ### Accesses by agents outside the cores (R244) -/

theorem xlatePort_eq (s : State) (sp : Nat) (kind : WalkKind) (va : Nat) :
    ∃ m n, (xlatePort s sp kind va).2 = { s with mem := m, net := n } := by
  unfold xlatePort
  dsimp only
  split
  · exact ⟨_, _, rfl⟩
  · split <;> exact ⟨_, _, rfl⟩

theorem outsideWrite_eq (s : State) (w : Nat) (tr : Trans) (bs : List Byte) :
    ∃ m, outsideWrite s w tr bs = { s with mem := m } := by
  unfold outsideWrite
  split <;> exact ⟨_, rfl⟩

theorem spWrite_eq (w sp n : Nat) (s : State) (va : Nat) (bs : List Byte) :
    ∃ m net, (spWrite w sp n s va bs).2 = { s with mem := m, net := net } := by
  induction n generalizing s va bs with
  | zero => exact ⟨_, _, rfl⟩
  | succ n ih =>
    rw [spWrite]
    split
    · exact ⟨_, _, rfl⟩
    · obtain ⟨m, net, hx⟩ := xlatePort_eq s sp .write va
      split
      · next tr s1 heq =>
        rw [heq] at hx
        replace hx : s1 = _ := hx
        obtain ⟨m', hw⟩ := outsideWrite_eq s1 w tr (bs.take (chunkOf va bs.length))
        obtain ⟨m'', net', h⟩ := ih _ _ _
        exact ⟨_, _, by rw [h, hw, hx]⟩
      · next heq =>
        rw [heq] at hx
        exact ⟨_, _, hx⟩

/-- A write to a space changes the memory and the ports' translation cache. -/
theorem writeSpace_eq (s : State) (w sp va : Nat) (bs : List Byte) :
    ∃ m net, (writeSpace s w sp va bs).2 = { s with mem := m, net := net } := spWrite_eq ..

theorem ringBack_eq (s : State) (a : Nat) (r : Ring) : ∃ m net, ringBack s a r = { s with mem := m, net := net } := by
  obtain ⟨_, _, h1⟩ := writeSpace_eq s dispWriter r.space (a + 24) (toBytes 16 (ringCounters r))
  obtain ⟨_, _, h2⟩ := writeSpace_eq (writeSpace s dispWriter r.space (a + 24) (toBytes 16 (ringCounters r))).2 dispWriter
    r.space r.states.toNat ((List.range (ringSlots r)).map fun j => BitVec.ofNat 8 (AMap.getD r.st j 0))
  exact ⟨_, _, by rw [ringBack, h2, h1]⟩

/-! ### What a command shows (R159) -/

theorem ringShow_disp (s : State) (r : Option Ring) (x : Nat) : (ringShow s r x).disp = s.disp := rfl

theorem ringShow_rcres (s : State) (r : Option Ring) (x : Nat) : (ringShow s r x).mgmt.rcres = 2 * x := by
  cases r <;> exact Nat.mul_comm ..

theorem ringSelect_spec (s : State) (ring : Word) (sp : Nat) : (ringSelect s ring sp).mgmt.rcring = ring ∧
    (ringSelect s ring sp).mgmt.rcspace = sp % 2 ^ 16 ∧ (ringSelect s ring sp).disp = s.disp := by
  unfold ringSelect
  dsimp only
  split <;> exact ⟨rfl, rfl, rfl⟩

/-! ### A command by the ring that it finds (R158) -/

/-- The ring is one for input, or one for output, of an outside party. -/
def ringFor (s : State) (input : Bool) (r : Ring) : Bool :=
  let made := producers s r.launch s.mgmt.rcring.toNat
  let used := consumers s r.launch s.mgmt.rcring.toNat
  if input then made.isEmpty && !used.isEmpty else used.isEmpty && !made.isEmpty

section Sides
variable {s : State} {r : Ring}

theorem ringFor_of_input (hmade : producers s r.launch s.mgmt.rcring.toNat = [])
    (hused : consumers s r.launch s.mgmt.rcring.toNat ≠ []) : ringFor s true r = true ∧ ringFor s false r = false := by
  simp [ringFor, hmade, hused]

theorem ringFor_of_output (hused : consumers s r.launch s.mgmt.rcring.toNat = [])
    (hmade : producers s r.launch s.mgmt.rcring.toNat ≠ []) : ringFor s false r = true := by
  simp [ringFor, hmade, hused]

end Sides

section Commands
variable {s : State} {r r' : Ring} {input : Bool} {act : Ring → Option Ring} (hpaths : s.mem.paths = [])

include hpaths in
/-- With no packet on its way there is no earlier write to wait for. -/
theorem settleWriters_of_no_paths (sel : Nat → Bool) : settleWriters sel (packetCount s) s = s := by
  rw [packetCount, hpaths]
  rfl

include hpaths in
theorem ringCmd_of_none (h : AMap.get s.disp.rings (ringKey s.mgmt.rcspace s.mgmt.rcring.toNat) = none) :
    ringCmd s input act = ringShow s none 2 := by
  rw [ringCmd, settleWriters_of_no_paths hpaths]
  simp only [h]

section Named
variable (h : AMap.get s.disp.rings (ringKey s.mgmt.rcspace s.mgmt.rcring.toNat) = some r)
include hpaths h

theorem ringCmd_of_other_side (hside : ringFor s input r = false) : ringCmd s input act = ringShow s (some r) 2 := by
  rw [ringCmd, settleWriters_of_no_paths hpaths]
  simp only [h]
  exact if_pos (congrArg Bool.not hside)

theorem ringCmd_of_refused (hside : ringFor s input r = true) (hact : act r = none) :
    ringCmd s input act = ringShow s (some r) 1 := by
  rw [ringCmd, settleWriters_of_no_paths hpaths]
  simp only [h, hact]
  exact if_neg (by rw [← ringFor.eq_def, hside]; decide)

/-- A command that is carried out leaves its ring in the device, and at most writes it back to memory. -/
theorem ringCmd_of_done (hside : ringFor s input r = true) (hact : act r = some r') :
    (ringCmd s input act).mgmt.rcres = 0 ∧
      AMap.get (ringCmd s input act).disp.rings (ringKey s.mgmt.rcspace s.mgmt.rcring.toNat) = some r' := by
  obtain ⟨m, net, hback⟩ :=
    ringBack_eq (setRing s (ringKey s.mgmt.rcspace s.mgmt.rcring.toNat) r') s.mgmt.rcring.toNat r'
  rw [ringCmd, settleWriters_of_no_paths hpaths]
  simp only [h, hact]
  rw [if_neg (by rw [← ringFor.eq_def, hside]; decide), ringShow_rcres, ringShow_disp]
  refine ⟨rfl, ?_⟩
  split
  · rw [hback]
    exact AMap.get_set_self ..
  · exact AMap.get_set_self ..

end Named

end Commands

/-! ### Posts and retirements (R158) -/

theorem ringPostN_of_room {r : Ring} {n : Nat} (hpos : 1 ≤ n) (hmax : n ≤ 32768) (hroom : idx32 r.claim r.free + n ≤ 2 ^ r.nlog) :
    ringPostN n r = some { r with
      st := setStates r r.claim n 2, claim := (r.claim + n) % 2 ^ 32, post := (r.post + n) % 2 ^ 32 } :=
  if_neg (by rw [ringSlots]; omega)

theorem ringPostN_of_bad {r : Ring} {n : Nat} (h : n = 0 ∨ 32768 < n ∨ 2 ^ r.nlog < idx32 r.claim r.free + n) :
    ringPostN n r = none := if_pos h

theorem ringRetireN_of_posted {r : Ring} {n : Nat} (hpos : 1 ≤ n) (hmax : n ≤ 32768) (hposted : n ≤ idx32 r.post r.take) :
    ringRetireN n r = some { r with
      st := setStates r r.take n 0, take := (r.take + n) % 2 ^ 32, free := (r.free + n) % 2 ^ 32 } :=
  if_neg (by omega)

end Sys2Proof.Machine

/-! PROOFS. O47: host messages, the device's queue and ring commands, each event by what it finds. -/

namespace Sys2Proof.Machine

open Sys2Proof

/-! ### Host messages (R134, R135, R143) -/

section Messages
variable {s : State} {m : Nat} (hm : Claims.hostMessage s m)

/-- With no message to take, no event for one does anything. -/
theorem hostEvents_idle (h : s.chan.hqset = false ∨ s.chan.hqread = s.chan.hqtail) {e : Nat × Instr} (he : e ∈ hostEvents) :
    Claims.idles s e.2 := by
  obtain ⟨act, hexec⟩ := exec_hostEvents he s
  rw [Claims.idles, hexec, hostEvent_of_none (hostNext_of_empty h)]

include hm

/-- A message of one type is left alone by the events for the others. -/
theorem hostEvents_other {e : Nat × Instr} (he : e ∈ hostEvents) (ht : e.1 ≠ typeOf m) : Claims.idles s e.2 := by
  obtain ⟨act, hexec⟩ := exec_hostEvents he s
  rw [Claims.idles, hexec, hostEvent_of_other hm ht]

/-- A message out of sequence is dropped when it is a repeat, and answered with the number that is due otherwise. -/
theorem hostEvents_out_of_sequence {e : Nat × Instr} (he : e ∈ hostEvents) (ht : e.1 = typeOf m)
    (hq : m % 2 ^ 32 ≠ nextSeq s.chan.hrecv) :
    (m % 2 ^ 32 = s.chan.hrecv ∨ precedes (m % 2 ^ 32) s.chan.hrecv = true → exec e.2 s = .next (hostRead s)) ∧
      (m % 2 ^ 32 ≠ s.chan.hrecv → precedes (m % 2 ^ 32) s.chan.hrecv = false → ∃ w, exec e.2 s = .next w ∧
        w.chan.dsent = nextSeq s.chan.dsent ∧ w.chan.hrecv = s.chan.hrecv ∧ w.chan.hqread = (hostRead s).chan.hqread) := by
  obtain ⟨act, hexec⟩ := exec_hostEvents he s
  refine ⟨fun hold => ?_, fun hne hnew => ?_⟩
  · rw [hexec, hostEvent_repeated hm ht.symm hq hold]
  · obtain ⟨ch, mem, hsend, hsent, hrecv, hread⟩ := sendMsg_eq (hostRead s) 0x85 4 (nextSeq s.chan.hrecv)
    refine ⟨_, hexec, ?_⟩
    rw [hostEvent_gap hm ht.symm hq hne hnew, hsend]
    exact ⟨hsent, hrecv, hread⟩

variable (hq : m % 2 ^ 32 = nextSeq s.chan.hrecv)
include hq

theorem exec_hostAck (ht : typeOf m = 1) : exec .hostAck s = .next (hostGot s (m % 2 ^ 32)) :=
  congrArg Host.Outcome.next (hostEvent_accepted (act := fun _ s => s) hm ht hq)

theorem exec_replayRequest (ht : typeOf m = 2) :
    exec .replayRequest s = .next (replayFrom (hostGot s (m % 2 ^ 32)) (m / 2 ^ 128 % 2 ^ 32)) :=
  congrArg Host.Outcome.next (hostEvent_accepted hm ht hq)

theorem exec_cancel (ht : typeOf m = 3) : exec .cancel s =
    .next (cancelLaunch (hostGot s (m % 2 ^ 32)) (m / 2 ^ 128 % 2 ^ 32) (m / 2 ^ 160 % 2 ^ 16)) :=
  congrArg Host.Outcome.next (hostEvent_accepted hm ht hq)

end Messages

/-! ### The device's queue (R132) -/

theorem exec_dqheadWrite_idle {s : State} (h : s.chan.pending = []) (v : Word) :
    exec (.dqheadWrite v) s = .next { s with chan := { s.chan with dqhead := v.toNat % 2 ^ 32 } } := by
  rw [← wfld_low]
  exact congrArg Host.Outcome.next (flushAll_of_nil (by exact h))

theorem exec_dqbaseWrite_idle {s : State} (h : s.chan.pending = []) (v : Word) :
    exec (.dqbaseWrite v) s = .next { s with chan := { s.chan with dqbase := v, dqset := true } } :=
  congrArg Host.Outcome.next (flushAll_of_nil (by exact h))

/-- A new head makes room for the message that waits, and it stands in the host's memory. -/
theorem exec_dqheadWrite_room {s : State} {b : List Byte} {v : Word} (hwf : s.memWf = true) (hp : s.chan.pending = [b])
    (hset : s.chan.dqset = true)
    (hroom : (s.chan.dqwritten + 2 ^ 32 - v.toNat % 2 ^ 32) % 2 ^ 32 < 2 ^ s.chan.dqlog) :
    ∃ w, exec (.dqheadWrite v) s = .next w ∧ w.chan.pending = [] ∧ w.chan.dqwritten = (s.chan.dqwritten + 1) % 2 ^ 32 ∧
      Cells.getN w.mem.host (s.chan.dqbase.toNat + 64 * (s.chan.dqwritten % 2 ^ s.chan.dqlog)) b.length = b := by
  have hflush := flushAll_of_room (s := { s with chan := { s.chan with dqhead := wfld v 0 32 } }) hp hset
    (by rw [wfld_low, Nat.mod_mod]; exact hroom)
  refine ⟨_, congrArg Host.Outcome.next hflush, rfl, rfl, Cells.getN_putN_self _ _ _ ?_⟩
  obtain ⟨hmem, -⟩ := (State.memWf_iff s).mp hwf
  exact (Bool.and_eq_true_iff.mp hmem).2

/-! ### The whole channel -/

/-- Settles O47: a host message by its type and its number, the queue by what waits in it, and a ring command by the ring
that it names and the stages on its other side. -/
theorem hostChannelEvents : Obligations.HostChannelEvents := by
  intro m n sp lid v ring r b launch s hwf
  refine ⟨fun h e he => hostEvents_idle h he, fun hm e he ht => hostEvents_other hm he ht,
    fun hm e he ht hq => hostEvents_out_of_sequence hm he ht hq, fun hm ht hq => exec_hostAck hm hq ht,
    fun hm ht hq hfuture => ?_, fun hm ht hq hset hn hold hkept => ?_, fun hm ht hq hnone => ?_,
    fun hm ht hq hone hseq hspace hdone => ?_, fun h => ⟨exec_dqheadWrite_idle h v, exec_dqbaseWrite_idle h v⟩,
    fun hp hset hroom => exec_dqheadWrite_room hwf hp hset hroom, ?_, fun hpaths hnone e he => ?_,
    fun hpaths hring hmade hused => ⟨?_, ?_, fun hpos hmax hroom => ?_, fun hbad => ?_⟩,
    fun hpaths hring hused hmade hpos hmax hposted => ?_⟩
  · exact (exec_replayRequest hm hq ht).trans (congrArg _ (replayFrom_of_future hfuture))
  · exact (exec_replayRequest hm hq ht).trans (congrArg _ (replayFrom_last (s := hostGot s (m % 2 ^ 32)) hn.symm
      (hold.trans hn.symm) (hkept.trans (by rw [hn])) hset))
  · exact (exec_cancel hm hq ht).trans (congrArg _ (cancelLaunch_of_nil (s := hostGot s (m % 2 ^ 32)) hnone ..))
  · obtain ⟨hchan, hab⟩ := cancelLaunch_named (s := hostGot s (m % 2 ^ 32)) hone hdone
    refine ⟨_, exec_cancel hm hq ht, ?_⟩
    rw [← hseq, ← hspace, hchan]
    exact ⟨rfl, rfl, hab⟩
  · exact ⟨_, rfl, ringSelect_spec s ring sp⟩
  · simp only [List.mem_cons, List.not_mem_nil, or_false] at he
    obtain rfl | rfl | rfl := he <;>
      exact ⟨_, congrArg Host.Outcome.next (ringCmd_of_none hpaths hnone), ringShow_rcres .., rfl⟩
  · obtain ⟨hin, -⟩ := ringFor_of_input hmade hused
    exact ⟨_, rfl, ringCmd_of_done hpaths hring hin rfl⟩
  · obtain ⟨-, hout⟩ := ringFor_of_input hmade hused
    exact ⟨_, congrArg Host.Outcome.next (ringCmd_of_other_side hpaths hring hout), ringShow_rcres .., rfl⟩
  · obtain ⟨hin, -⟩ := ringFor_of_input hmade hused
    obtain ⟨hres, hset⟩ := ringCmd_of_done hpaths hring hin (ringPostN_of_room hpos hmax hroom)
    exact ⟨_, _, rfl, hres, hset, rfl, rfl, rfl, rfl⟩
  · obtain ⟨hin, -⟩ := ringFor_of_input hmade hused
    exact ⟨_, congrArg Host.Outcome.next (ringCmd_of_refused hpaths hring hin (ringPostN_of_bad hbad)), ringShow_rcres .., rfl⟩
  · obtain ⟨hres, hset⟩ := ringCmd_of_done hpaths hring (ringFor_of_output hused hmade)
      (ringRetireN_of_posted hpos hmax hposted)
    exact ⟨_, _, rfl, hres, hset, rfl, rfl, rfl, rfl⟩

end Sys2Proof.Machine

/-! PROOFS. `launch` and `done` (R154, R155): what a boundary that is free leaves of all threads, and how a gang ends. -/

namespace Sys2Proof.Machine

open Sys2Proof

/-! ### Passing a free boundary (R266, R272) -/

/-- Of every thread only the bookkeeping of its writes may differ; dispatcher and clusters stay. -/
structure PassFrame (s t : State) : Prop where
  cur : t.cur = s.cur
  disp : t.disp = s.disp
  clusters : t.clusters = s.clusters
  thread : ∀ c k, ∃ rgn dests rel, t.thread c k = { s.thread c k with rgn := rgn, dests := dests, rel := rel }

namespace PassFrame
variable {s t u : State}

theorem trans (h : PassFrame s t) (h' : PassFrame t u) : PassFrame s u := by
  refine ⟨h'.cur.trans h.cur, h'.disp.trans h.disp, h'.clusters.trans h.clusters, fun c k => ?_⟩
  obtain ⟨_, _, _, ht⟩ := h.thread c k
  obtain ⟨rgn, dests, rel, hu⟩ := h'.thread c k
  exact ⟨rgn, dests, rel, by rw [hu, ht]⟩

theorem modThread (s : State) (c k : Nat) {f : Thread → Thread}
    (hf : ∀ x, ∃ rgn dests rel, f x = { x with rgn := rgn, dests := dests, rel := rel }) : PassFrame s (s.modThread c k f) := by
  refine ⟨rfl, rfl, rfl, fun c' k' => ?_⟩
  by_cases h : (c', k') = (c, k)
  · obtain ⟨rfl, rfl⟩ := Prod.mk.inj h
    rw [State.thread_modThread_self]
    exact hf _
  · exact ⟨_, _, _, State.thread_modThread_of_ne s f h⟩

theorem modMe (s : State) {f : Thread → Thread}
    (hf : ∀ x, ∃ rgn dests rel, f x = { x with rgn := rgn, dests := dests, rel := rel }) : PassFrame s (s.modMe f) :=
  modThread s s.cur.1 s.cur.2 hf

theorem sendMarkers (s : State) (c k : Nat) (r : Release) : PassFrame s (sendMarkers s c k r) := by
  obtain ⟨hcur, hdisp, hcl, hthread⟩ := modThread (s.modMem fun _ =>
    { (markerPaths (dieOf c) (s.thread c k).dests).foldl (fun m key => m.send key
      { writer := writerOf c k, line := 0, version := none, key := 0, op := .marker }) s.mem with
        gathered := AMap.set ((markerPaths (dieOf c) (s.thread c k).dests).foldl (fun m key => m.send key
          { writer := writerOf c k, line := 0, version := none, key := 0, op := .marker }) s.mem).gathered (writerOf c k) 0 })
    c k (f := fun t => { t with
      dests := [], rel := some { r with sent := true, need := (markerPaths (dieOf c) (s.thread c k).dests).length } })
    fun _ => ⟨_, _, _, rfl⟩
  exact ⟨hcur, hdisp, hcl, hthread⟩

theorem releaseBegun (s : State) (sc : Scope) : PassFrame s (releaseBegun s sc) := by
  have hrel := modMe s (f := fun t => { t with rel := some (releaseAt s sc) }) fun _ => ⟨_, _, _, rfl⟩
  unfold Machine.releaseBegun
  dsimp only
  split
  · exact hrel.trans (sendMarkers ..)
  · exact hrel

theorem keepsThread (h : PassFrame s t) : KeepsThread s t := by
  obtain ⟨rgn, dests, rel, hme⟩ := h.thread s.cur.1 s.cur.2
  exact ⟨h.cur, rgn, dests, rel, by rw [State.me, h.cur, hme, State.me_eq]⟩

end PassFrame

/-- A close and a release that are free pass at once, and leave every thread but for the bookkeeping of its writes. -/
theorem closeRelease_passes {s : State} {sc : Scope} (hclose : Claims.closes s) (hfree : Claims.releaseFree s sc) :
    ∃ t, PassFrame s t ∧ ∀ k, closeRelease s sc k = k t := by
  have hfree' := releaseFree_dropRegion hfree
  have hidle : sidingIdle (s.modMe Thread.dropRegion) s.cur.1 s.cur.2 = true :=
    (sidingIdle_modMe s (f := Thread.dropRegion) fun _ => rfl).trans hclose.1
  obtain ⟨r, hrel, hdone⟩ := releaseDone_releaseBegun hfree'
  refine ⟨(releaseBegun (s.modMe Thread.dropRegion) sc).modMe fun t => { t with rel := none }, ?_, fun k => ?_⟩
  · exact ((PassFrame.modMe s fun _ => ⟨_, _, _, rfl⟩).trans (.releaseBegun _ sc)).trans (.modMe _ fun _ => ⟨_, _, _, rfl⟩)
  · refine (withClose_of_closes hclose _).trans ?_
    rw [drainRegion_of_held_nil hfree.1]
    exact withRelease_of_done hidle hrel hdone k

/-! ### Parking -/

theorem me_parkMe (s : State) (r : Park) : (parkMe s r).me = { s.me with status := .parked r } :=
  (State.thread_modCore _ s.cur.1 s.cur.1 s.cur.2 (fun x => { x with inPipe := none }) fun _ => rfl).trans
    (State.me_modMe s _)

theorem parkMe_disp (s : State) (r : Park) : (parkMe s r).disp = s.disp := rfl

/-! ### launch (R154) -/

section Launch
variable {h : Hdr} {a : Fin 64} {m : Mem} {s : State} (hf : s.me.follower = false)
include hf

theorem launch_waiting (hg : guardHolds s h = true) (hres : s.me.launchRes = some (s.me.pc, none)) :
    exec (.launch h a m) s = .next (parkMe s .launch) := by
  refine run_park hg ?_
  rw [effLaunch, oncePerGang_of_not_follower hf]
  simp only [hres]
  exact if_pos trivial

/-- Once the dispatcher has judged the packet its status goes to the register. -/
theorem launch_judged (hg : guardHolds s h = true) {v : Nat} (hres : s.me.launchRes = some (s.me.pc, some v)) :
    ∃ w, exec (.launch h a m) s = .next w ∧ Claims.gives s w a (BitVec.ofNat 64 v) ∧ w.me.launchRes = none := by
  have he : effLaunch a m s = .once ((s.modMe fun t => { t with launchRes := none }).wrG a.val (BitVec.ofNat 64 v))
      (BitVec.ofNat 64 v) := by
    rw [effLaunch, oncePerGang_of_not_follower hf]
    simp only [hres]
    exact if_pos trivial
  refine ⟨_, run_once hg he, ?_⟩
  unfold Claims.gives
  rw [retireWith_me, State.me_wrG, State.me_modMe]
  refine ⟨⟨retireWith_cur .., rfl, fun r => ?_, ?_, ?_, ?_, ?_, ?_⟩, ?_⟩
  · rw [Thread.retire_rdG, Thread.rdG_wrG]
    rfl
  all_goals simp

section Begins
variable (hnew : ∀ r, s.me.launchRes ≠ some (s.me.pc, r))
include hnew

/-- An execution with no packet under way begins a submission. -/
theorem effLaunch_begins : effLaunch a m s = effLaunch.begin' s (memAddr s m 8) := by
  rw [effLaunch, oncePerGang_of_not_follower hf]
  dsimp only
  cases hres : s.me.launchRes with
  | none => rfl
  | some p => exact if_neg fun hpc => hnew p.2 (by rw [hres, ← hpc])

theorem launch_misaligned (hg : guardHolds s h = true) (hx : (memAddr s m 8).toNat % 64 ≠ 0) :
    exec (.launch h a m) s = Claims.raises s 0x04 (memAddr s m 8) 64 :=
  run_failAt hg ((effLaunch_begins hf hnew).trans (if_neg hx))

section Reads
variable {o : Nat} (hx : (memAddr s m 8).toNat % 64 = 0) (hread : Claims.poolReadable s (memAddr s m 8) o 64)
include hx hread

/-- The packet is read before the region closes (log 47). -/
theorem effLaunch_reads : effLaunch a m s = tolerantClose s
    (if sidingIdle s s.cur.1 s.cur.2 = false then .wait s
     else closeRelease s .mod fun s2 => .park (submitPacket s2 (s.myCore.num o 64)) .launch) := by
  rw [effLaunch_begins hf hnew, effLaunch.begin', aligned_of_dvd hx, readAny_of_poolReadable hread]
  rfl

theorem launch_tolerant (hg : guardHolds s h = true) (htol : s.me.tol.isOpen = true)
    (hconf : s.me.rgn.conflict = none) (hfind : findConflict s s.cur.1 s.cur.2 = none) : exec (.launch h a m) s = Claims.raises s 0x0D 0 2 := by
  refine run_failAt hg ((effLaunch_reads hf hnew hx hread).trans ?_)
  simp only [tolerantClose, htol, hconf, hfind]
  rfl

theorem launch_submits (hg : guardHolds s h = true) (htol : s.me.tol.isOpen = false)
    (hidle : sidingIdle s s.cur.1 s.cur.2 = true) (hclose : Claims.closes s) (hfree : Claims.releaseFree s .mod) :
    ∃ w, exec (.launch h a m) s = .next w ∧ w.me.status = .parked .launch ∧ w.me.pc = s.me.pc ∧ w.me.g = s.me.g ∧
      w.disp.submits = s.disp.submits ++ [{ slot := none, thread := some s.cur, space := s.me.place.spaceid,
                                            packet := s.myCore.num o 64 }] := by
  obtain ⟨t, hpass, hk⟩ := closeRelease_passes hclose hfree
  obtain ⟨-, rgn, dests, rel, hme⟩ := hpass.keepsThread
  have he : effLaunch a m s = .park (submitPacket t (s.myCore.num o 64)) .launch := by
    rw [effLaunch_reads hf hnew hx hread, tolerantClose, htol, if_neg Bool.false_ne_true, hidle, if_neg (by decide), hk]
  refine ⟨_, run_park hg he, ?_⟩
  have hsub : (submitPacket t (s.myCore.num o 64)).me =
      { t.me with launchRes := some (t.me.pc, none) } := State.me_modMe t fun u => { u with launchRes := some (u.pc, none) }
  rw [me_parkMe, hsub, hme, parkMe_disp]
  refine ⟨rfl, rfl, rfl, ?_⟩
  simp [submitPacket, hpass.disp, hpass.cur, hme]

end Reads

end Begins

end Launch

theorem launchInstruction : Claims.LaunchInstruction := by
  intro h a m s o v hg hf
  refine ⟨launch_waiting hf hg, launch_judged hf hg, fun hnew => ⟨launch_misaligned hf hnew hg, fun hx hread => ⟨?_, ?_⟩⟩⟩
  · exact launch_tolerant hf hnew hx hread hg
  · exact launch_submits hf hnew hx hread hg

end Sys2Proof.Machine


/-! PROOFS. The end of a gang (R149, R155): its slots are released, and its stage runs one gang less. -/

namespace Sys2Proof.Machine

open Sys2Proof

/-! ### Stopped slots (R29) -/

theorem AMap.get_map_key {α β : Type} (m : AMap α) (f : Nat → α → β) (k : Nat) :
    AMap.get (m.map fun e => (e.1, f e.1 e.2)) k = (AMap.get m k).map (f k) := by
  induction m with
  | nil => rfl
  | cons e m ih =>
    rw [List.map_cons, AMap.get, AMap.get, ih]
    split
    · next h => rw [← h]; rfl
    · rfl

theorem thread_openDead (s : State) (c k c' k' : Nat) : (openDead s c k).thread c' k' = s.thread c' k' := by
  unfold openDead
  dsimp only
  refine foldl_inv (fun t : State => t.thread c' k' = s.thread c' k') _ _ (fun t p _ ht => ?_) _ ?_
  · exact (State.thread_modCore t p.1 c' k' (fun x => { x with shutters := AMap.del x.shutters p.2 }) fun _ => rfl).trans ht
  · have hget := AMap.get_map_key s.cores (fun i (x : Core) => if clusterOf i = clusterOf c then
      { x with shutters := x.shutters.filter fun h => !(h.2.id / 2 ^ 32 == k + 1 && h.2.pos == posOf c) } else x) c'
    simp only [State.thread, State.core, AMap.getD, hget]
    cases AMap.get s.cores c' with
    | none => rfl
    | some x =>
      simp only [Option.map_some]
      split <;> rfl

theorem status_stopSlot_self (s : State) (c k : Nat) : ((stopSlot s c k).thread c k).status = .unplaced := by
  simp [stopSlot, State.thread, Core.slot]

theorem status_stopSlot_of_unplaced {s : State} {c k c' k' : Nat} (h : (s.thread c' k').status = .unplaced) :
    ((stopSlot s c k).thread c' k').status = .unplaced := by
  by_cases hc : c' = c
  · subst hc
    by_cases hk : k' = k
    · rw [hk]
      exact status_stopSlot_self ..
    · rw [← thread_openDead s c' k c' k'] at h
      simpa [stopSlot, State.thread, Core.slot, AMap.getD_set_of_ne _ _ _ hk] using h
  · rw [← thread_openDead s c k c' k'] at h
    simpa [stopSlot, State.thread, State.core_setCore_of_ne _ _ hc] using h

theorem unplaced_stopSlots (ms : List (Nat × Nat)) (s : State) : ∀ m ∈ ms,
    ((ms.foldl (fun s m => stopSlot s m.1 m.2) s).thread m.1 m.2).status = .unplaced := by
  induction ms generalizing s with
  | nil => exact fun _ => nofun
  | cons a ms ih =>
    intro m hm
    rcases List.mem_cons.mp hm with rfl | hm
    · exact foldl_inv (fun t : State => (t.thread m.1 m.2).status = .unplaced) _ ms
        (fun _ _ _ ht => status_stopSlot_of_unplaced ht) _ (status_stopSlot_self ..)
    · exact ih _ m hm

theorem unplaced_stopGang {s : State} {gid : Nat} : ∀ m ∈ gangMembers s gid,
    ((stopGang s gid).thread m.1 m.2).status = .unplaced := unplaced_stopSlots _ _

/-! ### What is given back (R155) -/

theorem node_of_disp {s t : State} (h : t.disp.launches = s.disp.launches) (l i : Nat) : t.node l i = s.node l i := by
  rw [State.node, State.node, h]

theorem node_modNode_of_some {s : State} {l i : Nat} {n : Node} (h : s.node l i = some n) (f : Node → Node) :
    (s.modNode l i f).node l i = some (f n) := by
  rw [node_modNode_self, h, Option.map_some]

theorem modNode_gangs (s : State) (l i : Nat) (f : Node → Node) : (s.modNode l i f).disp.gangs = s.disp.gangs := by
  unfold State.modNode
  split
  · rfl
  · split <;> rfl

theorem isFed_of_tile_map (n : Node) (f : TileSpace → TileSpace) : isFed { n with tile := n.tile.map f } = isFed n := by
  rw [isFed, isFed, Option.isSome_map]
  rfl

/-- Giving tiles back changes the tile space of the gang's own stage alone. -/
theorem giveBack_spec {s : State} {c k : Nat} {n : Node}
    (hn : s.node (s.thread c k).place.launch (s.thread c k).place.node = some n) :
    (giveBack s c k).cores = s.cores ∧ (giveBack s c k).disp.gangs = s.disp.gangs ∧
      ∃ n', (giveBack s c k).node (s.thread c k).place.launch (s.thread c k).place.node = some n' ∧
        n'.running = n.running ∧ isFed n' = isFed n := by
  refine foldl_inv (fun t : State => t.cores = s.cores ∧ t.disp.gangs = s.disp.gangs ∧
    ∃ n', t.node (s.thread c k).place.launch (s.thread c k).place.node = some n' ∧
      n'.running = n.running ∧ isFed n' = isFed n) _ _ ?_ s ⟨rfl, rfl, n, hn, rfl, rfl⟩
  rintro t a - ⟨hcores, hgangs, n', hn', hrun, hfed⟩
  split
  · exact ⟨(State.modNode_cores ..).trans hcores, (modNode_gangs ..).trans hgangs, _, node_modNode_of_some hn' _, hrun,
      (isFed_of_tile_map ..).trans hfed⟩
  · exact ⟨hcores, hgangs, n', hn', hrun, hfed⟩

/-! ### Released slots (R149, R416) -/

theorem idleCore_spec (s : State) (c : Nat) : (idleCore s c).disp = s.disp ∧
    ∀ c' k, (idleCore s c).thread c' k = s.thread c' k := by
  unfold idleCore
  dsimp only
  split
  · exact ⟨rfl, fun _ _ => rfl⟩
  · exact ⟨rfl, fun c' k => State.thread_modCore s c c' k
      (fun x => { x with hold := false, lowered := upperDie c, tlb := if upperDie c then [] else x.tlb }) fun _ => rfl⟩

theorem idleCores_spec (ms : List (Nat × Nat)) (s : State) :
    (ms.foldl (fun s m => idleCore s m.1) s).disp = s.disp ∧
      ∀ c k, (ms.foldl (fun s m => idleCore s m.1) s).thread c k = s.thread c k := by
  refine foldl_inv (fun t : State => t.disp = s.disp ∧ ∀ c k, t.thread c k = s.thread c k) _ ms ?_ s ⟨rfl, fun _ _ => rfl⟩
  rintro t m - ⟨hdisp, hthread⟩
  obtain ⟨hdisp', hthread'⟩ := idleCore_spec t m.1
  exact ⟨hdisp'.trans hdisp, fun c k => (hthread' c k).trans (hthread c k)⟩

theorem restarts_of_unfed {s : State} {gang : Gang} {n : Node} {sp : Nat} (h : isFed n = false) :
    restarts s gang n sp = false := by
  simp [restarts, h]

/-- The gang of a stage that nothing feeds ends with its slots released (R149). -/
theorem endInstance_unfed {s : State} {c k : Nat} {gang : Gang} {l : Launch} {n : Node}
    (hgang : AMap.get s.disp.gangs (s.thread c k).place.gang = some gang)
    (hl : AMap.get s.disp.launches (s.thread c k).place.launch = some l)
    (hn : s.node gang.launch gang.node = some n) (hlaunch : (s.thread c k).place.launch = gang.launch)
    (hnode : (s.thread c k).place.node = gang.node) (hfed : isFed n = false) :
    (∀ m ∈ gang.members, ((endInstance s c k).thread m.1 m.2).status = .unplaced) ∧
      AMap.get (endInstance s c k).disp.gangs (s.thread c k).place.gang = none ∧
      ∃ n', (endInstance s c k).node gang.launch gang.node = some n' ∧ n'.running = n.running - 1 := by
  rw [← hlaunch, ← hnode] at hn
  obtain ⟨-, hgangs, n1, hn1, hrun, hfed1⟩ := giveBack_spec hn
  rw [hlaunch, hnode] at hn1
  obtain ⟨cs, cl, rs, qs, sb, hstop⟩ := stopGang_eq (giveBack s c k) (s.thread c k).place.gang
  have hnode2 : (stopGang (giveBack s c k) (s.thread c k).place.gang).node gang.launch gang.node = some n1 := by
    rw [hstop]
    exact hn1
  have hmembers : gangMembers (giveBack s c k) (s.thread c k).place.gang = gang.members := by
    rw [gangMembers, hgangs, hgang]
  have hstopped := unplaced_stopGang (s := giveBack s c k) (gid := (s.thread c k).place.gang)
  rw [hmembers] at hstopped
  have hnode3 := node_modNode_of_some hnode2 (fun x => { x with running := x.running - 1 })
  have hend : endInstance s c k = gang.members.foldl (fun s m => idleCore s m.1)
      ((stopGang (giveBack s c k) (s.thread c k).place.gang).modNode gang.launch gang.node
        (fun x => { x with running := x.running - 1 })) := by
    rw [endInstance, hgang, hl]
    simp only [hnode3]
    rw [restarts_of_unfed (n := { n1 with running := n1.running - 1 }) (hfed1.trans hfed), if_neg Bool.false_ne_true]
  obtain ⟨hdisp, hthread⟩ := idleCores_spec gang.members
    ((stopGang (giveBack s c k) (s.thread c k).place.gang).modNode gang.launch gang.node
      (fun x => { x with running := x.running - 1 }))
  rw [hend]
  refine ⟨fun m hm => ?_, ?_, _, (node_of_disp (congrArg Disp.launches hdisp) ..).trans hnode3, congrArg (· - 1) hrun⟩
  · rw [hthread, thread_modNode]
    exact hstopped m hm
  · rw [hdisp, modNode_gangs, hstop]
    exact AMap.get_del_self ..

/-! ### done (R155) -/

/-- A boundary that is free changes nothing that an ending gang waits for. -/
theorem gangQuiet_of_passFrame {s t : State} (h : PassFrame s t) (gid : Nat) (self : Nat × Nat) :
    gangQuiet t gid self = gangQuiet s gid self := by
  have hcluster : ∀ cl, t.cluster cl = s.cluster cl := fun cl => by rw [State.cluster, State.cluster, h.clusters]
  have hword : ∀ c k q id, renamedWord t c k q id = renamedWord s c k q id := by
    intro c k q id
    obtain ⟨_, _, _, hthread⟩ := h.thread c k
    unfold renamedWord jobWord listedWord queueNext
    rw [hthread]
    simp only [hcluster]
  have hjobs : ∀ m, jobsFinal t m = jobsFinal s m := by
    intro m
    obtain ⟨_, _, _, hthread⟩ := h.thread m.1 m.2
    simp only [jobsFinal, hword, hthread]
  have hmembers : gangMembers t gid = gangMembers s gid := by rw [gangMembers, gangMembers, h.disp]
  have hrest : ∀ m : Nat × Nat, (t.thread m.1 m.2).tilesOut = (s.thread m.1 m.2).tilesOut ∧
      (t.thread m.1 m.2).place = (s.thread m.1 m.2).place ∧ (t.thread m.1 m.2).status = (s.thread m.1 m.2).status := by
    intro m
    obtain ⟨_, _, _, hthread⟩ := h.thread m.1 m.2
    rw [hthread]
    exact ⟨rfl, rfl, rfl⟩
  have htiles := fun m => (hrest m).1
  have hplace := fun m => (hrest m).2.1
  have hstatus := fun m => (hrest m).2.2
  simp only [gangQuiet, hjobs, hmembers, htiles, hplace, hstatus]

section Done
variable {h : Hdr} {s : State} (hg : guardHolds s h = true)
include hg

theorem done_tolerant (htol : s.me.tol.isOpen = true) : exec (.doneI h) s = Claims.raises s 0x0D 0 6 :=
  run_failAt hg (if_pos htol)

/-- A shed follower waits at `done` without closing (log 46). -/
theorem done_shed (htol : s.me.tol.isOpen = false) (hshed : s.me.place.shed = true) :
    exec (.doneI h) s = .next (parkMe s .doneWait) :=
  run_park hg ((if_neg (ne_true_of_eq_false htol)).trans (if_pos hshed))

section Closes
variable (htol : s.me.tol.isOpen = false) (hshed : s.me.place.shed = false) (hidle : sidingIdle s s.cur.1 s.cur.2 = true)
  (hclose : Claims.closes s) (hfree : Claims.releaseFree s .mod)
include htol hshed hidle hclose hfree

omit hg in
/-- The region closes, and the state it leaves decides whether the gang ends. -/
theorem effDoneI_closes : ∃ t, PassFrame s t ∧ effDoneI s = if s.me.follower then .park t .doneWait
    else if gangQuiet s s.me.place.gang s.cur then .wait (endInstance t s.cur.1 s.cur.2) else .park t .doneWait := by
  obtain ⟨t, hpass, hk⟩ := closeRelease_passes hclose hfree
  refine ⟨t, hpass, ?_⟩
  obtain ⟨hcur, _, _, _, hme⟩ := hpass.keepsThread
  have hfollower : t.me.follower = s.me.follower := by rw [hme]; rfl
  have hgang : t.me.place.gang = s.me.place.gang := by rw [hme]
  rw [effDoneI, htol, if_neg Bool.false_ne_true, hshed, if_neg Bool.false_ne_true, hidle, if_neg (by decide), hk, hfollower,
    gangQuiet_of_passFrame hpass, hgang, hcur]

theorem done_parks (hwait : s.me.follower = true ∨ gangQuiet s s.me.place.gang s.cur = false) :
    ∃ w, exec (.doneI h) s = .next w ∧ w.me.status = .parked .doneWait ∧ w.me.pc = s.me.pc ∧ w.me.g = s.me.g := by
  obtain ⟨t, hpass, he⟩ := effDoneI_closes htol hshed hidle hclose hfree
  obtain ⟨-, _, _, _, hme⟩ := hpass.keepsThread
  have hpark : effDoneI s = .park t .doneWait := by
    rw [he]
    rcases hwait with hf | hq
    · exact if_pos hf
    · rw [hq, if_neg Bool.false_ne_true, ite_self]
  refine ⟨_, run_park hg hpark, ?_⟩
  rw [me_parkMe, hme]
  exact ⟨rfl, rfl, rfl⟩

theorem done_ends {gang : Gang} {l : Launch} {n : Node} (hgang : AMap.get s.disp.gangs s.me.place.gang = some gang)
    (hl : AMap.get s.disp.launches s.me.place.launch = some l) (hn : s.node gang.launch gang.node = some n)
    (hlaunch : s.me.place.launch = gang.launch) (hnode : s.me.place.node = gang.node) (hfed : isFed n = false)
    (hf : s.me.follower = false) (hq : gangQuiet s s.me.place.gang s.cur = true) :
    ∃ w, exec (.doneI h) s = .next w ∧ (∀ m ∈ gang.members, (w.thread m.1 m.2).status = .unplaced) ∧
      AMap.get w.disp.gangs s.me.place.gang = none ∧
      ∃ n', w.node gang.launch gang.node = some n' ∧ n'.running = n.running - 1 := by
  obtain ⟨t, hpass, he⟩ := effDoneI_closes htol hshed hidle hclose hfree
  rw [hf, hq, if_neg Bool.false_ne_true, if_pos rfl] at he
  obtain ⟨_, _, _, hthread⟩ := hpass.thread s.cur.1 s.cur.2
  have hplace : (t.thread s.cur.1 s.cur.2).place = s.me.place := by rw [hthread]; rfl
  have hends := endInstance_unfed (s := t) (c := s.cur.1) (k := s.cur.2) (gang := gang) (l := l) (n := n)
    (by rw [hplace, hpass.disp, hgang]) (by rw [hplace, hpass.disp, hl])
    ((node_of_disp (congrArg Disp.launches hpass.disp) ..).trans hn) (by rw [hplace, hlaunch]) (by rw [hplace, hnode]) hfed
  rw [hplace] at hends
  exact ⟨_, run_wait hg he, hends⟩

end Closes

end Done

theorem doneInstruction : Claims.DoneInstruction := by
  intro h s gang l n hg
  refine ⟨done_tolerant hg, done_shed hg, fun htol hshed hidle hclose hfree hgang hl hn hlaunch hnode hfed => ?_⟩
  have hquiet : gangQuiet s s.me.place.gang s.cur = (jobsFinal s s.cur && s.me.tilesOut.isEmpty && gang.members.all fun m =>
      jobsFinal s m && (s.thread m.1 m.2).tilesOut.isEmpty &&
        ((s.thread m.1 m.2).place.shed || m == s.cur || decide ((s.thread m.1 m.2).status = .parked .doneWait))) := by
    rw [gangQuiet, gangMembers, hgang]
    rfl
  refine ⟨fun hf hq => ?_, fun hwait => ?_⟩
  · exact done_ends hg htol hshed hidle hclose hfree hgang hl hn hlaunch hnode hfed hf (hquiet.trans hq)
  · exact done_parks hg htol hshed hidle hclose hfree (hwait.imp_right hquiet.trans)

end Sys2Proof.Machine


/-! PROOFS. `nexttile` (R156): the tags of the answer's words, in the pool of every member of the gang; and O24. -/

namespace Sys2Proof.Machine

open Sys2Proof

/-! ### Tags of pool words (R236) -/

theorem mem_insertNat (n m : Nat) (l : List Nat) : m ∈ insertNat n l ↔ m = n ∨ m ∈ l := by
  induction l with
  | nil => simp [insertNat]
  | cons k ks ih =>
    rw [insertNat]
    split
    · next h => simp [h]
    · split
      · simp
      · simp only [List.mem_cons, ih]
        tauto

theorem Core.tagFull_setTag (x : Core) (o w : Nat) (full : Bool) :
    (x.setTag o full).tagFull (4 * w) = if w = o / 4 then full else x.tagFull (4 * w) := by
  have hw : 4 * w / 4 = w := Nat.mul_div_cancel_left w (by decide)
  cases full with
  | true =>
    by_cases h : w = o / 4
    · simp [Core.tagFull, Core.setTag, h]
    · simp [Core.tagFull, Core.setTag, hw, h]
  | false =>
    by_cases h : w = o / 4
    · simp [Core.tagFull, Core.setTag, h, mem_insertNat]
    · simp [Core.tagFull, Core.setTag, hw, h, mem_insertNat]

/-- Tags set for words from an aligned offset on are those of the words that lie there. -/
theorem Core.tagFull_setTags (x : Core) {o n : Nat} (ho : o % 4 = 0) (hn : n % 4 = 0) (full : Bool) (w : Nat) :
    (x.setTags o n full).tagFull (4 * w) = if o ≤ 4 * w ∧ 4 * w < o + n then full else x.tagFull (4 * w) := by
  obtain ⟨k, rfl⟩ := Nat.dvd_of_mod_eq_zero hn
  rw [Core.setTags, foldUp, Nat.mul_div_cancel_left k (by decide)]
  induction k with
  | zero => exact (if_neg (by omega)).symm
  | succ k ih =>
    rw [List.range_succ, List.foldl_append, List.foldl_cons, List.foldl_nil, Core.tagFull_setTag, ih (by omega)]
    by_cases hlast : w = (o + 4 * k) / 4
    · rw [if_pos hlast, if_pos (by omega)]
    · rw [if_neg hlast]
      exact if_congr (by omega) rfl rfl

/-! ### A change of tags with its waiters (R276) -/

/-- Of the state only cores change, of a thread its status alone, and no pool byte. -/
structure TagFrame (s t : State) : Prop where
  cores : ∃ cs, t = { s with cores := cs }
  thread : ∀ c k, ∃ st, t.thread c k = { s.thread c k with status := st }
  pool : ∀ c, (t.core c).pool = (s.core c).pool

namespace TagFrame
variable {s t u : State}

theorem refl (s : State) : TagFrame s s := ⟨⟨_, rfl⟩, fun _ _ => ⟨_, rfl⟩, fun _ => rfl⟩

theorem trans (h : TagFrame s t) (h' : TagFrame t u) : TagFrame s u := by
  obtain ⟨_, ht⟩ := h.cores
  obtain ⟨cs, hu⟩ := h'.cores
  refine ⟨⟨cs, by rw [hu, ht]⟩, fun c k => ?_, fun c => (h'.pool c).trans (h.pool c)⟩
  obtain ⟨_, ht⟩ := h.thread c k
  obtain ⟨st, hu⟩ := h'.thread c k
  exact ⟨st, by rw [hu, ht]⟩

theorem setTags (s : State) (c o n : Nat) (full : Bool) : TagFrame s (s.modCore c fun x => x.setTags o n full) := by
  refine ⟨⟨_, rfl⟩, fun c' k => ⟨_, State.thread_modCore _ _ _ _ _ fun x => by rw [Core.setTags_eq]⟩, fun c' => ?_⟩
  by_cases hc : c' = c
  · rw [hc, State.core_modCore_self, Core.setTags_eq]
  · rw [State.core_modCore_of_ne _ _ hc]

theorem wakeTag (s : State) (c line : Nat) : TagFrame s (wakeTag s c line) := by
  refine ⟨⟨_, rfl⟩, thread_wakeTag s c line, fun c' => ?_⟩
  by_cases hc : c' = c
  · rw [hc, pool_wakeTag]
  · exact congrArg Core.pool (State.core_modCore_of_ne s _ hc)

theorem setTagsWake (s : State) (c o n : Nat) (full : Bool) : TagFrame s (setTagsWake s c o n full) := by
  have h := (setTags s c o n full).trans (wakeTag _ c (o / 64 * 64))
  unfold Machine.setTagsWake
  dsimp only
  split
  · exact h
  · exact h.trans (wakeTag ..)

end TagFrame

theorem tagFull_wakeTag (s : State) (c line c' p : Nat) :
    ((wakeTag s c line).core c').tagFull p = (s.core c').tagFull p := by
  by_cases hc : c' = c
  · rw [hc, wakeTag, State.core_modCore_self]
    rfl
  · exact congrArg (Core.tagFull · p) (State.core_modCore_of_ne s _ hc)

theorem tagFull_setTagsWake (s : State) (c : Nat) {o n : Nat} (ho : o % 4 = 0) (hn : n % 4 = 0) (full : Bool) (c' w : Nat) :
    ((setTagsWake s c o n full).core c').tagFull (4 * w) =
      if c' = c ∧ o ≤ 4 * w ∧ 4 * w < o + n then full else (s.core c').tagFull (4 * w) := by
  have hset : ((s.modCore c fun x => x.setTags o n full).core c').tagFull (4 * w) =
      if c' = c ∧ o ≤ 4 * w ∧ 4 * w < o + n then full else (s.core c').tagFull (4 * w) := by
    by_cases hc : c' = c
    · rw [hc, State.core_modCore_self, Core.tagFull_setTags _ ho hn]
      exact if_congr (by simp) rfl rfl
    · rw [State.core_modCore_of_ne _ _ hc, if_neg fun h => hc h.1]
  unfold setTagsWake
  dsimp only
  split
  · rw [tagFull_wakeTag, hset]
  · rw [tagFull_wakeTag, tagFull_wakeTag, hset]

/-! ### The answer's words (R156) -/

/-- The cores whose pools take the answer. -/
def answerMembers (s : State) : List (Nat × Nat) :=
  if gangMembers s s.me.place.gang = [] then [s.cur] else gangMembers s s.me.place.gang

theorem cur_mem_answerMembers {s : State} (h : gangMembers s s.me.place.gang = [] ∨ s.cur ∈ gangMembers s s.me.place.gang) :
    s.cur ∈ answerMembers s := by
  unfold answerMembers
  split
  · exact List.mem_singleton.mpr rfl
  · next hne => exact h.resolve_left hne

theorem tagFull_emptied (ms : List (Nat × Nat)) (s : State) {o : Nat} (ho : o % 4 = 0) {c : Nat}
    (w : Nat) : ((ms.foldl (fun s m => setTagsWake s m.1 o 8 false) s).core c).tagFull (4 * w) =
      if c ∈ ms.map Prod.fst ∧ o ≤ 4 * w ∧ 4 * w < o + 8 then false else (s.core c).tagFull (4 * w) := by
  induction ms generalizing s with
  | nil => exact (if_neg (by simp)).symm
  | cons m ms ih =>
    rw [List.foldl_cons, ih, tagFull_setTagsWake s m.1 ho (by decide)]
    by_cases hin : o ≤ 4 * w ∧ 4 * w < o + 8
    · by_cases hm : c = m.1 <;> by_cases hms : c ∈ ms.map Prod.fst <;> simp [hin, hm, hms]
    · rw [if_neg fun h => hin h.2, if_neg fun h => hin h.2, if_neg fun h => hin h.2]

theorem tagFrame_emptyAnswer (s : State) (o : Nat) : TagFrame s (emptyAnswer s o) :=
  foldl_inv (TagFrame s) _ (answerMembers s) (fun _ _ _ h => h.trans (.setTagsWake ..)) s (.refl s)

theorem tagFull_emptyAnswer {s : State} {o : Nat} (ho : o % 8 = 0)
    (hcur : gangMembers s s.me.place.gang = [] ∨ s.cur ∈ gangMembers s s.me.place.gang) (w : Nat) :
    ((emptyAnswer s o).core s.cur.1).tagFull (4 * w) =
      if o ≤ 4 * w ∧ 4 * w < o + 8 then false else s.myCore.tagFull (4 * w) := by
  have hmem : s.cur.1 ∈ (answerMembers s).map Prod.fst := List.mem_map_of_mem (cur_mem_answerMembers hcur)
  refine (tagFull_emptied (answerMembers s) s (by omega) w).trans (if_congr ?_ rfl rfl)
  exact and_iff_right hmem

/-! ### nexttile (R156) -/

/-- The query is sent: it stands among the thread's own and at the distributor. -/
def queried (s : State) (o : Nat) : State :=
  ((emptyAnswer s o).modMe fun t => { t with tilesOut := t.tilesOut ++ [o] }).modDisp fun d =>
    { d with queries := d.queries ++ [(s.cur.1, s.cur.2, o)] }

theorem tagFull_retireWith (s : State) (pc : Word) (y : Bool) (res : Option Word) (c p : Nat) :
    ((retireWith s pc y res).core c).tagFull p = (s.core c).tagFull p := by
  obtain ⟨_, _, hcore⟩ := retireWith_core s pc y res c
  rw [hcore]
  rfl

section Nexttile
variable {h : Hdr} {a : GSrc} {s : State} (hg : guardHolds s h = true) (hf : s.me.follower = false)
include hg

theorem nexttile_tolerant (htol : s.me.tol.isOpen = true) : exec (.nexttile h a) s = Claims.raises s 0x0D 0 2 :=
  run_failAt hg (if_pos htol)

variable (htol : s.me.tol.isOpen = false)
include hf htol

omit hg in
theorem effNexttile_of_closed : effNexttile a s = aligned s (winAddr (readGSrc s a).toNat) 8 (
    if !inScratch s.myCore.part (readGSrc s a).toNat 8 then .failAt s 0x0A (winAddr (readGSrc s a).toNat) 0
    else if 4 ≤ s.me.tilesOut.length then .park s .tiles else .once (queried s (readGSrc s a).toNat) 0) := by
  obtain ⟨cs, hcs⟩ := (tagFrame_emptyAnswer s (readGSrc s a).toNat).cores
  have hcur : (emptyAnswer s (readGSrc s a).toNat).cur = s.cur := by rw [hcs]
  rw [effNexttile, notTolerant_of_closed htol, oncePerGang_of_not_follower hf, queried, ← hcur]
  rfl

omit hg hf htol in
theorem winAddr_mod_eight (o : Nat) : (winAddr o).toNat % 8 = o % 8 := by
  rw [winAddr, BitVec.toNat_ofNat]
  omega

theorem nexttile_misaligned (ho : (readGSrc s a).toNat % 8 ≠ 0) :
    exec (.nexttile h a) s = Claims.raises s 0x04 (winAddr (readGSrc s a).toNat) 8 :=
  run_failAt hg ((effNexttile_of_closed hf htol).trans (if_neg (by rw [winAddr_mod_eight]; exact ho)))

variable (ho : (readGSrc s a).toNat % 8 = 0)
include ho

omit hg in
theorem effNexttile_of_aligned : effNexttile a s =
    if !inScratch s.myCore.part (readGSrc s a).toNat 8 then .failAt s 0x0A (winAddr (readGSrc s a).toNat) 0
    else if 4 ≤ s.me.tilesOut.length then .park s .tiles else .once (queried s (readGSrc s a).toNat) 0 :=
  (effNexttile_of_closed hf htol).trans (aligned_of_dvd (by rw [winAddr_mod_eight, ho]) _)

theorem nexttile_outside (hout : inScratch s.myCore.part (readGSrc s a).toNat 8 = false) :
    exec (.nexttile h a) s = Claims.raises s 0x0A (winAddr (readGSrc s a).toNat) 0 :=
  run_failAt hg ((effNexttile_of_aligned hf htol ho).trans (if_pos (by rw [hout]; rfl)))

variable (hin : inScratch s.myCore.part (readGSrc s a).toNat 8 = true)
include hin

theorem nexttile_parks (hfull : 4 ≤ s.me.tilesOut.length) : exec (.nexttile h a) s = .next (parkMe s .tiles) :=
  run_park hg ((effNexttile_of_aligned hf htol ho).trans ((if_neg (by rw [hin]; decide)).trans (if_pos hfull)))

theorem nexttile_queries (hroom : s.me.tilesOut.length < 4)
    (hcur : gangMembers s s.me.place.gang = [] ∨ s.cur ∈ gangMembers s s.me.place.gang) :
    ∃ w, exec (.nexttile h a) s = .next w ∧ Claims.onlyPc s w ∧ Claims.tagsSet s w (readGSrc s a).toNat 8 false ∧
      w.me.tilesOut = s.me.tilesOut ++ [(readGSrc s a).toNat] ∧
      w.disp.queries = s.disp.queries ++ [(s.cur.1, s.cur.2, (readGSrc s a).toNat)] ∧
      w.mem = s.mem ∧ ∀ c, (w.core c).pool = (s.core c).pool := by
  have he : effNexttile a s = .once (queried s (readGSrc s a).toNat) 0 :=
    (effNexttile_of_aligned hf htol ho).trans ((if_neg (by rw [hin]; decide)).trans (if_neg (by omega)))
  generalize (readGSrc s a).toNat = o at he ho ⊢
  obtain ⟨⟨cs, hcs⟩, hthread, hpool⟩ := tagFrame_emptyAnswer s o
  have hcurq : (emptyAnswer s o).cur = s.cur := by rw [hcs]
  obtain ⟨st, hst⟩ := hthread s.cur.1 s.cur.2
  have hme : (queried s o).me = { s.me with status := st, tilesOut := s.me.tilesOut ++ [o] } := by
    refine (State.me_modMe (emptyAnswer s o) fun t => { t with tilesOut := t.tilesOut ++ [o] }).trans ?_
    rw [State.me, hcurq, hst]
    rfl
  have hemptied : ((queried s o).core s.cur.1).emptyTags = ((emptyAnswer s o).core s.cur.1).emptyTags := by
    have hset := congrArg Core.emptyTags (State.core_modThread_self (emptyAnswer s o) (emptyAnswer s o).cur.1
      (emptyAnswer s o).cur.2 fun t => { t with tilesOut := t.tilesOut ++ [o] })
    rw [← hcurq]
    exact hset
  have hdisp : (queried s o).disp.queries = s.disp.queries ++ [(s.cur.1, s.cur.2, o)] := by
    rw [queried, hcs]
    rfl
  have hmem : (queried s o).mem = s.mem := by
    rw [queried, hcs]
    rfl
  refine ⟨_, run_once hg he, ?_, fun w => ?_, ?_, ?_, ?_, fun c => ?_⟩
  · unfold Claims.onlyPc
    rw [retireWith_me, hme]
    exact ⟨(retireWith_cur ..).trans hcurq, rfl, rfl, rfl, rfl, rfl, rfl, rfl, rfl⟩
  · have hcurw : (retireWith (queried s o) (s.me.pc + 12) h.yields (some 0)).cur = s.cur := (retireWith_cur ..).trans hcurq
    rw [State.myCore, hcurw, tagFull_retireWith, ← tagFull_emptyAnswer ho hcur, Core.tagFull, hemptied]
    rfl
  · rw [retireWith_me, hme]
    rfl
  · rw [retireWith_disp, hdisp]
  · rw [retireWith_mem, hmem]
  · rw [retireWith_pool]
    exact (pool_modMe (emptyAnswer s o) (fun t => { t with tilesOut := t.tilesOut ++ [o] }) c).trans (hpool c)

end Nexttile

theorem nexttileInstruction : Claims.NexttileInstruction := by
  intro h a s hg hf hcur
  refine ⟨nexttile_tolerant hg, fun htol => ⟨nexttile_misaligned hg hf htol, nexttile_outside hg hf htol,
    nexttile_parks hg hf htol, fun ho hin hroom => ?_⟩⟩
  exact nexttile_queries hg hf htol ho hin hroom hcur

/-- Settles O24: `launch` by what it has submitted, `done` by what its gang still waits for, and `nexttile` by the place of
its answer and the queries already out. -/
theorem launchesAndTiles : Obligations.LaunchesAndTiles := ⟨launchInstruction, doneInstruction, nexttileInstruction⟩

end Sys2Proof.Machine

/-! PROOFS. Submissions (R137, R138, R161): what the latch of a window slot and the judgement of a packet leave. -/

namespace Sys2Proof.Machine

open Sys2Proof

/-! ### The launch window (R137) -/

/-- The bytes of a window slot after a write of a doubleword. -/
def slotBytes (s : State) (i off : Nat) (v : Word) : AMap Byte :=
  (byteMap off (toBytes 8 v.toNat)).foldl (fun m e => AMap.set m e.1 e.2) (AMap.getD s.disp.window i WinSlot.reset).bytes

/-- The packet that some bytes of a window slot hold. -/
def slotPacket (bs : AMap Byte) : Nat := ofBytes ((List.range 64).map fun j => AMap.getD bs j 0)

theorem latchWrite_of_open {s : State} {i : Nat} (v : Word) (hopen : (AMap.getD s.disp.lwspace i 0).testBit 16 = true)
    (hpend : (AMap.getD s.disp.window i WinSlot.reset).pending = false) : latchWrite s i 56 v = s.modDisp fun d => { d with
      window := AMap.set d.window i { bytes := slotBytes s i 56 v, pending := true,
                                      outcome := outcomeWord (pkSeq (slotPacket (slotBytes s i 56 v))) 0 0 0 }
      submits := d.submits ++ [{ slot := some i, thread := none, space := AMap.getD s.disp.lwspace i 0 % 2 ^ 16,
                                 packet := slotPacket (slotBytes s i 56 v) }] } := by
  unfold latchWrite
  exact if_pos ⟨rfl, hopen, by rw [hpend]; rfl⟩

theorem latchWrite_of_not {s : State} {i off : Nat} (v : Word) (h : ¬(off = 56 ∧ (AMap.getD s.disp.lwspace i 0).testBit 16 = true ∧
    (AMap.getD s.disp.window i WinSlot.reset).pending = false)) : latchWrite s i off v = s.modDisp fun d => { d with
      window := AMap.set d.window i { AMap.getD s.disp.window i WinSlot.reset with bytes := slotBytes s i off v } } := by
  unfold latchWrite
  refine if_neg fun hc => h ⟨hc.1, hc.2.1, ?_⟩
  simpa using hc.2.2

theorem exec_launchLatch {i : Nat} (hi : i < 16) {off : Nat} (hal : off % 8 = 0) (hoff : off < 64) (v : Word) (s : State) :
    exec (.launchLatch i off v) s = .next (latchWrite s i off v) :=
  (onUnit_of_true _ (decide_eq_true hi)).trans (congrArg Host.Outcome.next (if_pos ⟨hal, hoff⟩))

theorem launchLatch_idles {i : Nat} (hi : i < 16) {off : Nat} (h : ¬(off % 8 = 0 ∧ off < 64)) (v : Word) (s : State) :
    Claims.idles s (.launchLatch i off v) :=
  (onUnit_of_true _ (decide_eq_true hi)).trans (congrArg Host.Outcome.next (if_neg h))

theorem pkSeq_eq (p : Nat) : pkSeq p = p / 2 ^ 192 % 2 ^ 32 := rfl

theorem outcomeWord_plain (seq status : Nat) : outcomeWord seq status 0 0 = BitVec.ofNat 64 (seq + status * 2 ^ 32) := by
  simp [outcomeWord]

/-! ### Judging a packet (R138) -/

theorem acceptNext_of_nil {s : State} (h : s.disp.submits = []) : acceptNext s = s := by rw [acceptNext, h]

/-- The dispatcher after it has taken the oldest packet. -/
def packetTaken (s : State) (qs : List Submit) : State := s.modDisp fun d => { d with submits := qs }

section Judged
variable {s : State} {q : Submit} {qs : List Submit} (hq : s.disp.submits = q :: qs) (hthread : q.thread = none)
include hq hthread

theorem acceptNext_of_error {f : LRefuse} (h : checkLaunch (packetTaken s qs) q.space q.packet none = .error f) :
    acceptNext s = answerSubmit (packetTaken s qs) q (some f) := by
  have hparent : submitParent (packetTaken s qs) q = none := by rw [submitParent, hthread]; rfl
  rw [← hparent] at h
  rw [acceptNext, hq]
  dsimp only
  rw [← packetTaken, h]

theorem acceptNext_of_ok {a : Accepted} (h : checkLaunch (packetTaken s qs) q.space q.packet none = .ok a) :
    acceptNext s = answerSubmit (enterLaunch (packetTaken s qs) a) q none := by
  have hparent : submitParent (packetTaken s qs) q = none := by rw [submitParent, hthread]; rfl
  rw [← hparent] at h
  rw [acceptNext, hq]
  dsimp only
  rw [← packetTaken, h]

end Judged

/-- The dispatcher after it has shown an outcome in a slot. -/
def outcomeShown (s : State) (i : Nat) (w : Word) : State :=
  s.modDisp fun d => { d with
    window := AMap.set d.window i { AMap.getD s.disp.window i WinSlot.reset with outcome := w, pending := false } }

section Answered
variable {q : Submit} {i : Nat} (hslot : q.slot = some i) (hthread : q.thread = none)
include hslot hthread

/-- A refusal shows in the packet's slot and goes to the host as a message. -/
theorem answerSubmit_refused (s : State) (f : LRefuse) : ∃ ch m, answerSubmit s q (some f) =
    { outcomeShown s i (outcomeWord (pkSeq q.packet) 2 f.reason f.off) with chan := ch, mem := m } ∧
      ch.dsent = nextSeq s.chan.dsent := by
  rw [answerSubmit, hslot, hthread]
  obtain ⟨ch, m, h, hsent, -⟩ := sendMsg_eq (outcomeShown s i (outcomeWord (pkSeq q.packet) 2 f.reason f.off)) 0x82 17
    (pkSeq q.packet + q.space * 2 ^ 32 + f.reason % 256 * 2 ^ 48 + f.off % 2 ^ 16 * 2 ^ 56 + f.addr % 2 ^ 64 * 2 ^ 72)
  exact ⟨ch, m, h, hsent⟩

theorem answerSubmit_accepted (s : State) :
    answerSubmit s q none = outcomeShown s i (outcomeWord (pkSeq q.packet) 1 0 0) := by
  rw [answerSubmit, hslot, hthread]
  rfl

end Answered

theorem launchSubmission : Claims.LaunchSubmission := by
  intro i off v q qs f a s hi
  dsimp only
  refine ⟨fun h => launchLatch_idles hi h v s, fun hal hoff => ?_, fun hoff hopen hpend => ?_, fun hoff hshut => ?_,
    fun h => congrArg Host.Outcome.next (acceptNext_of_nil h), fun hq hslot hthread => ⟨fun hcheck => ?_, fun hcheck => ?_⟩⟩
  · refine ⟨_, exec_launchLatch hi hal (by omega) v s, ?_⟩
    rw [latchWrite_of_not v fun h => by omega]
    simp [slotBytes]
  · subst hoff
    refine ⟨_, exec_launchLatch hi (by decide) (by decide) v s, ?_⟩
    rw [latchWrite_of_open v hopen hpend, outcomeWord_plain]
    simp [slotBytes, slotPacket, pkSeq_eq]
  · subst hoff
    refine ⟨_, exec_launchLatch hi (by decide) (by decide) v s, ?_⟩
    rw [latchWrite_of_not v fun h => by simp [h.2.1, h.2.2] at hshut]
    simp
  · obtain ⟨ch, m, h, hsent⟩ := answerSubmit_refused hslot hthread (packetTaken s qs) f
    refine ⟨_, congrArg Host.Outcome.next ((acceptNext_of_error hq hthread hcheck).trans h), rfl, ?_, rfl, hsent, ?_⟩
    · simp [outcomeShown]
    · simp [outcomeShown, outcomeWord, pkSeq_eq]
  · refine ⟨_, congrArg Host.Outcome.next ((acceptNext_of_ok hq hthread hcheck).trans
      (answerSubmit_accepted hslot hthread _)), ?_, ?_, ?_, rfl, ?_⟩
    · simp [outcomeShown]
    · simp [outcomeShown, outcomeWord_plain, pkSeq_eq]
    · exact AMap.get_set_self ..
    · exact AMap.get_set_self ..

end Sys2Proof.Machine

/-! PROOFS. Tiles and samples (R39, R150, R156): what the distributor's answer and a governor's sample leave. -/

namespace Sys2Proof.Machine

open Sys2Proof

/-- An update of a charter changes the launches alone. -/
theorem modNode_eq (s : State) (l i : Nat) (f : Node → Node) :
    ∃ ls, s.modNode l i f = { s with disp := { s.disp with launches := ls } } := by
  unfold State.modNode
  split
  · exact ⟨_, rfl⟩
  · split <;> exact ⟨_, rfl⟩

/-! ### The answer to a tile query (R156) -/

/-- A doubleword whose halves are written one after the other holds both. -/
theorem Core.num_putNum_pair (x : Core) (o a b : Nat) (h : Cells.wf x.pool = true) :
    ((x.putNum o 4 a).putNum (o + 4) 4 b).num o 4 = a % 2 ^ 32 ∧
      ((x.putNum o 4 a).putNum (o + 4) 4 b).num (o + 4) 4 = b % 2 ^ 32 := by
  have hwf := Core.wf_putNum x o 4 a h
  constructor
  · rw [Core.num, Core.putNum, Core.bytes_putBytes_disjoint _ _ _ _ _ hwf (.inl (Nat.le_refl _)), Core.putNum]
    have hb := Core.bytes_putBytes_self x o (toBytes 4 a) h
    rw [length_toBytes] at hb
    rw [hb, ofBytes_toBytes]
  · rw [Core.num, Core.putNum]
    have hb := Core.bytes_putBytes_self (x.putNum o 4 a) (o + 4) (toBytes 4 b) hwf
    rw [length_toBytes] at hb
    rw [hb, ofBytes_toBytes]

theorem Core.num_of_pool {x y : Core} (h : y.pool = x.pool) (o n : Nat) : y.num o n = x.num o n := by
  rw [Core.num, Core.num, Core.bytes, Core.bytes, h]

/-- The two words of a doubleword are full when their tags are. -/
theorem Core.allFull_doubleword {x : Core} {o : Nat} (ho : o % 8 = 0)
    (h : ∀ w, o ≤ 4 * w → 4 * w < o + 8 → x.tagFull (4 * w) = true) : x.allFull o 8 = true := by
  obtain ⟨m, rfl⟩ := Nat.dvd_of_mod_eq_zero ho
  refine List.all_eq_true.mpr fun j hj => ?_
  have hj' : j < 8 / 4 := List.mem_range.mp hj
  have hfull := h (2 * m + j) (by omega) (by omega)
  rwa [show 4 * (2 * m + j) = 8 * m + 4 * j by ring] at hfull

/-- The words of an answer stand in a member's pool with their tags full. -/
theorem writeTile_one {s : State} {gid c k o : Nat} (hgang : gangMembers s gid = [(c, k)]) (ho : o % 8 = 0)
    (hwf : Cells.wf (s.core c).pool = true) (a b : Nat) :
    ∃ cs, writeTile s gid o a b = { s with cores := cs } ∧
      ((writeTile s gid o a b).core c).num o 4 = a % 2 ^ 32 ∧ ((writeTile s gid o a b).core c).num (o + 4) 4 = b % 2 ^ 32 ∧
      ∀ w, o ≤ 4 * w → 4 * w < o + 8 → ((writeTile s gid o a b).core c).tagFull (4 * w) = true := by
  have he : writeTile s gid o a b =
      setTagsWake (s.modCore c fun x => (x.putNum o 4 a).putNum (o + 4) 4 b) c o 8 true := by
    rw [writeTile, hgang]
    rfl
  obtain ⟨⟨cs, hcs⟩, -, hpool⟩ := TagFrame.setTagsWake (s.modCore c fun x => (x.putNum o 4 a).putNum (o + 4) 4 b) c o 8 true
  have hpool' := hpool c
  rw [State.core_modCore_self] at hpool'
  obtain ⟨hlow, hhigh⟩ := Core.num_putNum_pair (s.core c) o a b hwf
  refine ⟨cs, he.trans hcs, ?_, ?_, fun w hlo hhi => ?_⟩
  · rw [he, Core.num_of_pool hpool', hlow]
  · rw [he, Core.num_of_pool hpool', hhigh]
  · rw [he, tagFull_setTagsWake _ _ (by omega) (by decide)]
    exact if_pos ⟨rfl, hlo, hhi⟩

/-- A tile that was given back is handed out first (R155). -/
theorem takeTile_of_back {t : TileSpace} {b : Nat} {bs : List Nat} (h : t.back = b :: bs) :
    takeTile t = (some b, { t with back := bs, issued := t.issued + 1 }) := by rw [takeTile, h]

theorem answerTile_of_nil {s : State} (h : s.disp.queries = []) : answerTile s = s := by rw [answerTile, h]

/-- The distributor after a stage's tile space has given its first returned tile. -/
def tileTaken (s : State) (l i : Nat) (ts : TileSpace) (bs : List Nat) (qs : List (Nat × Nat × Nat)) : State :=
  (s.modDisp fun d => { d with queries := qs }).modNode l i fun x =>
    { x with tile := some { ts with back := bs, issued := ts.issued + 1 } }

section Answers
variable {s : State} {c k off b : Nat} {bs : List Nat} {qs : List (Nat × Nat × Nat)} {n : Node} {ts : TileSpace}
  (hq : s.disp.queries = (c, k, off) :: qs)
  (hn : s.node (s.thread c k).place.launch (s.thread c k).place.node = some n) (htile : n.tile = some ts)
  (hback : ts.back = b :: bs)
include hq hn htile hback

theorem answerTile_of_back : answerTile s =
    (writeTile (tileTaken s (s.thread c k).place.launch (s.thread c k).place.node ts bs qs) (s.thread c k).place.gang off
      (b % 2 ^ 32) (b / 2 ^ 32)).modThread c k fun t => { t with
        tilesOut := t.tilesOut.erase off
        tilesAns := ((off, b % 2 ^ 32, b / 2 ^ 32) :: t.tilesAns).take 4 } := by
  rw [answerTile, hq]
  simp only [hn, htile, takeTile_of_back hback]
  rfl

theorem nexttileAnswer_writes (hwf : s.memWf = true) (hgang : gangMembers s (s.thread c k).place.gang = [(c, k)])
    (ho : off % 8 = 0) : ∃ w, exec .nexttileAnswer s = .next w ∧ w.disp.queries = qs ∧
      (w.node (s.thread c k).place.launch (s.thread c k).place.node).map (fun x => x.tile) =
        some (some { ts with back := bs, issued := ts.issued + 1 }) ∧
      (w.core c).num off 4 = b % 2 ^ 32 ∧ (w.core c).num (off + 4) 4 = b / 2 ^ 32 % 2 ^ 32 ∧
      (w.core c).allFull off 8 = true := by
  have hstep := answerTile_of_back hq hn htile hback
  set l := (s.thread c k).place.launch
  set i := (s.thread c k).place.node
  set s1 := tileTaken s l i ts bs qs with hs1
  have hmembers : gangMembers s1 (s.thread c k).place.gang = [(c, k)] := by
    rw [gangMembers, hs1, tileTaken, modNode_gangs]
    exact hgang
  have hcore : s1.core c = s.core c := core_modNode ..
  obtain ⟨cs, hcs, hlow, hhigh, htags⟩ := writeTile_one (s := s1) (o := off) hmembers ho
    (by rw [hcore]; exact State.wf_pool hwf c) (b % 2 ^ 32) (b / 2 ^ 32)
  set s2 := writeTile s1 (s.thread c k).place.gang off (b % 2 ^ 32) (b / 2 ^ 32)
  obtain ⟨sl, hsl⟩ := core_modThread s2 c k (fun t => { t with
    tilesOut := t.tilesOut.erase off, tilesAns := ((off, b % 2 ^ 32, b / 2 ^ 32) :: t.tilesAns).take 4 }) c
  have hdisp : (answerTile s).disp = s1.disp := by rw [hstep, State.modThread_disp, hcs]
  refine ⟨_, rfl, ?_, ?_, ?_, ?_, ?_⟩
  · obtain ⟨ls, hls⟩ := modNode_eq (s.modDisp fun d => { d with queries := qs }) l i fun x =>
      { x with tile := some { ts with back := bs, issued := ts.issued + 1 } }
    rw [hdisp, hs1, tileTaken, hls]
    rfl
  · rw [node_of_disp (congrArg Disp.launches hdisp), hs1, tileTaken, node_modNode_self]
    exact congrArg _ (congrArg _ (hn : (s.modDisp fun d => { d with queries := qs }).node l i = some n))
  · rw [hstep, hsl]
    exact hlow.trans (Nat.mod_mod ..)
  · rw [hstep, hsl]
    exact hhigh
  · rw [hstep, hsl]
    exact Core.allFull_doubleword ho htags

end Answers
/-! ### Governor samples (R150) -/

theorem markGang_eq {s t : State} {key lid d r : Nat} (h : markGang s key lid d r = some t) :
    ∃ gs rs, t = { s with disp := { s.disp with gangs := gs, rings := rs } } := by
  simp only [markGang] at h
  split at h
  · split at h
    · split at h
      · exact ⟨_, _, (Option.some.inj h).symm⟩
      · exact nomatch h
    · exact nomatch h
  · exact nomatch h

theorem getD_markGang_eq (s : State) (key lid d r : Nat) :
    ∃ gs rs, (markGang s key lid d r).getD s = { s with disp := { s.disp with gangs := gs, rings := rs } } := by
  cases h : markGang s key lid d r with
  | none => exact ⟨_, _, rfl⟩
  | some t => exact markGang_eq h

/-- A ring's occupancy has been compared with its thresholds once more. -/
def sampled (r : Ring) : Ring := { r with
  above := if r.high < idx32 r.post r.take then r.above + 1 else 0
  below := if idx32 r.post r.take < r.low then r.below + 1 else 0 }

theorem sampleRing_of_ends {s : State} {e : Nat × Ring} {p c : Nat}
    (h : ringEnds s e.2.launch (e.1 % 2 ^ 64) = some (p, c)) : sampleRing s e =
      if e.2.mark.isSome then setRing s e.1 (sampled e.2)
      else if 3 ≤ (sampled e.2).above then
        (markGang (setRing s e.1 (sampled e.2)) e.1 e.2.launch p c).getD (setRing s e.1 (sampled e.2))
      else if 3 ≤ (sampled e.2).below then
        (markGang (setRing s e.1 (sampled e.2)) e.1 e.2.launch c p).getD (setRing s e.1 (sampled e.2))
      else setRing s e.1 (sampled e.2) := by
  rw [sampleRing, h]
  rfl

/-- A sample touches rings and the marks of gangs. -/
theorem sampleRing_eq (s : State) (e : Nat × Ring) :
    ∃ gs rs, sampleRing s e = { s with disp := { s.disp with gangs := gs, rings := rs } } := by
  have hmark (a b : Nat) : ∃ gs rs, (markGang (setRing s e.1 (sampled e.2)) e.1 e.2.launch a b).getD
      (setRing s e.1 (sampled e.2)) = { s with disp := { s.disp with gangs := gs, rings := rs } } :=
    getD_markGang_eq (setRing s e.1 (sampled e.2)) e.1 e.2.launch a b
  cases hends : ringEnds s e.2.launch (e.1 % 2 ^ 64) with
  | none => exact ⟨_, _, by rw [sampleRing, hends]⟩
  | some q =>
    rw [sampleRing_of_ends hends]
    split
    · exact ⟨_, _, rfl⟩
    · split
      · exact hmark q.1 q.2
      · split
        · exact hmark q.2 q.1
        · exact ⟨_, _, rfl⟩

/-- A ring whose gang is marked, or that lay outside its thresholds at most twice in a row before, only counts. -/
theorem sampleRing_counts {s : State} {e : Nat × Ring} {ends : Nat × Nat}
    (hends : ringEnds s e.2.launch (e.1 % 2 ^ 64) = some ends)
    (hfew : e.2.mark.isSome = true ∨ (e.2.above < 2 ∧ e.2.below < 2)) : sampleRing s e = setRing s e.1 (sampled e.2) := by
  have habove : e.2.mark.isSome = false → ¬3 ≤ (sampled e.2).above := fun hm => by
    have := (hfew.resolve_left (by simp [hm])).1
    simp only [sampled]
    split <;> omega
  have hbelow : e.2.mark.isSome = false → ¬3 ≤ (sampled e.2).below := fun hm => by
    have := (hfew.resolve_left (by simp [hm])).2
    simp only [sampled]
    split <;> omega
  refine (sampleRing_of_ends hends).trans (ite_eq_left_iff.mpr fun hm => ?_)
  have hmark : e.2.mark.isSome = false := eq_false_of_ne_true hm
  exact (if_neg (habove hmark)).trans (if_neg (hbelow hmark))

theorem State.cluster_modCluster (s : State) (cl cl' : Nat) (f : Cluster → Cluster) :
    (s.modCluster cl f).cluster cl' = if cl' = cl then f (s.cluster cl) else s.cluster cl' :=
  AMap.getD_set s.clusters cl cl' (f (s.cluster cl)) Cluster.reset

/-- The governor's next sample is due 4,096 cycles later. -/
def sampleSet (s : State) (cl cycle : Nat) : State := s.modCluster cl fun x => { x with sampleAt := cycle + 4096 }

theorem exec_governorSample {cl : Nat} (hcl : cl < 512) (s : State) : exec (.governorSample cl) s = .next (sampleSet
    ((s.disp.rings.filter fun e => e.2.holder == some cl).foldl sampleRing s) cl s.time.cycle) :=
  onUnit_of_true _ (decide_eq_true hcl)

theorem sampleAt_sampleSet (s : State) (cl cycle : Nat) : ((sampleSet s cl cycle).cluster cl).sampleAt = cycle + 4096 := by
  rw [sampleSet, State.cluster_modCluster, if_pos rfl]

theorem governorSample_idle {cl : Nat} (hcl : cl < 512) {s : State} (h : ∀ r ∈ s.disp.rings, r.2.holder ≠ some cl) :
    exec (.governorSample cl) s = .next (sampleSet s cl s.time.cycle) := by
  have hnil : (s.disp.rings.filter fun e => e.2.holder == some cl) = [] :=
    List.filter_eq_nil_iff.mpr fun r hr => by simpa using h r hr
  rw [exec_governorSample hcl, hnil]
  rfl

theorem governorSample_next {cl : Nat} (hcl : cl < 512) (s : State) :
    ∃ w, exec (.governorSample cl) s = .next w ∧ (w.cluster cl).sampleAt = w.time.cycle + 4096 := by
  refine ⟨_, exec_governorSample hcl s, (sampleAt_sampleSet ..).trans ?_⟩
  have htime : ((s.disp.rings.filter fun e => e.2.holder == some cl).foldl sampleRing s).time = s.time := by
    refine foldl_inv (fun t : State => t.time = s.time) _ _ (fun t e _ ht => ?_) s rfl
    obtain ⟨gs, rs, h⟩ := sampleRing_eq t e
    rw [h]
    exact ht
  exact congrArg (fun t : Time => t.cycle + 4096) htime.symm

theorem governorSample_counts {cl key : Nat} {r : Ring} {ends : Nat × Nat} (hcl : cl < 512) {s : State}
    (hrings : s.disp.rings = [(key, r)]) (hholder : r.holder = some cl)
    (hfew : r.mark.isSome = true ∨ (r.above < 2 ∧ r.below < 2)) (hends : ringEnds s r.launch (key % 2 ^ 64) = some ends) :
    ∃ w, exec (.governorSample cl) s = .next w ∧ (w.cluster cl).sampleAt = s.time.cycle + 4096 ∧
      w.disp.rings = [(key, sampled r)] := by
  have hheld : (s.disp.rings.filter fun e => e.2.holder == some cl) = [(key, r)] := by
    rw [hrings]
    simp [hholder]
  have hsample := sampleRing_counts (e := (key, r)) hends hfew
  refine ⟨_, exec_governorSample hcl s, sampleAt_sampleSet .., ?_⟩
  rw [hheld, List.foldl_cons, List.foldl_nil, hsample]
  show AMap.set s.disp.rings key (sampled r) = _
  rw [hrings]
  exact if_pos rfl

end Sys2Proof.Machine

/-! PROOFS. Deadlines, struck launches and records (R139, R143, R443, R444). -/

namespace Sys2Proof.Machine

open Sys2Proof

/-! ### Launches and charters that an update leaves -/

theorem launches_modNode_of_ne (s : State) {l lid : Nat} (i : Nat) (f : Node → Node) (h : lid ≠ l) :
    AMap.get (s.modNode l i f).disp.launches lid = AMap.get s.disp.launches lid := by
  unfold State.modNode
  split
  · rfl
  · split
    · rfl
    · exact AMap.get_set_of_ne _ _ h

theorem node_modNode_of_ne (s : State) {l i l' i' : Nat} (f : Node → Node) (h : (l', i') ≠ (l, i)) :
    (s.modNode l i f).node l' i' = s.node l' i' := by
  by_cases hl : l' = l
  · subst hl
    have hi : i' ≠ i := fun hi => h (by rw [hi])
    unfold State.node State.modNode
    cases hx : AMap.get s.disp.launches l' with
    | none => simp [hx]
    | some x =>
      cases hn : AMap.get x.nodes i with
      | none => simp [hx, hn]
      | some n => simp [hn, AMap.get_set_of_ne _ _ hi]
  · rw [State.node, State.node, launches_modNode_of_ne s i f hl]

/-! ### Subtrees that end (R29, R143) -/

/-- A charter as the end of its subtree leaves it. -/
def ended (status code : Nat) (x : Node) : Node :=
  if x.complete then x else { x with ending := true, running := 0, status := status, code := code }

theorem ended_of_open {n : Node} (h : n.complete = false) (status code : Nat) :
    ended status code n = { n with ending := true, running := 0, status := status, code := code } :=
  if_neg (by rw [h]; exact Bool.false_ne_true)

/-- One charter of a subtree that ends. -/
def endNode (status code : Nat) (s : State) (p : Nat × Nat) : State :=
  (stopNode s p.1 p.2).modNode p.1 p.2 (ended status code)

theorem node_stopNode (s : State) (lid j l i : Nat) : (stopNode s lid j).node l i = s.node l i := by
  obtain ⟨cs, cl, rs, qs, sb, gs, sv, h⟩ := stopNode_eq s lid j
  rw [h]
  exact node_of_disp rfl l i

/-- A charter without a record ends with the charters of its subtree, and keeps what its deadline has done. -/
theorem node_endNodes (ps : List (Nat × Nat)) (status code : Nat) {s : State} {l i : Nat} {n : Node}
    (hn : s.node l i = some n) (hopen : n.complete = false) (hin : (l, i) ∈ ps ∨ n.ending = true) :
    ∃ m, (ps.foldl (endNode status code) s).node l i = some m ∧ m.ending = true ∧ m.missApplied = n.missApplied := by
  induction ps generalizing s n with
  | nil => exact ⟨n, hn, hin.resolve_left (by simp), rfl⟩
  | cons p ps ih =>
    rw [← node_stopNode s p.1 p.2] at hn
    by_cases hp : (l, i) = p
    · subst hp
      obtain ⟨m, hm, hend, hmiss⟩ := ih (s := endNode status code s (l, i)) (n := ended status code n)
        (node_modNode_of_some hn _) (by rw [ended_of_open hopen]; exact hopen) (.inr (by rw [ended_of_open hopen]))
      exact ⟨m, hm, hend, by rw [hmiss, ended_of_open hopen]⟩
    · exact ih (s := endNode status code s p) ((node_modNode_of_ne _ (ended status code) hp).trans hn) hopen
        (hin.imp_left fun h => (List.mem_cons.mp h).resolve_left hp)

theorem mem_subtreeIn_self (l : Launch) (f i : Nat) : i ∈ subtreeIn l f i := by
  cases f with
  | zero => exact List.mem_singleton.mpr rfl
  | succ f =>
    rw [subtreeIn]
    split
    · exact List.mem_cons_self
    · exact List.mem_singleton.mpr rfl

theorem mem_subtreeAll_self {s : State} {l : Nat} {x : Launch} (h : AMap.get s.disp.launches l = some x) (f i : Nat) :
    (l, i) ∈ subtreeAll s f l i := by
  cases f with
  | zero => exact List.mem_singleton.mpr rfl
  | succ f =>
    rw [subtreeAll, h]
    exact List.mem_append_left _ (List.mem_map_of_mem (mem_subtreeIn_self x 8 i))

theorem launch_of_node {s : State} {l i : Nat} {n : Node} (h : s.node l i = some n) :
    ∃ x, AMap.get s.disp.launches l = some x ∧ AMap.get x.nodes i = some n := by
  rw [State.node] at h
  split at h
  · exact nomatch h
  · next x hx => exact ⟨x, hx, h⟩

/-- An aborted charter ends (R143). -/
theorem node_abortSubtree {s : State} {l i : Nat} {n : Node} (hn : s.node l i = some n) (hopen : n.complete = false) :
    ∃ m, (abortSubtree s l i).node l i = some m ∧ m.ending = true ∧ m.missApplied = n.missApplied := by
  obtain ⟨x, hx, -⟩ := launch_of_node hn
  exact node_endNodes _ 1 0 hn hopen (.inl (mem_subtreeAll_self hx 8 i))

/-! ### Deadlines (R143) -/

/-- A charter's missed deadline has been acted on. -/
def missMarked (s : State) (l i : Nat) : State := s.modNode l i fun x => { x with missApplied := true }

theorem applyMiss_of_none {s : State} {l i : Nat} (h : s.node l i = none) : applyMiss s l i = s := by
  cases hx : AMap.get s.disp.launches l with
  | none => simp [applyMiss, hx]
  | some x =>
    simp only [State.node, hx] at h
    simp [applyMiss, hx, h]

theorem missDue_eq (s : State) (n : Node) : missDue s n = true ↔
    n.deadline < s.time.tick ∧ n.complete = false ∧ n.missApplied = false := by
  simp [missDue, and_assoc]

section Miss
variable {s : State} {l i : Nat} {n : Node}

theorem applyMiss_of_early (hn : s.node l i = some n)
    (h : ¬(n.deadline < s.time.tick ∧ n.complete = false ∧ n.missApplied = false)) : applyMiss s l i = s := by
  obtain ⟨x, hx, hxn⟩ := launch_of_node hn
  rw [← missDue_eq, Bool.not_eq_true] at h
  rw [applyMiss, hx]
  simp only [hxn, h]
  rfl

variable {x : Launch} (hx : AMap.get s.disp.launches l = some x) (hn : s.node l i = some n)
  (hlate : n.deadline < s.time.tick ∧ n.complete = false ∧ n.missApplied = false) (habove : missAbove s x 8 i = false)
include hx hn hlate habove

theorem applyMiss_of_late : applyMiss s l i =
    if n.missed = 1 then abortSubtree (missMarked s l i) l i
    else if n.missed = 2 then sendMsg (missMarked s l i) 0x83 24
      (x.seq + x.space * 2 ^ 32 + n.addr * 2 ^ 64 + s.time.tick % 2 ^ 64 * 2 ^ 128)
    else missMarked s l i := by
  obtain ⟨y, hy, hyn⟩ := launch_of_node hn
  obtain rfl : y = x := Option.some.inj (hy.symm.trans hx)
  rw [applyMiss, hx]
  simp only [hyn, (missDue_eq s n).mpr hlate, habove]
  rfl

theorem deadlineMiss_reports (hmissed : n.missed = 2) :
    ∃ w, exec (.deadlineMiss l i) s = .next w ∧ w.chan.dsent = nextSeq s.chan.dsent := by
  have hstep := applyMiss_of_late hx hn hlate habove
  rw [hmissed] at hstep
  obtain ⟨ch, m, h, hsent, -⟩ := sendMsg_eq (missMarked s l i) 0x83 24
    (x.seq + x.space * 2 ^ 32 + n.addr * 2 ^ 64 + s.time.tick % 2 ^ 64 * 2 ^ 128)
  refine ⟨_, congrArg Host.Outcome.next (hstep.trans h), hsent.trans ?_⟩
  rw [missMarked, State.modNode_chan]

theorem deadlineMiss_aborts (hmissed : n.missed = 1) : ∃ w, exec (.deadlineMiss l i) s = .next w ∧
    (w.node l i).map Node.ending = some true ∧ (w.node l i).map Node.missApplied = some true := by
  have hstep := applyMiss_of_late hx hn hlate habove
  rw [hmissed] at hstep
  have hmarked := node_modNode_of_some hn fun y => { y with missApplied := true }
  obtain ⟨m, hm, hend, hmiss⟩ := node_abortSubtree (s := missMarked s l i) hmarked hlate.2.1
  refine ⟨_, congrArg Host.Outcome.next hstep, ?_, ?_⟩
  · exact (congrArg _ hm).trans (congrArg some hend)
  · exact (congrArg _ hm).trans (congrArg some hmiss)

end Miss

/-! ### Struck launches (R139) -/

theorem AMap.get_of_mem {α : Type} {m : AMap α} {k : Nat} {x : α} (h : (k, x) ∈ m) : ∃ y, AMap.get m k = some y := by
  induction m with
  | nil => exact absurd h List.not_mem_nil
  | cons e m ih =>
    rw [AMap.get]
    split
    · exact ⟨_, rfl⟩
    · next hne => exact ih ((List.mem_cons.mp h).resolve_left fun he => hne (by rw [← he]))

theorem struckLaunch_mem {s : State} {l : Nat} (h : struckLaunch s = some l) : ∃ x, AMap.get s.disp.launches l = some x := by
  obtain ⟨e, he, rfl⟩ := Option.map_eq_some_iff.mp h
  exact AMap.get_of_mem (List.mem_of_find?_eq_some he)

theorem launchPlace_aborts {s : State} {l : Nat} (h : struckLaunch s = some l) : ∃ w, exec .launchPlace s = .next w ∧
    (AMap.get w.disp.launches l).map Launch.aborted = some true := by
  obtain ⟨x, hx⟩ := struckLaunch_mem h
  refine ⟨_, rfl, ?_⟩
  rw [placeNext, h]
  refine ((endSubtree_keeps _ l 0 1 0).2 l).trans ?_
  rw [State.modDisp_disp, AMap.get_map_key s.disp.launches fun j y => if j = l then { y with aborted := true } else y, hx]
  simp

/-! ### What is given back with a record (R37, R38, R151, R444) -/

/-- The management registers stay, and a charter that was there is there. -/
structure RecordFrame (s t : State) : Prop where
  mgmt : t.mgmt = s.mgmt
  node : ∀ l i, (s.node l i).isSome = true → (t.node l i).isSome = true

namespace RecordFrame
variable {s t u : State}

theorem refl (s : State) : RecordFrame s s := ⟨rfl, fun _ _ => id⟩

theorem trans (h : RecordFrame s t) (h' : RecordFrame t u) : RecordFrame s u :=
  ⟨h'.mgmt.trans h.mgmt, fun l i hn => h'.node l i (h.node l i hn)⟩

theorem of_launches (hmgmt : t.mgmt = s.mgmt) (h : t.disp.launches = s.disp.launches) : RecordFrame s t :=
  ⟨hmgmt, fun l i hn => (congrArg _ (node_of_disp h l i)).trans hn⟩

theorem foldl {α : Type} (f : State → α → State) (as : List α) (h : ∀ s a, RecordFrame s (f s a)) (s : State) :
    RecordFrame s (as.foldl f s) := foldl_inv (RecordFrame s) f as (fun t a _ ht => ht.trans (h t a)) s (refl s)

theorem modNode (s : State) (l i : Nat) (f : Node → Node) : RecordFrame s (s.modNode l i f) := by
  refine ⟨State.modNode_mgmt .., fun l' i' hn => ?_⟩
  by_cases h : (l', i') = (l, i)
  · obtain ⟨rfl, rfl⟩ := Prod.mk.inj h
    rw [node_modNode_self, Option.isSome_map, hn]
  · rw [node_modNode_of_ne s f h, hn]

theorem writeSpace (s : State) (w sp va : Nat) (bs : List Byte) : RecordFrame s (writeSpace s w sp va bs).2 := by
  obtain ⟨m, n, h⟩ := writeSpace_eq s w sp va bs
  rw [h]
  exact of_launches rfl rfl

theorem ringBack (s : State) (a : Nat) (r : Ring) : RecordFrame s (ringBack s a r) := by
  obtain ⟨m, n, h⟩ := ringBack_eq s a r
  rw [h]
  exact of_launches rfl rfl

theorem backRings (s : State) (lid : Nat) : RecordFrame s (backRings s lid) :=
  foldl _ (s.disp.rings.filter fun e => e.2.launch == lid) (fun s e => ringBack s (e.1 % 2 ^ 64) e.2) s

theorem closeRings (s : State) (lid : Nat) (x : Node) (sp : Nat) : RecordFrame s (closeRings s lid x sp) := by
  unfold Machine.closeRings
  refine foldl _ _ (fun s a => ?_) s
  split
  · exact refl s
  · split
    · exact refl s
    · next r _ _ =>
      dsimp only
      split
      · exact (ringBack s a r).trans (of_launches rfl rfl)
      · exact ringBack s a r

theorem freeCluster (s : State) (cl : Nat) : RecordFrame s (freeCluster s cl) := by
  unfold Machine.freeCluster
  split
  · exact (of_launches rfl rfl : RecordFrame s (s.modCluster cl _)).trans (foldl _ _ (fun s (p : Nat × Nat) => modNode s p.1 p.2 _) _)
  · refine (of_launches rfl rfl : RecordFrame s (s.modCluster cl _)).trans (foldl _ _ (fun s p => ?_) _)
    unfold idleCore
    dsimp only
    split
    · exact refl s
    · exact of_launches rfl rfl

theorem releaseStage (s : State) (lid i : Nat) : RecordFrame s (releaseStage s lid i) :=
  (of_launches rfl rfl : RecordFrame s (leaveShared s lid i)).trans
    ((foldl _ _ (fun s (p : Nat × Nat) => modNode s p.1 p.2 _) _).trans (foldl _ _ freeCluster _))

theorem tileBack (s : State) (sp : Nat) (x : Node) : RecordFrame s (tileBack s sp x) := by
  unfold Machine.tileBack
  split
  · exact writeSpace ..
  · exact refl s

end RecordFrame

/-! ### Records (R443, R444) -/

/-- A charter's clusters, rings and tile space are given back. -/
def recordReleased (s : State) (lid i : Nat) (l : Launch) (x : Node) : State :=
  let s0 := if i = 0 then backRings s lid else s
  tileBack (if x.kind = 3 then releaseStage (closeRings s0 lid x l.space) lid i else s0) l.space x

theorem recordFrame_recordReleased (s : State) (lid i : Nat) (l : Launch) (x : Node) :
    RecordFrame s (recordReleased s lid i l x) := by
  have h0 : RecordFrame s (if i = 0 then backRings s lid else s) := by
    split
    · exact .backRings s lid
    · exact .refl s
  unfold recordReleased
  dsimp only
  split
  · exact h0.trans ((RecordFrame.closeRings ..).trans ((RecordFrame.releaseStage ..).trans (.tileBack ..)))
  · exact h0.trans (.tileBack ..)

/-- The completion area of a space. -/
def areaAt (s : State) (sp : Nat) : Area := AMap.getD s.mgmt.areas sp Area.reset

/-- One more record stands in the completion area of a space. -/
def recordStored (s : State) (sp : Nat) (rec' : Nat) : State :=
  (writeSpace s dispWriter sp ((areaAt s sp).cbase.toNat + 128 * ((areaAt s sp).ccount % 2 ^ (areaAt s sp).clog))
    (toBytes 128 rec')).2.modMgmt fun g => { g with
      areas := AMap.set g.areas sp { areaAt s sp with ccount := ((areaAt s sp).ccount + 1) % 2 ^ 32 } }

theorem ccount_recordStored (s : State) (sp rec' : Nat) :
    (areaAt (recordStored s sp rec') sp).ccount = ((areaAt s sp).ccount + 1) % 2 ^ 32 := by
  rw [areaAt, recordStored, State.modMgmt_mgmt, AMap.getD_set_self]

theorem node_recordStored (s : State) (sp rec' l i : Nat) : (recordStored s sp rec').node l i = s.node l i := by
  obtain ⟨m, n, h⟩ := writeSpace_eq s dispWriter sp
    ((areaAt s sp).cbase.toNat + 128 * ((areaAt s sp).ccount % 2 ^ (areaAt s sp).clog)) (toBytes 128 rec')
  rw [recordStored, h]
  exact node_of_disp rfl l i

/-- The status of a record. -/
def recordStatus (x : Node) : Nat := if x.ending then x.status else if x.again then 3 else 0

/-- The record of a charter that is no root. -/
def charterRecorded (s : State) (lid i : Nat) (l : Launch) (x : Node) : State :=
  let s2 := recordReleased s lid i l x
  (recordStored s2 l.space (recordBits s2 l i x (recordStatus x) (areaAt s2 l.space).ccount)).modNode lid i fun y =>
    { y with complete := true, status := recordStatus x }

/-- Where a root's record stands is kept, and the launch waits for its report. -/
def rootRecorded (s : State) (lid at' : Nat) : State :=
  s.modDisp fun d => { d with
    launches := d.launches.map (fun e => (e.1, if e.1 = lid then { e.2 with record := at' } else e.2))
    reports := d.reports ++ [lid] }

theorem writeRecord_eq (s : State) (lid i : Nat) (l : Launch) (x : Node) : ∃ at' sick, writeRecord s lid i l x =
    if i = 0 then keepOutcome (rootRecorded (charterRecorded s lid i l x) lid at') l.space l.seq sick
    else charterRecorded s lid i l x := ⟨_, _, rfl⟩

theorem node_rootRecorded (s : State) (lid at' l i : Nat) : (rootRecorded s lid at').node l i = s.node l i := by
  have hget := AMap.get_map_key s.disp.launches (fun j y => if j = lid then { y with record := at' } else y) l
  simp only [State.node, rootRecorded, State.modDisp_disp, hget]
  cases AMap.get s.disp.launches l with
  | none => rfl
  | some x =>
    simp only [Option.map_some]
    split <;> rfl

theorem node_charterRecorded {s : State} {lid i : Nat} {x : Node} (hx : s.node lid i = some x) (l : Launch) :
    ((charterRecorded s lid i l x).node lid i).map Node.complete = some true := by
  have hsome := (recordFrame_recordReleased s lid i l x).node lid i (by rw [hx]; rfl)
  rw [charterRecorded, node_modNode_self, node_recordStored]
  obtain ⟨y, hy⟩ := Option.isSome_iff_exists.mp hsome
  rw [hy]
  rfl

theorem ccount_charterRecorded (s : State) (lid i : Nat) (l : Launch) (x : Node) :
    (areaAt (charterRecorded s lid i l x) l.space).ccount = ((areaAt s l.space).ccount + 1) % 2 ^ 32 := by
  rw [charterRecorded, areaAt, State.modNode_mgmt, ← areaAt, ccount_recordStored, areaAt,
    (recordFrame_recordReleased s lid i l x).mgmt, ← areaAt]

theorem node_keepOutcome (s : State) (sp seq : Nat) (sick : Bool) (l i : Nat) :
    (keepOutcome s sp seq sick).node l i = s.node l i := node_of_disp rfl l i

theorem areaAt_rootOutcome (s : State) (lid at' sp seq : Nat) (sick : Bool) (sp' : Nat) :
    areaAt (keepOutcome (rootRecorded s lid at') sp seq sick) sp' = areaAt s sp' := rfl

/-- A record that is written completes its charter, and the area counts it. -/
theorem writeRecord_completes {s : State} {lid i : Nat} {x : Node} (hx : s.node lid i = some x) (l : Launch) :
    ((writeRecord s lid i l x).node lid i).map Node.complete = some true ∧
      (areaAt (writeRecord s lid i l x) l.space).ccount = ((areaAt s l.space).ccount + 1) % 2 ^ 32 := by
  obtain ⟨at', sick, h⟩ := writeRecord_eq s lid i l x
  rw [h]
  split
  · rw [node_keepOutcome, node_rootRecorded, areaAt_rootOutcome]
    exact ⟨node_charterRecorded hx l, ccount_charterRecorded ..⟩
  · exact ⟨node_charterRecorded hx l, ccount_charterRecorded ..⟩

section Completes
variable {s : State} {l i : Nat} {x : Launch} (hx : AMap.get s.disp.launches l = some x)
include hx

theorem charterComplete_reports (hdue : reportDue s l = true) : ∃ w, exec (.charterComplete l 0) s = .next w ∧
    AMap.get w.disp.launches l = some { x with done := true } ∧ w.chan.dsent = nextSeq s.chan.dsent := by
  have hstep : completeCharter s l 0 = reportLaunch s l x := by
    rw [completeCharter, hx]
    exact if_pos ⟨rfl, hdue⟩
  obtain ⟨ch, m, h, hsent, -⟩ := sendMsg_eq (s.modDisp fun d => { d with
    launches := AMap.set d.launches l { x with done := true }
    reports := d.reports.erase l
    rings := d.rings.filter fun e => e.2.launch != l }) 0x81 16 (x.seq + x.space * 2 ^ 32 + x.record % 2 ^ 64 * 2 ^ 64)
  exact ⟨_, congrArg Host.Outcome.next (hstep.trans h), AMap.get_set_self .., hsent⟩

theorem completeCharter_of_not_due {n : Node} (hn : s.node l i = some n) (hdue : i ≠ 0 ∨ reportDue s l = false) :
    completeCharter s l i = if mayComplete s l i then writeRecord s l i x n else s := by
  obtain ⟨y, hy, hyn⟩ := launch_of_node hn
  obtain rfl : y = x := Option.some.inj (hy.symm.trans hx)
  rw [completeCharter, hx]
  dsimp only
  rw [if_neg (by rcases hdue with h | h <;> simp [h]), hyn]

end Completes

theorem launchEvents : Claims.LaunchEvents := by
  intro l i c k off cl n ts b bs qs launch s t hcl hwf
  dsimp only
  refine ⟨fun hs hd => ?_, fun hs hd => ?_, launchPlace_aborts, fun h => ?_,
    fun h => congrArg Host.Outcome.next (answerTile_of_nil h), fun hq hl hi hn htile hback hgang ho => ?_,
    governorSample_idle hcl, governorSample_next hcl s, fun h => congrArg Host.Outcome.next (applyMiss_of_none h),
    fun hn hlate => congrArg Host.Outcome.next (applyMiss_of_early hn hlate), fun hx hn hlate habove => ⟨fun hmissed => ?_,
      deadlineMiss_reports hx hn hlate habove, deadlineMiss_aborts hx hn hlate habove⟩, fun hx => ?_,
    charterComplete_reports, fun hx hdue hn => ⟨fun hmay => ?_, fun hmay => ?_⟩⟩
  · exact congrArg Host.Outcome.next (by rw [placeNext, hs, hd]; rfl)
  · exact congrArg Host.Outcome.next (by rw [placeNext, hs, hd]; rfl)
  · exact congrArg Host.Outcome.next (by rw [h])
  · subst hl hi
    exact nexttileAnswer_writes hq hn htile hback hwf hgang ho
  · have hstep := applyMiss_of_late hx hn hlate habove
    rw [hmissed] at hstep
    exact congrArg Host.Outcome.next hstep
  · exact congrArg Host.Outcome.next (by rw [completeCharter, hx])
  · refine congrArg Host.Outcome.next ((completeCharter_of_not_due hx hn hdue).trans ?_)
    rw [hmay, if_neg Bool.false_ne_true]
  · refine ⟨_, congrArg Host.Outcome.next ((completeCharter_of_not_due hx hn hdue).trans ?_), writeRecord_completes hn launch⟩
    rw [hmay, if_pos rfl]

end Sys2Proof.Machine

/-! PROOFS. Placing and starting stages (R142, R145, R146), and their meters (R151, R152). -/

namespace Sys2Proof.Machine

open Sys2Proof

/-! ### Granted clusters (R142, R145) -/

/-- The cluster of a grant, before its cores are made ready. -/
def holderSet (lid i : Nat) (also : List Nat) (s : State) (cl : Nat) : State :=
  s.modCluster cl fun x => { x with holder := some (lid, i), also := also, lmap := [], sampleAt := s.time.cycle + 4096 }

theorem grantCluster_eq (lid i : Nat) (also : List Nat) (part : Word) (s : State) (cl : Nat) :
    ∃ cs, grantCluster lid i also part s cl = { holderSet lid i also s cl with cores := cs } :=
  foldl_inv (fun t : State => ∃ cs, t = { holderSet lid i also s cl with cores := cs })
    (fun t p => t.modCore (coreAt cl p) fun x => grantCore x part) (List.range 8)
    (by rintro _ p - ⟨cs, rfl⟩; exact ⟨_, rfl⟩) (holderSet lid i also s cl) ⟨_, rfl⟩

/-- A grant leaves the dispatcher, and takes no cluster from the stage. -/
theorem grantCluster_spec (lid i : Nat) (also : List Nat) (part : Word) (s : State) (cl : Nat) :
    (grantCluster lid i also part s cl).disp = s.disp ∧ ((grantCluster lid i also part s cl).cluster cl).holder = some (lid, i) ∧
      ∀ c, (s.cluster c).holder = some (lid, i) → ((grantCluster lid i also part s cl).cluster c).holder = some (lid, i) := by
  obtain ⟨cs, h⟩ := grantCluster_eq lid i also part s cl
  have hset (c : Nat) : ((holderSet lid i also s cl).cluster c).holder =
      if c = cl then some (lid, i) else (s.cluster c).holder := by
    rw [holderSet, State.cluster_modCluster]
    split <;> rfl
  have hcluster (c : Nat) : ((grantCluster lid i also part s cl).cluster c).holder =
      if c = cl then some (lid, i) else (s.cluster c).holder := by
    rw [h]
    exact hset c
  refine ⟨by rw [h]; rfl, by rw [hcluster, if_pos rfl], fun c hc => ?_⟩
  rw [hcluster, hc, ite_self]

theorem grantClusters_spec (lid i : Nat) (also : List Nat) (part : Word) (cls : List Nat) (s : State) :
    (cls.foldl (grantCluster lid i also part) s).disp = s.disp ∧ ∀ c, c ∈ cls ∨ (s.cluster c).holder = some (lid, i) →
      ((cls.foldl (grantCluster lid i also part) s).cluster c).holder = some (lid, i) := by
  induction cls generalizing s with
  | nil => exact ⟨rfl, fun c hc => hc.resolve_left List.not_mem_nil⟩
  | cons cl cls ih =>
    obtain ⟨hdisp, hself, hkept⟩ := grantCluster_spec lid i also part s cl
    obtain ⟨hdisp', hheld⟩ := ih (grantCluster lid i also part s cl)
    rw [List.foldl_cons]
    refine ⟨hdisp'.trans hdisp, fun c hc => hheld c ?_⟩
    rcases hc with hc | hc
    · rcases List.mem_cons.mp hc with rfl | hc
      · exact .inr hself
      · exact .inl hc
    · exact .inr (hkept c hc)

/-! ### Meters of clusters (R151) -/

/-- Only how many cores the charters count, and when they first started, may differ. -/
structure CountFrame (s t : State) : Prop where
  launches : ∃ ls, t = { s with disp := { s.disp with launches := ls } }
  node : ∀ l i x, s.node l i = some x → ∃ used first, t.node l i = some { x with usedCores := used, firstStart := first }

theorem countFrame_countClusters (s : State) (lid i n : Nat) : CountFrame s (countClusters s lid i n) := by
  refine foldl_inv (CountFrame s) _ (ancestors s lid i) (fun t p _ ht => ?_) s ⟨⟨_, rfl⟩, fun _ _ _ h => ⟨_, _, h⟩⟩
  obtain ⟨ls, ht'⟩ := ht.launches
  refine ⟨?_, fun l j x hx => ?_⟩
  · obtain ⟨ls', h⟩ := modNode_eq t p.1 p.2 fun x => { x with
      usedCores := x.usedCores + 8 * n, firstStart := if x.firstStart = 0 then s.time.tick else x.firstStart }
    have htime : t.time = s.time := by rw [ht']
    exact ⟨ls', by rw [htime, h, ht']⟩
  · obtain ⟨used, first, hx'⟩ := ht.node l j x hx
    by_cases hp : (l, j) = p
    · subst hp
      exact ⟨_, _, node_modNode_of_some hx' _⟩
    · exact ⟨_, _, (node_modNode_of_ne t _ hp).trans hx'⟩

/-! ### Placing a stage (R142) -/

theorem togetherClusters_one (n : Node) : togetherClusters [n] = (stageCores n + 7) / 8 := by
  simp [togetherClusters, partWords, coresUp]

theorem stageCores_of_stage {n : Node} {g : Stage} (h : n.stage = some g) : stageCores n = g.mininst * g.gang := by
  rw [stageCores, h]

theorem node_takeRings (s : State) (sp : Nat) (as : List Nat) (cl l i : Nat) : (takeRings s sp as cl).node l i = s.node l i :=
  node_of_disp rfl l i

/-- A stage that is settled is placed; the clusters stay. -/
theorem settleStage_spec {s : State} {l i : Nat} {n : Node} (hn : s.node l i = some n) (cl : Nat) :
    (settleStage l cl s i).clusters = s.clusters ∧ ∃ x, (settleStage l cl s i).node l i = some x ∧ x.placed = true := by
  obtain ⟨x, hx, -⟩ := launch_of_node hn
  have hcount := countFrame_countClusters s l i 0
  obtain ⟨ls, hls⟩ := hcount.launches
  obtain ⟨used, first, hn'⟩ := hcount.node l i n hn
  rw [settleStage, hx, hn]
  refine ⟨?_, _, (node_takeRings ..).trans (node_modNode_of_some hn' _), rfl⟩
  show State.clusters (State.modNode _ _ _ _) = _
  rw [State.modNode_clusters, hls]

section Placing
variable {s : State} {l i : Nat} {n : Node} (hn : s.node l i = some n)
include hn

theorem placeStages_one {c : Nat} (hc : coresUp [n] = c) (hbudget : budgetAllows s l i c = true)
    (hfree : (freeClusters s c).length = c) : placeStages l s [i] = some (settleStage l (minD 0 (freeClusters s c))
      (countClusters ((freeClusters s c).foldl (grantCluster l i [] ((partWords [n]).headD 0)) s) l i c) i) := by
  have hns : [i].filterMap (s.node l) = [n] := by simp [hn]
  unfold placeStages
  simp only [hns, hc]
  exact if_neg (by simp [hbudget, hfree])

/-- A stage that fits takes the free clusters and is placed. -/
theorem placeStages_takes {c : Nat} (hc : coresUp [n] = c) (hbudget : budgetAllows s l i c = true)
    (hfree : (freeClusters s c).length = c) : ∃ w x, placeStages l s [i] = some w ∧ w.node l i = some x ∧ x.placed = true ∧
      ∀ cl ∈ freeClusters s c, (w.cluster cl).holder = some (l, i) := by
  obtain ⟨hdisp, hheld⟩ := grantClusters_spec l i [] ((partWords [n]).headD 0) (freeClusters s c) s
  have hcount := countFrame_countClusters ((freeClusters s c).foldl (grantCluster l i [] ((partWords [n]).headD 0)) s) l i c
  obtain ⟨ls, hls⟩ := hcount.launches
  obtain ⟨_, _, hn'⟩ := hcount.node l i n ((node_of_disp (congrArg Disp.launches hdisp) l i).trans hn)
  obtain ⟨hclusters, x, hx, hplaced⟩ := settleStage_spec hn' (minD 0 (freeClusters s c))
  refine ⟨_, x, placeStages_one hn hc hbudget hfree, hx, hplaced, fun cl hcl => ?_⟩
  rw [State.cluster, hclusters, hls]
  exact hheld cl (.inl hcl)

end Placing

theorem nextPlaced_unit {s : State} {rank : Nat} {u : Nat × Nat} {rest : List (Nat × (Nat × Nat ⊕ Nat))}
    (hbudget : budgetAllows s u.1 u.2 (unitNeeds s u) = true) (hplace : (placeUnit s u).isSome = true) :
    nextPlaced s ((rank, .inl u) :: rest) = some (.inl u) := by
  rw [nextPlaced]
  exact (if_neg (by rw [hbudget]; decide)).trans (if_pos hplace)

theorem launchPlace_places {s : State} {rank l i : Nat} {rest : List (Nat × (Nat × Nat ⊕ Nat))} {n : Node} {g : Stage} {c : Nat}
    (hn : s.node l i = some n) (hg : n.stage = some g) (hc : (g.mininst * g.gang + 7) / 8 = c)
    (hstruck : struckLaunch s = none) (hwait : waitingAll s = (rank, .inl (l, i)) :: rest) (hkind : n.kind = 3)
    (hbudget : budgetAllows s l i c = true) (hfree : (freeClusters s c).length = c) : ∃ w x, exec .launchPlace s = .next w ∧
      w.node l i = some x ∧ x.placed = true ∧ ∀ cl ∈ freeClusters s c, (w.cluster cl).holder = some (l, i) := by
  have hneeds : unitNeeds s (l, i) = c := by
    simp only [unitNeeds, hn, hkind, if_pos, togetherClusters_one, stageCores_of_stage hg, hc]
  have hup : coresUp [n] = c := by
    rw [← hc, ← stageCores_of_stage hg]
    simp [coresUp]
  obtain ⟨w, x, hplace, hx, hplaced, hheld⟩ := placeStages_takes hn hup hbudget hfree
  have hunit : placeUnit s (l, i) = some w := by
    simp only [placeUnit, hn, hkind, if_pos, hplace]
  have hdue : duePlaced s = some (.inl (l, i)) := by
    rw [duePlaced, hwait]
    exact nextPlaced_unit (by rw [hneeds]; exact hbudget) (by rw [hunit]; rfl)
  refine ⟨w, x, congrArg Host.Outcome.next ?_, hx, hplaced, hheld⟩
  rw [placeNext, hstruck]
  simp only [duePlace, hdue, hunit, Option.getD_some]

/-! ### Starting a gang (R146, R147) -/

theorem spRead_eq (w sp f : Nat) (s : State) (va n : Nat) (acc : List Byte) :
    ∃ m net, (spRead w sp f s va n acc).2 = { s with mem := m, net := net } := by
  induction f generalizing s va n acc with
  | zero => exact ⟨_, _, rfl⟩
  | succ f ih =>
    rw [spRead]
    split
    · exact ⟨_, _, rfl⟩
    · obtain ⟨m, net, hx⟩ := xlatePort_eq s sp .read va
      split
      · next tr s1 heq =>
        rw [heq] at hx
        replace hx : s1 = _ := hx
        dsimp only
        split
        · exact ⟨_, _, hx⟩
        · obtain ⟨m', net', h⟩ := ih s1 (va + chunkOf va n) (n - chunkOf va n) (acc ++ outsideRead s1 w tr (chunkOf va n))
          exact ⟨_, _, by rw [h, hx]⟩
      · next heq =>
        rw [heq] at hx
        exact ⟨_, _, hx⟩

/-- A read of a space changes the memory and the ports' translation cache. -/
theorem readSpace_eq (s : State) (w sp va n : Nat) : ∃ m net, (readSpace s w sp va n).2 = { s with mem := m, net := net } :=
  spRead_eq ..

/-- The dispatcher and every thread stay. -/
structure ThreadsKept (s t : State) : Prop where
  disp : t.disp = s.disp
  thread : ∀ c k, t.thread c k = s.thread c k

namespace ThreadsKept
variable {s t u : State}

theorem refl (s : State) : ThreadsKept s s := ⟨rfl, fun _ _ => rfl⟩

theorem trans (h : ThreadsKept s t) (h' : ThreadsKept t u) : ThreadsKept s u :=
  ⟨h'.disp.trans h.disp, fun c k => (h'.thread c k).trans (h.thread c k)⟩

theorem modCore (s : State) (c : Nat) {f : Core → Core} (hf : ∀ x, (f x).slots = x.slots) : ThreadsKept s (s.modCore c f) :=
  ⟨rfl, fun c' k => State.thread_modCore s c c' k f hf⟩

theorem of_readSpace {w sp va n : Nat} {r : Nat × List Byte} (h : readSpace s w sp va n = (r, t)) : ThreadsKept s t := by
  obtain ⟨m, net, hs⟩ := readSpace_eq s w sp va n
  rw [h] at hs
  replace hs : t = _ := hs
  rw [hs]
  exact ⟨rfl, fun _ _ => rfl⟩

theorem writeImage (s : State) (sp a c : Nat) : ThreadsKept s (writeImage s sp a c) := by
  unfold Machine.writeImage
  split
  · exact refl s
  · split
    · next h1 =>
      dsimp only
      split
      · exact of_readSpace h1
      · split
        · next h2 => exact (of_readSpace h1).trans ((of_readSpace h2).trans (modCore _ c fun _ => rfl))
        · next h2 => exact (of_readSpace h1).trans (of_readSpace h2)
    · next h1 => exact of_readSpace h1

theorem clearLanes (s : State) (c k root : Nat) : ThreadsKept s (clearLanes s c k root) := modCore s _ fun _ => rfl

end ThreadsKept

/-- A thread stands ready at the entry of a stage. -/
def AtEntry (g : Stage) (s : State) (m : Nat × Nat) : Prop := (s.thread m.1 m.2).status = .ready ∧ (s.thread m.1 m.2).pc = g.entry

section Members
variable (lid i gid inum lead : Nat) (l : Launch) (n : Node) (g : Stage) (moved : Bool)

/-- The state in which a member's slot receives its thread: the core has its image, the lanes are empty. -/
def memberCore (s : State) (m : Nat × Nat) : State :=
  let s1 := if moved || !(s.core m.1).imaged.contains (lid, i) then
      (writeImage s l.space g.pimage m.1).modCore m.1 fun x => { x with imaged := (lid, i) :: x.imaged }
    else s
  clearLanes s1 m.1 m.2 (rootOf s1 lid)

theorem threadsKept_memberCore (s : State) (m : Nat × Nat) : ThreadsKept s (memberCore lid i l g moved s m) := by
  refine .trans ?_ (.clearLanes ..)
  split
  · exact (ThreadsKept.writeImage ..).trans (.modCore _ _ fun _ => rfl)
  · exact .refl s

theorem startMember_eq (s : State) (e : Nat × (Nat × Nat)) : startMember lid i gid inum lead l n g moved s e =
    ((memberCore lid i l g moved s e.2).setThread e.2.1 e.2.2 (freshThread (memberCore lid i l g moved s e.2)
      ((memberCore lid i l g moved s e.2).thread e.2.1 e.2.2) lid i gid e.1 inum lead l n g)).modCore e.2.1
      fun x => { x with lowered := false } := rfl

/-- A member that starts stands at the entry, and who stood there stays. -/
theorem startMember_spec (s : State) (e : Nat × (Nat × Nat)) :
    (startMember lid i gid inum lead l n g moved s e).disp = s.disp ∧
      ∀ m, e.2 = m ∨ AtEntry g s m → AtEntry g (startMember lid i gid inum lead l n g moved s e) m := by
  obtain ⟨hdisp, hthread⟩ := threadsKept_memberCore lid i l g moved s e.2
  rw [startMember_eq]
  refine ⟨hdisp, fun m hm => ?_⟩
  unfold AtEntry
  rw [State.thread_modCore _ e.2.1 m.1 m.2 (fun x => { x with lowered := false }) fun _ => rfl]
  by_cases hme : m = e.2
  · subst hme
    rw [State.thread_setThread_self]
    exact ⟨rfl, rfl⟩
  · rw [State.thread_setThread_of_ne _ _ hme, hthread]
    exact hm.resolve_left (Ne.symm hme)

theorem startMembers_spec (es : List (Nat × (Nat × Nat))) (s : State) :
    (es.foldl (startMember lid i gid inum lead l n g moved) s).disp = s.disp ∧
      ∀ m, m ∈ es.map Prod.snd ∨ AtEntry g s m → AtEntry g (es.foldl (startMember lid i gid inum lead l n g moved) s) m := by
  induction es generalizing s with
  | nil => exact ⟨rfl, fun m hm => hm.resolve_left List.not_mem_nil⟩
  | cons e es ih =>
    obtain ⟨hdisp, hentry⟩ := startMember_spec lid i gid inum lead l n g moved s e
    obtain ⟨hdisp', hentry'⟩ := ih (startMember lid i gid inum lead l n g moved s e)
    refine ⟨hdisp'.trans hdisp, fun m hm => hentry' m ?_⟩
    rcases hm with hm | hm
    · rcases List.mem_cons.mp hm with hm | hm
      · exact .inr (hentry m (.inl hm.symm))
      · exact .inl hm
    · exact .inr (hentry m (.inr hm))

end Members

/-- A gang that starts: it is entered, its stage runs one gang more, and its members stand at the entry. -/
theorem startGang_spec {s : State} {l i : Nat} {n : Node} {g : Stage} {ms : List (Nat × Nat)} (hn : s.node l i = some n)
    (hg : n.stage = some g) (hms : ms ≠ []) (moved : Bool) (since : Nat) :
    ∃ x gang, (startGang s l i ms moved since).node l i = some x ∧ x.started = n.started + 1 ∧ x.running = n.running + 1 ∧
      AMap.get (startGang s l i ms moved since).disp.gangs (s.disp.nextGang + 1) = some gang ∧ gang.launch = l ∧
      gang.node = i ∧ gang.inum = n.started ∧ gang.members = ms ∧
      ∀ m ∈ ms, AtEntry g (startGang s l i ms moved since) m := by
  obtain ⟨y, hy, -⟩ := launch_of_node hn
  obtain ⟨m0, rest, rfl⟩ := List.exists_cons_of_ne_nil hms
  set ms := m0 :: rest
  let gang : Gang := { launch := l, node := i, cluster := clusterOf m0.1, members := ms, inum := n.started,
                       startTick := since, marked := none, token := false, started := true, fatal := none }
  let entered := s.modDisp fun d => { d with gangs := AMap.set d.gangs (s.disp.nextGang + 1) gang, nextGang := s.disp.nextGang + 1 }
  let counted := entered.modNode l i fun x => { x with started := x.started + 1, running := x.running + 1 }
  have hstep : startGang s l i ms moved since = ((List.range ms.length).zip ms).foldl
      (startMember l i (s.disp.nextGang + 1) n.started (posOf m0.1) y n g moved) counted := by
    rw [startGang, hy, hn]
    simp only [hg, ms]
    rfl
  obtain ⟨hdisp, hentry⟩ := startMembers_spec l i (s.disp.nextGang + 1) n.started (posOf m0.1) y n g moved
    ((List.range ms.length).zip ms) counted
  rw [hstep]
  refine ⟨{ n with started := n.started + 1, running := n.running + 1 }, gang, ?_, rfl, rfl, ?_, rfl, rfl, rfl, rfl, fun m hm => ?_⟩
  · refine (node_of_disp (congrArg Disp.launches hdisp) l i).trans ?_
    exact node_modNode_of_some (s := entered) hn _
  · rw [hdisp, modNode_gangs]
    exact AMap.get_set_self ..
  · refine hentry m (.inl ?_)
    rwa [List.map_snd_zip (by rw [List.length_range])]

theorem length_pickMembers {s : State} {cl k p : Nat} {ms : List (Nat × Nat)} (h : pickMembers s cl k p = some ms) :
    ms.length = k := by
  unfold pickMembers at h
  dsimp only at h
  split at h
  · next hk => rw [← Option.some.inj h, List.length_take, Nat.min_eq_left hk]
  · exact nomatch h

/-- A gang that starts runs on as many slots as it has members; before, at most one more cluster is granted. -/
theorem startNext_some {s w : State} {l i : Nat} {n : Node} {g : Stage} (hn : s.node l i = some n) (hg : n.stage = some g)
    (h : startNext s l i = some w) : ∃ t ms n', w = startGang t l i ms false s.time.tick ∧ ms.length = g.gang ∧
      t.disp.nextGang = s.disp.nextGang ∧ t.node l i = some n' ∧ n'.started = n.started ∧ n'.running = n.running ∧
      n'.stage = some g := by
  obtain ⟨y, hy, -⟩ := launch_of_node hn
  simp only [startNext, hy, hn, hg] at h
  split at h
  · exact nomatch h
  · split at h
    · next ms hms =>
      obtain ⟨cl, -, hpick⟩ := List.exists_of_findSome?_eq_some hms
      exact ⟨s, ms, n, (Option.some.inj h).symm, length_pickMembers hpick, rfl, hn, rfl, rfl, hg⟩
    · split at h
      · exact nomatch h
      · split at h
        · next cl _ _ =>
          obtain ⟨ms, hpick, rfl⟩ := Option.map_eq_some_iff.mp h
          obtain ⟨hdisp, -, -⟩ := grantCluster_spec l i [] g.part s cl
          have hcount := countFrame_countClusters (grantCluster l i [] g.part s cl) l i 1
          obtain ⟨ls, hls⟩ := hcount.launches
          obtain ⟨used, first, hn'⟩ := hcount.node l i n ((node_of_disp (congrArg Disp.launches hdisp) l i).trans hn)
          have hnext := congrArg Disp.nextGang hdisp
          exact ⟨_, ms, _, rfl, length_pickMembers hpick, by rw [hls]; exact hnext, hn', rfl, rfl, hg⟩
        · exact nomatch h

theorem startNext_of_dueStart {s : State} {l i : Nat} (h : dueStart s = some (l, i)) : ∃ w, startNext s l i = some w := by
  obtain ⟨e, -, he⟩ := List.exists_of_findSome?_eq_some h
  obtain ⟨q, -, hq⟩ := List.exists_of_findSome?_eq_some he
  split at hq
  · next hstart =>
    obtain ⟨rfl, rfl⟩ := Prod.mk.inj (Option.some.inj hq)
    exact Option.isSome_iff_exists.mp hstart.2
  · exact nomatch hq

theorem instanceStart_starts {s : State} {l i : Nat} {n : Node} {g : Stage} (hn : s.node l i = some n)
    (hg : n.stage = some g) (hdue : dueStart s = some (l, i)) (hpos : 0 < g.gang) :
    ∃ w x gang, exec .instanceStart s = .next w ∧ w.node l i = some x ∧ x.started = n.started + 1 ∧ x.running = n.running + 1 ∧
      AMap.get w.disp.gangs (s.disp.nextGang + 1) = some gang ∧ gang.launch = l ∧ gang.node = i ∧ gang.inum = n.started ∧
      gang.members.length = g.gang ∧ ∀ m ∈ gang.members, (w.thread m.1 m.2).status = .ready ∧ (w.thread m.1 m.2).pc = g.entry := by
  obtain ⟨w, hw⟩ := startNext_of_dueStart hdue
  obtain ⟨t, ms, n', rfl, hlen, hnext, hn', hstarted, hrunning, hg'⟩ := startNext_some hn hg hw
  have hms : ms ≠ [] := List.ne_nil_of_length_pos (by rw [hlen]; exact hpos)
  obtain ⟨x, gang, hx, hxs, hxr, hgang, hl, hi, hinum, hmembers, hentry⟩ := startGang_spec hn' hg' hms false s.time.tick
  rw [hnext] at hgang
  refine ⟨_, x, gang, congrArg Host.Outcome.next ?_, hx, by rw [hxs, hstarted], by rw [hxr, hrunning], hgang, hl, hi,
    by rw [hinum, hstarted], by rw [hmembers, hlen], by rw [hmembers]; exact hentry⟩
  rw [hdue]
  exact congrArg (Option.getD · s) hw

/-! ### Meters (R28, R151, R152) -/

theorem ancestry_of_launches {s t : State} (h : t.disp.launches = s.disp.launches) (f l i : Nat) :
    ancestry t f l i = ancestry s f l i := by
  induction f generalizing l i with
  | zero => rfl
  | succ f ih => simp only [ancestry, h, ih]

theorem ancestors_of_launches {s t : State} (h : t.disp.launches = s.disp.launches) (l i : Nat) :
    ancestors t l i = ancestors s l i := by
  rw [ancestors, ancestors, ancestryFuel, ancestryFuel, h, ancestry_of_launches h]

/-- Threads and saved sets are marked; the charters stay. -/
theorem node_markMeter (s : State) (lid j m l i : Nat) : (markMeter s lid j m).node l i = s.node l i := by
  refine node_of_disp ?_ l i
  unfold markMeter
  refine foldl_inv (fun t : State => t.disp.launches = s.disp.launches) _ s.disp.gangs (fun t e _ ht => ?_) s rfl
  split
  · exact foldl_inv (fun u : State => u.disp.launches = s.disp.launches) (fun u q => u.modThread q.1 q.2 (meterPending m))
      e.2.members (fun _ _ _ hu => hu) t ht
  · exact ht

/-- The DRAM or energy budget that a charter's meters have reached. -/
def spent (x : Node) : Option Nat :=
  if x.dram ≤ x.usedDram then some 2 else if x.energy ≤ x.usedEnergy then some 3 else none

/-- The meters of one charter have counted some more. -/
def countMeters (dram energy : Nat) (x : Node) : Node :=
  { x with usedDram := x.usedDram + dram, usedEnergy := x.usedEnergy + energy }

/-- A charter after its meters have counted; a budget that is found spent is marked once. -/
def metered (dram energy : Nat) (n : Node) : Node :=
  { countMeters dram energy n with overrun := n.overrun.or (spent (countMeters dram energy n)) }

theorem node_addMeters {s : State} {p : Nat × Nat} {n : Node} (hn : s.node p.1 p.2 = some n) (dram energy : Nat) :
    (addMeters dram energy s p).node p.1 p.2 = some (metered dram energy n) := by
  have hn1 : (s.modNode p.1 p.2 (countMeters dram energy)).node p.1 p.2 = some (countMeters dram energy n) :=
    node_modNode_of_some hn _
  unfold metered addMeters
  dsimp only
  split
  · next h => exact nomatch h.symm.trans hn1
  · next x h =>
    obtain rfl : countMeters dram energy n = x := Option.some.inj (hn1.symm.trans h)
    split
    · next m ho hs =>
      rw [node_markMeter, node_modNode_of_some h]
      exact congrArg (fun o => some { countMeters dram energy n with overrun := o })
        ((congrArg₂ Option.or (ho : n.overrun = none) hs).trans Option.none_or).symm
    · next hother =>
      rw [h]
      have hkept : n.overrun.or (spent (countMeters dram energy n)) = n.overrun := by
        cases ho : n.overrun with
        | some o => rfl
        | none =>
          cases hs : spent (countMeters dram energy n) with
          | none => rfl
          | some m => exact (hother m ho hs).elim
      rw [hkept]
      rfl

theorem meterUpdate_adds {s : State} {l i : Nat} {n : Node} (hn : s.node l i = some n) (hroot : ancestors s l i = [(l, i)])
    (d : Nat) : ∃ w x, exec (.meterUpdate l i d) s = .next w ∧ w.node l i = some x ∧ x.usedDram = n.usedDram + d ∧
      x.usedEnergy = n.usedEnergy + Config.energyOf s.free ∧ x.metered = s.time.cycle ∧
      (n.overrun = none → n.dram ≤ n.usedDram + d → x.overrun = some 2) ∧
      (n.overrun = none → n.usedDram + d < n.dram → x.overrun = if n.energy ≤ x.usedEnergy then some 3 else none) ∧
      ∀ o, n.overrun = some o → x.overrun = some o := by
  have hone : addAll s.drawEnergy.2 l i d (Config.energyOf s.free) =
      addMeters d (Config.energyOf s.free) s.drawEnergy.2 (l, i) := by
    rw [addAll, ancestors_of_launches (s := s) (t := s.drawEnergy.2) rfl, hroot]
    rfl
  have hx := node_addMeters (s := s.drawEnergy.2) (p := (l, i)) (n := n) hn d (Config.energyOf s.free)
  rw [← hone] at hx
  refine ⟨_, _, rfl, node_modNode_of_some hx _, rfl, rfl, rfl, fun ho hd => ?_, fun ho hd => ?_, fun o ho => ?_⟩
  · refine (congrArg (Option.or · _) ho).trans ?_
    exact if_pos hd
  · refine (congrArg (Option.or · _) ho).trans ?_
    exact if_neg (Nat.not_le.mpr hd)
  · exact congrArg (Option.or · _) ho

theorem launchEffects : Claims.LaunchEffects := by
  intro l i cl rank key n g r ends rest launch s hcl hlaunch hnode hg
  have hn : s.node l i = some n := by
    rw [State.node, hlaunch]
    exact hnode
  refine ⟨fun hstruck hwait hkind hbudget hfree => ?_, instanceStart_starts hn hg, governorSample_counts hcl,
    meterUpdate_adds hn⟩
  exact launchPlace_places hn hg rfl hstruck hwait hkind hbudget hfree

/-- Settles O45: a packet's way into the dispatcher, each event of its launch by what it finds, and the placing, starting,
sampling and metering of one stage. -/
theorem launchLife : Obligations.LaunchLife := ⟨launchSubmission, launchEvents, launchEffects⟩

end Sys2Proof.Machine

/-! PROOFS. Filling code from the instruction space (R172), and leaving and joining the lockstep of a gang (R173,
R174). -/

namespace Sys2Proof.Machine

open Sys2Proof

/-! ### What a thread reads of a line while pools change -/

section Reads
variable (s : State) (c' c k : Nat) {f : Core → Core} (hf : ∀ x, (f x).slots = x.slots)
include hf

theorem ownByte_modCore (hl o : Nat) : ownByte (s.modCore c' f) c k hl o = ownByte s c k hl o := by
  have hdevice : ∀ a, deviceHeld (s.modCore c' f) a = deviceHeld s a := fun _ => rfl
  simp only [ownByte, ownWrites, hdevice, State.thread_modCore s c' c k f hf, State.modCore_mem]

theorem ownHostByte_modCore (a : Nat) : ownHostByte (s.modCore c' f) c k a = ownHostByte s c k a := by
  rw [ownHostByte, State.thread_modCore s c' c k f hf, ownHostByte]

theorem transBytes_modCore (tr : Trans) (n : Nat) : transBytes (s.modCore c' f) c k tr n = transBytes s c k tr n := by
  simp only [transBytes, overlay, baseWords, ownByte_modCore s c' c k hf, ownHostByte_modCore s c' c k hf, State.modCore_mem]

theorem instrHit_modCore (va : Nat) (tr : Trans) : Claims.instrHit (s.modCore c' f) va tr ↔ Claims.instrHit s va tr := by
  have hme : (s.modCore c' f).me = s.me := State.thread_modCore s c' s.cur.1 s.cur.2 f hf
  rw [Claims.instrHit, hme]
  rfl

end Reads

theorem length_transBytes (s : State) (c k : Nat) (tr : Trans) (n : Nat) : (transBytes s c k tr n).1.length = n := by
  unfold transBytes
  split
  · simp
  · simp [overlay, Memory.lineBytes, length_toBytes]

/-! ### Words written to a pool -/

theorem Cells.putN_append (m : List Host.Cell) (a : Nat) (bs bs' : List Byte) :
    Cells.putN m a (bs ++ bs') = Cells.putN (Cells.putN m a bs) (a + bs.length) bs' := by
  induction bs generalizing m a with
  | nil => rfl
  | cons b bs ih =>
    rw [List.cons_append, Cells.putN, ih, Cells.putN, List.length_cons]
    congr 1
    omega

theorem Core.putBytes_slots (o : Nat) (bs : List Byte) (x : Core) : (x.putBytes o bs).slots = x.slots := rfl

/-- Bytes that cover no codeword clear no poison (R282). -/
theorem Core.putBytes_of_short (x : Core) (o : Nat) {bs : List Byte} (h : bs.length < 8) :
    x.putBytes o bs = { x with pool := Cells.putN x.pool o bs } := by
  rw [Core.putBytes, List.filter_eq_self.mpr]
  intro w _
  have houtside : w * 8 < o ∨ o + bs.length < w * 8 + 8 := by omega
  simpa using houtside

/-- Only the pool of core c changes, and there only by the bytes at d. -/
structure PoolFilled (c d : Nat) (bs : List Byte) (s t : State) : Prop where
  coresOnly : ∃ cs, t = { s with cores := cs }
  core : t.core c = { s.core c with pool := Cells.putN (s.core c).pool d bs }
  others : ∀ c', c' ≠ c → t.core c' = s.core c'

namespace PoolFilled
variable {c d : Nat} {bs bs' : List Byte} {s t u : State}

theorem nil (c d : Nat) (s : State) : PoolFilled c d [] s s := ⟨⟨_, rfl⟩, rfl, fun _ _ => rfl⟩

theorem modCore (c d : Nat) (s : State) (h : bs.length < 8) : PoolFilled c d bs s (s.modCore c fun x => x.putBytes d bs) :=
  ⟨⟨_, rfl⟩, by rw [State.core_modCore_self, Core.putBytes_of_short _ _ h],
    fun _ hne => State.core_modCore_of_ne _ _ hne⟩

theorem append (h : PoolFilled c d bs s t) (h' : PoolFilled c (d + bs.length) bs' t u) : PoolFilled c d (bs ++ bs') s u := by
  obtain ⟨cs, rfl⟩ := h.coresOnly
  obtain ⟨cs', rfl⟩ := h'.coresOnly
  refine ⟨⟨cs', rfl⟩, ?_, fun c' hne => (h'.others c' hne).trans (h.others c' hne)⟩
  rw [h'.core, h.core, Cells.putN_append]

theorem thread (h : PoolFilled c d bs s t) (c' k : Nat) : t.thread c' k = s.thread c' k := by
  by_cases hc : c' = c
  · rw [State.thread, hc, h.core]
    rfl
  · rw [State.thread, h.others c' hc]
    rfl

theorem keepsThread (h : PoolFilled c d bs s t) : KeepsThread s t := by
  obtain ⟨cs, hcs⟩ := h.coresOnly
  have hcur : t.cur = s.cur := by rw [hcs]
  refine KeepsThread.of_me_eq hcur ?_
  rw [State.me, hcur]
  exact h.thread ..

/-- Once the instruction has retired, the bytes read back and every other one is as before. -/
theorem storedOnly (h : PoolFilled s.cur.1 d bs s t) (hwf : s.memWf = true) (pc : Word) (y : Bool) :
    Claims.storedOnly s (retire t pc y) d bs := by
  obtain ⟨cs, hcs⟩ := h.coresOnly
  have hpool : (retire t pc y).myCore.pool = Cells.putN s.myCore.pool d bs := by
    rw [State.myCore, retire_cur, retire_pool, h.keepsThread.1, h.core]
    rfl
  have hcanon : Cells.wf s.myCore.pool = true := State.wf_pool hwf s.cur.1
  refine ⟨?_, fun x hx => ?_, fun c' hne => ?_, ?_⟩
  · rw [Core.bytes, hpool, Cells.getN_putN_self _ _ _ hcanon]
  · rw [hpool, Cells.get_putN_outside _ _ _ _ hcanon hx]
  · rw [retire_pool, h.others c' hne]
  · rw [Claims.sameMem, retire_mem, hcs]
    exact ⟨rfl, rfl, rfl, rfl⟩

end PoolFilled

/-! ### ifence.fill (R172) -/

theorem xlateCluster_of_instrHit {s : State} {va : Nat} {tr : Trans} (h : Claims.instrHit s va tr) :
    xlateCluster s (clusterOf s.cur.1) s.me.place.spaceid true .compute .fill va = ((0, tr), s) := by
  obtain ⟨hcanon, e, hfind, rfl⟩ := h
  simp only [xlateCluster, hcanon, if_true, hfind]
  rfl

/-- The bytes of n words whose translations are given. -/
def wordBytes (s : State) (tr : Nat → Trans) (n : Nat) : List Byte :=
  (List.range n).flatMap fun i => (transBytes s s.cur.1 s.cur.2 (tr i) 4).1

theorem wordBytes_succ (s : State) (tr : Nat → Trans) (n : Nat) : wordBytes s tr (n + 1) =
    (transBytes s s.cur.1 s.cur.2 (tr 0) 4).1 ++ wordBytes s (fun i => tr (i + 1)) n := by
  rw [wordBytes, List.range_succ_eq_map, List.flatMap_cons, List.flatMap_map]
  rfl

/-- One word at pool offset d, as the acting thread reads it. -/
def putWord (s : State) (d : Nat) (tr : Trans) : State :=
  s.modCore s.cur.1 fun x => x.putBytes d (transBytes s s.cur.1 s.cur.2 tr 4).1

theorem putWord_me (s : State) (d : Nat) (tr : Trans) : (putWord s d tr).me = s.me :=
  State.thread_modCore _ _ _ _ _ (Core.putBytes_slots d _)

theorem transBytes_putWord (s : State) (d : Nat) (tr tr' : Trans) (n : Nat) :
    transBytes (putWord s d tr) s.cur.1 s.cur.2 tr' n = transBytes s s.cur.1 s.cur.2 tr' n :=
  transBytes_modCore s s.cur.1 s.cur.1 s.cur.2 (Core.putBytes_slots d _) tr' n

theorem wordBytes_putWord (s : State) (d : Nat) (tr : Trans) (tr' : Nat → Trans) (n : Nat) :
    wordBytes (putWord s d tr) tr' n = wordBytes s tr' n := by
  have hcur : (putWord s d tr).cur = s.cur := rfl
  simp only [wordBytes, hcur, transBytes_putWord]

theorem poolFilled_putWord (s : State) (d : Nat) (tr : Trans) :
    PoolFilled s.cur.1 d (transBytes s s.cur.1 s.cur.2 tr 4).1 s (putWord s d tr) :=
  PoolFilled.modCore _ _ _ (by rw [length_transBytes]; omega)

/-- The instruction TLB translates n words from address a on, and none of them holds poison. -/
def WordsHit (s : State) (a : Nat) (tr : Nat → Trans) (n : Nat) : Prop :=
  ∀ i, i < n → Claims.instrHit s (a + 4 * i) (tr i) ∧ (transBytes s s.cur.1 s.cur.2 (tr i) 4).2 = 0

theorem WordsHit.rest {s : State} {a n : Nat} {tr : Nat → Trans} (h : WordsHit s a tr (n + 1)) (d : Nat) :
    WordsHit (putWord s d (tr 0)) (a + 4) (fun i => tr (i + 1)) n := by
  intro i hi
  obtain ⟨hhit, hclean⟩ := h (i + 1) (by omega)
  rw [show a + 4 * (i + 1) = a + 4 + 4 * i by omega] at hhit
  refine ⟨(instrHit_modCore s s.cur.1 (Core.putBytes_slots d _) ..).mpr hhit, ?_⟩
  exact (congrArg Prod.snd (transBytes_putWord ..)).trans hclean

theorem fillWords_of_hit {s : State} {a : Nat} {tr : Trans} (hhit : Claims.instrHit s a tr)
    (hclean : (transBytes s s.cur.1 s.cur.2 tr 4).2 = 0) (n d : Nat) :
    fillWords s.cur.1 s.cur.2 s.me.place.spaceid (n + 1) s d a =
      fillWords s.cur.1 s.cur.2 s.me.place.spaceid n (putWord s d tr) (d + 4) (a + 4) := by
  rw [fillWords, xlateCluster_of_instrHit hhit]
  exact if_neg (not_not.mpr hclean)

/-- The words all arrive, each read as the state before the fill gives it. -/
theorem fillWords_of_hits (n : Nat) (s : State) (d a : Nat) (tr : Nat → Trans) (h : WordsHit s a tr n) :
    ∃ t, fillWords s.cur.1 s.cur.2 s.me.place.spaceid n s d a = (.filled, t) ∧
      PoolFilled s.cur.1 d (wordBytes s tr n) s t := by
  induction n generalizing s d a tr with
  | zero => exact ⟨s, rfl, PoolFilled.nil ..⟩
  | succ n ih =>
    obtain ⟨hhit, hclean⟩ : Claims.instrHit s a (tr 0) ∧ _ := h 0 n.succ_pos
    obtain ⟨t, hfill, hfilled⟩ := ih (putWord s d (tr 0)) (d + 4) (a + 4) _ (h.rest d)
    rw [putWord_me] at hfill
    rw [wordBytes_putWord, ← length_transBytes s s.cur.1 s.cur.2 (tr 0) 4] at hfilled
    refine ⟨t, (fillWords_of_hit hhit hclean n d).trans hfill, ?_⟩
    rw [wordBytes_succ]
    exact (poolFilled_putWord s d (tr 0)).append hfilled

theorem firstOdd_of_aligned {d a n : Word} (hd : d.toNat % 4 = 0) (ha : a.toNat % 4 = 0) (hn : n.toNat % 4 = 0) :
    firstOdd d a n = none := by
  simp [firstOdd, hd, ha, hn]

/-- The size and the range that a fill may have. -/
def FillFits (x : Core) (d n : Nat) : Prop := 0 < n ∧ n ≤ 65536 ∧ 0x2000 ≤ d ∧ d + n ≤ x.sill.toNat

theorem fillFits_iff (x : Core) (d n : Nat) :
    FillFits x d n ↔ ¬(n = 0 ∨ 65536 < n ∨ d < 0x2000 ∨ x.sill.toNat < d + n) := by
  unfold FillFits
  omega

section Fill
variable {h : Hdr} {a b : Fin 64} {c : GSrc} {s : State} (hg : guardHolds s h = true)
include hg

theorem ifenceFill_of_odd {w : Word} (hodd : firstOdd (s.rdG a.val) (s.rdG b.val) (readGSrc s c) = some w) :
    exec (.ifenceFill h a b c) s = Claims.raises s 0x04 w 4 :=
  run_failAt hg (by rw [effIfenceFill, hodd])

variable (haligned : firstOdd (s.rdG a.val) (s.rdG b.val) (readGSrc s c) = none)
include haligned

theorem ifenceFill_of_unfit (hfits : ¬FillFits s.myCore (s.rdG a.val).toNat (readGSrc s c).toNat) :
    exec (.ifenceFill h a b c) s = Claims.raises s 0x0A 0 0 := by
  rw [fillFits_iff, not_not] at hfits
  refine run_failAt hg ?_
  rw [effIfenceFill, haligned]
  exact if_pos hfits

theorem ifenceFill_of_hits {tr : Nat → Trans} (hfits : FillFits s.myCore (s.rdG a.val).toNat (readGSrc s c).toNat)
    (hwf : s.memWf = true) (hopen : poolShut s.myCore (s.rdG a.val).toNat (readGSrc s c).toNat = false)
    (hhits : WordsHit s (s.rdG b.val).toNat tr ((readGSrc s c).toNat / 4)) :
    ∃ w, exec (.ifenceFill h a b c) s = .next w ∧ Claims.onlyPc s w ∧
      Claims.storedOnly s w (s.rdG a.val).toNat (wordBytes s tr ((readGSrc s c).toNat / 4)) := by
  obtain ⟨t, hfill, hfilled⟩ := fillWords_of_hits _ s (s.rdG a.val).toNat (s.rdG b.val).toNat tr hhits
  have heff : effIfenceFill a b c s = .ok t := by
    simp only [effIfenceFill, haligned, hopen, hfill]
    exact if_neg ((fillFits_iff ..).mp hfits)
  exact ⟨_, run_ok hg heff, hfilled.keepsThread.keepsRegisters.onlyPc _, hfilled.storedOnly hwf _ _⟩

end Fill

theorem instructionFill : Claims.InstructionFill := by
  intro h a b c s tr hg d x n odd whole fits
  have haligned : whole → firstOdd (s.rdG a.val) (s.rdG b.val) (readGSrc s c) = none :=
    fun ⟨hd, hx, hn⟩ => firstOdd_of_aligned hd hx hn
  refine ⟨run_ok hg rfl, fun hd => ?_, fun hd hx => ?_, fun hd hx hn => ?_, fun hwhole => ?_, fun hwhole hfits => ?_⟩
  · exact ifenceFill_of_odd hg (if_pos hd)
  · exact ifenceFill_of_odd hg ((if_neg (not_not.mpr hd)).trans (if_pos hx))
  · exact ifenceFill_of_odd hg ((if_neg (not_not.mpr hd)).trans ((if_neg (not_not.mpr hx)).trans (if_pos hn)))
  · exact ifenceFill_of_unfit hg (haligned hwhole)
  · exact ifenceFill_of_hits hg (haligned hwhole) hfits

/-! ### gang.shed (R173) -/

/-- A follower that has left the lockstep of its gang. -/
def Thread.leaveGang (t : Thread) : Thread :=
  { t with place := { t.place with shed := true }, fwd := [], solo := false }

theorem clearHold_eq (s : State) (t : Thread) : ∃ cs, clearHold s t = { s with cores := cs } := by
  unfold clearHold
  dsimp only
  split
  · exact ⟨_, rfl⟩
  · split <;> exact ⟨_, rfl⟩

theorem clearHold_thread (s : State) (t : Thread) (c k : Nat) :
    ∃ hold, (clearHold s t).thread c k = { s.thread c k with hold := hold } := by
  unfold clearHold
  dsimp only
  split
  · exact ⟨_, rfl⟩
  · split
    · next l _ _ =>
      by_cases hl : (c, k) = (l.1, l.2)
      · obtain ⟨rfl, rfl⟩ := Prod.mk.inj hl
        exact ⟨none, State.thread_modThread_self ..⟩
      · exact ⟨_, State.thread_modThread_of_ne _ _ hl⟩
    · exact ⟨_, rfl⟩

/-- The leader is not held any longer once no member is out of lockstep (R170). -/
theorem clearHold_hold {s : State} {t : Thread} {l : Nat × Nat} {rest : List (Nat × Nat)}
    (hms : gangMembers s t.place.gang = l :: rest) (hsolo : ∀ m ∈ l :: rest, (s.thread m.1 m.2).solo = false) :
    ((clearHold s t).thread l.1 l.2).hold = none := by
  have hany : (l :: rest).any (fun m => (s.thread m.1 m.2).solo) = false :=
    List.any_eq_false.mpr fun m hm => by simp [hsolo m hm]
  simp [clearHold, hms, hany]

theorem canShed_iff (t : Thread) :
    canShed t = true ↔ 1 < t.place.gsize ∧ t.place.gpos ≠ 0 ∧ t.place.shed = false := by
  simp [canShed, and_assoc]

section Shed
variable {h : Hdr} {s : State} (hg : guardHolds s h = true)
include hg

theorem gangShed_tolerant (htol : s.me.tol.isOpen = true) : exec (.gangShed h) s = Claims.raises s 0x0D 0 6 :=
  run_failAt hg (if_pos htol)

variable (htol : s.me.tol.isOpen = false)
include htol

theorem gangShed_idle (hidle : s.me.place.gsize ≤ 1 ∨ s.me.place.gpos = 0 ∨ s.me.place.shed = true) :
    exec (.gangShed h) s = Claims.retired h s s := by
  have hcan : ¬canShed s.me = true := by
    rw [canShed_iff]
    rintro ⟨hsize, hpos, hshed⟩
    rcases hidle with hone | hlead | hgone
    · omega
    · exact hpos hlead
    · exact absurd (hgone.symm.trans hshed) (by decide)
  exact run_ok hg ((if_neg (ne_true_of_eq_false htol)).trans (if_neg hcan))

theorem gangShed_sheds {l : Nat × Nat} {rest : List (Nat × Nat)} (hsize : 1 < s.me.place.gsize)
    (hms : gangMembers s s.me.place.gang = l :: rest) (hlead : (s.thread l.1 l.2).place.gpos = 0)
    (hpos : s.me.place.gpos ≠ 0) (hshed : s.me.place.shed = false) :
    ∃ w, exec (.gangShed h) s = .next w ∧ w.cur = s.cur ∧ w.mem = s.mem ∧
      (∃ hold, w.me = ({ s.me.leaveGang with hold := hold } : Thread).retire (s.me.pc + 12)) ∧
      ((∀ m ∈ l :: rest, m ≠ s.cur → (s.thread m.1 m.2).solo = false) → (w.thread l.1 l.2).hold = none) := by
  have hcan : canShed s.me = true := (canShed_iff _).mpr ⟨hsize, hpos, hshed⟩
  have heff : effGangShed s = .ok (clearHold (s.modMe Thread.leaveGang) s.me) :=
    (if_neg (ne_true_of_eq_false htol)).trans (if_pos hcan)
  obtain ⟨cs, hcs⟩ := clearHold_eq (s.modMe Thread.leaveGang) s.me
  have hcur : (clearHold (s.modMe Thread.leaveGang) s.me).cur = s.cur := by rw [hcs, State.modMe_cur]
  have hmem : (clearHold (s.modMe Thread.leaveGang) s.me).mem = s.mem := by rw [hcs, State.modMe_mem]
  refine ⟨_, run_ok hg heff, ?_, ?_, ?_, fun hsolo => ?_⟩
  · rw [retire_cur, hcur]
  · rw [retire_mem, hmem]
  · obtain ⟨hold, hthread⟩ := clearHold_thread (s.modMe Thread.leaveGang) s.me s.cur.1 s.cur.2
    refine ⟨hold, ?_⟩
    rw [retire_me, State.me, hcur, hthread, ← State.modMe_cur s Thread.leaveGang, State.me_eq, State.me_modMe]
  · have hne : (l.1, l.2) ≠ s.cur := by
      intro heq
      rw [State.me, ← heq] at hpos
      exact hpos hlead
    obtain ⟨fw, hfw⟩ := retireWith_thread (clearHold (s.modMe Thread.leaveGang) s.me) (s.me.pc + 12) h.yields none
      (hcur.symm ▸ hne)
    rw [retire, hfw]
    refine clearHold_hold hms fun m hm => ?_
    by_cases hme : m = s.cur
    · rw [hme, ← State.modMe_cur s Thread.leaveGang, State.me_eq, State.me_modMe]
      rfl
    · exact (congrArg Thread.solo (State.thread_setThread_of_ne _ _ hme)).trans (hsolo m hm hme)

end Shed

/-! ### gang.join (R174) -/

/-- Is the member parked at a `gang.join` at pc? -/
def waitsAt (s : State) (pc : Word) (m : Nat × Nat) : Bool :=
  decide ((s.thread m.1 m.2).status = .parked .gangJoin) && decide ((s.thread m.1 m.2).pc = pc)

theorem waitsAt_iff (s : State) (pc : Word) (m : Nat × Nat) : waitsAt s pc m = true ↔ Claims.joined s pc m := by
  simp [waitsAt, Claims.joined]

theorem mem_shedMembers (s : State) (gid : Nat) (m : Nat × Nat) :
    m ∈ shedMembers s gid ↔ m ∈ gangMembers s gid ∧ (s.thread m.1 m.2).place.shed = true := List.mem_filter

/-- A member back in the lockstep of its gang. -/
def Thread.unshed (t : Thread) : Thread := { t with place := { t.place with shed := false } }

theorem Thread.unshed_of_not_shed {t : Thread} (h : t.place.shed = false) : t.unshed = t := by
  rw [Thread.unshed, ← h]

/-- A leader, whose forwarding queue no retirement consumes, may retire twice to the same pc. -/
theorem Thread.retire_retire_of_leader {t : Thread} (h : t.place.gpos = 0) (pc : Word) :
    (t.retire pc).retire pc = t.retire pc := by
  simp [Thread.retire, Thread.follower, h]

/-- A member's record as its gang leaves a join for pc: the acting member has still to retire. -/
def Thread.leaveJoin (t : Thread) (acting : Bool) (pc : Word) : Thread :=
  if acting then t.unshed
  else if t.place.shed ∨ t.place.gpos = 0 then t.unshed.retire pc
  else t

theorem Thread.leaveJoin_acting (t : Thread) (pc : Word) : t.leaveJoin true pc = t.unshed := rfl

theorem Thread.leaveJoin_waiting {t : Thread} (h : t.place.shed = true ∨ t.place.gpos = 0) (pc : Word) :
    t.leaveJoin false pc = t.unshed.retire pc := if_pos h

theorem Thread.leaveJoin_lockstep {t : Thread} (h : ¬(t.place.shed = true ∨ t.place.gpos = 0)) (pc : Word) :
    t.leaveJoin false pc = t := if_neg h

/-- A member that is named twice leaves once. -/
theorem Thread.leaveJoin_leaveJoin (t : Thread) (acting : Bool) (pc : Word) :
    (t.leaveJoin acting pc).leaveJoin acting pc = t.leaveJoin acting pc := by
  cases acting with
  | true => rfl
  | false =>
    by_cases h : t.place.shed = true ∨ t.place.gpos = 0
    · rw [Thread.leaveJoin_waiting h]
      by_cases h0 : t.place.gpos = 0
      · have hpos : (t.unshed.retire pc).place.gpos = 0 := h0
        rw [Thread.leaveJoin_waiting (.inr hpos)]
        exact Thread.retire_retire_of_leader (t := t.unshed) h0 pc
      · exact Thread.leaveJoin_lockstep (by simp [Thread.unshed, h0]) pc
    · rw [Thread.leaveJoin_lockstep h, Thread.leaveJoin_lockstep h]

/-- One member's part in the leaving of a join. -/
def joinMember (pc : Word) (s : State) (m : Nat × Nat) : State :=
  if m = s.cur then s.setThread m.1 m.2 (s.thread m.1 m.2).unshed
  else if (s.thread m.1 m.2).place.shed ∨ (s.thread m.1 m.2).place.gpos = 0
  then s.setThread m.1 m.2 ((s.thread m.1 m.2).unshed.retire pc)
  else s

theorem joinAll_eq_foldl (s : State) (gid : Nat) (pc : Word) :
    joinAll s gid pc = (gangMembers s gid).foldl (joinMember pc) s := rfl

theorem joinMember_eq (pc : Word) (s : State) (m : Nat × Nat) : ∃ cs, joinMember pc s m = { s with cores := cs } := by
  unfold joinMember
  split
  · exact ⟨_, rfl⟩
  · split <;> exact ⟨_, rfl⟩

theorem joinMember_cur (pc : Word) (s : State) (m : Nat × Nat) : (joinMember pc s m).cur = s.cur := by
  obtain ⟨cs, h⟩ := joinMember_eq pc s m
  rw [h]

theorem joinMember_thread_self (pc : Word) (s : State) (m : Nat × Nat) :
    (joinMember pc s m).thread m.1 m.2 = (s.thread m.1 m.2).leaveJoin (decide (m = s.cur)) pc := by
  unfold joinMember
  by_cases hm : m = s.cur
  · rw [decide_eq_true hm, Thread.leaveJoin_acting]
    simp [hm]
  · rw [decide_eq_false hm]
    by_cases ht : (s.thread m.1 m.2).place.shed = true ∨ (s.thread m.1 m.2).place.gpos = 0
    · rw [Thread.leaveJoin_waiting ht]
      simp [hm, ht]
    · rw [Thread.leaveJoin_lockstep ht]
      simp [hm, ht]

theorem joinMember_thread_of_ne (pc : Word) (s : State) {m x : Nat × Nat} (h : x ≠ m) :
    (joinMember pc s m).thread x.1 x.2 = s.thread x.1 x.2 := by
  unfold joinMember
  split
  · exact State.thread_setThread_of_ne _ _ h
  · split
    · exact State.thread_setThread_of_ne _ _ h
    · rfl

theorem foldl_joinMember (pc : Word) (ms : List (Nat × Nat)) (s : State) (x : Nat × Nat) :
    (ms.foldl (joinMember pc) s).cur = s.cur ∧ (ms.foldl (joinMember pc) s).thread x.1 x.2 =
      if x ∈ ms then (s.thread x.1 x.2).leaveJoin (decide (x = s.cur)) pc else s.thread x.1 x.2 := by
  induction ms generalizing s with
  | nil => exact ⟨rfl, rfl⟩
  | cons m ms ih =>
    obtain ⟨hcur, hthread⟩ := ih (joinMember pc s m)
    rw [List.foldl_cons]
    refine ⟨hcur.trans (joinMember_cur pc s m), ?_⟩
    rw [hthread, joinMember_cur]
    by_cases hx : x = m
    · rw [hx, joinMember_thread_self, Thread.leaveJoin_leaveJoin, ite_self, if_pos List.mem_cons_self]
    · rw [joinMember_thread_of_ne pc s hx]
      simp [hx]

theorem joinAll_cur (s : State) (gid : Nat) (pc : Word) : (joinAll s gid pc).cur = s.cur :=
  (foldl_joinMember pc (gangMembers s gid) s s.cur).1

theorem joinAll_thread {s : State} {gid : Nat} {x : Nat × Nat} (hx : x ∈ gangMembers s gid) (pc : Word) :
    (joinAll s gid pc).thread x.1 x.2 = (s.thread x.1 x.2).leaveJoin (decide (x = s.cur)) pc := by
  rw [joinAll_eq_foldl, (foldl_joinMember pc (gangMembers s gid) s x).2, if_pos hx]

theorem joinAll_me {s : State} {gid : Nat} (hcur : s.cur ∈ gangMembers s gid) (pc : Word) :
    (joinAll s gid pc).me = s.me.unshed := by
  rw [State.me, joinAll_cur, joinAll_thread hcur, decide_eq_true rfl]
  rfl

/-- A leader alone in its join, without shed members, keeps its record. -/
theorem keepsRegisters_joinAll {s : State} {gid : Nat} (hcur : s.cur ∈ gangMembers s gid) (hshed : s.me.place.shed = false)
    (pc : Word) : KeepsRegisters s (joinAll s gid pc) := by
  have hme : (joinAll s gid pc).me = s.me := (joinAll_me hcur pc).trans (Thread.unshed_of_not_shed hshed)
  exact (KeepsThread.of_me_eq (joinAll_cur s gid pc) hme).keepsRegisters

/-- A member that has left a join for pc, in lockstep. -/
def Thread.LeftJoin (t : Thread) (pc : Word) : Prop := t.pc = pc ∧ t.status = .ready ∧ t.place.shed = false

/-- Every shed member and the leader have left the join once the acting member has retired. -/
theorem leftJoin_joinAll {s : State} {gid : Nat} {x : Nat × Nat} (hcur : s.cur ∈ gangMembers s gid)
    (hx : x ∈ gangMembers s gid) (hgoes : (s.thread x.1 x.2).place.shed = true ∨ (s.thread x.1 x.2).place.gpos = 0)
    (pc : Word) (y : Bool) : ((retire (joinAll s gid pc) pc y).thread x.1 x.2).LeftJoin pc := by
  by_cases hme : x = s.cur
  · have hthread : (retire (joinAll s gid pc) pc y).thread x.1 x.2 = (joinAll s gid pc).me.retire pc := by
      rw [← retire_me _ pc y, State.me, retire_cur, joinAll_cur, hme]
    rw [hthread, joinAll_me hcur]
    exact ⟨rfl, rfl, rfl⟩
  · obtain ⟨fw, hfw⟩ := retireWith_thread (joinAll s gid pc) pc y none (c := x.1) (k := x.2) (by rwa [joinAll_cur])
    rw [retire, hfw, joinAll_thread hx, decide_eq_false hme, Thread.leaveJoin_waiting hgoes]
    exact ⟨rfl, rfl, rfl⟩

section Join
variable {h : Hdr} {s : State} (hg : guardHolds s h = true)
include hg

theorem gangJoin_alone (hsize : s.me.place.gsize ≤ 1) : exec (.gangJoin h) s = Claims.retired h s s :=
  run_ok hg (if_pos hsize)

variable (hsize : 1 < s.me.place.gsize)
include hsize

theorem gangJoin_lockstep (hpos : s.me.place.gpos ≠ 0) (hshed : s.me.place.shed = false) :
    exec (.gangJoin h) s = Claims.retired h s s :=
  run_ok hg ((if_neg (by omega)).trans ((if_neg hpos).trans (if_neg (ne_true_of_eq_false hshed))))

omit hg in
theorem effGangJoin_leader (hpos : s.me.place.gpos = 0) : effGangJoin s =
    if (shedMembers s s.me.place.gang).all (waitsAt s s.me.pc) then .ok (joinAll s s.me.place.gang (s.me.pc + 12))
    else .park s .gangJoin := (if_neg (by omega)).trans (if_pos hpos)

theorem gangJoin_leader_alone (hpos : s.me.place.gpos = 0) (hcur : s.cur ∈ gangMembers s s.me.place.gang)
    (hnone : ∀ m ∈ gangMembers s s.me.place.gang, (s.thread m.1 m.2).place.shed = false) :
    ∃ w, exec (.gangJoin h) s = .next w ∧ Claims.onlyPc s w := by
  have hall : (shedMembers s s.me.place.gang).all (waitsAt s s.me.pc) = true := by
    refine List.all_eq_true.mpr fun m hm => ?_
    obtain ⟨hmem, hshed⟩ := (mem_shedMembers ..).mp hm
    exact absurd (hshed.symm.trans (hnone m hmem)) (by decide)
  exact ⟨_, run_ok hg ((effGangJoin_leader hsize hpos).trans (if_pos hall)),
    (keepsRegisters_joinAll hcur (hnone s.cur hcur) _).onlyPc _⟩

theorem gangJoin_leader_waits (hpos : s.me.place.gpos = 0) (hwait : ∃ m ∈ gangMembers s s.me.place.gang,
    (s.thread m.1 m.2).place.shed = true ∧ ¬Claims.joined s s.me.pc m) :
    exec (.gangJoin h) s = .next (parkMe s .gangJoin) := by
  obtain ⟨m, hmem, hshed, hnot⟩ := hwait
  have hall : ¬(shedMembers s s.me.place.gang).all (waitsAt s s.me.pc) = true := fun hall =>
    hnot ((waitsAt_iff ..).mp (List.all_eq_true.mp hall m ((mem_shedMembers ..).mpr ⟨hmem, hshed⟩)))
  exact run_park hg ((effGangJoin_leader hsize hpos).trans (if_neg hall))

section Follower
variable {l : Nat × Nat} {rest : List (Nat × Nat)} (hms : gangMembers s s.me.place.gang = l :: rest)
  (hpos : s.me.place.gpos ≠ 0) (hshed : s.me.place.shed = true)
include hms hpos hshed

omit hg in
theorem effGangJoin_shed : effGangJoin s =
    if (s.thread l.1 l.2).status = .parked .gangJoin then
      if (s.thread l.1 l.2).pc = s.me.pc then
        if ((shedMembers s s.me.place.gang).filter (fun m => m != s.cur)).all (waitsAt s s.me.pc)
        then .ok (joinAll s s.me.place.gang (s.me.pc + 12)) else .park s .gangJoin
      else .failAt s 0x0E (s.thread l.1 l.2).pc s.me.place.gpos
    else .park s .gangJoin := by
  have hlead : leaderOf s s.me s.cur = l := by rw [leaderOf, hms]
  rw [← hlead]
  exact (if_neg (by omega)).trans ((if_neg hpos).trans (if_pos hshed))

theorem gangJoin_shed_waits (hlead : (s.thread l.1 l.2).status ≠ .parked .gangJoin) :
    exec (.gangJoin h) s = .next (parkMe s .gangJoin) :=
  run_park hg ((effGangJoin_shed hsize hms hpos hshed).trans (if_neg hlead))

theorem gangJoin_shed_astray (hlead : (s.thread l.1 l.2).status = .parked .gangJoin)
    (hpc : (s.thread l.1 l.2).pc ≠ s.me.pc) :
    exec (.gangJoin h) s = Claims.raises s 0x0E (s.thread l.1 l.2).pc s.me.place.gpos :=
  run_failAt hg ((effGangJoin_shed hsize hms hpos hshed).trans ((if_pos hlead).trans (if_neg hpc)))

theorem gangJoin_shed_joins (hlead : Claims.joined s s.me.pc l) (hall : ∀ m ∈ gangMembers s s.me.place.gang,
    m ≠ s.cur → (s.thread m.1 m.2).place.shed = true → Claims.joined s s.me.pc m) :
    exec (.gangJoin h) s = Claims.retired h s (joinAll s s.me.place.gang (s.me.pc + 12)) := by
  obtain ⟨hstatus, hpc⟩ := hlead
  have hwait : ((shedMembers s s.me.place.gang).filter (fun m => m != s.cur)).all (waitsAt s s.me.pc) = true := by
    refine List.all_eq_true.mpr fun m hm => ?_
    obtain ⟨hm, hne⟩ := List.mem_filter.mp hm
    obtain ⟨hmem, hshed⟩ := (mem_shedMembers ..).mp hm
    exact (waitsAt_iff ..).mpr (hall m hmem (by simpa using hne) hshed)
  refine run_ok hg ?_
  rw [effGangJoin_shed hsize hms hpos hshed, if_pos hstatus, if_pos hpc, if_pos hwait]

end Follower

end Join

theorem gangShedAndJoin : Claims.GangShedAndJoin := by
  intro h s l rest hg t ms shed inGang follower leaves
  refine ⟨gangShed_tolerant hg, gangShed_idle hg, ?_, gangJoin_alone hg, ?_, ?_, ?_, ?_, ?_, ?_⟩
  · rintro htol ⟨hsize, hms, -, hlead⟩ hpos hshed
    obtain ⟨w, hexec, hcur, hmem, ⟨hold, hme⟩, hclear⟩ := gangShed_sheds hg htol hsize hms hlead hpos hshed
    rw [← hms] at hclear
    refine ⟨w, hexec, hcur, ?_⟩
    rw [hme]
    exact ⟨rfl, rfl, ite_self _, rfl, rfl, rfl, rfl, rfl, hmem, hclear⟩
  · rintro ⟨hsize, -⟩
    exact gangJoin_lockstep hg hsize
  · rintro ⟨hsize, -, hcur, -⟩ hpos
    exact gangJoin_leader_alone hg hsize (not_not.mp hpos) hcur
  · rintro ⟨hsize, -⟩ hpos
    exact gangJoin_leader_waits hg hsize (not_not.mp hpos)
  · rintro ⟨hsize, hms, -⟩
    exact gangJoin_shed_waits hg hsize hms
  · rintro ⟨hsize, hms, -⟩
    exact gangJoin_shed_astray hg hsize hms
  · rintro ⟨hsize, hms, hcur, hlead⟩ hpos hshed hjoined hall
    have hl : l ∈ ms := hms ▸ List.mem_cons_self
    exact ⟨_, gangJoin_shed_joins hg hsize hms hpos hshed hjoined hall, leftJoin_joinAll hcur hl (.inr hlead) _ _,
      fun m hm hm' => leftJoin_joinAll hcur hm (.inl hm') _ _⟩

/-- Settles O21: `ifence.fill` by induction on the words it copies, and `gang.join` by what the leaving of a join makes of
each member's record. -/
theorem fillAndGangs : Obligations.FillAndGangs := ⟨instructionFill, gangShedAndJoin⟩

end Sys2Proof.Machine

/-! PROOFS. O35: the hand-off of the instructions that touch no memory at rung 6 (R196, R314): what each holds, and what
one `vecOp` comes to in each state of the queue. -/

namespace Sys2Proof.Machine

open Sys2Proof

/-! ### What an instruction holds from its hand-off (R314) -/

theorem heldV_eq_held (s : State) (y : VSrc) : heldV s y = Claims.held s y := by
  cases y <;> rfl

theorem heldB_eq_heldBudget (s : State) (t : VTy) : heldB s t = Claims.heldBudget s t := by
  cases t <;> rfl

/-! ### An instruction that only hands off (R196, R314, R321) -/

section HandOff
variable {h : Hdr} {s : State} {i : Instr} {s0 s1 s2 : Word}

theorem vecOp_of_poison {f : Nat × Word} (hpoison : s.me.ppoison = some f) :
    vecOp s i s0 s1 s2 = .trap (s.modMe fun t => { t with ppoison := none }) (deferredInfo f) :=
  deferredTrap_of_some hpoison _

theorem vecOp_of_full (hpoison : s.me.ppoison = none) (hfull : 16 ≤ s.myCore.seq.length) :
    vecOp s i s0 s1 s2 = .wait s := by
  rw [vecOp, deferredTrap_of_none hpoison, seqRoom, if_pos hfull]

theorem vecOp_of_queued (hpoison : s.me.ppoison = none) (hne : s.myCore.seq ≠ []) (hroom : s.myCore.seq.length < 16) :
    vecOp s i s0 s1 s2 = .ok (withEntry s (Claims.entry s i s0 s1 s2 [])) := by
  rw [vecOp, deferredTrap_of_none hpoison, seqRoom_of_lt hroom, handOff, enqueue_of_nonempty hne]

theorem handsOff_of_vecOp {e : State → Eff} (hg : guardHolds s h = true) (hexec : exec i s = run h e s)
    (hop : e s = vecOp s i s0 s1 s2) : Claims.handsOff h s i s0 s1 s2 := by
  refine ⟨fun hpoison hne hroom => ?_, fun hpoison hfull => ?_, fun m hpoison => ?_⟩
  · exact hexec.trans (run_ok hg (hop.trans (vecOp_of_queued hpoison hne hroom)))
  · exact hexec.trans (run_wait hg (hop.trans (vecOp_of_full hpoison hfull)))
  · have htrap := hop.trans (vecOp_of_poison hpoison)
    rw [deferredInfo_poison] at htrap
    exact hexec.trans (run_trap hg htrap)

end HandOff

/-- Settles O35: each of the instructions is one `vecOp`, which a full queue keeps out and pending poison replaces. -/
theorem vectorHandOff : Obligations.VectorHandOff := by
  intro h t tt z ct r n u a b c k g e x y w l s hg off v q bud
  have hv : v = heldV s y := (heldV_eq_held s y).symm
  have hq : q = heldVG s w := by cases w <;> rfl
  have hbud : bud = heldB s t := (heldB_eq_heldBudget s t).symm
  have hands : ∀ {i s0 s1 s2 e}, exec i s = run h e s → e s = vecOp s i s0 s1 s2 → off i s0 s1 s2 := handsOff_of_vecOp hg
  rw [hv, hq, hbud]
  clear_value off
  and_intros <;> exact hands rfl rfl

end Sys2Proof.Machine

/-! PROOFS. The events of threads (R194, R224, R277, R408, R410, R431): each happens exactly when its time or condition
has come. -/

namespace Sys2Proof.Machine

open Sys2Proof

/-! ### Events of one slot or core -/

theorem isCore_of_lt {c : Nat} (hc : c < 4096) : isCore c = true := decide_eq_true hc

theorem isSlot_of_lt {c k : Nat} (hc : c < 4096) (hk : k < 4) : isSlot c k = true :=
  Bool.and_eq_true_iff.mpr ⟨decide_eq_true hc, decide_eq_true hk⟩

/-- The thread of the slot is ready again, and nothing else has changed. -/
def woken (s : State) (c k : Nat) : State := s.setThread c k { s.thread c k with status := .ready }

/-- An event that leads to `w` under a condition and to nothing without it happens exactly there. -/
theorem happens_exactly {i : Instr} {s w : State} {p : Prop} [Decidable p] (h : exec i s = .next (if p then w else s)) :
    (p → exec i s = .next w) ∧ (¬p → Claims.idles s i) :=
  ⟨fun hp => h.trans (by rw [if_pos hp]), fun hp => h.trans (by rw [if_neg hp])⟩

theorem timerDue_iff (s : State) (t : Thread) : timerDue s t = true ↔ t.ctl.ptime ≠ 0 ∧ t.ctl.ptime.toNat ≤ s.time.tick := by
  simp [timerDue]

section Slots
variable {c k n : Nat} {s : State} (hslot : isSlot c k = true)
include hslot

theorem exec_pauseExpiry (hst : (s.thread c k).status = .paused n) :
    exec (.pauseExpiry c k) s = .next (if n ≤ s.time.cycle then woken s c k else s) := by
  refine (onUnit_of_true _ hslot).trans ?_
  rw [hst]
  rfl

theorem exec_sleepExpiry (hst : (s.thread c k).status = .sleeping n) :
    exec (.sleepExpiry c k) s = .next (if n ≤ s.time.tick then woken s c k else s) := by
  refine (onUnit_of_true _ hslot).trans ?_
  rw [hst]
  rfl

theorem exec_refusedRequestRetry (hst : (s.thread c k).status = .parked (.retry n)) :
    exec (.refusedRequestRetry c k) s = .next (if n ≤ s.time.cycle then woken s c k else s) := by
  refine (onUnit_of_true _ hslot).trans ?_
  rw [hst]
  rfl

theorem exec_waitTimeout :
    exec (.waitTimeout c k) s = .next (if (s.thread c k).status = .parked .cond then woken s c k else s) :=
  onUnit_of_true _ hslot

theorem exec_releaseWaitEnd {r : Release} (hrel : (s.thread c k).rel = some r) : exec (.releaseWaitEnd c k) s =
    .next (if releaseDone s c k r = true ∧ (s.thread c k).status = .parked .release then woken s c k else s) := by
  refine (onUnit_of_true _ hslot).trans (congrArg _ ?_)
  split
  · next h =>
    obtain rfl := Option.some.inj (hrel.symm.trans h)
    exact if_congr (by simp) rfl rfl
  · next h => cases hrel.symm.trans h

/-- A thread that is ready waits for no time. -/
theorem expiries_of_ready (hst : (s.thread c k).status = .ready) :
    Claims.idles s (.pauseExpiry c k) ∧ Claims.idles s (.sleepExpiry c k) ∧ Claims.idles s (.refusedRequestRetry c k) := by
  refine ⟨(onUnit_of_true _ hslot).trans ?_, (onUnit_of_true _ hslot).trans ?_, (onUnit_of_true _ hslot).trans ?_⟩
  all_goals rw [hst]

theorem exec_timerInterrupt : exec (.timerInterrupt c k) s =
    .next (if (s.thread c k).ctl.ptime ≠ 0 ∧ (s.thread c k).ctl.ptime.toNat ≤ s.time.tick ∧ (s.thread c k).status ≠ .unplaced
      then s.setThread c k { s.thread c k with pend := { (s.thread c k).pend with timer := true } } else s) := by
  refine (onUnit_of_true _ hslot).trans (congrArg _ (if_congr ?_ rfl rfl))
  rw [Bool.and_eq_true_iff, timerDue_iff, decide_eq_true_iff, and_assoc]

end Slots

/-! ### The time slice of the pipe (R194) -/

/-- The slice of slot `j` in the pipe is over: its time has passed, and another slot is ready. -/
def sliceOver (s : State) (c j : Nat) : Bool :=
  !(s.core c).pipe.active && decide (65536 ≤ (s.core c).heldCycles) &&
    (List.range 4).any (fun i => i != j && canRun s c i)

theorem sliceOver_iff (s : State) (c j : Nat) : sliceOver s c j = true ↔
    (s.core c).pipe.active = false ∧ 65536 ≤ (s.core c).heldCycles ∧ ∃ i, i < 4 ∧ i ≠ j ∧ canRun s c i = true := by
  simp [sliceOver, and_assoc]

section Core
variable {c : Nat} {s : State} (hcore : isCore c = true)
include hcore

theorem exec_pipeTimeSlice {j : Nat} (hin : (s.core c).inPipe = some j) : exec (.pipeTimeSlice c) s =
    .next (if sliceOver s c j then s.setCore c { s.core c with inPipe := none } else s) := by
  refine (onUnit_of_true _ hcore).trans ?_
  rw [hin]
  rfl

/-! ### Tags (R276) -/

theorem exec_tagWake (n : Nat) : exec (.tagWake c (64 * n)) s = .next (wakeTag s c (64 * n)) := by
  refine (onUnit_of_true _ hcore).trans ?_
  rw [Nat.mul_div_cancel_left n (by decide), Nat.mul_comm]

end Core

theorem threadEvents : Claims.ThreadEvents := by
  intro c k n j r s hc hk t only
  have hslot := isSlot_of_lt hc hk
  have hcore := isCore_of_lt hc
  have htimer := happens_exactly (exec_timerInterrupt (s := s) hslot)
  refine ⟨fun h => happens_exactly (exec_pauseExpiry hslot h), fun h => happens_exactly (exec_sleepExpiry hslot h),
    fun h => happens_exactly (exec_refusedRequestRetry hslot h), happens_exactly (exec_waitTimeout hslot),
    fun h => happens_exactly (exec_releaseWaitEnd hslot h), expiries_of_ready hslot, ?_, fun h => ?_,
    _, exec_tagWake hcore n, fun i => thread_wakeTag_self ..⟩
  · split
    · next hdue => exact htimer.1 hdue
    · next hearly => exact htimer.2 hearly
  · exact (happens_exactly (exec_pipeTimeSlice hcore h)).imp (fun h hdue => h ((sliceOver_iff ..).mpr hdue))
      fun h hnot => h (mt (sliceOver_iff ..).mp hnot)

/-! ### Answers of peer pools (R260, R276, R277) -/

section Parked
variable {c k : Nat} {s : State} {e : Answer}

theorem waitsAnswer_of_parked {t : Thread} (hans : t.answer = some e) (hready : e.ready = false)
    (hst : t.status = .parked .access) (hkind : e.kind ≠ 4 ∧ e.kind ≠ 5) : waitsAnswer t = some e := by
  rw [waitsAnswer, hans]
  simp [hready, hst, hkind]

theorem waitsAnswer_of_none {t : Thread} (hans : t.answer = none) : waitsAnswer t = none := by
  rw [waitsAnswer, hans]

theorem parkedAnswer_of_waits (hslot : isSlot c k = true) (hwaits : waitsAnswer (s.thread c k) = some e) :
    exec (.parkedAnswer c k) s = .next ((answerAccess s c k e).getD s) := by
  refine (onUnit_of_true _ hslot).trans ?_
  rw [hwaits]

theorem parkedAnswer_of_none (hslot : isSlot c k = true) (hwaits : waitsAnswer (s.thread c k) = none) :
    Claims.idles s (.parkedAnswer c k) := by
  refine (onUnit_of_true _ hslot).trans ?_
  rw [hwaits]

theorem answerAccess_peer {q o : Nat} (ha : decodeAddr e.addr = .peer q o) (hkind : e.kind = 0) : answerAccess s c k e =
    if poolShut (s.core (peerCore s c q)) o e.len then none
    else some (putAnswer s c k ((s.core (peerCore s c q)).bytes o e.len)
      (if (s.core (peerCore s c q)).poisoned o e.len then 1 else 0)) := by
  simp only [answerAccess, ha, hkind, if_true]

theorem putAnswer_answer (hans : (s.thread c k).answer = some e) (bs : List Byte) (poison : Nat) :
    ((putAnswer s c k bs poison).thread c k).answer = some { e with ready := true, bytes := bs, poison := poison } := by
  rw [putAnswer, State.thread_modThread_self, hans]
  rfl

end Parked

/-! ### A tagged request that a peer pool holds (R277) -/

section Tagged
variable {c k tc : Nat} {s : State} {e : Answer} {r : TagReq}

/-- The pool holds no request. -/
def requestsTaken (s : State) (tc : Nat) : State := s.modCore tc fun x => { x with tagReqs := [] }

theorem tagServe_of_wanted (hreqs : (s.core tc).tagReqs = [r]) (hwanted : tagWanted s tc r = true) :
    tagServe s tc = if tagAllows (s.core tc) r then tagAnswer (requestsTaken s tc) tc r else s := by
  have herase : (s.modCore tc fun x => { x with tagReqs := x.tagReqs.erase r }) = requestsTaken s tc := by
    rw [State.modCore, hreqs, List.erase_cons_head]
    rfl
  cases hallows : tagAllows (s.core tc) r with
  | true => simp [tagServe, hreqs, hallows, hwanted, herase]
  | false => simp [tagServe, hreqs, hallows, hwanted]

theorem tagAllows_load (hopen : poolShut (s.core tc) r.off (4 * r.words) = false) (hload : r.store = none) :
    tagAllows (s.core tc) r = (s.core tc).allFull r.off (4 * r.words) := by
  simp [tagAllows, hopen, hload]

/-- A load that empties its words is answered with their bytes. -/
theorem tagAnswer_load (hsound : (s.core tc).poisoned r.off (4 * r.words) = false) (hload : r.store = none)
    (hkeep : r.keep = false) : tagAnswer s tc r =
      putAnswer (setTagsWake s tc r.off (4 * r.words) false) r.core r.slot ((s.core tc).bytes r.off (4 * r.words)) 0 := by
  simp [tagAnswer, hload, hsound, tagLoad, hkeep]

theorem tagWanted_load {q : Nat} (hans : (s.thread c k).answer = some e) (hready : e.ready = false) (hkind : e.kind = 4)
    (hpc : e.pc = r.pc) (hlen : e.len = 4 * r.words) (hcore : r.core = c) (hslot : r.slot = k) (hload : r.store = none)
    (ha : decodeAddr e.addr = .peer q r.off) : tagWanted s (peerCore s c q) r = true := by
  subst hcore hslot
  simp [tagWanted, hans, hready, hkind, hpc, hlen, hload, windowAt, ha]

/-- What the answer to such a load leaves: the words of the pool are empty, and the pool is as it was. -/
theorem tagAnswer_leaves (hne : tc ≠ c) (ho : r.off % 4 = 0) (hans : (s.thread c k).answer = some e) (bs : List Byte) :
    let w := putAnswer (setTagsWake (requestsTaken s tc) tc r.off (4 * r.words) false) c k bs 0
    (w.thread c k).answer = some { e with ready := true, bytes := bs, poison := 0 } ∧ (w.core tc).tagReqs = [] ∧
      (w.core tc).pool = (s.core tc).pool ∧
      ∀ i, (w.core tc).tagFull (4 * i) =
        if r.off ≤ 4 * i ∧ 4 * i < r.off + 4 * r.words then false else (s.core tc).tagFull (4 * i) := by
  intro w
  have hcore : w.core tc = (setTagsWake (requestsTaken s tc) tc r.off (4 * r.words) false).core tc :=
    State.core_modThread_of_ne _ _ _ hne
  have htaken : (requestsTaken s tc).core tc = { s.core tc with tagReqs := [] } := State.core_modCore_self ..
  have hthread : (requestsTaken s tc).thread c k = s.thread c k := State.thread_modCore _ _ _ _ _ fun _ => rfl
  obtain ⟨st, hst⟩ := (TagFrame.setTagsWake (requestsTaken s tc) tc r.off (4 * r.words) false).thread c k
  obtain ⟨pool, tags, slots, hframe⟩ := (frame_setTagsWake (requestsTaken s tc) tc r.off (4 * r.words) false).core
  refine ⟨putAnswer_answer (by rw [hst, hthread, hans]) bs 0, ?_, ?_, fun i => ?_⟩
  · rw [hcore, hframe, htaken]
  · rw [hcore, pool_setTagsWake, htaken]
  · rw [hcore, tagFull_setTagsWake _ _ ho (Nat.mul_mod_right 4 r.words), htaken]
    exact if_congr (and_iff_right rfl) rfl rfl

end Tagged

theorem peerPoolAnswers : Claims.PeerPoolAnswers := by
  intro c k q o e r s hc hk t tc x answers
  have hslot := isSlot_of_lt hc hk
  refine ⟨fun hans hready hst hkind ha => ?_, fun hans => parkedAnswer_of_none hslot (waitsAnswer_of_none hans), ?_⟩
  · have hexec := (parkedAnswer_of_waits hslot (waitsAnswer_of_parked hans hready hst (by omega))).trans
      (by rw [answerAccess_peer ha hkind])
    split
    · next hshut => exact hexec.trans (by rw [if_pos hshut]; rfl)
    · next hopen => exact ⟨_, hexec.trans (by rw [if_neg hopen]; rfl), putAnswer_answer hans _ _⟩
  · rintro htc hne hreqs hcore hrslot rfl ho hload hkeep hans hready hkind hpc hlen ha hopen hsound
    have hwanted : tagWanted s tc r = true := tagWanted_load hans hready hkind hpc hlen hcore hrslot hload ha
    have hexec : exec (.peerTaggedRequest tc) s =
        .next (if x.allFull r.off (4 * r.words) then tagAnswer (requestsTaken s tc) tc r else s) := by
      refine (onUnit_of_true _ (isCore_of_lt htc)).trans (congrArg _ ?_)
      rw [tagServe_of_wanted hreqs hwanted, tagAllows_load hopen hload]
    have htaken : (requestsTaken s tc).core tc = { x with tagReqs := [] } := State.core_modCore_self ..
    have hanswer := tagAnswer_load (s := requestsTaken s tc) (tc := tc) (r := r) (by rw [htaken]; exact hsound) hload hkeep
    rw [htaken, hcore, hrslot] at hanswer
    split
    · next hfull =>
      exact ⟨_, hexec.trans (by rw [if_pos hfull, hanswer]; rfl), tagAnswer_leaves hne ho hans _⟩
    · next hfull => exact hexec.trans (by rw [if_neg hfull])

end Sys2Proof.Machine

/-! PROOFS. One cycle of a pipe that no slot holds (R182): an executed instruction climbs one rung, and a result descends
one. -/

namespace Sys2Proof.Machine

open Sys2Proof

/-! ### The pipe of a core -/

section Cores
variable (s : State) (c : Nat) (f : Pipe → Pipe)

theorem pipe_modPipe : (s.modPipe c f).pipe c = f (s.pipe c) := by
  rw [State.pipe, State.modPipe, State.core_modCore_self]
  rfl

theorem inPipe_modPipe : ((s.modPipe c f).core c).inPipe = (s.core c).inPipe := by
  rw [State.modPipe, State.core_modCore_self]

end Cores

/-! ### The steps of a cycle on columns that they leave alone -/

section Steps
variable {x : Pipe}

theorem footFill_of_empty (h : AMap.get x.res 0 = none) : footFill x = x := by
  rw [footFill, h]

theorem climb_eq (down : List Nat) (x : Pipe) : ∃ ins, climb down x = { x with ins := ins } := by
  refine foldl_inv (fun y : Pipe => ∃ ins, y = { x with ins := ins }) _ _ ?_ x ⟨_, rfl⟩
  rintro y n - ⟨ins, rfl⟩
  unfold climbOne
  split
  · exact ⟨_, rfl⟩
  · split <;> exact ⟨_, rfl⟩

theorem climb_of_empty (h : x.ins = []) (down : List Nat) : climb down x = x :=
  foldl_inv (· = x) _ _ (by rintro _ n - rfl; rw [climbOne, h, AMap.get_nil]) x rfl

/-- No instruction meets a result where on each rung one of them is missing. -/
theorem meetings_of_apart (h : ∀ n, AMap.get x.ins n = none ∨ AMap.get x.res n = none) : meetings x = x := by
  refine foldl_inv (· = x) _ _ ?_ x rfl
  rintro _ n - rfl
  split
  · next hi hr => simpa [hi, hr] using h n
  · rfl

theorem placement_of_placed (h : ∀ n i, AMap.get x.ins n = some i → i.results = []) : placement x = x := by
  refine foldl_inv (· = x) _ _ ?_ x rfl
  rintro _ n - rfl
  split
  · next i hi _ => rw [h n i hi]
  · rfl

variable {s : State} {c : Nat}

theorem crown_of_unseated (h : (s.core c).inPipe = none) : crown s c = s := by
  rw [crown, h]

/-- Nothing enters while no slot holds the pipe and none may be admitted. -/
theorem entry_of_unseated (h : (s.core c).inPipe = none)
    (hbusy : (s.pipe c).ins ≠ [] ∨ s.time.cycle < (s.pipe c).fetchAt) : entry s c = s := by
  have hidle : ((s.core c).inPipe.isNone && (s.pipe c).ins.isEmpty && decide ((s.pipe c).fetchAt ≤ s.time.cycle)) = false := by
    simpa [h, imp_iff_not_or] using hbusy
  rw [entry]
  simp only [hidle, Bool.false_eq_true, if_false]
  rw [h]

theorem execution_of_executed (h : ∀ n i, AMap.get (s.pipe c).ins n = some i → i.executed = true) : execution s c = s := by
  refine foldl_inv (· = s) _ _ ?_ s rfl
  rintro _ n - rfl
  split
  · rfl
  · next i hi =>
    split
    · rfl
    · exact if_neg fun hgo => by simp [h n i hi] at hgo

theorem footWrite_of_empty (h : (s.pipe c).foot = []) : footWrite s c = s.modPipe c fun y => { y with foot := [] } := by
  simp [footWrite, h, sortBy]

end Steps

/-! ### A cycle of a pipe that no slot holds -/

/-- The columns after instructions have climbed and results descended. -/
def moved (x : Pipe) : Pipe := climb (AMap.keys x.res) (resultsDown x)

/-- Every instruction has executed and placed its results, and meets no result. -/
structure Quiet (x : Pipe) : Prop where
  foot : x.foot = []
  executed : ∀ n i, AMap.get x.ins n = some i → i.executed = true
  placed : ∀ n i, AMap.get x.ins n = some i → i.results = []
  apart : ∀ n, AMap.get x.ins n = none ∨ AMap.get x.res n = none

section Cycle
variable {s : State} {c : Nat}

/-- The steps after entry find nothing to do in quiet columns. -/
theorem pipe_of_quiet (h : Quiet (s.pipe c)) :
    (footWrite ((execution (s.modPipe c meetings) c).modPipe c placement) c).pipe c = s.pipe c := by
  obtain ⟨hfoot, hexecuted, hplaced, hapart⟩ := h
  have hmeet : (s.modPipe c meetings).pipe c = s.pipe c := by rw [pipe_modPipe, meetings_of_apart hapart]
  have hplace : ((s.modPipe c meetings).modPipe c placement).pipe c = s.pipe c := by
    rw [pipe_modPipe, hmeet, placement_of_placed hplaced]
  rw [execution_of_executed (by rw [hmeet]; exact hexecuted), footWrite_of_empty (by rw [hplace, hfoot]), pipe_modPipe, hplace,
    ← hfoot]

/-- The state after step 2 of a cycle that starts with nothing at the crown. -/
def footFilled (s : State) (c : Nat) : State :=
  (s.modCore c fun x => { x with heldCycles := x.heldCycles + 1 }).modPipe c footFill

/-- The state after steps 3 and 4. -/
def shifted (s : State) (c : Nat) : State :=
  (footFilled s c).modPipe c fun x => climb (AMap.keys ((footFilled s c).pipe c).res) (resultsDown x)

theorem pipe_footFilled (hbottom : AMap.get (s.pipe c).res 0 = none) : (footFilled s c).pipe c = s.pipe c := by
  rw [footFilled, pipe_modPipe, State.pipe, State.core_modCore_self]
  exact footFill_of_empty hbottom

theorem pipe_shifted (hbottom : AMap.get (s.pipe c).res 0 = none) : (shifted s c).pipe c = moved (s.pipe c) := by
  rw [shifted, pipe_modPipe, pipe_footFilled hbottom, moved]

theorem inPipe_shifted (s : State) (c : Nat) : ((shifted s c).core c).inPipe = (s.core c).inPipe := by
  rw [shifted, inPipe_modPipe, footFilled, inPipe_modPipe, State.core_modCore_self]

theorem fetchAt_moved (x : Pipe) : (moved x).fetchAt = x.fetchAt := by
  obtain ⟨ins, h⟩ := climb_eq (AMap.keys x.res) (resultsDown x)
  rw [moved, h]
  rfl

theorem cycle_of_unseated (hin : (s.core c).inPipe = none) : ∃ g : Pipe → Bool, pipeStep.cycle s c =
    (footWrite ((execution ((entry (shifted s c) c).modPipe c meetings) c).modPipe c placement) c).modPipe c
      fun y => { y with active := g y } := by
  rw [pipeStep.cycle, crown_of_unseated hin]
  exact ⟨_, rfl⟩

/-- Where nothing enters and everything is quiet, a cycle only moves the columns. -/
theorem cycle_moves (hin : (s.core c).inPipe = none) (hbottom : AMap.get (s.pipe c).res 0 = none)
    (hquiet : Quiet (moved (s.pipe c))) (hbusy : (moved (s.pipe c)).ins ≠ [] ∨ s.time.cycle < (s.pipe c).fetchAt) :
    ((pipeStep.cycle s c).pipe c).ins = (moved (s.pipe c)).ins ∧ ((pipeStep.cycle s c).pipe c).res = (moved (s.pipe c)).res := by
  have hmoved := pipe_shifted hbottom
  have hentry : entry (shifted s c) c = shifted s c :=
    entry_of_unseated ((inPipe_shifted s c).trans hin) (by rw [hmoved, fetchAt_moved]; exact hbusy)
  obtain ⟨g, hcycle⟩ := cycle_of_unseated hin
  rw [hcycle, hentry, pipe_modPipe, pipe_of_quiet (by rw [hmoved]; exact hquiet), hmoved]
  exact ⟨rfl, rfl⟩

end Cycle

/-! ### The clauses of R182 -/

/-- The first cycle of a pipe takes over at the thread's pc. -/
def awake (s : State) (c : Nat) : State :=
  if (s.pipe c).active then s
  else s.modPipe c fun y => { y with
    active := true, fetchStop := false, fetchAt := s.time.cycle, fetchPc := (s.thread c ((s.core c).inPipe.getD 0)).pc }

section Awake
variable {s : State} {c : Nat}

theorem awake_eq (s : State) (c : Nat) :
    ((awake s c).core c).inPipe = (s.core c).inPipe ∧ ((awake s c).pipe c).ins = (s.pipe c).ins ∧
      ((awake s c).pipe c).res = (s.pipe c).res ∧ ((awake s c).pipe c).foot = (s.pipe c).foot := by
  rw [awake]
  split
  · exact ⟨rfl, rfl, rfl, rfl⟩
  · rw [inPipe_modPipe, pipe_modPipe]
    exact ⟨rfl, rfl, rfl, rfl⟩

theorem exec_pipeCycle_of_unseated (hcore : isCore c = true) (hin : (s.core c).inPipe = none) :
    exec (.pipeCycle c) s = .next (pipeStep.cycle (awake s c) c) := by
  refine (onUnit_of_true _ hcore).trans (congrArg _ ?_)
  rw [pipeStep]
  split
  · next k hk => exact nomatch (((awake_eq s c).1.trans hin).symm.trans hk : none = some k)
  · rfl

end Awake

section Climb
variable {x : Pipe} {n : Nat} {i : IPacket}

theorem climbOne_of_absent {down : List Nat} {m : Nat} (h : AMap.get x.ins m = none) : climbOne down x m = x := by
  rw [climbOne, h]

/-- A completed instruction below an empty rung that no result has left climbs it. -/
theorem climbOne_of_completed (hins : x.ins = [(n, i)]) (hdone : i.completed = true) (hgo : i.stopped = false) :
    climbOne [] x n = { x with ins := [(n + 1, i)] } := by
  have hfree : held n i = false := by
    rw [held]
    split
    · rw [hdone, Bool.not_true, Bool.and_false, Bool.false_and]
    · rfl
  simp [climbOne, hins, AMap.get, AMap.set, AMap.del, hfree, hgo]

theorem foldl_climbOne_of_absent {down l : List Nat} (h : ∀ m ∈ l, AMap.get x.ins m = none) :
    l.foldl (climbOne down) x = x :=
  foldl_inv (· = x) _ _ (by rintro _ m hm rfl; exact climbOne_of_absent (h m hm)) x rfl

/-- The rungs are tried from the top, so that an instruction climbs once in a cycle. -/
theorem foldl_climbOne_of_completed {m : Nat} (hn : n < m) (hins : x.ins = [(n, i)]) (hdone : i.completed = true)
    (hgo : i.stopped = false) : (List.range m).reverse.foldl (climbOne []) x = { x with ins := [(n + 1, i)] } := by
  induction m with
  | zero => omega
  | succ m ih =>
    rw [List.range_succ, List.reverse_append, List.reverse_singleton, List.singleton_append, List.foldl_cons]
    by_cases hm : n = m
    · rw [← hm, climbOne_of_completed hins hdone hgo, foldl_climbOne_of_absent]
      intro j hj
      have hj : j < n := by simpa using hj
      simp only [AMap.get]
      rw [if_neg (by omega)]
    · rw [climbOne_of_absent (by rw [hins, AMap.get, if_neg hm, AMap.get_nil]), ih (by omega)]

theorem eq_of_get_single {m : Nat} {j : IPacket} (h : AMap.get [(n, i)] m = some j) : j = i :=
  congrArg Prod.snd (List.mem_singleton.mp (AMap.mem_of_get _ _ _ h))

theorem moved_of_completed (hn : n < 7) (hins : x.ins = [(n, i)]) (hres : x.res = []) (hdone : i.completed = true)
    (hgo : i.stopped = false) : moved x = { x with ins := [(n + 1, i)] } := by
  have hstill : resultsDown x = x := by rw [resultsDown, hres, List.map_nil, ← hres]
  have hdown : AMap.keys x.res = [] := by rw [hres]; rfl
  rw [moved, hstill, hdown]
  exact foldl_climbOne_of_completed hn hins hdone hgo

theorem pipeCycle_climbs {s : State} {c : Nat} (hcore : isCore c = true) (hin : (s.core c).inPipe = none)
    (hfoot : (s.pipe c).foot = []) (hres : (s.pipe c).res = []) (hins : (s.pipe c).ins = [(n, i)]) (hn : n < 7)
    (hexecuted : i.executed = true) (hdone : i.completed = true) (hgo : i.stopped = false) (hplaced : i.results = []) :
    ∃ w, exec (.pipeCycle c) s = .next w ∧ (w.pipe c).ins = [(n + 1, i)] ∧ (w.pipe c).res = [] := by
  obtain ⟨hin', hins', hres', hfoot'⟩ := awake_eq s c
  have hmoved := moved_of_completed (x := (awake s c).pipe c) hn (hins'.trans hins) (hres'.trans hres) hdone hgo
  have hres := hres'.trans hres
  have hquiet : Quiet (moved ((awake s c).pipe c)) := by
    rw [hmoved]
    exact ⟨hfoot'.trans hfoot, fun m j h => eq_of_get_single h ▸ hexecuted, fun m j h => eq_of_get_single h ▸ hplaced,
      fun m => .inr (by rw [hres, AMap.get_nil])⟩
  obtain ⟨hins, hres2⟩ := cycle_moves (hin'.trans hin) (by rw [hres, AMap.get_nil]) hquiet (.inl (by rw [hmoved]; simp))
  refine ⟨_, exec_pipeCycle_of_unseated hcore hin, ?_, ?_⟩
  · rw [hins, hmoved]
  · rw [hres2, hmoved]
    exact hres

end Climb

section Descend
variable {s : State} {c n : Nat} {r : RPacket}

theorem moved_of_result {x : Pipe} (hins : x.ins = []) (hres : x.res = [(n + 1, r)]) :
    moved x = { x with res := [(n, r)] } := by
  rw [moved, climb_of_empty (x := resultsDown x) hins, resultsDown, hres]
  rfl

theorem pipeCycle_descends (hcore : isCore c = true) (hin : (s.core c).inPipe = none) (hfoot : (s.pipe c).foot = [])
    (hins : (s.pipe c).ins = []) (hres : (s.pipe c).res = [(n + 1, r)]) (hactive : (s.pipe c).active = true)
    (hfetch : s.time.cycle < (s.pipe c).fetchAt) :
    ∃ w, exec (.pipeCycle c) s = .next w ∧ (w.pipe c).res = [(n, r)] ∧ (w.pipe c).ins = [] := by
  have hawake : awake s c = s := if_pos hactive
  have hmoved := moved_of_result hins hres
  have hnone : ∀ m, AMap.get (s.pipe c).ins m = none := fun m => by rw [hins, AMap.get_nil]
  have hquiet : Quiet (moved (s.pipe c)) := by
    rw [hmoved]
    exact ⟨hfoot, fun m j h => by simp [hnone] at h, fun m j h => by simp [hnone] at h, fun m => .inl (hnone m)⟩
  obtain ⟨hins2, hres2⟩ := cycle_moves hin (by rw [hres]; rfl) hquiet (.inr hfetch)
  rw [hmoved] at hins2 hres2
  exact ⟨_, by rw [exec_pipeCycle_of_unseated hcore hin, hawake], hres2, hins2.trans hins⟩

end Descend

end Sys2Proof.Machine

/-! PROOFS. The siding (R313, R322): `vbcast` from a g register, and the packets of a repeat of one instruction. -/

namespace Sys2Proof.Machine

open Sys2Proof

/-! ### vbcast from a g register -/

section Broadcast
variable {s : State} {c k : Nat}

/-- A register that no stream is bound to takes the value. -/
theorem pkWrite_of_unbound {r : Nat} (h : boundStream (s.thread c k) r = none) (v : VVal) :
    pkWrite c k r v s = some ((), s.modThread c k (·.wrV r v)) := by
  rw [pkWrite, Pk.bind_of_some (a := s.thread c k) (s' := s) rfl, h]
  rfl

theorem gWorse_exact : gWorse gExact gExact = gExact := by decide

/-- The value of a broadcast of four 64-bit lanes, exact. -/
def broadcast64 (v : Word) : VVal := { bits := joinLanes 64 [v.toNat, v.toNat, v.toNat, v.toNat], grade := gExact }

theorem pkBcast_fromG {a : Nat} (h : boundStream (s.thread c k) a = none) (g : Fin 64) (v : Word) :
    pkBcast c k (.int .i64) a (.fromG g) v s = some ((), s.modThread c k (·.wrV a (broadcast64 v))) := by
  have hlow : v.toNat % 2 ^ 64 = v.toNat := Nat.mod_eq_of_lt v.isLt
  have hlanes : pkLanes 64 (fun _ => pure (v.toNat % 2 ^ 64, gExact)) s = some (List.replicate 4 (v.toNat, gExact), s) := by
    rw [hlow]
    rfl
  change (pkLanes 64 (fun _ => pure (v.toNat % 2 ^ 64, gExact)) >>= fun ls => pkPut c k 64 a ls) s = _
  have hgrade : (List.replicate 4 (v.toNat, gExact)).foldl (fun g l => gWorse g l.2) gExact = gExact := by
    simp [List.replicate, gWorse_exact]
  rw [Pk.bind_of_some hlanes, pkPut, hgrade]
  exact pkWrite_of_unbound h (broadcast64 v)

end Broadcast

/-! ### A repeat of one instruction (R322) -/

section Repeat
variable {s s1 : State} {c q : Nat} {e b : SeqEntry}

theorem sidingIssue_of_empty (hcore : isCore c = true) (hseq : (s.core c).seq = []) : Claims.idles s (.sidingIssue c) := by
  refine (onUnit_of_true _ hcore).trans (congrArg _ ?_)
  rw [sidingStep, hseq]
  rfl

theorem sidingIssue_of_repeat {rest : List SeqEntry} (hcore : isCore c = true) (hseq : (s.core c).seq = e :: rest)
    (hgo : (s.thread c e.slot).pend.preempt = none) (hrep : isRepeat e = true) :
    exec (.sidingIssue c) s = .next ((repeatStep s c e rest).getD s) := by
  refine (onUnit_of_true _ hcore).trans (congrArg _ ?_)
  rw [sidingStep, hseq]
  simp [hgo, hrep]

/-- The repeat is over: its thread repeats nothing, and the queue is empty. -/
def repeatOver (s : State) (c k : Nat) : State := setSeq (s.modThread c k fun t => { t with rpt := none }) c []

/-- A round of the one instruction is done, and `left` are to come. -/
def repeatLeft (s : State) (c q left : Nat) (b : SeqEntry) : State :=
  s.modThread c b.slot fun t =>
    { t with rpt := some { count := q, len := 1, body := [b], running := true, left := left, next := 0 } }

section Single
variable (hslot : b.slot = e.slot) (hone : e.s1 = 1) (hbody : endsBody b = false)

include hslot hone hbody

theorem bodyOf_single : bodyOf e [b] = [b] := by
  simp [bodyOf, sameSlot, hslot, hbody, hone]

theorem bodyComplete_single : bodyComplete e [b] = true := by
  simp [bodyComplete, bodyOf_single hslot hone hbody, hone]

/-- A count of 0 discards the body. -/
theorem repeatStep_zero (hcount : wfld e.s0 0 32 = 0) : repeatStep s c e [b] = some (repeatOver s c e.slot) := by
  simp [repeatStep, bodyComplete_single hslot hone hbody, bodyOf_single hslot hone hbody, hcount, dropSlot', hslot, repeatOver]

theorem repeatStep_of_packet (hcount : wfld e.s0 0 32 = q) (hq : 0 < q) (hfirst : (s.thread c e.slot).rpt = none)
    (hpacket : packet c e.slot b s = some ((), s1)) : repeatStep s c e [b] =
      if q ≤ 1 then some (repeatOver s1 c e.slot) else some (repeatLeft s1 c q (q - 1) b) := by
  have hq' : q ≠ 0 := by omega
  simp [repeatStep, bodyComplete_single hslot hone hbody, bodyOf_single hslot hone hbody, hcount, hq', hfirst, hpacket,
    dropSlot', hslot, repeatOver, repeatLeft]

end Single

theorem seq_repeatOver (s : State) (c k : Nat) : ((repeatOver s c k).core c).seq = [] := by
  rw [repeatOver, setSeq, State.core_modCore_self]

theorem thread_repeatOver (s : State) (c k : Nat) :
    (repeatOver s c k).thread c k = { s.thread c k with rpt := none } :=
  (State.thread_modCore _ c c k (fun x => { x with seq := [] }) fun _ => rfl).trans (State.thread_modThread_self ..)

theorem seq_modThread (s : State) (c k : Nat) (f : Thread → Thread) : ((s.modThread c k f).core c).seq = (s.core c).seq := by
  rw [State.core_modThread_self]
  rfl

theorem thread_repeatLeft (s : State) (c q left : Nat) (b : SeqEntry) : (repeatLeft s c q left b).thread c b.slot =
    { s.thread c b.slot with
      rpt := some { count := q, len := 1, body := [b], running := true, left := left, next := 0 } } :=
  State.thread_modThread_self ..

end Repeat

theorem pipeAndSiding : Claims.PipeAndSiding := by
  intro h c n k q i r a g x l z u v pr vd s hc hk p body rpt value
  have hcore := isCore_of_lt hc
  refine ⟨pipeCycle_climbs hcore, fun hin hfoot hins => pipeCycle_descends hcore hin hfoot hins,
    sidingIssue_of_empty hcore, fun hgo hfirst hfree hq hseq => ?_⟩
  have hcount : wfld (rpt q).s0 0 32 = q := by
    rw [wfld_low, BitVec.toNat_ofNat, Nat.mod_eq_of_lt (by omega : q < 2 ^ 64), Nat.mod_eq_of_lt hq]
  have hexec := sidingIssue_of_repeat hcore hseq hgo rfl
  by_cases hzero : q = 0
  · rw [repeatStep_zero (e := rpt q) (b := body) rfl rfl rfl (hcount.trans hzero), Option.getD_some] at hexec
    refine ⟨_, hexec, fun _ => ⟨seq_repeatOver .., ?_⟩, by omega, by omega, by omega⟩
    exact (congrArg Thread.v (thread_repeatOver s c k) :)
  · have hpacket : packet c k body s = some ((), s.modThread c k (·.wrV a.val value)) := pkBcast_fromG hfree g v
    have hvalue : ((s.modThread c k (·.wrV a.val value)).thread c k).rdV a.val = value := by
      rw [State.thread_modThread_self, Thread.rdV_wrV_self]
    rw [repeatStep_of_packet (e := rpt q) (b := body) rfl rfl rfl hcount (by omega) hfirst hpacket] at hexec
    by_cases hlast : q ≤ 1
    · have hthread := thread_repeatOver (s.modThread c k (·.wrV a.val value)) c k
      rw [if_pos hlast, Option.getD_some] at hexec
      exact ⟨_, hexec, by omega, fun _ => (congrArg (Thread.rdV · a.val) hthread).trans hvalue,
        fun _ => ⟨seq_repeatOver .., congrArg Thread.rpt hthread⟩, by omega⟩
    · have hthread := thread_repeatLeft (s.modThread c k (·.wrV a.val value)) c q (q - 1) body
      rw [if_neg hlast, Option.getD_some] at hexec
      exact ⟨_, hexec, by omega, fun _ => (congrArg (Thread.rdV · a.val) hthread).trans hvalue, by omega,
        fun _ => ⟨(seq_modThread ..).trans (seq_modThread ..), congrArg (fun t : Thread => t.rpt.map Repeat.left) hthread⟩⟩

/-- Settles O39: each event by what it does on its part of the state, the cycle of the pipe by what its eight steps leave
of quiet columns, and the siding by the packets of a repeat. -/
theorem threadAndPipeEvents : Obligations.ThreadAndPipeEvents := ⟨threadEvents, peerPoolAnswers, pipeAndSiding⟩

end Sys2Proof.Machine

/-! PROOFS. Integer arithmetic, logic, shifts, counts and bit fields (R197-R206): the numbers that the model computes on,
as the bit vectors and the bits of the spec's tables. -/

namespace Sys2Proof.Machine

open Sys2Proof

/-! ### Sources (R197, R203) -/

theorem sx_eq_sOp (t : ITy) (x : Word) : Claims.sx t x = sOp t x := (sOp_eq t x).symm

theorem val_eq_rdOp (t : ITy) (u : Bool) (x : Word) : Claims.val t u x = rdOp t u x := by
  cases u
  · exact sx_eq_sOp t x
  · exact (uOp_eq t x).symm

/-! ### Wrapping and clamping (R199, R202) -/

theorem inRange_iff (t : ITy) (x : Int) :
    Claims.inRange t x = true ↔ loBound t.width ≤ x ∧ x ≤ hiBound t.width := by
  simp only [Claims.inRange, Bool.and_eq_true, decide_eq_true_iff, loBound, hiBound]
  omega

theorem satInt_of_inRange {t : ITy} {x : Int} (h : Claims.inRange t x = true) : satInt t.width x = (x, 0) := by
  obtain ⟨hlo, hhi⟩ := (inRange_iff t x).mp h
  rw [satInt, if_neg (by omega), if_neg (by omega)]

/-- A number outside the range becomes the nearer bound. -/
theorem satInt_of_not_inRange {t : ITy} {x : Int} (h : Claims.inRange t x ≠ true) :
    satInt t.width x = (Claims.clamp t x, flSat) := by
  have hpow : (0 : Int) < 2 ^ (t.width - 1) := by positivity
  rw [Ne, inRange_iff] at h
  unfold satInt Claims.clamp
  unfold loBound hiBound at *
  by_cases hlow : x < -2 ^ (t.width - 1)
  · rw [if_pos hlow, min_eq_left (by omega), max_eq_left (by omega)]
  · rw [if_neg hlow, if_pos (by omega), min_eq_right (by omega), max_eq_right (by omega)]

/-- A result that wraps or clamps (R202) retires as the spec's Round writes it. -/
theorem run_writeSat {h : Hdr} {e : State → Eff} {s : State} {t : ITy} {sa : Bool} {a : Fin 64} {x : Int}
    (hg : guardHolds s h = true) (he : e s = .ok (writeSat s t sa a x)) :
    run h e s = Claims.wrapsOrClamps h t sa a s x := by
  rw [run_ok hg he, Claims.wrapsOrClamps, writeSat, wrapOrSat]
  cases sa with
  | false => simp [Claims.clamps, State.raise, destW_eq, Claims.res]
  | true =>
    by_cases hr : Claims.inRange t x = true
    · simp [Claims.clamps, hr, satInt_of_inRange hr, State.raise, destW_eq, Claims.res]
    · simp [Claims.clamps, hr, satInt_of_not_inRange hr, State.raise, flSat, destW_eq, Claims.res, Thread.raise,
        Claims.flagged]

theorem natAbs_eq_ite (x : Int) : (x.natAbs : Int) = if x < 0 then -x else x := by
  split <;> omega

/-- Settles O1: the six instructions write one exact integer each through `writeSat`, which wraps it, keeps it in range or
takes the nearer bound. -/
theorem integerWrapOrSaturate : Obligations.IntegerWrapOrSaturate := by
  intro h t sa a b c s hg
  simp only [sx_eq_sOp, ← natAbs_eq_ite]
  exact ⟨run_writeSat (e := effAdd t sa a b c) hg rfl, run_writeSat (e := effSub t sa a b c) hg rfl,
    run_writeSat (e := effMul t sa a b c) hg rfl, run_writeSat (e := effMad t sa a b c) hg rfl,
    run_writeSat (e := effAbs t sa a b) hg rfl, run_writeSat (e := effShl t sa a b c) hg rfl⟩

/-! ### Results of width w (R197) -/

section Results
variable {h : Hdr} {e : State → Eff} {s : State} {t : ITy} {a : Fin 64} {x : Int}
  (hg : guardHolds s h = true) (he : e s = putInt s t a x)
include hg he

theorem run_putInt : run h e s = Claims.retired h s (s.wrG a.val (Claims.res t x)) :=
  run_ok hg (he.trans (congrArg (fun v => Eff.ok (s.wrG a.val v)) (destW_eq t x)))

theorem run_putInt_bits {r : BitVec t.width} (hr : BitVec.ofInt t.width x = r) :
    run h e s = Claims.retired h s (s.wrG a.val (r.signExtend 64)) := by
  rw [run_putInt hg he, Claims.res, hr]

end Results

/-! ### High products and division (R203) -/

theorem divRem_eq (t : ITy) (u : Bool) (x y : Int) : divRem t u x y =
    if y = 0 then (-1, x)
    else if (!u && decide (x = -2 ^ (t.width - 1)) && decide (y = -1)) = true then (x, 0)
    else (Int.tdiv x y, Int.tmod x y) := by
  refine if_congr Iff.rfl rfl (if_congr ?_ rfl rfl)
  simp [loBound, and_assoc]

theorem multiplyHighAndDivide : Claims.MultiplyHighAndDivide := by
  intro h t u a b c s hg
  have hmulh : ∀ x : Int, Int.fdiv x (2 ^ t.width) = x / 2 ^ t.width :=
    fun x => Int.fdiv_eq_ediv_of_nonneg x (by positivity)
  simp only [val_eq_rdOp, hmulh]
  refine ⟨run_putInt (e := effMulh t u a b c) hg rfl, ?_, ?_⟩
  · refine (run_putInt (e := effDiv t u a b c) hg rfl).trans ?_
    simp only [divRem_eq, apply_ite Prod.fst]
  · refine (run_putInt (e := effRem t u a b c) hg rfl).trans ?_
    simp only [divRem_eq, apply_ite Prod.snd]

/-! ### Shifts and rotation (R204) -/

theorem shCount_lt (t : ITy) (x : Word) : shCount t x < t.width := Nat.mod_lt _ t.width_pos

theorem ofInt_toNat_word (w : Nat) (x : Word) : BitVec.ofInt w (x.toNat : Int) = x.setWidth w := by
  rw [BitVec.ofInt_natCast, BitVec.ofNat_toNat]

/-- A shift toward the low end is the floor of a quotient, under both readings. -/
theorem ofInt_rdOp_div (t : ITy) (u : Bool) (x : Word) (n : Nat) : BitVec.ofInt t.width (rdOp t u x / 2 ^ n) =
    if u then x.setWidth t.width >>> n else (x.setWidth t.width).sshiftRight n := by
  cases u with
  | false =>
    rw [← val_eq_rdOp, BitVec.sshiftRight_eq, Int.shiftRight_eq_div_pow]
    simp [Claims.val, Claims.sx]
  | true =>
    apply BitVec.eq_of_toNat_eq
    have hcast : rdOp t true x / 2 ^ n = (((x.setWidth t.width).toNat / 2 ^ n : Nat) : Int) := by
      rw [← val_eq_rdOp]
      simp [Claims.val, Claims.zx]
    have hlt : (x.setWidth t.width).toNat / 2 ^ n < 2 ^ t.width := (Nat.div_le_self ..).trans_lt (BitVec.isLt _)
    rw [hcast, BitVec.ofInt_natCast, BitVec.toNat_ofNat, Nat.mod_eq_of_lt hlt, if_pos rfl, BitVec.toNat_ushiftRight,
      Nat.shiftRight_eq_div_pow]

/-- The bits that leave at the high end are those that come in at the low end. -/
theorem rotVal_eq (t : ITy) (x : Word) {n : Nat} (hn : n < t.width) :
    rotVal t x n = ((x.setWidth t.width).rotateLeft n).toNat := by
  have hsplit : 2 ^ t.width = 2 ^ n * 2 ^ (t.width - n) := by rw [← pow_add, Nat.add_sub_cancel' hn.le]
  have hu : x.toNat % 2 ^ t.width < 2 ^ t.width := Nat.mod_lt _ (Nat.two_pow_pos _)
  rw [BitVec.toNat_rotateLeft, Nat.mod_eq_of_lt hn, BitVec.toNat_setWidth]
  unfold rotVal
  generalize x.toNat % 2 ^ t.width = u at hu
  have hwraps : u / 2 ^ (t.width - n) < 2 ^ n := Nat.div_lt_of_lt_mul (by rwa [Nat.mul_comm, ← hsplit])
  have hstays : u <<< n % 2 ^ t.width = (u % 2 ^ (t.width - n)) <<< n := by
    rw [Nat.shiftLeft_eq, Nat.shiftLeft_eq, hsplit, Nat.mul_comm (2 ^ n), Nat.mul_mod_mul_right]
  calc (u * 2 ^ n + u / 2 ^ (t.width - n)) % 2 ^ t.width
      = u / 2 ^ (t.width - n) + 2 ^ n * (u % 2 ^ (t.width - n)) := by
        rw [hsplit, Nat.mod_mul, Nat.mul_add_mod_of_lt hwraps, Nat.mul_comm u, Nat.mul_add_div (Nat.two_pow_pos n),
          Nat.div_eq_of_lt hwraps, Nat.add_zero]
    _ = u <<< n % 2 ^ t.width ||| u >>> (t.width - n) := by
        rw [hstays, Nat.shiftRight_eq_div_pow, ← Nat.shiftLeft_add_eq_or_of_lt hwraps, Nat.shiftLeft_eq, Nat.mul_comm,
          Nat.add_comm]

/-! ### Counting (R204) -/

theorem testBit_setWidth_of_lt {w i : Nat} (x : Word) (hi : i < w) :
    (x.toNat % 2 ^ w).testBit i = x.getLsbD i := by
  rw [Nat.testBit_mod_two_pow, decide_eq_true hi, Bool.true_and, BitVec.testBit_toNat]

/-- A number lies below the power of its length, and its bit below that is set. -/
theorem lt_two_pow_bitLen (m : Nat) : m < 2 ^ bitLen m := by
  unfold bitLen
  split
  next h => simp [h]
  next h => exact Nat.lt_log2_self

theorem bitLen_le {m w : Nat} (hm : m < 2 ^ w) : bitLen m ≤ w := by
  unfold bitLen
  split
  next h => exact Nat.zero_le w
  next h => exact (Nat.log2_lt h).mpr hm

theorem testBit_bitLen {m : Nat} (h : 0 < bitLen m) : m.testBit (bitLen m - 1) = true := by
  unfold bitLen at *
  split at h
  next h0 => exact absurd h (Nat.lt_irrefl 0)
  next h0 =>
    rw [if_neg h0]
    exact Nat.testBit_log2 h0

theorem clzVal_spec (t : ITy) (x : Word) : clzVal t x ≤ t.width ∧
    (∀ i, t.width - clzVal t x ≤ i → i < t.width → x.getLsbD i = false) ∧
    (clzVal t x < t.width → x.getLsbD (t.width - 1 - clzVal t x) = true) := by
  have hle := bitLen_le (Nat.mod_lt x.toNat (Nat.two_pow_pos t.width))
  have hlen : t.width - clzVal t x = bitLen (x.toNat % 2 ^ t.width) := Nat.sub_sub_self hle
  refine ⟨Nat.sub_le .., fun i hlow hi => ?_, fun hlt => ?_⟩
  · rw [← testBit_setWidth_of_lt x hi]
    exact Nat.testBit_lt_two_pow ((lt_two_pow_bitLen _).trans_le (Nat.pow_le_pow_right (by decide) (hlen ▸ hlow)))
  · have htop : t.width - 1 - clzVal t x < t.width := by omega
    rw [← testBit_setWidth_of_lt x htop, Nat.sub_right_comm, hlen]
    exact testBit_bitLen (hlen ▸ Nat.sub_pos_of_lt hlt)

theorem trailZeros_spec (k n : Nat) : trailZeros k n ≤ k ∧ (∀ i, i < trailZeros k n → n.testBit i = false) ∧
    (trailZeros k n < k → n.testBit (trailZeros k n) = true) := by
  induction k generalizing n with
  | zero => exact ⟨Nat.le_refl 0, fun i hi => absurd hi (Nat.not_lt_zero i), fun h => absurd h (Nat.lt_irrefl 0)⟩
  | succ k ih =>
    rw [trailZeros]
    by_cases hodd : n % 2 = 1
    · rw [if_pos hodd]
      exact ⟨Nat.zero_le _, fun i hi => absurd hi (Nat.not_lt_zero i), fun _ => by simp [Nat.testBit_zero, hodd]⟩
    · obtain ⟨hle, hbelow, hat⟩ := ih (n / 2)
      rw [if_neg hodd]
      refine ⟨Nat.succ_le_succ hle, fun i hi => ?_, fun hlt => ?_⟩
      · cases i with
        | zero => simp [Nat.testBit_zero, hodd]
        | succ i => exact (Nat.testBit_succ n i).trans (hbelow i (Nat.lt_of_succ_lt_succ hi))
      · exact (Nat.testBit_succ n _).trans (hat (Nat.lt_of_succ_lt_succ hlt))

theorem popCount_eq_countP (k n : Nat) : popCount k n = (List.range k).countP (fun i => n.testBit i) := by
  induction k generalizing n with
  | zero => rfl
  | succ k ih =>
    have hlow : n % 2 = if n.testBit 0 then 1 else 0 := by
      rw [Nat.testBit_zero]
      rcases Nat.mod_two_eq_zero_or_one n with h | h <;> simp [h]
    have htail : (fun i => n.testBit i) ∘ Nat.succ = fun i => (n / 2).testBit i := funext (Nat.testBit_succ n)
    rw [popCount, ih, List.range_succ_eq_map, List.countP_cons, List.countP_map, htail, hlow, Nat.add_comm]

theorem logicShiftAndCount : Claims.LogicShiftAndCount := by
  intro h t u a b c s hg
  simp only [val_eq_rdOp, ← BitVec.testBit_toNat]
  have hlogic (x : Word) := ofInt_toNat_word t.width x
  have hcount (k : Nat) := BitVec.ofInt_natCast t.width k
  refine ⟨run_putInt_bits (e := effAnd t a b c) hg rfl (hlogic _),
    run_putInt_bits (e := effOr t a b c) hg rfl (hlogic _),
    run_putInt_bits (e := effXor t a b c) hg rfl (hlogic _), run_putInt_bits (e := effAndn t a b c) hg rfl (hlogic _),
    run_putInt_bits (e := effShr t u a b c) hg rfl (ofInt_rdOp_div ..), ?rot,
    run_putInt_bits (e := effMin t u a b c) hg rfl rfl, run_putInt_bits (e := effMax t u a b c) hg rfl rfl,
    ⟨_, run_putInt_bits (e := effClz t a b) hg rfl (hcount _), ?clz⟩,
    ⟨_, run_putInt_bits (e := effCtz t a b) hg rfl (hcount _), ?ctz⟩, ?pop⟩
  case rot =>
    refine run_putInt_bits (e := effRot t a b c) hg rfl ?_
    rw [rotVal_eq t _ (shCount_lt t _), BitVec.ofInt_natCast, BitVec.ofNat_toNat, BitVec.setWidth_eq]
    rfl
  case clz => simpa only [← BitVec.testBit_toNat] using clzVal_spec t _
  case ctz => exact trailZeros_spec t.width _
  case pop =>
    refine run_putInt_bits (e := effPop t a b) hg rfl ?_
    rw [BitVec.ofInt_natCast, popCount_eq_countP]

/-! ### Bit fields and extension (R205, R206) -/

theorem testBit_fld (n lo len i : Nat) : (fld n lo len).testBit i = (decide (i < len) && n.testBit (lo + i)) := by
  rw [fld, Nat.testBit_mod_two_pow, Nat.testBit_div_two_pow, Nat.add_comm]

/-- A replaced field is the new bits between the old ones above and below it. -/
theorem setFld_eq (n lo len x : Nat) :
    setFld n lo len x = 2 ^ lo * (2 ^ len * (n / 2 ^ lo / 2 ^ len) + x % 2 ^ len) + n % 2 ^ lo := by
  have hfield : 2 ^ lo * (n / 2 ^ lo) + n % 2 ^ lo = n := Nat.div_add_mod n _
  have habove : 2 ^ len * (n / 2 ^ lo / 2 ^ len) + fld n lo len = n / 2 ^ lo := Nat.div_add_mod ..
  have hn : 2 ^ lo * (2 ^ len * (n / 2 ^ lo / 2 ^ len)) + fld n lo len * 2 ^ lo + n % 2 ^ lo = n := by
    rw [Nat.mul_comm (fld n lo len), ← Nat.mul_add, habove, hfield]
  rw [setFld, Nat.mul_add, Nat.mul_comm (x % 2 ^ len)]
  omega

theorem testBit_setFld (n lo len x i : Nat) : (setFld n lo len x).testBit i =
    if lo ≤ i ∧ i < lo + len then x.testBit (i - lo) else n.testBit i := by
  rw [setFld_eq, Nat.testBit_two_pow_mul_add _ (Nat.mod_lt _ (Nat.two_pow_pos lo)),
    Nat.testBit_two_pow_mul_add _ (Nat.mod_lt _ (Nat.two_pow_pos len))]
  by_cases hbelow : i < lo
  · rw [if_pos hbelow, if_neg (by omega), Nat.testBit_mod_two_pow, decide_eq_true hbelow, Bool.true_and]
  · rw [if_neg hbelow]
    by_cases hin : i - lo < len
    · rw [if_pos hin, if_pos (by omega), Nat.testBit_mod_two_pow, decide_eq_true hin, Bool.true_and]
    · rw [if_neg hin, if_neg (by omega), Nat.testBit_div_two_pow, Nat.testBit_div_two_pow]
      congr 1
      omega

theorem specPos_eq (x : Word) : specPos x = x.toNat % 64 := wfld_low x 6
theorem specLen_eq (x : Word) : specLen x = x.toNat / 64 % 64 + 1 := rfl

/-- The bits of a `bext` result: the field, then its extension. -/
theorem bext_getLsbD (u : Bool) (x spec : Word) {i : Nat} (hi : i < 64) :
    (if u then zextW (bextVal x spec) (specLen spec) else sextW (bextVal x spec) (specLen spec)).getLsbD i =
      if i < specLen spec then x.getLsbD (specPos spec + i) else !u && x.getLsbD (specPos spec + specLen spec - 1) := by
  have hfield (j : Nat) (hj : j < specLen spec) : (bextVal x spec).testBit j = x.getLsbD (specPos spec + j) := by
    rw [bextVal, testBit_fld, decide_eq_true hj, Bool.true_and, BitVec.testBit_toNat]
  have hlast : specPos spec + (specLen spec - 1) = specPos spec + specLen spec - 1 := rfl
  cases u with
  | true =>
    rw [if_pos rfl, zextW, BitVec.getLsbD_ofNat, decide_eq_true hi, Bool.true_and, Nat.testBit_mod_two_pow]
    by_cases hin : i < specLen spec
    · rw [decide_eq_true hin, Bool.true_and, if_pos hin, hfield i hin]
    · rw [decide_eq_false hin, Bool.false_and, if_neg hin, Bool.not_true, Bool.false_and]
  | false =>
    rw [if_neg Bool.false_ne_true, sextW_eq_signExtend, BitVec.getLsbD_signExtend, decide_eq_true hi, Bool.true_and,
      BitVec.msb_eq_getLsbD_last, BitVec.getLsbD_ofNat, BitVec.getLsbD_ofNat]
    by_cases hin : i < specLen spec
    · rw [if_pos hin, if_pos hin, decide_eq_true hin, Bool.true_and, hfield i hin]
    · have hpos : specLen spec - 1 < specLen spec := Nat.sub_one_lt (Nat.succ_ne_zero _)
      rw [if_neg hin, if_neg hin, decide_eq_true hpos, Bool.true_and, hfield _ hpos, Bool.not_false, Bool.true_and, hlast]

/-- The bits of a `bins` result: the field at its place, and the old bits around it. -/
theorem bins_getLsbD (d x spec : Word) {i : Nat} (hi : i < 64) : (binsVal d x spec).getLsbD i =
    if specPos spec ≤ i ∧ i < specPos spec + specLen spec then x.getLsbD (i - specPos spec) else d.getLsbD i := by
  have hcut : (specPos spec ≤ i ∧ i < specPos spec + min (specLen spec) (64 - specPos spec)) ↔
      (specPos spec ≤ i ∧ i < specPos spec + specLen spec) := by omega
  rw [binsVal, BitVec.getLsbD_ofNat, decide_eq_true hi, Bool.true_and, testBit_setFld]
  simp only [hcut, BitVec.testBit_toNat]

theorem bitFieldsAndExtension : Claims.BitFieldsAndExtension := by
  intro h t u a b c s hg
  simp only [← specPos_eq, ← specLen_eq]
  refine ⟨⟨_, run_ok (e := effBext u a b c) hg rfl, fun i hi => bext_getLsbD u _ _ hi⟩,
    ⟨_, run_ok (e := effBins a b c) hg rfl, fun i hi => bins_getLsbD _ _ _ hi⟩, ?_⟩
  refine (run_ok (e := effExtI t u a b) hg rfl).trans ?_
  have hzero (x : Word) : zextW x.toNat t.width = (x.setWidth t.width).setWidth 64 := by
    rw [zextW, ← BitVec.toNat_setWidth, BitVec.ofNat_toNat]
  have hsign (x : Word) : sextW x.toNat t.width = (x.setWidth t.width).signExtend 64 := by
    rw [sextW_eq_signExtend, BitVec.ofNat_toNat]
  rw [hzero, hsign]

/-- Settles O2: a number as the flag reads it is the value of its low w bits, so each result is an operation on those
bits; the counts and the fields are told bit by bit. -/
theorem integerResults : Obligations.IntegerResults :=
  ⟨multiplyHighAndDivide, logicShiftAndCount, bitFieldsAndExtension⟩

end Sys2Proof.Machine

/-! PROOFS. Moves, selection, comparison and predicate logic (R207-R212): each instruction writes one g register or one
predicate. -/

namespace Sys2Proof.Machine

open Sys2Proof

/-! ### Moves and immediates (R207, R208) -/

/-- Bits [63:40] of an immediate are added as a number (R207). -/
theorem ofInt_lih (x : Word) (k : BitVec 40) :
    BitVec.ofInt 64 (x.toInt + k.toInt * 2 ^ 40) = x + k.signExtend 64 * BitVec.ofNat 64 (2 ^ 40) := by
  rw [BitVec.ofInt_add, BitVec.ofInt_mul, BitVec.ofInt_toInt]
  rfl

theorem ofInt_lpc (pc : Word) (o : BitVec 20) : BitVec.ofInt 64 (pc.toInt + o.toInt) = pc + immW o := by
  rw [BitVec.ofInt_add, BitVec.ofInt_toInt]
  rfl

theorem movesAndSelection : Claims.MovesAndSelection := by
  intro h a b c k o n u s hg
  simp only [ofInt_lih, ofInt_lpc]
  exact ⟨run_ok (e := effMov a c) hg rfl, run_ok (e := effLi a k) hg rfl, run_ok (e := effLih a k) hg rfl,
    run_ok (e := effLpc a o) hg rfl, run_ok (e := effSel n u a b c) hg rfl⟩

/-! ### Comparison (R210, Table 5) -/

theorem condHolds_iff (t : ITy) (n : Cond) (u : Bool) (x y : Word) :
    condHolds n (rdOp t u x) (rdOp t u y) (decide ((x &&& y).toNat % 2 ^ t.width ≠ 0)) = true ↔
      Claims.outcome t u x y n := by
  simp only [← val_eq_rdOp]
  cases n with
  | tst =>
    have hzero : (x &&& y).setWidth t.width = 0 ↔ (x &&& y).toNat % 2 ^ t.width = 0 := by
      rw [← BitVec.toNat_inj, BitVec.toNat_setWidth]
      rfl
    exact decide_eq_true_iff.trans (not_congr hzero.symm)
  | eq | ne | lt | le | gt | ge => exact decide_eq_true_iff

/-! ### Predicate logic and moves (R211, R212) -/

theorem plogOp_eq_plogic : ∀ (k : Fin 8) (p q : Bool), plogOp k.val p q = Claims.plogic k.val p q := by decide

theorem bne_zero_eq_decide {w : Nat} (x : BitVec w) : (x != 0) = decide (x ≠ 0) := decide_not.symm

theorem predicates : Claims.Predicates := by
  intro h t n k u d e f a b c s hg
  refine ⟨⟨_, run_ok (e := effCmp t n u d b c) hg rfl, condHolds_iff t n u _ _⟩, ?plog,
    run_ok (e := effPmov u d (.p e)) hg rfl, ?pmovG, fun i => ?pmovImm, run_ok (e := effPget a e) hg rfl⟩
  case plog =>
    rw [← plogOp_eq_plogic]
    exact run_ok (e := effPlog k d e f) hg rfl
  case pmovG =>
    rw [← bne_zero_eq_decide]
    exact run_ok (e := effPmov u d (.g b)) hg rfl
  case pmovImm =>
    rw [← bne_zero_eq_decide]
    exact run_ok (e := effPmov u d (.imm i)) hg rfl

/-- Settles O3: each instruction writes one register from the sources that R207 to R212 name. -/
theorem movesAndPredicates : Obligations.MovesAndPredicates := ⟨movesAndSelection, predicates⟩

end Sys2Proof.Machine

/-! PROOFS. Branches and jumps (R213-R215) and system instructions (R222-R227, R430). -/

namespace Sys2Proof.Machine

open Sys2Proof

/-! ### Branches that no leader decides (R214, R215) -/

theorem readBranchP_bne (s : State) (u : Bool) (p : Option (Fin 8)) : (readBranchP s p != u) = Claims.taken s u p := by
  cases p with
  | none => exact Bool.true_xor u
  | some q => rfl

/-- Offsets count instructions of 12 bytes. -/
theorem relTarget_eq (s : State) (k : BitVec 20) : relTarget s k = s.me.pc + BitVec.ofInt 64 (12 * k.toInt) := by
  rw [relTarget, Int.mul_comm, BitVec.ofInt_mul]
  rfl

section Branches
variable {h : Hdr} {s : State} (hg : guardHolds s h = true) (hf : s.me.follower = false)
include hg hf

theorem runBranch_resolve {e : State → Eff} {t : State} {pc : Word} (he : e s = resolve s t pc) :
    runBranch h e s = .next (retire t pc h.yields) := by
  have hr : resolve s t pc = .jump t pc := by rw [resolve, hf, if_neg Bool.false_ne_true]
  rw [runBranch, if_pos hg, run_jump hg (he.trans hr)]

theorem runBranch_branchPc {e : State → Eff} {t : State} {u : Bool} {p : Option (Fin 8)} {target : Word}
    (he : e s = resolve s t (branchPc s (readBranchP s p != u) target)) :
    runBranch h e s = .next (retire t (if Claims.taken s u p then target else s.me.pc + 12) h.yields) := by
  rw [runBranch_resolve hg hf he, readBranchP_bne, branchPc]

end Branches

/-- Settles O4: a thread that no leader decides for goes where `resolve` is told; its sources are read in the state before
the link or the counter is written. -/
theorem branchesAndJumps : Obligations.BranchesAndJumps := by
  intro h u p a b c k s hg hf
  simp only [← relTarget_eq]
  refine ⟨runBranch_branchPc (e := effBr u p k) hg hf rfl, runBranch_branchPc (e := effBrl u p k) hg hf rfl,
    runBranch_branchPc (e := effJr u p b c) hg hf rfl, runBranch_branchPc (e := effJrl u p b c) hg hf rfl, ?dbr⟩
  refine (runBranch_resolve (e := effDbr a k) hg hf rfl).trans ?_
  simp only [branchPc, bne_iff_ne, ne_eq, ite_not]

/-! ### Traps and returns (R223, R225, R226, R430) -/

theorem ofNat_optImm20 (c : Option (BitVec 20)) : BitVec.ofNat 64 (optImm20 c) = Claims.imm20 c := by
  cases c with
  | none => rfl
  | some v => exact BitVec.ofNat_toNat 64 v

/-- A thread that yields stands in no pipe (R194). -/
theorem retire_yields_inPipe (s : State) (pc : Word) : ((retire s pc true).core s.cur.1).inPipe = none := by
  have hcur : (patchForward s s.me s.cur s.me.pc pc none).cur = s.cur := by
    obtain ⟨_, h⟩ := patchForward_eq s s.me s.cur s.me.pc pc none
    rw [h]
  rw [retire, retireWith, if_pos rfl, State.modMe_cur, hcur, State.core_modCore_self]

section Handler
variable {h : Hdr} {s : State}

theorem runHandler_user (op : Nat) (e : State → Eff) (hp : s.me.priv = false) :
    runHandler op h e s = Claims.raises s 0x03 0 op := by
  rw [runHandler, hp, if_neg Bool.false_ne_true]
  rfl

theorem runHandler_handler (op : Nat) (e : State → Eff) (hp : s.me.priv = true) : runHandler op h e s = run h e s :=
  if_pos hp

/-- A return from the handler of a budget trap is fatal (R152). -/
theorem effEret_fatal (hf : s.me.fatalRet = true) (hc : s.me.ctl.xcause = 0x12) :
    effEret s = .wait (faultInstance s s.cur.1 s.cur.2 0x12) := by
  rw [effEret, if_pos (by simp [hf, hc])]

theorem effEret_returns (hr : s.me.fatalRet = false ∨ s.me.ctl.xcause ≠ 0x12) :
    effEret s = .jump (s.modMe (fun t => t.eret t.pc)) s.me.ctl.xpc :=
  if_neg fun hboth => by
    obtain ⟨hf, hc⟩ := Bool.and_eq_true_iff.mp hboth
    exact hr.elim (fun h => Bool.false_ne_true (h.symm.trans hf)) (fun h => h (eq_of_beq hc))

end Handler

/-- Settles O7: `eret` and `halt` are checked for privilege before they run; each instruction then traps, retires, ends
its instance or goes to xpc, and the last reads as the record that `Thread.eret` leaves. -/
theorem systemInstructions : Obligations.SystemInstructions := by
  intro h c s
  refine ⟨fun hp => ⟨runHandler_user 0x2B effEret hp, runHandler_user 0x2D effHalt hp⟩, fun hg => ⟨?trap, ?sysc,
    run_ok (e := effNop) hg rfl, ⟨_, run_ok (h := { h with yields := true }) (e := effYieldI) hg rfl, rfl,
    retire_yields_inPipe s _⟩, fun hp ho => ?haltTolerant, fun hp ho => ?halt, fun hp hf hc => ?eretFatal,
    fun hp hr => ?eret⟩⟩
  case trap => exact ofNat_optImm20 c ▸ run_failAt (e := effTrap c) hg rfl
  case sysc => exact ofNat_optImm20 c ▸ run_failAt (e := effSysc c) hg rfl
  case haltTolerant => exact (runHandler_handler 0x2D effHalt hp).trans (run_failAt hg (if_pos ho))
  case halt =>
    exact (runHandler_handler 0x2D effHalt hp).trans (run_wait hg (by rw [effHalt, ho, if_neg Bool.false_ne_true]))
  case eretFatal => exact (runHandler_handler 0x2B effEret hp).trans (run_wait hg (effEret_fatal hf hc))
  case eret =>
    refine ⟨_, (runHandler_handler 0x2B effEret hp).trans (run_jump hg (effEret_returns hr)), ?_⟩
    rw [retire_me, State.me_modMe, retire_mem]
    exact ⟨rfl, rfl, rfl, rfl, rfl, rfl, rfl, rfl⟩

end Sys2Proof.Machine

/-! PROOFS. O52: the storage port (R467-R470) and requests of the host (R244): a request that is refused, the drive's
interrupts, the windows to the drive and its link. -/

namespace Sys2Proof.Machine

open Sys2Proof

/-! ### A request of the drive that finds no other waiting (R468, R470) -/

section Requests
variable {s : State} {r : PortReq}

/-- Nothing waits in the storage port. -/
def driveClear (s : State) : State := s.modStor fun x => { x with waiting := [] }

/-- The request of the drive that arrives now. -/
def arriving (s : State) (addr : Word) (len : Nat) (data : Option (List Byte)) : PortReq :=
  { addr := addr, len := len, data := data, space := 0, walk := none, since := s.time.tick }

/-- The request is the only one in the storage port. -/
def driveHolds (s : State) (r : PortReq) : State := s.modStor fun x => { x with waiting := [r] }

theorem driveAll_of_nil (h : s.stor.waiting = []) : driveAll s = s := by
  rw [driveAll, h]
  rfl

theorem driveAll_of_one {w : State} (h : s.stor.waiting = [r]) (hdone : driveOne s r = (true, w)) :
    driveAll s = driveClear w := by
  rw [driveAll, h]
  simp only [List.length_singleton, drainDrive, h, hdone]
  rfl

theorem driveRequest_of_done {addr : Word} {len : Nat} {data : Option (List Byte)} {w : State} (h : s.stor.waiting = [])
    (hdone : driveOne (driveHolds s (arriving s addr len data)) (arriving s addr len data) = (true, w)) :
    driveRequest s addr len data = driveClear w := by
  have hholds : (s.modStor fun x => { x with waiting := x.waiting ++ [arriving s addr len data] }) =
      driveHolds s (arriving s addr len data) := by
    rw [driveHolds, State.modStor, h]
    rfl
  exact (congrArg driveAll hholds).trans (driveAll_of_one rfl hdone)

/-! ### Refusals (R468) -/

/-- What a refusal leaves: the request counted, the first refused address kept, and a read answered. -/
theorem refuseDrive_eq (s : State) (r : PortReq) (st : Nat) : refuseDrive s r st = s.modStor fun x => { x with
    sfaults := (x.sfaults + 1) % 2 ^ 64, sfault := some (x.sfault.getD r.addr),
    answers := x.answers ++ if r.data = none then [(st, [])] else [] } := by
  cases hd : r.data <;> cases hkept : s.stor.sfault <;> simp [refuseDrive, State.modStor, answerDrive, hd, hkept]

/-- The space that a port address names: bits [63:57]. -/
theorem wfld_space (a : Word) : wfld a 57 7 = a.toNat / 2 ^ 57 := by
  rw [wfld, fld]
  omega

theorem driveOne_of_invalid (hk : r.addr.toNat / 2 ^ 57 ≠ 127)
    (hspace : (AMap.getD s.stor.sspace (r.addr.toNat / 2 ^ 57) 0).testBit 16 = false) :
    driveOne s r = (true, refuseDrive s r 2) := by
  rw [← wfld_space] at hk hspace
  simp only [driveOne, if_neg hk, hspace, if_true]

theorem driveOne_of_window (hk : r.addr.toNat / 2 ^ 57 = 127) : driveOne s r = driveWindow s r := by
  rw [← wfld_space] at hk
  exact if_pos hk

/-- The interrupt window cannot be read. -/
theorem driveWindow_of_read (hread : r.data = none) : driveWindow s r = (true, refuseDrive s r 1) := by
  simp only [driveWindow, hread]

/-! ### Interrupts of the drive (R470) -/

/-- A vector's port address: the interrupt window, at 4 bytes for each vector. -/
def vectorAddr (v : Nat) : Word := BitVec.ofNat 64 (127 * 2 ^ 57 + 4 * v)

theorem driveWindow_of_vector {v : Nat} (hv : v < 128) (haddr : r.addr = vectorAddr v) (hdata : r.data = some [0, 0, 0, 0])
    (hpaths : s.mem.paths = []) : driveWindow s r = (true, deliverMsix s v) := by
  have hoff : wfld r.addr 0 57 = 4 * v := by
    rw [wfld_low, haddr, vectorAddr, BitVec.toNat_ofNat]
    omega
  have hpending : writerPending s driveWriter = false := by rw [writerPending, hpaths]; rfl
  have hvec : 4 * v / 4 = v := by omega
  simp only [driveWindow, hdata, hoff, settleWriters_of_no_paths hpaths, hpending, hvec]
  exact if_pos ⟨rfl, by omega, hv⟩

theorem driveOne_of_vector {v : Nat} (hv : v < 128) (haddr : r.addr = vectorAddr v) (hdata : r.data = some [0, 0, 0, 0])
    (hpaths : s.mem.paths = []) : driveOne s r = (true, deliverMsix s v) := by
  refine (driveOne_of_window ?_).trans (driveWindow_of_vector hv haddr hdata hpaths)
  rw [haddr, vectorAddr, BitVec.toNat_ofNat]
  omega

theorem exec_driveMsix {v : Nat} (hv : v < 128) (hwait : s.stor.waiting = []) (hpaths : s.mem.paths = []) :
    exec (.driveMsix v) s =
      .next (driveClear (deliverMsix (driveHolds s (arriving s (vectorAddr v) 4 (some [0, 0, 0, 0]))) v)) :=
  (onUnit_of_true _ (decide_eq_true hv)).trans
    (congrArg _ (driveRequest_of_done hwait (driveOne_of_vector hv rfl rfl hpaths)))

theorem deliverMsix_of_enabled {v : Nat} (h : (AMap.getD s.stor.svec v 0).testBit 8 = true) :
    deliverMsix s v = sysIrq s 3 (AMap.getD s.stor.svec v 0 % 16) [v] := by
  have hcore : AMap.getD s.stor.svec v 0 % 16 = fld (AMap.getD s.stor.svec v 0) 0 4 := (fld_zero _ 4).symm
  rw [hcore]
  exact if_pos h

theorem deliverMsix_of_disabled {v : Nat} (h : (AMap.getD s.stor.svec v 0).testBit 8 = false) : deliverMsix s v = s :=
  if_neg (by rw [h]; decide)

end Requests

/-- What a refused request leaves, whether the drive waits for an answer or not. -/
theorem driveMemoryRequest_refused {s : State} {addr : Word} {len : Nat} {data : Option (List Byte)} {st : Nat}
    (hwait : s.stor.waiting = [])
    (hdone : driveOne (driveHolds s (arriving s addr len data)) (arriving s addr len data) =
      (true, refuseDrive (driveHolds s (arriving s addr len data)) (arriving s addr len data) st)) :
    ∃ w, exec (.driveMemoryRequest addr len data) s = .next w ∧ w.stor.sfaults = (s.stor.sfaults + 1) % 2 ^ 64 ∧
      w.stor.sfault = some (s.stor.sfault.getD addr) ∧ w.stor.waiting = [] ∧ w.mem = s.mem ∧ w.mgmt = s.mgmt ∧
      w.stor.answers = s.stor.answers ++ (if data = none then [(st, [])] else []) := by
  refine ⟨_, congrArg Host.Outcome.next (driveRequest_of_done hwait hdone), ?_⟩
  rw [refuseDrive_eq]
  exact ⟨rfl, rfl, rfl, rfl, rfl, rfl⟩

/-! ### The windows to the drive (R468) -/

section Windows
variable {s : State} {cfg : Bool} {off len : Nat} {data : Option (List Byte)}

/-- The access lies in its window, and the link is up. -/
def insideWindow (s : State) (cfg : Bool) (off len : Nat) : Bool :=
  s.stor.up && (if cfg then decide (off + len ≤ 8 * 4096) else decide (off + len ≤ 2 ^ 36))

theorem insideWindow_iff : insideWindow s cfg off len = true ↔
    s.stor.up = true ∧ off + len ≤ if cfg then 8 * 4096 else 2 ^ 36 := by
  cases cfg <;> simp [insideWindow]

/-- The access is sent to the drive. -/
def sentToDrive (s : State) (cfg : Bool) (off len : Nat) (data : Option (List Byte)) : State :=
  s.modStor fun x => { x with toDrive := x.toDrive ++ [(cfg, off, len, data)] }

theorem driveAccess_inside (h : insideWindow s cfg off len = true) : driveAccess s cfg off len data =
    if data = none then
      answerCore { sentToDrive s cfg off len data with free := s.free + 1 } 0 ((Config.driveRead s.free).take len)
    else sentToDrive s cfg off len data := by
  unfold driveAccess
  rw [← insideWindow.eq_def, h]
  cases data <;> rfl

theorem driveAccess_outside (h : insideWindow s cfg off len = false) :
    driveAccess s cfg off len data = if data = none then answerCore s 2 [] else s := by
  unfold driveAccess
  rw [← insideWindow.eq_def, h]
  cases data <;> rfl

variable {c : Nat} (hc : c < 16)
include hc

theorem exec_systemCoreDriveAccess :
    exec (.systemCoreDriveAccess c cfg off len data) s = .next (driveAccess s cfg off len data) :=
  onUnit_of_true _ (decide_eq_true hc)

theorem systemCoreDriveAccess_inside (h : insideWindow s cfg off len = true) :
    ∃ w, exec (.systemCoreDriveAccess c cfg off len data) s = .next w ∧
      w.stor.toDrive = s.stor.toDrive ++ [(cfg, off, len, data)] ∧ (w.mem = s.mem ∧ w.cores = s.cores ∧ w.net = s.net) ∧
      (data = none → w.trust.coreAnswers = s.trust.coreAnswers ++ [(0, (Config.driveRead s.free).take len)]) := by
  refine ⟨_, (exec_systemCoreDriveAccess hc).trans (congrArg _ (driveAccess_inside h)), ?_⟩
  cases data with
  | none => exact ⟨rfl, ⟨rfl, rfl, rfl⟩, fun _ => rfl⟩
  | some bs => exact ⟨rfl, ⟨rfl, rfl, rfl⟩, nofun⟩

theorem systemCoreDriveAccess_outside (h : insideWindow s cfg off len = false) :
    ∃ w, exec (.systemCoreDriveAccess c cfg off len data) s = .next w ∧ w.stor = s.stor ∧
      (w.mem = s.mem ∧ w.cores = s.cores ∧ w.net = s.net) ∧
      w.trust.coreAnswers = s.trust.coreAnswers ++ (if data = none then [(2, [])] else []) := by
  refine ⟨_, (exec_systemCoreDriveAccess hc).trans (congrArg _ (driveAccess_outside h)), ?_⟩
  cases data with
  | none => exact ⟨rfl, ⟨rfl, rfl, rfl⟩, rfl⟩
  | some bs => exact ⟨rfl, ⟨rfl, rfl, rfl⟩, (List.append_nil _).symm⟩

end Windows

/-! ### The link (R467, R469) -/

section LinkChange
variable {s : State} {up : Bool} {rate width : Nat}

/-- The link trains to the rate and width that it is told. -/
def linkTrains (s : State) (up : Bool) (rate width : Nat) : Bool :=
  up && s.stor.enable && decide (1 ≤ rate) && decide (rate ≤ 6) && (width == 1 || width == 2 || width == 4 || width == 8)

theorem linkTrains_iff : linkTrains s up rate width = true ↔
    up = true ∧ s.stor.enable = true ∧ 1 ≤ rate ∧ rate ≤ 6 ∧ width ∈ [1, 2, 4, 8] := by
  simp [linkTrains, and_assoc, or_assoc]

theorem linkChange_eq (flit : Bool) : linkChange s up rate width flit =
    if linkTrains s up rate width then
      s.modStor fun x => { x with up := true, rate := rate, width := width, flit := flit, training := false }
    else s.modStor fun x => { x with up := false, rate := 0, width := 0, flit := false, training := false } := by
  unfold linkChange
  rw [← linkTrains.eq_def]
  cases linkTrains s up rate width <;> rfl

theorem storageLinkChange_spec (flit : Bool) : ∃ w, exec (.storageLinkChange up rate width flit) s = .next w ∧
    (w.mem = s.mem ∧ w.cores = s.cores ∧ w.net = s.net) ∧ w.stor.training = false ∧
    (linkTrains s up rate width = true →
      w.stor.up = true ∧ w.stor.rate = rate ∧ w.stor.width = width ∧ w.stor.flit = flit) ∧
    (linkTrains s up rate width = false →
      w.stor.up = false ∧ w.stor.rate = 0 ∧ w.stor.width = 0 ∧ w.stor.flit = false) := by
  refine ⟨_, congrArg Host.Outcome.next (linkChange_eq flit), ?_⟩
  cases linkTrains s up rate width with
  | true => exact ⟨⟨rfl, rfl, rfl⟩, rfl, fun _ => ⟨rfl, rfl, rfl, rfl⟩, nofun⟩
  | false => exact ⟨⟨rfl, rfl, rfl⟩, rfl, nofun, fun _ => ⟨rfl, rfl, rfl, rfl⟩⟩

theorem exec_storageRetrain : exec .storageRetrain s =
    .next (if s.stor.enable then { s with stor := { s.stor with training := true } } else s) := rfl

end LinkChange

/-! ### Walks that are not served in time (R253, R470) -/

section Timeouts
variable {s : State} {id : Nat} {r : PortReq} {rs : List PortReq}

theorem driveTimeout_of_nil (h : s.stor.waiting = []) : driveTimeout s id = s := by
  rw [driveTimeout, h]

theorem timeoutDue_iff (h : s.stor.waiting = r :: rs) :
    timeoutDue s id = true ↔ r.walk = some id ∧ r.since + 10000000 ≤ s.time.tick := by
  simp [timeoutDue, h]

theorem driveTimeout_of_early (h : s.stor.waiting = r :: rs)
    (hearly : r.walk ≠ some id ∨ s.time.tick < r.since + 10000000) : driveTimeout s id = s := by
  have hdue : ¬timeoutDue s id = true := fun hdue => by
    obtain ⟨hwalk, hlate⟩ := (timeoutDue_iff h).mp hdue
    exact hearly.elim (· hwalk) (by omega)
  rw [driveTimeout, h]
  exact if_neg hdue

/-- The walk is given up, and nothing waits in the storage port. -/
def walkGivenUp (s : State) (id : Nat) : State := driveClear (s.modMem fun m => { m with walks := AMap.del m.walks id })

theorem driveTimeout_of_late (h : s.stor.waiting = [r]) (hwalk : r.walk = some id)
    (hlate : r.since + 10000000 ≤ s.time.tick) : driveTimeout s id = refuseDrive (walkGivenUp s id) r 1 := by
  have hclear : (refuseDrive (walkGivenUp s id) r 1).stor.waiting = [] := by
    rw [refuseDrive_eq]
    rfl
  rw [driveTimeout, h]
  exact (if_pos ((timeoutDue_iff h).mpr ⟨hwalk, hlate⟩)).trans (driveAll_of_nil hclear)

theorem driveServiceTimeout_late (h : s.stor.waiting = [r]) (hwalk : r.walk = some id)
    (hlate : r.since + 10000000 ≤ s.time.tick) : ∃ w, exec (.driveServiceTimeout id) s = .next w ∧
      w.stor.sfaults = (s.stor.sfaults + 1) % 2 ^ 64 ∧ w.stor.waiting = [] ∧ AMap.get w.mem.walks id = none := by
  refine ⟨_, congrArg Host.Outcome.next (driveTimeout_of_late h hwalk hlate), ?_⟩
  rw [refuseDrive_eq]
  exact ⟨rfl, rfl, AMap.get_del_self ..⟩

end Timeouts

/-! ### Requests of the host (R244) -/

/-- A request without a space, or with one beyond the 65,536, is unsupported. -/
theorem hostRequest_of_no_space {s : State} {pasid : Option Nat} (h : ∀ q, pasid = some q → 65536 ≤ q) (addr : Word)
    (len : Nat) (data : Option (List Byte)) : hostRequest s pasid addr len data = answerHost s 2 [] := by
  cases pasid with
  | none => rfl
  | some p => exact if_pos (h p rfl)

/-- Settles O52: a request that finds the port empty is the only one to act; it is refused by the space it names or by the
window it reads, or is a vector that goes to the core its register names. The other events are told by their one condition. -/
theorem storageEvents : Obligations.StorageEvents := by
  intro addr len v c off rate width id cfg up flit data pasid s hc hv x k invalid request refused inside drive vector trains set
  have hinside : inside ↔ insideWindow s cfg off len = true := insideWindow_iff.symm
  have htrains : trains ↔ linkTrains s up rate width = true := linkTrains_iff.symm
  obtain ⟨w, hlink, hset, htraining, hgood, hbad⟩ := storageLinkChange_spec (s := s) (up := up) (rate := rate) (width := width) flit
  refine ⟨⟨_, rfl⟩, fun hwait hinv => ?invalid, fun hwait hk hread => ?window, fun hwait hpaths => ?vector, rfl,
    fun h => systemCoreDriveAccess_inside hc (hinside.mp h),
    fun h => systemCoreDriveAccess_outside hc (eq_false_of_ne_true (mt hinside.mpr h)), exec_storageRetrain,
    ⟨w, hlink, hset, htraining, fun h => hgood (htrains.mp h), fun h => hbad (eq_false_of_ne_true (mt htrains.mpr h))⟩,
    ⟨_, _, onUnit_of_true _ (decide_eq_true hc), rfl, rfl, rfl, rfl, rfl⟩,
    fun h => congrArg Host.Outcome.next (driveTimeout_of_nil h),
    fun r rs h hearly => congrArg Host.Outcome.next (driveTimeout_of_early h hearly),
    fun r h hwalk hlate => driveServiceTimeout_late h hwalk hlate, ⟨_, rfl⟩,
    fun h => ⟨_, congrArg Host.Outcome.next (hostRequest_of_no_space h addr len data), rfl, rfl, rfl⟩⟩
  case invalid =>
    obtain ⟨hk, hspace⟩ := hinv
    exact driveMemoryRequest_refused hwait (driveOne_of_invalid hk hspace)
  case window =>
    exact driveMemoryRequest_refused hwait ((driveOne_of_window hk).trans (driveWindow_of_read hread))
  case vector =>
    refine ⟨_, exec_driveMsix hv hwait hpaths, ?_⟩
    cases hon : vector.testBit 8 with
    | true =>
      rw [deliverMsix_of_enabled (s := driveHolds s _) hon]
      exact ⟨⟨rfl, rfl, rfl⟩, fun _ => ⟨_, rfl, rfl, rfl⟩, nofun⟩
    | false =>
      rw [deliverMsix_of_disabled (s := driveHolds s _) hon]
      exact ⟨⟨rfl, rfl, rfl⟩, nofun, fun _ => rfl⟩

end Sys2Proof.Machine

/-! PROOFS. Shoot-downs (R254, R255): what one removes from every TLB, and that it leaves the rest while no thread holds a
line. -/

namespace Sys2Proof.Machine

open Sys2Proof

/-! ### What a shoot-down removes (R254) -/

theorem hits_iff (x : Shot) (e : Tlb) : x.hits e = true ↔ Claims.shot e x.space x.ispace x.lo x.hi := by
  cases hspace : x.space <;> simp [Shot.hits, Claims.shot, hspace, and_assoc]

theorem mem_filter_not_hits (x : Shot) (l : List Tlb) (e : Tlb) :
    e ∈ l.filter (fun t => !x.hits t) ↔ e ∈ l ∧ ¬Claims.shot e x.space x.ispace x.lo x.hi := by
  rw [List.mem_filter, Bool.not_eq_true', ← Bool.not_eq_true, hits_iff]

section Controls
variable {sp n : Nat} {u : Bool} (hsp : sp < 2 ^ 16)
include hsp

/-- The fields of a control word (12 Table 9). -/
theorem shotCtrl_fields {kind : Nat} (hkind : kind < 4) (hn : n < 64) :
    fld (shotCtrl sp kind n u) 0 16 = sp ∧ fld (shotCtrl sp kind n u) 16 2 = kind ∧ fld (shotCtrl sp kind n u) 18 6 = n ∧
      (shotCtrl sp kind n u).testBit 24 = u := by
  simp only [fld, Nat.testBit_eq_decide_div_mod_eq]
  cases u
  all_goals
    simp only [shotCtrl, flagAt, if_true, Bool.false_eq_true, if_false, decide_eq_true_eq, decide_eq_false_iff_not]
    omega

theorem shotOf_page (a : Word) : shotOf a (shotCtrl sp 0 0 u) =
    { space := some sp, ispace := u, lo := a.toNat % 2 ^ 57 / 4096 * 4096, hi := a.toNat % 2 ^ 57 / 4096 * 4096 + 4096 } := by
  obtain ⟨hspace, hkind, -, hispace⟩ := shotCtrl_fields (n := 0) (u := u) hsp (kind := 0) (by omega) (by omega)
  simp only [shotOf, hspace, hkind, hispace]

/-- A range of at least a page starts where its address lies, page or not. -/
theorem shotOf_range (a : Word) (hlo : 12 ≤ n) (hhi : n ≤ 57) : shotOf a (shotCtrl sp 1 n u) =
    { space := some sp, ispace := u, lo := a.toNat % 2 ^ 57 / 2 ^ n * 2 ^ n, hi := a.toNat % 2 ^ 57 / 2 ^ n * 2 ^ n + 2 ^ n } := by
  obtain ⟨hspace, hkind, hlog, hispace⟩ := shotCtrl_fields (n := n) (u := u) hsp (kind := 1) (by omega) (by omega)
  have hpage : a.toNat % 2 ^ 57 / 4096 * 4096 / 2 ^ n = a.toNat % 2 ^ 57 / 2 ^ n := by
    obtain ⟨d, rfl⟩ := Nat.exists_eq_add_of_le hlo
    rw [Nat.pow_add, ← Nat.div_div_eq_div_mul, ← Nat.div_div_eq_div_mul, Nat.mul_div_cancel _ (by decide)]
  simp only [shotOf, hspace, hkind, hlog, hispace, hlo, hhi, and_self, if_true, hpage]

theorem shotOf_space (a : Word) : shotOf a (shotCtrl sp 2 0 u) = { space := some sp, ispace := u, lo := 0, hi := 2 ^ 57 } := by
  obtain ⟨hspace, hkind, -, hispace⟩ := shotCtrl_fields (n := 0) (u := u) hsp (kind := 2) (by omega) (by omega)
  simp only [shotOf, hspace, hkind, hispace, wholeSpace]

theorem shotOf_all (a : Word) : shotOf a (shotCtrl sp 3 0 u) = { space := none, ispace := u, lo := 0, hi := 2 ^ 57 } := by
  obtain ⟨-, hkind, -, hispace⟩ := shotCtrl_fields (n := 0) (u := u) hsp (kind := 3) (by omega) (by omega)
  simp only [shotOf, hkind, hispace, wholeSpace]

end Controls

/-! ### What it leaves -/

section Drop
variable (s : State) (x : Shot) (c : Nat)

theorem core_dropTlbs : (dropTlbs s x).core c = { s.core c with tlb := (s.core c).tlb.filter fun t => !x.hits t } :=
  AMap.getD_map s.cores (f := fun y => { y with tlb := y.tlb.filter fun t => !x.hits t }) rfl c

theorem cluster_dropTlbs : (dropTlbs s x).cluster c = { s.cluster c with
    l2 := (s.cluster c).l2.filter fun t => !x.hits t, itlb := (s.cluster c).itlb.filter fun t => !x.hits t,
    etlb := (s.cluster c).etlb.filter fun t => !x.hits t } :=
  AMap.getD_map s.clusters (f := fun y => { y with
    l2 := y.l2.filter fun t => !x.hits t, itlb := y.itlb.filter fun t => !x.hits t
    etlb := y.etlb.filter fun t => !x.hits t }) rfl c

theorem thread_dropTlbs (k : Nat) : (dropTlbs s x).thread c k = s.thread c k := by
  rw [State.thread, core_dropTlbs]
  rfl

end Drop

/-- No thread holds a line. -/
def NoneHeld (s : State) : Prop := ∀ c k, (s.thread c k).rgn.held = []

theorem rewalkHeld_of_noneHeld {s : State} (h : NoneHeld s) (x : Shot) : rewalkHeld s x = s := by
  refine foldl_inv (· = s) _ _ (fun t e _ ht => ?_) s rfl
  refine foldl_inv (· = s) _ _ (fun t q _ ht => ?_) t ht
  rw [ht, rewalkThread]
  simp only [h e.1 q.1, List.filter_nil, List.foldl_nil]

/-! ### A register set (R254) -/

section Sets
variable {s : State} {set : Nat}

/-- The register set holds a command that has not ended. -/
def shotBusy (s : State) (set : Nat) : Bool := (AMap.getD s.mgmt.shoot set ShootSet.reset).busy

/-- The register set has taken a command. -/
def shotTaken (s : State) (set : Nat) (a : Word) (ctrl : Nat) : State :=
  s.modMgmt fun g => { g with shoot := AMap.set g.shoot set { AMap.getD g.shoot set ShootSet.reset with
    addr := a, ctrl := ctrl % 2 ^ 25, busy := true } }

/-- The command of the register set has ended. -/
def shotEnded (s : State) (set : Nat) : State :=
  s.modMgmt fun g => { g with shoot := AMap.set g.shoot set { AMap.getD g.shoot set ShootSet.reset with
    busy := false, count := ((AMap.getD g.shoot set ShootSet.reset).count + 1) % 2 ^ 32 } }

theorem startShot_of_busy (hbusy : shotBusy s set = true) (a : Word) (ctrl : Nat) : startShot s set a ctrl = s := if_pos hbusy

theorem startShot_of_idle (hbusy : shotBusy s set = false) (hheld : NoneHeld s) (a : Word) (ctrl : Nat) :
    startShot s set a ctrl = dropTlbs (shotTaken s set a ctrl) (shotOf a ctrl) := by
  have hkept : NoneHeld (dropTlbs (shotTaken s set a ctrl) (shotOf a ctrl)) := fun c k => by
    rw [thread_dropTlbs]
    exact hheld c k
  exact (if_neg (by rw [← shotBusy, hbusy]; decide)).trans (rewalkHeld_of_noneHeld hkept _)

theorem endShot_of_running (h : shotBusy s set = false ∨ shotQuiet s = false) : endShot s set = s :=
  if_neg fun hboth => by
    obtain ⟨hbusy, hquiet⟩ := Bool.and_eq_true_iff.mp hboth
    exact h.elim (fun h => Bool.false_ne_true (h.symm.trans hbusy)) (fun h => Bool.false_ne_true (h.symm.trans hquiet))

theorem endShot_of_quiet (hbusy : shotBusy s set = true) (hquiet : shotQuiet s = true) (hheld : NoneHeld s) :
    endShot s set = shotEnded s set := by
  refine (if_pos (Bool.and_eq_true_iff.mpr ⟨hbusy, hquiet⟩)).trans ?_
  rw [rewalkHeld_of_noneHeld hheld]
  rfl

/-- A command that an idle register set takes removes its pages from every TLB. -/
theorem shoots_of_startShot {i : Instr} {a : Word} {ctrl : Nat} {x : Shot} (hexec : exec i s = .next (startShot s set a ctrl))
    (hx : shotOf a ctrl = x) (hbusy : shotBusy s set = false) (hheld : NoneHeld s) :
    Claims.shoots s i set x.space x.ispace x.lo x.hi := by
  subst hx
  refine ⟨_, hexec.trans (congrArg _ (startShot_of_idle hbusy hheld a ctrl)), congrArg ShootSet.busy (AMap.getD_set_self ..),
    fun c e => ?_, fun c e => ?_, fun c e => ?_, fun c e => ?_, mem_filter_not_hits _ _⟩
  · rw [core_dropTlbs]
    exact mem_filter_not_hits ..
  all_goals
    rw [cluster_dropTlbs]
    exact mem_filter_not_hits ..

end Sets

theorem shootdowns : Claims.Shootdowns := by
  intro set sp n a u s hset hsp hn hheld va all r done
  have hunit : isShootSet set = true := decide_eq_true hset
  have hpage : exec (.shootdownPage set sp a u) s = .next (startShot s set a (shotCtrl sp 0 0 u)) := onUnit_of_true _ hunit
  have hrange : exec (.shootdownRange set sp a n u) s = .next (startShot s set a (shotCtrl sp 1 n u)) := onUnit_of_true _ hunit
  have hspace : exec (.shootdownSpace set sp u) s = .next (startShot s set r.addr (shotCtrl sp 2 0 u)) := onUnit_of_true _ hunit
  have hall : exec (.shootdownAll set u) s = .next (startShot s set r.addr (shotCtrl (fld r.ctrl 0 16) 3 0 u)) :=
    onUnit_of_true _ hunit
  have hdone : done = .next (endShot s set) := onUnit_of_true _ hunit
  refine ⟨fun hidle => ⟨shoots_of_startShot hpage (shotOf_page hsp a) hidle hheld,
      fun hlo hhi => shoots_of_startShot hrange (shotOf_range hsp a hlo hhi) hidle hheld,
      shoots_of_startShot hspace (shotOf_space hsp _) hidle hheld,
      shoots_of_startShot hall (shotOf_all (Nat.mod_lt _ (by decide)) _) hidle hheld,
      hdone.trans (congrArg _ (endShot_of_running (.inl hidle)))⟩,
    fun hbusy => ⟨?_, ?_, ?_, ?_, fun h => hdone.trans (congrArg _ (endShot_of_running (.inr h))), fun h =>
      ⟨_, hdone.trans (congrArg _ (endShot_of_quiet hbusy h hheld)), congrArg ShootSet.busy (AMap.getD_set_self ..),
        congrArg ShootSet.count (AMap.getD_set_self ..), rfl, rfl⟩⟩⟩
  · exact hpage.trans (congrArg _ (startShot_of_busy hbusy ..))
  · exact hrange.trans (congrArg _ (startShot_of_busy hbusy ..))
  · exact hspace.trans (congrArg _ (startShot_of_busy hbusy ..))
  · exact hall.trans (congrArg _ (startShot_of_busy hbusy ..))

end Sys2Proof.Machine

/-! PROOFS. Walks and their service (R250, R251, R253): what a walk for a core leaves in its TLBs, which slots it wakes, and
what the answers of the resident kernel leave of the thread that waits; and O42. -/

namespace Sys2Proof.Machine

open Sys2Proof

/-! ### Entries of TLBs (R246, R250) -/

theorem head?_tlbPut {n : Nat} (hn : 0 < n) (e : Tlb) (l : List Tlb) : (tlbPut n e l).head? = some e := by
  obtain ⟨m, rfl⟩ := Nat.exists_eq_succ_of_ne_zero hn.ne'
  rfl

theorem length_tlbPut (n : Nat) (e : Tlb) (l : List Tlb) : (tlbPut n e l).length ≤ n := List.length_take_le ..

/-- The walker sets a. -/
theorem tlbOf_accessed (sp : Nat) (u : Bool) (w : Walk) (ks : Nat) (kind : WalkKind) :
    (tlbOf sp u w ks kind).attrs.testBit 6 = true := by
  cases kind
  all_goals
    rw [tlbOf, Nat.testBit_or]
    exact Bool.or_eq_true_iff.mpr (.inr (by decide))

/-- It sets d on a write. -/
theorem tlbOf_dirty (sp : Nat) (u : Bool) (w : Walk) (ks : Nat) : (tlbOf sp u w ks .write).attrs.testBit 7 = true := by
  rw [tlbOf, Nat.testBit_or]
  exact Bool.or_eq_true_iff.mpr (.inr (by decide))

/-! ### Translation for a core (R250) -/

section Translation
variable {s : State} {c sp va : Nat} {kind : WalkKind}

/-- The entry of the core's L1 TLB that serves an access. -/
def l1Entry (s : State) (c sp va : Nat) (kind : WalkKind) : Option Tlb :=
  (s.core c).tlb.find? fun e => e.serves sp false .compute kind (va % 2 ^ 57)

/-- The entry of its cluster's L2 TLB that serves it. -/
def l2Entry (s : State) (c sp va : Nat) (kind : WalkKind) : Option Tlb :=
  (s.cluster (clusterOf c)).l2.find? fun e => e.serves sp false .compute kind (va % 2 ^ 57)

/-- The walk of the access. -/
def coreWalk (s : State) (sp va : Nat) (kind : WalkKind) : Walk × Nat := walkSpace s sp false .compute kind va

/-- The entry that a successful walk gives. -/
def walkedEntry (s : State) (sp va : Nat) (kind : WalkKind) : Tlb :=
  tlbOf sp false (coreWalk s sp va kind).1 (coreWalk s sp va kind).2 kind

/-- The state with a and d at the home of a successful walk, and its entry in the L2 TLB. -/
def walkedL2 (s : State) (c sp va : Nat) (kind : WalkKind) : State :=
  (s.modMem fun m => setAD m (coreWalk s sp va kind).1 kind).modCluster (clusterOf c) fun x =>
    { x with l2 := tlbPut 2048 (walkedEntry s sp va kind) x.l2 }

/-- The state after a successful walk: the entry stands in the L1 TLB also. -/
def walked (s : State) (c sp va : Nat) (kind : WalkKind) : State :=
  (walkedL2 s c sp va kind).modCore c fun x => { x with tlb := tlbPut 64 (walkedEntry s sp va kind) x.tlb }

theorem xlateCore_of_noncanonical (h : canonical va = false) : ∃ tr, xlateCore s c sp kind va = ((6, tr), s) :=
  ⟨_, if_pos (by rw [h]; rfl)⟩

theorem xlateCore_of_l1 (h : canonical va = true) {e : Tlb} (he : l1Entry s c sp va kind = some e) :
    ∃ tr, xlateCore s c sp kind va = ((0, tr), s) := by
  rw [l1Entry] at he
  exact ⟨e.trans (va % 2 ^ 57), by simp only [xlateCore, h, he, Bool.not_true, Bool.false_eq_true, if_false]⟩

section Misses
variable (h1 : l1Entry s c sp va kind = none) (h2 : l2Entry s c sp va kind = none)
include h1 h2

theorem xlateCore_of_filled (h : canonical va = true) {e : Tlb} {t : State}
    (hfill : walkFill s (clusterOf c) sp false .compute kind va = (0, some e, t)) : xlateCore s c sp kind va =
      ((0, e.trans (va % 2 ^ 57)), t.modCore c fun x => { x with tlb := tlbPut 64 e x.tlb }) := by
  rw [l1Entry] at h1
  rw [l2Entry] at h2
  simp only [xlateCore, h, h1, h2, hfill, Bool.not_true, Bool.false_eq_true, if_false]

theorem xlateCore_of_unfilled (h : canonical va = true) {st : Nat} {t : State}
    (hfill : walkFill s (clusterOf c) sp false .compute kind va = (st, none, t)) :
    xlateCore s c sp kind va = ((st, { pa := 0, attrs := 0, keyslot := 0 }), t) := by
  rw [l1Entry] at h1
  rw [l2Entry] at h2
  simp only [xlateCore, h, h1, h2, hfill, Bool.not_true, Bool.false_eq_true, if_false]

theorem xlateCore_of_failed (h : (coreWalk s sp va kind).1.status ≠ 0) :
    ∃ st tr, st ≠ 0 ∧ xlateCore s c sp kind va = ((st, tr), s) := by
  cases hcanon : canonical va with
  | false => exact ⟨6, _, by decide, (xlateCore_of_noncanonical hcanon).choose_spec⟩
  | true =>
    have hfill : walkFill s (clusterOf c) sp false .compute kind va = ((coreWalk s sp va kind).1.status, none, s) := if_pos h
    exact ⟨_, _, h, xlateCore_of_unfilled h1 h2 hcanon hfill⟩

theorem xlateCore_of_walked (hcanon : canonical va = true) (h : (coreWalk s sp va kind).1.status = 0) :
    ∃ tr, xlateCore s c sp kind va = ((0, tr), walked s c sp va kind) := by
  have hfill : walkFill s (clusterOf c) sp false .compute kind va =
      (0, some (walkedEntry s sp va kind), walkedL2 s c sp va kind) := if_neg (not_not_intro h)
  exact ⟨_, xlateCore_of_filled h1 h2 hcanon hfill⟩

end Misses

theorem thread_walked (k : Nat) : (walked s c sp va kind).thread c k = s.thread c k :=
  State.thread_modCore _ _ _ _ _ fun _ => rfl

/-- A successful walk stands in front of both TLBs. -/
theorem tlbs_walked : ((walked s c sp va kind).core c).tlb.head? = some (walkedEntry s sp va kind) ∧
    ((walked s c sp va kind).cluster (clusterOf c)).l2.head? = some (walkedEntry s sp va kind) ∧
    ((walked s c sp va kind).core c).tlb.length ≤ 64 := by
  have hcore : ((walked s c sp va kind).core c).tlb = tlbPut 64 (walkedEntry s sp va kind) (s.core c).tlb :=
    congrArg Core.tlb (State.core_modCore_self ..)
  have hcluster : ((walkedL2 s c sp va kind).cluster (clusterOf c)).l2 =
      tlbPut 2048 (walkedEntry s sp va kind) (s.cluster (clusterOf c)).l2 := by
    rw [walkedL2, State.cluster_modCluster, if_pos rfl]
    rfl
  change _ ∧ ((walkedL2 s c sp va kind).cluster (clusterOf c)).l2.head? = _ ∧ _
  rw [hcore, hcluster]
  exact ⟨head?_tlbPut (by decide) .., head?_tlbPut (by decide) .., length_tlbPut ..⟩

end Translation

/-! ### The slots that wait for a walk (R251) -/

section Waiting
variable {s : State} {c sp va : Nat} {kind : WalkKind}

/-- What the end of a walk leaves of a thread: it is ready when it waits for that walk. -/
def wokenByWalk (sp va : Nat) (kind : WalkKind) (t : Thread) : Thread :=
  if t.status = .parked (.tlb va kind) ∧ t.place.spaceid = sp then { t with status := .ready } else t

/-- The walk ends for slot `k` of the core. -/
def wakeSlot (c sp va : Nat) (kind : WalkKind) (s : State) (k : Nat) : State :=
  if (s.thread c k).status = .parked (.tlb va kind) ∧ (s.thread c k).place.spaceid = sp then
    s.setThread c k { s.thread c k with status := .ready }
  else s

/-- The walk ends for every slot of the core. -/
def wakeSlots (c sp va : Nat) (kind : WalkKind) (s : State) : State := (List.range 4).foldl (wakeSlot c sp va kind) s

/-- Some slot of the core waits for the walk. -/
def walkAwaited (s : State) (c va : Nat) (kind : WalkKind) : Prop :=
  ∃ k, k < 4 ∧ (s.thread c k).status = .parked (.tlb va kind)

theorem thread_wakeSlot (s : State) (k j : Nat) : (wakeSlot c sp va kind s k).thread c j =
    if j = k then wokenByWalk sp va kind (s.thread c j) else s.thread c j := by
  unfold wakeSlot
  by_cases hj : j = k
  · subst hj
    rw [if_pos rfl, wokenByWalk]
    split
    · exact State.thread_setThread_self ..
    · rfl
  · rw [if_neg hj]
    split
    · exact State.thread_setThread_of_ne _ _ fun h => hj (Prod.mk.inj h).2
    · rfl

theorem wokenByWalk_wokenByWalk (t : Thread) : wokenByWalk sp va kind (wokenByWalk sp va kind t) = wokenByWalk sp va kind t := by
  by_cases h : t.status = .parked (.tlb va kind) ∧ t.place.spaceid = sp
  · have hw : wokenByWalk sp va kind t = { t with status := .ready } := if_pos h
    rw [hw]
    exact if_neg fun h => nomatch h.1
  · have hw : wokenByWalk sp va kind t = t := if_neg h
    rw [hw, hw]

theorem thread_foldl_wakeSlot (l : List Nat) (s : State) (j : Nat) : (l.foldl (wakeSlot c sp va kind) s).thread c j =
    if j ∈ l then wokenByWalk sp va kind (s.thread c j) else s.thread c j := by
  induction l generalizing s with
  | nil => rfl
  | cons k l ih =>
    rw [List.foldl_cons, ih, thread_wakeSlot]
    by_cases hk : j = k
    · simp [hk, wokenByWalk_wokenByWalk]
    · simp [hk]

theorem thread_wakeSlots (s : State) {k : Nat} (hk : k < 4) :
    (wakeSlots c sp va kind s).thread c k = wokenByWalk sp va kind (s.thread c k) :=
  (thread_foldl_wakeSlot ..).trans (if_pos (List.mem_range.mpr hk))

/-- The TLBs stay. -/
theorem tlbs_wakeSlots (s : State) : ((wakeSlots c sp va kind s).core c).tlb = (s.core c).tlb ∧
    (wakeSlots c sp va kind s).clusters = s.clusters := by
  refine foldl_inv (fun t : State => (t.core c).tlb = (s.core c).tlb ∧ t.clusters = s.clusters) _ _ ?_ s ⟨rfl, rfl⟩
  rintro t k - ⟨htlb, hclusters⟩
  unfold wakeSlot
  split
  · refine ⟨?_, hclusters⟩
    rw [← htlb, State.setThread, State.core_setCore_self]
    rfl
  · exact ⟨htlb, hclusters⟩

/-- A walk that no slot waits for wakes none, whatever it does to those that wait. -/
theorem foldl_of_unawaited {f : State → Nat → State} (h : ¬walkAwaited s c va kind)
    (hf : ∀ t k, ¬((t.thread c k).status = .parked (.tlb va kind) ∧ (t.thread c k).place.spaceid = sp) → f t k = t) :
    (List.range 4).foldl f s = s := by
  refine foldl_inv (· = s) _ _ (fun t k hk ht => ?_) s rfl
  rw [ht]
  exact hf s k fun hwaits => h ⟨k, List.mem_range.mp hk, hwaits.1⟩

/-! ### A walker that finds no miss listed (R251) -/

section Serving
variable (hmisses : (s.die (dieOf c)).misses = []) (hroutines : (s.die (dieOf c)).routines.isSome = true)

theorem serveMiss_of_unloaded (h : (s.die (dieOf c)).routines = none) : serveMiss s c sp va kind = s :=
  if_pos (by rw [h]; exact Bool.or_true _)

include hmisses hroutines

theorem serveMiss_of_translated {tr : Trans} {t : State} (hx : xlateCore s c sp kind va = ((0, tr), t)) :
    serveMiss s c sp va kind = wakeSlots c sp va kind t := by
  have hloaded : (s.die (dieOf c)).routines.isNone = false := Option.isNone_eq_false_iff.mpr hroutines
  simp only [serveMiss, hmisses, hloaded, List.any_nil, Bool.false_and, Bool.false_or, Bool.false_eq_true, if_false, hx,
    List.find?_nil, Option.bind_none]
  rfl

theorem serveMiss_of_failed {st : Nat} {tr : Trans} (hx : xlateCore s c sp kind va = ((st, tr), s)) (hst : st ≠ 0)
    (hnone : ¬walkAwaited s c va kind) : serveMiss s c sp va kind = s := by
  obtain ⟨n, rfl⟩ := Nat.exists_eq_succ_of_ne_zero hst
  have hloaded : (s.die (dieOf c)).routines.isNone = false := Option.isNone_eq_false_iff.mpr hroutines
  simp only [serveMiss, hmisses, hloaded, List.any_nil, Bool.false_and, Bool.false_or, Bool.false_eq_true, if_false, hx,
    List.find?_nil, Option.bind_none]
  exact foldl_of_unawaited hnone fun t k hidle => if_neg hidle

end Serving

end Waiting

/-! ### The event of a walk -/

section Event
variable {s : State} {c sp : Nat} {va : Word} {kind : WalkKind} (hcore : isCore c = true) (hkind : kind ∈ [WalkKind.read, .write])
include hcore hkind

theorem exec_tlbWalk : exec (.tlbWalk c sp va kind) s = .next (serveMiss s c sp va.toNat kind) := by
  refine (onUnit_of_true _ hcore).trans (congrArg _ ?_)
  cases kind with
  | read | write => rfl
  | fill => simp at hkind

theorem tlbWalk_idles_unloaded (h : (s.die (dieOf c)).routines = none) : Claims.idles s (.tlbWalk c sp va kind) :=
  (exec_tlbWalk hcore hkind).trans (congrArg _ (serveMiss_of_unloaded h))

variable (hmisses : (s.die (dieOf c)).misses = [])
include hmisses

/-- A translation that changes nothing makes a walk that no slot waits for change nothing. -/
theorem tlbWalk_idles {st : Nat} {tr : Trans} (hnone : ¬walkAwaited s c va.toNat kind)
    (hx : xlateCore s c sp kind va.toNat = ((st, tr), s)) : Claims.idles s (.tlbWalk c sp va kind) := by
  cases hroutines : (s.die (dieOf c)).routines with
  | none => exact tlbWalk_idles_unloaded hcore hkind hroutines
  | some r =>
    have hloaded : (s.die (dieOf c)).routines.isSome = true := by rw [hroutines]; rfl
    refine (exec_tlbWalk hcore hkind).trans (congrArg _ ?_)
    by_cases hst : st = 0
    · subst hst
      rw [serveMiss_of_translated hmisses hloaded hx]
      exact foldl_of_unawaited hnone fun t k hidle => if_neg hidle
    · exact serveMiss_of_failed hmisses hloaded hx hst hnone

theorem tlbWalk_fills {k : Nat} (hk : k < 4) (hloaded : (s.die (dieOf c)).routines.isSome = true)
    (hcanon : canonical va.toNat = true) (h1 : l1Entry s c sp va.toNat kind = none) (h2 : l2Entry s c sp va.toNat kind = none)
    (hdone : (coreWalk s sp va.toNat kind).1.status = 0) :
    ∃ w e, exec (.tlbWalk c sp va kind) s = .next w ∧ (w.core c).tlb.head? = some e ∧
      (w.cluster (clusterOf c)).l2.head? = some e ∧ e.space = sp ∧ e.ispace = false ∧
      e.vbase = (coreWalk s sp va.toNat kind).1.vbase ∧ e.pbase = (coreWalk s sp va.toNat kind).1.pbase ∧
      e.size = (coreWalk s sp va.toNat kind).1.size ∧ e.attrs.testBit 6 = true ∧
      (kind = .write → e.attrs.testBit 7 = true) ∧ (w.core c).tlb.length ≤ 64 ∧
      w.thread c k = wokenByWalk sp va.toNat kind (s.thread c k) := by
  obtain ⟨tr, hx⟩ := xlateCore_of_walked h1 h2 hcanon hdone
  obtain ⟨htlb, hclusters⟩ := tlbs_wakeSlots (c := c) (sp := sp) (va := va.toNat) (kind := kind) (walked s c sp va.toNat kind)
  obtain ⟨hl1, hl2, hlen⟩ := tlbs_walked (s := s) (c := c) (sp := sp) (va := va.toNat) (kind := kind)
  refine ⟨_, walkedEntry s sp va.toNat kind,
    (exec_tlbWalk hcore hkind).trans (congrArg _ (serveMiss_of_translated hmisses hloaded hx)), ?_, ?_, rfl, rfl, rfl, rfl, rfl,
    tlbOf_accessed .., ?_, ?_, ?_⟩
  · rw [htlb, hl1]
  · rw [State.cluster, hclusters]
    exact hl2
  · rintro rfl
    exact tlbOf_dirty ..
  · rw [htlb]
    exact hlen
  · rw [thread_wakeSlots _ hk, thread_walked]

end Event

/-! ### The answers of the resident kernel (R253) -/

section Service
variable {s : State} {c k id : Nat} {r : WalkReq}

theorem releaseWalk_of_none (h : AMap.get s.mem.walks id = none) : releaseWalk s id = s := by rw [releaseWalk, h]

theorem declineWalk_of_none (h : AMap.get s.mem.walks id = none) : declineWalk s id = s := by rw [declineWalk, h]

/-- The request is served. -/
def walkServed (s : State) (id : Nat) : State := s.modMem fun m => { m with walks := AMap.del m.walks id }

/-- The walk service answers a thread: it is ready when it waits for that request. -/
def wokenByService (id : Nat) (t : Thread) : Thread := if t.status = .parked (.walk id) then { t with status := .ready } else t

/-- The walk of a thread that waits for the request is declined. -/
def declinedBy (id : Nat) (r : WalkReq) (t : Thread) : Thread :=
  if t.status = .parked (.walk id) then { t with declined := some (r.va, r.status) } else t

theorem wokenByService_declinedBy (t : Thread) : wokenByService id (declinedBy id r t) =
    if t.status = .parked (.walk id) then { t with status := .ready, declined := some (r.va, r.status) } else t := by
  by_cases h : t.status = .parked (.walk id)
  · have hd : declinedBy id r t = { t with declined := some (r.va, r.status) } := if_pos h
    rw [hd, if_pos h]
    exact if_pos h
  · have hd : declinedBy id r t = t := if_neg h
    rw [hd, if_neg h]
    exact if_neg h

variable (hslot : isSlot c k = true) (hget : AMap.get s.mem.walks id = some r) (hissuer : r.issuer = 4 * c + k)
include hslot hissuer

/-- The issuer of the request is the thread of the slot (log 11). -/
theorem issuer_slot : r.issuer < 16384 ∧ r.issuer / 4 = c ∧ r.issuer % 4 = k := by
  obtain ⟨hc, hk⟩ := Bool.and_eq_true_iff.mp hslot
  have hc : c < 4096 := of_decide_eq_true hc
  have hk : k < 4 := of_decide_eq_true hk
  omega

theorem resumeIssuer_thread : resumeIssuer s id r.issuer = s.modThread c k (wokenByService id) := by
  obtain ⟨hlt, hcore, hthread⟩ := issuer_slot hslot hissuer
  refine (if_pos hlt).trans ?_
  rw [hcore, hthread]
  rfl

include hget

theorem releaseWalk_thread : releaseWalk s id = (walkServed s id).modThread c k (wokenByService id) := by
  rw [releaseWalk, hget]
  exact resumeIssuer_thread hslot hissuer

theorem declineWalk_thread : declineWalk s id =
    ((walkServed s id).modThread c k (declinedBy id r)).modThread c k (wokenByService id) := by
  obtain ⟨hlt, hcore, hthread⟩ := issuer_slot hslot hissuer
  rw [declineWalk, hget]
  simp only [if_pos hlt]
  rw [resumeIssuer_thread hslot hissuer, hcore, hthread]
  rfl

end Service

theorem walksAndService : Claims.WalksAndService := by
  intro c k sp id va r s hc hk v l1 l2 misses walk t die awaited
  have hcore := isCore_of_lt hc
  have hslot := isSlot_of_lt hc hk
  have hl1 (kind : WalkKind) (h : misses kind) : l1Entry s c sp va.toNat kind = none :=
    List.find?_eq_none.mpr fun e he => Bool.eq_false_iff.mp (h.1 e he)
  have hl2 (kind : WalkKind) (h : misses kind) : l2Entry s c sp va.toNat kind = none :=
    List.find?_eq_none.mpr fun e he => Bool.eq_false_iff.mp (h.2 e he)
  refine ⟨fun kind hkind => ⟨fun h => tlbWalk_idles_unloaded hcore hkind h, fun hmisses hnone =>
      ⟨fun hcanon => ?noncanonical, fun hcanon hhit => ?hit, fun hmiss hfail => ?failed⟩,
      fun hloaded hmisses hcanon hmiss hdone =>
        tlbWalk_fills hcore hkind hmisses hk hloaded hcanon (hl1 kind hmiss) (hl2 kind hmiss) hdone⟩,
    fun h => ⟨congrArg Host.Outcome.next (releaseWalk_of_none h), congrArg Host.Outcome.next (declineWalk_of_none h)⟩,
    fun hget hissuer => ⟨?release, ?decline⟩⟩
  case noncanonical =>
    obtain ⟨tr, hx⟩ := xlateCore_of_noncanonical (s := s) (c := c) (sp := sp) (kind := kind) hcanon
    exact tlbWalk_idles hcore hkind hmisses hnone hx
  case hit =>
    obtain ⟨e, he⟩ := Option.isSome_iff_exists.mp (List.find?_isSome.mpr hhit)
    obtain ⟨tr, hx⟩ := xlateCore_of_l1 hcanon he
    exact tlbWalk_idles hcore hkind hmisses hnone hx
  case failed =>
    obtain ⟨st, tr, -, hx⟩ := xlateCore_of_failed (hl1 kind hmiss) (hl2 kind hmiss) hfail
    exact tlbWalk_idles hcore hkind hmisses hnone hx
  case release =>
    refine ⟨_, congrArg Host.Outcome.next (releaseWalk_thread hslot hget hissuer), AMap.get_del_self .., ?_⟩
    rw [State.thread_modThread_self]
    rfl
  case decline =>
    refine ⟨_, congrArg Host.Outcome.next (declineWalk_thread hslot hget hissuer), AMap.get_del_self .., ?_⟩
    rw [State.thread_modThread_self, State.thread_modThread_self]
    exact wokenByService_declinedBy _

/-- Settles O42: no thread holds a line that a shoot-down would walk again, so it only filters the TLBs; a walk is the
translation of its access, and then wakes the slots that wait for it. That a walked entry stands in front of the others is
log 25, when a shoot-down ends log 44. -/
theorem shootdownsAndWalks : Obligations.ShootdownsAndWalks := ⟨shootdowns, walksAndService⟩

end Sys2Proof.Machine

/-! PROOFS. Lines at their homes (M6, R242, R282): what a masked write under a key leaves of the bytes of its line and of
every other line. -/

namespace Sys2Proof.Machine

open Sys2Proof

/-! ### Parts of byte strings (R2) -/

theorem drop_toBytes (i n x : Nat) : (toBytes (i + n) x).drop i = toBytes n (x / 256 ^ i) := by
  induction i generalizing x with
  | zero => rw [Nat.zero_add, pow_zero, Nat.div_one, List.drop_zero]
  | succ i ih => rw [Nat.succ_add, toBytes, List.drop_succ_cons, ih, Nat.div_div_eq_div_mul, pow_succ, Nat.mul_comm]

theorem take_toBytes (n m x : Nat) : (toBytes (n + m) x).take n = toBytes n x := by
  induction n generalizing x with
  | zero => rfl
  | succ n ih => rw [Nat.succ_add, toBytes, List.take_succ_cons, ih, toBytes]

/-- A part of a number's bytes. -/
theorem slice_toBytes (x : Nat) {i n k : Nat} (h : i + n ≤ k) :
    ((toBytes k x).drop i).take n = toBytes n (x / 256 ^ i) := by
  obtain ⟨j, rfl⟩ := Nat.exists_eq_add_of_le h
  rw [Nat.add_assoc, drop_toBytes, take_toBytes]

theorem toBytes_ofBytes (l : List Byte) : toBytes l.length (ofBytes l) = l := by
  induction l with
  | nil => rfl
  | cons b l ih =>
    have hlow : BitVec.ofNat 8 (b.toNat + 256 * ofBytes l) = b := by
      apply BitVec.eq_of_toNat_eq
      rw [BitVec.toNat_ofNat]
      omega
    have hhigh : (b.toNat + 256 * ofBytes l) / 256 = ofBytes l := by omega
    rw [List.length_cons, toBytes, ofBytes, hlow, hhigh, ih]

theorem ofBytes_lt (l : List Byte) : ofBytes l < 256 ^ l.length := by
  induction l with
  | nil => decide
  | cons b l ih =>
    rw [ofBytes, List.length_cons, pow_succ]
    omega

theorem Cells.drop_getN (m : List Host.Cell) (a i n : Nat) : (Cells.getN m a (i + n)).drop i = Cells.getN m (a + i) n := by
  induction i generalizing a with
  | zero => rw [Nat.zero_add, List.drop_zero, Nat.add_zero]
  | succ i ih => rw [Nat.succ_add, Cells.getN, List.drop_succ_cons, ih, Nat.add_assoc, Nat.add_comm 1]

theorem Cells.take_getN (m : List Host.Cell) (a n k : Nat) : (Cells.getN m a (n + k)).take n = Cells.getN m a n := by
  induction n generalizing a with
  | zero => rfl
  | succ n ih => rw [Nat.succ_add, Cells.getN, List.take_succ_cons, ih, Cells.getN]

/-- A part of a memory's bytes. -/
theorem Cells.slice_getN (m : List Host.Cell) (a : Nat) {i n k : Nat} (h : i + n ≤ k) :
    ((Cells.getN m a k).drop i).take n = Cells.getN m (a + i) n := by
  obtain ⟨j, rfl⟩ := Nat.exists_eq_add_of_le h
  rw [Nat.add_assoc, Cells.drop_getN, Cells.take_getN]

/-! ### A line as a key reads it (R242) -/

section Line
variable {m : Memory} {hl key : Nat}

/-- Bytes of a line are a part of its 64. -/
theorem lineBytes_eq_slice (m : Memory) (hl key : Nat) {i n : Nat} (h : i + n ≤ 64) :
    m.lineBytes hl key i n = ((toBytes 64 (m.line hl key)).drop i).take n :=
  (slice_toBytes _ h).symm

/-- The line stands under the key and its generation. -/
def StandsUnder (m : Memory) (hl key : Nat) : Prop := AMap.get m.keys hl = some (key, m.gen key)

theorem StandsUnder.bytes (h : StandsUnder m hl key) : toBytes 64 (m.line hl key) = Cells.getN m.dram (hl * 64) 64 := by
  have hline : m.line hl key = ofBytes (Cells.getN m.dram (hl * 64) 64) := by
    rw [Memory.line, h]
    exact if_pos ⟨rfl, rfl⟩
  have hall := toBytes_ofBytes (Cells.getN m.dram (hl * 64) 64)
  rwa [Cells.length_getN, ← hline] at hall

theorem StandsUnder.lineBytes (h : StandsUnder m hl key) {i n : Nat} (hin : i + n ≤ 64) :
    m.lineBytes hl key i n = Cells.getN m.dram (hl * 64 + i) n := by
  rw [lineBytes_eq_slice _ _ _ hin, h.bytes, Cells.slice_getN _ _ hin]

/-! ### Making a line readable under a key -/

theorem retag_of_standsUnder (h : StandsUnder m hl key) : m.retag hl key = m := by
  rw [Memory.retag, h]
  exact if_pos ⟨rfl, rfl⟩

/-- What a change of key can do: nothing to a line that stands under it, nothing to the bytes of a line under none, and
bytes as the key read them otherwise. -/
theorem retag_cases (m : Memory) (hl key : Nat) :
    (StandsUnder m hl key ∧ m.retag hl key = m) ∨
    (AMap.get m.keys hl = none ∧ m.retag hl key = { m with keys := AMap.set m.keys hl (key, m.gen key) }) ∨
    ∃ bs, bs = toBytes 64 (m.line hl key) ∧ m.retag hl key =
      { m with dram := Cells.putN m.dram (hl * 64) bs, keys := AMap.set m.keys hl (key, m.gen key) } := by
  cases hkey : AMap.get m.keys hl with
  | none => exact .inr (.inl ⟨rfl, by rw [Memory.retag, hkey]⟩)
  | some e =>
    obtain ⟨k, g⟩ := e
    by_cases hsame : k = key ∧ g = m.gen key
    · obtain ⟨rfl, rfl⟩ := hsame
      exact .inl ⟨hkey, retag_of_standsUnder hkey⟩
    · exact .inr (.inr ⟨_, rfl, by rw [Memory.retag, hkey]; exact if_neg hsame⟩)

theorem standsUnder_retag (m : Memory) (hl key : Nat) : StandsUnder (m.retag hl key) hl key := by
  obtain ⟨h, heq⟩ | ⟨-, heq⟩ | ⟨bs', hbs, heq⟩ := retag_cases m hl key
  · rwa [heq]
  all_goals
    rw [heq]
    exact AMap.get_set_self ..

/-- The key reads the same bytes before and after. -/
theorem lineBytes_retag (hwf : Cells.wf m.dram = true) {i n : Nat} (h : i + n ≤ 64) :
    (m.retag hl key).lineBytes hl key i n = m.lineBytes hl key i n := by
  have hunder := (standsUnder_retag m hl key).bytes
  rw [lineBytes_eq_slice _ _ _ h, lineBytes_eq_slice _ _ _ h]
  obtain ⟨-, heq⟩ | ⟨hnone, heq⟩ | ⟨bs', hbs, heq⟩ := retag_cases m hl key
  · rw [heq]
  · have hraw := toBytes_ofBytes (Cells.getN m.dram (hl * 64) 64)
    rw [Cells.length_getN] at hraw
    rw [hunder, heq, Memory.line, hnone, hraw]
  · have hput := Cells.getN_putN_self m.dram (hl * 64) bs' hwf
    have hlen : bs'.length = 64 := by rw [hbs, length_toBytes]
    rw [hlen] at hput
    rw [hunder, heq, hput, hbs]

theorem dram_retag_outside (hwf : Cells.wf m.dram = true) {x : Nat} (h : x < hl * 64 ∨ hl * 64 + 64 ≤ x) :
    Cells.get (m.retag hl key).dram x = Cells.get m.dram x := by
  obtain ⟨-, heq⟩ | ⟨-, heq⟩ | ⟨bs', hbs, heq⟩ := retag_cases m hl key
  · rw [heq]
  · rw [heq]
  · rw [heq]
    exact Cells.get_putN_outside _ _ _ _ hwf (by rwa [hbs, length_toBytes])

/-! ### Writes at the home (R241) -/

theorem write_retag (off : Nat) (bs : List Byte) : (m.retag hl key).write hl key off bs = m.write hl key off bs := by
  rw [Memory.write, retag_of_standsUnder (standsUnder_retag m hl key)]
  rfl

theorem standsUnder_write (m : Memory) (hl key off : Nat) (bs : List Byte) : StandsUnder (m.write hl key off bs) hl key :=
  standsUnder_retag m hl key

theorem StandsUnder.dram_write (h : StandsUnder m hl key) (off : Nat) (bs : List Byte) :
    (m.write hl key off bs).dram = Cells.putN m.dram (hl * 64 + off) bs := by
  rw [Memory.write_dram, retag_of_standsUnder h]

/-- A masked write of consecutive bytes to a line under its key writes them one after another. -/
theorem StandsUnder.writes (h : StandsUnder m hl key) (off : Nat) (bs : List Byte) :
    StandsUnder (m.writeMask hl key (byteMap off bs)) hl key ∧
      (m.writeMask hl key (byteMap off bs)).dram = Cells.putN m.dram (hl * 64 + off) bs := by
  induction bs generalizing m off with
  | nil => exact ⟨h, rfl⟩
  | cons b bs ih =>
    obtain ⟨hunder, hdram⟩ := ih (standsUnder_write m hl key off [b]) (off + 1)
    exact ⟨hunder, hdram.trans (by rw [h.dram_write]; rfl)⟩

theorem writeMask_retag (off : Nat) (b : Byte) (bs : List Byte) :
    (m.retag hl key).writeMask hl key (byteMap off (b :: bs)) = m.writeMask hl key (byteMap off (b :: bs)) := by
  simp only [Memory.writeMask, byteMap, List.foldl_cons, write_retag]

/-- A masked write changes only bytes, keys, the slices and poison. -/
theorem writeMask_eq (m : Memory) (hl key : Nat) (bs : AMap Byte) : ∃ dram keys slice poison,
    m.writeMask hl key bs = { m with dram := dram, keys := keys, slice := slice, poison := poison } := by
  have hfold : ∃ dram keys slice poison, bs.foldl (fun m e => m.write hl key e.1 [e.2]) m =
      { m with dram := dram, keys := keys, slice := slice, poison := poison } := by
    refine foldl_inv (fun n : Memory => ∃ dram keys slice poison,
      n = { m with dram := dram, keys := keys, slice := slice, poison := poison }) _ bs ?_ m ⟨_, _, _, _, rfl⟩
    rintro _ e - ⟨dram, keys, slice, poison, rfl⟩
    obtain ⟨-, heq⟩ | ⟨-, heq⟩ | ⟨bs', hbs, heq⟩ :=
      retag_cases { m with dram := dram, keys := keys, slice := slice, poison := poison } hl key
    all_goals
      rw [Memory.write, heq]
      exact ⟨_, _, _, _, rfl⟩
  obtain ⟨_, _, _, _, hfold⟩ := hfold
  rw [Memory.writeMask, hfold]
  exact ⟨_, _, _, _, rfl⟩

/-- A masked write under a key: the line reads there as written and elsewhere as before, and other lines keep their bytes. -/
theorem writeMask_spec (hwf : m.wf = true) {off : Nat} {bs : List Byte} (hfits : off + bs.length ≤ 64) :
    (m.writeMask hl key (byteMap off bs)).lineBytes hl key off bs.length = bs ∧
    (∀ x, x < 64 * hl ∨ 64 * hl + 64 ≤ x →
      Cells.get (m.writeMask hl key (byteMap off bs)).dram x = Cells.get m.dram x) ∧
    ∀ i, i < 64 → i < off ∨ off + bs.length ≤ i →
      (m.writeMask hl key (byteMap off bs)).lineBytes hl key i 1 = m.lineBytes hl key i 1 := by
  cases bs with
  | nil => exact ⟨rfl, fun _ _ => rfl, fun _ _ _ => rfl⟩
  | cons b bs =>
    obtain ⟨hdramWf, -⟩ := (Memory.wf_iff _).mp hwf
    obtain ⟨hretagWf, -⟩ := (Memory.wf_iff _).mp (Memory.wf_retag m hl key hwf)
    obtain ⟨hunder, hdram⟩ := (standsUnder_retag m hl key).writes off (b :: bs)
    rw [writeMask_retag] at hunder hdram
    refine ⟨?_, fun x hx => ?_, fun i hi hout => ?_⟩
    · rw [hunder.lineBytes hfits, hdram]
      exact Cells.getN_putN_self _ _ _ hretagWf
    · rw [hdram, Cells.get_putN_outside _ _ _ _ hretagWf (by omega), dram_retag_outside hdramWf (by omega)]
    · rw [hunder.lineBytes hi, hdram, Cells.getN_putN_disjoint _ _ _ _ _ hretagWf (by omega),
        ← (standsUnder_retag m hl key).lineBytes hi, lineBytes_retag hdramWf hi]

end Line

end Sys2Proof.Machine

/-! PROOFS. Write queues and paths (R381, R382; M5, M6): the packet that the oldest write of a thread becomes, and what the
home makes of the head of a path. -/

namespace Sys2Proof.Machine

open Sys2Proof

/-! ### Packets on a path (R380) -/

/-- The path without its head. -/
def pathPopped (m : Memory) (key : Nat) (ps : List Packet) : Memory :=
  { m with paths := if ps.isEmpty then AMap.del m.paths key else AMap.set m.paths key ps }

theorem path_pathPopped (m : Memory) (key : Nat) (ps : List Packet) : (pathPopped m key ps).path key = ps := by
  cases ps with
  | nil =>
    rw [Memory.path, AMap.getD]
    simp [pathPopped]
  | cons p ps => exact AMap.getD_set_self ..

theorem path_send (m : Memory) (key : Nat) (p : Packet) : (m.send key p).path key = m.path key ++ [p] :=
  AMap.getD_set_self ..

theorem pathKey_dst {dst idx : Nat} (src : Nat) (hdst : dst < 16) (hidx : idx < 4) : pathKey src dst idx / 4 % 16 = dst := by
  rw [pathKey]
  omega

/-- What a home that performs a version leaves: that version of its line. -/
theorem perform_spec (m : Memory) (hl : Nat) (v : Option Nat) : ∃ lines, m.perform hl v = { m with lines := lines } ∧
    ∀ n, v = some n → (AMap.getD lines hl HomeLine.reset).performed = n := by
  cases v with
  | none => exact ⟨_, rfl, nofun⟩
  | some n => exact ⟨_, rfl, fun k hk => by rw [AMap.getD_set_self, Option.some.inj hk]⟩

/-! ### The head of a path (M6) -/

section Head
variable {s : State} {key : Nat} {p : Packet} {ps : List Packet}

theorem canPerform_of_nil (h : s.mem.path key = []) : canPerform s key = false := by rw [canPerform, h]

theorem canPerform_of_held (h : 4 ≤ (s.die (key / 4 % 16)).phase) : canPerform s key = false := by
  have hheld : dieHeld s (key / 4 % 16) = true := decide_eq_true h
  unfold canPerform
  split
  · rfl
  · rw [hheld, Bool.not_true, Bool.and_false]

/-- The head of a path performs when its version is due and its home die runs. -/
theorem canPerform_iff (h : s.mem.path key = p :: ps) (hphase : (s.die (key / 4 % 16)).phase < 4) :
    canPerform s key = true ↔ ∀ v, p.version = some v → v = (s.mem.hline p.line).performed + 1 := by
  have hopen : dieHeld s (key / 4 % 16) = false := decide_eq_false (by omega)
  cases hv : p.version with
  | none => simp [canPerform, h, hv, hopen]
  | some v => simp [canPerform, h, hv, hopen]

/-- The memory in which the head's effect takes place. -/
def headTaken (s : State) (key : Nat) (p : Packet) (ps : List Packet) : Memory :=
  (pathPopped s.mem key ps).perform p.line p.version

theorem mem_nearPerform (s : State) (p : Packet) (key : Nat) : (nearPerform s p key).mem = s.mem := by
  unfold nearPerform
  split
  · rfl
  · cases p.op with
    | marker => rfl
    | reduce => rfl
    | write bs =>
      refine foldl_inv (fun t : State => t.mem = s.mem) _ _ (fun t q _ ht => ?_) _ rfl
      cases q.op <;> exact ht

theorem performHead_write (h : s.mem.path key = p :: ps) {bs : AMap Byte} (hop : p.op = .write bs) :
    (performHead s key).mem = (headTaken s key p ps).writeMask p.line p.key (landing s p bs) := by
  rw [performHead, h]
  simp only [hop]
  exact mem_nearPerform ..

theorem performHead_marker (h : s.mem.path key = p :: ps) (hop : p.op = .marker) : (performHead s key).mem =
    { headTaken s key p ps with
      gathered := AMap.set (headTaken s key p ps).gathered p.writer
        (AMap.getD (headTaken s key p ps).gathered p.writer 0 + 1) } := by
  rw [performHead, h]
  simp only [hop]
  rfl

theorem mem_byteMap {off : Nat} {bs : List Byte} {e : Nat × Byte} (h : e ∈ byteMap off bs) :
    ∃ i, i < bs.length ∧ e.1 = off + i := by
  induction bs generalizing off with
  | nil => cases h
  | cons b bs ih =>
    obtain rfl | h := List.mem_cons.mp h
    · exact ⟨0, Nat.succ_pos _, rfl⟩
    · obtain ⟨i, hi, heq⟩ := ih h
      exact ⟨i + 1, Nat.succ_lt_succ hi, by rw [heq]; omega⟩

/-- Bytes that no unit holds, and all of the dispatcher's, land at the home (R37, R38). -/
theorem landing_byteMap {off : Nat} {bs : List Byte}
    (h : p.writer = dispWriter ∨ ∀ i, i < bs.length → deviceHeld s (p.line * 64 + off + i) = false) :
    landing s p (byteMap off bs) = byteMap off bs := by
  rw [landing]
  split
  · rfl
  · next hdisp =>
    refine List.filter_eq_self.mpr fun e he => ?_
    obtain ⟨i, hi, heq⟩ := mem_byteMap he
    rw [heq, ← Nat.add_assoc, h.resolve_left hdisp i hi]
    rfl

end Head

/-! ### The event of a path (R382) -/

section Paths
variable {s : State} {src dst idx : Nat} (hsrc : src < 16) (hdst : dst < 16) (hidx : idx < 4)
include hsrc hdst hidx

theorem exec_pathPerform : exec (.pathPerform src dst idx) s =
    .next (if canPerform s (pathKey src dst idx) then performHead s (pathKey src dst idx) else s) :=
  onUnit_of_true _ (by simp [isDie, Config.dies, hsrc, hdst, hidx])

theorem pathPerform_idles (h : canPerform s (pathKey src dst idx) = false) : Claims.idles s (.pathPerform src dst idx) := by
  rw [Claims.idles, exec_pathPerform hsrc hdst hidx, h]
  rfl

theorem pathPerform_performs (h : canPerform s (pathKey src dst idx) = true) :
    exec (.pathPerform src dst idx) s = .next (performHead s (pathKey src dst idx)) := by
  rw [exec_pathPerform hsrc hdst hidx, h]
  rfl

variable {p : Packet} {ps : List Packet} (hpath : s.mem.path (pathKey src dst idx) = p :: ps)
  (hcan : canPerform s (pathKey src dst idx) = true)
include hpath hcan

/-- A write at its home: the line reads as written there, and elsewhere as before. -/
theorem pathPerform_write (hwf : s.mem.wf = true) {off : Nat} {bs : List Byte} (hop : p.op = .write (byteMap off bs))
    (hfits : off + bs.length ≤ 64)
    (hfree : p.writer = dispWriter ∨ ∀ i, i < bs.length → deviceHeld s (p.line * 64 + off + i) = false) :
    ∃ w, exec (.pathPerform src dst idx) s = .next w ∧ w.mem.path (pathKey src dst idx) = ps ∧
      w.mem.lineBytes p.line p.key off bs.length = bs ∧
      (∀ x, x < 64 * p.line ∨ 64 * p.line + 64 ≤ x → Cells.get w.mem.dram x = Cells.get s.mem.dram x) ∧
      (∀ i, i < 64 → i < off ∨ off + bs.length ≤ i →
        w.mem.lineBytes p.line p.key i 1 = s.mem.lineBytes p.line p.key i 1) ∧
      ∀ v, p.version = some v → (w.mem.hline p.line).performed = v := by
  refine ⟨_, pathPerform_performs hsrc hdst hidx hcan, ?_⟩
  rw [performHead_write hpath hop, landing_byteMap hfree]
  obtain ⟨lines, htaken, hperformed⟩ := perform_spec (pathPopped s.mem (pathKey src dst idx) ps) p.line p.version
  obtain ⟨dram, keys, slice, poison, hmask⟩ :=
    writeMask_eq (headTaken s (pathKey src dst idx) p ps) p.line p.key (byteMap off bs)
  have hpopped : ((headTaken s (pathKey src dst idx) p ps).writeMask p.line p.key (byteMap off bs)).path
      (pathKey src dst idx) = ps := by
    rw [hmask, headTaken, htaken]
    exact path_pathPopped ..
  have hline : ∀ v, p.version = some v →
      (((headTaken s (pathKey src dst idx) p ps).writeMask p.line p.key (byteMap off bs)).hline p.line).performed = v := by
    rw [hmask, headTaken, htaken]
    exact hperformed
  have hwf' : (headTaken s (pathKey src dst idx) p ps).wf = true := by rw [headTaken, htaken]; exact hwf
  obtain ⟨hread, hdram, hrest⟩ := writeMask_spec (hl := p.line) (key := p.key) hwf' hfits
  refine ⟨hpopped, hread, fun x hx => (hdram x hx).trans ?_, fun i hi hout => (hrest i hi hout).trans ?_, hline⟩
  all_goals
    rw [headTaken, htaken]
    rfl

/-- A release marker at its home is gathered. -/
theorem pathPerform_marker (hop : p.op = .marker) : ∃ w, exec (.pathPerform src dst idx) s = .next w ∧
    w.mem.path (pathKey src dst idx) = ps ∧ w.mem.dram = s.mem.dram ∧
    AMap.getD w.mem.gathered p.writer 0 = AMap.getD s.mem.gathered p.writer 0 + 1 := by
  refine ⟨_, pathPerform_performs hsrc hdst hidx hcan, ?_⟩
  obtain ⟨lines, htaken, -⟩ := perform_spec (pathPopped s.mem (pathKey src dst idx) ps) p.line p.version
  rw [performHead_marker hpath hop, headTaken, htaken]
  exact ⟨path_pathPopped .., rfl, AMap.getD_set_self ..⟩

end Paths

/-! ### The oldest write of a thread (R381; M5) -/

section Queue
variable {s : State} {c k : Nat} {q : QWrite} {qs : List QWrite} {bs : List Byte}

theorem exec_wqDispatch (hc : c < 4096) (hk : k < 4) : exec (.wqDispatch (4 * c + k)) s = .next (dispatchOldest s c k) := by
  refine (onUnit_of_true _ (decide_eq_true (by omega))).trans ?_
  rw [show (4 * c + k) / 4 = c by omega, show (4 * c + k) % 4 = k by omega]

theorem dispatchOldest_of_nil (h : (s.thread c k).wq = []) : dispatchOldest s c k = s := by rw [dispatchOldest, h]

/-- The oldest write has left its queue. -/
def wqTaken (s : State) (c k : Nat) (qs : List QWrite) : State := s.modThread c k fun t => { t with wq := qs }

theorem dispatchOldest_of_cons (h : (s.thread c k).wq = q :: qs) :
    dispatchOldest s c k = dispatchWrite (wqTaken s c k qs) c k q := by
  rw [dispatchOldest, h]
  rfl

theorem wq_wqTaken (s : State) (c k : Nat) (qs : List QWrite) : ((wqTaken s c k qs).thread c k).wq = qs := by
  rw [wqTaken, State.thread_modThread_self]

/-- The version that a write to a line takes, on a checked page, and the memory that has committed it (M5). -/
def writeCommitted (m : Memory) (q : QWrite) (bs : List Byte) (w : Nat) : Option Nat × Memory :=
  if q.checked then
    (some (m.commit q.line (wordsOf (AMap.keys (byteMap q.off bs))) w).1,
      (m.commit q.line (wordsOf (AMap.keys (byteMap q.off bs))) w).2)
  else (none, m)

theorem writeCommitted_spec (m : Memory) (q : QWrite) (bs : List Byte) (w : Nat) : ∃ lines,
    writeCommitted m q bs w =
      (if q.checked then some ((m.hline q.line).commit + 1) else none, { m with lines := lines }) ∧
    (q.checked = true → (AMap.getD lines q.line HomeLine.reset).commit = (m.hline q.line).commit + 1) := by
  cases hc : q.checked with
  | false => exact ⟨_, if_neg (by rw [hc]; decide), nofun⟩
  | true =>
    refine ⟨_, if_pos hc, fun _ => ?_⟩
    rw [AMap.getD_set_self]

variable (hop : q.op = .store bs)
include hop

theorem dispatchWrite_host (hhost : q.host = true) : dispatchWrite s c k q =
    s.modMem fun m => { m with host := Cells.putN m.host q.line bs } := by
  rw [dispatchWrite, if_pos hhost, hop]

theorem dispatchWrite_module (hhost : q.host = false) : dispatchWrite s c k q =
    ((s.modMem fun m => (writeCommitted m q bs (writerOf c k)).2.send (pathOf (dieOf c) q.line)
      { writer := writerOf c k, line := q.line, version := (writeCommitted m q bs (writerOf c k)).1, key := q.key,
        op := .write (byteMap q.off bs) }).modCore c fun x => nearMerge x q.line q.key (byteMap q.off bs)).modThread c k
        fun t => { t with dests := insertNat (lineDie q.line) t.dests } := by
  rw [dispatchWrite, if_neg (by rw [hhost]; decide)]
  simp only [hop]
  rfl

theorem wqDispatch_host (hwf : s.mem.wf = true) (hhost : q.host = true) :
    ((dispatchWrite s c k q).thread c k).wq = (s.thread c k).wq ∧
      (dispatchWrite s c k q).mem = { s.mem with host := (dispatchWrite s c k q).mem.host } ∧
      Cells.getN (dispatchWrite s c k q).mem.host q.line bs.length = bs ∧
      ∀ x, x < q.line ∨ q.line + bs.length ≤ x →
        Cells.get (dispatchWrite s c k q).mem.host x = Cells.get s.mem.host x := by
  obtain ⟨-, hhostWf⟩ := (Memory.wf_iff _).mp hwf
  rw [dispatchWrite_host hop hhost]
  exact ⟨rfl, rfl, Cells.getN_putN_self _ _ _ hhostWf, fun x hx => Cells.get_putN_outside _ _ _ _ hhostWf hx⟩

theorem wqDispatch_module (hhost : q.host = false) :
    ((dispatchWrite s c k q).thread c k).wq = (s.thread c k).wq ∧
      (dispatchWrite s c k q).mem.dram = s.mem.dram ∧ (dispatchWrite s c k q).mem.host = s.mem.host ∧
      (dispatchWrite s c k q).mem.path (pathOf (dieOf c) q.line) = s.mem.path (pathOf (dieOf c) q.line) ++
        [{ writer := writerOf c k, line := q.line,
           version := if q.checked then some ((s.mem.hline q.line).commit + 1) else none, key := q.key,
           op := .write (byteMap q.off bs) }] ∧
      (q.checked = true → ((dispatchWrite s c k q).mem.hline q.line).commit = (s.mem.hline q.line).commit + 1) ∧
      lineDie q.line ∈ ((dispatchWrite s c k q).thread c k).dests := by
  obtain ⟨lines, hcommitted, hversion⟩ := writeCommitted_spec s.mem q bs (writerOf c k)
  rw [dispatchWrite_module hop hhost]
  simp only [State.modThread_mem, State.modCore_mem, State.modMem_mem, hcommitted, State.thread_modThread_self]
  refine ⟨?_, rfl, rfl, path_send .., hversion, (mem_insertNat ..).mpr (.inl rfl)⟩
  rw [State.thread_modCore _ _ _ _ _ fun x => nearMerge_slots x ..]
  rfl

end Queue

theorem writeQueuesAndPaths : Claims.WriteQueuesAndPaths := by
  intro c k src dst idx off q qs p ps bs s hwf hc hk hsrc hdst hidx t m key id version popped
  obtain ⟨hmem, -⟩ := (State.memWf_iff s).mp hwf
  have hdie : key / 4 % 16 = dst := pathKey_dst src hdst hidx
  refine ⟨fun h => ?empty, fun h hop => ?oldest, fun h => pathPerform_idles hsrc hdst hidx (canPerform_of_nil h),
    fun hpath hphase => ?head, fun hphase =>
      pathPerform_idles hsrc hdst hidx (canPerform_of_held (by rw [hdie]; exact hphase))⟩
  case empty => exact (exec_wqDispatch hc hk).trans (congrArg _ (dispatchOldest_of_nil h))
  case oldest =>
    have hexec := (exec_wqDispatch hc hk).trans (congrArg _ (dispatchOldest_of_cons h))
    have hwriter : writerOf c k = id := congrArg (· + k) (Nat.mul_comm c 4)
    refine ⟨_, hexec, ?_⟩
    cases hhost : q.host with
    | true =>
      obtain ⟨hwq, hrest⟩ := wqDispatch_host (s := wqTaken s c k qs) (c := c) (k := k) hop hmem hhost
      exact ⟨hwq.trans (wq_wqTaken ..), fun _ => hrest, nofun⟩
    | false =>
      obtain ⟨hwq, hrest⟩ := wqDispatch_module (s := wqTaken s c k qs) (c := c) (k := k) hop hhost
      rw [hwriter] at hrest
      exact ⟨hwq.trans (wq_wqTaken ..), nofun, fun _ => hrest⟩
  case head =>
    have hcan := canPerform_iff hpath (by rw [hdie]; exact hphase)
    exact ⟨fun v hv hother => pathPerform_idles hsrc hdst hidx (eq_false_of_ne_true fun h => hother (hcan.mp h v hv)),
      fun hdue => ⟨fun hop hfits hfree => pathPerform_write hsrc hdst hidx hpath (hcan.mpr hdue) hmem hop hfits hfree,
        fun hop => pathPerform_marker hsrc hdst hidx hpath (hcan.mpr hdue) hop⟩⟩

end Sys2Proof.Machine

/-! PROOFS. Events of pools and near caches (R240, R399, R403; M13): the barrier word that an arrival leaves, and what each
event leaves of every pool; and O40. -/

namespace Sys2Proof.Machine

open Sys2Proof

/-! ### An arrival at a barrier (R403) -/

/-- Arrivals at a barrier whose phase has just begun: whole counts complete phases, and the rest arrive in the next. -/
theorem arriveLoop_of_begun {count : Nat} (hcount : 0 < count) (fuel : Nat) {a phase : Nat} (hfuel : a / count ≤ fuel)
    (hphase : phase < 2 ^ 16) :
    arriveLoop count (fuel + 1) a count phase = (count - a % count, (phase + a / count) % 2 ^ 16) := by
  induction fuel generalizing a phase with
  | zero =>
    have hlt : a < count := (Nat.div_eq_zero_iff_lt hcount).mp (Nat.le_zero.mp hfuel)
    rw [arriveLoop, if_neg (Nat.not_le.mpr hlt), Nat.mod_eq_of_lt hlt, Nat.div_eq_of_lt hlt, Nat.add_zero,
      Nat.mod_eq_of_lt hphase]
  | succ fuel ih =>
    rw [arriveLoop]
    by_cases hlt : a < count
    · rw [if_neg (Nat.not_le.mpr hlt), Nat.mod_eq_of_lt hlt, Nat.div_eq_of_lt hlt, Nat.add_zero, Nat.mod_eq_of_lt hphase]
    · have hle := Nat.not_lt.mp hlt
      have hdiv : a / count = (a - count) / count + 1 := Nat.div_eq_sub_div hcount hle
      rw [if_pos hle, ih (by omega) (Nat.mod_lt _ (by decide)), ← Nat.mod_eq_sub_mod hle, Nat.mod_add_mod, hdiv,
        Nat.add_right_comm, Nat.add_assoc]

/-- A barrier doubleword with another pending count and phase. -/
def barrierWord (b pending phase : Nat) : Nat :=
  b % 2 ^ 16 + pending * 2 ^ 16 + b / 2 ^ 32 % 2 ^ 16 * 2 ^ 32 + phase * 2 ^ 48

/-- The pending count and the phase that an arrival leaves. -/
def barrierAfter (b a : Nat) : Nat × Nat :=
  if a < b / 2 ^ 16 % 2 ^ 16 then (b / 2 ^ 16 % 2 ^ 16 - a, b / 2 ^ 48 % 2 ^ 16)
  else (b % 2 ^ 16 - (a - b / 2 ^ 16 % 2 ^ 16) % (b % 2 ^ 16),
    (b / 2 ^ 48 % 2 ^ 16 + 1 + (a - b / 2 ^ 16 % 2 ^ 16) / (b % 2 ^ 16)) % 2 ^ 16)

theorem barrierAfter_lt (b a : Nat) : (barrierAfter b a).1 < 2 ^ 16 ∧ (barrierAfter b a).2 < 2 ^ 16 := by
  unfold barrierAfter
  split <;> constructor <;> dsimp only <;> omega

theorem arrival_eq (b a : Nat) : Claims.arrival b a =
    if b % 2 ^ 16 = 0 ∨ a = 0 then b else barrierWord b (barrierAfter b a).1 (barrierAfter b a).2 := by
  unfold barrierAfter
  split
  · next h => exact if_pos h
  · next h =>
    refine (if_neg h).trans ?_
    split <;> rfl

theorem barrierWord_lt {b pending phase : Nat} (hpending : pending < 2 ^ 16) (hphase : phase < 2 ^ 16) :
    barrierWord b pending phase < 2 ^ 64 := by
  rw [barrierWord]
  omega

theorem arrival_lt {b : Nat} (hb : b < 2 ^ 64) (a : Nat) : Claims.arrival b a < 2 ^ 64 := by
  rw [arrival_eq]
  split
  · exact hb
  · exact barrierWord_lt (barrierAfter_lt b a).1 (barrierAfter_lt b a).2

theorem setFld_barrierWord {b pending phase : Nat} (hb : b < 2 ^ 64) (hpending : pending < 2 ^ 16)
    (hphase : phase < 2 ^ 16) : setFld (setFld b 16 16 pending) 48 16 phase = barrierWord b pending phase := by
  simp only [setFld, fld, barrierWord]
  omega

theorem arriveLoop_eq_barrierAfter {b : Nat} (hcount : b % 2 ^ 16 ≠ 0) (a : Nat) :
    arriveLoop (b % 2 ^ 16) (a + 2) a (b / 2 ^ 16 % 2 ^ 16) (b / 2 ^ 48 % 2 ^ 16) = barrierAfter b a := by
  rw [arriveLoop, barrierAfter]
  by_cases hlt : a < b / 2 ^ 16 % 2 ^ 16
  · rw [if_neg (Nat.not_le.mpr hlt), if_pos hlt]
  · have hfuel : (a - b / 2 ^ 16 % 2 ^ 16) / (b % 2 ^ 16) ≤ a := (Nat.div_le_self ..).trans (Nat.sub_le ..)
    rw [if_pos (Nat.not_lt.mp hlt), if_neg hlt, arriveLoop_of_begun (Nat.pos_of_ne_zero hcount) a hfuel
      (Nat.mod_lt _ (by decide)), Nat.mod_add_mod]

theorem arrive_eq_arrival {b : Nat} (hb : b < 2 ^ 64) (a : Nat) : arrive b a = Claims.arrival b a := by
  rw [arrival_eq, arrive, fld_zero]
  split
  · rfl
  · next h =>
    obtain ⟨hpending, hphase⟩ := barrierAfter_lt b a
    have hloop : arriveLoop (b % 2 ^ 16) (a + 2) a (fld b 16 16) (fld b 48 16) = barrierAfter b a :=
      arriveLoop_eq_barrierAfter (not_or.mp h).1 a
    rw [hloop]
    exact setFld_barrierWord hb hpending hphase

/-! ### What an event of a core leaves of the pools -/

/-- Outside bytes [lo, hi) of the core's pool, no pool changes, nor does module or host memory. -/
def PoolsKept (s w : State) (c lo hi : Nat) : Prop :=
  (∀ y, y < lo ∨ hi ≤ y → Cells.get (w.core c).pool y = Cells.get (s.core c).pool y) ∧
    (∀ d, d ≠ c → (w.core d).pool = (s.core d).pool) ∧ Claims.sameMem s w

theorem PoolsKept.of_pools {s w : State} (h : ∀ d, (w.core d).pool = (s.core d).pool) (hmem : Claims.sameMem s w)
    (c lo hi : Nat) : PoolsKept s w c lo hi := ⟨fun _ _ => by rw [h], fun d _ => h d, hmem⟩

theorem PoolsKept.trans {s t u : State} {c lo hi : Nat} (h : PoolsKept s t c lo hi) (h' : PoolsKept t u c lo hi) :
    PoolsKept s u c lo hi := by
  obtain ⟨hin, hothers, hdram, hkeys, hgen, hhost⟩ := h
  obtain ⟨hin', hothers', hdram', hkeys', hgen', hhost'⟩ := h'
  exact ⟨fun y hy => (hin' y hy).trans (hin y hy), fun d hd => (hothers' d hd).trans (hothers d hd), hdram'.trans hdram,
    hkeys'.trans hkeys, hgen'.trans hgen, hhost'.trans hhost⟩

theorem sameMem_of_eq {s w : State} (h : w.mem = s.mem) : Claims.sameMem s w := by
  rw [Claims.sameMem, h]
  exact ⟨rfl, rfl, rfl, rfl⟩

/-- Bytes written to a pool. -/
theorem PoolsKept.putN {s : State} (hwf : s.memWf = true) (c off n : Nat) (f : Core → List Byte)
    (hlen : ∀ x, (f x).length = n) :
    PoolsKept s (s.modCore c fun x => { x with pool := Cells.putN x.pool off (f x) }) c off (off + n) := by
  refine ⟨fun y hy => ?_, fun d hd => by rw [State.core_modCore_of_ne _ _ hd], rfl, rfl, rfl, rfl⟩
  rw [State.core_modCore_self]
  exact Cells.get_putN_outside _ _ _ _ (State.wf_pool hwf c) (by rwa [hlen])

theorem pool_modCore {s : State} {f : Core → Core} (hf : ∀ x, (f x).pool = x.pool) (c d : Nat) :
    ((s.modCore c f).core d).pool = (s.core d).pool := by
  by_cases hd : d = c
  · rw [hd, State.core_modCore_self, hf]
  · rw [State.core_modCore_of_ne _ _ hd]

theorem PoolsKept.modCore {s : State} {f : Core → Core} (hf : ∀ x, (f x).pool = x.pool) (c lo hi : Nat) :
    PoolsKept s (s.modCore c f) c lo hi := .of_pools (pool_modCore hf c) (sameMem_of_eq rfl) c lo hi

/-! ### Near caches (R240, M13) -/

section Near
variable (s : State) (c line key : Nat)

theorem hold_eq (m : Memory) (e : SliceLine) : ∃ slice, m.hold e = { m with slice := slice } := ⟨_, rfl⟩

theorem fill_eq (m : Memory) : ∃ slice, m.fill line key = { m with slice := slice } := by
  unfold Memory.fill
  split
  · split
    · exact ⟨_, rfl⟩
    · exact hold_eq ..
  · exact hold_eq ..

theorem poolsKept_nearFill : PoolsKept s (nearFill s c line key) c 0 0 := by
  obtain ⟨slice, hfill⟩ := fill_eq line key s.mem
  have hmem : (nearFill s c line key).mem = { s.mem with slice := slice } := hfill
  refine PoolsKept.of_pools (fun d => ?_) ?_ c 0 0
  · rw [nearFill, pool_modCore]
    · rfl
    · exact fun _ => rfl
  · rw [Claims.sameMem, hmem]
    exact ⟨rfl, rfl, rfl, rfl⟩

/-- A filled line stands in the near cache as its home reads. -/
theorem near_nearFill : ∃ e, AMap.get ((nearFill s c line key).core c).near (nearIdx key line) = some e ∧ e.key = key ∧
    e.bytes = s.mem.lineBytes line key 0 64 ∧ e.fv = (s.mem.hline line).performed := by
  rw [nearFill, State.core_modCore_self]
  exact ⟨_, AMap.get_set_self .., rfl, rfl, rfl⟩

theorem poolsKept_nearDrop (i : Nat) : PoolsKept s (nearDrop s c i) c 0 0 :=
  PoolsKept.modCore (f := fun x => { x with near := AMap.del x.near i }) (fun _ => rfl) c 0 0

theorem near_nearDrop (i : Nat) : ((nearDrop s c i).core c).near = AMap.del (s.core c).near i := by
  rw [nearDrop, State.core_modCore_self]

variable {s c line key} (hcore : isCore c = true)
include hcore

theorem exec_nearFill (hphase : (s.die (line / 2 ^ 28)).phase < 4) :
    exec (.nearCacheFillEvict c line key true) s = .next (nearFill s c line key) := by
  have hopen : dieHeld s (lineDie line) = false := decide_eq_false (Nat.not_le.mpr hphase)
  refine (onUnit_of_true _ hcore).trans (congrArg _ ?_)
  rw [if_pos rfl, hopen]
  rfl

theorem exec_nearDrop : exec (.nearCacheFillEvict c line key false) s = .next (nearDrop s c (nearIdx key line)) :=
  onUnit_of_true _ hcore

end Near

/-! ### Bank updates (R399) -/

section Bank
variable {s : State} {c off v fn : Nat} {tag : Bool}

/-- The next accepted update has left its queue. -/
def bankTaken (s : State) (c : Nat) (rest : List BankOp) : State := s.modCore c fun x => { x with bank := rest }

theorem core_bankTaken (rest : List BankOp) : (bankTaken s c rest).core c = { s.core c with bank := rest } :=
  State.core_modCore_self ..

theorem poolsKept_bankTaken (rest : List BankOp) (lo hi : Nat) : PoolsKept s (bankTaken s c rest) c lo hi :=
  PoolsKept.modCore (f := fun x => { x with bank := rest }) (fun _ => rfl) c lo hi

theorem exec_bankUpdateApply_nil (hcore : isCore c = true) (h : (s.core c).bank = []) :
    exec (.bankUpdateApply c) s = .next s := by
  refine (onUnit_of_true _ hcore).trans (congrArg _ ?_)
  rw [bankHead, h]

theorem exec_bankUpdateApply_cons (hcore : isCore c = true) {b : BankOp} {rest : List BankOp}
    (h : (s.core c).bank = b :: rest) : exec (.bankUpdateApply c) s = .next (applyBank (bankTaken s c rest) c b) := by
  refine (onUnit_of_true _ hcore).trans (congrArg _ ?_)
  rw [bankHead, h]
  rfl

/-- What a tagged update does after its word is written. -/
def tagged (s : State) (c off : Nat) (tag : Bool) : State := if tag then setTagsWake s c off 4 true else s

theorem tagFrame_tagged (s : State) (c off : Nat) (tag : Bool) : TagFrame s (tagged s c off tag) := by
  cases tag with
  | false => exact TagFrame.refl s
  | true => exact TagFrame.setTagsWake ..

theorem bank_tagged (s : State) (c off : Nat) (tag : Bool) : ((tagged s c off tag).core c).bank = (s.core c).bank := by
  cases tag with
  | false => rfl
  | true =>
    obtain ⟨_, _, _, hcore⟩ := (frame_setTagsWake s c off 4 true).core
    rw [tagged, if_pos rfl, hcore]

theorem applyUpdate_of_sound (h : (s.core c).poisoned off 4 = false) :
    applyUpdate s c off v fn tag = tagged (withUpdate s c off v fn) c off tag := by
  rw [applyUpdate]
  simp only [h]
  rfl

/-- An update of an unpoisoned word. -/
theorem applyUpdate_spec (hwf : s.memWf = true) (h : (s.core c).poisoned off 4 = false) :
    ((applyUpdate s c off v fn tag).core c).bank = (s.core c).bank ∧
      ((applyUpdate s c off v fn tag).core c).num off 4 = updated (s.core c) off v fn % 2 ^ 32 ∧
      PoolsKept s (applyUpdate s c off v fn tag) c off (off + 4) := by
  rw [applyUpdate_of_sound h]
  have hframe := tagFrame_tagged (withUpdate s c off v fn) c off tag
  obtain ⟨cs, hcores⟩ := hframe.cores
  have hput := Cells.getN_putN_self (s.core c).pool off (toBytes 4 (updated (s.core c) off v fn)) (State.wf_pool hwf c)
  rw [length_toBytes] at hput
  refine ⟨?_, ?_, (PoolsKept.putN hwf c off 4 _ fun x => length_toBytes ..).trans
    (PoolsKept.of_pools hframe.pool (by rw [hcores]; exact ⟨rfl, rfl, rfl, rfl⟩) c off (off + 4))⟩
  · rw [bank_tagged, withUpdate, State.core_modCore_self]
  · rw [Core.num_of_pool (hframe.pool c), Core.num, Core.bytes, pool_withUpdate, hput, ofBytes_toBytes]

end Bank

/-! ### The event of an arrival (R403) -/

section Arrival
variable {s : State} {c off : Nat}

theorem exec_barrierArrival (hcore : isCore c = true) (n : Nat) :
    exec (.barrierArrival c off n) s = .next (barrierArrive s c off (n % 2 ^ 16)) := onUnit_of_true _ hcore

/-- A thread that waits at a barrier of the line is ready. -/
def wokenAtBarrier (c line : Nat) (t : Thread) : Thread :=
  match t.status with
  | .parked (.barrier d o _) => if d = c ∧ o / 64 = line / 64 then { t with status := .ready } else t
  | _ => t

theorem pool_wakeBarrier (s : State) (c line d : Nat) : ((wakeBarrier s c line).core d).pool = (s.core d).pool := by
  have hcore := congrArg Core.pool (AMap.getD_map s.cores (d := Core.reset)
    (f := fun x => { x with slots := x.slots.map fun q => (q.1, wokenAtBarrier c line q.2) }) rfl d)
  exact hcore

/-- The barrier's doubleword after an arrival, written where it differs. -/
def arrived (s : State) (c off a : Nat) : State :=
  if arrive ((s.core c).num off 8) a = (s.core c).num off 8 then s
  else s.modCore c fun x => { x with pool := Cells.putN x.pool off (toBytes 8 (arrive ((s.core c).num off 8) a)) }

theorem barrierArrive_of_poisoned (h : (s.core c).poisoned off 8 = true) (a : Nat) : barrierArrive s c off a = s := if_pos h

/-- An arrival wakes the threads that wait at the barrier, or none. -/
theorem barrierArrive_pools (h : (s.core c).poisoned off 8 = false) (a : Nat) :
    (∀ d, ((barrierArrive s c off a).core d).pool = ((arrived s c off a).core d).pool) ∧
      (barrierArrive s c off a).mem = (arrived s c off a).mem := by
  have hlive : ¬(s.core c).poisoned off 8 = true := by rw [h]; decide
  have heq : barrierArrive s c off a = arrived s c off a ∨
      barrierArrive s c off a = wakeBarrier (arrived s c off a) c off := by
    rw [barrierArrive]
    dsimp only
    rw [if_neg hlive]
    split
    · exact .inl rfl
    · exact .inr rfl
  obtain heq | heq := heq
  · rw [heq]
    exact ⟨fun _ => rfl, rfl⟩
  · rw [heq]
    exact ⟨pool_wakeBarrier _ c off, rfl⟩

theorem arrived_mem (s : State) (c off a : Nat) : (arrived s c off a).mem = s.mem := by
  unfold arrived
  split <;> rfl

theorem arrived_spec (hwf : s.memWf = true) (a : Nat) :
    ((arrived s c off a).core c).num off 8 = Claims.arrival ((s.core c).num off 8) a ∧
      PoolsKept s (arrived s c off a) c off (off + 8) := by
  have hbytes := ofBytes_lt ((s.core c).bytes off 8)
  rw [Core.bytes, Cells.length_getN] at hbytes
  have hnum : (s.core c).num off 8 < 2 ^ 64 := hbytes
  unfold arrived
  rw [arrive_eq_arrival hnum]
  split
  · next hsame => exact ⟨hsame.symm, PoolsKept.of_pools (fun _ => rfl) (sameMem_of_eq rfl) ..⟩
  · refine ⟨?_, PoolsKept.putN hwf c off 8 _ fun _ => length_toBytes ..⟩
    have hput := Cells.getN_putN_self (s.core c).pool off (toBytes 8 (Claims.arrival ((s.core c).num off 8) a))
      (State.wf_pool hwf c)
    rw [length_toBytes] at hput
    rw [State.core_modCore_self]
    refine (congrArg ofBytes hput).trans ?_
    rw [ofBytes_toBytes]
    exact Nat.mod_eq_of_lt (arrival_lt hnum a)

theorem barrierArrive_spec (hwf : s.memWf = true) (h : (s.core c).poisoned off 8 = false) (a : Nat) :
    ((barrierArrive s c off a).core c).num off 8 = Claims.arrival ((s.core c).num off 8) a ∧
      PoolsKept s (barrierArrive s c off a) c off (off + 8) := by
  obtain ⟨hpools, hmem⟩ := barrierArrive_pools h a
  obtain ⟨hnum, hkept⟩ := arrived_spec (s := s) (c := c) (off := off) hwf a
  exact ⟨(Core.num_of_pool (hpools c) off 8).trans hnum, hkept.trans (PoolsKept.of_pools hpools (sameMem_of_eq hmem) ..)⟩

end Arrival

theorem poolAndNearEvents : Claims.PoolAndNearEvents := by
  intro c line ks off n fn v u rest s hwf hc x others
  have hcore := isCore_of_lt hc
  refine ⟨fun hphase => ?fill, ?drop, fun hbank hsound => ?update, fun hbank => ?config, fun hbank => ?idle,
    fun hsound => ⟨_, exec_barrierArrival hcore n, barrierArrive_spec hwf hsound _⟩, fun hbad => ?poisoned⟩
  case fill =>
    obtain ⟨e, hget, hkey, hbytes, hfv⟩ := near_nearFill s c line ks
    exact ⟨_, e, exec_nearFill hcore hphase, hget, hkey, hbytes, hfv, poolsKept_nearFill ..⟩
  case drop =>
    have hnear := near_nearDrop s c (nearIdx ks line)
    exact ⟨_, exec_nearDrop hcore, by rw [hnear]; exact AMap.get_del_self ..,
      fun l hl => by rw [hnear]; exact AMap.get_del_of_ne _ hl, poolsKept_nearDrop ..⟩
  case update =>
    have htaken := core_bankTaken (s := s) (c := c) rest
    have hwf' : (bankTaken s c rest).memWf = true := State.memWf_modCore _ _ _ hwf fun _ hx => hx
    obtain ⟨hrest, hnum, hkept⟩ :=
      applyUpdate_spec (s := bankTaken s c rest) (c := c) (off := off) (v := v.toNat) (fn := fn) (tag := u) hwf'
        (by rw [htaken]; exact hsound)
    rw [htaken] at hrest hnum
    have hv : v.toNat % 2 ^ 32 = v.toNat := Nat.mod_eq_of_lt v.isLt
    rw [updated, hv] at hnum
    exact ⟨_, exec_bankUpdateApply_cons hcore hbank, hrest, hnum,
      (poolsKept_bankTaken ..).trans hkept⟩
  case config =>
    refine ⟨_, exec_bankUpdateApply_cons hcore hbank, ?_⟩
    rw [applyBank, State.core_modCore_self, core_bankTaken]
    exact ⟨rfl, AMap.get_set_self .., rfl⟩
  case idle => exact ⟨_, exec_bankUpdateApply_nil hcore hbank, hbank, rfl⟩
  case poisoned =>
    exact ⟨_, (exec_barrierArrival hcore n).trans (congrArg _ (barrierArrive_of_poisoned hbad _)),
      PoolsKept.of_pools (fun _ => rfl) (sameMem_of_eq rfl) ..⟩

/-- Settles O40: a queued write becomes one packet, the head of a path one write to its line or one gathered marker, and an
event of a core changes at most one word of its own pool. -/
theorem writesAndCaches : Obligations.WritesAndCaches := ⟨writeQueuesAndPaths, poolAndNearEvents⟩

end Sys2Proof.Machine

/-! PROOFS. Loads and stores of the own pool (R258, R269, R270, R282): the value a load takes, the bytes a store leaves,
and the accesses that trap. -/

namespace Sys2Proof.Machine

open Sys2Proof

/-! ### Values as loads extend them (R269) -/

theorem extend_eq_loaded (u : Bool) {n : Nat} {bs : List Byte} (h : bs.length = n) :
    extend u bs = Claims.loaded u n (ofBytes bs) := by
  subst h
  cases u with
  | true =>
    have hpow : 2 ^ (8 * bs.length) = 256 ^ bs.length := pow_mul 2 8 bs.length
    exact congrArg (fun k => BitVec.ofNat 64 (ofBytes bs % k)) hpow
  | false => exact sextW_eq_signExtend ..

theorem extend_bytes (u : Bool) (x : Core) (o n : Nat) : extend u (x.bytes o n) = Claims.loaded u n (x.num o n) :=
  extend_eq_loaded u (Cells.length_getN ..)

/-! ### Aligned addresses of the own pool (R258) -/

theorem iBytes_dvd (t : ITy) : iBytes t ∣ 64 := by cases t <;> decide

theorem pBytes_dvd (q : PTy) : pBytes q ∣ 64 := by cases q <;> decide

theorem two_pBytes_dvd (q : PTy) : 2 * pBytes q ∣ 64 := by cases q <;> decide

/-- A window address is aligned as its pool offset is. -/
theorem aligned_winAddr {s : State} {o k : Nat} (ho : o < 2 ^ 40) (hk : k ∣ 64) (h : o % k = 0) (e : Eff) :
    aligned s (winAddr o) k e = e := by
  refine aligned_of_dvd ?_ e
  rw [toNat_winAddr ho]
  exact Nat.mod_eq_zero_of_dvd (dvd_add (hk.trans (by decide)) (Nat.dvd_of_mod_eq_zero h))

theorem aligned_of_poolOpen {s : State} {a : Word} {o n k : Nat} (hopen : Claims.poolOpen s a o n) (hk : k ∣ 64)
    (h : o % k = 0) (e : Eff) : aligned s a k e = e := by
  obtain ⟨ha, ho, -⟩ := hopen
  rw [show a = winAddr o from ha, aligned_winAddr ho hk h]

theorem aligned_of_misaligned {s : State} {a : Word} {n : Nat} (h : a.toNat % n ≠ 0) (e : Eff) :
    aligned s a n e = .failAt s 0x04 a n := if_neg h

/-! ### Loads (R269, R270) -/

section Loads
variable {h : Hdr} {u : Bool} {d : Fin 64} {m : Mem} {s : State} {o : Nat} (hg : guardHolds s h = true)
include hg

theorem ld_of_poolReadable {t : ITy} (ho : o % iBytes t = 0)
    (hread : Claims.poolReadable s (memAddr s m (iBytes t)) o (iBytes t)) : exec (.ld h t u d m) s =
      Claims.retired h s (s.wrG d.val (Claims.loaded u (iBytes t) (s.myCore.num o (iBytes t)))) := by
  refine run_ok (e := effLd t u d m) hg ?_
  rw [effLd, aligned_of_poolOpen hread.1 (iBytes_dvd t) ho, readAny_of_poolReadable hread, extend_bytes]

/-- A pair is two loads of its halves. -/
theorem ldPair_of_poolReadable {q : PTy} {e : Fin 64} (ho : o % (2 * pBytes q) = 0)
    (hread : Claims.poolReadable s (memAddr s m (pBytes q)) o (2 * pBytes q)) : exec (.ldPair h q u d e m) s =
      Claims.retired h s ((s.wrG d.val (Claims.loaded u (pBytes q) (s.myCore.num o (pBytes q)))).wrG e.val
        (Claims.loaded u (pBytes q) (s.myCore.num (o + pBytes q) (pBytes q)))) := by
  have hlow : (s.myCore.bytes o (2 * pBytes q)).take (pBytes q) = s.myCore.bytes o (pBytes q) := by
    rw [two_mul]
    exact Cells.take_getN ..
  have hhigh : (s.myCore.bytes o (2 * pBytes q)).drop (pBytes q) = s.myCore.bytes (o + pBytes q) (pBytes q) := by
    rw [two_mul]
    exact Cells.drop_getN ..
  refine run_ok (e := effLdPair q u d e m) hg ?_
  rw [effLdPair, aligned_of_poolOpen hread.1 (two_pBytes_dvd q) ho, readAny_of_poolReadable hread, hlow, hhigh,
    extend_bytes, extend_bytes]

end Loads

/-- Settles O11: past its checks a load takes the bytes that stand in the pool and extends them. -/
theorem ownPoolLoads : Obligations.OwnPoolLoads := by
  intro h t q u d e m s o hg
  exact ⟨ld_of_poolReadable hg, ldPair_of_poolReadable hg⟩

/-! ### What the acting thread's own bookkeeping leaves of the state -/

/-- Of the acting thread only the bookkeeping of its writes may differ (region, marked dies, pending release, deferred
scope), of a core its slots and near cache; the homes' bytes and keys stay. -/
structure OwnBooks (s t : State) : Prop where
  cur : t.cur = s.cur
  clusters : t.clusters = s.clusters
  me : ∃ rgn dests rel deferred, t.me = { s.me with
    rgn := rgn, dests := dests, rel := rel, tol := { s.me.tol with deferred := deferred } }
  core : ∀ c, ∃ slots near, t.core c = { s.core c with slots := slots, near := near }
  mem : Claims.sameMem s t

namespace OwnBooks
variable {s t u : State}

theorem refl (s : State) : OwnBooks s s := ⟨rfl, rfl, ⟨_, _, _, _, rfl⟩, fun _ => ⟨_, _, rfl⟩, sameMem_of_eq rfl⟩

theorem trans (h : OwnBooks s t) (h' : OwnBooks t u) : OwnBooks s u := by
  obtain ⟨_, _, _, _, hme⟩ := h.me
  obtain ⟨rgn, dests, rel, n, hme'⟩ := h'.me
  obtain ⟨hdram, hkeys, hgen, hhost⟩ := h.mem
  obtain ⟨hdram', hkeys', hgen', hhost'⟩ := h'.mem
  refine ⟨h'.cur.trans h.cur, h'.clusters.trans h.clusters, ⟨rgn, dests, rel, n, by rw [hme', hme]⟩, fun c => ?_,
    hdram'.trans hdram, hkeys'.trans hkeys, hgen'.trans hgen, hhost'.trans hhost⟩
  obtain ⟨_, _, hcore⟩ := h.core c
  obtain ⟨slots, near, hcore'⟩ := h'.core c
  exact ⟨slots, near, by rw [hcore', hcore]⟩

/-- An update of the acting thread's bookkeeping. -/
theorem modMe (s : State) {f : Thread → Thread} (hf : ∀ x, ∃ rgn dests rel deferred, f x = { x with
    rgn := rgn, dests := dests, rel := rel, tol := { x.tol with deferred := deferred } }) : OwnBooks s (s.modMe f) := by
  refine ⟨rfl, rfl, ?_, fun c => ?_, sameMem_of_eq rfl⟩
  · rw [State.me_modMe]
    exact hf s.me
  · by_cases hc : c = s.cur.1
    · rw [hc, State.modMe_eq_modCore, State.core_modCore_self]
      exact ⟨_, _, rfl⟩
    · rw [State.modMe_eq_modCore, State.core_modCore_of_ne _ _ hc]
      exact ⟨_, _, rfl⟩

theorem keepsRegisters (h : OwnBooks s t) : KeepsRegisters s t := by
  obtain ⟨_, _, _, _, hme⟩ := h.me
  constructor
  · exact h.cur
  all_goals rw [hme]

theorem pool (h : OwnBooks s t) (c : Nat) : (t.core c).pool = (s.core c).pool := by
  obtain ⟨_, _, hcore⟩ := h.core c
  rw [hcore]

theorem myCore (h : OwnBooks s t) : ∃ slots near, t.myCore = { s.myCore with slots := slots, near := near } := by
  rw [State.myCore, h.cur]
  exact h.core s.cur.1

theorem pc (h : OwnBooks s t) : t.me.pc = s.me.pc := by
  obtain ⟨_, _, _, _, hme⟩ := h.me
  rw [hme]

theorem tolOpen (h : OwnBooks s t) : t.me.tol.isOpen = s.me.tol.isOpen := by
  obtain ⟨_, _, _, _, hme⟩ := h.me
  rw [hme]

theorem windowAt (h : OwnBooks s t) (c : Nat) (a : Word) : windowAt t c a = windowAt s c a := by
  have hpeer : peerCore t c = peerCore s c := by
    funext q
    rw [peerCore, State.cluster, h.clusters]
    rfl
  rw [Machine.windowAt, hpeer]
  rfl

theorem vstPending (h : OwnBooks s t) (a n : Nat) : vstPending t a n = vstPending s a n := by
  obtain ⟨_, _, hcore⟩ := h.myCore
  have hwin : Machine.windowAt t = Machine.windowAt s := funext₂ h.windowAt
  rw [Machine.vstPending, hcore, hwin, h.cur]
  rfl

/-- An access of the own pool that nothing stands in the way of stays one. -/
theorem poolOpen (h : OwnBooks s t) {a : Word} {o n : Nat} (hopen : Claims.poolOpen s a o n) : Claims.poolOpen t a o n := by
  obtain ⟨ha, ho, hlim, hsill, hshut, hvst⟩ := hopen
  obtain ⟨_, _, hcore⟩ := h.myCore
  rw [Claims.poolOpen, h.vstPending, h.keepsRegisters.priv, hcore]
  exact ⟨ha, ho, hlim, hsill, hshut, hvst⟩

end OwnBooks

/-! ### Stores (R269, R270, R282) -/

/-- The region holds and has read the same lines, and the same conflict is pending; its list of written lines may differ. -/
def SameLines (s t : State) : Prop :=
  t.me.rgn.held = s.me.rgn.held ∧ t.me.rgn.reads = s.me.rgn.reads ∧ t.me.rgn.conflict = s.me.rgn.conflict

theorem SameLines.refl (s : State) : SameLines s s := ⟨rfl, rfl, rfl⟩

theorem SameLines.trans {s t u : State} (h : SameLines s t) (h' : SameLines t u) : SameLines s u :=
  ⟨h'.1.trans h.1, h'.2.1.trans h.2.1, h'.2.2.trans h.2.2⟩

section Stores
variable {s : State} {a : Word} {o : Nat}

/-- Where the written-line set has room, the line of a store is counted (R121). -/
theorem tolWrite_of_lineRoom (hroom : Claims.lineRoom s o) :
    ∃ t, tolWrite s s.cur.1 o = some t ∧ OwnBooks s t ∧ SameLines s t := by
  unfold tolWrite
  split
  · exact ⟨s, rfl, .refl s, .refl s⟩
  next hpriv =>
    unfold tolWriteBy
    dsimp only
    split
    next hcounts =>
      split
      · exact ⟨s, rfl, .refl s, .refl s⟩
      next hnew =>
        have hlt : (s.thread s.cur.1 s.cur.2).rgn.written.length < 64 := by
          obtain ⟨htol, hscratch⟩ := Bool.and_eq_true_iff.mp hcounts
          rcases hroom with h | h | h | h | h
          · exact absurd (htol.symm.trans h) (by decide)
          · exact absurd h hpriv
          · exact absurd (hscratch.symm.trans h) (by decide)
          · exact absurd (List.contains_iff_mem.mpr h) hnew
          · exact h
        rw [if_pos hlt]
        refine ⟨_, rfl, OwnBooks.modMe s fun _ => ⟨_, _, _, _, rfl⟩, ?_⟩
        unfold SameLines
        rw [show (s.modThread s.cur.1 s.cur.2 _).me = _ from State.me_modMe s _]
        exact ⟨rfl, rfl, rfl⟩
    · exact ⟨s, rfl, .refl s, .refl s⟩

/-- Bytes stored in the acting core's pool, and nothing else but the thread's own bookkeeping. -/
def storeIn (t : State) (o : Nat) (bs : List Byte) : State := t.modCore t.cur.1 fun x => x.putBytes o bs

theorem keepsRegisters_storeIn {t : State} (hbooks : OwnBooks s t) (bs : List Byte) : KeepsRegisters s (storeIn t o bs) := by
  have hme : (storeIn t o bs).me = t.me := State.thread_modCore _ _ _ _ _ fun _ => rfl
  refine hbooks.keepsRegisters.trans ⟨rfl, ?_, ?_, ?_, ?_, ?_, ?_, ?_⟩
  all_goals rw [hme]

theorem sameLines_storeIn (t : State) (o : Nat) (bs : List Byte) : SameLines t (storeIn t o bs) := by
  have hme : (storeIn t o bs).me = t.me := State.thread_modCore _ _ _ _ _ fun _ => rfl
  rw [SameLines, hme]
  exact ⟨rfl, rfl, rfl⟩

/-- What stands in the pools once an instruction that stored bytes has retired. -/
theorem storedOnly_of_pool {u : State} {bs : List Byte} (hwf : s.memWf = true) (hcur : u.cur = s.cur)
    (hself : (u.core s.cur.1).pool = Cells.putN (s.core s.cur.1).pool o bs)
    (hothers : ∀ c, c ≠ s.cur.1 → (u.core c).pool = (s.core c).pool) (hmem : Claims.sameMem s u) (pc : Word) (y : Bool) :
    Claims.storedOnly s (retire u pc y) o bs := by
  have hcanon : Cells.wf (s.core s.cur.1).pool = true := State.wf_pool hwf s.cur.1
  have hpool : (retire u pc y).myCore.pool = Cells.putN (s.core s.cur.1).pool o bs := by
    rw [State.myCore, retire_cur, retire_pool, hcur, hself]
  refine ⟨?_, fun x hx => ?_, fun c hc => ?_, ?_⟩
  · rw [Core.bytes, hpool, Cells.getN_putN_self _ _ _ hcanon]
  · rw [hpool, Cells.get_putN_outside _ _ _ _ hcanon hx]
    rfl
  · rw [retire_pool, hothers c hc]
  · rw [Claims.sameMem, retire_mem]
    exact hmem

theorem storedOnly_storeIn {t : State} (hbooks : OwnBooks s t) (hwf : s.memWf = true) (bs : List Byte) (pc : Word) (y : Bool) :
    Claims.storedOnly s (retire (storeIn t o bs) pc y) o bs := by
  refine storedOnly_of_pool (u := storeIn t o bs) hwf hbooks.cur ?_ (fun c hc => ?_) hbooks.mem pc y
  · rw [← hbooks.cur, storeIn, State.core_modCore_self]
    exact congrArg (Cells.putN · o bs) (hbooks.pool _)
  · rw [← hbooks.pool c, storeIn, State.core_modCore_of_ne _ _ (by rwa [hbooks.cur])]

/-- A store to the own pool that nothing stands in the way of puts its bytes there, poisoned or not (R282). -/
theorem writeAny_of_poolOpen {bs : List Byte} (hopen : Claims.poolOpen s a o bs.length) (hroom : Claims.lineRoom s o) :
    ∃ t, OwnBooks s t ∧ SameLines s t ∧
      ∀ issuer own k, writeAny s a bs issuer own k = k (storeIn t o bs) := by
  obtain ⟨ha, ho, hlim, hsill, hshut, hvst⟩ := hopen
  replace ha : a = winAddr o := ha
  obtain ⟨t, hcount, hbooks, hlines⟩ := tolWrite_of_lineRoom hroom
  refine ⟨t, hbooks, hlines, fun issuer own k => ?_⟩
  have hcheck : windowCheck s a bs.length true = none := by
    rw [ha, windowCheck_winAddr true ho]
    exact poolCheck_eq_none _ hlim hsill
  have hwrite : poolWrite s a s.cur.1 o bs k = k (storeIn t o bs) := by
    simp only [poolWrite, ← State.myCore.eq_def, hshut, hvst, hcount, storeIn, hbooks.cur, Bool.or_false,
      Bool.false_eq_true, if_false]
  rw [writeAny, hcheck]
  simp only [ha, decodeAddr_winAddr ho]
  rw [← ha, hwrite]

/-- An instruction that only stores bytes in the own pool. -/
theorem run_store {h : Hdr} {e : State → Eff} {t : State} {bs : List Byte} (hg : guardHolds s h = true)
    (hwf : s.memWf = true) (hbooks : OwnBooks s t) (he : e s = .ok (storeIn t o bs)) :
    ∃ w, run h e s = .next w ∧ Claims.onlyPc s w ∧ Claims.storedOnly s w o bs :=
  ⟨_, run_ok hg he, (keepsRegisters_storeIn hbooks bs).onlyPc _, storedOnly_storeIn hbooks hwf bs ..⟩

theorem st_of_poolOpen {h : Hdr} {t : ITy} {m : Mem} {x : GSrc} (hg : guardHolds s h = true) (hwf : s.memWf = true)
    (hroom : Claims.lineRoom s o) (ho : o % iBytes t = 0) (hopen : Claims.poolOpen s (memAddr s m (iBytes t)) o (iBytes t)) :
    ∃ w, exec (.st h t m x) s = .next w ∧ Claims.onlyPc s w ∧
      Claims.storedOnly s w o (lowBytes (iBytes t) (readGSrc s x)) := by
  have hlen : (lowBytes (iBytes t) (readGSrc s x)).length = iBytes t := length_toBytes ..
  obtain ⟨w, hbooks, -, hwrite⟩ := writeAny_of_poolOpen (bs := lowBytes (iBytes t) (readGSrc s x)) (by rwa [hlen]) hroom
  exact run_store (e := effSt t m x) hg hwf hbooks (by rw [effSt, aligned_of_poolOpen hopen (iBytes_dvd t) ho, hwrite])

theorem stPair_of_poolOpen {h : Hdr} {q : PTy} {m : Mem} {b c : Fin 64} (hg : guardHolds s h = true) (hwf : s.memWf = true)
    (hroom : Claims.lineRoom s o) (ho : o % (2 * pBytes q) = 0)
    (hopen : Claims.poolOpen s (memAddr s m (pBytes q)) o (2 * pBytes q)) :
    ∃ w, exec (.stPair h q m b c) s = .next w ∧ Claims.onlyPc s w ∧
      Claims.storedOnly s w o (lowBytes (pBytes q) (s.rdG b.val) ++ lowBytes (pBytes q) (s.rdG c.val)) := by
  have hlen : (lowBytes (pBytes q) (s.rdG b.val) ++ lowBytes (pBytes q) (s.rdG c.val)).length = 2 * pBytes q := by
    rw [List.length_append, lowBytes, lowBytes, length_toBytes, length_toBytes, two_mul]
  obtain ⟨w, hbooks, -, hwrite⟩ := writeAny_of_poolOpen
    (bs := lowBytes (pBytes q) (s.rdG b.val) ++ lowBytes (pBytes q) (s.rdG c.val)) (by rwa [hlen]) hroom
  exact run_store (e := effStPair q m b c) hg hwf hbooks
    (by rw [effStPair, aligned_of_poolOpen hopen (two_pBytes_dvd q) ho, hwrite])

end Stores

/-- Settles O12: past its checks a store counts its line and puts its bytes in the pool. -/
theorem ownPoolStores : Obligations.OwnPoolStores := by
  intro h t q m x b c s o hg hwf hroom
  exact ⟨st_of_poolOpen hg hwf hroom, stPair_of_poolOpen hg hwf hroom⟩

/-! ### Accesses that trap (R164, R231, R258, R259) -/

/-- R258, R259: an address is checked for alignment before anything else is. -/
theorem misalignedAccess : Claims.MisalignedAccess := by
  intro h t q n u d e m x s hg
  refine ⟨fun ha => ⟨?_, ?_, ?_, ?_⟩, fun ha => ⟨?_, ?_, ?_⟩, fun ha => ⟨?_, ?_⟩, fun ha => ⟨?_, ?_, ?_⟩⟩
  · exact run_failAt (e := effLd t u d m) hg (aligned_of_misaligned ha _)
  · exact run_failAt (e := effSt t m x) hg (aligned_of_misaligned ha _)
  · exact run_failAt (e := effLdAcq t n u d m) hg (aligned_of_misaligned ha _)
  · exact run_failAt (e := effStRel t n m x) hg (aligned_of_misaligned ha _)
  · exact run_failAt (e := effLdWf q true u d m) hg (aligned_of_misaligned ha _)
  · exact run_failAt (e := effLdWf q false u d m) hg (aligned_of_misaligned ha _)
  · exact run_failAt (e := effStWe q m x) hg (aligned_of_misaligned ha _)
  · exact run_failAt (e := effLdPair q u d e m) hg (aligned_of_misaligned ha _)
  · exact run_failAt (e := effStPair q m d e) hg (aligned_of_misaligned ha _)
  · exact run_failAt (e := effTagRd d m) hg (aligned_of_misaligned ha _)
  · exact run_failAt (e := effTagFull m x) hg (aligned_of_misaligned ha _)
  · exact run_failAt (e := effTagEmpty m x) hg (aligned_of_misaligned ha _)

/-- The window number of the own pool is 0 (R230). -/
theorem windowTrap_of_own {a : Word} {o : Nat} (ha : a = winAddr o) (ho : o < 2 ^ 40) :
    windowTrap a = { cause := 0x0A, addr := a, info := 0 } := by
  have hwindow : wfld a 48 8 = 0 := by
    rw [ha, wfld, fld, toNat_winAddr ho]
    omega
  rw [windowTrap, hwindow]
  rfl

theorem poolCheck_of_beyond {s : State} {tc o n : Nat} (a : Word) (priv : Bool) (h : poolLimit (s.core tc).part < o + n) :
    poolCheck s tc priv a o n = some (windowTrap a) := if_pos h

theorem poolCheck_of_belowSill {s : State} {tc o n : Nat} (a : Word) (hlim : o + n ≤ poolLimit (s.core tc).part)
    (hsill : o < (s.core tc).sill.toNat) : poolCheck s tc false a o n = some { cause := 0x09, addr := a, info := 0 } := by
  rw [poolCheck, if_neg (Nat.not_lt.mpr hlim), if_pos (by simpa using hsill)]

/-- A load and a store of the own pool trap with what the window checks give (R259). -/
theorem access_of_poolCheck {h : Hdr} {t : ITy} {u : Bool} {d : Fin 64} {m : Mem} {x : GSrc} {s : State} {o : Nat}
    {f : TrapInfo} (hg : guardHolds s h = true) (ha : memAddr s m (iBytes t) = winAddr o) (ho : o < 2 ^ 40)
    (hal : o % iBytes t = 0) (hf : poolCheck s s.cur.1 s.me.priv (memAddr s m (iBytes t)) o (iBytes t) = some f) :
    exec (.ld h t u d m) s = .next (takeTrap s s.cur.1 s.cur.2 f true) ∧
      exec (.st h t m x) s = .next (takeTrap s s.cur.1 s.cur.2 f true) := by
  have hlen : (lowBytes (iBytes t) (readGSrc s x)).length = iBytes t := length_toBytes ..
  rw [ha] at hf
  refine ⟨run_trap (e := effLd t u d m) hg ?_, run_trap (e := effSt t m x) hg ?_⟩
  · rw [effLd, ha, aligned_winAddr ho (iBytes_dvd t) hal, readAny, windowCheck_winAddr false ho, hf]
  · rw [effSt, ha, aligned_winAddr ho (iBytes_dvd t) hal, writeAny, windowCheck_winAddr true ho, hlen, hf]

theorem poolBounds : Claims.PoolBounds := by
  intro h t u d m x s o hg n a traps ha ho hal
  refine ⟨fun hbeyond => ?_, fun hlim hpriv hsill => ?_⟩
  · refine access_of_poolCheck hg ha ho hal ((poolCheck_of_beyond a _ hbeyond).trans ?_)
    rw [windowTrap_of_own ha ho]
  · refine access_of_poolCheck hg ha ho hal ?_
    rw [hpriv]
    exact poolCheck_of_belowSill a hlim hsill

/-- Settles O13: the checks of alignment, of the pool limit and of the sill come first and in this order. -/
theorem poolAccessTraps : Obligations.PoolAccessTraps := ⟨misalignedAccess, poolBounds⟩

end Sys2Proof.Machine

/-! PROOFS. Boundaries of a region (R255, R265 to R268, R271 to R275): what a close, a release and an acquire leave of the
state, and what they find. -/

namespace Sys2Proof.Machine

open Sys2Proof

/-! ### More of what the bookkeeping leaves -/

namespace OwnBooks
variable {s t : State}

theorem setMem (s : State) {m : Memory} (hm : Claims.sameMem s { s with mem := m }) : OwnBooks s { s with mem := m } :=
  ⟨rfl, rfl, ⟨_, _, _, _, rfl⟩, fun _ => ⟨_, _, rfl⟩, hm⟩

/-- An update of the near cache of a core. -/
theorem modNear (s : State) (c : Nat) {f : Core → Core} (hf : ∀ x, ∃ near, f x = { x with near := near }) :
    OwnBooks s (s.modCore c f) := by
  have hme : (s.modCore c f).me = s.me := State.thread_modCore _ _ _ _ _ fun x => by
    obtain ⟨_, hx⟩ := hf x
    rw [hx]
  refine ⟨rfl, rfl, ⟨_, _, _, _, hme⟩, fun d => ?_, sameMem_of_eq rfl⟩
  by_cases hd : d = c
  · obtain ⟨near, hx⟩ := hf (s.core c)
    rw [hd, State.core_modCore_self]
    exact ⟨_, near, hx⟩
  · rw [State.core_modCore_of_ne _ _ hd]
    exact ⟨_, _, rfl⟩

theorem sidingIdle (h : OwnBooks s t) : sidingIdle t t.cur.1 t.cur.2 = sidingIdle s s.cur.1 s.cur.2 := by
  obtain ⟨_, _, hcore⟩ := h.myCore
  obtain ⟨_, _, _, _, hme⟩ := h.me
  rw [Machine.sidingIdle, ← State.myCore.eq_def, State.me_eq, hcore, hme, h.cur]
  rfl

theorem wq (h : OwnBooks s t) : t.me.wq = s.me.wq := by
  obtain ⟨_, _, _, _, hme⟩ := h.me
  rw [hme]

/-- Where the written-line set has not grown it has as much room. -/
theorem lineRoom (h : OwnBooks s t) (hw : t.me.rgn.written = s.me.rgn.written ∨ t.me.rgn.written = []) {o : Nat}
    (hroom : Claims.lineRoom s o) : Claims.lineRoom t o := by
  obtain ⟨_, _, hcore⟩ := h.myCore
  rw [Claims.lineRoom, h.tolOpen, h.keepsRegisters.priv, hcore, h.cur]
  rcases hw with hw | hw
  · rwa [hw]
  · rw [hw]
    exact .inr (.inr (.inr (.inr (by decide))))

theorem poolReadable (h : OwnBooks s t) (hw : t.me.rgn.written = s.me.rgn.written ∨ t.me.rgn.written = []) {a : Word}
    {o n : Nat} (hread : Claims.poolReadable s a o n) : Claims.poolReadable t a o n := by
  obtain ⟨hopen, hpoison, htol⟩ := hread
  obtain ⟨_, _, hcore⟩ := h.myCore
  refine ⟨h.poolOpen hopen, by rw [hcore]; exact hpoison, ?_⟩
  rw [tolRead, tolReadBy, h.tolOpen, h.keepsRegisters.priv, h.cur]
  rcases hw with hw | hw
  · rwa [hw]
  · simp [hw]

theorem bytes (h : OwnBooks s t) (o n : Nat) : t.myCore.bytes o n = s.myCore.bytes o n := by
  obtain ⟨_, _, hcore⟩ := h.myCore
  rw [hcore]
  rfl

/-- The instruction retires with only its bookkeeping done. -/
theorem retired (h : OwnBooks s t) (y : Bool) : Claims.onlyPc s (retire t (s.me.pc + 12) y) ∧
    Claims.sameMem s (retire t (s.me.pc + 12) y) ∧
    ∀ c, ((retire t (s.me.pc + 12) y).core c).pool = (s.core c).pool := by
  refine ⟨h.keepsRegisters.onlyPc y, ?_, fun c => ?_⟩
  · rw [Claims.sameMem, retire_mem]
    exact h.mem
  · rw [retire_pool, h.pool]

end OwnBooks

theorem checkWindow_of_poolOpen {s : State} {a : Word} {o n : Nat} (hopen : Claims.poolOpen s a o n) (write : Bool) (k : Eff) :
    checkWindow s a n write k = k := by
  obtain ⟨ha, ho, hlim, hsill, -, -⟩ := hopen
  replace ha : a = winAddr o := ha
  rw [checkWindow, ha, windowCheck_winAddr write ho, poolCheck_eq_none _ hlim hsill]

/-! ### A drained region (R266) -/

/-- The packet that a held line becomes (M7). -/
def drainPacket (m : Memory) (w hl : Nat) (e : HeldLine) : Packet :=
  { writer := w, line := hl, version := some (m.commit hl (wordsOf (AMap.keys e.bytes)) w).1, key := e.key,
    op := .write e.bytes }

/-- Memory with that packet on the path from a die to the home. -/
def drainedMem (m : Memory) (src w hl : Nat) (e : HeldLine) : Memory :=
  (m.commit hl (wordsOf (AMap.keys e.bytes)) w).2.send (pathOf src hl) (drainPacket m w hl e)

theorem mem_drainLine (s : State) (c k hl : Nat) (e : HeldLine) :
    (drainLine s c k hl e).mem = drainedMem s.mem (dieOf c) (writerOf c k) hl e := rfl

theorem ownBooks_drainLine (s : State) (hl : Nat) (e : HeldLine) : OwnBooks s (drainLine s s.cur.1 s.cur.2 hl e) := by
  have hmem := OwnBooks.setMem s (m := drainedMem s.mem (dieOf s.cur.1) (writerOf s.cur.1 s.cur.2) hl e) ⟨rfl, rfl, rfl, rfl⟩
  exact (hmem.trans (.modNear _ s.cur.1 fun x => nearMerge_eq x hl e.key e.bytes)).trans (.modMe _ fun _ => ⟨_, _, _, _, rfl⟩)

theorem ownBooks_drainLines (s : State) (ls : List (Nat × HeldLine)) : OwnBooks s (drainLines s s.cur.1 s.cur.2 ls) := by
  refine foldl_inv (OwnBooks s) _ ls (fun t e _ ht => ?_) s (.refl s)
  rw [← ht.cur]
  exact ht.trans (ownBooks_drainLine t e.1 e.2)

theorem ownBooks_drainRegion (s : State) : OwnBooks s (drainRegion s s.cur.1 s.cur.2) := by
  have hlines := ownBooks_drainLines s (sortBy (fun e => e.2.pa) s.me.rgn.held)
  have hdrop : ∀ t : State, OwnBooks t (t.modThread t.cur.1 t.cur.2 Thread.dropRegion) := fun t =>
    .modMe t fun _ => ⟨_, _, _, _, rfl⟩
  have hself := hdrop (drainLines s s.cur.1 s.cur.2 (sortBy (fun e => e.2.pa) s.me.rgn.held))
  rw [hlines.cur] at hself
  exact hlines.trans hself

theorem rgn_drainLines (s : State) (c k : Nat) (ls : List (Nat × HeldLine)) :
    ((drainLines s c k ls).thread c k).rgn = (s.thread c k).rgn :=
  foldl_inv (fun t : State => (t.thread c k).rgn = (s.thread c k).rgn) _ ls
    (fun t e _ ht => by rw [drainLine_thread]; exact ht) s rfl

/-- The region that a drain leaves is new and empty, but for the conflict. -/
theorem rgn_drainRegion (s : State) (c k : Nat) : ((drainRegion s c k).thread c k).rgn =
    { (s.thread c k).rgn with held := [], reads := [], written := [] } := by
  rw [drainRegion_eq, State.thread_modThread_self]
  exact congrArg (fun r : Region => { r with held := [], reads := [], written := [] }) (rgn_drainLines ..)

theorem me_rgn_drainRegion (s : State) : (drainRegion s s.cur.1 s.cur.2).me.rgn =
    { s.me.rgn with held := [], reads := [], written := [] } := by
  rw [State.me, (ownBooks_drainRegion s).cur]
  exact rgn_drainRegion s s.cur.1 s.cur.2

/-! ### Passing a boundary (R266, R275) -/

section Boundary
variable {s : State} {sc : Scope}

/-- The state behind a boundary that passes: nothing happens inside a tolerant region, else the region has drained. -/
def bounded (s : State) : State := if tolDefers s then s else drainRegion s s.cur.1 s.cur.2

theorem bounded_of_defers (h : tolDefers s = true) : bounded s = s := if_pos h

theorem bounded_of_not_defers (h : tolDefers s = false) : bounded s = drainRegion s s.cur.1 s.cur.2 :=
  if_neg (by rw [h]; decide)

theorem withBoundary_of_defers (h : tolDefers s = true) (k : State → Eff) : withBoundary s k = k s := if_pos h

theorem withBoundary_of_passes (h : Claims.boundaryPasses s) (k : State → Eff) : withBoundary s k = k (bounded s) := by
  cases hd : tolDefers s with
  | true => rw [bounded_of_defers hd, withBoundary_of_defers hd]
  | false =>
    have hclose := h.resolve_left (by rw [hd]; decide)
    rw [bounded_of_not_defers hd, withBoundary, hd, if_neg (by decide), withClose_of_closes hclose]

theorem ownBooks_bounded (s : State) : OwnBooks s (bounded s) := by
  unfold bounded
  split
  · exact .refl s
  · exact ownBooks_drainRegion s

theorem written_bounded (s : State) :
    (bounded s).me.rgn.written = s.me.rgn.written ∨ (bounded s).me.rgn.written = [] := by
  unfold bounded
  split
  · exact .inl rfl
  · rw [me_rgn_drainRegion]
    exact .inr rfl

theorem conflict_of_closes (h : Claims.closes s) : s.me.rgn.conflict = none := by
  obtain ⟨-, -, -, hclose⟩ := h
  unfold closeRegion at hclose
  split at hclose
  · cases hclose
  · assumption

theorem boundaryDone_of_sameLines {t : State} (h : Claims.boundaryPasses s) (hl : SameLines (bounded s) t) :
    Claims.boundaryDone s t := by
  obtain ⟨hheld, hreads, hconflict⟩ := hl
  unfold Claims.boundaryDone
  split
  next hd =>
    rw [bounded_of_defers hd] at hheld hreads hconflict
    exact ⟨hheld, hreads, hconflict⟩
  next hd =>
    rw [bounded_of_not_defers (by simpa using hd), me_rgn_drainRegion] at hheld hreads hconflict
    exact ⟨hheld, hreads, hconflict.trans (conflict_of_closes (h.resolve_left hd))⟩

/-- A close defers no boundary behind it. -/
theorem tolDefers_bounded (s : State) : tolDefers (bounded s) = tolDefers s := by
  cases hd : tolDefers s with
  | true => rw [bounded_of_defers hd, hd]
  | false =>
    have hbooks := ownBooks_bounded s
    have hconflict : (bounded s).me.rgn.conflict = s.me.rgn.conflict := by
      rw [bounded_of_not_defers hd, me_rgn_drainRegion]
    rw [← hd, tolDefers, hbooks.tolOpen, hbooks.keepsRegisters.priv, hconflict]
    rfl

/-! ### The release part (R272, R275) -/

/-- Memory with the markers of a release on every path of the thread's marked dies (R257). -/
def markersSent (s : State) (c k : Nat) : Memory :=
  (markerPaths (dieOf c) (s.thread c k).dests).foldl (fun m key => m.send key
    { writer := writerOf c k, line := 0, version := none, key := 0, op := .marker }) s.mem

theorem ownBooks_sendMarkers (s : State) (r : Release) : OwnBooks s (sendMarkers s s.cur.1 s.cur.2 r) := by
  have hsent : Claims.sameMem s { s with mem := markersSent s s.cur.1 s.cur.2 } := by
    refine foldl_inv (fun m : Memory => Claims.sameMem s { s with mem := m }) _ _ ?_ s.mem (sameMem_of_eq rfl)
    exact fun _ _ _ hm => hm
  have hcounted := OwnBooks.setMem s (m := { markersSent s s.cur.1 s.cur.2 with
    gathered := AMap.set (markersSent s s.cur.1 s.cur.2).gathered (writerOf s.cur.1 s.cur.2) 0 }) hsent
  exact hcounted.trans (.modMe _ fun _ => ⟨_, _, _, _, rfl⟩)

/-- The pending release is set. -/
theorem ownBooks_setRel (s : State) (r : Option Release) : OwnBooks s (s.modMe fun t => { t with rel := r }) ∧
    (s.modMe fun t => { t with rel := r }).me.rgn = s.me.rgn :=
  ⟨.modMe s fun _ => ⟨_, _, r, _, rfl⟩, by rw [State.me_modMe]⟩

theorem ownBooks_releaseBegun (s : State) (sc : Scope) : OwnBooks s (releaseBegun s sc) ∧
    (releaseBegun s sc).me.rgn = s.me.rgn := by
  obtain ⟨hrel, hrgn⟩ := ownBooks_setRel s (some (releaseAt s sc))
  unfold releaseBegun
  dsimp only
  split
  · exact ⟨hrel.trans (ownBooks_sendMarkers ..), (congrArg Thread.rgn (sendMarkers_me ..)).trans hrgn⟩
  · exact ⟨hrel, hrgn⟩

/-- A thread with its release deferred to the end of the tolerant region, at this scope at least (R275). -/
def Thread.deferRelease (sc : Scope) (t : Thread) : Thread :=
  { t with tol := { t.tol with deferred := max t.tol.deferred (scopeNum sc + 1) } }

theorem withReleasePart_of_defers (h : tolDefers s = true) (k : State → Eff) :
    withReleasePart s sc k = k (s.modMe (Thread.deferRelease sc)) := if_pos h

theorem withReleasePart_of_not_defers (h : tolDefers s = false) (k : State → Eff) :
    withReleasePart s sc k = withRelease s sc k := if_neg (by rw [h]; decide)

/-- A release that is deferred, or free, passes at once and leaves the region. -/
theorem withReleasePart_passes (h : tolDefers s = true ∨ (sidingIdle s s.cur.1 s.cur.2 = true ∧ Claims.releaseFree s sc)) :
    ∃ t, OwnBooks s t ∧ t.me.rgn = s.me.rgn ∧ ∀ k, withReleasePart s sc k = k t := by
  cases hd : tolDefers s with
  | true => exact ⟨s.modMe (Thread.deferRelease sc), .modMe s fun _ => ⟨_, _, _, _, rfl⟩, by rw [State.me_modMe]; rfl,
      withReleasePart_of_defers hd⟩
  | false =>
    obtain ⟨hidle, hfree⟩ := h.resolve_left (by rw [hd]; decide)
    obtain ⟨r, hrel, hdone⟩ := releaseDone_releaseBegun hfree
    obtain ⟨hbooks, hrgn⟩ := ownBooks_releaseBegun s sc
    obtain ⟨hbooks', hrgn'⟩ := ownBooks_setRel (releaseBegun s sc) none
    exact ⟨_, hbooks.trans hbooks', hrgn'.trans hrgn,
      fun k => (withReleasePart_of_not_defers hd k).trans (withRelease_of_done hidle hrel hdone k)⟩

/-- A boundary and the release behind it pass at once where both may (R272, R275). -/
theorem boundaryRelease_passes (hpass : Claims.boundaryPasses s) (hfree : tolDefers s = true ∨ Claims.releaseFree s sc) :
    ∃ t, OwnBooks s t ∧ t.me.rgn = (bounded s).me.rgn ∧
      ∀ k, withBoundary s (fun s1 => withReleasePart s1 sc k) = k t := by
  have hbooks := ownBooks_bounded s
  have hready : tolDefers (bounded s) = true ∨
      (sidingIdle (bounded s) (bounded s).cur.1 (bounded s).cur.2 = true ∧ Claims.releaseFree (bounded s) sc) := by
    cases hd : tolDefers s with
    | true => exact .inl ((tolDefers_bounded s).trans hd)
    | false =>
      have hfree := hfree.resolve_left (by rw [hd]; decide)
      refine .inr ⟨hbooks.sidingIdle.trans (hpass.resolve_left (by rw [hd]; decide)).1, ?_⟩
      rw [bounded_of_not_defers hd, drainRegion_of_held_nil hfree.1]
      exact releaseFree_dropRegion hfree
  obtain ⟨t, hbooks', hrgn, hpasses⟩ := withReleasePart_passes hready
  exact ⟨t, hbooks.trans hbooks', hrgn, fun k => (withBoundary_of_passes hpass _).trans (hpasses k)⟩

/-! ### A release that waits (R272) -/

theorem AMap.mem_set_of_mem {α : Type} {m : AMap α} {e : Nat × α} (k : Nat) (x : α) (h : e ∈ m) :
    e ∈ AMap.set m k x ∨ AMap.get m k = some e.2 := by
  induction m with
  | nil => cases h
  | cons q m ih =>
    obtain ⟨j, y⟩ := q
    rw [AMap.set, AMap.get]
    by_cases hjk : j = k
    · rw [if_pos hjk, if_pos hjk]
      obtain rfl | h := List.mem_cons.mp h
      · exact .inr rfl
      · exact .inl (List.mem_cons_of_mem _ h)
    · rw [if_neg hjk, if_neg hjk]
      split
      · exact .inl (List.mem_cons_of_mem _ h)
      · obtain rfl | h := List.mem_cons.mp h
        · exact .inl (List.mem_cons_self ..)
        · exact (ih h).imp_left (List.mem_cons_of_mem _)

/-- Sending takes no packet off a path. -/
theorem NoWriteInPaths.of_send {w key : Nat} {m : Memory} {p : Packet} (h : NoWriteInPaths w (m.send key p)) :
    NoWriteInPaths w m := by
  intro e he q hq
  obtain hset | hget := AMap.mem_set_of_mem key (m.path key ++ [p]) he
  · exact h e hset q hq
  · have hq' : q ∈ m.path key ++ [p] := by
      rw [Memory.path, AMap.getD, hget]
      exact List.mem_append_left _ hq
    exact h _ (AMap.mem_of_get _ _ _ (AMap.get_set_self ..)) q hq'

theorem NoWriteInPaths.of_drainRegion {w c k : Nat} (h : NoWriteInPaths w (drainRegion s c k).mem) :
    NoWriteInPaths w s.mem := by
  rw [drainRegion_eq, State.modThread_mem, drainLines] at h
  refine foldl_inv (fun t : State => NoWriteInPaths w t.mem → NoWriteInPaths w s.mem) _ _ ?_ s id h
  exact fun _ _ _ ht h => ht (NoWriteInPaths.of_send h)

theorem NoWriteInPaths.of_releaseBegun {w : Nat} (h : NoWriteInPaths w (releaseBegun s sc).mem) : NoWriteInPaths w s.mem := by
  unfold releaseBegun at h
  dsimp only at h
  split at h
  · refine foldl_inv (fun m : Memory => NoWriteInPaths w m → NoWriteInPaths w s.mem) _ _ ?_ s.mem id h
    exact fun _ _ _ hm h => hm h.of_send
  · exact h

/-- What is on its way stays on its way while packets are only sent. -/
theorem ackedPending_of_sent {t : State} (hbooks : OwnBooks s t)
    (hpaths : ∀ {w}, NoWriteInPaths w t.mem → NoWriteInPaths w s.mem) (h : ackedPending s s.cur.1 s.cur.2 = true) :
    ackedPending t t.cur.1 t.cur.2 = true := by
  rw [← Bool.not_eq_false, ackedPending_eq_false_iff] at h ⊢
  refine mt (fun ⟨hwq, hnone⟩ => ⟨?_, hpaths (hbooks.cur ▸ hnone)⟩) h
  rw [State.me_eq] at hwq ⊢
  rwa [← hbooks.wq]

/-- A release parks while an acknowledged write of the thread is on its way. -/
theorem withRelease_of_acked (hidle : sidingIdle s s.cur.1 s.cur.2 = true) (hacked : ackedPending s s.cur.1 s.cur.2 = true)
    (k : State → Eff) : withRelease s sc k = .park (releaseBegun s sc) .release := by
  have hpending : ackedPending (releaseBegun s sc) s.cur.1 s.cur.2 = true := by
    have h := ackedPending_of_sent (ownBooks_releaseBegun s sc).1 (fun h => h.of_releaseBegun) hacked
    rwa [(ownBooks_releaseBegun s sc).1.cur] at h
  unfold withRelease
  rw [withSiding_of_idle hidle]
  change (match (releaseBegun s sc).me.rel with
    | some r2 => if releaseDone (releaseBegun s sc) s.cur.1 s.cur.2 r2 then k ((releaseBegun s sc).modMe _)
      else .park (releaseBegun s sc) .release
    | none => .park (releaseBegun s sc) .release) = _
  split
  · rw [releaseDone, hpending]
    rfl
  · rfl

/-- So does the release behind a boundary, with the region drained. -/
theorem boundaryRelease_parks (hpass : Claims.boundaryPasses s) (hd : tolDefers s = false)
    (hacked : ackedPending s s.cur.1 s.cur.2 = true) :
    ∃ t, OwnBooks s t ∧ ∀ k, withBoundary s (fun s1 => withReleasePart s1 sc k) = .park t .release := by
  have hbooks := ownBooks_bounded s
  have hidle := hbooks.sidingIdle.trans (hpass.resolve_left (by rw [hd]; decide)).1
  have hacked' : ackedPending (bounded s) (bounded s).cur.1 (bounded s).cur.2 = true := by
    refine ackedPending_of_sent hbooks (fun h => ?_) hacked
    rw [bounded_of_not_defers hd] at h
    exact h.of_drainRegion
  refine ⟨_, hbooks.trans (ownBooks_releaseBegun (bounded s) sc).1, fun k => (withBoundary_of_passes hpass _).trans ?_⟩
  rw [withReleasePart_of_not_defers ((tolDefers_bounded s).trans hd), withRelease_of_acked hidle hacked']

/-! ### The acquire part (R271) -/

theorem acquirePart_of_wide (h : sc ≠ .core) : acquirePart s sc = nearClear s s.cur.1 := by
  cases sc
  case core => exact absurd rfl h
  all_goals rfl

theorem ownBooks_acquirePart (s : State) (sc : Scope) : OwnBooks s (acquirePart s sc) ∧ (acquirePart s sc).me = s.me := by
  by_cases h : sc = .core
  · rw [h]
    exact ⟨.refl s, rfl⟩
  · rw [acquirePart_of_wide h]
    exact ⟨.modNear s s.cur.1 fun _ => ⟨_, rfl⟩, State.thread_modCore _ _ _ _ _ fun _ => rfl⟩

theorem near_acquirePart (h : sc ≠ .core) : (acquirePart s sc).myCore.near = [] := by
  rw [acquirePart_of_wide h, State.myCore, nearClear, State.modCore_cur, State.core_modCore_self]

end Boundary

theorem sameLines_of_rgn {s t : State} (h : t.me.rgn = s.me.rgn) : SameLines s t := by
  rw [SameLines, h]
  exact ⟨rfl, rfl, rfl⟩

theorem sameLines_retire (t : State) (pc : Word) (y : Bool) : SameLines t (retire t pc y) :=
  sameLines_of_rgn (by rw [retire_me, Thread.retire_rgn])

theorem near_retire (t : State) (pc : Word) (y : Bool) : (retire t pc y).myCore.near = t.myCore.near := by
  obtain ⟨_, _, hcore⟩ := retireWith_core t pc y none t.cur.1
  rw [State.myCore, retire_cur, show (retire t pc y).core t.cur.1 = _ from hcore]
  rfl

end Sys2Proof.Machine

/-! PROOFS. O16, O17: acquire loads, release stores and fences (R271 to R273, R275). -/

namespace Sys2Proof.Machine

open Sys2Proof

/-! ### Acquire loads (R271) -/

theorem effLdAcq_of_poolReadable {t : ITy} {sc : Scope} {u : Bool} {d : Fin 64} {m : Mem} {s : State} {o : Nat}
    (ho : o % iBytes t = 0) (hread : Claims.poolReadable s (memAddr s m (iBytes t)) o (iBytes t))
    (hpass : Claims.boundaryPasses s) : effLdAcq t sc u d m s =
      .ok ((acquirePart (bounded s) sc).wrG d.val (Claims.loaded u (iBytes t) (s.myCore.num o (iBytes t)))) := by
  have hbooks := ownBooks_bounded s
  have hnum : (bounded s).myCore.num o (iBytes t) = s.myCore.num o (iBytes t) := congrArg ofBytes (hbooks.bytes ..)
  rw [effLdAcq, aligned_of_poolOpen hread.1 (iBytes_dvd t) ho, checkWindow_of_poolOpen hread.1, withBoundary_of_passes hpass,
    readAny_of_poolReadable (hbooks.poolReadable (written_bounded s) hread), extend_bytes, hnum]

theorem near_wrG (t : State) (r : Nat) (v : Word) : (t.wrG r v).myCore.near = t.myCore.near := by
  rw [State.wrG, State.modMe_eq_modCore, State.myCore_modCore]
  rfl

/-- The value of a load stands in its register, and the others stay. -/
theorem rdG_retire_wrG {s t : State} (hregs : KeepsRegisters s t) (d : Fin 64) (v pc : Word) (y : Bool) (r : Nat) :
    (retire (t.wrG d.val v) pc y).me.rdG r = if r = d.val ∧ r ≠ 0 then v else s.me.rdG r := by
  have hsame : t.me.rdG r = s.me.rdG r := by rw [Thread.rdG, hregs.g, Thread.rdG]
  rw [retire_me, Thread.retire_rdG, State.wrG, State.me_modMe, Thread.rdG_wrG, hsame]

theorem sameLines_wrG (t : State) (r : Nat) (v : Word) : SameLines t (t.wrG r v) :=
  sameLines_of_rgn (by rw [State.wrG, State.me_modMe, Thread.wrG_rgn])

theorem acquireLoads : Claims.AcquireLoads := by
  intro h t sc u d m s o hg n ho hread hpass
  obtain ⟨hacquire, hme⟩ := ownBooks_acquirePart (bounded s) sc
  have hbooks := (ownBooks_bounded s).trans hacquire
  refine ⟨_, run_ok (e := effLdAcq t sc u d m) hg (effLdAcq_of_poolReadable ho hread hpass), hbooks.cur ▸ retire_cur .., ?_,
    ?_, rdG_retire_wrG hbooks.keepsRegisters d _ _ _, fun hsc => ?_, ?_, fun c => ?_⟩
  · rw [retire_me, Thread.retire_pc]
  · exact boundaryDone_of_sameLines hpass
      (((sameLines_of_rgn (congrArg Thread.rgn hme)).trans (sameLines_wrG ..)).trans (sameLines_retire ..))
  · rw [near_retire, near_wrG, near_acquirePart hsc]
  · rw [Claims.sameMem, retire_mem, State.wrG_mem]
    exact hbooks.mem
  · rw [retire_pool, State.wrG, pool_modMe, hbooks.pool]

/-! ### Release stores (R272) -/

section Release
variable {s : State} {sc : Scope} {t : ITy} {m : Mem} {x : GSrc} {o : Nat}
  (ho : o % iBytes t = 0) (hopen : Claims.poolOpen s (memAddr s m (iBytes t)) o (iBytes t))
include ho hopen

theorem effStRel_of_poolOpen : effStRel t sc m x s = withBoundary s fun s1 => withReleasePart s1 sc fun s2 =>
    writeAny s2 (memAddr s m (iBytes t)) (lowBytes (iBytes t) (readGSrc s x)) 0 true Eff.ok := by
  rw [effStRel, aligned_of_poolOpen hopen (iBytes_dvd t) ho, checkWindow_of_poolOpen hopen]

theorem stRel_stores {h : Hdr} (hg : guardHolds s h = true) (hwf : s.memWf = true) (hroom : Claims.lineRoom s o)
    (hpass : Claims.boundaryPasses s) (hfree : tolDefers s = true ∨ Claims.releaseFree s sc) :
    ∃ w, exec (.stRel h t sc m x) s = .next w ∧ Claims.onlyPc s w ∧ Claims.boundaryDone s w ∧
      Claims.storedOnly s w o (lowBytes (iBytes t) (readGSrc s x)) := by
  obtain ⟨s2, hbooks, hrgn, hpasses⟩ := boundaryRelease_passes hpass hfree
  have hwritten : s2.me.rgn.written = s.me.rgn.written ∨ s2.me.rgn.written = [] := hrgn ▸ written_bounded s
  have hlen : (lowBytes (iBytes t) (readGSrc s x)).length = iBytes t := length_toBytes ..
  obtain ⟨s3, hbooks', hlines, hwrite⟩ := writeAny_of_poolOpen (s := s2) (a := memAddr s m (iBytes t))
    (bs := lowBytes (iBytes t) (readGSrc s x)) (by rw [hlen]; exact hbooks.poolOpen hopen) (hbooks.lineRoom hwritten hroom)
  have hstored := hbooks.trans hbooks'
  refine ⟨_, run_ok (e := effStRel t sc m x) hg ((effStRel_of_poolOpen ho hopen).trans ((hpasses _).trans (hwrite ..))),
    (keepsRegisters_storeIn hstored _).onlyPc _, boundaryDone_of_sameLines hpass ?_, storedOnly_storeIn hstored hwf ..⟩
  exact (((sameLines_of_rgn hrgn).trans hlines).trans (sameLines_storeIn ..)).trans (sameLines_retire ..)

end Release

/-- A parked instruction: pc, registers, memory and pools are as before but for the thread's bookkeeping. -/
theorem parked_of_ownBooks {s t : State} (h : OwnBooks s t) (r : Park) : (parkMe t r).me.status = .parked r ∧
    (parkMe t r).me.pc = s.me.pc ∧ (parkMe t r).me.g = s.me.g ∧ Claims.sameMem s (parkMe t r) ∧
    ∀ c, ((parkMe t r).core c).pool = (s.core c).pool := by
  rw [me_parkMe]
  exact ⟨rfl, h.pc, h.keepsRegisters.g, h.mem,
    fun c => (pool_modCore (f := fun x => { x with inPipe := none }) (fun _ => rfl) t.cur.1 c).trans
      ((pool_modMe ..).trans (h.pool c))⟩

theorem releaseStores : Claims.ReleaseStores := by
  intro h t sc m x s o hg hwf hroom n ho hopen hpass
  refine ⟨fun hfree => stRel_stores ho hopen hg hwf hroom hpass hfree, fun hd hacked => ?_⟩
  obtain ⟨s2, hbooks, hparks⟩ := boundaryRelease_parks (sc := sc) hpass hd hacked
  exact ⟨_, run_park (e := effStRel t sc m x) hg ((effStRel_of_poolOpen ho hopen).trans (hparks _)),
    parked_of_ownBooks hbooks _⟩

/-- Settles O16: both instructions close at the boundary, then read or store as a load or a store does. -/
theorem acquireAndRelease : Obligations.AcquireAndRelease := ⟨acquireLoads, releaseStores⟩

/-! ### Fences (R273) -/

/-- A fence retires with its boundary passed and, where it acquires, the near cache dropped. -/
theorem run_fence {h : Hdr} {e : State → Eff} {s t : State} {sc : Scope} {near : Bool} (hg : guardHolds s h = true)
    (hpass : Claims.boundaryPasses s) (hbooks : OwnBooks s t) (hrgn : t.me.rgn = (bounded s).me.rgn)
    (hnear : near = true → sc ≠ .core → t.myCore.near = []) (he : e s = .ok t) : ∃ w, run h e s = .next w ∧
      Claims.onlyPc s w ∧ Claims.boundaryDone s w ∧ Claims.sameMem s w ∧ (∀ c, (w.core c).pool = (s.core c).pool) ∧
      (near = true → sc ≠ .core → w.myCore.near = []) := by
  obtain ⟨hpc, hmem, hpool⟩ := hbooks.retired h.yields
  exact ⟨_, run_ok hg he, hpc, boundaryDone_of_sameLines hpass ((sameLines_of_rgn hrgn).trans (sameLines_retire ..)),
    hmem, hpool, by rwa [near_retire]⟩

/-- Settles O17: a fence is a boundary, then the release part, the acquire part or both. -/
theorem fences : Obligations.Fences := by
  intro h sc s hg hpass done
  refine ⟨?acquires, fun hfree => ?releases, fun hd hacked => ?parks⟩
  case acquires =>
    obtain ⟨hacquire, hme⟩ := ownBooks_acquirePart (bounded s) sc
    exact run_fence (e := effFenceAcq sc) hg hpass ((ownBooks_bounded s).trans hacquire) (congrArg Thread.rgn hme)
      (fun _ => near_acquirePart) (withBoundary_of_passes hpass _)
  case releases =>
    obtain ⟨t, hbooks, hrgn, hpasses⟩ := boundaryRelease_passes hpass hfree
    obtain ⟨hacquire, hme⟩ := ownBooks_acquirePart t sc
    exact ⟨run_fence (e := effFence sc) hg hpass (hbooks.trans hacquire) ((congrArg Thread.rgn hme).trans hrgn)
      (fun _ => near_acquirePart) (hpasses _), run_fence (e := effFenceRel sc) hg hpass hbooks hrgn nofun (hpasses _)⟩
  case parks =>
    obtain ⟨t, hbooks, hparks⟩ := boundaryRelease_parks (sc := sc) hpass hd hacked
    obtain ⟨hstatus, hpc, -⟩ := parked_of_ownBooks hbooks .release
    exact ⟨_, run_park (e := effFenceRel sc) hg (hparks _), hstatus, hpc⟩

end Sys2Proof.Machine

/-! PROOFS. O18: how a region closes (R266, R267), and the instructions that end it (R274, R275). -/

namespace Sys2Proof.Machine

open Sys2Proof

/-! ### Ascending line address -/

theorem insBy_eq_orderedInsert {α : Type} (f : α → Nat) (x : α) (l : List α) :
    insBy f x l = l.orderedInsert (fun a b => f a ≤ f b) x := by
  induction l with
  | nil => rfl
  | cons y l ih => rw [insBy, List.orderedInsert_cons, ih]

theorem sortBy_eq_insertionSort {α : Type} (f : α → Nat) (l : List α) :
    sortBy f l = l.insertionSort (fun a b => f a ≤ f b) := by
  induction l with
  | nil => rfl
  | cons x l ih => rw [List.insertionSort_cons, ← ih, ← insBy_eq_orderedInsert]; rfl

theorem mem_sortBy {α : Type} (f : α → Nat) (l : List α) (x : α) : x ∈ sortBy f l ↔ x ∈ l := by
  rw [sortBy_eq_insertionSort]
  exact (List.perm_insertionSort _ l).mem_iff

theorem pairwise_sortBy {α : Type} (f : α → Nat) (l : List α) : (sortBy f l).Pairwise fun a b => f a ≤ f b := by
  have htotal : Std.Total fun a b : α => f a ≤ f b := ⟨fun _ _ => Nat.le_total ..⟩
  have htrans : IsTrans α fun a b => f a ≤ f b := ⟨fun _ _ _ => Nat.le_trans⟩
  rw [sortBy_eq_insertionSort]
  exact List.pairwise_insertionSort _ l

/-! ### The first conflict (R266) -/

section Conflict
variable {s : State} {c k : Nat}

theorem findConflict_of_none (h : findConflict s c k = none) :
    ∀ l ∈ (s.thread c k).rgn.reads, conflictMask s.mem (writerOf c k) l.1 l.2 = 0 := by
  intro l hl
  have hclear := List.findSome?_eq_none_iff.mp h l ((mem_sortBy ..).mpr hl)
  dsimp only at hclear
  by_contra hne
  rw [if_neg hne] at hclear
  cases hclear

/-- The conflict that a close reports is that of the read line with the least address that has one. -/
theorem findConflict_of_some {x : Nat × Nat} (h : findConflict s c k = some x) : ∃ l ∈ (s.thread c k).rgn.reads,
    x.1 = l.2.va ∧ x.2 = conflictMask s.mem (writerOf c k) l.1 l.2 ∧ x.2 ≠ 0 ∧
      ∀ m ∈ (s.thread c k).rgn.reads, m.2.pa < l.2.pa → conflictMask s.mem (writerOf c k) m.1 m.2 = 0 := by
  obtain ⟨before, l, after, hsplit, hl, hbefore⟩ := List.findSome?_eq_some_iff.mp h
  have hsorted := pairwise_sortBy (fun e : Nat × ReadLine => e.2.pa) (s.thread c k).rgn.reads
  rw [hsplit, List.pairwise_append, List.pairwise_cons] at hsorted
  obtain ⟨-, ⟨hafter, -⟩, -⟩ := hsorted
  have hmem : ∀ m, m ∈ (s.thread c k).rgn.reads ↔ m ∈ before ++ l :: after := fun m => by rw [← hsplit, mem_sortBy]
  dsimp only at hl
  split at hl
  · cases hl
  next hne =>
    cases hl
    refine ⟨l, (hmem l).mpr (by simp), rfl, rfl, hne, fun m hm hlt => ?_⟩
    rcases List.mem_append.mp ((hmem m).mp hm) with hm | hm
    · by_contra hconflict
      have hclear := hbefore m hm
      dsimp only at hclear
      rw [if_neg hconflict] at hclear
      cases hclear
    · rcases List.mem_cons.mp hm with rfl | hm
      · exact absurd hlt (Nat.lt_irrefl _)
      · exact absurd hlt (Nat.not_lt.mpr (hafter m hm))

/-! ### What a drain sends (R266) -/

/-- Sending takes no packet off a path. -/
theorem mem_path_send {m : Memory} {key key' : Nat} {p q : Packet} (h : p ∈ m.path key) : p ∈ (m.send key' q).path key := by
  by_cases hkey : key = key'
  · subst hkey
    rw [path_send]
    exact List.mem_append_left _ h
  · rwa [show (m.send key' q).path key = m.path key from AMap.getD_set_of_ne _ _ _ hkey]

theorem mem_path_drainLines {key : Nat} {p : Packet} (ls : List (Nat × HeldLine)) (h : p ∈ s.mem.path key) :
    p ∈ (drainLines s c k ls).mem.path key := by
  refine foldl_inv (fun t : State => p ∈ t.mem.path key) _ _ ?_ s h
  exact fun t e _ ht => mem_path_send (m := (t.mem.commit e.1 _ _).2) ht

/-- A held line stands on the path to its home, under a new committed version (M7). -/
def LineSent (m : Memory) (c k : Nat) (l : Nat × HeldLine) : Prop :=
  ∃ p ∈ m.path (pathOf (dieOf c) l.1), p.writer = writerOf c k ∧ p.line = l.1 ∧ p.key = l.2.key ∧
    p.version.isSome = true ∧ p.op = .write l.2.bytes

theorem lineSent_drainLine (s : State) (c k : Nat) (l : Nat × HeldLine) : LineSent (drainLine s c k l.1 l.2).mem c k l := by
  refine ⟨drainPacket s.mem (writerOf c k) l.1 l.2, ?_, rfl, rfl, rfl, rfl, rfl⟩
  rw [mem_drainLine, drainedMem, path_send]
  exact List.mem_append_right _ (List.mem_singleton.mpr rfl)

theorem lineSent_drainLines {ls : List (Nat × HeldLine)} {l : Nat × HeldLine} (hl : l ∈ ls) (s : State) :
    LineSent (drainLines s c k ls).mem c k l := by
  induction ls generalizing s with
  | nil => cases hl
  | cons e ls ih =>
    obtain rfl | hl := List.mem_cons.mp hl
    · obtain ⟨p, hp, hsent⟩ := lineSent_drainLine s c k l
      exact ⟨p, mem_path_drainLines ls hp, hsent⟩
    · exact ih hl (drainLine s c k e.1 e.2)

theorem lineSent_drainRegion (s : State) (c k : Nat) :
    ∀ l ∈ (s.thread c k).rgn.held, LineSent (drainRegion s c k).mem c k l := by
  intro l hl
  rw [drainRegion_eq, State.modThread_mem]
  exact lineSent_drainLines ((mem_sortBy ..).mpr hl) s

end Conflict

/-! ### Closing (R266, R267) -/

/-- A pending conflict is reported again, a new one is recorded and reported, and without one the region drains. -/
theorem regionClose : Claims.RegionClose := by
  intro s c k
  dsimp only
  cases hpending : (s.thread c k).rgn.conflict with
  | some x =>
    have hclose : closeRegion s c k = (some (conflictTrap x), s) := by rw [closeRegion, hpending]
    rw [hclose]
    exact ⟨rfl, rfl, rfl, rfl, x, hpending, rfl, rfl, .inl rfl⟩
  | none =>
    cases hfind : findConflict s c k with
    | some x =>
      have hclose : closeRegion s c k = (some (conflictTrap x), s.modThread c k fun t =>
          { t with rgn := { t.rgn with conflict := some x } }) := by rw [closeRegion, hpending, hfind]
      rw [hclose]
      dsimp only
      rw [State.thread_modThread_self]
      exact ⟨rfl, rfl, rfl, rfl, x, rfl, rfl, rfl, .inr (findConflict_of_some hfind)⟩
    | none =>
      have hclose : closeRegion s c k = (none, drainRegion s c k) := by rw [closeRegion, hpending, hfind]
      rw [hclose]
      dsimp only
      rw [rgn_drainRegion]
      exact ⟨rfl, findConflict_of_none hfind, rfl, rfl, hpending, lineSent_drainRegion s c k⟩

/-! ### The near copies of the read lines (R274) -/

/-- The near copies of lines go. -/
def nearDrops (s : State) (c : Nat) (ls : List Nat) : State := ls.foldl (fun s hl => nearDrop s c hl) s

section NearDrops
variable (s : State) (ls : List Nat)

theorem me_nearDrop (c i : Nat) : (nearDrop s c i).me = s.me := State.thread_modCore _ _ _ _ _ fun _ => rfl

theorem ownBooks_nearDrops : OwnBooks s (nearDrops s s.cur.1 ls) ∧ (nearDrops s s.cur.1 ls).me = s.me ∧
    (nearDrops s s.cur.1 ls).mem = s.mem := by
  refine foldl_inv (fun t : State => OwnBooks s t ∧ t.me = s.me ∧ t.mem = s.mem) _ _ ?_ s ⟨.refl s, rfl, rfl⟩
  rintro t i - ⟨hbooks, hme, hmem⟩
  exact ⟨hbooks.trans (.modNear t s.cur.1 fun _ => ⟨_, rfl⟩), (me_nearDrop ..).trans hme, hmem⟩

theorem near_nearDrops {c i : Nat} (hi : i ∈ ls ∨ AMap.get (s.core c).near i = none) :
    AMap.get ((nearDrops s c ls).core c).near i = none := by
  induction ls generalizing s with
  | nil => exact hi.resolve_left (by simp)
  | cons j ls ih =>
    refine ih (nearDrop s c j) ?_
    rw [near_nearDrop]
    by_cases hij : i = j
    · exact .inr (hij ▸ AMap.get_del_self ..)
    · rw [AMap.get_del_of_ne _ hij]
      exact hi.imp_left fun h => (List.mem_cons.mp h).resolve_left hij

end NearDrops

/-! ### region.force and region.drop (R274) -/

/-- A thread without a pending conflict. -/
def Thread.clearConflict (t : Thread) : Thread := { t with rgn := { t.rgn with conflict := none } }

/-- The lines of a region's read set as the near cache lists them. -/
def readLines (t : Thread) : List Nat := t.rgn.reads.map fun e => e.2.pa / 64

/-- What `region`, `region.force` and `region.drop` leave of the region: nothing. -/
def Renewed (s w : State) : Prop :=
  Claims.onlyPc s w ∧ w.me.rgn.held = [] ∧ w.me.rgn.reads = [] ∧ w.me.rgn.conflict = none

/-- The near cache holds no line that the region had read. -/
def Unread (s w : State) : Prop := ∀ l ∈ s.me.rgn.reads, AMap.get w.myCore.near (l.2.pa / 64) = none

section Ends
variable {s : State}

theorem renewed_retire {t : State} (hbooks : OwnBooks s t) (hheld : t.me.rgn.held = []) (hreads : t.me.rgn.reads = [])
    (hconflict : t.me.rgn.conflict = none) (y : Bool) : Renewed s (retire t (s.me.pc + 12) y) := by
  obtain ⟨hheld', hreads', hconflict'⟩ := sameLines_retire t (s.me.pc + 12) y
  exact ⟨(hbooks.retired y).1, hheld'.trans hheld, hreads'.trans hreads, hconflict'.trans hconflict⟩

/-- With no line of a removed page held, a forced region drains as it stands. -/
theorem forceGone_of_noneGone (hgone : Claims.noneGone s) : OwnBooks s (forceGone s s.cur.1 s.cur.2) ∧
    (forceGone s s.cur.1 s.cur.2).me.rgn = s.me.rgn := by
  have hkept : s.me.rgn.held.filter (fun e => !e.2.gone) = s.me.rgn.held :=
    List.filter_eq_self.mpr fun e he => by simp [hgone e he]
  have hlost : s.me.rgn.held.filter (fun e => e.2.gone) = [] :=
    List.filter_eq_nil_iff.mpr fun e he => by simp [hgone e he]
  have hforce : forceGone s s.cur.1 s.cur.2 = s.modMe fun t =>
      { t with rgn := { t.rgn with held := t.rgn.held.filter fun e => !e.2.gone } } := by
    rw [forceGone, State.me_eq, hlost]
    rfl
  rw [hforce]
  refine ⟨.modMe s fun _ => ⟨_, _, _, _, rfl⟩, ?_⟩
  rw [State.me_modMe]
  dsimp only
  rw [hkept]

/-- A region ends: the near copies of its read lines go, and then the thread's own record of it (R274). -/
theorem ended_region {t : State} (hbooks : OwnBooks s t) {f : Thread → Thread} (hf : ∀ u : State, OwnBooks u (u.modMe f))
    (hheld : (f t.me).rgn.held = []) (hreads : (f t.me).rgn.reads = []) (hconflict : (f t.me).rgn.conflict = none) (y : Bool) :
    let w := retire ((nearDrops t s.cur.1 (readLines s.me)).modThread s.cur.1 s.cur.2 f) (s.me.pc + 12) y
    Renewed s w ∧ Unread s w ∧ w.mem = t.mem := by
  obtain ⟨hdrops, hme, hmem⟩ := ownBooks_nearDrops t (readLines s.me)
  have hnear : ∀ l ∈ s.me.rgn.reads, AMap.get (nearDrops t t.cur.1 (readLines s.me)).myCore.near (l.2.pa / 64) = none :=
    fun l hl => by
      rw [State.myCore, hdrops.cur]
      exact near_nearDrops t _ (.inl (List.mem_map_of_mem hl))
  rw [← hbooks.cur]
  generalize nearDrops t t.cur.1 (readLines s.me) = u at *
  have hmod : u.modThread t.cur.1 t.cur.2 f = u.modMe f := by rw [← hdrops.cur]; rfl
  have hme' : (u.modMe f).me = f t.me := by rw [State.me_modMe, hme]
  dsimp only
  rw [hmod]
  refine ⟨renewed_retire ((hbooks.trans hdrops).trans (hf u)) ?_ ?_ ?_ y, fun l hl => ?_, ?_⟩
  · rwa [hme']
  · rwa [hme']
  · rwa [hme']
  · rw [near_retire, State.modMe_eq_modCore, State.myCore_modCore]
    exact hnear l hl
  · rw [retire_mem]
    exact hmem

theorem forceRegion_eq (s : State) : forceRegion s s.cur.1 s.cur.2 =
    (nearDrops (drainRegion (forceGone s s.cur.1 s.cur.2) s.cur.1 s.cur.2) s.cur.1 (readLines s.me)).modThread
      s.cur.1 s.cur.2 Thread.clearConflict := rfl

/-- `region.force` behind its waits: the region drains as `region` does, and nothing of it is left. -/
theorem forceRegion_spec (hgone : Claims.noneGone s) (y : Bool) :
    let w := retire (forceRegion s s.cur.1 s.cur.2) (s.me.pc + 12) y
    Renewed s w ∧ Unread s w ∧ ∀ l ∈ s.me.rgn.held, LineSent w.mem s.cur.1 s.cur.2 l := by
  obtain ⟨hforced, hrgn⟩ := forceGone_of_noneGone hgone
  generalize hr : forceGone s s.cur.1 s.cur.2 = r at *
  have hdrained := ownBooks_drainRegion r
  have hsent := lineSent_drainRegion r s.cur.1 s.cur.2
  have hempty := me_rgn_drainRegion r
  rw [hforced.cur] at hdrained hempty
  have hheld : (r.thread s.cur.1 s.cur.2).rgn.held = s.me.rgn.held := by rw [← hrgn, State.me, hforced.cur]
  obtain ⟨hrenewed, hunread, hmem⟩ := ended_region (hforced.trans hdrained) (f := Thread.clearConflict)
    (fun u => .modMe u fun _ => ⟨_, _, _, _, rfl⟩) (congrArg Region.held hempty) (congrArg Region.reads hempty) rfl y
  rw [forceRegion_eq, hr]
  refine ⟨hrenewed, hunread, fun l hl => ?_⟩
  rw [hmem]
  exact hsent l (hheld.symm ▸ hl)

/-- `region.drop` behind its wait: nothing of the region is left, and memory is as it was. -/
theorem discardRegion_spec (y : Bool) :
    let w := retire (discardRegion s s.cur.1 s.cur.2) (s.me.pc + 12) y
    Renewed s w ∧ Unread s w ∧ w.mem = s.mem :=
  ended_region (.refl s) (f := fun t => t.dropRegion.clearConflict) (fun u => .modMe u fun _ => ⟨_, _, _, _, rfl⟩)
    rfl rfl rfl y

end Ends

/-- `region` closes; `region.force` and `region.drop` end the region without a validation. -/
theorem regionBoundaries : Claims.RegionBoundaries := by
  intro h s hg
  refine ⟨fun hd => ⟨?_, ?_, ?_⟩,
    fun hd => ⟨fun hpass => ?closes, fun hidle => ⟨fun hheld hgone => ?forced, ?dropped⟩⟩⟩
  · exact run_ok (e := effRegion) hg (withBoundary_of_defers hd _)
  · exact run_ok (e := effRegionForce) hg (if_pos hd)
  · exact run_ok (e := effRegionDrop) hg (if_pos hd)
  case closes =>
    have hdone := boundaryDone_of_sameLines hpass (sameLines_retire (bounded s) (s.me.pc + 12) h.yields)
    rw [Claims.boundaryDone, if_neg (by rw [hd]; decide)] at hdone
    refine ⟨_, run_ok (e := effRegion) hg (withBoundary_of_passes hpass _),
      ⟨(ownBooks_bounded s).keepsRegisters.onlyPc _, hdone⟩, fun l hl => ?_⟩
    obtain ⟨p, hp, hwriter, hline, -, -, hop⟩ := lineSent_drainRegion s s.cur.1 s.cur.2 l hl
    rw [retire_mem, bounded_of_not_defers hd]
    exact ⟨p, hp, hwriter, hline, hop⟩
  case forced =>
    obtain ⟨hrenewed, hunread, hsent⟩ := forceRegion_spec hgone h.yields
    have heff : effRegionForce s = .ok (forceRegion s s.cur.1 s.cur.2) := by
      rw [effRegionForce, hd, if_neg (by decide), withSiding_of_idle hidle, hheld, if_neg (by decide)]
    refine ⟨_, run_ok (e := effRegionForce) hg heff, hrenewed, hunread, fun l hl => ?_⟩
    obtain ⟨p, hp, hwriter, hline, -, -, hop⟩ := hsent l hl
    exact ⟨p, hp, hwriter, hline, hop⟩
  case dropped =>
    have heff : effRegionDrop s = .ok (discardRegion s s.cur.1 s.cur.2) := by
      rw [effRegionDrop, hd, if_neg (by decide), withSiding_of_idle hidle]
    exact ⟨_, run_ok (e := effRegionDrop) hg heff, discardRegion_spec h.yields⟩

/-- Settles O18: a close by its three cases, and the three instructions inside and outside a tolerant region. -/
theorem regions : Obligations.Regions := ⟨regionClose, regionBoundaries⟩

end Sys2Proof.Machine

/-! PROOFS. O19: tagged words and the tags of a line (R276, R278). -/

namespace Sys2Proof.Machine

open Sys2Proof

/-! ### Masks of words -/

theorem testBit_maskOf (ws : List Nat) (i : Nat) : (maskOf ws).testBit i = decide (i ∈ ws) := by
  have hfold : ∀ (ws : List Nat) (a : Nat), (ws.foldl (fun a i => a ||| 2 ^ i) a).testBit i =
      (a.testBit i || decide (i ∈ ws)) := by
    intro ws
    induction ws with
    | nil => intro a; simp
    | cons w ws ih =>
      intro a
      rw [List.foldl_cons, ih, Nat.testBit_or, Nat.testBit_two_pow, Bool.or_assoc]
      simp only [List.mem_cons, Bool.decide_or, eq_comm]
  rw [maskOf, hfold, Nat.zero_testBit, Bool.false_or]

theorem testBit_wfld_zero (w : Word) (n i : Nat) : (wfld w 0 n).testBit i = (decide (i < n) && w.getLsbD i) := by
  rw [wfld, fld, pow_zero, Nat.div_one, Nat.testBit_mod_two_pow]
  rfl

theorem getLsbD_zextW (x n i : Nat) (hi : i < 64) : (zextW x n).getLsbD i = (decide (i < n) && x.testBit i) := by
  rw [zextW, BitVec.getLsbD_ofNat, Nat.testBit_mod_two_pow, decide_eq_true hi, Bool.true_and]

/-! ### The target of a tagged access (R276) -/

section Target
variable {s : State} {a : Word} {o n : Nat}

theorem isPeer_of_poolOpen (hopen : Claims.poolOpen s a o n) : isPeer a = false := by
  obtain ⟨ha, ho, -⟩ := hopen
  rw [show a = winAddr o from ha, isPeer, decodeAddr_winAddr ho]

theorem tagTarget_of_poolOpen (hopen : Claims.poolOpen s a o n) (hscratch : inScratch s.myCore.part o n = true) :
    tagTarget s a n = .inr (s.cur.1, o) := by
  obtain ⟨ha, ho, hlim, hsill, -, -⟩ := hopen
  have hcheck : poolCheck s s.cur.1 s.me.priv a o n = none := poolCheck_eq_none a hlim hsill
  rw [tagTarget, show windowAt s s.cur.1 a = some (s.cur.1, o) by rw [show a = winAddr o from ha, windowAt_winAddr _ _ ho]]
  simp only [← State.myCore.eq_def, hscratch, if_true, hcheck]

theorem unshut_of_poolOpen (hopen : Claims.poolOpen s a o n) :
    (poolShut s.myCore o n || vstPending s a.toNat n) = false := by
  obtain ⟨-, -, -, -, hshut, hvst⟩ := hopen
  rw [hshut, hvst]
  rfl

end Target

/-! ### What a change of tags leaves -/

theorem TagFrame.cur {s t : State} (h : TagFrame s t) : t.cur = s.cur := by
  obtain ⟨_, rfl⟩ := h.cores
  rfl

theorem TagFrame.mem {s t : State} (h : TagFrame s t) : t.mem = s.mem := by
  obtain ⟨_, rfl⟩ := h.cores
  rfl

theorem TagFrame.keepsRegisters {s t : State} (h : TagFrame s t) : KeepsRegisters s t := by
  obtain ⟨_, hme⟩ := h.thread s.cur.1 s.cur.2
  replace hme : t.me = _ := (congrArg (fun c : Nat × Nat => t.thread c.1 c.2) h.cur).trans hme
  constructor
  · exact h.cur
  all_goals rw [hme]; rfl

theorem OwnBooks.tagFull {s t : State} (h : OwnBooks s t) (p : Nat) : t.myCore.tagFull p = s.myCore.tagFull p := by
  obtain ⟨_, _, hcore⟩ := h.myCore
  rw [hcore]
  rfl

theorem tagFull_retire (t : State) (pc : Word) (y : Bool) (p : Nat) :
    (retire t pc y).myCore.tagFull p = t.myCore.tagFull p := by
  rw [State.myCore, retire_cur]
  exact tagFull_retireWith t pc y none t.cur.1 p

theorem tagFull_wrG (t : State) (r : Nat) (v : Word) (p : Nat) : (t.wrG r v).myCore.tagFull p = t.myCore.tagFull p := by
  rw [State.wrG, State.modMe_eq_modCore, State.myCore_modCore]
  rfl

/-- The tags of the acting core after a change with its waiters. -/
theorem tagsSet_setTagsWake {s t : State} (hcur : t.cur = s.cur) (htags : ∀ p, t.myCore.tagFull p = s.myCore.tagFull p)
    {o n : Nat} (ho : o % 4 = 0) (hn : n % 4 = 0) (full : Bool) : Claims.tagsSet s (setTagsWake t s.cur.1 o n full) o n full := by
  intro w
  rw [State.myCore, (TagFrame.setTagsWake t s.cur.1 o n full).cur, hcur, tagFull_setTagsWake t s.cur.1 ho hn,
    ← hcur, ← State.myCore.eq_def, htags]
  exact if_congr (and_iff_right rfl) rfl rfl

theorem tagsSet_retire {s t : State} {o n : Nat} {full : Bool} (h : Claims.tagsSet s t o n full) (pc : Word) (y : Bool) :
    Claims.tagsSet s (retire t pc y) o n full := fun w => (tagFull_retire ..).trans (h w)

/-! ### Tagged words (R276) -/

theorem pBytes_mod_four (q : PTy) : pBytes q % 4 = 0 := by cases q <;> rfl

theorem mod_four_of_mod_pBytes {q : PTy} {o : Nat} (ho : o % pBytes q = 0) : o % 4 = 0 :=
  Nat.mod_eq_zero_of_dvd ((Nat.dvd_of_mod_eq_zero (pBytes_mod_four q)).trans (Nat.dvd_of_mod_eq_zero ho))

section Words
variable {s : State} {a : Word} {o n : Nat}

section Load
variable (hread : Claims.poolReadable s a o n) (hscratch : inScratch s.myCore.part o n = true)
  (hroom : Claims.lineRoom s o) (hanswer : answerFor s a 4 = none)
include hread hscratch hroom hanswer

/-- A tagged load past its checks looks at the tags of its words. -/
theorem taggedRead_of_poolReadable (keep : Bool) : ∃ t, OwnBooks s t ∧ ∀ k, taggedRead s a n keep k =
    if s.myCore.allFull o n = false then .park s (.tag s.cur.1 (o / 64 * 64))
    else k (tagLoad t s.cur.1 o n keep) (s.myCore.bytes o n) := by
  obtain ⟨hopen, hpoison, htol⟩ := hread
  obtain ⟨t, hcount, hbooks, -⟩ := tolWrite_of_lineRoom hroom
  refine ⟨if keep then s else t, ?_, fun k => ?_⟩
  · split
    · exact .refl s
    · exact hbooks
  · have hcounted : (if keep then some s else tolWrite s s.cur.1 o) = some (if keep then s else t) := by
      rw [hcount]
      split <;> rfl
    rw [taggedRead, tagTarget_of_poolOpen hopen hscratch]
    simp only [hanswer, unshut_of_poolOpen hopen, htol, hcounted, isPeer_of_poolOpen hopen, ← State.myCore.eq_def, hpoison,
      Bool.false_eq_true, if_false]

end Load

/-- A tagged store past its checks looks at the tags of its words. -/
theorem taggedWrite_of_poolOpen {bs : List Byte} (hopen : Claims.poolOpen s a o bs.length)
    (hscratch : inScratch s.myCore.part o bs.length = true) (hroom : Claims.lineRoom s o)
    (hanswer : answerFor s a 5 = none) : ∃ t, OwnBooks s t ∧ ∀ k, taggedWrite s a bs k =
      if s.myCore.allEmpty o bs.length = false then .park s (.tag s.cur.1 (o / 64 * 64))
      else k (setTagsWake (storeIn t o bs) s.cur.1 o bs.length true) := by
  obtain ⟨t, hcount, hbooks, -⟩ := tolWrite_of_lineRoom hroom
  refine ⟨t, hbooks, fun k => ?_⟩
  rw [taggedWrite, tagTarget_of_poolOpen hopen hscratch]
  simp only [hanswer, unshut_of_poolOpen hopen, hcount, isPeer_of_poolOpen hopen, ← State.myCore.eq_def, tagStore, storeIn,
    hbooks.cur, Bool.false_eq_true, if_false]

end Words

/-- What `ld.wf` leaves of the tags and of all else: nothing but its own tags, and these only where it empties them. -/
theorem tagLoad_spec {s t : State} (hbooks : OwnBooks s t) {o n : Nat} (ho : o % 4 = 0) (hn : n % 4 = 0) (keep : Bool) :
    KeepsRegisters s (tagLoad t s.cur.1 o n keep) ∧ Claims.sameMem s (tagLoad t s.cur.1 o n keep) ∧
      (∀ c, ((tagLoad t s.cur.1 o n keep).core c).pool = (s.core c).pool) ∧
      if keep then ∀ w, (tagLoad t s.cur.1 o n keep).myCore.tagFull (4 * w) = s.myCore.tagFull (4 * w)
      else Claims.tagsSet s (tagLoad t s.cur.1 o n keep) o n false := by
  cases keep with
  | true => exact ⟨hbooks.keepsRegisters, hbooks.mem, hbooks.pool, fun w => hbooks.tagFull _⟩
  | false =>
    have hframe := TagFrame.setTagsWake t s.cur.1 o n false
    refine ⟨hbooks.keepsRegisters.trans hframe.keepsRegisters, ?_, fun c => (hframe.pool c).trans (hbooks.pool c),
      tagsSet_setTagsWake hbooks.cur hbooks.tagFull ho hn false⟩
    rw [Claims.sameMem, show (tagLoad t s.cur.1 o n false).mem = t.mem from hframe.mem]
    exact hbooks.mem

/-- What `st.we` leaves: its bytes, full. -/
theorem tagStore_spec {s t : State} (hbooks : OwnBooks s t) (hwf : s.memWf = true) {o : Nat} {bs : List Byte}
    (ho : o % 4 = 0) (hn : bs.length % 4 = 0) (y : Bool) :
    let w := retire (setTagsWake (storeIn t o bs) s.cur.1 o bs.length true) (s.me.pc + 12) y
    Claims.onlyPc s w ∧ Claims.tagsSet s w o bs.length true ∧ Claims.storedOnly s w o bs := by
  have hframe := TagFrame.setTagsWake (storeIn t o bs) s.cur.1 o bs.length true
  have hcur : (storeIn t o bs).cur = s.cur := hbooks.cur
  have htags : ∀ p, (storeIn t o bs).myCore.tagFull p = s.myCore.tagFull p := fun p => by
    rw [← hbooks.tagFull, State.myCore, storeIn, State.modCore_cur, State.core_modCore_self]
    rfl
  refine ⟨((keepsRegisters_storeIn hbooks bs).trans hframe.keepsRegisters).onlyPc y,
    tagsSet_retire (tagsSet_setTagsWake hcur htags ho hn true) _ _, ?_⟩
  refine storedOnly_of_pool hwf (hframe.cur.trans hcur) ?_ (fun c hc => ?_) ?_ _ y
  · rw [hframe.pool, ← hbooks.cur, storeIn, State.core_modCore_self]
    exact congrArg (Cells.putN · o bs) (hbooks.pool _)
  · rw [hframe.pool, storeIn, State.core_modCore_of_ne _ _ (by rwa [hbooks.cur]), hbooks.pool]
  · rw [Claims.sameMem, hframe.mem]
    exact hbooks.mem

section Effects
variable {s : State} {q : PTy} {m : Mem} {o : Nat} (ho : o % pBytes q = 0)
  (hscratch : inScratch s.myCore.part o (pBytes q) = true) (hroom : Claims.lineRoom s o)
include ho hscratch hroom

theorem effLdWf_of_poolReadable (keep u : Bool) (d : Fin 64) (hanswer : answerFor s (memAddr s m (pBytes q)) 4 = none)
    (hread : Claims.poolReadable s (memAddr s m (pBytes q)) o (pBytes q)) : ∃ t, OwnBooks s t ∧ effLdWf q keep u d m s =
      if s.myCore.allFull o (pBytes q) = false then .park s (.tag s.cur.1 (o / 64 * 64))
      else .ok ((tagLoad t s.cur.1 o (pBytes q) keep).wrG d.val (Claims.loaded u (pBytes q) (s.myCore.num o (pBytes q)))) := by
  obtain ⟨t, hbooks, heff⟩ := taggedRead_of_poolReadable hread hscratch hroom hanswer keep
  refine ⟨t, hbooks, ?_⟩
  rw [effLdWf, aligned_of_poolOpen hread.1 (pBytes_dvd q) ho, heff, extend_bytes]

theorem effStWe_of_poolOpen (x : GSrc) (hanswer : answerFor s (memAddr s m (pBytes q)) 5 = none)
    (hopen : Claims.poolOpen s (memAddr s m (pBytes q)) o (pBytes q)) : ∃ t, OwnBooks s t ∧ effStWe q m x s =
      if s.myCore.allEmpty o (pBytes q) = false then .park s (.tag s.cur.1 (o / 64 * 64))
      else .ok (setTagsWake (storeIn t o (lowBytes (pBytes q) (readGSrc s x))) s.cur.1 o (pBytes q) true) := by
  have hlen : (lowBytes (pBytes q) (readGSrc s x)).length = pBytes q := length_toBytes ..
  obtain ⟨t, hbooks, heff⟩ := taggedWrite_of_poolOpen (bs := lowBytes (pBytes q) (readGSrc s x))
    (by rwa [hlen]) (by rwa [hlen]) hroom hanswer
  refine ⟨t, hbooks, ?_⟩
  rw [effStWe, aligned_of_poolOpen hopen (pBytes_dvd q) ho, heff, hlen]

end Effects

/-- Both instructions look at the tags of their words: they act where these allow it, and wait where not. -/
theorem taggedWords : Claims.TaggedWords := by
  intro h q keep u d m x s o hg hwf hroom n a ho hscratch hload hstore
  have ho4 := mod_four_of_mod_pBytes ho
  have hn4 := pBytes_mod_four q
  have hld := effLdWf_of_poolReadable ho hscratch hroom keep u d hload
  have hst := effStWe_of_poolOpen ho hscratch hroom x hstore
  refine ⟨fun hread hfull => ?loads, fun hopen hempty => ?stores, fun hread hfull => ?waits, fun hopen hempty => ?holds⟩
  case loads =>
    obtain ⟨t, hbooks, heff⟩ := hld hread
    obtain ⟨hregs, hmem, hpool, htags⟩ := tagLoad_spec hbooks ho4 hn4 keep
    refine ⟨_, run_ok (e := effLdWf q keep u d m) hg (heff.trans (if_neg (by rw [hfull]; decide))), ?_, ?_, ?_,
      rdG_retire_wrG hregs d _ _ _, ?_, fun c => ?_⟩
    · exact (retire_cur ..).trans hregs.cur
    · rw [retire_me, Thread.retire_pc]
    · rw [Claims.sameMem, retire_mem, State.wrG_mem]
      exact hmem
    · cases keep with
      | true => exact fun w => (tagFull_retire ..).trans ((tagFull_wrG ..).trans (htags w))
      | false => exact fun w => (tagFull_retire ..).trans ((tagFull_wrG ..).trans (htags w))
    · rw [retire_pool, State.wrG, pool_modMe, hpool]
  case stores =>
    obtain ⟨t, hbooks, heff⟩ := hst hopen
    have hlen : (lowBytes (pBytes q) (readGSrc s x)).length = pBytes q := length_toBytes ..
    have hspec := tagStore_spec hbooks hwf (bs := lowBytes (pBytes q) (readGSrc s x)) ho4 (by rwa [hlen]) h.yields
    rw [hlen] at hspec
    exact ⟨_, run_ok (e := effStWe q m x) hg (heff.trans (if_neg (by rw [hempty]; decide))), hspec⟩
  case waits =>
    obtain ⟨t, -, heff⟩ := hld hread
    exact run_park (e := effLdWf q keep u d m) hg (heff.trans (if_pos hfull))
  case holds =>
    obtain ⟨t, -, heff⟩ := hst hopen
    exact run_park (e := effStWe q m x) hg (heff.trans (if_pos hempty))

/-! ### The tags of a line (R278) -/

/-- The first n tags from o on that a mask selects, set. -/
def Core.setMasked (x : Core) (o mask : Nat) (full : Bool) (n : Nat) : Core :=
  foldUp n (fun i y => if mask.testBit i then y.setTag (o + 4 * i) full else y) x

theorem setLineTags_eq (s : State) (c o mask : Nat) (full : Bool) : setLineTags s c o mask full =
    wakeTag (s.modCore c fun x => x.setMasked o mask full 16) c o := rfl

theorem Core.setMasked_eq (x : Core) (o mask : Nat) (full : Bool) (n : Nat) :
    x.setMasked o mask full n = { x with emptyTags := (x.setMasked o mask full n).emptyTags } := by
  refine foldl_inv (fun y : Core => y = { x with emptyTags := y.emptyTags }) _ _ (fun y i _ hy => ?_) x rfl
  dsimp only
  split
  · rw [hy, Core.setTag]
    split <;> rfl
  · exact hy

theorem Core.tagFull_setMasked (x : Core) {o : Nat} (ho : o % 4 = 0) (mask : Nat) (full : Bool) (n w : Nat) :
    (x.setMasked o mask full n).tagFull (4 * w) =
      if o / 4 ≤ w ∧ w < o / 4 + n ∧ mask.testBit (w - o / 4) = true then full else x.tagFull (4 * w) := by
  induction n with
  | zero => exact (if_neg (by omega)).symm
  | succ n ih =>
    rw [Core.setMasked, foldUp, List.range_succ, List.foldl_append, List.foldl_cons, List.foldl_nil]
    change Core.tagFull (if mask.testBit n then (x.setMasked o mask full n).setTag (o + 4 * n) full
      else x.setMasked o mask full n) (4 * w) = _
    by_cases hw : w = o / 4 + n
    · have hbit : w - o / 4 = n := by omega
      rw [hbit]
      cases hset : mask.testBit n with
      | true => rw [if_pos rfl, Core.tagFull_setTag, if_pos (by omega), if_pos ⟨by omega, by omega, rfl⟩]
      | false => rw [if_neg (by decide), ih, if_neg (by omega), if_neg (by simp)]
    · have hkept : Core.tagFull (if mask.testBit n then (x.setMasked o mask full n).setTag (o + 4 * n) full
          else x.setMasked o mask full n) (4 * w) = (x.setMasked o mask full n).tagFull (4 * w) := by
        split
        · rw [Core.tagFull_setTag, if_neg (by omega)]
        · rfl
      rw [hkept, ih]
      exact if_congr (and_congr_right fun _ => and_congr_left' (by omega)) rfl rfl

theorem TagFrame.setLineTags (s : State) (c o mask : Nat) (full : Bool) : TagFrame s (setLineTags s c o mask full) := by
  have hset : TagFrame s (s.modCore c fun x => x.setMasked o mask full 16) := by
    refine ⟨⟨_, rfl⟩, fun c' k => ⟨_, State.thread_modCore _ _ _ _ _ fun x => by rw [Core.setMasked_eq]⟩, fun c' => ?_⟩
    by_cases hc : c' = c
    · rw [hc, State.core_modCore_self, Core.setMasked_eq]
    · rw [State.core_modCore_of_ne _ _ hc]
  rw [setLineTags_eq]
  exact hset.trans (.wakeTag ..)

theorem tagFull_setLineTags (s : State) {o : Nat} (ho : o % 4 = 0) (mask : Nat) (full : Bool) (w : Nat) :
    (setLineTags s s.cur.1 o mask full).myCore.tagFull (4 * w) =
      if o / 4 ≤ w ∧ w < o / 4 + 16 ∧ mask.testBit (w - o / 4) = true then full else s.myCore.tagFull (4 * w) := by
  rw [State.myCore, (TagFrame.setLineTags ..).cur, setLineTags_eq, tagFull_wakeTag, State.core_modCore_self,
    Core.tagFull_setMasked _ ho]
  rfl

section Lines
variable {s : State} {a : Word} {o : Nat} (hopen : Claims.poolOpen s a o 64) (hscratch : inScratch s.myCore.part o 64 = true)
include hopen hscratch

theorem tagRead_of_poolOpen (htol : tolRead s s.cur.1 o 64 = false) (k : State → Nat → Eff) :
    tagRead s a k = k s (s.myCore.lineTags o) := by
  rw [tagRead, tagTarget_of_poolOpen hopen hscratch]
  simp only [unshut_of_poolOpen hopen, htol, isPeer_of_poolOpen hopen, ← State.myCore.eq_def, Bool.false_eq_true, if_false]

theorem tagChange_of_poolOpen (hroom : Claims.lineRoom s o) (mask : Nat) (full : Bool) : ∃ t, OwnBooks s t ∧
    ∀ k, tagChange s a mask full k = k (setLineTags t t.cur.1 o mask full) := by
  obtain ⟨t, hcount, hbooks, -⟩ := tolWrite_of_lineRoom hroom
  refine ⟨t, hbooks, fun k => ?_⟩
  rw [tagChange, tagTarget_of_poolOpen hopen hscratch]
  simp only [unshut_of_poolOpen hopen, hcount, isPeer_of_poolOpen hopen, ← State.myCore.eq_def, hbooks.cur, Bool.false_and,
    Bool.false_eq_true, if_false]

end Lines

/-- Past its checks a change of a line's tags sets those that the mask selects, and nothing else. -/
theorem run_tagChange {h : Hdr} {e : State → Eff} {s : State} {a v : Word} {o : Nat} {full : Bool} (hg : guardHolds s h = true)
    (ho : o % 64 = 0) (hopen : Claims.poolOpen s a o 64) (hscratch : inScratch s.myCore.part o 64 = true)
    (hroom : Claims.lineRoom s o) (he : e s = tagChange s a (wfld v 0 16) full Eff.ok) :
    ∃ w, run h e s = .next w ∧ Claims.onlyPc s w ∧ Claims.sameMem s w ∧ (∀ c, (w.core c).pool = (s.core c).pool) ∧
      ∀ i, w.myCore.tagFull (4 * i) = if o / 4 ≤ i ∧ i < o / 4 + 16 ∧ v.getLsbD (i - o / 4) = true then full
        else s.myCore.tagFull (4 * i) := by
  obtain ⟨t, hbooks, heff⟩ := tagChange_of_poolOpen hopen hscratch hroom (wfld v 0 16) full
  have hframe := TagFrame.setLineTags t t.cur.1 o (wfld v 0 16) full
  refine ⟨_, run_ok hg (he.trans (heff _)), (hbooks.keepsRegisters.trans hframe.keepsRegisters).onlyPc _, ?_, fun c => ?_,
    fun i => ?_⟩
  · rw [Claims.sameMem, retire_mem, hframe.mem]
    exact hbooks.mem
  · rw [retire_pool, hframe.pool, hbooks.pool]
  · rw [tagFull_retire, tagFull_setLineTags t (by omega), hbooks.tagFull, testBit_wfld_zero]
    refine if_congr (and_congr_right fun hlow => and_congr_right fun hhigh => ?_) rfl rfl
    rw [decide_eq_true (by omega), Bool.true_and]

theorem lineTags : Claims.LineTags := by
  intro h d m x s o hg a ho hscratch hopen hroom sets
  have hal : ∀ e, aligned s a 64 e = e := aligned_of_poolOpen hopen (dvd_refl 64) ho
  refine ⟨fun htol => ⟨zextW (s.myCore.lineTags o) 16, ?_, fun i hi => ?_⟩, ?_, ?_⟩
  · exact run_ok (e := effTagRd d m) hg ((hal _).trans (tagRead_of_poolOpen hopen hscratch htol _))
  · rw [getLsbD_zextW _ _ _ hi, Core.lineTags, testBit_maskOf]
    by_cases hi16 : i < 16 <;> simp [hi16]
  · exact run_tagChange (e := effTagFull m x) hg ho hopen hscratch hroom (hal _)
  · exact run_tagChange (e := effTagEmpty m x) hg ho hopen hscratch hroom (hal _)

/-- Settles O19: tagged words by what their tags allow, and a line's tags by its mask. -/
theorem tags : Obligations.Tags := ⟨taggedWords, lineTags⟩

end Sys2Proof.Machine

/-! PROOFS. O14, O15: loads and stores of translated module DRAM (R262 to R264). -/

namespace Sys2Proof.Machine

open Sys2Proof

/-! ### Words and bytes -/

theorem mem_wordsOf (offs : List Nat) (i : Nat) : i ∈ wordsOf offs ↔ ∃ o ∈ offs, o / 4 = i := by
  have hfold : ∀ (offs acc : List Nat), i ∈ offs.foldl (fun a o => insertNat (o / 4) a) acc ↔
      i ∈ acc ∨ ∃ o ∈ offs, o / 4 = i := by
    intro offs
    induction offs with
    | nil => simp
    | cons o offs ih =>
      intro acc
      rw [List.foldl_cons, ih, mem_insertNat]
      simp only [List.mem_cons, exists_eq_or_imp, eq_comm (a := i), or_assoc, or_left_comm]
  rw [wordsOf, hfold]
  simp

/-- The words that n consecutive bytes touch. -/
theorem testBit_maskOf_range (off n i : Nat) : (maskOf (wordsOf ((List.range n).map fun j => off + j))).testBit i = true ↔
    0 < n ∧ off / 4 ≤ i ∧ i * 4 < off + n := by
  rw [testBit_maskOf, decide_eq_true_iff, mem_wordsOf]
  constructor
  · rintro ⟨o, ho, hi⟩
    obtain ⟨j, hj, rfl⟩ := List.mem_map.mp ho
    have hlt := List.mem_range.mp hj
    omega
  · rintro ⟨hn, hlow, hhigh⟩
    refine ⟨off + (max off (4 * i) - off), List.mem_map_of_mem (List.mem_range.mpr ?_), ?_⟩
    · omega
    · omega

/-- Bytes that enter a map stand there in their order. -/
theorem get_foldl_byteMap (m : AMap Byte) (off : Nat) (bs : List Byte) (j : Nat) :
    AMap.get ((byteMap off bs).foldl (fun m e => AMap.set m e.1 e.2) m) j =
      if off ≤ j ∧ j < off + bs.length then bs[j - off]? else AMap.get m j := by
  induction bs generalizing m off with
  | nil => exact (if_neg (by simp)).symm
  | cons b bs ih =>
    rw [byteMap, List.foldl_cons, ih]
    by_cases hj : j = off
    · rw [hj, if_neg (by omega), AMap.get_set_self, if_pos (by simp), Nat.sub_self, List.getElem?_cons_zero]
    · rw [AMap.get_set_of_ne _ _ hj, List.length_cons]
      by_cases hin : off + 1 ≤ j ∧ j < off + 1 + bs.length
      · rw [if_pos hin, if_pos (by omega), show j - off = j - (off + 1) + 1 by omega, List.getElem?_cons_succ]
      · rw [if_neg hin, if_neg (by omega)]

/-! ### Translation (R250) -/

section Translate
variable {s : State} {a : Word} {kind : WalkKind} {tr : Trans}

/-- With no line of a removed page held, a translation moves nothing. -/
theorem regain_of_noneGone (h : Claims.noneGone s) (va : Nat) (tr : Trans) : regain s va tr = s := by
  have hnone : s.me.rgn.held.find? (fun e => e.2.gone && e.2.va / 64 == va / 64) = none :=
    List.find?_eq_none.mpr fun e he => by simp [h e he]
  rw [regain, hnone]

theorem withTrans_of_tlbHit (h : Claims.tlbHit s a kind tr) (issuer : Nat) (k : State → Trans → Eff) :
    withTrans s a kind issuer k = k s tr := by
  obtain ⟨-, hcanon, hgone, e, hfind, rfl⟩ := h
  simp only [withTrans, hcanon, hfind, regain_of_noneGone hgone, Bool.not_true, Bool.false_eq_true, if_false]

theorem windowCheck_of_global (ha : decodeAddr a = .global) (n : Nat) (write : Bool) : windowCheck s a n write = none := by
  rw [windowCheck, ha]

theorem readAny_of_globalOpen {n : Nat} (h : Claims.globalOpen s a n .read tr) (issuer : Nat) (home rec' : Bool)
    (k : State → List Byte → Eff) : readAny s a n issuer home rec' k = globalRead s a tr n home rec' k := by
  obtain ⟨htlb, -, hshut, hvst, -⟩ := h
  rw [readAny, windowCheck_of_global htlb.1]
  simp only [htlb.1, hshut, hvst, Bool.or_false, Bool.false_eq_true, if_false, withTrans_of_tlbHit htlb]

theorem writeAny_of_globalOpen {bs : List Byte} (h : Claims.globalOpen s a bs.length .write tr) (issuer : Nat) (own : Bool)
    (k : State → Eff) : writeAny s a bs issuer own k = globalWrite s a tr bs own k := by
  obtain ⟨htlb, -, hshut, hvst, -⟩ := h
  rw [writeAny, windowCheck_of_global htlb.1]
  simp only [htlb.1, hshut, hvst, Bool.or_false, Bool.false_eq_true, if_false, withTrans_of_tlbHit htlb]

end Translate

/-! ### Loads that hit the near cache (R262) -/

/-- With none of the thread's own writes on their way the base gives every byte of a read, and every word. -/
theorem overlay_of_none {s : State} {c k hl off : Nat} {base : List Byte}
    (h : ∀ i, i < base.length → ownByte s c k hl (off + i) = none) :
    overlay s c k hl off base = (base, maskOf (wordsOf ((List.range base.length).map fun i => off + i))) := by
  have hxs : (List.range base.length).map (fun i => (i, ownByte s c k hl (off + i))) =
      (List.range base.length).map fun i => (i, none) :=
    List.map_congr_left fun i hi => by rw [h i (List.mem_range.mp hi)]
  unfold overlay
  dsimp only
  rw [hxs, List.map_map, List.filterMap_map]
  refine Prod.ext ?_ (congrArg (maskOf ∘ wordsOf) ?_)
  · refine List.ext_getElem (by simp) fun i hi hi' => ?_
    simp [List.getElem?_eq_getElem hi']
  · rw [← List.filterMap_eq_map]
    rfl

/-- The bytes of a near-cache line at an offset. -/
def NearLine.at (x : NearLine) (off n : Nat) : List Byte := (x.bytes.drop off).take n

/-- The words of the bytes [off, off + n) of a line. -/
def wordMask (off n : Nat) : Nat := maskOf (wordsOf ((List.range n).map fun i => off + i))

/-- What stands in the way of a near-cache hit is out of it: the home die answers, no reduction or own write of the thread
is on its way to the bytes, and the line is there without poison. -/
structure NearHit (s : State) (a : Word) (n : Nat) (tr : Trans) (x : NearLine) : Prop where
  isOpen : Claims.globalOpen s a n .read tr
  answers : dieHeld s (lineDie tr.line) = false
  unreduced : redPending s s.cur.1 s.cur.2 tr.line tr.off n = false
  unasked : answerFor s a 0 = none
  unwritten : ∀ i, i < n → ownByte s s.cur.1 s.cur.2 tr.line (tr.off + i) = none
  near : AMap.get s.myCore.near (nearIdx tr.key tr.line) = some x
  key : x.key = tr.key
  sound : nearPoison x (baseWords s s.cur.1 s.cur.2 tr.line tr.off n) = false
  inside : tr.off + n ≤ x.bytes.length
  pos : 0 < n

section Hit
variable {s : State} {a : Word} {n : Nat} {tr : Trans} {x : NearLine}

theorem readAny_of_nearHit (h : NearHit s a n tr x) (k : State → List Byte → Eff) : readAny s a n 0 false true k =
    endRead s a tr true (x.at tr.off n) x.fv (wordMask tr.off n) 0 k := by
  obtain ⟨hopen, hanswers, hred, hunasked, hown, hnear, hkey, hsound, hinside, hpos⟩ := h
  have hbase : needsBase s s.cur.1 s.cur.2 tr.line tr.off n = true :=
    List.any_eq_true.mpr ⟨0, List.mem_range.mpr hpos, by rw [hown 0 hpos]; rfl⟩
  have hlen : (x.at tr.off n).length = n := by
    rw [NearLine.at, List.length_take, List.length_drop]
    omega
  have hover := overlay_of_none (base := x.at tr.off n) (by rwa [hlen])
  rw [hlen] at hover
  rw [readAny_of_globalOpen hopen, globalRead]
  obtain ⟨-, hhost, -, -, hmeets⟩ := hopen
  simp only [← State.myCore.eq_def, hmeets, hhost, hanswers, hred, hunasked, hbase, hnear, hkey, hsound, Bool.false_eq_true,
    if_false, if_true, reduceCtorEq]
  exact congrArg (fun r => endRead s a tr true r.1 x.fv r.2 0 k) hover

/-- A read that is not recorded goes on with its bytes. -/
theorem endRead_of_unrecorded (h : tr.checked = false ∨ tr.content = true ∨ s.me.priv = true) (bytes : List Byte)
    (rv mask : Nat) (k : State → List Byte → Eff) : endRead s a tr true bytes rv mask 0 k = k s bytes := by
  have hoff : (true && tr.checked && !tr.content && !s.me.priv) = false := by
    rcases h with h | h | h <;> simp [h]
  simp only [endRead, hoff, Bool.false_eq_true, if_false, if_true]

/-- The read set with one line more. -/
def recorded (s : State) (tr : Trans) (a : Word) (rv mask : Nat) : State := s.modMe fun t => { t with rgn := { t.rgn with
  reads := AMap.set t.rgn.reads tr.line { pa := tr.pa - tr.off, va := a.toNat - tr.off, rv := rv, mask := mask } } }

/-- A recorded read of a new line joins the read set where that has room. -/
theorem endRead_of_recorded (hchecked : tr.checked = true) (hcontent : tr.content = false) (hpriv : s.me.priv = false)
    (hnew : AMap.get s.me.rgn.reads tr.line = none) (hroom : s.me.rgn.reads.length < 64) (bytes : List Byte) (rv : Nat)
    {mask : Nat} (hmask : mask ≠ 0) (k : State → List Byte → Eff) :
    endRead s a tr true bytes rv mask 0 k = k (recorded s tr a rv mask) bytes := by
  simp only [endRead, hchecked, hcontent, hpriv, recordRead, hmask, hnew, hroom, Bool.not_false,
    Bool.and_true, if_true, if_false]
  rfl

end Hit

theorem effLd_of_nearHit {s : State} {t : ITy} {u : Bool} {d : Fin 64} {m : Mem} {tr : Trans} {x : NearLine}
    (hal : (memAddr s m (iBytes t)).toNat % iBytes t = 0) (h : NearHit s (memAddr s m (iBytes t)) (iBytes t) tr x) :
    effLd t u d m s = endRead s (memAddr s m (iBytes t)) tr true (x.at tr.off (iBytes t)) x.fv (wordMask tr.off (iBytes t)) 0
      fun s1 bytes => .ok (s1.wrG d.val (extend u bytes)) := by
  rw [effLd, aligned_of_dvd hal, readAny_of_nearHit h]

theorem wordMask_ne_zero (off : Nat) {n : Nat} (hn : 0 < n) : wordMask off n ≠ 0 := by
  intro hzero
  have hbit := (testBit_maskOf_range off n (off / 4)).mpr ⟨hn, le_refl _, by omega⟩
  rw [← wordMask, hzero, Nat.zero_testBit] at hbit
  cases hbit

/-- Settles O14: a hit gives the line's bytes; what differs is whether the read set takes the line. -/
theorem globalLoads : Obligations.GlobalLoads := by
  intro h t u d m s tr x hg n a hal hopen hanswers hred hunasked hown hnear hkey hsound hinside hpos v
  have hlen : (x.at tr.off n).length = n := by
    rw [NearLine.at, List.length_take, List.length_drop]
    omega
  have hvalue : extend u (x.at tr.off n) = v := extend_eq_loaded u hlen
  have heff := effLd_of_nearHit (u := u) (d := d) hal
    ⟨hopen, hanswers, hred, hunasked, hown, hnear, hkey, hsound, hinside, hpos⟩
  refine ⟨fun hunrecorded => ?_, fun hchecked hcontent hpriv hnew hroom => ?_⟩
  · refine run_ok (e := effLd t u d m) hg ((heff.trans (endRead_of_unrecorded hunrecorded ..)).trans ?_)
    exact congrArg (fun y => Eff.ok (s.wrG d.val y)) hvalue
  · have hbooks : OwnBooks s (recorded s tr a x.fv (wordMask tr.off n)) := .modMe s fun _ => ⟨_, _, _, _, rfl⟩
    have hrecorded := endRead_of_recorded (a := a) hchecked hcontent hpriv hnew hroom (x.at tr.off n) x.fv
      (wordMask_ne_zero tr.off hpos) fun s1 bytes => .ok (s1.wrG d.val (extend u bytes))
    refine ⟨_, run_ok (e := effLd t u d m) hg (heff.trans hrecorded), ?_, ?_, ?_,
      { pa := tr.pa - tr.off, va := a.toNat - tr.off, rv := x.fv, mask := wordMask tr.off n }, ?_, rfl, fun i _ => ?_⟩
    · rw [rdG_retire_wrG hbooks.keepsRegisters, hvalue]
      by_cases hd : d.val = 0
      · rw [if_neg fun h => h.2 hd, if_pos hd, hd, Thread.rdG_zero]
      · rw [if_pos ⟨rfl, hd⟩, if_neg hd]
    · rw [retire_me, Thread.retire_pc]
    · rw [retire_mem, State.wrG_mem]
      rfl
    · rw [(sameLines_retire ..).2.1, (sameLines_wrG ..).2.1, recorded, State.me_modMe]
      exact AMap.get_set_self ..
    · exact (testBit_maskOf_range tr.off n i).trans (and_iff_right hpos)

/-! ### Stores (R263, R264) -/

section Stores
variable {s : State} {a : Word} {tr : Trans} {bs : List Byte}

/-- The region with bytes in the held line of a translation (M2). -/
def heldPut (s : State) (a : Word) (tr : Trans) (bs : List Byte) : State := s.modMe fun t => { t with rgn := { t.rgn with
  held := AMap.set t.rgn.held tr.line ((heldOf t.rgn a.toNat tr).put (byteMap tr.off bs)) } }

/-- The write queue with one write more, and what that write shades (R262, R263). -/
def queuedWrite (s : State) (w : QWrite) : State := s.modMe fun t => { t with wq := t.wq ++ [w], rgn := shade t.rgn w }

/-- The write that a store to module DRAM queues. -/
def storeWrite (tr : Trans) (bs : List Byte) : QWrite :=
  { host := false, line := tr.line, off := tr.off, checked := tr.checked, key := tr.key, op := .store bs }

section Open
variable (hopen : Claims.globalOpen s a bs.length .write tr)
include hopen

theorem globalWrite_of_held (hchecked : tr.checked = true) (hpriv : s.me.priv = false)
    (hroom : (AMap.get s.me.rgn.held tr.line).isSome = true ∨ s.me.rgn.held.length < 64) (k : State → Eff) :
    globalWrite s a tr bs false k = k (heldPut s a tr bs) := by
  obtain ⟨-, hhost, -, -, hmeets⟩ := hopen
  have hroom' : ((AMap.get s.me.rgn.held tr.line).isSome || decide (s.me.rgn.held.length < 64)) = true := by
    rwa [Bool.or_eq_true, decide_eq_true_iff]
  simp only [globalWrite, hmeets, hhost, hchecked, hpriv, holdWrite, hroom', Bool.not_false, Bool.and_true, Bool.true_or,
    Bool.false_eq_true, if_false, if_true]
  rfl

theorem globalWrite_of_queued (hpasses : tr.checked = false ∨ s.me.priv = true) (hroom : wqFull s.myCore = false)
    (k : State → Eff) : globalWrite s a tr bs false k = k (queuedWrite s (storeWrite tr bs)) := by
  obtain ⟨-, hhost, -, -, hmeets⟩ := hopen
  have hunheld : (!tr.host && tr.checked && !s.me.priv && (!false || tolDefers s)) = false := by
    rcases hpasses with h | h <;> simp [h]
  rw [globalWrite, hmeets, if_neg (by decide), hunheld, if_neg (by decide), hhost, if_neg (by decide), pushWq, hroom,
    if_neg (by decide)]
  rfl

end Open

/-- A queued write shades held bytes, and nothing else of the region. -/
theorem shade_spec (r : Region) (w : QWrite) : (shade r w).reads = r.reads ∧ (shade r w).written = r.written ∧
    (shade r w).conflict = r.conflict ∧
    ∀ hl, (AMap.get (shade r w).held hl).map HeldLine.bytes = (AMap.get r.held hl).map HeldLine.bytes := by
  unfold shade
  split
  · exact ⟨rfl, rfl, rfl, fun _ => rfl⟩
  · split
    · next l _ hget _ =>
      refine ⟨rfl, rfl, rfl, fun hl => ?_⟩
      rw [AMap.get_set]
      split
      · next hline => rw [hline, hget]; rfl
      · rfl
    · exact ⟨rfl, rfl, rfl, fun _ => rfl⟩

theorem keepsRegisters_queuedWrite (s : State) (w : QWrite) : KeepsRegisters s (queuedWrite s w) := by
  constructor
  · rfl
  all_goals rw [queuedWrite, State.me_modMe]

end Stores

theorem effSt_of_globalOpen {s : State} {t : ITy} {m : Mem} {x : GSrc} {tr : Trans}
    (hal : (memAddr s m (iBytes t)).toNat % iBytes t = 0)
    (hopen : Claims.globalOpen s (memAddr s m (iBytes t)) (lowBytes (iBytes t) (readGSrc s x)).length .write tr) :
    effSt t m x s = globalWrite s (memAddr s m (iBytes t)) tr (lowBytes (iBytes t) (readGSrc s x)) false Eff.ok := by
  rw [effSt, aligned_of_dvd hal, writeAny_of_globalOpen hopen]

/-- Settles O15: a store to a checked page goes to the region buffer, any other to the write queue. -/
theorem globalStores : Obligations.GlobalStores := by
  intro h t m x s tr hg n a bs hal hopen
  have hlen : bs.length = n := length_toBytes ..
  replace hopen : Claims.globalOpen s a bs.length .write tr := by rwa [hlen]
  have heff : effSt t m x s = globalWrite s a tr bs false Eff.ok := effSt_of_globalOpen hal hopen
  refine ⟨fun hchecked hpriv hroom => ?held, fun hpasses hroom => ?queued⟩
  case held =>
    have hbooks : OwnBooks s (heldPut s a tr bs) := .modMe s fun _ => ⟨_, _, _, _, rfl⟩
    have hheld : (retire (heldPut s a tr bs) (s.me.pc + 12) h.yields).me.rgn.held =
        AMap.set s.me.rgn.held tr.line ((heldOf s.me.rgn a.toNat tr).put (byteMap tr.off bs)) := by
      rw [retire_me, Thread.retire_rgn, heldPut, State.me_modMe]
    refine ⟨_, (heldOf s.me.rgn a.toNat tr).put (byteMap tr.off bs),
      run_ok (e := effSt t m x) hg (heff.trans (globalWrite_of_held hopen hchecked hpriv hroom _)),
      hbooks.keepsRegisters.onlyPc _, ?_, ?_, ?_, fun i hi => ?_, fun hl hne => ?_⟩
    · rw [retire_mem]
      rfl
    · rw [retire_me, Thread.retire_wq, heldPut, State.me_modMe]
    · rw [hheld, AMap.get_set_self]
    · refine (get_foldl_byteMap _ tr.off bs (tr.off + i)).trans ?_
      rw [if_pos (by omega), Nat.add_sub_cancel_left]
    · rw [hheld, AMap.get_set_of_ne _ _ hne]
  case queued =>
    obtain ⟨hreads, hwritten, hconflict, hheld⟩ := shade_spec s.me.rgn (storeWrite tr bs)
    have hrgn : (retire (queuedWrite s (storeWrite tr bs)) (s.me.pc + 12) h.yields).me.rgn =
        shade s.me.rgn (storeWrite tr bs) := by
      rw [retire_me, Thread.retire_rgn, queuedWrite, State.me_modMe]
    refine ⟨_, run_ok (e := effSt t m x) hg (heff.trans (globalWrite_of_queued hopen hpasses hroom _)),
      (keepsRegisters_queuedWrite s _).onlyPc _, ?_, ?_, ?_, ?_, fun hl => ?_, ?_⟩
    · rw [retire_mem]
      rfl
    · rw [hrgn, hreads]
    · rw [hrgn, hwritten]
    · rw [hrgn, hconflict]
    · rw [hrgn, hheld]
    · rw [retire_me, Thread.retire_wq, queuedWrite, State.me_modMe]
      rfl

end Sys2Proof.Machine

/-! PROOFS. O20: `pref`, `cfl` and `cinv` (R279 to R281). -/

namespace Sys2Proof.Machine

open Sys2Proof

/-! ### A translation for line maintenance (R250, R279) -/

section Soft
variable {s : State} {a : Word} {tr : Trans}

/-- The acting thread is as before. -/
def SameMe (s t : State) : Prop := t.cur = s.cur ∧ t.me = s.me

theorem SameMe.keepsRegisters {s t : State} (h : SameMe s t) : KeepsRegisters s t := by
  obtain ⟨hcur, hme⟩ := h
  constructor
  · exact hcur
  all_goals rw [hme]

theorem sameMe_modCore {s t : State} (h : SameMe s t) (c : Nat) {f : Core → Core} (hf : ∀ x, (f x).slots = x.slots) :
    SameMe s (t.modCore c f) := ⟨h.1, (State.thread_modCore _ _ _ _ _ hf).trans h.2⟩

theorem sameMe_walkFill (s : State) (cl sp : Nat) (ispace : Bool) (cls : Cls) (kind : WalkKind) (va : Nat) :
    SameMe s (walkFill s cl sp ispace cls kind va).2.2 := by
  unfold walkFill
  dsimp only
  split
  · exact ⟨rfl, rfl⟩
  · exact ⟨rfl, rfl⟩

/-- A translation changes TLBs and the page tables' a and d bits alone. -/
theorem sameMe_xlateCore (s : State) (c sp : Nat) (kind : WalkKind) (va : Nat) : SameMe s (xlateCore s c sp kind va).2 := by
  have hfill := sameMe_walkFill s (clusterOf c) sp false .compute kind va
  unfold xlateCore
  dsimp only
  split
  · exact ⟨rfl, rfl⟩
  · split
    · exact ⟨rfl, rfl⟩
    · split
      · exact sameMe_modCore ⟨rfl, rfl⟩ c fun _ => rfl
      · split
        · next hwalk =>
          rw [hwalk] at hfill
          exact sameMe_modCore hfill c fun _ => rfl
        · next hwalk =>
          rw [hwalk] at hfill
          exact hfill

theorem sameMe_softTrans (s : State) (a : Word) : SameMe s (softTrans s a).2 := by
  have hwalk := sameMe_xlateCore s s.cur.1 s.me.place.spaceid .read a.toNat
  unfold softTrans
  split
  · split
    · next hx =>
      rw [hx] at hwalk
      split
      · exact hwalk
      · exact hwalk
    · exact ⟨rfl, rfl⟩
  all_goals exact ⟨rfl, rfl⟩

theorem softTrans_of_not_global (h : decodeAddr a ≠ .global) : softTrans s a = (none, s) := by
  unfold softTrans
  cases ha : decodeAddr a with
  | global => exact absurd ha h
  | own | peer | view | badWindow | nonCanon => rfl

theorem softTrans_of_tlbHit (h : Claims.tlbHit s a .read tr) :
    softTrans s a = (if tr.host then none else some tr, s) := by
  obtain ⟨ha, hcanon, -, e, hfind, rfl⟩ := h
  have hx : xlateCore s s.cur.1 s.me.place.spaceid .read a.toNat = ((0, e.trans (a.toNat % 2 ^ 57)), s) := by
    simp only [xlateCore, hcanon, ← State.myCore.eq_def, hfind, Bool.not_true, Bool.false_eq_true, if_false]
  simp only [softTrans, ha, hx]
  exact (apply_ite (fun x => (x, s)) ..).symm

end Soft

/-! ### pref and cinv (R279, R281) -/

section Near
variable {s : State} {m : Mem} {tr : Trans}

theorem sameMe_nearFill (s : State) (c hl key : Nat) : SameMe s (nearFill s c hl key) :=
  sameMe_modCore ⟨rfl, rfl⟩ c fun _ => rfl

theorem sameMe_nearDrop (s : State) (c i : Nat) : SameMe s (nearDrop s c i) := ⟨rfl, me_nearDrop ..⟩

/-- What the two instructions come to: a translation, then at most a change of the near cache. -/
theorem effPref_ok (m : Mem) (s : State) : ∃ t, effPref m s = .ok t ∧ SameMe s t := by
  have hsoft := sameMe_softTrans s (memAddr s m 8)
  unfold effPref
  split
  · next hx =>
    rw [hx] at hsoft
    split
    · exact ⟨_, rfl, hsoft⟩
    · obtain ⟨hcur, hme⟩ := sameMe_nearFill _ _ _ _
      exact ⟨_, rfl, hcur.trans hsoft.1, hme.trans hsoft.2⟩
  · next hx =>
    rw [hx] at hsoft
    exact ⟨_, rfl, hsoft⟩

theorem effCinv_ok (m : Mem) (s : State) : ∃ t, effCinv m s = .ok t ∧ SameMe s t := by
  have hsoft := sameMe_softTrans s (memAddr s m 8)
  unfold effCinv
  split
  · next hx =>
    rw [hx] at hsoft
    obtain ⟨hcur, hme⟩ := sameMe_nearDrop _ _ _
    exact ⟨_, rfl, hcur.trans hsoft.1, hme.trans hsoft.2⟩
  · next hx =>
    rw [hx] at hsoft
    exact ⟨_, rfl, hsoft⟩

/-- Where there is no line of module DRAM to be had, they do nothing. -/
theorem prefetch_of_untranslated {h : Hdr} (hg : guardHolds s h = true) (hsoft : softTrans s (memAddr s m 8) = (none, s)) :
    exec (.pref h m) s = Claims.retired h s s ∧ exec (.cinv h m) s = Claims.retired h s s :=
  ⟨run_ok (e := effPref m) hg (by rw [effPref, hsoft]), run_ok (e := effCinv m) hg (by rw [effCinv, hsoft])⟩

theorem effPref_of_translated (h : softTrans s (memAddr s m 8) = (some tr, s))
    (hanswers : dieHeld s (lineDie tr.line) = false) :
    effPref m s = .ok (nearFill s s.cur.1 tr.line tr.key) := by
  simp only [effPref, h, hanswers, Bool.false_eq_true, if_false]

theorem effCinv_of_translated (h : softTrans s (memAddr s m 8) = (some tr, s)) :
    effCinv m s = .ok (nearDrop s s.cur.1 (nearIdx tr.key tr.line)) := by rw [effCinv, h]

theorem myCore_eq_of_cur {s t : State} (h : t.cur = s.cur) : t.myCore = t.core s.cur.1 := by rw [State.myCore, h]

end Near

/-! ### cfl (R280) -/

section Flush
variable {s : State} {m : Mem} {tr : Trans}

/-- The answer kind that a flush waits for. -/
def flushKind (evict : Bool) : Nat := if evict then 7 else 3

theorem flushLine_of_window (evict : Bool) (h : wfld (memAddr s m 8) 56 8 = 0xFE) : flushLine evict m s = .ok s := if_pos h

/-- A global address is none of a window's. -/
theorem not_window_of_global {a : Word} (h : decodeAddr a = .global) : wfld a 56 8 ≠ 0xFE := by
  intro hwindow
  unfold decodeAddr at h
  rw [if_pos hwindow] at h
  repeat' split at h
  all_goals cases h

theorem flushLine_of_host (evict : Bool) (hhit : Claims.tlbHit s (memAddr s m 8) .read tr) (hhost : tr.host = true) :
    flushLine evict m s = .ok s := by
  rw [flushLine, if_neg (not_window_of_global hhit.1), withTrans_of_tlbHit hhit, hhost, if_pos rfl]

section Dram
variable (hhit : Claims.tlbHit s (memAddr s m 8) .read tr) (hhost : tr.host = false)
include hhit hhost

theorem flushLine_of_answered (evict : Bool) {e : Answer} (hanswer : answerFor s (memAddr s m 8) (flushKind evict) = some e)
    (hready : e.ready = true) : flushLine evict m s = .ok s := by
  rw [flushKind] at hanswer
  rw [flushLine, if_neg (not_window_of_global hhit.1), withTrans_of_tlbHit hhit, hhost, if_neg (by decide), hanswer]
  exact if_pos hready

theorem flushLine_of_clean (evict : Bool) (hanswer : answerFor s (memAddr s m 8) (flushKind evict) = none)
    (hclean : s.mem.dirty.contains tr.line = false) : flushLine evict m s =
      .ok (if evict then s.modMem fun m => m.evict fun e => e.line == tr.line else s) := by
  rw [flushKind] at hanswer
  rw [flushLine, if_neg (not_window_of_global hhit.1), withTrans_of_tlbHit hhit, hhost, if_neg (by decide), hanswer]
  exact if_neg (by rw [hclean]; decide)

end Dram

theorem entry_evict (m : Memory) (hl : Nat) : (m.evict fun e => e.line == hl).entry hl = none := by
  refine List.find?_eq_none.mpr fun e he => ?_
  obtain ⟨-, hline⟩ := List.mem_filter.mp he
  simpa using hline

end Flush

/-- Settles O20: each instruction by what its address names. -/
theorem lineMaintenance : Obligations.LineMaintenance := by
  intro h m s tr hg a
  refine ⟨?pref, ?cinv, ?cinvAll, fun ha => ?unnamed, fun ha => ?window, fun hhit hhost => ?host,
    fun hhit hhost => ⟨fun hanswers => ?fills, ?drops, fun hclean hready => ?flushed, fun e hanswer hready => ?evicted,
      fun hanswer hclean => ?evicts⟩⟩
  case pref =>
    obtain ⟨t, heff, hme⟩ := effPref_ok m s
    exact ⟨_, run_ok (e := effPref m) hg heff, hme.keepsRegisters.onlyPc _⟩
  case cinv =>
    obtain ⟨t, heff, hme⟩ := effCinv_ok m s
    exact ⟨_, run_ok (e := effCinv m) hg heff, hme.keepsRegisters.onlyPc _⟩
  case cinvAll =>
    have hme : SameMe s (nearClear s s.cur.1) := sameMe_modCore ⟨rfl, rfl⟩ _ fun _ => rfl
    refine ⟨_, run_ok (e := effCinvAll) hg rfl, hme.keepsRegisters.onlyPc _, ?_, retire_mem ..⟩
    rw [near_retire, myCore_eq_of_cur hme.1, nearClear, State.core_modCore_self]
  case unnamed =>
    exact prefetch_of_untranslated hg (softTrans_of_not_global ha)
  case window =>
    exact ⟨run_ok (e := effCfl m) hg (flushLine_of_window false ha),
      run_ok (e := effCflEvict m) hg (flushLine_of_window true ha)⟩
  case host =>
    have hsoft : softTrans s a = (none, s) := (softTrans_of_tlbHit hhit).trans (by rw [hhost, if_pos rfl])
    obtain ⟨hpref, hcinv⟩ := prefetch_of_untranslated hg hsoft
    exact ⟨hpref, hcinv, run_ok (e := effCfl m) hg (flushLine_of_host false hhit hhost),
      run_ok (e := effCflEvict m) hg (flushLine_of_host true hhit hhost)⟩
  case fills =>
    have hsoft : softTrans s a = (some tr, s) := (softTrans_of_tlbHit hhit).trans (by rw [hhost, if_neg (by decide)])
    have hme := sameMe_nearFill s s.cur.1 tr.line tr.key
    obtain ⟨x, hnear, hline⟩ := near_nearFill s s.cur.1 tr.line tr.key
    refine ⟨_, x, run_ok (e := effPref m) hg (effPref_of_translated hsoft hanswers), hme.keepsRegisters.onlyPc _, ?_, hline⟩
    rwa [near_retire, myCore_eq_of_cur hme.1]
  case drops =>
    have hsoft : softTrans s a = (some tr, s) := (softTrans_of_tlbHit hhit).trans (by rw [hhost, if_neg (by decide)])
    have hme := sameMe_nearDrop s s.cur.1 (nearIdx tr.key tr.line)
    refine ⟨_, run_ok (e := effCinv m) hg (effCinv_of_translated hsoft), hme.keepsRegisters.onlyPc _, ?_, fun i hi => ?_⟩
    · rw [near_retire, myCore_eq_of_cur hme.1, near_nearDrop, AMap.get_del_self]
    · rw [near_retire, myCore_eq_of_cur hme.1, near_nearDrop, AMap.get_del_of_ne _ hi]
      rfl
  case flushed =>
    refine run_ok (e := effCfl m) hg ?_
    cases hanswer : answerFor s a 3 with
    | none => exact flushLine_of_clean hhit hhost false hanswer (hclean hanswer)
    | some e => exact flushLine_of_answered hhit hhost false hanswer (hready e hanswer)
  case evicted => exact run_ok (e := effCflEvict m) hg (flushLine_of_answered hhit hhost true hanswer hready)
  case evicts =>
    refine ⟨_, run_ok (e := effCflEvict m) hg (flushLine_of_clean hhit hhost true hanswer hclean),
      (SameMe.keepsRegisters ⟨rfl, rfl⟩).onlyPc _, ?_, ?_⟩
    · rw [Claims.sameMem, retire_mem]
      exact ⟨rfl, rfl, rfl, rfl⟩
    · rw [retire_mem]
      exact entry_evict s.mem tr.line

end Sys2Proof.Machine
